-- ==== Sys2Proof/Word.lean ====
section
/-! DEFINITION. The plain word types of the manual (R4 to R6) and the type of a sparse table. -/

namespace Sys2Proof

/-- A byte. -/
abbrev Byte := BitVec 8
/-- A 32-bit register, syllable or word. -/
abbrev Word := BitVec 32
/-- A 64-bit register, tag half or payload half. -/
abbrev W64 := BitVec 64
/-- A capability, or a cell: payload in the upper 64 bits, tag in the lower 64 bits (R5). -/
abbrev W128 := BitVec 128
/-- Sparse data by number, kept in one canonical form: keys strictly rising, no entry equal to the default. -/
abbrev Tbl (α : Type) := List (Nat × α)

end Sys2Proof
end

