-- ==== Sys2Proof/Syntax.lean ====
section
/-! DEFINITION. The commands of the block: one constructor per row of spec/opcode_table.json, with the row's operands. The
rows of the tables of chapters 5 to 10 that stand for engine instructions name the engine whose present bundle holds the
instruction; what a command brings from outside the block (a bus write, DRAM bytes, a frame) is its operands. -/

namespace Sys2Proof

/-- What the Badger reads of an image source at the pre-check of a RELEASE: the bytes before the body, and body tiles by
number (R407). -/
structure SrcImage where
  head : List Byte
  tiles : List (Nat × List Byte)
  deriving DecidableEq, Repr

/-- What the sideband and the fuses supply (Table 15.2): the Vetchaos patch key, the customer patch key and the predictor key,
each an AES-256 key, and the customer key hash. Byte 0 of a key or a hash is bits 7:0. -/
structure SideKeys where
  vetKey : BitVec 256 := 0
  custKey : BitVec 256 := 0
  predKey : BitVec 256 := 0
  custHash : BitVec 256 := 0
  deriving DecidableEq, Repr

/-- What fails its parity as a main or sub-tick edge reads it (R315): ROUTINE.CTL copies by context, ready-list entries by
engine and context, and cells of the late queue and of the two chain buffers by position; and the tiles whose contents have failed
since the last command (R316), by class, instance and number. -/
structure EdgeFails where
  ctl : List Nat := []
  scan : List (Nat × Nat) := []
  late : List Nat := []
  buf0 : List Nat := []
  buf1 : List Nat := []
  tiles : List (Nat × Nat × Nat) := []
  deriving DecidableEq, Repr

/-- A command. -/
inductive Instr where
  /-- POWER_ON, R402. -/
  | powerOn
  /-- BLOCK_RESET, R526. -/
  | blockReset (cause : Nat)
  /-- KDIO_LONG_LOW, R467. -/
  | kdioLongLow
  /-- KDIO_LINE_ERROR, R467. -/
  | kdioLineError
  /-- BADGER_RELEASE, R526. -/
  | badgerRelease (romOk : Bool) (krst : Bool := false) (kdio : Bool := false)
  /-- SIDEBAND_READY, R404. -/
  | sidebandReady (blocks : List (List Byte)) (keys : SideKeys := {})
  /-- TBI_UPDATE, R524; `stalls` are stall cycles in D by engine (R262). -/
  | tbiUpdate (tbi : W64) (stalls : List (Nat × Nat) := [])
  /-- TIMEBASE_FORWARD_STEP, R28. -/
  | timebaseForwardStep (tbi : W64) (size : W64)
  /-- TIMEBASE_BACKWARD_STEP, R29. -/
  | timebaseBackwardStep (tbi : W64) (size : W64)
  /-- BATLOSS_RISE, R527. -/
  | batlossRise
  /-- VLOWACK_CHANGE, R528. -/
  | vlowackChange (level : Bool)
  /-- KSEAL_FILTER_CHANGE, R531. -/
  | ksealFilterChange (low : Bool)
  /-- HOST_LOW_WORD_READ, R7. -/
  | hostLowWordRead (off : Nat) (wide : Bool := false) (parity : Bool := false)
  /-- HOST_LOW_WORD_WRITE, R7. -/
  | hostLowWordWrite (off : Nat) (v : Word)
  /-- HOST_HIGH_WORD_WRITE, R7. -/
  | hostHighWordWrite (off : Nat) (v : Word)
  /-- MISALIGNED_HOST_ACCESS, R8. -/
  | misalignedHostAccess (off : Nat) (size : Nat) (write : Bool)
  /-- UNMAPPED_HOST_ACCESS, R502. -/
  | unmappedHostAccess (off : Nat) (size : Nat) (write : Bool)
  /-- REGISTER_WRITE, R10. -/
  | registerWrite (off : Nat) (wide : Bool) (v : W64)
  /-- AGE_LIMIT_WRITE, R68. -/
  | ageLimitWrite (v : Word)
  /-- HOSTQ_CELL_POP, R78. -/
  | hostqCellPop (parityFail : Bool := false)
  /-- CLUSTER_WORST_READ, R51. -/
  | clusterWorstRead (k : Nat)
  /-- LISTMAX_READ, R100. -/
  | listmaxRead (k : Nat)
  /-- HMB_CPL_READ, R510. -/
  | hmbCplRead
  /-- EVENT_CLAIM, R339. -/
  | eventClaim (c : Nat)
  /-- EVENT_EOI, R340. -/
  | eventEoi (c : Nat) (v : Word)
  /-- SOURCE_INSVC_CLEAR, R340. -/
  | sourceInsvcClear (src : Nat)
  /-- SOURCE_PEND_CLEAR, R333. -/
  | sourcePendClear (src : Nat)
  /-- SOFTWARE_EVENT_SET, R330. -/
  | softwareEventSet (w : Nat) (v : Word)
  /-- SOFTWARE_EVENT_CLEAR, R330. -/
  | softwareEventClear (w : Nat) (v : Word)
  /-- SOURCE_DISABLE, R338. -/
  | sourceDisable (src : Nat) (v : Word)
  /-- HUB_DISABLE, R346. -/
  | hubDisable
  /-- POWER_REQUEST, R457. -/
  | powerRequest (d : Nat) (on : Bool)
  /-- DOMAIN_POWER_UP_DONE, R455. -/
  | domainPowerUpDone (d : Nat)
  /-- SEAL_PARAMETER_WRITE, R391. -/
  | sealParameterWrite (v : Word)
  /-- BATTERY_WRITE_DONE, R395. -/
  | batteryWriteDone (ok : Bool)
  /-- MOTH_ENABLE, R368. -/
  | mothEnable (m : Nat) (v : Word)
  /-- MOTH_DISABLE, R368. -/
  | mothDisable (m : Nat) (v : Word)
  /-- MOTH_PC_WRITE, R368. -/
  | mothPcWrite (m : Nat) (v : Word)
  /-- MOTH_IMEM_WRITE, R369. -/
  | mothImemWrite (m : Nat) (i : Nat) (v : Word)
  /-- MOTH_RESTART_WRITE, R370. -/
  | mothRestartWrite (m : Nat) (v : Word)
  /-- MOTH_CLOCK_WRITE, R353. -/
  | mothClockWrite (m : Nat) (v : Word)
  /-- MOTH_INJECT, R371. -/
  | mothInject (m : Nat) (v : Word)
  /-- MOTH_INJECTED_EXECUTE, R371. -/
  | mothInjectedExecute (m : Nat) (levels : Byte)
  /-- CONTEXT_VIEW_WRITE, R503. -/
  | contextViewWrite (off : Nat) (data : List Byte)
  /-- STAGING_BUFFER_WRITE, R318. -/
  | stagingBufferWrite (off : Nat) (data : List Byte)
  /-- DEBUG_UNLOCK, R475. -/
  | debugUnlock (v : Word)
  /-- DEBUG_UNLOCK_DONE, R475. -/
  | debugUnlockDone (blocks : List (List Byte))
  /-- HALT, R480. -/
  | halt (n : Nat)
  /-- RESUME, R482. -/
  | resume (n : Nat)
  /-- STEP, R482. -/
  | step (n : Nat)
  /-- LOCKFREE, R483. -/
  | lockfree (n : Nat)
  /-- DEBUG_HALT_TAKEN, R480. -/
  | debugHaltTaken (n : Nat)
  /-- DEBUG_DATA_READ, R487. -/
  | debugDataRead (n : Nat)
  /-- DEBUG_DATA_WRITE, R489. -/
  | debugDataWrite (n : Nat) (v : Word)
  /-- TERMINAL_TX_READ, R492. -/
  | terminalTxRead (n : Nat)
  /-- TERMINAL_RX_WRITE, R492. -/
  | terminalRxWrite (n : Nat) (v : Word)
  /-- SARERN_IDR, R470. -/
  | sarernIdr (op : Nat) (crc : Byte)
  /-- SARERN_RD, R471. -/
  | sarernRd (addr : Nat) (crc : Byte) (inTime : Bool)
  /-- SARERN_RDC, R471. -/
  | sarernRdc (addr : Nat) (crc : Byte) (inTime : Bool)
  /-- SARERN_WR, R471. -/
  | sarernWr (addr : Nat) (v : Word) (crc : Byte)
  /-- RELEASE, R416. -/
  | release (len : Nat) (pl : List Word) (imgA : SrcImage) (imgB : SrcImage)
  /-- HOLD, R425. -/
  | hold (len : Nat) (pl : List Word)
  /-- SET_PROFILE, R438. -/
  | setProfile (len : Nat) (pl : List Word)
  /-- SET_TICK, R35. -/
  | setTick (len : Nat) (pl : List Word)
  /-- RETIRE_ENGINE, R443. -/
  | retireEngine (len : Nat) (pl : List Word)
  /-- RESTORE_ENGINE, R450. -/
  | restoreEngine (len : Nat) (pl : List Word)
  /-- MIGRATE, R449. -/
  | migrate (len : Nat) (pl : List Word)
  /-- LOAD_UBANK, R307. -/
  | loadUbank (len : Nat) (pl : List Word)
  /-- LOAD_UBANK_DONE, R312. -/
  | loadUbankDone
  /-- SWAP_UBANK, R310. -/
  | swapUbank (len : Nat) (pl : List Word)
  /-- RELOAD_TILE, R326. -/
  | reloadTile (len : Nat) (pl : List Word) (bytes : List Byte) (refBad : Bool := false)
  /-- REMAP_MOTH, R372. -/
  | remapMoth (len : Nat) (pl : List Word)
  /-- ENUMERATE_CHAIN, R95. -/
  | enumerateChain (len : Nat) (pl : List Word)
  /-- SEAL_STATUS, R390. -/
  | sealStatus (len : Nat) (pl : List Word)
  /-- OPEN_SEAL, R388. -/
  | openSeal (len : Nat) (pl : List Word)
  /-- CLOSE_SEAL, R389. -/
  | closeSeal (len : Nat) (pl : List Word)
  /-- CLEAR_COUNTERS, R520. -/
  | clearCounters (len : Nat) (pl : List Word)
  /-- READ_FAULTS, R518. -/
  | readFaults (len : Nat) (pl : List Word) (bad : List Nat := [])
  /-- RELEASE_PRECHECK_PASS, R418. -/
  | releasePrecheckPass
  /-- RELEASE_TILE_COPY, R420. -/
  | releaseTileCopy (bytes : List Byte) (tcrc : Word)
  /-- RELEASE_READBACK_DONE, R422. -/
  | releaseReadbackDone
  /-- SETT_IDENT_REPORT, R392. -/
  | settIdentReport
  /-- MAIN_TICK_EDGE, R36. -/
  | mainTickEdge (fails : EdgeFails)
  /-- PUBLISH_RESERVE_START, R46. -/
  | publishReserveStart
  /-- FOX_SUBTICK_EDGE, R58. -/
  | foxSubtickEdge (fails : EdgeFails := {})
  /-- FOX_SUBTICK_RESERVE, R59. -/
  | foxSubtickReserve
  /-- SETT_TICK_EDGE, R378. -/
  | settTickEdge (tiles : List (Nat × Nat) := []) (lost : List Nat := [])
  /-- SETT_PUBLISH_RESERVE, R379. -/
  | settPublishReserve
  /-- QUEUE_AGE_SWEEP, R55. -/
  | queueAgeSweep
  /-- ROUTER_CELL, R75. -/
  | routerCell (k : Nat) (parityFail : Bool) (cyc : Nat)
  /-- INBOUND_CELL_ARRIVAL, R73. -/
  | inboundCellArrival (n : Nat) (bad : Bool := false) (badEntry : Bool := false)
  /-- HOST_QUEUE_ARRIVAL, R78. -/
  | hostQueueArrival
  /-- PUBLICATION_COPY_ACCEPT, R123. -/
  | publicationCopyAccept
  /-- PUBLICATION_ENTRY_WRITE, R127. -/
  | publicationEntryWrite
  /-- PUBLICATION_HEADER_DONE, R127. -/
  | publicationHeaderDone
  /-- HISTORY_COPY_ACCEPT, R133. -/
  | historyCopyAccept
  /-- HISTORY_ENTRY_WRITE, R134. -/
  | historyEntryWrite (parityFail : Bool := false)
  /-- HISTORY_ENTRY_COMPLETE, R134. -/
  | historyEntryComplete
  /-- GATEWAY_CELL_ARRIVAL, R367. -/
  | gatewayCellArrival (b : Nat)
  /-- GATEWAY_CELL_PASS, R366. -/
  | gatewayCellPass (b : Nat) (parityFail : Bool := false)
  /-- CELL_FRAME_RECEIVE, R92. -/
  | cellFrameReceive (p : Nat) (hdr : W64) (bodies : List W128) (crc : Word)
  /-- ENUMERATION_OFFER_RECEIVE, R95. -/
  | enumerationOfferReceive (p : Nat) (hdr : W64) (bodies : List W128) (crc : Word)
  /-- ENUMERATION_COMMIT_RECEIVE, R95. -/
  | enumerationCommitReceive (p : Nat) (hdr : W64) (bodies : List W128) (crc : Word)
  /-- RING_STATUS_RECEIVE, R91. -/
  | ringStatusReceive (p : Nat) (hdr : W64) (bodies : List W128) (crc : Word)
  /-- CHAIN_PORT_DOWN, R91. -/
  | chainPortDown (p : Nat) (retrain : Bool := false)
  /-- RING_STATUS_SEND, R91. -/
  | ringStatusSend (p : Nat)
  /-- BREAK_CLEAR_SEND, R91. -/
  | breakClearSend (p : Nat)
  /-- LANE_RETRAIN_DONE, R87. -/
  | laneRetrainDone (p : Nat) (working : Nat)
  /-- ENUMERATION_OFFER_TIMEOUT, R96. -/
  | enumerationOfferTimeout
  /-- TENTATIVE_ADDRESS_DROP, R96. -/
  | tentativeAddressDrop
  /-- ALU, R177. -/
  | alu (n : Nat)
  /-- ALU_IMMEDIATE, R179. -/
  | aluImmediate (n : Nat)
  /-- SHIFT_IMMEDIATE, R178. -/
  | shiftImmediate (n : Nat)
  /-- UNARY, R177. -/
  | unary (n : Nat)
  /-- SAT, R180. -/
  | sat (n : Nat)
  /-- CMP, R181. -/
  | cmp (n : Nat)
  /-- PLOG, R182. -/
  | plog (n : Nat)
  /-- GETP, R182. -/
  | getp (n : Nat)
  /-- SETP, R182. -/
  | setp (n : Nat)
  /-- MUL, R183. -/
  | mul (n : Nat)
  /-- DIV, R184. -/
  | div (n : Nat)
  /-- LOAD, R187. -/
  | load (n : Nat)
  /-- STORE, R187. -/
  | store (n : Nat)
  /-- LDC, R189. -/
  | ldc (n : Nat)
  /-- STC, R189. -/
  | stc (n : Nat)
  /-- FENCE, R192. -/
  | fence (n : Nat)
  /-- FAR_LOAD_DATA, R191. -/
  | farLoadData (n : Nat) (data : Option W128)
  /-- FAR_STORE_ACCEPT, R191. -/
  | farStoreAccept (n : Nat) (ok : Bool)
  /-- FAR_STORE_COMPLETE, R165. -/
  | farStoreComplete (n : Nat)
  /-- CMOV, R193. -/
  | cmov (n : Nat)
  /-- CSETB, R194. -/
  | csetb (n : Nat)
  /-- CSETL, R194. -/
  | csetl (n : Nat)
  /-- CSETBL, R194. -/
  | csetbl (n : Nat)
  /-- CANDP, R193. -/
  | candp (n : Nat)
  /-- CGETB, R193. -/
  | cgetb (n : Nat)
  /-- CGETL, R193. -/
  | cgetl (n : Nat)
  /-- CGETP, R193. -/
  | cgetp (n : Nat)
  /-- CGETT, R193. -/
  | cgett (n : Nat)
  /-- CSEAL, R236. -/
  | cseal (n : Nat)
  /-- CUNSEAL, R236. -/
  | cunseal (n : Nat)
  /-- CSENTRY, R236. -/
  | csentry (n : Nat)
  /-- BR, R197. -/
  | br (n : Nat)
  /-- BLC, R198. -/
  | blc (n : Nat)
  /-- JR, R199. -/
  | jr (n : Nat)
  /-- CJ, R200. -/
  | cj (n : Nat)
  /-- CJO, R200. -/
  | cjo (n : Nat)
  /-- REP, R170. -/
  | rep (n : Nat)
  /-- REPI, R170. -/
  | repi (n : Nat)
  /-- BIT, R205. -/
  | bit (n : Nat)
  /-- FLD, R206. -/
  | fld (n : Nat)
  /-- CRC_STEP, R208. -/
  | crcStep (n : Nat)
  /-- CRCINIT, R209. -/
  | crcinit (n : Nat)
  /-- CRCFIN, R209. -/
  | crcfin (n : Nat)
  /-- CRCBLK, R210. -/
  | crcblk (n : Nat)
  /-- FOP, R212. -/
  | fop (n : Nat)
  /-- FDIV, R216. -/
  | fdiv (n : Nat)
  /-- FSQRT, R216. -/
  | fsqrt (n : Nat)
  /-- FCMP, R214. -/
  | fcmp (n : Nat)
  /-- FCVT, R215. -/
  | fcvt (n : Nat)
  /-- TPOP, R219. -/
  | tpop (n : Nat)
  /-- TPEEK, R219. -/
  | tpeek (n : Nat)
  /-- TPUSH, R220. -/
  | tpush (n : Nat)
  /-- TPOPR, R221. -/
  | tpopr (n : Nat)
  /-- TPUSHR, R221. -/
  | tpushr (n : Nat)
  /-- CTXOPEN, R224. -/
  | ctxopen (n : Nat)
  /-- CTXCOMMIT, R225. -/
  | ctxcommit (n : Nat)
  /-- CTXLOCK, R226. -/
  | ctxlock (n : Nat)
  /-- CTXUNLOCK, R226. -/
  | ctxunlock (n : Nat)
  /-- CTXDROP, R225. -/
  | ctxdrop (n : Nat)
  /-- DISPATCH, R227. -/
  | dispatch (n : Nat)
  /-- LOCK_WAIT_END, R114. -/
  | lockWaitEnd (n : Nat) (cyc : Nat)
  /-- LOCK_WAIT_TIMEOUT, R116. -/
  | lockWaitTimeout (n : Nat)
  /-- DISPATCH_ENTRY_READY, R82. -/
  | dispatchEntryReady (n : Nat)
  /-- TICKWAIT, R229. -/
  | tickwait (n : Nat)
  /-- TICKWAIT_EDGE, R229. -/
  | tickwaitEdge (n : Nat)
  /-- TWR, R230. -/
  | twr (n : Nat)
  /-- TRD, R230. -/
  | trd (n : Nat)
  /-- MFS, R231. -/
  | mfs (n : Nat)
  /-- MTS, R231. -/
  | mts (n : Nat)
  /-- CMFS, R231. -/
  | cmfs (n : Nat)
  /-- CMTS, R231. -/
  | cmts (n : Nat)
  /-- ERET, R246. -/
  | eret (n : Nat) (bankBad : Bool := false)
  /-- SYSC, R232. -/
  | sysc (n : Nat)
  /-- BRK, R232. -/
  | brk (n : Nat)
  /-- CUSTOM_INSTRUCTION, R234. -/
  | customInstruction (n : Nat)
  /-- MICROROUTINE_COMPLETE, R284. -/
  | microroutineComplete (n : Nat) (cyc : Nat)
  /-- MICROWORD_REPAIR_DONE, R297. -/
  | microwordRepairDone (n : Nat) (entry : Bool) (adr : Nat) (ok : Bool)
  /-- EVENT_ENTRY, R241. -/
  | eventEntry (n : Nat)
  /-- SETT_MAILBOX_COMMIT, R385. -/
  | settMailboxCommit
  /-- EVENT_SOURCE_PENDING, R333. -/
  | eventSourcePending (src : Nat)
  /-- PIN_FILTER_CHANGE, R332. -/
  | pinFilterChange (p : Nat) (v : Bool) (cyc : Nat := 0)
  /-- EVENT_OFFER, R337. -/
  | eventOffer
  /-- HOLDOFF_EXPIRE, R344. -/
  | holdoffExpire (g : Nat)
  /-- MOTH_NOP, R356. -/
  | mothNop (m : Nat)
  /-- MOTH_SHOUT, R356. -/
  | mothShout (m : Nat) (cyc : Nat)
  /-- MOTH_SHIN, R356. -/
  | mothShin (m : Nat) (bits : List Bool)
  /-- MOTH_EDGE, R358. -/
  | mothEdge (m : Nat) (level : Bool)
  /-- MOTH_EDGE_MET, R358. -/
  | mothEdgeMet (m : Nat) (held : Bool := false)
  /-- MOTH_EDGE_TIMEOUT, R358. -/
  | mothEdgeTimeout (m : Nat)
  /-- MOTH_SAMPLE, R356. -/
  | mothSample (m : Nat) (levels : Byte)
  /-- MOTH_DRIVE, R356. -/
  | mothDrive (m : Nat)
  /-- MOTH_TOGGLE, R356. -/
  | mothToggle (m : Nat)
  /-- MOTH_LOOP, R356. -/
  | mothLoop (m : Nat)
  /-- MOTH_COUNT, R359. -/
  | mothCount (m : Nat)
  /-- MOTH_COUNT_END, R359. -/
  | mothCountEnd (m : Nat)
  /-- MOTH_PIN_EDGE_COUNT, R359. -/
  | mothPinEdgeCount (m : Nat) (rising : Bool)
  /-- MOTH_CAPT, R356. -/
  | mothCapt (m : Nat)
  /-- MOTH_FETCH, R362. -/
  | mothFetch (m : Nat)
  /-- MOTH_STOW, R362. -/
  | mothStow (m : Nat)
  /-- MOTH_STALL_END, R362. -/
  | mothStallEnd (m : Nat) (cyc : Nat)
  /-- MOTH_JMP, R356. -/
  | mothJmp (m : Nat) (level : Bool)
  /-- MOTH_SET, R356. -/
  | mothSet (m : Nat)
  /-- MOTH_DELAY_END, R361. -/
  | mothDelayEnd (m : Nat)
  /-- MOTH_ILLEGAL_INSTRUCTION, R357. -/
  | mothIllegalInstruction (m : Nat)
  /-- SCRUB_TILE_READ, R322. -/
  | scrubTileRead (cls : Nat) (inst : Nat) (tile : Nat) (corrupt : Bool)
  /-- SUSPECT_TILE_READ, R322. -/
  | suspectTileRead (n : Nat) (corrupt : Bool)
  /-- TILE_REPAIR, R324. -/
  | tileRepair (cls : Nat) (inst : Nat) (tile : Nat) (bytes : List Byte) (refBad : Bool := false)
  /-- TILE_REBUILD, R327. -/
  | tileRebuild (i : Nat) (tile : Nat) (bytes : List Byte) (refBad : Bool := false)
  /-- MIRROR_FILL_DONE, R439. -/
  | mirrorFillDone
  /-- RESTORE_DONE, R451. -/
  | restoreDone (e : Nat) (bistOk : Bool) (tiles : Tbl (List Byte))
  /-- CLUSTER_FAIL_DETECT, R447. -/
  | clusterFailDetect (k : Nat)
  /-- ENGINE_DOZE, R459. -/
  | engineDoze (n : Nat)
  /-- NAP_ENTRY_DONE, R460. -/
  | napEntryDone (n : Nat)
  /-- ENGINE_WAKE, R461. -/
  | engineWake (n : Nat)
  /-- TIMED_WAKE_START, R462. -/
  | timedWakeStart (n : Nat)
  /-- TRACE_RECORD_DRAIN, R496. -/
  | traceRecordDrain (k : Nat) (parityFail : Bool)
  /-- BLOCK_POWER_OFF, R428. -/
  | blockPowerOff
  /-- PAD_SUPPLY_CHANGE, R529. -/
  | padSupplyChange (sup : Nat) (present : Bool)
  /-- BADCMD_SUBMISSION, R505. -/
  | badcmdSubmission (code : Nat) (len : Nat)
  /-- SARERN_FRAME_HIGH_TIMEOUT, R469. -/
  | sarernFrameHighTimeout
  deriving DecidableEq, Repr

end Sys2Proof
end

