-- ==== Sys2Proof/Decode.lean ====
section
/-! DEFINITION. Reading a command from a word. No row of the command table has bits (its fields are names only), so no
word spells a command: commands enter the queue from outside. -/

namespace Sys2Proof

/-- The command that a word spells by the bits of the command table: the table gives no row any bits. -/
def decodeTableWord (_nbits _w : Nat) : Option Instr := none

end Sys2Proof
end

