-- ==== Sys2Proof/Machine/Tbl.lean ====
section
/-! DEFINITION. Sparse tables and byte memories: reading, writing, the canonical form, and values of several bytes in
the byte order of R5. A byte that nothing has written reads as zero (R455: an SRAM reads as zero at power-up). -/

namespace Sys2Proof.Machine

/-- The entry of key `k`, or the default `d` where none is listed. -/
def tblGet {α : Type} (d : α) (k : Nat) : Tbl α → α
  | [] => d
  | (a, x) :: t => if a = k then x else tblGet d k t

/-- The table without key `k`. -/
def tblDel {α : Type} (k : Nat) : Tbl α → Tbl α
  | [] => []
  | (a, x) :: t => if a = k then tblDel k t else (a, x) :: tblDel k t

/-- `(k, v)` put before the first key above `k`. -/
def tblIns {α : Type} (k : Nat) (v : α) : Tbl α → Tbl α
  | [] => [(k, v)]
  | (a, x) :: t => if k < a then (k, v) :: (a, x) :: t else (a, x) :: tblIns k v t

/-- Writing entry `k`: the default value removes the entry, so that equal tables are equal data. -/
def tblSet {α : Type} [DecidableEq α] (d : α) (k : Nat) (v : α) (t : Tbl α) : Tbl α :=
  if v = d then tblDel k t else tblIns k v (tblDel k t)

/-- The canonical form: keys strictly rising from `lo`, and no entry equal to the default. -/
def tblWfFrom {α : Type} [DecidableEq α] (d : α) (lo : Nat) : Tbl α → Bool
  | [] => true
  | (a, x) :: t => decide (lo ≤ a) && !decide (x = d) && tblWfFrom d (a + 1) t

/-- The canonical form of a whole table. -/
def tblWf {α : Type} [DecidableEq α] (d : α) (t : Tbl α) : Bool := tblWfFrom d 0 t

/-- A byte-addressed memory. -/
abbrev Memory := List Host.Cell

/-- The canonical form of a memory (addresses strictly rising, no listed zero byte). -/
def Memory.wf (m : Memory) : Bool := tblWf (0 : Byte) m

/-- Reading one byte. -/
def memGet (m : Memory) (a : Nat) : Byte := tblGet 0 a m

/-- Writing one byte. -/
def memSet (m : Memory) (a : Nat) (b : Byte) : Memory := tblSet 0 a b m

/-- `n` bytes from `a` upwards. -/
def memBytes (m : Memory) (a : Nat) : Nat → List Byte
  | 0 => []
  | n + 1 => memGet m a :: memBytes m (a + 1) n

/-- The bytes `bs` written from `a` upwards. -/
def memPut (m : Memory) (a : Nat) : List Byte → Memory
  | [] => m
  | b :: bs => memPut (memSet m a b) (a + 1) bs

/-- The little-endian value of a byte string (R5). -/
def leNat : List Byte → Nat
  | [] => 0
  | b :: bs => b.toNat + 256 * leNat bs

/-- The `n` little-endian bytes of a number (R5). -/
def leBytes : Nat → Nat → List Byte
  | 0, _ => []
  | n + 1, v => BitVec.ofNat 8 v :: leBytes n (v / 256)

/-- The 32-bit word at `a`. -/
def memWord (m : Memory) (a : Nat) : Word := BitVec.ofNat 32 (leNat (memBytes m a 4))

/-- A 32-bit word written at `a`. -/
def memPutWord (m : Memory) (a : Nat) (v : Word) : Memory := memPut m a (leBytes 4 v.toNat)

/-- Whether number `k` stands in a list of numbers. -/
def hasNat (k : Nat) (l : List Nat) : Bool := l.contains k

/-- A list of numbers with `k` added once, in rising order. -/
def addNat (k : Nat) : List Nat → List Nat
  | [] => [k]
  | a :: t => if a = k then a :: t else if k < a then k :: a :: t else a :: addNat k t

/-- A list of numbers without `k`. -/
def delNat (k : Nat) (l : List Nat) : List Nat := l.filter (fun a => a != k)

/-- Bit `k` of a word as a Bool. -/
def bitAt {w : Nat} (v : BitVec w) (k : Nat) : Bool := v.getLsbD k

/-- Bits `h` down to `l` of a word as a number (R4). -/
def field {w : Nat} (v : BitVec w) (h l : Nat) : Nat := (v.toNat >>> l) % 2 ^ (h + 1 - l)

/-- A Bool as a number, 0 or 1. -/
def b2n (b : Bool) : Nat := if b then 1 else 0

/-- A saturating 32-bit counter after `k` more events (R13). -/
def satCount (v : Word) (k : Nat) : Word := BitVec.ofNat 32 (min (v.toNat + k) 0xFFFFFFFF)

/-- Serial-number order of two `n`-bit stamps: `some true` when `a` is newer, `none` when unordered (R14). -/
def serialNewer (n a b : Nat) : Option Bool :=
  let d := (a + 2 ^ n - b % 2 ^ n) % 2 ^ n
  if d = 0 ∨ d = 2 ^ (n - 1) then none else some (decide (d < 2 ^ (n - 1)))

end Sys2Proof.Machine
end

