-- ==== Sys2Proof/Machine/Crypto.lean ====
section
/-! DEFINITION. The algorithms that the manual names by their standards: AES (FIPS 197), for the predictor keys and patch blocks (R269,
R270, R301); GCM (NIST SP 800-38D), SHA-256 (FIPS 180-4) and ECDSA over P-256 (FIPS 186-5), for patch blocks. -/

namespace Sys2Proof.Machine

/-! AES. A block is 16 bytes, a round key 16 bytes. -/

/-- The S-box of AES (FIPS 197). -/
def sboxTable : List Byte :=
  [0x63, 0x7C, 0x77, 0x7B, 0xF2, 0x6B, 0x6F, 0xC5, 0x30, 0x01, 0x67, 0x2B, 0xFE, 0xD7, 0xAB, 0x76] ++
  [0xCA, 0x82, 0xC9, 0x7D, 0xFA, 0x59, 0x47, 0xF0, 0xAD, 0xD4, 0xA2, 0xAF, 0x9C, 0xA4, 0x72, 0xC0] ++
  [0xB7, 0xFD, 0x93, 0x26, 0x36, 0x3F, 0xF7, 0xCC, 0x34, 0xA5, 0xE5, 0xF1, 0x71, 0xD8, 0x31, 0x15] ++
  [0x04, 0xC7, 0x23, 0xC3, 0x18, 0x96, 0x05, 0x9A, 0x07, 0x12, 0x80, 0xE2, 0xEB, 0x27, 0xB2, 0x75] ++
  [0x09, 0x83, 0x2C, 0x1A, 0x1B, 0x6E, 0x5A, 0xA0, 0x52, 0x3B, 0xD6, 0xB3, 0x29, 0xE3, 0x2F, 0x84] ++
  [0x53, 0xD1, 0x00, 0xED, 0x20, 0xFC, 0xB1, 0x5B, 0x6A, 0xCB, 0xBE, 0x39, 0x4A, 0x4C, 0x58, 0xCF] ++
  [0xD0, 0xEF, 0xAA, 0xFB, 0x43, 0x4D, 0x33, 0x85, 0x45, 0xF9, 0x02, 0x7F, 0x50, 0x3C, 0x9F, 0xA8] ++
  [0x51, 0xA3, 0x40, 0x8F, 0x92, 0x9D, 0x38, 0xF5, 0xBC, 0xB6, 0xDA, 0x21, 0x10, 0xFF, 0xF3, 0xD2] ++
  [0xCD, 0x0C, 0x13, 0xEC, 0x5F, 0x97, 0x44, 0x17, 0xC4, 0xA7, 0x7E, 0x3D, 0x64, 0x5D, 0x19, 0x73] ++
  [0x60, 0x81, 0x4F, 0xDC, 0x22, 0x2A, 0x90, 0x88, 0x46, 0xEE, 0xB8, 0x14, 0xDE, 0x5E, 0x0B, 0xDB] ++
  [0xE0, 0x32, 0x3A, 0x0A, 0x49, 0x06, 0x24, 0x5C, 0xC2, 0xD3, 0xAC, 0x62, 0x91, 0x95, 0xE4, 0x79] ++
  [0xE7, 0xC8, 0x37, 0x6D, 0x8D, 0xD5, 0x4E, 0xA9, 0x6C, 0x56, 0xF4, 0xEA, 0x65, 0x7A, 0xAE, 0x08] ++
  [0xBA, 0x78, 0x25, 0x2E, 0x1C, 0xA6, 0xB4, 0xC6, 0xE8, 0xDD, 0x74, 0x1F, 0x4B, 0xBD, 0x8B, 0x8A] ++
  [0x70, 0x3E, 0xB5, 0x66, 0x48, 0x03, 0xF6, 0x0E, 0x61, 0x35, 0x57, 0xB9, 0x86, 0xC1, 0x1D, 0x9E] ++
  [0xE1, 0xF8, 0x98, 0x11, 0x69, 0xD9, 0x8E, 0x94, 0x9B, 0x1E, 0x87, 0xE9, 0xCE, 0x55, 0x28, 0xDF] ++
  [0x8C, 0xA1, 0x89, 0x0D, 0xBF, 0xE6, 0x42, 0x68, 0x41, 0x99, 0x2D, 0x0F, 0xB0, 0x54, 0xBB, 0x16]

/-- The S-box applied to a byte. -/
def sbox (b : Byte) : Byte := sboxTable.getD b.toNat 0

/-- Byte-wise exclusive or. -/
def xorBytes (a b : List Byte) : List Byte := (a.zip b).map (fun q => q.1 ^^^ q.2)

/-- Multiplication by `x` in GF(2^8). -/
def xtime (b : Byte) : Byte := (b <<< 1) ^^^ (if bitAt b 7 then 0x1B else 0)

/-- Byte `r` of column `c` from row `r` of column `c + r`. -/
def shiftRows (s : List Byte) : List Byte := (List.range 16).map (fun i => s.getD ((i + 4 * (i % 4)) % 16) 0)

/-- One byte of a column mixed: `i` is its place in the block. -/
def mixByte (s : List Byte) (i : Nat) : Byte :=
  let at_ (k : Nat) : Byte := s.getD (i / 4 * 4 + (i + k) % 4) 0
  xtime (at_ 0) ^^^ (xtime (at_ 1) ^^^ at_ 1) ^^^ at_ 2 ^^^ at_ 3

/-- The columns of a block mixed. -/
def mixColumns (s : List Byte) : List Byte := (List.range 16).map (mixByte s)

/-- The round constant of word `i / nk`. -/
def rcon : Nat → Byte
  | 0 => 0
  | 1 => 1
  | k + 1 => xtime (rcon k)

/-- The next word of the key schedule: `i` is its number, `t` the word before it. -/
def keyCore (nk i : Nat) (t : List Byte) : List Byte :=
  if i % nk = 0 then xorBytes ((t.drop 1 ++ t.take 1).map sbox) [rcon (i / nk), 0, 0, 0]
  else if 6 < nk ∧ i % nk = 4 then t.map sbox
  else t

/-- The key schedule, `k` words from word `i` on; `w` holds the words so far, the newest first. -/
def keyWords (nk : Nat) : Nat → Nat → List (List Byte) → List (List Byte)
  | 0, _, w => w
  | k + 1, i, w => keyWords nk k (i + 1) (xorBytes (keyCore nk i (w.headD [])) (w.getD (nk - 1) []) :: w)

/-- The four-byte words of a key, the newest first. -/
def keyStart : Nat → List Byte → List (List Byte) → List (List Byte)
  | 0, _, w => w
  | k + 1, key, w => keyStart k (key.drop 4) (key.take 4 :: w)

/-- The key schedule of a key of 16 or 32 bytes, in order. -/
def keySchedule (key : List Byte) : List (List Byte) :=
  let nk := key.length / 4
  (keyWords nk (4 * (nk + 7) - nk) nk (keyStart nk key [])).reverse

/-- Round key `r`. -/
def roundKey (ks : List (List Byte)) (r : Nat) : List Byte := ((ks.drop (4 * r)).take 4).flatten

/-- The rounds from `r` on, `k` of them; the last one mixes no columns. -/
def aesRounds (ks : List (List Byte)) : Nat → Nat → List Byte → List Byte
  | 0, _, s => s
  | k + 1, r, s =>
    let t := shiftRows (s.map sbox)
    aesRounds ks k (r + 1) (xorBytes (if k = 0 then t else mixColumns t) (roundKey ks r))

/-- The encryption of a block of 16 bytes under a key of 16 (AES-128) or 32 bytes (AES-256). -/
def aesBlock (key block : List Byte) : List Byte :=
  let ks := keySchedule key
  aesRounds ks (key.length / 4 + 6) 1 (xorBytes block (roundKey ks 0))

/-! GCM, with a 96-bit nonce. -/

/-- A byte string read big-endian. -/
def beNat (bs : List Byte) : Nat := bs.foldl (fun a b => 256 * a + b.toNat) 0

/-- The `n` big-endian bytes of a number. -/
def beBytes (n v : Nat) : List Byte := (leBytes n v).reverse

/-- The product of GHASH over the bits of `x` below `k`, highest first: `z` is the sum so far, `v` the factor. -/
def ghashMul : Nat → W128 → W128 → W128 → W128
  | 0, _, z, _ => z
  | k + 1, x, z, v =>
    ghashMul k x (if bitAt x k then z ^^^ v else z) ((v >>> 1) ^^^ (if bitAt v 0 then 0xE1000000000000000000000000000000 else 0))

/-- GHASH under `h` from `y` over `k` blocks of a byte string, the last one filled up with zeros. -/
def ghash (h : W128) : Nat → W128 → List Byte → W128
  | 0, y, _ => y
  | k + 1, y, bs =>
    let b := bs.take 16
    let x : W128 := BitVec.ofNat 128 (beNat (b ++ List.replicate (16 - b.length) 0))
    ghash h k (ghashMul 128 (y ^^^ x) 0 h) (bs.drop 16)

/-- Blocks of 16 bytes in a string of `n` bytes. -/
def blocksOf (n : Nat) : Nat := (n + 15) / 16

/-- The keystream of counter mode applied to a string, `k` blocks from counter `c`. -/
def gctr (key iv : List Byte) : Nat → Nat → List Byte → List Byte
  | 0, _, _ => []
  | k + 1, c, bs =>
    xorBytes (bs.take 16) (aesBlock key (iv ++ beBytes 4 c)) ++ gctr key iv k (c + 1) (bs.drop 16)

/-- The plaintext of a ciphertext; encryption and decryption are the same. -/
def gcmText (key iv ct : List Byte) : List Byte := gctr key iv (blocksOf ct.length) 2 ct

/-- The tag of a ciphertext with additional data. -/
def gcmTag (key iv aad ct : List Byte) : List Byte :=
  let h : W128 := BitVec.ofNat 128 (beNat (aesBlock key (List.replicate 16 0)))
  let y1 := ghash h (blocksOf aad.length) 0 aad
  let y2 := ghash h (blocksOf ct.length) y1 ct
  let y3 := ghash h 1 y2 (beBytes 8 (8 * aad.length) ++ beBytes 8 (8 * ct.length))
  xorBytes (beBytes 16 y3.toNat) (aesBlock key (iv ++ beBytes 4 1))

/-! SHA-256. -/

/-- The constants K of SHA-256 (FIPS 180-4). -/
def shaK : List Word :=
  [0x428A2F98, 0x71374491, 0xB5C0FBCF, 0xE9B5DBA5, 0x3956C25B, 0x59F111F1, 0x923F82A4, 0xAB1C5ED5,
   0xD807AA98, 0x12835B01, 0x243185BE, 0x550C7DC3, 0x72BE5D74, 0x80DEB1FE, 0x9BDC06A7, 0xC19BF174] ++
  [0xE49B69C1, 0xEFBE4786, 0x0FC19DC6, 0x240CA1CC, 0x2DE92C6F, 0x4A7484AA, 0x5CB0A9DC, 0x76F988DA,
   0x983E5152, 0xA831C66D, 0xB00327C8, 0xBF597FC7, 0xC6E00BF3, 0xD5A79147, 0x06CA6351, 0x14292967] ++
  [0x27B70A85, 0x2E1B2138, 0x4D2C6DFC, 0x53380D13, 0x650A7354, 0x766A0ABB, 0x81C2C92E, 0x92722C85,
   0xA2BFE8A1, 0xA81A664B, 0xC24B8B70, 0xC76C51A3, 0xD192E819, 0xD6990624, 0xF40E3585, 0x106AA070] ++
  [0x19A4C116, 0x1E376C08, 0x2748774C, 0x34B0BCB5, 0x391C0CB3, 0x4ED8AA4A, 0x5B9CCA4F, 0x682E6FF3,
   0x748F82EE, 0x78A5636F, 0x84C87814, 0x8CC70208, 0x90BEFFFA, 0xA4506CEB, 0xBEF9A3F7, 0xC67178F2]

/-- The initial hash value of SHA-256. -/
def shaH : List Word :=
  [0x6A09E667, 0xBB67AE85, 0x3C6EF372, 0xA54FF53A, 0x510E527F, 0x9B05688C, 0x1F83D9AB, 0x5BE0CD19]

/-- The message schedule extended by `k` words; `w` holds the words so far, the newest first. -/
def shaWords : Nat → List Word → List Word
  | 0, w => w
  | k + 1, w =>
    let a := w.getD 14 0
    let b := w.getD 1 0
    let s0 := a.rotateRight 7 ^^^ a.rotateRight 18 ^^^ (a >>> 3)
    let s1 := b.rotateRight 17 ^^^ b.rotateRight 19 ^^^ (b >>> 10)
    shaWords k ((w.getD 15 0 + s0 + w.getD 6 0 + s1) :: w)

/-- One round on the eight working variables, with the sum of the round's constant and message word. -/
def shaRound (v : List Word) (kw : Word) : List Word :=
  match v with
  | [a, b, c, d, e, f, g, h] =>
    let t1 := h + (e.rotateRight 6 ^^^ e.rotateRight 11 ^^^ e.rotateRight 25) + ((e &&& f) ^^^ (~~~e &&& g)) + kw
    let t2 := (a.rotateRight 2 ^^^ a.rotateRight 13 ^^^ a.rotateRight 22) + ((a &&& b) ^^^ (a &&& c) ^^^ (b &&& c))
    [t1 + t2, a, b, c, d + t1, e, f, g]
  | _ => v

/-- The big-endian words of a block of 64 bytes, in order. -/
def shaLoad : Nat → List Byte → List Word
  | 0, _ => []
  | k + 1, bs => BitVec.ofNat 32 (beNat (bs.take 4)) :: shaLoad k (bs.drop 4)

/-- The hash value after one block. -/
def shaBlock (h : List Word) (bs : List Byte) : List Word :=
  let w := (shaWords 48 (shaLoad 16 bs).reverse).reverse
  let v := ((shaK.zip w).map (fun q => q.1 + q.2)).foldl shaRound h
  (h.zip v).map (fun q => q.1 + q.2)

/-- The hash value after `k` blocks. -/
def shaBlocks : Nat → List Word → List Byte → List Word
  | 0, h, _ => h
  | k + 1, h, bs => shaBlocks k (shaBlock h (bs.take 64)) (bs.drop 64)

/-- SHA-256 of a byte string. -/
def sha256 (bs : List Byte) : List Byte :=
  let padded := bs ++ [0x80] ++ List.replicate ((119 - bs.length % 64) % 64) 0 ++ beBytes 8 (8 * bs.length)
  (shaBlocks (padded.length / 64) shaH padded).flatMap (fun w => beBytes 4 w.toNat)

/-! ECDSA over P-256. A point is a pair of coordinates, and none the point at infinity. -/

/-- The prime, the order, the coefficient and the base point of P-256. -/
def p256P : Nat := 0xFFFFFFFF00000001000000000000000000000000FFFFFFFFFFFFFFFFFFFFFFFF
def p256N : Nat := 0xFFFFFFFF00000000FFFFFFFFFFFFFFFFBCE6FAADA7179E84F3B9CAC2FC632551
def p256B : Nat := 0x5AC635D8AA3A93E7B3EBBD55769886BC651D06B0CC53B0F63BCE3C3E27D2604B
def p256Gx : Nat := 0x6B17D1F2E12C4247F8BCE6E563A440F277037D812DEB33A0F4A13945D898C296
def p256Gy : Nat := 0x4FE342E2FE1A7F9B8EE7EB4A7C0F9E162BCE33576B315ECECBB6406837BF51F5

/-- A power modulo `m` by the bits of the exponent below `k`, highest first. -/
def powMod (m b e : Nat) : Nat → Nat → Nat
  | 0, a => a
  | k + 1, a => powMod m b e k (if e.testBit k then a * a % m * b % m else a * a % m)

/-- The inverse modulo a prime. -/
def invMod (m a : Nat) : Nat := powMod m (a % m) (m - 2) 256 1

/-- The sum of two points, or the double of one. -/
def ecAdd (a b : Option (Nat × Nat)) : Option (Nat × Nat) :=
  match a, b with
  | none, b => b
  | a, none => a
  | some (x1, y1), some (x2, y2) =>
    let q := p256P
    if x1 = x2 ∧ (y1 + y2) % q = 0 then none
    else
      let l := if x1 = x2 then (3 * x1 * x1 + (q - 3)) * invMod q (2 * y1) % q
        else (y2 + q - y1) * invMod q (x2 + q - x1) % q
      let x3 := (l * l + 2 * q - x1 - x2) % q
      some (x3, (l * (x1 + q - x3) + q - y1) % q)

/-- `e` times a point, by the bits of `e` below `k`, highest first. -/
def ecMul (e : Nat) (a : Option (Nat × Nat)) : Nat → Option (Nat × Nat) → Option (Nat × Nat)
  | 0, z => z
  | k + 1, z => ecMul e a k (if e.testBit k then ecAdd (ecAdd z z) a else ecAdd z z)

/-- Whether a pair of coordinates is a point of P-256. -/
def onCurve (x y : Nat) : Bool :=
  decide (x < p256P) && decide (y < p256P) && decide (y * y % p256P = (x * x * x + (p256P - 3) * x + p256B) % p256P)

/-- Whether the signature `(r, s)` verifies under public key `(x, y)` for a message of hash `e`. -/
def ecdsaOk (x y r s e : Nat) : Bool :=
  decide (0 < r) && decide (r < p256N) && decide (0 < s) && decide (s < p256N) && onCurve x y &&
  (let w := invMod p256N s
   match ecAdd (ecMul (e * w % p256N) (some (p256Gx, p256Gy)) 256 none) (ecMul (r * w % p256N) (some (x, y)) 256 none) with
   | none => false
   | some (x1, _) => decide (x1 % p256N = r))

end Sys2Proof.Machine
end

