-- ==== Sys2Proof/Machine/Caps.lean ====
section
/-! DEFINITION. Capabilities (R149 to R154, R193, R194, R236) and the segment descriptors of compatibility mode
(R258 to R260): their fields, the access check, and the derivations. -/

namespace Sys2Proof.Machine

/-- The causes of Table 8.1. -/
inductive Cause where
  | event (prio : Nat)
  | illegal | permission | bounds | alignment | sealed | validity | fetch | far | ctxSeq
  | tileData | tileFetch | segment | ring | gate | syscall | breakpoint
  | custom (k : Nat)
  | escalated | saveBank
  deriving DecidableEq, Repr

/-- The cause number of Table 8.1. -/
def causeCode : Cause → Nat
  | .event p => p
  | .illegal => 1 | .permission => 2 | .bounds => 3 | .alignment => 4 | .sealed => 5
  | .validity => 6 | .fetch => 7 | .far => 8 | .ctxSeq => 9 | .tileData => 10 | .tileFetch => 11
  | .segment => 12 | .ring => 13 | .gate => 14 | .syscall => 16 | .breakpoint => 17
  | .custom k => k
  | .escalated => 1 | .saveBank => 2

/-- The level for which a cause is raised (Table 8.1). -/
def causeLevel : Cause → Nat
  | .event _ => 1
  | .escalated => 3 | .saveBank => 3
  | _ => 2

/-- A fault: its cause and the value of XADRn. -/
structure Trap where
  cause : Cause
  adr : Word
  deriving DecidableEq, Repr

/-- A result, or the fault raised in its place. -/
abbrev Chk (α : Type) := Except Trap α

/-- The fault of cause `c` at `a`. -/
def trapAt {α : Type} (c : Cause) (a : Word) : Chk α := .error { cause := c, adr := a }

/-- BASE of Table 5.6 and Table 8.6. -/
def capBase (c : W128) : Word := c.setWidth 32
/-- LIMIT. -/
def capLimit (c : W128) : Word := (c >>> 32).setWidth 32
/-- PERM of Table 5.6a, RIGHTS of Table 8.6. -/
def capPerm (c : W128) : BitVec 16 := (c >>> 64).setWidth 16
/-- OTYPE. -/
def capOtype (c : W128) : Nat := field c 87 80
/-- PRESENT of a descriptor. -/
def descPresent (c : W128) : Bool := bitAt c 88
/-- TYPE of a descriptor. -/
def descType (c : W128) : Nat := field c 87 84
/-- Ring mask bit `r` of a descriptor. -/
def descRing (c : W128) (r : Nat) : Bool := bitAt c (80 + r)

/-- Permission bit numbers of Table 5.6a. -/
def pLD : Nat := 0
def pST : Nat := 1
def pLDC : Nat := 2
def pSTC : Nat := 3
def pEX : Nat := 4
def pSYS : Nat := 5
def pCTX : Nat := 6
def pQUE : Nat := 7
def pSEAL : Nat := 8
def pUNSEAL : Nat := 9

/-- Whether a capability holds permission bit `k`. -/
def capHas (c : W128) (k : Nat) : Bool := bitAt c (64 + k)

/-- Whether a 128-bit value is a valid capability (R149). -/
def capValid (c : W128) : Bool :=
  (capBase c).ule (capLimit c) && decide (field c 127 88 = 0) && decide (field c 79 74 = 0)

/-- A capability from its fields. -/
def capMake (base limit : Word) (perm : Nat) (otype : Nat) : W128 :=
  BitVec.ofNat 128 (base.toNat + 2 ^ 32 * limit.toNat + 2 ^ 64 * (perm % 2 ^ 16) + 2 ^ 80 * (otype % 2 ^ 8))

/-- `c` with another BASE and LIMIT, everything else kept. -/
def capBounds (c : W128) (base limit : Word) : W128 :=
  ((c >>> 64) <<< 64) ||| BitVec.ofNat 128 (base.toNat + 2 ^ 32 * limit.toNat)

/-- `c` with another OTYPE. -/
def capSetOtype (c : W128) (t : Nat) : W128 :=
  (c &&& ~~~(BitVec.ofNat 128 (255 * 2 ^ 80))) ||| BitVec.ofNat 128 (t % 256 * 2 ^ 80)

/-- Whether the reserved fields of a descriptor are zero and its TYPE is not reserved (Table 8.6). -/
def descWf (c : W128) : Bool :=
  decide (field c 127 89 = 0) && decide (descType c ≤ 4) &&
  decide ((capPerm c) &&& 0xFF2C = 0)

/-- What an access needs: the permission bit, and the kind of access for the descriptor types of R258. -/
inductive Need where
  | load | store | loadCap | storeCap
  deriving DecidableEq, Repr

/-- The permission bit of a need in native mode. -/
def needBit : Need → Nat
  | .load => pLD | .store => pST | .loadCap => pLDC | .storeCap => pSTC

/-- The right of a need in compatibility mode: R for loads, W for stores. -/
def needRight : Need → Nat
  | .load => 0 | .loadCap => 0 | .store => 1 | .storeCap => 1

/-- Whether a descriptor TYPE is allowed for an access at ring `r` (R258). -/
def descTypeOk (n : Need) (t r : Nat) : Bool :=
  match n with
  | .load => t == 0 || t == 2
  | .store => t == 0
  | .loadCap => t == 2 || (t == 0 && r == 0)
  | .storeCap => t == 0

/-- The effective address of R150, exact. -/
def effAddr (c : W128) (off : Word) : Int := (capBase c).toNat + off.toInt

/-- The bounds and alignment checks of R150 on an access of `s` bytes aligned to `al`. -/
def rangeCheck (c : W128) (off : Word) (s al : Nat) : Chk Word :=
  let ea := effAddr c off
  let adr := BitVec.ofInt 32 ea
  if ea < (capBase c).toNat ∨ ((capLimit c).toNat : Int) < ea + s - 1 then trapAt .bounds adr
  else if ea % (al : Int) ≠ 0 then trapAt .alignment adr
  else .ok adr

/-- The access check of R150 (native) or R258 (compatibility mode at ring `ring`): the address, or the first check
that fails. -/
def accessCheck (compat : Bool) (ring : Nat) (c : W128) (off : Word) (s al : Nat) (n : Need) : Chk Word :=
  let adr := BitVec.ofInt 32 (effAddr c off)
  if compat then
    if !descPresent c || !descWf c then trapAt .segment adr
    else if !descTypeOk n (descType c) ring then trapAt .segment adr
    else if !descRing c ring then trapAt .ring adr
    else if !capHas c (needRight n) then trapAt .permission adr
    else rangeCheck c off s al
  else
    if capOtype c ≠ 0 then trapAt .sealed adr
    else if !capHas c (needBit n) then trapAt .permission adr
    else rangeCheck c off s al

/-- Whether a capability counts as unsealed for a derivation: descriptors have no seal (R258). -/
def capUnsealed (compat : Bool) (c : W128) : Bool := compat || decide (capOtype c = 0)

/-- CSETB of R194. -/
def capSetB (compat : Bool) (c : W128) (x : Word) : Chk W128 :=
  let nb := (capBase c).toNat + x.toNat
  if !capUnsealed compat c then trapAt .permission (capBase c)
  else if (capLimit c).toNat < nb then .ok 0
  else .ok (capBounds c (BitVec.ofNat 32 nb) (capLimit c))

/-- CSETL of R194. -/
def capSetL (compat : Bool) (c : W128) (x : Word) : Chk W128 :=
  let nl := (capBase c).toNat + x.toNat - 1
  if !capUnsealed compat c then trapAt .permission (capBase c)
  else if x = 0 then .ok 0
  else if (capLimit c).toNat < nl then trapAt .bounds (capBase c)
  else .ok (capBounds c (capBase c) (BitVec.ofNat 32 nl))

/-- CSETBL of R194. -/
def capSetBL (compat : Bool) (c : W128) (x len : Word) : Chk W128 :=
  let nb := (capBase c).toNat + x.toNat
  if !capUnsealed compat c then trapAt .permission (capBase c)
  else if len = 0 then .ok 0
  else if (capLimit c).toNat < nb + len.toNat - 1 then trapAt .bounds (capBase c)
  else .ok (capBounds c (BitVec.ofNat 32 nb) (BitVec.ofNat 32 (nb + len.toNat - 1)))

/-- CANDP of Table 6.11. -/
def capAndP (compat : Bool) (c : W128) (m : Word) : Chk W128 :=
  if !capUnsealed compat c then trapAt .permission (capBase c)
  else .ok (c &&& (~~~(BitVec.ofNat 128 (0xFFFF * 2 ^ 64)) ||| ((m.setWidth 16).setWidth 128 <<< 64)))

/-- CSEAL of R236. -/
def capSeal (cs ct : W128) : Chk W128 :=
  let t := (capBase ct).toNat
  if cs = 0 then .ok 0
  else if capOtype cs ≠ 0 ∨ capOtype ct ≠ 0 then trapAt .permission (capBase cs)
  else if !capHas ct pSEAL then trapAt .permission (capBase cs)
  else if t < 1 ∨ 254 < t ∨ (capLimit ct).toNat < t then trapAt .bounds (capBase cs)
  else .ok (capSetOtype cs t)

/-- CUNSEAL of R236. -/
def capUnseal (cs ct : W128) : Chk W128 :=
  if capOtype ct ≠ 0 then trapAt .permission (capBase cs)
  else if capOtype cs = 0 ∨ capOtype cs = 255 then trapAt .permission (capBase cs)
  else if !capHas ct pUNSEAL then trapAt .permission (capBase cs)
  else if capOtype cs < (capBase ct).toNat ∨ (capLimit ct).toNat < capOtype cs then trapAt .bounds (capBase cs)
  else .ok (capSetOtype cs 0)

/-- CSENTRY of R236. -/
def capSentry (cs : W128) : Chk W128 :=
  if capOtype cs ≠ 0 then trapAt .permission (capBase cs)
  else if !capHas cs pEX then trapAt .permission (capBase cs)
  else .ok (capSetOtype cs 255)

/-- Whether PCC lets the word at `a` be fetched (R154; R258 in compatibility mode). -/
def fetchOk (compat : Bool) (pcc : W128) (a : Nat) : Bool :=
  (if compat then decide (descType pcc = 1) else decide (capOtype pcc = 0)) && capHas pcc pEX &&
  decide ((capBase pcc).toNat ≤ a) && decide (a + 3 ≤ (capLimit pcc).toNat)

/-- Whether PCC lets a privileged action run (R143): SYS in native mode, ring 0 in compatibility mode. -/
def privOk (compat : Bool) (ring : Nat) (pcc : W128) : Bool :=
  if compat then decide (ring = 0) else capHas pcc pSYS

/-- Whether capability `d` is derivable from root `r` under R151. -/
def derivable (r d : W128) : Bool :=
  capValid d && (capBase r).ule (capBase d) && (capLimit d).ule (capLimit r) &&
  decide ((capPerm d) &&& ~~~(capPerm r) = 0)

end Sys2Proof.Machine
end

