-- ==== Sys2Proof/Config.lean ====
section
/-! DEFINITION. The values the manual leaves open. Each is an opaque constant: nothing in Lean can evaluate it, so a
claim holds whatever it is. Every one is named in a row of notes/assumptions. -/

namespace Sys2Proof.Config

/-- The FRCPE estimate of R286, correct to 12 bits and otherwise open. -/
opaque frcpe : Word → Word

/-- The FRSQE estimate of R286, correct to 12 bits and otherwise open. -/
opaque frsqe : Word → Word

/-- The micro-address of the micro-ROM routine of a major (R278): the micro-ROM map of standard routines is not in the
manual. -/
opaque romUaddr : Nat → BitVec 13

/-- A micro-temporary that a micro-ROM routine leaves behind or saves at a trap point (R281, R293, R294): the number
counts the free values taken. -/
opaque romTemp : Nat → Word

/-- The value of XADRn where a rule raises a fault and states no address for it; the number counts the free values
taken. -/
opaque openAddr : Nat → Word

/-- The content of the Badger's boot ROM (Table 5.4a). -/
opaque bootRom : Nat → Byte

/-- Whether a driven pad's change reaches its synchronised level in the third moth base cycle, and not in the second (R350); the
number counts the free values taken. -/
opaque padThird : Nat → Bool

/-- What the Badger writes from its boot ROM into its IMEM and DMEM, by local address (Table 15.3): the manual gives no
layout of the ROM. -/
opaque badgerMem : Nat → Byte

/-- The word that a read of DBG[n].DATA returns when ACC.TILE = 1 moves a whole tile to DBG[n].TILEBUF (R487); the number
counts the free values taken. -/
opaque debugTileWord : Nat → Word

/-- The index of the newest log entry that SEAL_STATUS returns while the log holds none (R390). -/
opaque noEntryIndex : Word

/-- The hash in Badger ROM with which the key hash of a Vetchaos block is compared (R301). -/
opaque vetKeyHash : List Byte

/-- A 32-bit word of the battery record after its contents have been lost, or where a read-back has differed (R395, R527): the first
number counts the free values taken, the second is the place of the word in the record. -/
opaque lostWord : Nat → Nat → Word

/-- How far a write of the battery record has come when it is cut off (R395): 0, nothing is written; 1, the entry and not the header;
any other value, both. The number counts the free values taken. -/
opaque writeLanded : Nat → Nat

/-- A byte as stored of a tile that fails its check (R316, R321): by the tile's key, the byte's place in it and the byte last
written. -/
opaque failedByte : Nat → Nat → Byte → Byte

/-- What the check word of a tile that fails its check differs by from the CRC of its bytes as stored (R316), apart from its bit 0: by the
tile's key. -/
opaque checkDiff : Nat → Word

/-- Whether SET_TICK completes with LIMIT (Table 19.5), and not with BOUND (R57), where the sub-tick does not meet R57. -/
opaque subtickLimit : Bool

/-- The word that a read of an entry of the mailbox buffer or of the fault log returns where the entry fails its parity (R315); the
number counts the free values taken. -/
opaque parityWord : Nat → Word

end Sys2Proof.Config
end

