-- ==== Sys2Proof/Machine/IntOps.lean ====
section
/-! DEFINITION. The integer, shift, saturating, multiply, divide, bit and field operations (R177 to R185, R205, R206),
each computed exactly on Int or Nat and then narrowed. -/

namespace Sys2Proof.Machine

/-- The smaller or the larger of two words, by a given order test. -/
def pick (c : Bool) (a b : Word) : Word := if c then a else b

/-- SHL of R178: the amount is `n`, zero when `n` is 32 or more. -/
def shlW (a : Word) (n : Nat) : Word := a <<< n

/-- SHR of R178. -/
def shrW (a : Word) (n : Nat) : Word := a >>> n

/-- SRA of R178. -/
def sraW (a : Word) (n : Nat) : Word := a.sshiftRight n

/-- ROL of R178. -/
def rolW (a : Word) (n : Nat) : Word := a.rotateLeft (n % 32)

/-- ALU minors of Table 6.2; none for the reserved minor. -/
def aluOp (minor : Nat) (a b : Word) : Option Word :=
  let n := field b 7 0
  match minor with
  | 0 => some (a + b)
  | 1 => some (a - b)
  | 2 => some (a &&& b)
  | 3 => some (a ||| b)
  | 4 => some (a ^^^ b)
  | 5 => some (a &&& ~~~b)
  | 6 => some (a ||| ~~~b)
  | 7 => some (shlW a n)
  | 8 => some (shrW a n)
  | 9 => some (sraW a n)
  | 10 => some (rolW a n)
  | 11 => some (pick (a.sle b) a b)
  | 12 => some (pick (a.sle b) b a)
  | 13 => some (pick (a.ule b) a b)
  | 14 => some (pick (a.ule b) b a)
  | _ => none

/-- UNARY minors of Table 6.2. -/
def unaryOp (minor : Nat) (a : Word) : Option Word :=
  match minor with
  | 0 => some ((a.setWidth 8).signExtend 32)
  | 1 => some ((a.setWidth 16).signExtend 32)
  | 2 => some ((a.setWidth 8).setWidth 32)
  | 3 => some ((a.setWidth 16).setWidth 32)
  | 4 => some (0 - a)
  | 5 => some (~~~a)
  | 6 => some (if a.msb then 0 - a else a)
  | _ => none

/-- A result clamped to a range and narrowed (R180). -/
def clampW (r lo hi : Int) : Word := BitVec.ofInt 32 (if r < lo then lo else if hi < r then hi else r)

/-- Clamped to the signed 32-bit range. -/
def clampS (r : Int) : Word := clampW r (-2147483648) 2147483647

/-- Clamped to the unsigned 32-bit range. -/
def clampU (r : Int) : Word := clampW r 0 4294967295

/-- SAT minors of Table 6.4a. -/
def satOp (minor : Nat) (a b : Word) : Option Word :=
  match minor with
  | 0 => some (clampS (a.toInt + b.toInt))
  | 1 => some (clampS (a.toInt - b.toInt))
  | 2 => some (clampU ((a.toNat : Int) + b.toNat))
  | 3 => some (clampU ((a.toNat : Int) - b.toNat))
  | 4 => some (clampS (- a.toInt))
  | 5 => some (clampS (a.toInt.natAbs : Int))
  | 6 => some (clampW a.toInt (-32768) 32767)
  | 7 => some (clampW a.toInt 0 65535)
  | 8 => some (clampS (a.toInt * 2 ^ field b 7 0))
  | _ => none

/-- The MULQ product of R183: Q1.31, rounded half up and saturated. -/
def mulQ (a b : Word) : Word :=
  let r := (a.toInt * b.toInt + 1073741824) / 2147483648
  BitVec.ofInt 32 (if 2147483647 < r then 2147483647 else r)

/-- MUL minors of Table 6.7; `d` is the old value of `rd`. -/
def mulOp (minor : Nat) (d a b : Word) : Option Word :=
  match minor with
  | 0 => some (a * b)
  | 1 => some (BitVec.ofInt 32 (a.toInt * b.toInt / 4294967296))
  | 2 => some (BitVec.ofNat 32 (a.toNat * b.toNat / 4294967296))
  | 3 => some (BitVec.ofInt 32 (a.toInt * (b.toNat : Int) / 4294967296))
  | 4 => some (d + a * b)
  | 5 => some (d - a * b)
  | 6 => some (mulQ a b)
  | _ => none

/-- DIV minors of Table 6.8: quotient toward zero; no divisor raises an exception. -/
def divOp (minor : Nat) (a b : Word) : Option Word :=
  match minor with
  | 0 => some (if b = 0 then 0xFFFFFFFF else BitVec.ofInt 32 (a.toInt.tdiv b.toInt))
  | 1 => some (if b = 0 then 0xFFFFFFFF else BitVec.ofNat 32 (a.toNat / b.toNat))
  | 2 => some (if b = 0 then a else BitVec.ofInt 32 (a.toInt.tmod b.toInt))
  | 3 => some (if b = 0 then a else BitVec.ofNat 32 (a.toNat % b.toNat))
  | _ => none

/-- CMP minors of Table 6.5. -/
def cmpOp (minor : Nat) (a b : Word) : Option Bool :=
  match minor with
  | 0 => some (decide (a = b))
  | 1 => some (!decide (a = b))
  | 2 => some (a.slt b)
  | 3 => some (a.sle b)
  | 4 => some (b.slt a)
  | 5 => some (b.sle a)
  | 6 => some (a.ult b)
  | 7 => some (a.ule b)
  | 8 => some (b.ult a)
  | 9 => some (b.ule a)
  | 10 => some (!decide (a &&& b = 0))
  | 11 => some (decide (a &&& b = 0))
  | _ => none

/-- PLOG minors of Table 6.6. -/
def plogOp (minor : Nat) (a b : Bool) : Option Bool :=
  match minor with
  | 0 => some (a && b)
  | 1 => some (a || b)
  | 2 => some (a != b)
  | 3 => some (a && !b)
  | 4 => some (a || !b)
  | 5 => some (!a)
  | 6 => some true
  | 7 => some false
  | _ => none

/-- The number of ones among the low `n` bits. -/
def popNat : Nat → Nat → Nat
  | 0, _ => 0
  | n + 1, v => v % 2 + popNat n (v / 2)

/-- The low `n` bits of `v` in reverse order. -/
def revNat : Nat → Nat → Nat
  | 0, _ => 0
  | n + 1, v => (v % 2) * 2 ^ n + revNat n (v / 2)

/-- The number of zeros below the lowest one among the low `n` bits. -/
def ctzNat : Nat → Nat → Nat
  | 0, _ => 0
  | n + 1, v => if v % 2 = 1 then 0 else 1 + ctzNat n (v / 2)

/-- The parity of the byte at bit `8 * i`. -/
def byteParity (a : Word) (i : Nat) : Nat := popNat 8 (a.toNat >>> (8 * i)) % 2

/-- Byte `i` of a word as a number. -/
def byteN (a : Word) (i : Nat) : Nat := (a.toNat >>> (8 * i)) % 256

/-- A word from its four bytes, lowest first. -/
def ofBytes4 (b0 b1 b2 b3 : Nat) : Word := BitVec.ofNat 32 (b0 + 256 * b1 + 65536 * b2 + 16777216 * b3)

/-- BIT minors of Table 7.2. -/
def bitOp (minor : Nat) (a : Word) : Option Word :=
  match minor with
  | 0 => some (BitVec.ofNat 32 (popNat 32 a.toNat))
  | 1 => some (BitVec.ofNat 32 (ctzNat 32 (revNat 32 a.toNat)))
  | 2 => some (BitVec.ofNat 32 (ctzNat 32 a.toNat))
  | 3 => some (BitVec.ofNat 32 (popNat 32 a.toNat % 2))
  | 4 => some (BitVec.ofNat 32
      (byteParity a 0 + 2 * byteParity a 1 + 4 * byteParity a 2 + 8 * byteParity a 3))
  | 5 => some (BitVec.ofNat 32 (revNat 32 a.toNat))
  | 6 => some (ofBytes4 (revNat 8 (byteN a 0)) (revNat 8 (byteN a 1)) (revNat 8 (byteN a 2)) (revNat 8 (byteN a 3)))
  | 7 => some (ofBytes4 (byteN a 3) (byteN a 2) (byteN a 1) (byteN a 0))
  | 8 => some (ofBytes4 (byteN a 1) (byteN a 0) (byteN a 3) (byteN a 2))
  | _ => none

/-- The mask of the field of R206 at position `p` of width `w`: ones in bits `min (p + w) 32 - 1` down to `p`. -/
def fldMask (p w : Nat) : Nat := 2 ^ min (p + w) 32 - 2 ^ p

/-- FLD minors of Table 7.3 on the field that `x` describes; `d` is the old value of `rd`. -/
def fldOp (minor : Nat) (d a x : Word) : Option Word :=
  let p := field x 4 0
  let w := min (p + field x 13 8) 32 - p
  let m : Word := BitVec.ofNat 32 (fldMask p w)
  let body := (a.toNat >>> p) % 2 ^ w
  match minor with
  | 0 => some (BitVec.ofNat 32 body)
  | 1 => some (if w = 0 then 0 else BitVec.ofInt 32 (if 2 ^ (w - 1) ≤ body then (body : Int) - 2 ^ w else body))
  | 2 => some ((d &&& ~~~m) ||| ((a <<< p) &&& m))
  | 3 => some ((a &&& ~~~m) ||| BitVec.ofNat 32 (revNat w body * 2 ^ p))
  | 4 => some m
  | _ => none

end Sys2Proof.Machine
end

