-- ==== Sys2Proof/Machine/Crc.lean ====
section
/-! DEFINITION. The CRC steps of R207 to R209, the CRC-32C of Table 7.6 over byte strings, and its combination over
concatenated strings. -/

namespace Sys2Proof.Machine

/-- The CRC settings in force: polynomial CRCP, and the fields of CRCI (Table 7.4). -/
structure CrcSet where
  poly : Word
  refin : Bool
  refout : Bool
  init : Bool
  xorout : Bool
  width : Nat
  deriving DecidableEq, Repr

/-- The settings that CRCP and CRCI spell. -/
def crcSetOf (crcp crci : Word) : CrcSet :=
  { poly := crcp, refin := bitAt crci 31, refout := bitAt crci 30, init := bitAt crci 29,
    xorout := bitAt crci 28, width := field crci 5 0 }

/-- The value that a write leaves in CRCI (R207): reserved bits read zero, and a WIDTH above 32 keeps the old WIDTH. -/
def crciWrite (old v : Word) : Word :=
  let w := if 32 < field v 5 0 then field old 5 0 else field v 5 0
  (v &&& 0xF0000000) ||| BitVec.ofNat 32 w

/-- The polynomial mask: ones in the top `w` bits. -/
def crcTop (w : Nat) : Word := BitVec.ofNat 32 ((2 ^ w - 1) * 2 ^ (32 - w))

/-- The state mask M of the manual. -/
def crcMask (c : CrcSet) : Word := if c.refin then BitVec.ofNat 32 (2 ^ c.width - 1) else crcTop c.width

/-- One data bit (R208). -/
def crcBit (c : CrcSet) (s : Word) (d : Bool) : Word :=
  let p := c.poly &&& crcTop c.width
  if c.refin then
    let f := s.getLsbD 0 != d
    let t := s >>> 1
    if f then t ^^^ BitVec.ofNat 32 (revNat 32 p.toNat) else t
  else
    let f := s.getLsbD 31 != d
    let t := s <<< 1
    if f then t ^^^ p else t

/-- The bits of one byte in the order of R208. -/
def crcByteBits (c : CrcSet) (b : Byte) : List Bool :=
  if c.refin then (List.range 8).map (fun i => b.getLsbD i) else (List.range 8).map (fun i => b.getLsbD (7 - i))

/-- The CRC step over a byte string in memory order (R208); WIDTH 0 passes the state through. -/
def crcStep (c : CrcSet) (s : Word) (bs : List Byte) : Word :=
  if c.width = 0 then s
  else bs.foldl (fun t b => (crcByteBits c b).foldl (crcBit c) t) (s &&& crcMask c)

/-- CRCINIT of R209. -/
def crcInit (c : CrcSet) : Word := if c.init then crcMask c else 0

/-- CRCFIN of R209. -/
def crcFin (c : CrcSet) (a : Word) : Word :=
  if c.width = 0 then 0
  else
    let r0 := if c.refin then a.toNat % 2 ^ c.width else a.toNat / 2 ^ (32 - c.width)
    let r1 := if c.refout != c.refin then revNat c.width r0 else r0
    BitVec.ofNat 32 (if c.xorout then (2 ^ c.width - 1) - r1 else r1)

/-- The settings of CRC-32C (Table 7.6). -/
def crc32cSet : CrcSet := crcSetOf 0x1EDC6F41 0xF0000020

/-- The CRC-32C of a byte string. -/
def crc32c (bs : List Byte) : Word := crcFin crc32cSet (crcStep crc32cSet (crcInit crc32cSet) bs)

/-- The CRC-32C of `x` followed by `y` from the CRC of `x`, the CRC of `y` and the length of `y` in bits: the first
CRC is moved past the second string by zero bits, with no initial value and no final inversion. -/
def crc32cShift : Nat → Word → Word
  | 0, s => s
  | n + 1, s => crc32cShift n (crcBit crc32cSet s false)

/-- CRC-32C of a string whose first part has CRC `cx` and whose second part, one 64-byte tile, has CRC `cy`. -/
def crc32cAppendTile (cx cy : Word) : Word := crc32cShift 512 cx ^^^ cy

/-- CRC-32C over a sequence of 64-byte tiles, from the tiles' own CRCs; the empty sequence has CRC 0. -/
def crc32cOfTiles (cs : List Word) : Word := cs.foldl crc32cAppendTile 0

/-- CRC-16/XMODEM-style step over bytes with a 16-bit polynomial, most significant bit first (used where a chapter
names such a code; `init` is the starting value). -/
def crc16Bytes (poly : Nat) (init : Nat) (bs : List Byte) : Nat :=
  bs.foldl (fun s b => (List.range 8).foldl (fun t i =>
    let f := t.testBit 15 != b.getLsbD (7 - i)
    let u := (t * 2) % 65536
    if f then Nat.xor u poly else u) s) init

end Sys2Proof.Machine
end

