-- ==== Sys2Proof/Machine/Float.lean ====
section
/-! DEFINITION. Binary32 arithmetic of R211 to R215, by exact integer arithmetic and one rounding to nearest even. -/

namespace Sys2Proof.Machine

/-- The canonical quiet NaN of R213. -/
def fQNaN : Word := 0x7FC00000

/-- Biased exponent field. -/
def fExp (a : Word) : Nat := field a 30 23
/-- Fraction field. -/
def fFrac (a : Word) : Nat := field a 22 0
/-- Sign bit. -/
def fSign (a : Word) : Bool := bitAt a 31
/-- A NaN of either kind. -/
def fIsNaN (a : Word) : Bool := decide (fExp a = 255) && !decide (fFrac a = 0)
/-- An infinity of either sign. -/
def fIsInf (a : Word) : Bool := decide (fExp a = 255) && decide (fFrac a = 0)
/-- A zero of either sign. -/
def fIsZero (a : Word) : Bool := decide (field a 30 0 = 0)
/-- Signed infinity. -/
def fInf (s : Bool) : Word := if s then 0xFF800000 else 0x7F800000
/-- Signed zero. -/
def fZero (s : Bool) : Word := if s then 0x80000000 else 0

/-- The integer significand of a finite number: its value is `fMant a * 2 ^ (fPow a - 149)`. -/
def fMant (a : Word) : Nat := if fExp a = 0 then fFrac a else fFrac a + 2 ^ 23
/-- The power of two of a finite number above 2^-149. -/
def fPow (a : Word) : Nat := fExp a - 1

/-- The signed integer value of a finite number in units of 2^-149. -/
def fUnits (a : Word) : Int := let v : Int := (fMant a * 2 ^ fPow a : Nat); if fSign a then -v else v

/-- A magnitude divided by a power of two, rounded to nearest with ties to even; `sticky` says that the exact value is
a little more than `m`. -/
def roundShift (m k : Nat) (sticky : Bool) : Nat :=
  let q := m >>> k
  let r := m % 2 ^ k
  let half := 2 ^ k / 2
  if k = 0 then m
  else if half < r ∨ (r = half ∧ (sticky = true ∨ q % 2 = 1)) then q + 1 else q

/-- The binary32 nearest to `m * 2 ^ -p`, with sign `s`; `m` is not zero, and `sticky` says that the exact magnitude
is a little more than `m` units. -/
def fRound (s : Bool) (m p : Nat) (sticky : Bool) : Word :=
  let len := Nat.log2 m + 1
  -- the exponent of the last place kept, as an offset above 2^-149
  let top : Int := (len : Int) - 24 - p + 149
  let q : Nat := top.toNat
  let sh : Int := (q : Int) + p - 149
  let r : Nat := if 0 ≤ sh then roundShift m sh.toNat sticky else m * 2 ^ (-sh).toNat
  let bits := q * 2 ^ 23 + r
  if 0x7F800000 ≤ bits then fInf s else BitVec.ofNat 32 (bits + if s then 2 ^ 31 else 0)

/-- The binary32 nearest to an exact integer number of units of 2^-p; an exact zero takes the sign `z`. -/
def fOfInt (z : Bool) (v : Int) (p : Nat) : Word :=
  if v = 0 then fZero z else fRound (decide (v < 0)) v.natAbs p false

/-- Addition. -/
def fAdd (a b : Word) : Word :=
  if fIsNaN a || fIsNaN b then fQNaN
  else if fIsInf a then (if fIsInf b && (fSign a != fSign b) then fQNaN else a)
  else if fIsInf b then b
  else fOfInt (fSign a && fSign b) (fUnits a + fUnits b) 149

/-- Negation of the sign bit. -/
def fNeg (a : Word) : Word := a ^^^ 0x80000000

/-- Subtraction. -/
def fSub (a b : Word) : Word := if fIsNaN b then fQNaN else fAdd a (fNeg b)

/-- Multiplication. -/
def fMul (a b : Word) : Word :=
  let s := fSign a != fSign b
  if fIsNaN a || fIsNaN b then fQNaN
  else if fIsInf a || fIsInf b then (if fIsZero a || fIsZero b then fQNaN else fInf s)
  else fOfInt s (fUnits a * fUnits b) 298

/-- Fused `d + a * b`, rounded once. -/
def fMadd (d a b : Word) : Word :=
  let s := fSign a != fSign b
  if fIsNaN a || fIsNaN b || fIsNaN d then fQNaN
  else if fIsInf a || fIsInf b then
    (if fIsZero a || fIsZero b then fQNaN
     else if fIsInf d && (fSign d != s) then fQNaN else fInf s)
  else if fIsInf d then d
  else fOfInt (s && fSign d) (fUnits a * fUnits b + fUnits d * 2 ^ 149) 298

/-- Division. -/
def fDiv (a b : Word) : Word :=
  let s := fSign a != fSign b
  if fIsNaN a || fIsNaN b then fQNaN
  else if fIsInf a then (if fIsInf b then fQNaN else fInf s)
  else if fIsInf b then fZero s
  else if fIsZero b then (if fIsZero a then fQNaN else fInf s)
  else if fIsZero a then fZero s
  else
    let n := (fUnits a).natAbs * 2 ^ 330
    let d := (fUnits b).natAbs
    fRound s (n / d) 330 (!decide (n % d = 0))

/-- Integer square root by `k` binary digits from the top. -/
def isqrt : Nat → Nat → Nat → Nat
  | 0, _, r => r
  | k + 1, v, r => isqrt k v (if (r + 2 ^ k) * (r + 2 ^ k) ≤ v then r + 2 ^ k else r)

/-- Square root. -/
def fSqrt (a : Word) : Word :=
  if fIsNaN a then fQNaN
  else if fIsZero a then a
  else if fSign a then fQNaN
  else if fIsInf a then a
  else
    -- units of 2^-149 become units of 2^-300, whose root is in units of 2^-150
    let v := (fUnits a).natAbs * 2 ^ 151
    let r := isqrt 220 v 0
    fRound false r 150 (!decide (r * r = v))

/-- A key that orders finite and infinite numbers, with −0 just below +0 (R213). -/
def fKey (a : Word) : Int := if fSign a then -((field a 30 0 : Nat) : Int) - 1 else (field a 30 0 : Nat)

/-- minimumNumber or maximumNumber (R213). -/
def fMinMax (mx : Bool) (a b : Word) : Word :=
  if fIsNaN a && fIsNaN b then fQNaN
  else if fIsNaN a then b
  else if fIsNaN b then a
  else if decide (fKey a ≤ fKey b) != mx then a else b

/-- FCLASS mask of Table 7.8. -/
def fClass (a : Word) : Word :=
  let k := if fIsNaN a then (if a.getLsbD 22 then 9 else 8)
    else if fIsInf a then (if fSign a then 0 else 7)
    else if fIsZero a then (if fSign a then 3 else 4)
    else if fExp a = 0 then (if fSign a then 2 else 5)
    else (if fSign a then 1 else 6)
  BitVec.ofNat 32 (2 ^ k)

/-- FOP minors of Table 7.7; `d` is the old value of `rd`. -/
def fopOp (minor : Nat) (d a b : Word) : Option Word :=
  match minor with
  | 0 => some (fAdd a b)
  | 1 => some (fSub a b)
  | 2 => some (fMul a b)
  | 3 => some (fDiv a b)
  | 4 => some (fSqrt a)
  | 5 => some (fMinMax false a b)
  | 6 => some (fMinMax true a b)
  | 7 => some (a &&& 0x7FFFFFFF)
  | 8 => some (fNeg a)
  | 9 => some (fMadd d a b)
  | 10 => some (fMadd d (fNeg a) b)
  | 11 => some (fClass a)
  | _ => none

/-- Whether `a` is below `b`, both ordered. -/
def fLt (a b : Word) : Bool := decide (fUnitsX a < fUnitsX b)
where
  /-- A value that orders infinities beyond every finite number. -/
  fUnitsX (x : Word) : Int := if fIsInf x then (if fSign x then -2 ^ 300 else 2 ^ 300) else fUnits x

/-- FCMP minors of Table 7.9. -/
def fcmpOp (minor : Nat) (a b : Word) : Option Bool :=
  let un := fIsNaN a || fIsNaN b
  let lt := !un && fLt a b
  let gt := !un && fLt b a
  let eq := !un && !lt && !gt
  match minor with
  | 0 => some eq
  | 1 => some lt
  | 2 => some (lt || eq)
  | 3 => some gt
  | 4 => some (gt || eq)
  | 5 => some un
  | 6 => some (!eq)
  | _ => none

/-- A finite number as an integer, to nearest even or toward zero. -/
def fToInt (near : Bool) (a : Word) : Int :=
  let m := fMant a * 2 ^ fPow a
  let v : Int := (if near then roundShift m 149 false else m >>> 149 : Nat)
  if fSign a then -v else v

/-- Conversion to an integer, clamped to a range; a NaN gives 0 (R215). -/
def fCvtInt (near : Bool) (lo hi : Int) (a : Word) : Word :=
  if fIsNaN a then 0
  else if fIsInf a then BitVec.ofInt 32 (if fSign a then lo else hi)
  else clampW (fToInt near a) lo hi

/-- FCVT minors of Table 7.10. -/
def fcvtOp (minor : Nat) (a : Word) : Option Word :=
  match minor with
  | 0 => some (fOfInt false a.toInt 0)
  | 1 => some (fOfInt false (a.toNat : Int) 0)
  | 2 => some (fCvtInt true (-2147483648) 2147483647 a)
  | 3 => some (fCvtInt false (-2147483648) 2147483647 a)
  | 4 => some (fCvtInt true 0 4294967295 a)
  | 5 => some (fCvtInt false 0 4294967295 a)
  | _ => none

end Sys2Proof.Machine
end

