-- ==== Sys2Proof/Machine/Flags.lean ====
section
/-! DEFINITION. The flags and units of the micro-sequencer (R286, R287). -/

namespace Sys2Proof.Machine

/-- The flags Z, N, C and V of R287. -/
structure UFlags where
  z : Bool := false
  n : Bool := false
  c : Bool := false
  v : Bool := false
  deriving DecidableEq, Repr

/-- FLAGS of Table 10.5: Z, N, C, V in bits 3:0. -/
def flagsWord (f : UFlags) : Word := BitVec.ofNat 32 (8 * b2n f.z + 4 * b2n f.n + 2 * b2n f.c + b2n f.v)

/-- The operations of unit 0 (Table 10.6). -/
def unitInt (op : Nat) (a b : Word) : Word :=
  let some' (x : Option Word) : Word := x.getD 0
  match op with
  | 0 => a + b
  | 1 => a - b
  | 2 => a &&& b
  | 3 => a ||| b
  | 4 => a ^^^ b
  | 5 => a &&& ~~~b
  | 6 => some' (aluOp 11 a b)
  | 7 => some' (aluOp 12 a b)
  | 8 => some' (aluOp 13 a b)
  | 9 => some' (aluOp 14 a b)
  | 10 => some' (satOp 0 a b)
  | 11 => some' (satOp 1 a b)
  | 12 => some' (satOp 2 a b)
  | 13 => some' (satOp 3 a b)
  | 14 => a
  | _ => b

/-- The operations of unit 1; the field comes from CONST. -/
def unitShift (op : Nat) (a b k : Word) : Word :=
  let n := field b 7 0
  match op with
  | 0 => shlW a n
  | 1 => shrW a n
  | 2 => sraW a n
  | 3 => rolW a n
  | 4 => (satOp 8 a b).getD 0
  | 5 => (fldOp 0 0 a k).getD 0
  | 6 => (fldOp 1 0 a k).getD 0
  | 7 => (fldOp 2 a b k).getD 0
  | 8 => (fldOp 4 0 a k).getD 0
  | _ => 0

/-- The operations of unit 2; OP 5 to 7 are the micro-ROM's own. -/
def unitMul (op : Nat) (a b : Word) : Word :=
  match op with
  | 0 => (mulOp 0 0 a b).getD 0
  | 1 => (mulOp 1 0 a b).getD 0
  | 2 => (mulOp 2 0 a b).getD 0
  | 3 => (mulOp 3 0 a b).getD 0
  | 4 => (mulOp 6 0 a b).getD 0
  | _ => 0

/-- The operations of unit 4 (R208 with state A and data B). -/
def unitCrc (c : CrcSet) (op : Nat) (a b : Word) : Word :=
  match op with
  | 0 => crcStep c a (leBytes 1 b.toNat)
  | 1 => crcStep c a (leBytes 2 b.toNat)
  | 2 => crcStep c a (leBytes 4 b.toNat)
  | _ => 0

/-- Whether `y` is the reciprocal of the finite number `a` to 12 bits: their exact product differs from 1 by at most 2^-12. -/
def recipOk (a y : Word) : Bool := decide (fExp a ≠ 255) && decide (fExp y ≠ 255) && decide ((fUnits a * fUnits y - 2 ^ 298).natAbs ≤ 2 ^ 286)

/-- Whether `y` is the reciprocal square root of the finite number `a` to 12 bits: positive, with `a * y^2` between the squares of 1 - 2^-12 and
1 + 2^-12. -/
def rsqrtOk (a y : Word) : Bool :=
  let v := fUnits a * fUnits y * fUnits y * 2 ^ 24
  decide (fExp a ≠ 255) && decide (fExp y ≠ 255) && decide (0 < fUnits y) && decide ((2 ^ 12 - 1) ^ 2 * 2 ^ 447 ≤ v) && decide (v ≤ (2 ^ 12 + 1) ^ 2 * 2 ^ 447)

/-- FRCPE (R286): an open value among those correct to 12 bits, and open where no number is that (a zero, an infinity, a NaN, and an
operand whose reciprocal overflows). -/
def fRecip (a : Word) : Word :=
  if recipOk a (fDiv 0x3F800000 a) && !recipOk a (Config.frcpe a) then fDiv 0x3F800000 a else Config.frcpe a

/-- FRSQE (R286), in the same way: correct to 12 bits for every positive number, the subnormal ones among them. -/
def fRsqrt (a : Word) : Word :=
  let r := fDiv 0x3F800000 (fSqrt a)
  if rsqrtOk a r && !rsqrtOk a (Config.frsqe a) then r else Config.frsqe a

/-- The operations of unit 5; `t3` is ut3. -/
def unitFloat (op : Nat) (a b t3 : Word) : Word :=
  match op with
  | 0 => fAdd a b
  | 1 => fSub a b
  | 2 => fMul a b
  | 3 => fMinMax false a b
  | 4 => fMinMax true a b
  | 5 => fMadd t3 a b
  | 6 => (fcvtOp 0 a).getD 0
  | 7 => (fcvtOp 1 a).getD 0
  | 8 => (fcvtOp 2 a).getD 0
  | 9 => (fcvtOp 3 a).getD 0
  | 10 => (fcvtOp 4 a).getD 0
  | 11 => (fcvtOp 5 a).getD 0
  | 12 => fRecip a
  | 13 => fRsqrt a
  | _ => 0

/-- The result Y of a unit, none for the compare unit, which leaves Y unchanged (R286); so do its reserved operations 3 to 15 (DESIGN
CHOICE: R286 gives Y = 0 for an unlisted OP of a unit, and Table 10.6 leaves Y unchanged for this one; log 69). -/
def unitY (c : CrcSet) (unit op : Nat) (a b k t3 : Word) : Option Word :=
  match unit with
  | 0 => some (unitInt op a b)
  | 1 => some (unitShift op a b k)
  | 2 => some (unitMul op a b)
  | 3 => some ((bitOp op a).getD 0)
  | 4 => some (unitCrc c op a b)
  | 5 => some (unitFloat op a b t3)
  | 6 => none
  | _ => some 0

/-- The carry out of bit 31 of ADD, and the borrow of SUB (R287). -/
def flagC (unit op : Nat) (a b : Word) : Bool :=
  if unit = 0 then
    (if op = 0 ∨ op = 12 then decide (2 ^ 32 ≤ a.toNat + b.toNat)
     else if op = 1 ∨ op = 13 then a.ult b else false)
  else false

/-- The signed overflow of ADD or SUB (R287). -/
def flagV (unit op : Nat) (a b : Word) : Bool :=
  let out (r : Int) : Bool := decide (r < -2147483648) || decide (2147483647 < r)
  if unit = 0 then
    (if op = 0 then out (a.toInt + b.toInt) else if op = 1 then out (a.toInt - b.toInt) else false)
  else false

/-- The flags that a unit result leaves when SETF is 1 (R287). -/
def flagsOf (unit op : Nat) (a b y : Word) : UFlags :=
  { z := decide (y = 0), n := y.msb, c := flagC unit op a b, v := flagV unit op a b }

/-- The flags that the compare unit leaves, where `y` is the Y that it does not change (R286, R287); a reserved OP leaves the
flags. -/
def flagsCmp (old : UFlags) (op : Nat) (a b y : Word) : UFlags :=
  match op with
  | 0 => flagsOf 0 1 a b (a - b)
  | 1 => { z := decide (a &&& b = 0), n := y.msb, c := false, v := false }
  | 2 => { z := (fcmpOp 0 a b).getD false, n := (fcmpOp 1 a b).getD false, c := (fcmpOp 5 a b).getD false, v := false }
  | _ => old

end Sys2Proof.Machine
end

