-- ==== Sys2Proof/Machine/Operands.lean ====
section
/-! DEFINITION. Syllables and bundles (R157 to R161, R173, R174, R201, R203): the fields of a syllable, the decode-table
entry and its defaults (R276 to R278), which operation a major and minor select, and the operand rules. -/

namespace Sys2Proof.Machine

/-- The operations of the instruction set, one per row of the command list that stands for an instruction. -/
inductive Op where
  | alu | aluImm | shiftImm | unary | sat | cmp | plog | getp | setp | mul | div
  | load | store | ldc | stc | fence
  | cmov | csetb | csetl | csetbl | candp | cgetb | cgetl | cgetp | cgett | cseal | cunseal | csentry
  | br | blc | jr | cj | cjo | rep | repi
  | bit | fld | crcStep | crcInit | crcFin | crcBlk
  | fop | fdiv | fsqrt | fcmp | fcvt
  | tpop | tpeek | tpush | tpopr | tpushr
  | ctxOpen | ctxCommit | ctxLock | ctxUnlock | ctxDrop | dispatch
  | tickWait | twr | trd | mfs | mts | cmfs | cmts | eret | sysc | brk
  | custom
  deriving DecidableEq, Repr

/-- Operand formats (Table 5.10). -/
inductive Fmt where
  | r3 | ri | rl
  deriving DecidableEq, Repr

/-- Slot classes (Table 5.11). -/
inductive Cls where
  | a | a0 | m | f | b | c
  deriving DecidableEq, Repr

/-- A syllable as it stands in IMEM: its address, its word, its literal extension and its decode-table entry. -/
structure Syl where
  addr : Nat
  word : Word
  ext : Word
  entry : Word
  deriving DecidableEq, Repr

/-- STOP (Table 5.9). -/
def sylStop (w : Word) : Bool := bitAt w 31
/-- PRED. -/
def sylPred (w : Word) : Nat := field w 30 28
/-- NEG. -/
def sylNeg (w : Word) : Bool := bitAt w 27
/-- MAJOR. -/
def sylMajor (w : Word) : Nat := field w 26 19
/-- rd (Table 5.10). -/
def sylRd (w : Word) : Nat := field w 18 14
/-- ra. -/
def sylRa (w : Word) : Nat := field w 13 9
/-- rb of 3R and RL. -/
def sylRb (w : Word) : Nat := field w 8 4
/-- minor of 3R and RL. -/
def sylMinor (w : Word) : Nat := field w 3 0
/-- The 9-bit signed immediate of RI, sign-extended. -/
def sylImm (w : Word) : Word := (w.setWidth 9).signExtend 32

/-- VALID of a decode-table entry (Table 10.1). -/
def entValid (e : Word) : Bool := bitAt e 31
/-- UCODE. -/
def entUcode (e : Word) : Bool := bitAt e 30
/-- PRIV. -/
def entPriv (e : Word) : Bool := bitAt e 29
/-- UTRAP. -/
def entUtrap (e : Word) : Bool := bitAt e 28
/-- SIDEFX. -/
def entSidefx (e : Word) : Bool := bitAt e 27
/-- FMT; the reserved code gives none. -/
def entFmt (e : Word) : Option Fmt :=
  match field e 25 24 with
  | 0 => some .r3 | 1 => some .ri | 2 => some .rl | _ => none
/-- CLASS; a reserved code gives none. -/
def entCls (e : Word) : Option Cls :=
  match field e 23 21 with
  | 0 => some .a | 1 => some .a0 | 2 => some .m | 3 => some .f | 4 => some .b | 5 => some .c | _ => none
/-- NEED. -/
def entNeed (e : Word) : Nat := field e 20 19
/-- UADDR. -/
def entUaddr (e : Word) : Nat := field e 12 0

/-- The format code of Table 10.1. -/
def fmtCode : Fmt → Nat
  | .r3 => 0 | .ri => 1 | .rl => 2
/-- The class code of Table 10.1. -/
def clsCode : Cls → Nat
  | .a => 0 | .a0 => 1 | .m => 2 | .f => 3 | .b => 4 | .c => 5

/-- Format, class, microcoded state and permission of each major of Tables 6.1 and 7.1. -/
def majorInfo (m : Nat) : Option (Fmt × Cls × Bool × Nat) :=
  if m = 0x01 then some (.r3, .a, false, 0)
  else if m = 0x02 then some (.rl, .a, false, 0)
  else if 0x03 ≤ m ∧ m ≤ 0x0A then some (.ri, .a, false, 0)
  else if m = 0x0D ∨ m = 0x0E then some (.r3, .a, false, 0)
  else if m = 0x0F then some (.rl, .a, false, 0)
  else if m = 0x10 then some (.r3, .a, false, 0)
  else if m = 0x11 then some (.rl, .a, false, 0)
  else if 0x12 ≤ m ∧ m ≤ 0x19 then some (.ri, .a, false, 0)
  else if m = 0x1A ∨ m = 0x1B then some (.r3, .a, false, 0)
  else if m = 0x20 then some (.r3, .a0, false, 0)
  else if m = 0x21 then some (.rl, .a0, false, 0)
  else if m = 0x22 then some (.ri, .a0, false, 0)
  else if m = 0x23 then some (.r3, .a0, true, 0)
  else if m = 0x24 then some (.rl, .a0, true, 0)
  else if m = 0x30 then some (.r3, .m, false, 0)
  else if m = 0x31 then some (.rl, .m, false, 0)
  else if 0x32 ≤ m ∧ m ≤ 0x39 then some (.ri, .m, false, 0)
  else if m = 0x3A then some (.r3, .m, false, 0)
  else if m = 0x3B then some (.rl, .m, false, 0)
  else if 0x3C ≤ m ∧ m ≤ 0x41 then some (.ri, .m, false, 0)
  else if m = 0x42 then some (.r3, .m, false, 0)
  else if m = 0x48 then some (.r3, .m, false, 0)
  else if m = 0x49 then some (.rl, .m, false, 0)
  else if m = 0x50 then some (.ri, .c, false, 0)
  else if m = 0x51 then some (.rl, .c, false, 0)
  else if m = 0x52 then some (.ri, .c, false, 0)
  else if 0x53 ≤ m ∧ m ≤ 0x57 then some (.r3, .c, false, 0)
  else if m = 0x60 ∨ m = 0x62 ∨ m = 0x64 then some (.r3, .b, false, 0)
  else if m = 0x63 then some (.rl, .b, false, 0)
  else if m = 0x65 then some (.r3, .b, true, 0)
  else if m = 0x68 ∨ m = 0x6A ∨ m = 0x6C then some (.r3, .f, false, 0)
  else if m = 0x69 ∨ m = 0x6B then some (.rl, .f, false, 0)
  else if 0x70 ≤ m ∧ m ≤ 0x74 then some (.r3, .c, false, 2)
  else if m = 0x78 then some (.r3, .c, false, 1)
  else if 0x7D ≤ m ∧ m ≤ 0x7F then some (.r3, .c, false, 0)
  else none

/-- The place of a routine of the standard instruction set in the micro-ROM (Table 10.2). -/
def romPlace (a : BitVec 13) : Nat := 0x40 + a.toNat % 0x7C0

/-- The Vetchaos default entry of a major (R278). The micro-address of a micro-ROM routine is not in the manual: it is
`uaddr`. The UTRAP flag of a microcoded default is 1 (DEDUCED from R185, R210 and R216: their trap points take
events). -/
def defaultEntry (uaddr : Nat → BitVec 13) (m : Nat) : Word :=
  match majorInfo m with
  | none => 0
  | some (f, k, u, need) =>
    BitVec.ofNat 32 (2 ^ 31 + (if u then 2 ^ 30 + 2 ^ 28 + romPlace (uaddr m) else 0) + fmtCode f * 2 ^ 24 +
      clsCode k * 2 ^ 21 + need * 2 ^ 19)

/-- The load and store operations that `minor[2:0]` selects (Table 6.9): size in bytes. -/
def lsSize (k : Nat) : Nat :=
  match k with
  | 0 => 1 | 1 => 1 | 2 => 2 | 3 => 2 | 4 => 4 | 5 => 8 | _ => 16

/-- The operation code 0 to 7 of Table 6.9 that a load or store syllable selects, and its SCALE. -/
def lsSel (major minor : Nat) : Nat × Bool :=
  if major = 0x30 ∨ major = 0x31 ∨ major = 0x3A ∨ major = 0x3B then (minor % 8, decide (8 ≤ minor))
  else if 0x32 ≤ major ∧ major ≤ 0x39 then (major - 0x32, false)
  else match major with
    | 0x3C => (0, false) | 0x3D => (2, false) | 0x3E => (4, false) | 0x3F => (5, false)
    | 0x40 => (6, false) | _ => (7, false)

/-- The operation of CAP and CAP.L minors (Table 6.11). -/
def capMinor (long : Bool) (minor : Nat) : Option Op :=
  if long then
    match minor with
    | 1 => some .csetb | 2 => some .csetl | 3 => some .candp | 12 => some .csetbl | _ => none
  else
    match minor with
    | 0 => some .cmov | 1 => some .csetb | 2 => some .csetl | 3 => some .candp
    | 4 => some .cgetb | 5 => some .cgetl | 6 => some .cgetp | 7 => some .cgett
    | 8 => some .cseal | 9 => some .cunseal | 10 => some .csentry | _ => none

/-- `some op` when `minor` is at most `hi`. -/
def upTo (hi minor : Nat) (op : Op) : Option Op := if minor ≤ hi then some op else none

/-- The operation that a major below 0xE0 and a minor select; none where either is reserved (R173, R203). -/
def opOf (major minor : Nat) : Option Op :=
  if major = 0x01 ∨ major = 0x02 then upTo 14 minor .alu
  else if 0x03 ≤ major ∧ major ≤ 0x06 then some .aluImm
  else if 0x07 ≤ major ∧ major ≤ 0x0A then some .shiftImm
  else if major = 0x0D then upTo 6 minor .unary
  else if major = 0x0E then upTo 8 minor .sat
  else if major = 0x0F then upTo 3 minor .sat
  else if major = 0x10 ∨ major = 0x11 then upTo 11 minor .cmp
  else if 0x12 ≤ major ∧ major ≤ 0x19 then some .cmp
  else if major = 0x1A then upTo 7 minor .plog
  else if major = 0x1B then (match minor with
    | 0 => some .getp | 1 => some .setp | _ => none)
  else if major = 0x20 ∨ major = 0x21 then upTo 6 minor .mul
  else if major = 0x22 then some .mul
  else if major = 0x23 ∨ major = 0x24 then upTo 3 minor .div
  else if 0x30 ≤ major ∧ major ≤ 0x39 then some (if (lsSel major minor).1 = 7 then .ldc else .load)
  else if 0x3A ≤ major ∧ major ≤ 0x41 then
    (match (lsSel major minor).1 with | 7 => some .stc | 1 => none | 3 => none | _ => some .store)
  else if major = 0x42 then some .fence
  else if major = 0x48 then capMinor false minor
  else if major = 0x49 then capMinor true minor
  else if major = 0x50 ∨ major = 0x51 then some .br
  else if major = 0x52 then some .blc
  else if major = 0x53 then some .jr
  else if major = 0x54 then some .cj
  else if major = 0x55 then some .cjo
  else if major = 0x56 then some .rep
  else if major = 0x57 then some .repi
  else if major = 0x60 then upTo 8 minor .bit
  else if major = 0x62 ∨ major = 0x63 then upTo 4 minor .fld
  else if major = 0x64 then
    (match minor with
      | 0 => some .crcStep | 1 => some .crcStep | 2 => some .crcStep | 3 => some .crcInit
      | 4 => some .crcFin | _ => none)
  else if major = 0x65 then some .crcBlk
  else if major = 0x68 then (match minor with
    | 3 => some .fdiv | 4 => some .fsqrt | k => upTo 11 k .fop)
  else if major = 0x69 then (if hasNat minor [0, 1, 2, 5, 6, 9, 10] then some .fop else none)
  else if major = 0x6A ∨ major = 0x6B then upTo 6 minor .fcmp
  else if major = 0x6C then upTo 5 minor .fcvt
  else if major = 0x70 then some .tpop
  else if major = 0x71 then some .tpeek
  else if major = 0x72 then some .tpush
  else if major = 0x73 then some .tpopr
  else if major = 0x74 then some .tpushr
  else if major = 0x78 then
    (match minor with
      | 0 => some .ctxOpen | 1 => some .ctxCommit | 2 => some .ctxLock | 3 => some .ctxUnlock
      | 4 => some .dispatch | 5 => some .ctxDrop | _ => none)
  else if major = 0x7D then (match minor with | 0 => some .twr | 1 => some .trd | _ => none)
  else if major = 0x7E then
    (match minor with
      | 0 => some .mfs | 1 => some .mts | 2 => some .cmfs | 3 => some .cmts | _ => none)
  else if major = 0x7F then
    (match minor with
      | 0 => some .eret | 1 => some .sysc | 2 => some .brk | 3 => some .tickWait | _ => none)
  else if 0xE0 ≤ major then some .custom
  else none

/-- The entry points of the micro-ROM library (Table 10.3). -/
def libEntry (a : Nat) : Bool := a == 0x00 || a == 0x04 || a == 0x08 || a == 0x0C || a == 0x10

/-- Whether an entry names a routine whose words or results the manual gives: one in micro-RAM, or one of the library. -/
def entOpenRoutine (v : Word) : Bool := decide (0x800 ≤ entUaddr v) || libEntry (entUaddr v)

/-- Whether the entry of a syllable below the customer majors sends it to a routine in micro-RAM or of the library, as a Vetchaos block
may (R276, R278): the routine alone then decides what its operand fields mean. -/
def sylSent (y : Syl) : Bool := entUcode y.entry && entOpenRoutine y.entry && decide (sylMajor y.word < 0xE0)

/-- Whether the entry of a syllable sends it to a routine of the standard instruction set although its major has none of its own: the
manual does not say which routine stands at a micro-address of the micro-ROM (Table 10.2, log 20). -/
def sylAway (y : Syl) : Bool :=
  entUcode y.entry && !entOpenRoutine y.entry && decide (sylMajor y.word < 0xE0) &&
  !((majorInfo (sylMajor y.word)).any (fun q => q.2.2.1))

/-- The operation of a syllable; one sent to a routine that is not that of its own major runs as a customer instruction does. A major
with a routine in the micro-ROM runs that one, whatever address of the micro-ROM its entry gives (DESIGN CHOICE: the manual gives no map
of the micro-ROM; log 20). -/
def sylOp (y : Syl) : Option Op :=
  if sylSent y || sylAway y then some .custom else opOf (sylMajor y.word) (sylMinor y.word)

/-- Whether the major of a syllable is one of the RL majors of Tables 6.1 and 7.1. -/
def sylLong (y : Syl) : Bool := decide (entFmt y.entry = some .rl)

/-- The second operand: g[rb] in 3R, the immediate in RI, the literal in RL. -/
def sylB (y : Syl) (rb : Word) : Word :=
  match entFmt y.entry with
  | some .ri => sylImm y.word
  | some .rl => y.ext
  | _ => rb

/-- The operand fields that must be zero or well formed for each operation (R157, R173, R174 and the entries). R200 gives a meaning
to bit 0 of the minor of CJ and CJO only, and the others are ignored (DESIGN CHOICE). -/
def sylFieldsOk (y : Syl) (op : Op) : Bool :=
  let major := sylMajor y.word
  let rd := sylRd y.word
  let ra := sylRa y.word
  let rb := sylRb y.word
  let minor := sylMinor y.word
  let rbz := decide (rb = 0)
  let raz := decide (ra = 0)
  let rdz := decide (rd = 0)
  let lrb := !sylLong y || rbz
  let ls := (lsSel major minor).1
  let lsd := (ls != 5 || decide (rd % 2 = 0)) && (ls != 6 || decide (rd % 4 = 0))
  match op with
  | .alu => lrb
  | .aluImm => true
  | .shiftImm => decide (field y.word 8 5 = 0)
  | .unary => rbz
  | .sat => lrb && (sylLong y || decide (minor < 4) || decide (minor = 8) || rbz)
  | .cmp => decide (rd < 8) && lrb
  | .plog => decide (rd < 8) && decide (ra < 8) && decide (rb < 8) &&
      (decide (minor < 5) || rbz) && (decide (minor < 6) || raz)
  | .getp => raz && rbz
  | .setp => rdz && rbz
  | .mul => lrb
  | .div => lrb
  | .load => decide (ra < 16) && lsd
  | .store => decide (ra < 16) && lsd
  | .ldc => decide (ra < 16) && decide (rd < 16)
  | .stc => decide (ra < 16) && decide (rd < 16)
  | .fence => rdz && raz && rbz && decide (minor = 0)
  | .cmov => decide (rd < 16) && decide (ra < 16) && rbz
  | .csetb => decide (rd < 16) && decide (ra < 16) && lrb
  | .csetl => decide (rd < 16) && decide (ra < 16) && lrb
  | .csetbl => decide (rd < 16) && decide (ra < 16)
  | .candp => decide (rd < 16) && decide (ra < 16) && lrb
  | .cgetb => decide (ra < 16) && rbz
  | .cgetl => decide (ra < 16) && rbz
  | .cgetp => decide (ra < 16) && rbz
  | .cgett => decide (ra < 16) && rbz
  | .cseal => decide (rd < 16) && decide (ra < 16) && decide (rb < 16)
  | .cunseal => decide (rd < 16) && decide (ra < 16) && decide (rb < 16)
  | .csentry => decide (rd < 16) && decide (ra < 16) && rbz
  | .br => if sylLong y then raz && rbz && decide (minor < 2) && decide (field y.ext 1 0 = 0) else decide (ra < 2)
  | .blc => rdz && decide (ra < 2)
  | .jr => rbz && decide (minor < 2)
  | .cj => decide (rd < 16) && decide (ra < 16)
  | .cjo => rdz && decide (ra < 16)
  | .rep => rdz && raz && rbz && decide (minor = 0) && decide (sylPred y.word = 0)
  | .repi => rdz && raz && rbz && decide (minor = 0) && decide (sylPred y.word = 0)
  | .bit => rbz
  | .fld => lrb
  | .crcStep => true
  | .crcInit => raz && rbz
  | .crcFin => rbz
  | .crcBlk => decide (rd % 2 = 0) && decide (ra < 16)
  | .fop => lrb && (sylLong y || !(hasNat minor [7, 8, 11]) || rbz)
  | .fdiv => true
  | .fsqrt => rbz
  | .fcmp => decide (rd < 8) && lrb
  | .fcvt => rbz
  | .tpop => decide (ra < 16)
  | .tpeek => decide (ra < 16)
  | .tpush => decide (ra < 16)
  | .tpopr => decide (rd % 4 = 0) && raz && rbz
  | .tpushr => decide (rd % 4 = 0) && raz && rbz
  | .ctxOpen => decide (rd < 8) && rbz
  | .ctxCommit => rdz && raz && rbz
  | .ctxLock => decide (rd < 8) && rbz
  | .ctxUnlock => rdz && rbz
  | .dispatch => decide (rd % 2 = 0) && raz && rbz
  | .ctxDrop => rdz && raz && rbz
  | .twr => decide (rd < 8) && rbz
  | .trd => raz && decide (rb < 8)
  | .mfs => rbz
  | .mts => rbz
  | .cmfs => decide (rd < 16) && rbz
  | .cmts => decide (ra < 16) && rbz
  | .tickWait => raz && rbz
  | .eret => rdz && raz && rbz
  | .sysc => rdz && rbz
  | .brk => rdz && rbz
  | .custom => true

/-- A destination that R161 compares. -/
inductive Dest where
  | g (r : Nat) | p (r : Nat) | c (r : Nat) | lc | spr (k : Nat) | xpcc (k : Nat)
  deriving DecidableEq, Repr

/-- The destinations of a syllable (R161, R174, R198). A customer instruction counts as writing g[rd] (DEDUCED). -/
def sylDests (y : Syl) (op : Op) : List Dest :=
  let rd := sylRd y.word
  let ls := (lsSel (sylMajor y.word) (sylMinor y.word)).1
  match op with
  | .cmp | .plog | .fcmp | .ctxOpen | .ctxLock | .twr => [.p rd]
  | .setp => [.p 1, .p 2, .p 3, .p 4, .p 5, .p 6, .p 7]
  | .load => if ls = 5 then [.g rd, .g (rd + 1)]
      else if ls = 6 then [.g rd, .g (rd + 1), .g (rd + 2), .g (rd + 3)] else [.g rd]
  | .ldc | .cmov | .csetb | .csetl | .csetbl | .candp | .cseal | .cunseal | .csentry | .cmfs => [.c rd]
  | .store | .stc | .fence | .cjo | .rep | .repi | .tpushr | .ctxCommit | .ctxUnlock | .ctxDrop
  | .eret | .sysc | .brk => []
  | .blc => [.lc]
  | .cj => [.c rd, .g (sylRb y.word)]
  | .crcBlk | .dispatch => [.g rd, .g (rd + 1)]
  | .tpopr => [.g rd, .g (rd + 1), .g (rd + 2), .g (rd + 3)]
  | .trd => [.g rd, .p (sylRb y.word)]
  | .mts => [if rd = 0 then .lc else .spr rd]
  | .cmts => [.xpcc rd]
  | _ => [.g rd]

/-- Whether a destination discards its writes (R138 to R140). -/
def destDead (d : Dest) : Bool := decide (d = .g 0) || decide (d = .p 0) || decide (d = .c 0)

/-- Whether two syllables may share a destination: same PRED, different NEG (R161). -/
def guardsDiffer (x y : Syl) : Bool :=
  decide (sylPred x.word = sylPred y.word) && (sylNeg x.word != sylNeg y.word)

/-- Whether two syllables obey R161 as to their destinations. -/
def destsOk (x y : Syl) (dx dy : List Dest) : Bool :=
  guardsDiffer x y || !(dx.any (fun d => !destDead d && decide (d ∈ dy)))

/-- R161 over all pairs of syllables of a bundle. -/
def allDestsOk : List (Syl × List Dest) → Bool
  | [] => true
  | (y, d) :: t => t.all (fun q => destsOk y q.1 d q.2) && allDestsOk t

/-- Whether an operation is a transfer with a delay slot (R167). -/
def opIsTransfer : Op → Bool
  | .br | .blc | .jr | .cj | .cjo => true
  | _ => false

/-- Whether a syllable serialises (R232): ERET, and MTS to VBASE or ESTAT. -/
def sylSerial (y : Syl) (op : Op) : Bool :=
  match op with
  | .eret => true
  | .mts => decide (sylRd y.word = 1) || decide (sylRd y.word = 2)
  | _ => false

/-- FDIV and FSQRT, the microcoded minors of a hardwired major (Table 7.1). -/
def sylFloatRom (y : Syl) : Bool :=
  decide (sylMajor y.word = 0x68) && (decide (sylMinor y.word = 3) || decide (sylMinor y.word = 4)) && !entUcode y.entry

/-- Whether a syllable runs a micro-routine. -/
def sylUcode (y : Syl) : Bool := entUcode y.entry || sylFloatRom y

/-- Whether trap points of its routine take effect (Table 10.1, R216). -/
def sylUtrap (y : Syl) : Bool := entUtrap y.entry || sylFloatRom y

/-- Whether its routine is one of the standard instruction set, in the micro-ROM (Table 10.2). -/
def sylRom (y : Syl) : Bool := sylFloatRom y || !entOpenRoutine y.entry

/-- What may not stand in a delay slot (R168). -/
def slotBarred (y : Syl) (op : Op) : Bool :=
  opIsTransfer op || op == .rep || op == .repi || sylSerial y op

/-- The number of syllables of a class. -/
def countCls (ys : List Syl) (k : Cls) : Nat := (ys.filter (fun y => decide (entCls y.entry = some k))).length

/-- The slot rules of R159 and R218. -/
def slotsOk (ys : List Syl) (ops : List Op) : Bool :=
  decide (countCls ys .m ≤ 1) && decide (countCls ys .f ≤ 1) && decide (countCls ys .b ≤ 1) &&
  decide (countCls ys .c ≤ 1) && decide (countCls ys .a + countCls ys .a0 ≤ 2) && decide (countCls ys .a0 ≤ 1) &&
  (!(ops.any (fun o => o == .tpop || o == .tpeek || o == .tpush)) || decide (countCls ys .m = 0)) &&
  (!(ops.any (fun o => o == .rep || o == .repi)) || decide (ys.length = 1))

/-- Whether a syllable may be decoded (R157, R173, R174, R201, R203, R234, R277). -/
def sylLegal (y : Syl) : Option Op :=
  if entValid y.entry && (entFmt y.entry).isSome && (entCls y.entry).isSome then
    match sylOp y with
    | some op => if sylFieldsOk y op then some op else none
    | none => none
  else none

/-- Every operation of a bundle, or none when one syllable may not be decoded. -/
def sylOps : List Syl → Option (List Op)
  | [] => some []
  | y :: t =>
    match sylLegal y, sylOps t with
    | some o, some os => some (o :: os)
    | _, _ => none

/-- The operations of a legal bundle in order, or none where R159 or R161 makes the bundle illegal. `badger` says that
the engine has no queues and no window (R204). -/
def bundleOps (badger : Bool) (ys : List Syl) : Option (List Op) :=
  match sylOps ys with
  | none => none
  | some ops =>
    let barred := badger && ys.any (fun y => let m := sylMajor y.word; decide (0x70 ≤ m ∧ m ≤ 0x78) && !sylSent y)
    if slotsOk ys ops && !barred &&
       allDestsOk (ys.zip ((ys.zip ops).map (fun q => sylDests q.1 q.2))) then some ops else none

/-- The slot number of Table 8.2 (USLOT) for the syllable at position `i` of a bundle: an A-class syllable takes A0 when
A0 is free and otherwise A1 (R159). -/
def slotOf (ys : List Syl) (i : Nat) : Nat :=
  match ys[i]? with
  | none => 6
  | some y =>
    match entCls y.entry with
    | some .a0 => 0
    | some .a =>
      if 0 < countCls ys .a0 then 1
      else if 0 < countCls (ys.take i) .a then 1 else 0
    | some .m => 2
    | some .f => 3
    | some .b => 4
    | some .c => 5
    | none => 6

end Sys2Proof.Machine
end

