-- ==== Sys2Proof/Machine/State.lean ====
section
/-! DEFINITION. The whole state of the block as plain data, its reset value, and the reasons a step can stop. A Tbl is a
sparse table in canonical form (Machine/Tbl.lean); the default of each is named where it is read. -/

namespace Sys2Proof.Machine

/-- Why the machine stops with a fault. -/
inductive Fault where
  /-- Raised by a local access to an address outside every region of Tables 5.4 and 5.4a (R145, R148): the manual says
  that no access can reach such an address. Safe. -/
  | notDecoded
  deriving DecidableEq, Repr

/-- Why the machine gives a command no meaning. -/
inductive Refusal where
  /-- An arm of Dispatch that has no meaning yet. Safe. -/
  | notModelled (mnemonic : String)
  /-- Raised by a customer instruction whose micro-word uses a code that Tables 10.4 to 10.9 keep for the micro-ROM and
  Vetchaos without saying what it does, or whose entry names no routine of the manual. Safe. -/
  | vetchaosInternal
  deriving DecidableEq, Repr

/-- A context record or a context window: byte `a` is bits `8 * a + 7` to `8 * a` (Table 4.1). -/
abbrev Rec := BitVec 1024

/-- A transfer whose delay slot is the next bundle (R167). -/
structure Xfer where
  /-- The address of the transfer's bundle. -/
  src : Word
  /-- LC before the transfer (R250). -/
  lcBefore : Word
  taken : Bool
  /-- The delay slot is annulled. -/
  annul : Bool
  target : Word
  /-- The capability that PCC takes after the delay slot. -/
  newPcc : Option W128
  /-- The ring after the delay slot (R259). -/
  newRing : Option Nat
  deriving DecidableEq, Repr

/-- A repeat in progress (R170). -/
structure Rep where
  prefixAt : Word
  repi : Bool
  deriving DecidableEq, Repr

/-- What one syllable makes take effect when its bundle retires. -/
inductive Act where
  | g (r : Nat) (v : Word)
  | p (r : Nat) (v : Bool)
  | c (r : Nat) (v : W128)
  | lc (v : Word)
  /-- A local or far store of bytes; `cap` sets the granule's validity bit (R152), and `burst` says that a TPOP or TPEEK stores cells. -/
  | st (a : Word) (bs : List Byte) (cap burst : Bool)
  /-- A load, for the trace and the ticket words of R156. -/
  | ld (a : Word) (size : Nat) (v : W128)
  | spr (k : Nat) (v : Word)
  /-- The side effect of reading a special register. -/
  | sprRead (k : Nat)
  | xpcc (k : Nat) (v : W128)
  | twr (v : Word)
  | trd
  | xfer (x : Xfer)
  | rep (repi : Bool)
  /-- Removes the first `k` cells that R72 makes available. -/
  | pop (k : Nat)
  | push (cs : List W128)
  | ctxOpen (i : Nat)
  | ctxCommit
  | ctxDrop
  | ctxLock (i : Nat)
  | ctxUnlock (i : Nat)
  | dispatch
  | eret
  | trap (t : Trap)
  | haltReq
  deriving DecidableEq, Repr

/-- A micro-routine that has stopped at a trap point with a fault while a routine at a lower address had still to run (R175): the
position of its syllable and the micro-state that a trap point keeps (R294). -/
structure Parked where
  pos : Nat
  upc : Nat
  stack : List Nat
  ut : List Word
  deriving DecidableEq, Repr

/-- The micro-state that a save bank keeps (R241), together with what the other micro-routines of the bundle have come to: the positions
of those that have completed, their results, and the faults that wait (R175, R254). `xfer` is the transfer in whose delay slot the
bundle stands. -/
structure SaveBank where
  valid : Bool := false
  upc : Nat := 0
  stack : List Nat := []
  ut : List Word := []
  slot : Nat := 0
  donePos : List Nat := []
  done : List Act := []
  late : Option (Nat × Trap) := none
  park : List Parked := []
  pts : Nat := 0
  prog : Option (Word × Word × Word) := none
  xfer : Option Xfer := none
  /-- The bank fails its parity check when it is read (R248). -/
  bad : Bool := false
  deriving DecidableEq, Repr

/-- The save registers of one exception level. -/
structure Save where
  xpc : Word := 0
  xst : Word := 0
  xlc : Word := 0
  xcau : Word := 0
  xadr : Word := 0
  xpcc : W128 := 0
  bank : SaveBank := {}
  deriving DecidableEq, Repr

/-- The micro-sequencer (R281 to R294): the routine that runs, and the registers that outlive it (R293). -/
structure Micro where
  upc : Nat := 0
  stack : List Nat := []
  ut0 : Word := 0
  ut1 : Word := 0
  ut2 : Word := 0
  ut3 : Word := 0
  mar : Word := 0
  mdr : Word := 0
  flags : UFlags := {}
  lastY : Word := 0
  xadrs : Word := 0
  /-- Staged writes (R288). -/
  sRd : Option Word := none
  sRd1 : Option Word := none
  sPd : Option Bool := none
  sLc : Option Word := none
  /-- Position in the bundle of the syllable whose routine runs. -/
  pos : Nat := 0
  /-- Positions whose routines have completed, and their results. -/
  donePos : List Nat := []
  done : List Act := []
  /-- The fault of a routine that has stopped while a routine at a lower address had still to run (R175), with its position. -/
  late : Option (Nat × Trap) := none
  /-- The routines that have stopped at a trap point in the same way. -/
  park : List Parked := []
  /-- The running routine is one of the micro-ROM, whose words are not in the manual. -/
  rom : Bool := false
  /-- The trap points that a routine of the micro-ROM or of the library has passed since its entry (R185, R281). -/
  pts : Nat := 0
  /-- The state, the offset and the length that a CRCBLK of the micro-ROM has left at the trap point at which it stands (R210). -/
  prog : Option (Word × Word × Word) := none
  /-- The word in hand waits for the trace FIFO (R497). -/
  stall : Bool := false
  deriving DecidableEq, Repr

/-- Why a bundle is held. -/
inductive Hold where
  | none
  /-- A micro-routine runs in X1. -/
  | micro
  /-- A far load of the bundle, or of its micro-word, waits for data (R191). -/
  | farLoad (inMicro : Bool)
  /-- A far store waits for the system MMU, or, as a ninth one, for another to complete (R191). -/
  | farStore (inMicro : Bool)
  | fence
  /-- CTXOPEN or CTXLOCK waits on a lock (R115). -/
  | lock
  | dispatch
  | tick
  /-- A TICKWAIT whose edge has come (R229). -/
  | tickMet
  /-- A push waits for room in the outbound queue (R71). -/
  | push
  /-- A record waits for the trace FIFO (R497). -/
  | trace
  /-- A micro-word or decode entry failed its parity check (R297). -/
  | parity (entry : Bool) (adr : Nat)
  deriving DecidableEq, Repr

/-- Whether the engine is started (R144), stopped, or in a machine-check halt (R243). -/
inductive Run where
  | stopped | running | mcheck
  deriving DecidableEq, Repr

/-- Engine power states (Table 17.3), with the entry into NAP, and waking from DOZE and from NAP. -/
inductive PState where
  | run | doze | napEntry | nap | off | waking | wakeNap
  deriving DecidableEq, Repr

/-- Run control of one engine (R480 to R485). -/
structure DbgState where
  halted : Bool := false
  pending : Bool := false
  /-- The cause of the pending request, or of the halt (Table 18.16). -/
  cause : Nat := 0
  /-- KTB when the pending request arose (R480). -/
  since : W64 := 0
  intrap : Bool := false
  lockheld : Bool := false
  stepping : Bool := false
  hpc : Word := 0
  /-- The writes of the register space that wait for the next resume or step, oldest first: whether TILE is 1, ADDR, and the value
  (R489). -/
  writes : List (Bool × Nat × W128) := []
  deriving DecidableEq, Repr

/-- What a waiting bundle has been told: its far store is accepted (R191), its lock wait has ended under R116, or the edge for which its
TICKWAIT waited has come, with the number of that tick (R229). -/
structure Told where
  stOk : Bool := false
  lockOut : Bool := false
  tick : Option Word := none
  deriving DecidableEq, Repr

/-- A cell in an inbound queue; `arr` says that an arrival entry for it has not been dispatched (R81). -/
structure QCell where
  cell : W128
  arr : Bool
  /-- The entry fails its parity at its next read (R315). -/
  bad : Bool := false
  /-- The arrival entry on the ready list fails its parity at its next read (R315). -/
  lost : Bool := false
  deriving DecidableEq, Repr

/-- A cell in an outbound or crossbar queue: pending (R70), and the tick to which its release belongs (R124). -/
structure OCell where
  cell : W128
  pend : Bool
  due : W64
  deriving DecidableEq, Repr

/-- One predictor entry (R267): its counter and its tag. -/
structure PredEnt where
  ctr : Nat
  tag : Nat
  deriving DecidableEq, Repr

/-- An engine: scan engine 0 to 63, S0 64, S1 65, the Badger 66. -/
structure Engine where
  /-- g1 to g31; absent reads zero. -/
  g : Tbl Word := []
  /-- p1 to p7 in bits 7:1. -/
  p : Byte := 0
  c : Tbl W128 := []
  pcc : W128 := 0
  pc : Word := 0
  lc : Word := 0
  vbase : Word := 0
  compat : Bool := false
  ring : Nat := 0
  ptag : Bool := false
  ctxOpen : Option Nat := none
  ubank : Bool := false
  /-- The banks have been filled since block reset: UC.ACTID and UCODE.GOLD show them (R313). -/
  idKnown : Bool := false
  /-- The bank under which the bundle in hand issued, where the banks have been exchanged since (R310). -/
  heldBank : Option Bool := none
  repact : Bool := false
  level : Nat := 0
  dtx : Word := 0
  drx : Word := 0
  dtxf : Bool := false
  drxf : Bool := false
  crcp : Word := 0
  crci : Word := 0
  /-- TICKN.HI as captured (Table 5.2). -/
  tickHi : Word := 0
  save1 : Save := {}
  save2 : Save := {}
  save3 : Save := {}
  startPcc : W128 := 0
  startCompat : Bool := false
  xfer : Option Xfer := none
  rep : Option Rep := none
  hold : Hold := .none
  run : Run := .stopped
  /-- Started during the copy of a release, with no edge since: DISPATCH waits (R419). -/
  fresh : Bool := false
  dbg : DbgState := {}
  u : Micro := {}
  /-- After an ERET to level 0, no event before the next retirement or trap point (R246). -/
  noEvent : Bool := false
  pred : Tbl PredEnt := []
  /-- TCK.TB when the key in force was made, and the engine number of R270. -/
  keyTime : W64 := 0
  keyNum : Nat := 0
  /-- Keys installed (PSTAT.EPOCH). -/
  epoch : Byte := 0
  /-- PSTAT.PTAG is zero until the first start. -/
  everStarted : Bool := false
  window : Rec := 0
  inq : List QCell := []
  outq : List OCell := []
  /-- Ready list: scan entries in ascending local index (R80). -/
  scan : List Nat := []
  /-- Contexts whose ready-list entry was dropped for its parity in this tick, and which have not been dispatched since
  (R315). -/
  scanLost : List Nat := []
  /-- Contexts dispatched since the list was last built (R315). -/
  disp : List Nat := []
  /-- Cells pushed with no context open in the present tick (R63). -/
  seqNone : Nat := 0
  /-- Cells of the push in hand that have been dealt with, and how many of them were placed (R71). -/
  pushDone : Nat := 0
  pushPut : Nat := 0
  /-- What the bundle in hand has been told. -/
  told : Told := {}
  farOut : Nat := 0
  /-- The far stores accepted and not complete, oldest first: local address and bytes (R165). -/
  farSt : List (Nat × List Byte) := []
  imem : List Host.Cell := []
  dmem : List Host.Cell := []
  /-- DMEM granules whose validity bit is 1 (R152). -/
  valid : List Nat := []
  /-- Micro-RAM words of bank 0 and bank 1 by micro-address (R282). -/
  uram0 : Tbl (BitVec 160) := []
  uram1 : Tbl (BitVec 160) := []
  /-- Decode shadows: entries that differ from the defaults of R278. -/
  dec0 : Tbl (Option Word) := []
  dec1 : Tbl (Option Word) := []
  /-- Whether each decode shadow has been filled with the defaults (R306). -/
  filled0 : Bool := false
  filled1 : Bool := false
  /-- Inactive bank: 0 EMPTY, 1 LOADING, 2 LOADED (Table 10.17). -/
  inact : Nat := 0
  dbgmod : Bool := false
  swapPend : Bool := false
  suspadr : Word := 0
  pstate : PState := .run
  /-- A wake condition of R461 has arisen and the engine is not yet in RUN. -/
  wakeReq : Bool := false
  /-- The waiting bundle began to wait at this KTB (R459). -/
  waitFrom : W64 := 0
  /-- The cycles that the lock wait in hand has lasted (R116). -/
  waitCyc : Nat := 0
  /-- Eighths of a cycle between the latest edge of its tick and the engine's start in that tick (TCYC, Table 5.2). -/
  cycOff : Nat := 0
  /-- Eighths of a cycle from the latest edge that reached the engine to the latest one that was withheld from it (R486). -/
  cycHeld : Nat := 0
  /-- TICKN as the engine sees it where its cluster is, or has been since its latest edge, tick-frozen (Table 18.6). -/
  tickn : W64 := 0
  tickHeld : Bool := false
  deriving DecidableEq, Repr

/-- A period or profile change that waits for its edge (R35, R437). -/
structure PendChange where
  tag : Nat
  m : W64
  units : Nat
  subtick : Nat
  profile : Option Nat
  /-- Into MIRRORED, the fill is complete (R439); true for every other change. -/
  fillOk : Bool
  /-- Out of FRUGAL, the BN9 has acknowledged the supply (R464); true for every other change. -/
  voltOk : Bool
  deriving DecidableEq, Repr

/-- The timebase and the tick generator. -/
structure Tick where
  bn9 : W64 := 0
  slew : W64 := 0
  /-- BN9 time since the slew last shrank, in ns (R30). -/
  slewAcc : Nat := 0
  tickn : W64 := 0
  phase : W64 := 0
  basen : W64 := 0
  units : Nat := 0
  reserve : Nat := 5
  subtick : Nat := 0
  running : Bool := false
  /-- The first schedule point not yet taken (R32). -/
  nextK : Nat := 0
  /-- KTB at the schedule point of the present tick, once an edge has come. -/
  edgeAt : Option W64 := none
  firstEdge : Bool := false
  /-- The publish reserve of the present tick has begun. -/
  inReserve : Bool := false
  /-- Sub-tick index of the present Fox sub-tick and its reserve (R58, R59). -/
  subI : Nat := 0
  subReserve : Bool := false
  pend : Option PendChange := none
  /-- Eighths of a KCLK cycle since the main, the sub-tick and the Sett edge. -/
  cycMain : Nat := 0
  cycSub : Nat := 0
  cycSett : Nat := 0
  agePending : Option (BitVec 8) := none
  deriving DecidableEq, Repr

/-- Where a cell is on its way through the crossbar. -/
structure Flight where
  /-- Destination: engine 0–63, 64 the Sett queues, 100 host queue, 101 publication, 102 history, 110 + b bank gateway,
  120 + p chain port. -/
  dest : Nat
  cell : OCell
  deriving DecidableEq, Repr

/-- The queues and the crossbar outside the engines. -/
structure Cells where
  hostq : List W128 := []
  hostCap : W128 := 0
  flight : List Flight := []
  /-- Engine last served by the router of cluster k (R76), plus 1; 0 after reset. -/
  rot : Tbl Nat := []
  /-- Cells pushed for a context in the present tick (R63), by local index; Sett indices above 2^17. -/
  seq : Tbl Nat := []
  /-- Age drops of the queues for which no table names a counter, by the destination numbers of Flight: the gateway queues
  and the late queue of the publication path. -/
  aged : Tbl Nat := []
  deriving DecidableEq, Repr

/-- The context store, its ROUTINE.CTL copies and the shared registers. -/
structure Store where
  /-- Records by local index; absent is all zero. -/
  recs : Tbl Rec := []
  /-- ROUTINE.CTL copies (R110). -/
  ctl : Tbl Word := []
  /-- The copies as they stood at the latest edge (R79). -/
  ctlEdge : Tbl Word := []
  /-- Sett store records and their copies (R374). -/
  sett : Tbl Rec := []
  /-- Cluster shared words by 256 * cluster + word (R156). -/
  shared : Tbl Word := []
  /-- Copies whose tile 0 failed as the Badger released their lock, so that LOCK still shows it (R118, R319). -/
  lockGone : List Nat := []
  /-- The engine of each slice that its store port served last among the engines waiting on a lock, plus 1 (R119). -/
  portRot : Tbl Nat := []
  deriving DecidableEq, Repr

/-- One history entry in the writer's queue. -/
structure HistEnt where
  cell : W128
  time : W64
  slew : Bool
  deriving DecidableEq, Repr

/-- The publication path and the history writer. -/
structure Pub where
  /-- Pending marks of buffer 0 and buffer 1, ascending. -/
  pend0 : List Nat := []
  pend1 : List Nat := []
  late : List OCell := []
  /-- The tick whose buffer is built, its schedule point, and whether its header shows WRITING. -/
  n : W64 := 0
  edgeTime : W64 := 0
  writing : Bool := false
  full : Bool := false
  slewing : Bool := false
  written : Nat := 0
  stale : Nat := 0
  histq : List HistEnt := []
  hseq : Word := 0
  /-- Discards since the previous history entry (R133). -/
  drops : Nat := 0
  histWriting : Bool := false
  histLast : Option W64 := none
  /-- The KTB millisecond of the last entry write, and the entries written in it (R128). -/
  msAt : Nat := 0
  msCount : Nat := 0
  deriving DecidableEq, Repr

/-- A chain frame (R88). -/
structure Frame where
  hdr : W64
  bodies : List W128
  crc : Word
  deriving DecidableEq, Repr

/-- A cell that a chain port holds because it is early by one tick (R56), with the header fields of the frame it came in. -/
structure BufCell where
  cell : W128
  src : Nat := 0
  hops : Nat := 0
  wrap : Bool := false
  past : Bool := false
  deriving DecidableEq, Repr

/-- One chain port. -/
structure Port where
  up : Bool := false
  training : Bool := false
  lanes : Nat := 0
  txSeq : Nat := 0
  rxSeq : Option Nat := none
  /-- Cells held, early by one tick (R56). -/
  buf : List BufCell := []
  /-- The lanes the port runs on, LINK.LANES of them (R87). -/
  active : List Nat := []
  upSince : Option W64 := none
  /-- The port went down while it was a break; VALID = 0 is owed once it is back (R91). -/
  owesClear : Bool := false
  deriving DecidableEq, Repr

/-- The chain. -/
structure Chain where
  unit : Nat := 0
  units : Nat := 0
  brkValid : Bool := false
  brkUnit : Nat := 0
  port0 : Port := {}
  port1 : Port := {}
  /-- Tentative address, the ORIGIN it came with, and KTB when it was taken. -/
  tent : Option (Nat × Word × W64) := none
  /-- The head's own outstanding offer: its ORIGIN, the command's tag and KTB when it was sent. -/
  offer : Option (Word × Nat × W64) := none
  /-- Frames sent, oldest first: port and frame (outputs). -/
  out : List (Nat × Frame) := []
  deriving DecidableEq, Repr

/-- The changing part of an event source (R333). -/
structure Src where
  raw : Bool := false
  pend : Bool := false
  insvc : Option Nat := none
  offered : Option Nat := none
  rot : Nat := 71
  deriving DecidableEq, Repr

/-- A hold-off timer: units left when it was last rebased, and the KTB multiple of 100 ns it counts from (R342). -/
structure Timer where
  left : Nat := 0
  base : Nat := 0
  deriving DecidableEq, Repr

/-- The event hub. -/
structure Hub where
  src : Tbl Src := []
  sw : Tbl Word := []
  tmr : Tbl Timer := []
  deriving DecidableEq, Repr

/-- What a moth waits for inside an instruction. -/
inductive MWait where
  | none
  /-- SHOUT or SHIN with bits left. -/
  | shift (left : Nat)
  /-- EDGE or COUNT. -/
  | edge
  | count
  | stallF
  | stallS
  | delay (dly : Nat)
  /-- An EDGE or COUNT that is over and whose instruction ends at the boundary at which an injected one begins, or while one
  runs (R358, R359, R371). -/
  | ended
  deriving DecidableEq, Repr

/-- A moth (R349 to R371). -/
structure Moth where
  en : Bool := false
  qmode : Nat := 0
  edrv : Bool := false
  esamp : Bool := false
  imode : Bool := false
  oe : Byte := 0
  smask : Byte := 0
  npin : Nat := 0
  first : Nat := 0
  ctxValid : Bool := false
  route : Nat := 0
  index : Nat := 0
  tsync : Bool := false
  tsyncNext : Option Bool := none
  d : Nat := 256
  dNext : Option Nat := none
  ill : Bool := false
  tmo : Bool := false
  si : Word := 0
  so : Word := 0
  ka : Word := 0
  kb : Word := 0
  pc : Nat := 0
  acc : Word := 0
  edgeTime : Word := 0
  /-- The level of its pin as the EDGE in hand started, and that of an EDGE that an injected one has interrupted (R358). -/
  edgeLvl : Bool := false
  injLvl : Bool := false
  /-- The COUNT most recently started: condition, 3 before the first one, and pin. -/
  cntCond : Nat := 3
  cntPin : Nat := 0
  wait : MWait := .none
  /-- The instruction whose wait or delay runs, and an injected one with what it interrupted. -/
  cur : BitVec 24 := 0
  inj : Option (BitVec 24) := none
  injWait : Option MWait := none
  injCur : BitVec 24 := 0
  restart : Option (Bool × Bool) := none
  imem : Tbl (BitVec 24) := []
  qin : List Word := []
  qout : List Word := []
  held : List Word := []
  out : Byte := 0
  /-- Cells made for this moth in the present tick. -/
  seq : Nat := 0
  /-- The image's CTL.EN waits for the first main edge (R419). -/
  enNext : Bool := false
  /-- EN of the image, which counts from when the bank is loaded whole (R419). -/
  enLoad : Bool := false
  deriving DecidableEq, Repr

/-- The field side: banks 0 to 5 and, as bank 6, the Sett bank. -/
structure Field where
  /-- Moths 0 to 95, and 96 to 103 for Sett moths 0 to 7. -/
  moth : Tbl Moth := []
  /-- Pins whose synchronised level is 1, and pins whose filtered level is 1 (0 to 191; 192 to 207 Sett pins). -/
  sync : List Nat := []
  filt : List Nat := []
  /-- Changes that output registers have made at driven pads and that have not reached the synchronised level: the pin, its new
  level, and the host cycles left (R350). -/
  padq : List (Nat × Bool × Nat) := []
  /-- The level that each pad takes from the KSC, as its changes have been followed so far (R350, R538). -/
  pads : Tbl (Option Bool) := []
  /-- The level that the outside has last been told to hold a pin at (R538). -/
  ext : Tbl (Option Bool) := []
  /-- PIN[p].CFG bits OD, PULL and SAFE; reset 0x10. -/
  pcfg : Tbl Word := []
  gwq : Tbl (List OCell) := []
  gwRot : Tbl Nat := []
  /-- Pad supplies absent, and supplies whose pads are high impedance until RESET (R529): 0 to 5, 6 for VDDIO_S. -/
  supAbsent : List Nat := []
  supFresh : List Nat := []
  deriving DecidableEq, Repr

/-- A log entry of the battery record (Table 14.6), as it is stored. -/
structure LogEnt where
  time : W64 := 0
  evcnt : Word := 0
  type : Word := 0
  old : Word := 0
  new : Word := 0
  settid : Word := 0
  ecrc : Word := 0
  deriving DecidableEq, Repr

/-- The Sett, apart from its engines, its store and its bank. -/
structure Sett where
  st : Nat := 1
  fcause : Nat := 0
  /-- Period and phase of the Sett tick as loaded at release. -/
  units : Nat := 0
  phase : Word := 0
  stn : W64 := 0
  /-- The Sett schedule point taken last, none before the first edge. -/
  taken : Option Nat := none
  inReserve : Bool := false
  work : List Host.Cell := []
  publ : List Host.Cell := []
  par : Tbl Word := []
  /-- The parameters as S0 and S1 see them (R391). -/
  parSeen : Tbl Word := []
  paridx : Nat := 0
  gen : Word := 0
  settid : Word := 0
  declared : Word := 0
  hasImage : Bool := false
  idReported : Option Bool := none
  open_ : Bool := false
  loss : Bool := false
  pin : Bool := false
  /-- KTB when the filtered level of KSEAL_N last changed, on the KTB in hand (R531). -/
  pinAt : W64 := 0
  idchg : Bool := false
  parchg : Bool := false
  bound : Word := 0
  /-- The Badger has read or written the battery record since block reset: MBX.SEALID and MBX.EVCNT show it (Table 14.2). -/
  batSeen : Bool := false
  deriving DecidableEq, Repr

/-- The header of the battery record (Table 14.5), as it is stored. -/
structure BatHdr where
  magic : Word := 0
  evcnt : Word := 0
  sealid : Word := 0
  parcrc : Word := 0
  pendid : Word := 0
  pendpar : Word := 0
  log : Word := 0
  hcrc : Word := 0
  deriving DecidableEq, Repr

/-- One write of the battery record (R395): the entry, the header written after it, and whether it writes the record in full (R396,
R527). -/
structure BatWrite where
  ent : LogEnt
  hdr : BatHdr
  full : Bool := false
  deriving DecidableEq, Repr

/-- The battery record of R394: header and log entries, and the writes that wait for it, oldest first (R395). -/
structure Battery where
  hdr : BatHdr := {}
  log : Tbl LogEnt := []
  queue : List BatWrite := []
  deriving DecidableEq, Repr

/-- A section entry of an image (Table 15.5). -/
structure Sect where
  type : Nat
  target : Nat
  first : Nat
  ntiles : Nat
  dest : Nat
  param : Word
  deriving DecidableEq, Repr

/-- The captured source of a release (R414). -/
structure Image where
  src : Nat := 3
  profile : Nat := 0
  gen : Nat := 0
  otherGen : Nat := 0
  tiles : Nat := 0
  period : Nat := 0
  subtick : Nat := 0
  bcrc : Word := 0
  bounds : List Word := []
  roles : List Nat := []
  sects : List Sect := []
  /-- Body tiles read at the pre-check. -/
  pre : Tbl (List Byte) := []
  deriving DecidableEq, Repr

/-- Release registers and progress. -/
structure Rel where
  phase : Nat := 0
  lastst : Nat := 0
  fcause : Nat := 0
  ambiguous : Bool := false
  srcForce : Nat := 3
  genForce : Nat := 0
  genOther : Nat := 0
  bcrcForce : Word := 0
  copied : Nat := 0
  failtile : Nat := 0
  /-- The image in force or being released. -/
  img : Image := {}
  /-- The image under pre-check, the phase to return to, and the command's tag. -/
  next : Option Image := none
  phaseBefore : Nat := 0
  tag : Nat := 0
  /-- Tiles copied so far in copy order, and the CRCs read. -/
  step : Nat := 0
  crcs : Tbl Word := []
  readback : Bool := false
  identOk : Bool := false
  /-- The pre-check passed in RUN or SERVICE: HOLD at the next edge (R417). -/
  atEdge : Bool := false
  deriving DecidableEq, Repr

/-- A service action that is pending or in progress (R430). -/
inductive SvcAct where
  | retire (n : Nat) (off : Bool) (hw : Bool)
  | retireCluster (k : Nat) (off : Bool) (hw : Bool)
  /-- The rest of a retirement that waits for the open context (R443). -/
  | retireTail (n : Nat) (succ : Nat) (off : Bool)
  /-- A context that engine `n` has open and that passes to engine `dst` at its commit (R53). -/
  | handover (n i dst : Nat)
  | restore (e : Nat) (back : Bool) (m : W64) (ready : Bool)
  | migrate (target first count : Nat) (m : W64)
  | loadUbank (mask : W64) (blocks : List (Nat × Nat))
  | swapUbank (mask : W64) (m : W64)
  | remap (a spare : Nat) (fresh : Bool)
  /-- A RETIRE_ENGINE of cluster `k` that waits for the open context of one of its engines (R443, R447). -/
  | clusterEnd (k : Nat)
  | hold
  deriving DecidableEq, Repr

/-- A service action with the tag of its command; 0 for one raised by hardware. -/
structure SvcPend where
  tag : Nat
  act : SvcAct
  deriving DecidableEq, Repr

/-- The service state of an engine (Table 16.10), with the set that BACK returns (R451). -/
structure SvcEng where
  st : Nat := 0
  succ : Nat := 255
  moved : Bool := false
  set : List Nat := []
  deriving DecidableEq, Repr

/-- Profiles, engine service and power. -/
structure Svc where
  profile : Nat := 0
  eng : Tbl SvcEng := []
  mir : Tbl Nat := []
  acts : List SvcPend := []
  /-- Spares named by the image, by engine. -/
  spare : Tbl Nat := []
  /-- A mirror fill runs (R439): the even clusters whose writes go to both copies. -/
  fill : Bool := false
  /-- Scan engines that go OFF once their trace records have left the FIFO (R498). -/
  offWait : List Nat := []
  /-- Domain states that differ from 1 (on), and requests that are 0. -/
  dom : Tbl Nat := []
  reqOff : List Nat := []
  lowv : Bool := false
  vlowreq : Bool := false
  /-- Costs of customer entries in force since the release, by 256 * engine + major (R309). -/
  cost : Tbl (Option Nat) := []
  deriving DecidableEq, Repr

/-- One trace unit (R493 to R499). -/
structure Trc where
  fifo : List W128 := []
  wptr : Nat := 0
  full : Bool := false
  dwptr : Nat := 0
  sinceSync : Nat := 0
  lost : Nat := 0
  /-- A SYNC record is due after an OVF or a WAKE (R495). -/
  syncDue : Bool := false
  buf : Tbl W128 := []
  /-- KTB of the previous record, for TDELTA. -/
  last : W64 := 0
  deriving DecidableEq, Repr

/-- A fault record (Table 19.8). -/
structure FltRec where
  time : W64
  tick : Word
  cls : Nat
  rep : Nat
  source : Word
  arg0 : Word
  arg1 : Word
  fseq : Word
  deriving DecidableEq, Repr

/-- The host mailbox and the fault log. -/
structure Mbx where
  cmd : Word := 0
  busy : Bool := false
  status : Nat := 0
  tag : Nat := 0
  reslen : Nat := 0
  nextTag : Nat := 1
  inflight : Nat := 0
  cpl : List (Nat × Nat) := []
  req : List Host.Cell := []
  resp : List Host.Cell := []
  log : List FltRec := []
  fseq : Word := 0
  deriving DecidableEq, Repr

/-- Debug, the Sarern wire and the inputs of the boundary. -/
structure Boundary where
  fused : Bool := false
  locked : Bool := false
  unlocking : Bool := false
  settdbg : Bool := false
  /-- The answer of the Sarern wire: ACK code, data and response CRC. -/
  ack : Nat := 15
  rdata : Word := 0
  rscrc : Byte := 0
  /-- KRSTREQ, KBREL and a long low of KDIO, as the latest commands leave them (R526). -/
  krst : Bool := false
  kbrel : Bool := false
  kdio : Bool := false
  batloss : Bool := false
  /-- Block resets that the KSC has reported to the security processor over KSB (R526): an output. -/
  ksbOut : Nat := 0
  /-- What the sideband and the fuses have supplied (R404). -/
  keys : SideKeys := { vetKey := 0, custKey := 0, predKey := 0, custHash := 0 }
  /-- Tile buffers and validity of each engine window: bytes by 64 * n + i. -/
  tilebuf : List Host.Cell := []
  /-- ERR registers of the windows. -/
  err : Tbl Nat := []
  deriving DecidableEq, Repr

/-- On-chip memories outside the engines and the tile checks. -/
structure Mem where
  staging : List Host.Cell := []
  /-- The tiles whose check word differs from the CRC-32C of their bytes (R316), by `tileKey`; every write of a tile stores the CRC
  of its new bytes, so this set says all that the check words do. -/
  bad : List Nat := []
  /-- The scrubber's next tile of each instance in the pass in hand (R322), by 128 * class + instance. -/
  scrub : Tbl Nat := []
  lastadr : Word := 0
  /-- The release reference table (R323): a tile that the image does not supply is absent. -/
  refs : Tbl (Option Word) := []
  /-- The last refusal of a patch block (UCODE.LASTST). -/
  lastst : Nat := 0
  /-- Vetchaos blocks accepted at start, in the order supplied (R306). -/
  vet : List (List Byte) := []
  /-- DRAM bytes that the block has written: 2^64 * stream + address. -/
  dram : List Host.Cell := []
  deriving DecidableEq, Repr

/-- Block states (Table 16.1). -/
inductive BState where
  | off | reset | keeperBoot | awaitImage | verify | run | service | hold
  deriving DecidableEq, Repr

/-- The state of the block. -/
structure State where
  bstate : BState := .reset
  /-- Plain host registers by window offset; absent is the reset value of `regReset`. -/
  hreg : Tbl Word := []
  /-- Counters by window offset (R13). -/
  cnt : Tbl Word := []
  /-- Held low words and captured high words of 64-bit registers, by offset (R7). -/
  heldLow : Tbl (Option Word) := []
  capHigh : Tbl (Option Word) := []
  /-- The word, or two words, that the last host read returned. -/
  hostRd : W64 := 0
  tick : Tick := {}
  eng : Tbl Engine := []
  cells : Cells := {}
  store : Store := {}
  pub : Pub := {}
  chain : Chain := {}
  hub : Hub := {}
  field : Field := {}
  sett : Sett := {}
  bat : Battery := {}
  rel : Rel := {}
  svc : Svc := {}
  trc : Tbl Trc := []
  mbx : Mbx := {}
  io : Boundary := {}
  mem : Mem := {}
  /-- Free values taken so far: the model's own counter. -/
  free : Nat := 0
  /-- Commands that wait, first in, first out. -/
  pending : List Instr := []
  deriving DecidableEq, Repr

/-- The block in RESET after power-on (R403, R455): every register at its reset value, SRAM zero, debug open (the fuse
is an input, DESIGN CHOICE), and an empty queue. -/
def State.reset : State := {}

end Sys2Proof.Machine
end

