-- ==== Sys2Proof/Machine/Ops.lean ====
section
/-! DEFINITION. The named operations over the state that every family shares: engines, counters, plain host registers,
time, profiles and freezes. -/

namespace Sys2Proof.Machine

/-- Engine `n` (R18). -/
def engGet (s : State) (n : Nat) : Engine := tblGet {} n s.eng

/-- Engine `n` replaced. -/
def engSet (s : State) (n : Nat) (e : Engine) : State := { s with eng := tblSet {} n e s.eng }

/-- Engine `n` changed by `f`. -/
def engMap (s : State) (n : Nat) (f : Engine → Engine) : State := engSet s n (f (engGet s n))

/-- A state changed by `f` once for each number of a list, in order. -/
def forNats (l : List Nat) (f : State → Nat → State) (s : State) : State := l.foldl f s

/-- The counter at host-window offset `a`. -/
def cntGet (s : State) (a : Nat) : Word := tblGet 0 a s.cnt

/-- `k` events counted at offset `a` (R13). -/
def cntAdd (s : State) (a k : Nat) : State := { s with cnt := tblSet 0 a (satCount (cntGet s a) k) s.cnt }

/-- A high-water or stamp register kept among the counters set to `v`. -/
def cntPut (s : State) (a : Nat) (v : Word) : State := { s with cnt := tblSet 0 a v s.cnt }

/-- The index of offset `a` in a row of `count` registers from `base` at distance `stride`. -/
def inRow (base stride count a : Nat) : Option Nat :=
  if base ≤ a ∧ (a - base) % stride = 0 ∧ (a - base) / stride < count then some ((a - base) / stride) else none

/-- Whether offset `a` lies in such a row. -/
def isRow (base stride count a : Nat) : Bool := (inRow base stride count a).isSome

/-- The reset value of the plain host register at an offset (Tables 3.10, 3.11, 4.13, 11.5, 11.6, 17.7 and 18.12; zero
for every other one). -/
def regReset (a : Nat) : Word :=
  if a = 0x4000 then 8
  else if isRow 0x4100 0x20 8 a then 1
  else if isRow 0x6100 0x20 8 a then 0x1000
  else if a = 0xA000 then 7
  else if a = 0xA004 then 0x100
  else if a = 0xD008 then 0x400
  else if isRow 0x80800 0x10 64 a then 0x000A8010
  else 0

/-- The plain host register at offset `a`. -/
def regGet (s : State) (a : Nat) : Word := tblGet (regReset a) a s.hreg

/-- The plain host register at offset `a` set to `v`. -/
def regPut (s : State) (a : Nat) (v : Word) : State := { s with hreg := tblSet (regReset a) a v s.hreg }

/-- The 64-bit plain host register at offset `a` (R6). -/
def regGet64 (s : State) (a : Nat) : W64 := (regGet s (a + 4)) ++ (regGet s a)

/-- KTB: the BN9 time plus the outstanding slew (R26). -/
def ktb (s : State) : W64 := s.tick.bn9 + s.tick.slew

/-- The profile codes of Table 15.4. -/
def isPaired (s : State) : Bool := s.svc.profile == 1
/-- MIRRORED. -/
def isMirrored (s : State) : Bool := s.svc.profile == 2
/-- FASTLOOP. -/
def isFastloop (s : State) : Bool := s.svc.profile == 3
/-- FRUGAL. -/
def isFrugal (s : State) : Bool := s.svc.profile == 4
/-- PROVING. -/
def isProving (s : State) : Bool := s.svc.profile == 5

/-- The block states in which the tick generator runs (R31). -/
def tickingState (b : BState) : Bool := b == .verify || b == .run || b == .service

/-- The service record of engine `n` (Table 16.10). -/
def svcEng (s : State) (n : Nat) : SvcEng := tblGet {} n s.svc.eng

/-- The service record of engine `n` changed. -/
def svcEngMap (s : State) (n : Nat) (f : SvcEng → SvcEng) : State :=
  { s with svc := { s.svc with eng := tblSet {} n (f (svcEng s n)) s.svc.eng } }

/-- SVC.ENG[n].STATE is ACTIVE (Table 16.5): the engine is in service. -/
def svcActive (s : State) (n : Nat) : Bool := (svcEng s n).st == 1

/-- SVC.CLU[k].MIR (Table 16.11). -/
def cluMir (s : State) (k : Nat) : Nat := tblGet 0 k s.svc.mir

/-- PWR.DOM[d].STAT (Table 17.6): 0 off, 1 on, 2 powering up. -/
def domStat (s : State) (d : Nat) : Nat := tblGet 1 d s.svc.dom

/-- Whether the Badger domain, with the host port, is powered. -/
def hostUp (s : State) : Bool := domStat s 80 == 1

/-- Whether the hub domain is on. -/
def hubUp (s : State) : Bool := domStat s 83 == 1

/-- PWR.DOM[d].STAT changed. -/
def domSet (s : State) (d v : Nat) : State := { s with svc := { s.svc with dom := tblSet 1 d v s.svc.dom } }

/-- The control register of the debug window of engine `n`. -/
def dbgCtl (s : State) (n : Nat) : Word := regGet s (0x200000 + n * 0x1000)

/-- Whether debug access is open: the part is not locked (Table 18.12). -/
def dbgOpen (s : State) : Bool := !s.io.locked

/-- Whether a freeze is in force (R486): a scan engine with EN and FRZSRC is halted by debug (R479). -/
def freezeOn (s : State) : Bool :=
  s.eng.any (fun q => decide (q.1 < 64) && q.2.dbg.halted && bitAt (dbgCtl s q.1) 0 && bitAt (dbgCtl s q.1) 1)

/-- FRZTICK[k] is in force (Table 18.6). -/
def frzTick (s : State) (k : Nat) : Bool := decide (k < 8) && bitAt (regGet s 0xD00C) (8 + k) && freezeOn s

/-- FRZEVH is in force. -/
def frzEvh (s : State) : Bool := bitAt (regGet s 0xD00C) 16 && freezeOn s

/-- FRZBANK[b] is in force; never for the Sett bank (R486). -/
def frzBank (s : State) (b : Nat) : Bool := decide (b < 6) && bitAt (regGet s 0xD00C) b && freezeOn s

/-- The cluster of a scan engine. -/
def cluOf (n : Nat) : Nat := n / 8

/-- The Fox group (R58): the engines of C7 in FASTLOOP, while a sub-tick is set. -/
def isFox (s : State) (n : Nat) : Bool := isFastloop s && decide (56 ≤ n) && decide (n < 64) && s.tick.subtick != 0

/-- Sub-ticks per tick (R57). -/
def foxRatio (s : State) : Nat := if s.tick.subtick = 0 then 1 else s.tick.units / s.tick.subtick

/-- The sub-tick number U of R58. -/
def subNumber (s : State) : W64 := s.tick.tickn * BitVec.ofNat 64 (foxRatio s) + BitVec.ofNat 64 s.tick.subI

/-- The tick number of an engine: the held TICKN from the beginning of FRZTICK in its cluster to the next edge that reaches it, STN for
S0 and S1, and otherwise TICKN (R32, R378, Table 18.6). -/
def engTick (s : State) (n : Nat) : W64 :=
  if n = 64 ∨ n = 65 then s.sett.stn
  else if n < 64 && (engGet s n).tickHeld then (engGet s n).tickn
  else s.tick.tickn

/-- The number of the tick that TICKWAIT reports (R229). -/
def tickReport (s : State) (n : Nat) : Word := ((if isFox s n then subNumber s else engTick s n)).setWidth 32

/-- The stamp of a cell that engine `n` makes now (R54). -/
def stampOf (s : State) (n : Nat) : Nat := (engTick s n).toNat % 65536

/-- Host clock cycles are 1 ns; a KCLK cycle is 0.8 ns, or 1.6 ns in FRUGAL: eighths of KCLK cycles per host cycle. -/
def kclkEighths (s : State) : Nat := if isFrugal s then 5 else 10

/-- Eighths of a cycle since the latest edge of the tick or sub-tick of engine `n`. -/
def rawCyc (s : State) (n : Nat) : Nat :=
  if n = 64 ∨ n = 65 then s.tick.cycSett else if isFox s n then s.tick.cycSub else s.tick.cycMain

/-- TCYC of engine `n` (Table 5.2): cycles since the latest edge of its tick or sub-tick that reached it (R486), or since its start in
that tick, saturating. -/
def tcyc (s : State) (n : Nat) : Nat := min ((rawCyc s n + (engGet s n).cycHeld - (engGet s n).cycOff) / 8) 0xFFFFFFFF

/-- A new value of the model's counter of free values. -/
def freshCount (s : State) : Nat × State := (s.free, { s with free := s.free + 1 })

end Sys2Proof.Machine
end

