-- ==== Sys2Proof/Machine/Hub.lean ====
section
/-! DEFINITION. The event hub (R330 to R348): sources, targets, offers, delivery, completion, moderation and wakes. -/

namespace Sys2Proof.Machine

/-- Configuration of source `x`. -/
def srcCfg (s : State) (x : Nat) : Word := regGet s (0x21000 + x * 0x10)
/-- PRIO. -/
def srcPrio (s : State) (x : Nat) : Nat := field (srcCfg s x) 3 0
/-- MODE. -/
def srcMode (s : State) (x : Nat) : Nat := field (srcCfg s x) 10 8
/-- GROUP, when MODEN is 1. -/
def srcGroup (s : State) (x : Nat) : Option Nat := if bitAt (srcCfg s x) 30 then some (field (srcCfg s x) 29 24) else none
/-- EN = 1 and PRIO above 0 (R331). -/
def srcActive (s : State) (x : Nat) : Bool := bitAt (srcCfg s x) 31 && decide (srcPrio s x ≠ 0)

/-- The reserved numbers of Table 12.1. -/
def srcReserved (x : Nat) : Bool :=
  (decide (292 ≤ x) && decide (x ≤ 295)) || x == 302 || x == 303 || x == 311 ||
  (decide (330 ≤ x) && decide (x ≤ 383)) || (decide (449 ≤ x) && decide (x ≤ 511)) || decide (1024 ≤ x)

/-- The sources that Table 12.1 pulses. -/
def srcPulsed (x : Nat) : Bool :=
  hasNat x [290, 291, 296, 297, 298, 299, 300, 301, 305, 306, 307, 308, 309, 312, 313]

/-- MBX.STATUS.LEGAL (R397). -/
def settLegal (s : State) : Bool :=
  s.sett.st == 3 && !s.sett.open_ && !s.sett.loss && !s.sett.idchg && !s.sett.parchg &&
  decide (s.bat.hdr.evcnt ≠ 0xFFFFFFFF)

/-- The kind of a cell (Table 3.1). -/
def cellKind (c : W128) : Nat := field c 39 36

/-- Moth `m`, by number as REMAP_MOTH numbers it. -/
def mothGet (s : State) (m : Nat) : Moth := tblGet {} m s.field.moth

/-- The present signal of a source that is not pulsed (Table 12.1). -/
def srcSignal (s : State) (x : Nat) : Bool :=
  if x < 192 then hasNat x s.field.filt
  else if x < 288 then decide ((mothGet s (x - 192)).wait = .stallF ∨ (mothGet s (x - 192)).wait = .stallS)
  else if x = 288 then !s.chain.port0.up
  else if x = 289 then !s.chain.port1.up
  else if x = 304 then !s.mbx.log.isEmpty
  else if x = 310 then !settLegal s
  else if x = 314 then !s.cells.hostq.isEmpty
  else if 315 ≤ x ∧ x < 330 then s.cells.hostq.any (fun c => cellKind c == x - 315)
  else if 384 ≤ x ∧ x < 448 then (engGet s (x - 384)).dtxf
  else if x = 448 then (engGet s 66).dtxf
  else if 512 ≤ x ∧ x < 1024 then bitAt (tblGet 0 ((x - 512) / 32) s.hub.sw) ((x - 512) % 32)
  else false

/-- The changing part of source `x`. -/
def srcGet (s : State) (x : Nat) : Src := tblGet {} x s.hub.src

/-- The changing part of source `x` replaced. -/
def srcSet (s : State) (x : Nat) (v : Src) : State := { s with hub := { s.hub with src := tblSet {} x v s.hub.src } }

/-- EVH.CTL.EN. -/
def hubEn (s : State) : Bool := bitAt (regGet s 0x20000) 0

/-- The control register of target `t`. -/
def tgtCtl (s : State) (t : Nat) : Word := regGet s (0x27000 + t * 0x20)

/-- Whether target `t` is in the mask of source `x`; mask bit 2k+1 is ignored in PAIRED (R335). -/
def tgtInMask (s : State) (x t : Nat) : Bool :=
  bitAt (regGet s (0x21004 + x * 0x10 + 4 * (t / 32))) (t % 32) && !(isPaired s && decide (t < 64) && decide (t % 2 = 1))

/-- Whether a target is usable (R335, R441). -/
def tgtUsable (s : State) (t : Nat) : Bool :=
  bitAt (tgtCtl s t) 8 &&
  (decide (64 ≤ t) ||
    (svcActive s t && (engGet s t).run != .mcheck && !(engGet s t).dbg.halted && (engGet s t).pstate != .off))

/-- RUNPRI of target `t` (R336). -/
def runPri (s : State) (t : Nat) : Nat :=
  (s.hub.src.filter (fun q => decide (q.2.insvc = some t))).foldl (fun a q => max a (srcPrio s q.1)) 0

/-- Whether source `x` is eligible at target `t` (R336). -/
def srcEligible (s : State) (x t : Nat) : Bool :=
  tgtInMask s x t && tgtUsable s t && !bitAt (tgtCtl s t) 4 &&
  decide (max (field (tgtCtl s t) 3 0) (runPri s t) < srcPrio s x)

/-- The targets in the order that R337 tries them after rotation pointer `r`. -/
def rotOrder (r : Nat) : List Nat := (List.range 72).map (fun i => (r + 1 + i) % 72)

/-- The target that R337 chooses for a source. -/
def chosenTarget (s : State) (x : Nat) : Option Nat := (rotOrder (srcGet s x).rot).find? (srcEligible s x)

/-- The KTB multiple of 100 ns last reached. -/
def ktbHundreds (s : State) : Nat := (ktb s).toNat / 100

/-- The hold-off timer of group `g` (R342), held while FRZEVH is in force (R344). -/
def holdRemain (s : State) (g : Nat) : Nat :=
  let t := tblGet {} g s.hub.tmr
  if frzEvh s then t.left else t.left - (ktbHundreds s - t.base)

/-- The timer of group `g` set. -/
def tmrSet (s : State) (g : Nat) (t : Timer) : State := { s with hub := { s.hub with tmr := tblSet {} g t s.hub.tmr } }

/-- Whether a source of group `g` is pending. -/
def groupPending (s : State) (g : Nat) : Bool :=
  s.hub.src.any (fun q => q.2.pend && decide (srcGroup s q.1 = some g))

/-- The timer of group `g` reaches 0: HELD counts when a source of the group is pending (R344). -/
def holdReach (s : State) (g : Nat) : State :=
  let s1 := tmrSet s g { left := 0, base := 0 }
  if groupPending s g then cntAdd s1 (0x27C08 + g * 0x10) 1 else s1

/-- The timer of group `g` reaches 0 when its time has come (R344). -/
def holdExpire (s : State) (g : Nat) : State :=
  if (tblGet {} g s.hub.tmr).left ≠ 0 ∧ holdRemain s g = 0 then holdReach s g else s

/-- One hold-off timer as it stands in `s`, counted in `z` from the multiple `base` on (R342, R344). -/
def tmrRebase (s : State) (base : Nat) (z : State) (q : Nat × Timer) : State :=
  if holdRemain s q.1 ≠ 0 then tmrSet z q.1 { left := holdRemain s q.1, base := base }
  else if q.2.left ≠ 0 then holdReach z q.1
  else z

/-- Every timer of `z` brought to what it shows in `s`, one that has reached 0 as R344 gives: for a change from `s` to `z`
at which a freeze of the timers begins or ends. -/
def hubRebase (s z : State) : State :=
  s.hub.tmr.foldl (tmrRebase s (ktbHundreds s)) z

/-- The idle targets of R343; an engine that enters NAP is in DOZE until the entry completes (R460). -/
def tgtIdle (s : State) (t : Nat) : Bool :=
  if 64 ≤ t then decide (runPri s t = 0)
  else
    let e := engGet s t
    e.pstate == .doze || e.pstate == .nap || e.pstate == .napEntry ||
      ((e.hold == .dispatch || e.hold == .tick) && e.level == 0 && e.ctxOpen.isNone)

/-- Whether a moderation hold keeps source `x` from being a candidate at target `t` (R342, R343). -/
def holdPrevents (s : State) (x t : Nat) : Bool :=
  match srcGroup s x with
  | none => false
  | some g => decide (holdRemain s g ≠ 0) && !(bitAt (regGet s (0x27C00 + g * 0x10)) 16 && tgtIdle s t)

/-- An engine woken, or marked to wake once its entry into NAP has completed (R460, R461). -/
def wakeEng (s : State) (n : Nat) : State :=
  engMap s n (fun e =>
    match e.pstate with
    | .doze => { e with pstate := .waking, wakeReq := true }
    | .nap => { e with pstate := .wakeNap, wakeReq := true }
    | .napEntry => { e with wakeReq := true }
    | _ => e)

/-- Whether engine `n` is in DOZE or NAP, the entry into NAP included (R345, R460). -/
def isAsleep (s : State) (n : Nat) : Bool :=
  (engGet s n).pstate == .doze || (engGet s n).pstate == .nap || (engGet s n).pstate == .napEntry

/-- The engines of target `t`: in PAIRED, an even target is its pair (R335). -/
def tgtEngines (s : State) (t : Nat) : List Nat := if isPaired s && decide (t % 2 = 0) then [t, t + 1] else [t]

/-- The wakes of a source that becomes pending (R345, R346). -/
def hubWake (s : State) (x : Nat) : State :=
  if hubEn s then
    forNats (List.range 64) (fun z t =>
      if tgtInMask z x t && tgtUsable z t && (tgtEngines z t).any (isAsleep z) then
        cntAdd (forNats (tgtEngines z t) wakeEng z) (0x2700C + t * 0x20) 1
      else z) s
  else s

/-- A source becomes pending (R333, R334, R345). -/
def srcPendNow (s : State) (x : Nat) : State :=
  let s1 := srcSet s x { srcGet s x with pend := true }
  let s2 := if (List.range 72).any (fun t => tgtInMask s x t && bitAt (tgtCtl s t) 8) then s1 else cntAdd s1 0x20014 1
  hubWake s2 x

/-- A source's offer withdrawn (R338). -/
def srcWithdraw (s : State) (x : Nat) : State :=
  if (srcGet s x).offered.isSome then
    cntAdd (srcSet s x { srcGet s x with offered := none }) 0x20018 1
  else s

/-- A source no longer pending, and its offer withdrawn (R331, R333, R338). -/
def srcOff (s : State) (x : Nat) : State :=
  let s1 := srcWithdraw s x
  srcSet s1 x { srcGet s1 x with pend := false }

/-- Whether a change of a signal from `old` to `v` is an active edge of an edge mode (R331). -/
def edgeActive (mode : Nat) (old v : Bool) : Bool :=
  match mode with
  | 2 => !old && v
  | 3 => old && !v
  | 4 => old != v
  | _ => false

/-- A sample of source `x` whose signal is now `v` (R331, R333). -/
def srcSample (s : State) (x : Nat) (v : Bool) : State :=
  let o := srcGet s x
  let s0 := srcSet s x { o with raw := v }
  if srcReserved x || domStat s 83 != 1 then s
  else if !srcActive s x then s0
  else if 2 ≤ srcMode s x then
    if edgeActive (srcMode s x) o.raw v then
      (if o.pend then cntAdd s0 0x20010 1 else srcPendNow s0 x)
    else s0
  else
    let act := if srcMode s x = 0 then v else !v
    if act && o.insvc.isNone && !o.pend then srcPendNow s0 x
    else if !act && o.pend then
      srcOff s0 x
    else s0

/-- A pulsed signal: asserted for one cycle (R330). -/
def pulse (s : State) (x : Nat) : State := srcSample (srcSample s x true) x false

/-- The source enters service: PEND is cleared, and DELIV counts (R339). -/
def srcServe (s : State) (x t : Nat) : State :=
  cntAdd (srcSet s x { srcGet s x with pend := false, offered := none, insvc := some t }) (0x27008 + t * 0x20) 1

/-- A hold of group `g` begins: the offers of the group are withdrawn, but those that R343 lets stand (R338). -/
def holdBegin (s : State) (g : Nat) : State :=
  s.hub.src.foldl (fun z q =>
    match (srcGet z q.1).offered with
    | none => z
    | some t => if srcGroup z q.1 = some g ∧ holdPrevents z q.1 t = true then srcWithdraw z q.1 else z) s

/-- A source enters service at target `t` (R339), and the timer of its group is loaded (R342, R343); an expiry that the
timer had met before the delivery counts first (R344). -/
def srcDeliver (s : State) (x t : Nat) : State :=
  match srcGroup s x with
  | none => srcServe s x t
  | some g =>
    let bypassed := decide (holdRemain s g ≠ 0)
    let s1 := srcServe (holdExpire s g) x t
    let s2 := tmrSet s1 g { left := field (regGet s (0x27C00 + g * 0x10)) 15 0, base := ktbHundreds s }
    holdBegin (if bypassed then cntAdd s2 (0x27C0C + g * 0x10) 1 else s2) g

/-- The completion of a source in service (R340); `forced` counts EVH.FORCED. -/
def srcComplete (s : State) (x : Nat) (forced : Bool) : State :=
  if (srcGet s x).insvc.isSome then
    let s1 := srcSet s x { srcGet s x with insvc := none }
    let s2 := if forced then cntAdd s1 0x20020 1 else s1
    if srcMode s x < 2 then srcSample s2 x (srcSignal s2 x) else s2
  else s

/-- Every source in service at a target completed by force (R340). -/
def tgtForce (s : State) (t : Nat) : State :=
  forNats ((s.hub.src.filter (fun q => decide (q.2.insvc = some t))).map (·.1)) (fun z x => srcComplete z x true) s

/-- The source that the ERET of engine `t` completes (R340): the one in service there, the highest priority first. -/
def tgtComplete (s : State) (t : Nat) : State :=
  forNats ((s.hub.src.filter (fun q => decide (q.2.insvc = some t))).map (·.1)) (fun z x => srcComplete z x false) s

/-- Whether the offer of source `x` at `t` may stand (R338); a hold withdraws an offer only as it begins (holdBegin). -/
def offerStands (s : State) (x t : Nat) : Bool :=
  hubEn s && (srcGet s x).pend && (srcGet s x).insvc.isNone && srcActive s x && srcEligible s x t

/-- The source on offer at target `t`: R338 withdraws, in the cycle in which it stops standing, an offer that may not
stand. -/
def tgtOffer (s : State) (t : Nat) : Option Nat :=
  (s.hub.src.find? (fun q => decide ((srcGet s q.1).offered = some t) && offerStands s q.1 t)).map (·.1)

/-- The offers that may no longer stand withdrawn (R338). -/
def hubWithdraw (s : State) : State :=
  s.hub.src.foldl (fun z q =>
    match (srcGet z q.1).offered with
    | none => z
    | some t => if offerStands z q.1 t then z else srcWithdraw z q.1) s

/-- Whether source `x` is a candidate at target `t` (R337, R341). -/
def srcCandidate (s : State) (x t : Nat) : Bool :=
  (srcGet s x).pend && (srcGet s x).insvc.isNone && (srcGet s x).offered.isNone && srcActive s x &&
  decide (chosenTarget s x = some t) && !holdPrevents s x t

/-- Whether source `x` goes before source `y`: by the higher PRIO, then by the lower number (R337). -/
def srcBefore (s : State) (x y : Nat) : Bool :=
  decide (srcPrio s y < srcPrio s x) || (decide (srcPrio s y = srcPrio s x) && decide (x < y))

/-- The best candidate at a target (R337). -/
def bestCandidate (s : State) (t : Nat) : Option Nat :=
  ((s.hub.src.map (·.1)).filter (fun x => srcCandidate s x t)).foldl (fun b x =>
    match b with
    | none => some x
    | some y => if srcBefore s x y then some x else some y) none

/-- The offer of a target made or replaced (R337, R338). -/
def tgtMakeOffer (s : State) (t : Nat) : State :=
  match bestCandidate s t with
  | none => s
  | some x =>
    let give (z : State) : State := srcSet z x { srcGet z x with offered := some t, rot := t }
    match tgtOffer s t with
    | none => give s
    | some y => if srcPrio s y < srcPrio s x then give (srcWithdraw s y) else s

/-- One evaluation of every source and target (R337, R338). -/
def hubEvaluate (s : State) : State :=
  let s1 := hubWithdraw s
  if hubEn s then forNats (List.range 72) tgtMakeOffer s1 else s1

/-- EVH.STATUS: sources pending. -/
def hubPending (s : State) : Nat := (s.hub.src.filter (fun q => q.2.pend)).length

/-- EVH.SRC[s].STAT (Table 12.7). -/
def srcStat (s : State) (x : Nat) : Word :=
  let o := srcGet s x
  let t := match o.insvc, o.offered with
    | some t, _ => t
    | none, some t => t
    | none, none => 0x7F
  let raw := if srcPulsed x || srcReserved x then false else srcSignal s x
  BitVec.ofNat 32 (t * 65536 + 8 * b2n raw + 4 * b2n o.offered.isSome + 2 * b2n o.insvc.isSome + b2n o.pend)

/-- EVH.TGT[t].STAT (Table 12.8). -/
def tgtStat (s : State) (t : Nat) : Word :=
  let o := tgtOffer s t
  BitVec.ofNat 32 (o.getD 0 * 65536 + 128 * b2n (tgtIdle s t) + 64 * b2n o.isSome + runPri s t)

/-- What a read of EVH.HOST[c].CLAIM shows (Table 12.9). -/
def claimWord (s : State) (c : Nat) : Word :=
  match tgtOffer s (64 + c) with
  | none => 0
  | some x => BitVec.ofNat 32 (2 ^ 31 + srcPrio s x * 65536 + x)

/-- The delivery that a host read of EVH.HOST[c].CLAIM makes (R339). -/
def claimTake (s : State) (c : Nat) : State :=
  match tgtOffer s (64 + c) with
  | none => s
  | some x => hubWithdraw (srcDeliver s x (64 + c))

/-- A write of EN = 0 to EVH.CTL withdraws every standing offer (R346). -/
def hubOff (s : State) : State := s.hub.src.foldl (fun z q => srcWithdraw z q.1) s

/-- The rotation pointers at target 71 (R341, R346). -/
def hubRotReset (s : State) : State :=
  s.hub.src.foldl (fun z q => srcSet z q.1 { srcGet z q.1 with rot := 71 }) s

/-! Fault records (R513 to R517) and the block state. -/

/-- Whether an occurrence now falls in the tick of a record (R515). -/
def sameTick (s : State) (r : FltRec) : Bool :=
  if s.tick.running then decide (r.tick = s.tick.tickn.setWidth 32)
  else decide (r.time >>> 20 = ktb s >>> 20)

/-- The log with an occurrence merged into the first record that matches. -/
def fltMerge (s : State) (cls : Nat) (src : Word) : List FltRec → Option (List FltRec)
  | [] => none
  | r :: t =>
    if r.cls = cls ∧ r.source = src ∧ sameTick s r = true then some ({ r with rep := min (r.rep + 1) 65535 } :: t)
    else (fltMerge s cls src t).map (r :: ·)

/-- An occurrence of fault class `cls` (R515 to R517). -/
def fltWrite (s : State) (cls : Nat) (src arg0 arg1 : Word) : State :=
  let s1 := cntAdd s (0x40200 + 4 * cls) 1
  match fltMerge s cls src s.mbx.log with
  | some l => { s1 with mbx := { s1.mbx with log := l } }
  | none =>
    if 1024 ≤ s.mbx.log.length then pulse (cntAdd s1 0x40104 1) 305
    else
      let r : FltRec := { time := ktb s, tick := s.tick.tickn.setWidth 32, cls := cls, rep := 0, source := src,
                          arg0 := arg0, arg1 := arg1, fseq := s.mbx.fseq }
      { s1 with mbx := { s1.mbx with log := s.mbx.log ++ [r], fseq := s.mbx.fseq + 1 } }

/-- The block state changed; a change pulses source 308. -/
def setBState (s : State) (b : BState) : State :=
  if s.bstate = b then s else pulse { s with bstate := b } 308

/-- A deferred command completes: its entry enters the completion queue and source 307 is pulsed (R510). -/
def hmbComplete (s : State) (tag status : Nat) : State :=
  if tag = 0 then s
  else
    let s0 := if status = 2 then cntAdd s 0x40028 1 else s
    pulse { s0 with mbx := { s0.mbx with cpl := s0.mbx.cpl ++ [(tag, status)] } } 307

/-! The commands of the hub. -/

/-- EVENT_CLAIM, R339. -/
def execEventClaim (c : Nat) (s : State) : Host.Outcome State Fault Refusal :=
  if c < 8 ∧ hubUp s = true then .next (claimTake { s with hostRd := (claimWord s c).setWidth 64 } c) else .next s

/-- The write of a source number to EVH.HOST[c].EOI (R340). -/
def eoiWrite (s : State) (c : Nat) (v : Word) : State :=
  let x := field v 9 0
  if (srcGet s x).insvc = some (64 + c) then srcComplete s x false else cntAdd s 0x2001C 1

/-- EVENT_EOI, R340. -/
def execEventEoi (c : Nat) (v : Word) (s : State) : Host.Outcome State Fault Refusal :=
  if c < 8 ∧ hubUp s = true then .next (eoiWrite s c v) else .next s

/-- SOURCE_INSVC_CLEAR, R340. -/
def execSourceInsvcClear (src : Nat) (s : State) : Host.Outcome State Fault Refusal :=
  if src < 1024 ∧ hubUp s = true then .next (srcComplete s src true) else .next s

/-- Writing 1 to SRC[s].STAT.PEND: the source is no longer pending, and an offer of it is withdrawn (R333, R338). -/
def srcClearPend (s : State) (x : Nat) : State := srcOff s x

/-- SOURCE_PEND_CLEAR, R333. -/
def execSourcePendClear (src : Nat) (s : State) : Host.Outcome State Fault Refusal :=
  if src < 1024 ∧ hubUp s = true then .next (srcClearPend s src) else .next s

/-- The software bits of word `w` replaced. -/
def swPut (s : State) (w : Nat) (v : Word) : State := { s with hub := { s.hub with sw := tblSet 0 w v s.hub.sw } }

/-- SOFTWARE_EVENT_SET, R330. -/
def execSoftwareEventSet (w : Nat) (v : Word) (s : State) : Host.Outcome State Fault Refusal :=
  if w < 16 ∧ hubUp s = true then .next (swPut s w (tblGet 0 w s.hub.sw ||| v)) else .next s

/-- SOFTWARE_EVENT_CLEAR, R330. -/
def execSoftwareEventClear (w : Nat) (v : Word) (s : State) : Host.Outcome State Fault Refusal :=
  if w < 16 ∧ hubUp s = true then .next (swPut s w (tblGet 0 w s.hub.sw &&& ~~~v)) else .next s

/-- The fields of EVH.SRC[s].CFG that a write sets: reserved bits read zero and a reserved MODE keeps the old one (R9,
R10, Table 12.6). -/
def srcCfgNew (old v : Word) : Word :=
  let v1 := v &&& 0xFFFF070F
  if 5 ≤ field v 10 8 then (v1 &&& ~~~0x700) ||| (old &&& 0x700) else v1

/-- The filtered level of pin `p`, which its event source samples (R330, R332). -/
def filtPut (s : State) (p : Nat) (v : Bool) : State :=
  let s1 := { s with field := { s.field with filt := if v then addNat p s.field.filt else delNat p s.field.filt } }
  if p < 192 then srcSample s1 p v else s1

/-- FILTER of pin `p`: the Sett pins are no sources and have none (R332). -/
def pinFilter (s : State) (p : Nat) : Nat := if p < 192 then field (srcCfg s p) 23 16 else 0

/-- The filtered level of pin `p` brought to `w`, the synchronised one, where FILTER is 0 (R332). -/
def filtFollow (s : State) (p : Nat) (w : Bool) : State :=
  if pinFilter s p = 0 ∧ hasNat p s.field.filt ≠ w then filtPut s p w else s

/-- A write of EVH.SRC[s].CFG: a source with EN = 0 or PRIO = 0 is never pending or offered (R331, R338). The edges of one that begins to
act count from the level that its signal has at the write. With FILTER = 0 the filtered level of a pin source follows the synchronised
one from the write on (R332). -/
def srcCfgWrite (s : State) (x : Nat) (v : Word) : State :=
  let sr := if srcActive s x || srcPulsed x || srcReserved x then s else srcSet s x { srcGet s x with raw := srcSignal s x }
  let s0 := regPut sr (0x21000 + x * 0x10) (srcCfgNew (srcCfg s x) v)
  let s1 := if x < 192 then filtFollow s0 x (hasNat x s.field.sync) else s0
  if srcActive s1 x then hubWithdraw s1 else srcOff s1 x

/-- SOURCE_DISABLE, R338: a write of a source configuration with EN = 0; a word with EN = 1 is no disable. -/
def execSourceDisable (src : Nat) (v : Word) (s : State) : Host.Outcome State Fault Refusal :=
  if src < 1024 ∧ bitAt v 31 = false ∧ hubUp s = true then .next (srcCfgWrite s src v) else .next s

/-- A write of EVH.CTL (R346). -/
def hubCtlWrite (s : State) (v : Word) : State :=
  let s1 := regPut s 0x20000 (v &&& 1)
  if bitAt v 0 then s1 else hubOff s1

/-- HUB_DISABLE, R346. -/
def execHubDisable (s : State) : Host.Outcome State Fault Refusal :=
  if hubUp s then .next (hubCtlWrite s 0) else .next s

/-- EVENT_SOURCE_PENDING, R333: the hub samples a source; a pulsed source's signal is not asserted between its pulses. -/
def execEventSourcePending (src : Nat) (s : State) : Host.Outcome State Fault Refusal :=
  .next (srcSample s src (srcSignal s src))

/-- EVENT_OFFER, R337: one evaluation of the hub. -/
def execEventOffer (s : State) : Host.Outcome State Fault Refusal :=
  if domStat s 83 = 1 then .next (hubEvaluate s) else .next s

/-- HOLDOFF_EXPIRE, R344. -/
def execHoldoffExpire (g : Nat) (s : State) : Host.Outcome State Fault Refusal :=
  if g < 64 then .next (holdExpire s g) else .next s

end Sys2Proof.Machine
end

