-- ==== Sys2Proof/Machine/Trace.lean ====
section
/-! DEFINITION. The trace units (R493 to R499): records, filters, the FIFO and the two sinks. -/

namespace Sys2Proof.Machine

/-- Host-window offset of a register of trace unit `k`. -/
def trcAdr (k off : Nat) : Nat := 0x400000 + k * 0x1000 + off

/-- TRC[k].CTL. -/
def trcCtl (s : State) (k : Nat) : Word := regGet s (trcAdr k 0)

/-- Trace unit `k`. -/
def trcGet (s : State) (k : Nat) : Trc := tblGet {} k s.trc

/-- Trace unit `k` replaced. -/
def trcSet (s : State) (k : Nat) (t : Trc) : State := { s with trc := tblSet {} k t s.trc }

/-- Whether trace unit `k` records: its EN, and its domain on. -/
def trcOn (s : State) (k : Nat) : Bool := decide (k < 8) && bitAt (trcCtl s k) 0 && domStat s (64 + k) == 1

/-- Whether engine `n` is traced: its ENGMASK bit, or PROVING (R499), and no trace freeze (Table 18.6). -/
def trcEngOn (s : State) (n : Nat) : Bool :=
  trcOn s (cluOf n) && (isProving s || bitAt (trcCtl s (cluOf n)) (24 + n % 8)) &&
  !(bitAt (dbgCtl s n) 4 && freezeOn s)

/-- Whether the marker of MARK bit `b` is on (R494, R499). -/
def trcMark (s : State) (k b : Nat) : Bool := trcOn s k && (isProving s || bitAt (trcCtl s k) b)

/-- KCLK cycles in an interval of KTB. -/
def cyclesOf (s : State) (ns : Nat) : Nat := ns * kclkEighths s / 8

/-- A record as it is stored (R493, Table 18.10). -/
def trcRecord (typ eng sub delta : Nat) (w1 w2 w3 : Word) : W128 :=
  BitVec.ofNat 128 (typ * 2 ^ 28 + eng * 2 ^ 25 + sub * 2 ^ 22 + delta % 2 ^ 22 +
    2 ^ 32 * w1.toNat + 2 ^ 64 * w2.toNat + 2 ^ 96 * w3.toNat)

/-- Cycles since the previous record of a unit, held at the largest TDELTA (the SYNC of R495 that would exceed it too
saturates: DESIGN CHOICE). -/
def trcDelta (s : State) (t : Trc) : Nat := min (cyclesOf s ((ktb s).toNat - t.last.toNat)) (2 ^ 22 - 1)

/-- A record put at the tail of a FIFO that has room. -/
def trcEnter (s : State) (t : Trc) (typ eng sub : Nat) (w1 w2 w3 : Word) : Trc :=
  { t with fifo := t.fifo ++ [trcRecord typ eng sub (trcDelta s t) w1 w2 w3], last := ktb s, sinceSync := t.sinceSync + 1 }

/-- A SYNC record put into a FIFO that has room. -/
def trcSync (s : State) (t : Trc) : Trc :=
  { trcEnter s t 10 0 0 ((ktb s).setWidth 32) ((ktb s >>> 32).setWidth 32) (s.tick.tickn.setWidth 32) with
    sinceSync := 0, syncDue := false }

/-- Whether a SYNC stands before the next record (R495). -/
def trcSyncNeeded (s : State) (t : Trc) : Bool :=
  t.syncDue || decide (4096 ≤ t.sinceSync) || decide (2 ^ 22 - 1 < cyclesOf s ((ktb s).toNat - t.last.toNat))

/-- The SYNC that stands before the next record put in, where there is room for it. -/
def trcPre (s : State) (t : Trc) : Trc := if trcSyncNeeded s t && decide (t.fifo.length < 64) then trcSync s t else t

/-- A record offered to trace unit `k`: it enters, or is dropped when the FIFO is full (R495, R497). -/
def trcPut (s : State) (k typ eng sub : Nat) (w1 w2 w3 : Word) : State :=
  let t := trcPre s (trcGet s k)
  if t.fifo.length < 64 then trcSet s k (trcEnter s t typ eng sub w1 w2 w3)
  else cntAdd (trcSet s k { t with lost := t.lost + 1 }) (trcAdr k 0x10) 1

/-- Free places in the FIFO of unit `k`. -/
def trcRoom (s : State) (k : Nat) : Nat := 64 - (trcGet s k).fifo.length

/-- Whether every record that engine `n` made has left the FIFO of its trace unit (R498). -/
def trcFlushed (s : State) (n : Nat) : Bool :=
  decide (64 ≤ n) ||
  (trcGet s (cluOf n)).fifo.all (fun r =>
    field r 31 28 == 4 || field r 31 28 == 10 || field r 31 28 == 11 || field r 27 25 != n % 8)

/-- Whether the marker that sleep or a switch to OFF writes has room, after the SYNC that R495 may put before it, or is not
made (R497). -/
def trcMarkRoom (s : State) (n : Nat) : Bool :=
  !(decide (n < 64) && trcMark s (cluOf n) 12 && trcEngOn s n) ||
  decide (b2n (trcSyncNeeded s (trcGet s (cluOf n))) < trcRoom s (cluOf n))

/-- The address filter of R494. -/
def trcAdrPass (s : State) (k : Nat) (store : Bool) (a : Word) : Bool :=
  (List.range 8).any (fun r =>
    let cfg := regGet s (trcAdr k (0x48 + r * 0x10))
    bitAt cfg 0 && bitAt cfg (if store then 2 else 1) &&
    (regGet s (trcAdr k (0x40 + r * 0x10))).ule a && a.ule (regGet s (trcAdr k (0x44 + r * 0x10))))

/-- Whether a context filter of unit `k` is enabled. -/
def trcCtxEn (s : State) (k q : Nat) : Bool := bitAt (regGet s (trcAdr k (0xC8 + q * 0x10))) 0

/-- The context filter of R494. -/
def trcCtxPass (s : State) (k : Nat) (ctx : Option Nat) : Bool :=
  let inR (q i : Nat) : Bool :=
    trcCtxEn s k q && decide ((regGet s (trcAdr k (0xC0 + q * 0x10))).toNat ≤ i) &&
    decide (i ≤ (regGet s (trcAdr k (0xC4 + q * 0x10))).toNat)
  (!trcCtxEn s k 0 && !trcCtxEn s k 1) ||
  (match ctx with
   | none => false
   | some i => inR 0 i || inR 1 i)

/-- A LOAD or STORE record of engine `n` (R494): a 16-byte access makes two. -/
def trcAccess (s : State) (n : Nat) (store : Bool) (a : Word) (size : Nat) (v : W128) : State :=
  let k := cluOf n
  let typ := if store then 2 else 1
  let lg := if size = 1 then 0 else if size = 2 then 1 else if size = 4 then 2 else 3
  let lo (w : W128) : Word := w.setWidth 32
  if n < 64 && trcEngOn s n && (isProving s || (trcAdrPass s k store a && trcCtxPass s k (engGet s n).ctxOpen)) then
    let s1 := trcPut s k typ (n % 8) lg a (lo v) (if 8 ≤ size then lo (v >>> 32) else 0)
    if size = 16 then trcPut s1 k typ (n % 8) lg (a + 8) (lo (v >>> 64)) (lo (v >>> 96)) else s1
  else s

/-- A CTX record of engine `n` (R494). The context filter asks for the context that the engine has open, and for an opening, a commit
or a drop that is the context of the record. -/
def trcCtx (s : State) (n sub idx : Nat) (cseq w3 : Word) : State :=
  let i := if sub < 3 then some idx else (engGet s n).ctxOpen
  if n < 64 && trcMark s (cluOf n) 11 && trcEngOn s n && (isProving s || trcCtxPass s (cluOf n) i) then
    trcPut s (cluOf n) 3 (n % 8) sub (BitVec.ofNat 32 idx) cseq w3
  else s

/-- A marker of an engine: EXC, HALT, RESUME, DROWSE and FREEZE records, by their MARK bit. -/
def trcEngMark (s : State) (n typ bit sub : Nat) (w1 w2 w3 : Word) : State :=
  if n < 64 && trcMark s (cluOf n) bit && trcEngOn s n then trcPut s (cluOf n) typ (n % 8) sub w1 w2 w3 else s

/-- The TICK marker of unit `k` for a main edge or sub-tick edge that reaches the cluster. -/
def trcTick (s : State) (k sub : Nat) (v : W64) : State :=
  if trcMark s k 8 then trcPut s k 4 0 sub (v.setWidth 32) ((v >>> 32).setWidth 32) 0 else s

/-- Whether the WAKE marker has room, with the SYNC that follows it, or is not made: the engine waits for both (R497, R498). -/
def trcWakeRoom (s : State) (n : Nat) : Bool :=
  !(decide (n < 64) && trcMark s (cluOf n) 12 && trcEngOn s n) ||
  decide (b2n (trcSyncNeeded s (trcGet s (cluOf n))) + 1 < trcRoom s (cluOf n))

/-- The WAKE marker and the SYNC that follows it (R495, R498). -/
def trcWake (s : State) (n : Nat) : State :=
  if n < 64 && trcMark s (cluOf n) 12 && trcEngOn s n then
    let s1 := trcPut s (cluOf n) 9 (n % 8) 0 ((ktb s).setWidth 32) ((ktb s >>> 32).setWidth 32) (s.tick.tickn.setWidth 32)
    trcSet s1 (cluOf n) (trcSync s1 (trcGet s1 (cluOf n)))
  else s

/-- The record of an SRAM parity failure (R315): memory code and index of Table 19.9. -/
def parityRecord (s : State) (mem idx entry : Nat) : State :=
  fltWrite s 3 (BitVec.ofNat 32 (mem * 2 ^ 24 + idx % 2 ^ 24)) (BitVec.ofNat 32 entry) 0

/-- Whether the sink of unit `k` can take a record (R496). -/
def sinkFree (s : State) (k : Nat) : Bool :=
  let t := trcGet s k
  if bitAt (trcCtl s k) 1 then
    let size := (regGet s (trcAdr k 0x20)).toNat
    decide (size ≠ 0) && decide ((t.dwptr + 16) % size ≠ (regGet s (trcAdr k 0x28)).toNat % size)
  else bitAt (trcCtl s k) 2 || !t.full

/-- The head record of the FIFO moved into the sink (R496). -/
def sinkTake (s : State) (k : Nat) (r : W128) (rest : List W128) : State :=
  let t := trcGet s k
  let s1 := cntAdd s (trcAdr k 0xC) 1
  if bitAt (trcCtl s k) 1 then
    let size := (regGet s (trcAdr k 0x20)).toNat
    let base := (regGet64 s (trcAdr k 0x18)).toNat + t.dwptr
    trcSet { s1 with mem := { s1.mem with dram := memPut s1.mem.dram (2 ^ 64 * k + base) (leBytes 16 r.toNat) } } k
      { t with fifo := rest, dwptr := (t.dwptr + 16) % size }
  else
    trcSet s1 k { t with fifo := rest, buf := tblSet 0 t.wptr r t.buf, wptr := (t.wptr + 1) % 8192,
                         full := t.wptr == 8191 && !bitAt (trcCtl s k) 2 }

/-- What enters the FIFO once a record has left it: the OVF record with the number lost, and the SYNC after it (R497,
R495). -/
def trcAfterDrain (s : State) (k : Nat) : State :=
  let t := trcGet s k
  if t.lost ≠ 0 then
    trcSet s k { trcEnter s t 11 0 0 (BitVec.ofNat 32 t.lost) 0 0 with lost := 0, syncDue := true }
  else if t.syncDue then trcSet s k (trcSync s t)
  else s

/-- One record drained from the FIFO of unit `k`; a record that fails parity is dropped with an overflow marker (R315,
R496, R497). -/
def trcDrain (s : State) (k : Nat) (parityFail : Bool) : State :=
  match (trcGet s k).fifo with
  | [] => s
  | r :: rest =>
    if parityFail then
      let s1 := trcSet s k { trcGet s k with fifo := rest, lost := (trcGet s k).lost + 1 }
      trcAfterDrain (parityRecord (cntAdd s1 (trcAdr k 0x10) 1) 4 k (trcGet s k).wptr) k
    else if sinkFree s k then trcAfterDrain (sinkTake s k r rest) k
    else s

/-- A write of TRC[k].CTL: SINK is kept while EN is 1; enabling the unit inserts a SYNC and restarts a stopped buffer
(R495, Table 18.19). -/
def trcCtlWrite (s : State) (k : Nat) (v : Word) : State :=
  let old := trcCtl s k
  let v1 := v &&& 0xFF003F0F
  let v2 := if bitAt old 0 then (v1 &&& ~~~2) ||| (old &&& 2) else v1
  let s1 := regPut s (trcAdr k 0) v2
  if bitAt v2 0 && !bitAt old 0 then
    let t : Trc := { trcGet s1 k with full := false }
    trcSet s1 k (if t.fifo.length < 64 then trcSync s1 t else { t with syncDue := true })
  else s1

/-- What a freeze that begins or ends between `s` and `z` leaves: hold-off timers counted up to now, the held TICKN of the
engines of a frozen cluster, and the FREEZE records (R344, R486, Table 18.6). -/
def freezeStep (s z : State) : State :=
  let z1 := if frzEvh s = frzEvh z then z else hubRebase s z
  let z2 := forNats ((List.range 64).filter (fun n => frzTick z (cluOf n) && !frzTick s (cluOf n))) (fun y n =>
    engMap y n (fun e => { e with tickn := engTick s n, tickHeld := true })) z1
  let tf (y : State) (n : Nat) : Bool := bitAt (dbgCtl y n) 4 && freezeOn y
  let mark (y : State) (n sub : Nat) : State :=
    if trcMark y (cluOf n) 13 && (isProving y || bitAt (trcCtl y (cluOf n)) (24 + n % 8)) then
      trcPut y (cluOf n) 12 (n % 8) sub 0 0 0
    else y
  if freezeOn s == freezeOn z && freezeOn s == false then z
  else forNats (List.range 64) (fun y n =>
    if tf z n && !tf s n then mark y n 0 else if tf s n && !tf z n then mark y n 1 else y) z2

/-- Records drained from the FIFO of the trace unit of engine `n`, at most so many, as long as the sink takes them and one of the
engine's own is left there (R498). -/
def trcFlush (n : Nat) : Nat → State → State
  | 0, s => s
  | m + 1, s => if trcFlushed s n || !sinkFree s (cluOf n) then s else trcFlush n m (trcDrain s (cluOf n) false)

end Sys2Proof.Machine
end

