-- ==== Sys2Proof/Machine/Store.lean ====
section
/-! DEFINITION. Tiles and their checks (R316 to R321), the context records, their mirrors and ROUTINE.CTL copies (R102 to
R121), owners, and the locks. -/

namespace Sys2Proof.Machine

/-- A tile named as MEM.LASTADR names it: class, instance and tile index (Table 11.4). -/
def tileKey (cls inst tile : Nat) : Nat := cls * 2 ^ 29 + inst * 2 ^ 22 + tile

/-- Whether a tile fails its check. State lists the tiles whose check word differs from the CRC of their bytes (tilePasses); every other
check word is that CRC. -/
def tileBad (s : State) (cls inst tile : Nat) : Bool := hasNat (tileKey cls inst tile) s.mem.bad

/-- The 64 bytes last written to a tile, by memory class (Table 11.4): IMEM, DMEM, context store, staging buffer, context window, and the
Sett's IMEM and DMEM, by engine, and store. -/
def tileWritten (s : State) (cls inst tile : Nat) : List Byte :=
  let half (r : Rec) : List Byte := (List.range 64).map (fun j => (r >>> (8 * (64 * (tile % 2) + j))).setWidth 8)
  match cls with
  | 0 => memBytes (engGet s inst).imem (64 * tile) 64
  | 1 => memBytes (engGet s inst).dmem (64 * tile) 64
  | 2 => half (tblGet 0 (2 ^ 14 * inst + tile / 2) s.store.recs)
  | 3 => memBytes s.mem.staging (64 * tile) 64
  | 4 => half (engGet s inst).window
  | _ =>
    if inst = 2 then half (tblGet 0 (tile / 2) s.store.sett)
    else if tile < 2048 then memBytes (engGet s (64 + inst)).imem (64 * tile) 64
    else memBytes (engGet s (64 + inst)).dmem (64 * (tile - 2048)) 64

/-- The 64 bytes of a tile as stored: those last written, and open ones in a tile that fails its check (R316, R321). -/
def tileBytes (s : State) (cls inst tile : Nat) : List Byte :=
  let bs := tileWritten s cls inst tile
  if tileBad s cls inst tile then
    (List.range 64).map (fun i => Config.failedByte (tileKey cls inst tile) i (bs.getD i 0))
  else bs

/-- The 32-bit check word stored with a tile (R316): every write leaves that of the bytes, and in a tile that fails it differs from
theirs by an open value other than 0. -/
def tileCheckWord (s : State) (cls inst tile : Nat) : Word :=
  crc32c (tileBytes s cls inst tile) ^^^
    (if tileBad s cls inst tile then Config.checkDiff (tileKey cls inst tile) ||| 1 else 0)

/-- The check of a tile: its check word against the CRC-32C of its bytes (R316). -/
def tilePasses (s : State) (cls inst tile : Nat) : Bool :=
  tileCheckWord s cls inst tile == crc32c (tileBytes s cls inst tile)

/-- A word as stored of a tile that fails its check, at byte `o` of the tile: `w` is what was last written there (R316, R321). -/
def failedWord (key o : Nat) (w : Word) : Word :=
  let b (i : Nat) : Byte := Config.failedByte key (o + i) ((w >>> (8 * i)).setWidth 8)
  b 3 ++ b 2 ++ b 1 ++ b 0

/-- A tile made to fail its check. State keeps what was last written to the tile; the bytes that it now stores are open, and every
reader but debug is kept from them (R316, Table 11.2). -/
def tileSpoil (s : State) (cls inst tile : Nat) : State :=
  { s with mem := { s.mem with bad := addNat (tileKey cls inst tile) s.mem.bad } }

/-- A tile made to pass its check by a whole-tile write (R318). A release of a lock that the Badger could not write into a
failing record tile 0 ends as the tile is written anew (R118, R319). -/
def tileCure (s : State) (cls inst tile : Nat) : State :=
  let s1 := { s with mem := { s.mem with bad := delNat (tileKey cls inst tile) s.mem.bad } }
  if cls = 2 ∧ tile % 2 = 0 then
    { s1 with store := { s1.store with lockGone := delNat (inst * 2 ^ 14 + tile / 2) s1.store.lockGone } }
  else s1

/-- A failing check met by a reader (R320); `reader` is coded as Table 19.9 gives for class TILE. -/
def tileDetect (s : State) (cls inst tile reader : Nat) : State :=
  let w := BitVec.ofNat 32 (tileKey cls inst tile)
  fltWrite (cntAdd { s with mem := { s.mem with lastadr := w } } (0xA010 + 4 * cls) 1) 2 w (BitVec.ofNat 32 reader) 0

/-- The word at byte offset `o` of a record or window. -/
def recWord (r : Rec) (o : Nat) : Word := (r >>> (8 * o)).setWidth 32

/-- The double word at byte offset `o` of a record or window. -/
def recDouble (r : Rec) (o : Nat) : W64 := (r >>> (8 * o)).setWidth 64

/-- The `n` bits at byte offset `o` of a record replaced by `v`. -/
def recPutBits (r : Rec) (o n v : Nat) : Rec :=
  (r &&& ~~~(BitVec.ofNat 1024 ((2 ^ n - 1) * 2 ^ (8 * o)))) ||| BitVec.ofNat 1024 (v % 2 ^ n * 2 ^ (8 * o))

/-- The word at byte offset `o` replaced. -/
def recPutWord (r : Rec) (o : Nat) (v : Word) : Rec := recPutBits r o 32 v.toNat

/-- VALUE (Table 4.1). -/
def recValue (r : Rec) : W64 := recDouble r 0
/-- TAGLAST. -/
def recTag (r : Rec) : W64 := recDouble r 8
/-- ROUTINE.PTR. -/
def recPtr (r : Rec) : Word := recWord r 0x10
/-- ROUTINE.CTL. -/
def recCtl (r : Rec) : Word := recWord r 0x14
/-- LOCK. -/
def recLock (r : Rec) : Word := recWord r 0x18
/-- STATE. -/
def recState (r : Rec) : Word := recWord r 0x1C

/-- INUSE, RUNARR, PUBL, HISTL, FOX and XOWN of ROUTINE.CTL (Table 4.2). -/
def ctlInuse (c : Word) : Bool := bitAt c 31
def ctlRunarr (c : Word) : Bool := bitAt c 30
def ctlPubl (c : Word) : Bool := bitAt c 29
def ctlHistl (c : Word) : Bool := bitAt c 28
def ctlFox (c : Word) : Bool := bitAt c 27
def ctlXown (c : Word) : Bool := bitAt c 26
/-- OWNER, CLASS and PHASE. -/
def ctlOwner (c : Word) : Nat := field c 18 16
def ctlClass (c : Word) : Nat := field c 10 8
def ctlPhase (c : Word) : Nat := field c 6 0

/-- The home cluster of a local index (R107). -/
def homeOf (i : Nat) : Nat := i / 2 ^ 14 % 8

/-- The mirror of a context: the same bits [13:0] in the partner slice (R109). -/
def mirrorOf (i : Nat) : Nat := i ^^^ 0x4000

/-- Whether the slices of a pair hold the same records: in MIRRORED, and while a mirror fill runs (R109, R120, R439). -/
def mirroring (s : State) : Bool := isMirrored s || s.svc.fill

/-- Whether cluster `k` has failed in MIRRORED, so that its partner's copies are the only ones (R447). -/
def sliceGone (s : State) (k : Nat) : Bool := isMirrored s && cluMir s k == 3

/-- The slice copy of record `i` that the machine has: the home copy, or in MIRRORED the partner's when the home cluster has
failed (R447). -/
def liveCopy (s : State) (i : Nat) : Nat := if sliceGone s (homeOf i) then mirrorOf i else i

/-- The context whose copy lies at index `j`: mirrors lie in the slices of C1, C3, C5 and C7 (Table 4.5). -/
def ctxOfCopy (s : State) (j : Nat) : Nat := if mirroring s && homeOf j % 2 == 1 then mirrorOf j else j

/-- Whether index `j` holds the copy that reads of its context use: one of each mirrored pair (R121, R447). -/
def primeCopy (s : State) (j : Nat) : Bool := !mirroring s || liveCopy s (ctxOfCopy s j) == j

/-- Record `i`. -/
def recGet (s : State) (i : Nat) : Rec := tblGet 0 i s.store.recs

/-- Record `i` written in one slice only. -/
def recPut1 (s : State) (i : Nat) (r : Rec) : State :=
  { s with store := { s.store with recs := tblSet 0 i r s.store.recs } }

/-- The slice copies to which a write of record `i` goes: its own, and the partner's in MIRRORED, and for a record of C0, C2, C4 or
C6 while a mirror fill runs (R120, R439); none in the slice of a cluster that has failed (R447). -/
def tileCopies (s : State) (i : Nat) : List Nat :=
  (if isMirrored s || (s.svc.fill && homeOf i % 2 == 0) then [i, mirrorOf i] else [i]).filter (fun j => !sliceGone s (homeOf j))

/-- Half of a record replaced. -/
def recHalf (r : Rec) (half : Nat) (bs : List Byte) : Rec := recPutBits r (64 * half) 512 (leNat bs)

/-- The bytes of half of a record. -/
def halfBytes (r : Rec) (half : Nat) : List Byte := leBytes 64 (r.toNat >>> (512 * half))

/-- A whole-tile write of half of the record at index `j`, in that slice only (R318). -/
def halfPut1 (s : State) (half : Nat) (bs : List Byte) (j : Nat) : State :=
  tileCure (recPut1 s j (recHalf (recGet s j) half bs)) 2 (homeOf j) (2 * (j % 2 ^ 14) + half)

/-- A whole-tile write of half of record `i`, in every copy (R120, R318, R439). -/
def halfPut (s : State) (i half : Nat) (bs : List Byte) : State :=
  (tileCopies s i).foldl (fun z j => halfPut1 z half bs j) s

/-- The ROUTINE.CTL copy of context `i` (R110), the partner's when its cluster has failed (R447). -/
def ctlGet (s : State) (i : Nat) : Word := tblGet 0 (liveCopy s i) s.store.ctl

/-- The ROUTINE.CTL copy of context `i` set in its slice. -/
def ctlPut1 (s : State) (i : Nat) (c : Word) : State :=
  { s with store := { s.store with ctl := tblSet 0 i c s.store.ctl } }

/-- The ROUTINE.CTL copies set, in the slices in which a write of the record is made (R110). -/
def ctlPut (s : State) (i : Nat) (c : Word) : State := (tileCopies s i).foldl (fun z j => ctlPut1 z j c) s

/-- The owning engine of a context whose ROUTINE.CTL is `c` (R107). -/
def ownerWith (s : State) (i : Nat) (c : Word) : Nat :=
  let k := if isMirrored s && ctlXown c then homeOf i ^^^ 1 else homeOf i
  8 * k + ctlOwner c

/-- The owning engine of context `i`. -/
def ownerOf (s : State) (i : Nat) : Nat := ownerWith s i (ctlGet s i)

/-- The tile of the context store that holds tile `t` of record `i`, checked for failure. -/
def recTileBad (s : State) (i t : Nat) : Bool :=
  let j := liveCopy s i
  tileBad s 2 (homeOf j) (2 * (j % 2 ^ 14) + t)

/-- A read of tile `t` of record `i` by a reader of Table 19.9: whether a good copy was found, after the failing check
and, in MIRRORED with both copies kept, the read of the other copy (R121). -/
def recTileRead (s : State) (i t reader : Nat) : Bool × State :=
  if recTileBad s i t then
    let j := liveCopy s i
    let s1 := tileDetect s 2 (homeOf j) (2 * (j % 2 ^ 14) + t) reader
    let two := isMirrored s && cluMir s (homeOf j) == 1
    if two && !recTileBad s (mirrorOf j) t then (true, cntAdd s1 (0x6114 + homeOf j * 0x20) 1)
    else if two then
      (false, tileDetect s1 2 (homeOf (mirrorOf j)) (2 * (mirrorOf j % 2 ^ 14) + t) reader)
    else (false, s1)
  else (true, s)

/-- The record that a reader of copy `i` gets: each tile from that copy, or from the other one where it fails and the other
passes (R121), and from the only copy that is left (R447). -/
def recRead (s : State) (i : Nat) : Rec :=
  let half (t : Nat) : Nat :=
    let src := liveCopy s (if isMirrored s && recTileBad s i t && !recTileBad s (mirrorOf i) t then mirrorOf i else i)
    ((recGet s src).toNat >>> (512 * t)) % 2 ^ 512
  BitVec.ofNat 1024 (half 0 + 2 ^ 512 * half 1)

/-- The record from which the partial write of tile `t` of copy `j` starts: that copy, with the tile of the other one in MIRRORED
where its own fails (R121, R321). -/
def mergeBase (s : State) (j t : Nat) : Rec :=
  if isMirrored s && recTileBad s j t then recHalf (recGet s j) t (halfBytes (recGet s (mirrorOf j)) t) else recGet s j

/-- The partial write of tile `t` made to copy `j`, whose merge read checks the tile unless `seen` says that the writer has read it
(R317, R319). While a mirror fill runs a failing partner tile is left as it is, but for what `alt` writes outside it. A tile that
fails goes on failing, though its merge used the other copy (R319). -/
def copyMerge (s0 : State) (t reader : Nat) (f alt : Rec → Rec) (seen : Nat) (s : State) (j : Nat) : State :=
  let q := if j = seen then (true, s) else recTileRead s j t reader
  if q.1 then recPut1 q.2 j (f (mergeBase s0 j t)) else cntAdd (recPut1 q.2 j (alt (recGet s0 j))) 0xA030 1

/-- A partial write of tile `t` of record `i`: the tile read and checked, the record changed by `f`, and every copy written
(R120, R319, R321). The Boolean says that the write was made; `alt` is what the writer changes outside tile `t`. -/
def recMerge (s : State) (i t reader : Nat) (f : Rec → Rec) (alt : Rec → Rec := id) : Bool × State :=
  let q := recTileRead s i t reader
  if q.1 then (true, (tileCopies s i).foldl (copyMerge s t reader f alt (liveCopy s i)) q.2) else q

/-- A partial write by the host, debug, the publication path or the Badger, counted when it is not made (Table 11.2, R329). -/
def recPutPart (s : State) (i t reader : Nat) (f : Rec → Rec) : State :=
  let q := recMerge s i t reader f
  if q.1 then q.2 else cntAdd q.2 0xA030 1

/-- The record that an engine reads for local index `i`: its own slice's copy in MIRRORED (R111, R121). -/
def ownCopy (s : State) (n i : Nat) : Nat :=
  if isMirrored s && homeOf i != cluOf n then mirrorOf i else i

/-- Whether R111 lets scan engine `n` open record `i`: it lies in the engine's slice, or in MIRRORED the engine's slice holds
its mirror, which only the slices of C1, C3, C5 and C7 do (Table 4.5). -/
def mayOpen (s : State) (n i : Nat) : Bool :=
  decide (i < 2 ^ 17) &&
  (homeOf i == cluOf n || (isMirrored s && homeOf i == cluOf n ^^^ 1 && decide (homeOf i % 2 = 0)))

/-- Scan-due at number `N` for a class and phase (R41). -/
def dueAt (c : Word) (N : Nat) : Bool := N % 2 ^ ctlClass c == ctlPhase c % 2 ^ ctlClass c

/-- The engine that holds the lock of LOCK word `w` (Table 4.3). -/
def lockHolder (w : Word) : Option Nat := if bitAt w 31 then some (field w 30 24) else none

/-- Whether the LOCK word that engine `n` has in the record at index `j` is that of a lock of its own, and not of the mirror of a lock:
in MIRRORED one of each pair counts, and in the copies that a mirror fill makes or that MIRRORED has left, the one in the even
slice. Leaving MIRRORED zeroes only ROUTINE.CTL of the odd slices (R440), so a LOCK word left HELD in one of them counts as the engine's
lock once the even record is unlocked (DESIGN CHOICE: R117 and R440 do not say what becomes of it; log 65). -/
def lockPrime (s : State) (n j : Nat) : Bool :=
  if isMirrored s then primeCopy s j
  else !(homeOf j % 2 == 1 && lockHolder (recLock (recGet s (mirrorOf j))) == some n)

/-- The contexts whose lock engine `n` lists among its held locks (R117): one entry of each mirrored pair, and none that a
failing tile 0 only keeps because its release could not be written (R118, R319). -/
def locksOf (s : State) (n : Nat) : List Nat :=
  let held (q : Nat × Rec) : Bool := lockHolder (recLock q.2) == some n
  if n = 64 ∨ n = 65 then (s.store.sett.filter held).map (·.1)
  else (s.store.recs.filter (fun q => held q && lockPrime s n q.1 && !hasNat q.1 s.store.lockGone)).map
    (fun q => if isMirrored s then ctxOfCopy s q.1 else q.1)

/-- The engine number under which engine `n` holds locks: that of engine 2k in PAIRED, S0 in the Sett. -/
def lockId (s : State) (n : Nat) : Nat := if n = 65 then 64 else if isPaired s && decide (n < 64) then n / 2 * 2 else n

/-- A LOCK word: held by `h`, or free (Table 4.3). -/
def lockWord (h : Option Nat) : Word :=
  match h with
  | none => 0
  | some n => BitVec.ofNat 32 (2 ^ 31 + n * 2 ^ 24)

/-- The release of the lock of context `i` by a reader of Table 19.9: a partial write of record tile 0, which is not made when the tile
fails, though the lock then counts no longer (R118, R319, R483). `f` is what the writer changes besides. -/
def lockFreeBy (s : State) (i reader : Nat) (f : Rec → Rec) : State :=
  let q := recMerge s i 0 reader (fun r => f (recPutWord r 0x18 (lockWord none)))
  if q.1 then q.2
  else
    let z := cntAdd q.2 0xA030 1
    { z with store := { z.store with lockGone := addNat (liveCopy s i) z.store.lockGone } }

/-- The Badger's release of the lock of context `i` (R118). -/
def lockFree (s : State) (i : Nat) : State := lockFreeBy s i 4 id

/-- Every lock of engine `n` released, each counted in CLU[k].LOCKREL (R118). -/
def locksRelease (s : State) (n : Nat) : State :=
  forNats (locksOf s n) (fun z i => cntAdd (lockFree z i) (0x6110 + cluOf n * 0x20) 1) s

/-- Pending marks of buffer 0 and of buffer 1 set for context `i` (R123). -/
def pubMark (s : State) (i : Nat) : State :=
  { s with pub := { s.pub with pend0 := addNat i s.pub.pend0, pend1 := addNat i s.pub.pend1 } }

/-- A write to tile 0 of record `i` by the publication path: not made when the tile fails, and counted then (R319, Table 11.2,
R329). -/
def pubTileWrite (s : State) (i : Nat) (f : Rec → Rec) : State := recPutPart s i 0 3 f

/-- The skip of context `i` at a reserve (R48, R106, R125): `k` is the cluster that counts it. -/
def ctxSkip (s : State) (i : Nat) : State :=
  if ctlInuse (ctlGet s i) then
    let s1 := pubTileWrite s i (fun r =>
      let r1 := recPutBits r 0x0C 4 0xC
      recPutBits r1 0x1E 8 (min (field (recState r) 23 16 + 1) 255))
    if ctlPubl (ctlGet s i) then pubMark s1 i else s1
  else s

/-- A CTL copy word that fails parity is rewritten by the Badger from the record, whose tile 0 it checks as it reads (R315,
R317); a record that fails too leaves the copy as it is. -/
def ctlRewrite (s : State) (i : Nat) : State :=
  let q := recTileRead (parityRecord s 2 (homeOf i) (i % 2 ^ 14)) i 0 4
  if q.1 then ctlPut q.2 i (recCtl (recRead s i)) else q.2

end Sys2Proof.Machine
end

