-- ==== Sys2Proof/Machine/Cells.lean ====
section
/-! DEFINITION. Cells, queues, the crossbar, the dispatcher's lists and the host cell queue (R62 to R85). -/

namespace Sys2Proof.Machine

/-- UNIT of a tag (Table 3.1). -/
def cellUnit (c : W128) : Nat := field c 63 57
/-- INDEX. -/
def cellIndex (c : W128) : Nat := field c 56 40
/-- QUAL. -/
def cellQual (c : W128) : Nat := field c 35 32
/-- STAMP. -/
def cellStamp (c : W128) : Nat := field c 31 16
/-- PUB, HIST, HOST, DLV and MOTH of ROUTE (Table 3.2). -/
def cellPub (c : W128) : Bool := bitAt c 7
def cellHist (c : W128) : Bool := bitAt c 6
def cellHost (c : W128) : Bool := bitAt c 5
def cellDlv (c : W128) : Bool := bitAt c 4
def cellMoth (c : W128) : Bool := bitAt c 3

/-- The `n` bits from bit `l` of a cell replaced. -/
def cellPutBits (c : W128) (l n v : Nat) : W128 :=
  (c &&& ~~~(BitVec.ofNat 128 ((2 ^ n - 1) * 2 ^ l))) ||| BitVec.ofNat 128 (v % 2 ^ n * 2 ^ l)

/-- A cell from its tag and payload (R5). -/
def mkCell (tag payload : W64) : W128 := payload ++ tag

/-- A tag from its fields (Table 3.1). -/
def mkTag (unit index kind qual stamp seq route : Nat) : W64 :=
  BitVec.ofNat 64 (unit % 128 * 2 ^ 57 + index % 2 ^ 17 * 2 ^ 40 + kind % 16 * 2 ^ 36 + qual % 16 * 2 ^ 32 +
    stamp % 65536 * 65536 + seq % 256 * 256 + route % 256)

/-- A fill cell (Table 3.3), as a pop from an empty queue captures it. -/
def fillCell : W128 := mkCell (mkTag 0 0 15 0 0 0 0) 0

/-- CELL.CTL.AGE_LIMIT in force. -/
def ageLimit (s : State) : Nat := field (regGet s 0x4000) 7 0

/-- The age of a stamp (R54). -/
def ageOf (now stamp : Nat) : Nat := (now + 65536 - stamp % 65536) % 65536

/-- Past the age limit at stamp `now` (R54). -/
def pastAge (limit now : Nat) (c : W128) : Bool :=
  decide (limit ≤ ageOf now (cellStamp c)) && decide (ageOf now (cellStamp c) ≤ 0x7FFF)

/-- Past the age limit in the present tick of the unit. -/
def cellOld (s : State) (c : W128) : Bool := pastAge (ageLimit s) (s.tick.tickn.toNat % 65536) c

/-- The stamp against which the queues of engine `n` test cells: STN for the Sett, TICKN otherwise (R55, R379). -/
def queueOld (s : State) (n : Nat) (c : W128) : Bool :=
  if n = 64 ∨ n = 65 then pastAge 8 (s.sett.stn.toNat % 65536) c else cellOld s c

/-- The counters of the queues of engine `n` (Table 3.9), none for the Sett. -/
def qCount (s : State) (n off k : Nat) : State := if n < 64 then cntAdd s (0x5000 + n * 0x20 + off) k else s

/-- The engines that work a context owned by engine `n`: both of a pair in PAIRED (R74). -/
def pairOf (s : State) (n : Nat) : List Nat :=
  if isPaired s && n < 64 then [n / 2 * 2, n / 2 * 2 + 1] else [n]

/-- Entries on the list of engine `n`. -/
def listLen (e : Engine) : Nat := e.scan.length + (e.inq.filter (·.arr)).length

/-- CLU[k].LISTMAX kept as a high-water value (R85). -/
def listMaxNote (s : State) (n : Nat) : State :=
  let a := 0x4108 + cluOf n * 0x20
  let l := listLen (engGet s n)
  if (cntGet s a).toNat < l then cntPut s a (BitVec.ofNat 32 l) else s

/-- An entry put at the end of the inbound queue of engine `n` (R73, R81, R85, R461). In PAIRED the arrival entries of both
engines of a pair count in CLU[k].ARRIVALS (DESIGN CHOICE: R85 does not say whether one arrival at a pair counts once). -/
def inqPut (s : State) (n : Nat) (q : QCell) : State :=
  let e := engGet s n
  if 512 ≤ e.inq.length then qCount s n 4 1
  else
    let s1 := engSet s n { e with inq := e.inq ++ [q] }
    if q.arr then
      let s2 := if n < 64 then listMaxNote (cntAdd s1 (0x4104 + cluOf n * 0x20) 1) n else s1
      wakeEng s2 n
    else s1

/-- Whether the dispatcher lists context `i` with ROUTINE.CTL `c` at all: in FASTLOOP the Fox group dispatches only contexts with
FOX = 1, and the other clusters ignore those (Table 4.5). -/
def foxListed (s : State) (i : Nat) (c : Word) : Bool := !isFastloop s || (ctlFox c == (homeOf i == 7))

/-- Whether an arriving cell makes an arrival entry: RUNARR and FOX as they stood at the latest edge (R79, R81, Table 4.5). -/
def arrEntry (s : State) (c : W128) : Bool :=
  let w := tblGet 0 (cellIndex c) s.store.ctlEdge
  cellDlv c && !cellMoth c && ctlRunarr w && foxListed s (cellIndex c) w && ctlInuse (ctlGet s (cellIndex c))

/-- A cell put on its way to a destination of the crossbar. -/
def flyTo (s : State) (dest : Nat) (c : OCell) : State :=
  { s with cells := { s.cells with flight := s.cells.flight ++ [{ dest := dest, cell := c }] } }

/-- The same for what leaves towards the plant, the chain, the host or the history: in VERIFY the router discards it (R421). -/
def flyOut (s : State) (dest : Nat) (c : OCell) : State := if s.bstate = .verify then cntAdd s 0xB038 1 else flyTo s dest c

/-- The first cell on its way to a destination, and the rest. -/
def flyTake (dest : Nat) : List Flight → Option (OCell × List Flight)
  | [] => none
  | f :: t => if f.dest = dest then some (f.cell, t) else (flyTake dest t).map (fun q => (q.1, f :: q.2))

/-- The first cell on its way to a destination removed. -/
def flyRest (s : State) (l : List Flight) : State := { s with cells := { s.cells with flight := l } }

/-- The tick to which a copy released now belongs: the present one before the publish reserve, the next one after
(R124). -/
def dueNow (s : State) : W64 := if s.tick.inReserve then s.tick.tickn + 1 else s.tick.tickn

/-- Whether tick number `d` comes after tick number `n` (R14); one that is 2^63 away, which R14 leaves unordered, does not (DESIGN
CHOICE). -/
def tickAfter (n d : W64) : Bool := serialNewer 64 d.toNat n.toNat == some true

/-- The moth of banks 0 to 5 whose configured context is `i`, the lowest-numbered one. -/
def mothOfCtx (s : State) (i : Nat) : Option Nat :=
  (s.field.moth.find? (fun q => decide (q.1 < 96) && q.2.ctxValid && decide (q.2.index = i))).map (·.1)

/-- An engine that is out of service: its contexts have no destination (R75). -/
def svcGone (s : State) (n : Nat) : Bool := (svcEng s n).st == 3 || (svcEng s n).st == 4 || (svcEng s n).st == 5

/-- Local delivery of a cell for this unit: the copies and the destination of R75. The record is that of the cell's INDEX: in MIRRORED
an INDEX in an odd slice meets the ROUTINE.CTL copy of the mirror that lies there (DESIGN CHOICE: Table 4.5 lets no such index be in
service and no rule says what a cell for one meets). -/
def routeLocal (s : State) (o : OCell) : State :=
  let c := o.cell
  let i := cellIndex c
  if !cellPub c && !cellHist c && !cellHost c && !cellDlv c then cntAdd s 0x400C 1
  else
    let s1 := if cellPub c then flyTo s 101 o else s
    let s2 := if cellHist c then flyOut s1 102 o else s1
    let s3 := if cellHost c then flyOut s2 100 o else s2
    if cellDlv c then
      if cellMoth c then
        match mothOfCtx s i with
        | none => cntAdd s3 0x400C 1
        | some m => flyOut s3 (110 + m / 16) o
      else if !ctlInuse (ctlGet s i) || svcGone s (ownerOf s i) then cntAdd s3 0x400C 1
      else (pairOf s (ownerOf s i)).foldl (fun z n => flyTo z n o) s3
    else s3

/-- The distance from `a` to `b` downstream in a ring of `u` units. -/
def ringDist (u a b : Nat) : Nat := if u = 0 then 0 else (b + u - a % u) % u

/-- Whether a unicast cell for unit `d` goes out port 0 (R90). -/
def goesDown (s : State) (d : Nat) : Bool :=
  let u := s.chain.units
  let a := s.chain.unit
  let down := decide (ringDist u a d ≤ ringDist u d a)
  let crosses (p : Bool) : Bool :=
    let dn := decide (ringDist u a s.chain.brkUnit < ringDist u a d)
    if p then dn else !dn
  if s.chain.brkValid && crosses down then !down else down

/-- The router's handling of one cell (R75); the chain ports are destinations 120 and 121. `pushed` tells a cell of this
unit from one that arrived on the chain, whose frame has been handled by the port. -/
def routeCell (s : State) (o : OCell) : State :=
  let k := cellKind o.cell
  if k = 15 then s
  else if 9 ≤ k ∧ k ≤ 13 then cntAdd s 0x4004 1
  else
    let c := if cellUnit o.cell = 0 then cellPutBits o.cell 57 7 s.chain.unit else o.cell
    let d := cellUnit c
    let o1 := { o with cell := c }
    if d ≠ s.chain.unit ∧ d ≠ 127 then
      if s.chain.unit = 0 ∨ s.chain.units < d then cntAdd s 0x4010 1
      else flyOut s (if goesDown s d then 120 else 121) o1
    else
      let s1 := if d = 127 then flyOut s 120 o1 else s
      routeLocal s1 o1

/-- What the router does to a cell at push: a reserved QUAL becomes BAD_CONFIG and ROUTE[2:0] is cleared (R67, Table
3.2). The Boolean says that QUALFIX counts. -/
def pushFix (c : W128) : W128 × Bool :=
  let q := cellQual c
  let bad := q == 3 || q == 14 || q == 15
  (cellPutBits (if bad then cellPutBits c 32 4 8 else c) 0 3 0, bad)

/-- The released cells of an outbound queue exist. -/
def anyReleased (q : List OCell) : Bool := q.any (fun o => !o.pend)

/-- Every pending cell released (R70). -/
def releaseAll (s : State) (n : Nat) : State :=
  engMap s n (fun e => { e with outq := e.outq.map (fun o => if o.pend then { o with pend := false, due := dueNow s } else o) })

/-- Every pending cell discarded; also says how many there were. -/
def dropPending (s : State) (n : Nat) : Nat × State :=
  let e := engGet s n
  ((e.outq.filter (·.pend)).length, engSet s n { e with outq := e.outq.filter (fun o => !o.pend) })

/-- The first released cell of a queue that is not past the age limit, the cells left, and the released cells past the
limit dropped on the way (R55). -/
def takeReleased (old : W128 → Bool) : List OCell → Option OCell × List OCell × Nat
  | [] => (none, [], 0)
  | o :: t =>
    if o.pend then
      let q := takeReleased old t
      (q.1, o :: q.2.1, q.2.2)
    else if old o.cell then
      let q := takeReleased old t
      (q.1, q.2.1, q.2.2 + 1)
    else (some o, t, 0)

/-- The engines of cluster `k` in the order the router considers them (R76). -/
def routerOrder (s : State) (k : Nat) : List Nat :=
  let r := tblGet 0 k s.cells.rot
  (List.range 8).map (fun i => 8 * k + (r + i) % 8)

/-- Whether the router takes cells from engine `n`: in PAIRED only engine 2k releases (R74). -/
def routerServes (s : State) (n : Nat) : Bool :=
  anyReleased (engGet s n).outq && !(isPaired s && decide (n % 2 = 1))

/-- The outbound queue of engine `n` without its first cell to be released, the cells past the age limit on the way counted (R55). -/
def outqPass (s : State) (n : Nat) : State :=
  let q := takeReleased (cellOld s) (engGet s n).outq
  qCount (engMap s n (fun e => { e with outq := q.2.1 })) n 8 q.2.2

/-- The cell taken from the outbound queue of engine `n`; the cells that the other engine of a pair mirrors are removed with those of
engine 2k, each queue's age drops in its own counter (R55, R74, Table 3.9). -/
def outqTake (s : State) (n : Nat) : Option OCell × State :=
  let s1 := outqPass s n
  ((takeReleased (cellOld s) (engGet s n).outq).1, if isPaired s then outqPass s1 (n + 1) else s1)

/-- The rotation of the router after it served engine `n`. -/
def rotAfter (s : State) (k n : Nat) : State :=
  { s with cells := { s.cells with rot := tblSet 0 k ((n % 8 + 1) % 8) s.cells.rot } }

/-- The cells available to a pop or peek of engine `n`: those of no undispatched arrival entry, in order (R72), without the
entries that fail their parity (R315). -/
def availCells (s : State) (n : Nat) : List W128 :=
  (((engGet s n).inq.filter (fun q => !q.arr && !q.bad)).map (·.cell)).filter (fun c => !queueOld s n c)

/-- A queue entry that fails its parity dropped and recorded; `id` is its engine, cluster or queue and `pos` its place
(R315, Table 19.9). -/
def parityDrop (s : State) (id pos : Nat) : State := parityRecord (cntAdd s 0xA044 1) 0 id pos

/-- The entries of the inbound queue of engine `n` that fail their parity dropped, with their arrival entries (R315). -/
def inqParity (s : State) (n : Nat) : State :=
  let l := (engGet s n).inq
  if l.any (·.bad) then
    forNats ((List.range l.length).filter (fun p => (l[p]?.map (·.bad)).getD false)) (fun z p => parityDrop z n p)
      (engMap s n (fun e => { e with inq := l.filter (fun q => !q.bad) }))
  else s

/-- The first `k` available cells removed, with the cells past the age limit that stand before the last of them, or come to the head
after it, dropped and counted (R55, R72); an arrival entry goes with its cell (R81). -/
def popGo (old : W128 → Bool) : Nat → List QCell → List QCell × Nat
  | _, [] => ([], 0)
  | k, q :: t =>
    if old q.cell then
      let r := popGo old k t
      (r.1, r.2 + 1)
    else
      match k with
      | 0 => (q :: t, 0)
      | j + 1 =>
        if q.arr then
          let r := popGo old (j + 1) t
          (q :: r.1, r.2)
        else popGo old j t

/-- A pop of `k` available cells; a pop of none still drops the cells past the age limit at the head (R55). -/
def inqPop (s : State) (n k : Nat) : State :=
  let s1 := inqParity s n
  let q := popGo (queueOld s1 n) k (engGet s1 n).inq
  qCount (engMap s1 n (fun e => { e with inq := q.1 })) n 8 q.2

/-- Whether the scan window of the tick of engine `n` is open (R83): not in the reserve of its tick or sub-tick. -/
def windowOpen (s : State) (n : Nat) : Bool :=
  if n = 64 ∨ n = 65 then !s.sett.inReserve
  else if isFox s n then !s.tick.subReserve else !s.tick.inReserve

/-- CLU[k].DSP.ARRFIRST; scan-engine rules hold for the Sett with arrivals first (R380). -/
def arrFirst (s : State) (n : Nat) : Bool :=
  if n = 64 ∨ n = 65 then true else bitAt (regGet s (0x4100 + cluOf n * 0x20)) 0

/-- The arrival cells of an inbound queue that are past the age limit dropped from its arrival entries, up to the first
that is not (R55, R81). -/
def dropOldArr (old : W128 → Bool) : List QCell → List QCell × Nat
  | [] => ([], 0)
  | q :: t =>
    if q.arr then
      if old q.cell then
        let r := dropOldArr old t
        (r.1, r.2 + 1)
      else (q :: t, 0)
    else
      let r := dropOldArr old t
      (q :: r.1, r.2)

/-- The oldest arrival entry's cell moved to the head of the queue and its entry ended (R82). -/
def arrToHead : List QCell → Option (W128 × List QCell)
  | [] => none
  | q :: t => if q.arr then some (q.cell, t) else (arrToHead t).map (fun r => (r.1, q :: r.2))

/-- A ready-list entry of engine `n` that fails its parity dropped and recorded, at place `pos` of the list, in which the arrival entries
are counted by themselves (R315, R329, Table 19.9; DESIGN CHOICE for the place: log 71). S0 and S1 have one list between them. -/
def listDrop (s : State) (n pos : Nat) : State := if n = 65 then s else parityRecord (cntAdd s 0xA044 1) 1 n pos

/-- The arrival entries of engine `n` that fail their parity dropped: their cells stay in the queue, and their contexts are skipped at the
reserve unless they are dispatched in the tick (R315). -/
def arrParity (s : State) (n : Nat) : State :=
  let arrs := (engGet s n).inq.filter (·.arr)
  let gone := (arrs.filter (·.lost)).map (fun q => cellIndex q.cell)
  if gone.isEmpty then s
  else
    forNats ((List.range arrs.length).filter (fun p => (arrs[p]?.map (·.lost)).getD false)) (fun z p => listDrop z n p)
      (engMap s n (fun e => { e with
        inq := e.inq.map (fun q => if q.arr && q.lost then { q with arr := false } else q)
        scanLost := gone.foldl (fun l i => if hasNat i e.disp then l else addNat i l) e.scanLost }))

/-- The arrival entries of engine `n` without those that fail their parity or stand first with a cell past the age limit (R55, R315). -/
def arrFresh (s : State) (n : Nat) : State :=
  let s0 := arrParity (inqParity s n) n
  let e := engGet s0 n
  let d := dropOldArr (queueOld s0 n) e.inq
  qCount (engSet s0 n { e with inq := d.1 }) n 8 d.2

/-- The inbound queue of engine `n` once DISPATCH has found no entry in it: what is past the age limit at its head is dropped all the
same (R55). -/
def inqWait (s : State) (n : Nat) : State := inqPop (arrFresh s n) n 0

/-- The next entry of engine `n` (R82): arrival or scan, its local index, and the state once it is given out. -/
def nextEntry (s : State) (n : Nat) : Option (Bool × Nat × State) :=
  let s1 := arrFresh s n
  let e := engGet s1 n
  let arrival : Option (Bool × Nat × State) :=
    match arrToHead e.inq with
    | none => none
    | some (c, rest) => some (true, cellIndex c, engSet s1 n
        { e with inq := { cell := c, arr := false } :: rest, scanLost := delNat (cellIndex c) e.scanLost,
                 disp := addNat (cellIndex c) e.disp })
  let scan : Option (Bool × Nat × State) :=
    match e.scan with
    | [] => none
    | i :: rest => some (false, i, engSet s1 n
        { e with scan := rest, scanLost := delNat i e.scanLost, disp := addNat i e.disp })
  if !windowOpen s n || e.fresh then none
  else if arrFirst s n then arrival.or scan else scan.or arrival

/-- Queue contents dropped where they are past the age limit (R55): inbound cells with their arrival entries, and
released outbound cells. -/
def engSweep (s : State) (n : Nat) : State :=
  let s1 := inqParity s n
  let e := engGet s1 n
  let inq := e.inq.filter (fun q => !queueOld s1 n q.cell)
  let outq := e.outq.filter (fun o => o.pend || !queueOld s1 n o.cell)
  qCount (engSet s1 n { e with inq := inq, outq := outq }) n 8
    (e.inq.length - inq.length + (e.outq.length - outq.length))

/-- `k` age drops of the queue with destination number `q`. R55 and R68 count them and no table names a counter for the gateway
queues and for the late queue of the publication path: they are counted in State, where no register shows them (DESIGN
CHOICE). -/
def agedAdd (s : State) (q k : Nat) : State :=
  { s with cells := { s.cells with aged := tblSet 0 q (tblGet 0 q s.cells.aged + k) s.cells.aged } }

/-- The gateway queues of banks 0 to 5 with only the cells that `keep` lets stay, the others counted as age drops. -/
def gwqFilter (s : State) (keep : W128 → Bool) : State :=
  let drops (q : Nat × List OCell) : Nat := if q.1 < 6 then (q.2.filter (fun o => !keep o.cell)).length else 0
  let gq := s.field.gwq.map (fun q => (q.1, if q.1 < 6 then q.2.filter (fun o => keep o.cell) else q.2))
  s.field.gwq.foldl (fun z q => agedAdd z (110 + q.1) (drops q))
    { s with field := { s.field with gwq := gq.filter (fun q => decide (q.2 ≠ [])) } }

/-- The late queue of the publication path with only the cells that `keep` lets stay, the others counted as age drops. -/
def lateFilter (s : State) (keep : W128 → Bool) : State :=
  let l := s.pub.late.filter (fun o => keep o.cell)
  agedAdd { s with pub := { s.pub with late := l } } 101 (s.pub.late.length - l.length)

/-- The sweep of every cell queue of R537. -/
def sweepAll (s : State) : State :=
  let s1 := forNats ((s.eng.map (·.1)).filter (· < 64)) engSweep s
  let hq := s1.cells.hostq.filter (fun c => !cellOld s c)
  let s2 := cntAdd { s1 with cells := { s1.cells with hostq := hq } } 0x401C (s1.cells.hostq.length - hq.length)
  let s4 := lateFilter (gwqFilter s2 (fun c => !cellOld s c)) (fun c => !cellOld s c)
  let b0 := s4.chain.port0.buf.filter (fun c => !cellOld s c.cell)
  let b1 := s4.chain.port1.buf.filter (fun c => !cellOld s c.cell)
  let s5 := cntAdd (cntAdd s4 0xC0114 (s4.chain.port0.buf.length - b0.length))
    0xC0154 (s4.chain.port1.buf.length - b1.length)
  { s5 with chain := { s5.chain with port0 := { s5.chain.port0 with buf := b0 },
                                     port1 := { s5.chain.port1 with buf := b1 } } }

/-- Every cell queue of R537 dropped of the cells held before an edge, as age drops (R33, R34); pending cells are not
tested while they are pending (R55). -/
def emptyQueues (s : State) : State :=
  let s1 := forNats ((s.eng.map (·.1)).filter (· < 64)) (fun z n =>
    let e := engGet z n
    let keep := e.outq.filter (·.pend)
    qCount (engSet z n { e with inq := [], outq := keep }) n 8 (e.inq.length + (e.outq.length - keep.length))) s
  let s2 := cntAdd { s1 with cells := { s1.cells with hostq := [] } } 0x401C s1.cells.hostq.length
  let s4 := lateFilter (gwqFilter s2 (fun _ => false)) (fun _ => false)
  let s5 := cntAdd (cntAdd s4 0xC0114 s4.chain.port0.buf.length) 0xC0154 s4.chain.port1.buf.length
  { s5 with chain := { s5.chain with port0 := { s5.chain.port0 with buf := [] }, port1 := { s5.chain.port1 with buf := [] } } }

/-- A copy that reaches the host cell queue (R78). -/
def hostqPut (s : State) (c : W128) : State :=
  if 256 ≤ s.cells.hostq.length then cntAdd s 0x4018 1
  else { s with cells := { s.cells with hostq := s.cells.hostq ++ [c] } }

/-- The pop of the host cell queue into the capture (R78, R55). -/
def hostqPop (s : State) : State :=
  let dropOld := s.cells.hostq.dropWhile (cellOld s)
  let s1 := cntAdd s 0x401C (s.cells.hostq.length - dropOld.length)
  match dropOld with
  | [] => { s1 with cells := { s1.cells with hostq := [], hostCap := fillCell } }
  | c :: t => { s1 with cells := { s1.cells with hostq := t, hostCap := c } }

/-! Commands of the queues and the crossbar. -/

/-- Whether a cell for a Sett context makes an arrival entry, by the words as they stood at the latest Sett edge, which are kept
beside the copies of the clusters at index 2^17 and above (R79, R379). -/
def settArrEntry (s : State) (c : W128) : Bool :=
  let w := tblGet 0 (2 ^ 17 + cellIndex c) s.store.ctlEdge
  cellDlv c && !cellMoth c && ctlRunarr w && ctlInuse (recCtl (tblGet 0 (cellIndex c) s.store.sett))

/-- HOST_QUEUE_ARRIVAL, R78. -/
def execHostQueueArrival (s : State) : Host.Outcome State Fault Refusal :=
  match flyTake 100 s.cells.flight with
  | none => .next s
  | some (o, rest) => .next (hostqPut (flyRest s rest) o.cell)

/-- The head of the host cell queue dropped for its parity (R315). -/
def hostqParity (s : State) : State :=
  match s.cells.hostq with
  | [] => s
  | _ :: t => parityDrop { s with cells := { s.cells with hostq := t } } 0 0

/-- HOSTQ_CELL_POP, R78; with `parityFail`, the head entry fails its parity and the next one is popped (R315). -/
def execHostqCellPop (s : State) (parityFail : Bool := false) : Host.Outcome State Fault Refusal :=
  let s1 := hostqPop (if parityFail then hostqParity s else s)
  if !hostUp s then .next s
  else .next { s1 with hostRd := s1.cells.hostCap.setWidth 32 |>.setWidth 64 }

/-- AGE_LIMIT_WRITE, R68: the value takes effect at the next tick edge; 0 is a reserved encoding (R10). -/
def execAgeLimitWrite (v : Word) (s : State) : Host.Outcome State Fault Refusal :=
  if field v 7 0 = 0 ∨ hostUp s = false then .next s
  else .next { s with tick := { s.tick with agePending := some (v.setWidth 8) } }

/-- LISTMAX_READ, R100: a host read returns the high-water value and clears it. The register then shows 0 until the next entry
or list build, though lists still hold entries (DESIGN CHOICE: R85 does not say from what value it restarts). -/
def execListmaxRead (k : Nat) (s : State) : Host.Outcome State Fault Refusal :=
  if k < 8 ∧ hostUp s = true then
    .next (cntPut { s with hostRd := (cntGet s (0x4108 + k * 0x20)).setWidth 64 } (0x4108 + k * 0x20) 0)
  else .next s

/-- CLUSTER_WORST_READ, R51. -/
def execClusterWorstRead (k : Nat) (s : State) : Host.Outcome State Fault Refusal :=
  if k < 8 ∧ hostUp s = true then
    .next (cntPut { s with hostRd := (cntGet s (0x1012C + k * 0x40)).setWidth 64 } (0x1012C + k * 0x40) 0)
  else .next s

end Sys2Proof.Machine
end

