-- ==== Sys2Proof/Machine/Publication.lean ====
section
/-! DEFINITION. The publication path and the history writer (R122 to R135). -/

namespace Sys2Proof.Machine

/-- PUB.CTL.EN, acting while the tick generator runs (R127). -/
def pubOn (s : State) : Bool := bitAt (regGet s 0x6000) 0 && s.tick.running

/-- Bytes written to DRAM through a stream (R20); the publication path and the history writer share stream 9. -/
def dramPut (s : State) (stream a : Nat) (bs : List Byte) : State :=
  { s with mem := { s.mem with dram := memPut s.mem.dram (2 ^ 64 * stream + a) bs } }

/-- The header address of buffer `b` (R122). -/
def pubHdrAdr (s : State) (b : Nat) : Nat := (regGet64 s 0x6018).toNat + 64 * b

/-- The buffer of the tick being built. -/
def pubBuf (s : State) : Nat := s.pub.n.toNat % 2

/-- Pending marks of buffer `b`. -/
def pubPend (s : State) (b : Nat) : List Nat := if b = 0 then s.pub.pend0 else s.pub.pend1

/-- The pending mark of `i` for buffer `b` cleared. -/
def pubClear (s : State) (b i : Nat) : State :=
  if b = 0 then { s with pub := { s.pub with pend0 := delNat i s.pub.pend0 } }
  else { s with pub := { s.pub with pend1 := delNat i s.pub.pend1 } }

/-- A copy accepted in the present tick (R123). -/
def pubAccept (s : State) (c : W128) : State :=
  let i := cellIndex c
  let ctl := ctlGet s i
  if ctlInuse ctl && ctlPubl ctl then
    pubMark (pubTileWrite s i (fun r => recPutBits r 0 128 ((c.setWidth 64 ++ (c >>> 64).setWidth 64 : W128)).toNat)) i
  else cntAdd s 0x6020 1

/-- A copy that reaches the path: accepted, or kept in the late queue when it belongs to the next tick (R124). -/
def pubArrive (s : State) (o : OCell) : State :=
  if tickAfter s.tick.tickn o.due then
    if 4096 ≤ s.pub.late.length then cntAdd s 0x6024 1
    else { s with pub := { s.pub with late := s.pub.late ++ [o] } }
  else pubAccept s o.cell

/-- The late queue accepted at an edge (R124): a cell past the age limit is dropped at the head (R55), and so are the entries at
the places `bad`, which fail their parity (R315). -/
def lateAccept (s : State) (bad : List Nat) : State :=
  (List.range s.pub.late.length).foldl (fun z p =>
    match s.pub.late[p]? with
    | none => z
    | some o =>
      if hasNat p bad then parityDrop z 101 p
      else if cellOld s o.cell then agedAdd z 101 1
      else pubAccept z o.cell) { s with pub := { s.pub with late := [] } }

/-- Whether entry `i` is to be written in the present tick (R129): with full publication every pending one, and
otherwise those of contexts scan-due in N or N - 1 and of Fox contexts (Table 4.2: FOX counts in FASTLOOP); never that of a context with PUBL = 0 (R126). -/
def pubSelect (s : State) (i : Nat) : Bool :=
  let c := ctlGet s i
  let n := s.pub.n.toNat
  ctlInuse c && ctlPubl c && (s.pub.full || (ctlFox c && isFastloop s) || dueAt c n || dueAt c ((n + 2 ^ 64 - 1) % 2 ^ 64))

/-- The entries of the buffer in hand that are still to be written. -/
def pubTodo (s : State) : List Nat := (pubPend s (pubBuf s)).filter (pubSelect s)

/-- The full-publication minimum of the profile in units of 250 ns (Table 1.4). -/
def fullMin (p : Nat) : Nat := if p = 4 then 4000 else 1000

/-- The header fields of R127 step 4 and 5, with STATE and LEFT. -/
def pubHeader (s : State) (state left : Nat) : List Byte :=
  leBytes 8 s.pub.n.toNat ++ leBytes 8 s.pub.edgeTime.toNat ++ leBytes 4 state ++ leBytes 4 left ++
  leBytes 4 s.pub.written ++ leBytes 4 s.pub.stale ++ leBytes 4 (b2n s.pub.full + 2 * b2n s.pub.slewing) ++
  leBytes 4 s.tick.units ++ leBytes 24 0

/-- The copies released before the reserve of the tick in hand that have not reached the path (R124, R127 step 4). -/
def pubInFlight (s : State) : Bool :=
  let mine (o : OCell) : Bool := !o.pend && cellPub o.cell && !tickAfter s.pub.n o.due
  s.cells.flight.any (fun f => decide (f.dest = 101) && !tickAfter s.pub.n f.cell.due) ||
  s.eng.any (fun q => decide (q.1 < 64) && q.2.outq.any mine) ||
  s.field.gwq.any (fun q => decide (q.1 < 6) && q.2.any mine)

/-- The completion of step 4 of R127: the header with STATE = DONE. LEFT is written as 0, as no entry is left (DESIGN CHOICE: step 4
does not list LEFT among the fields it writes). -/
def pubDone (s : State) : State :=
  let s1 := dramPut s 9 (pubHdrAdr s (pubBuf s)) (pubHeader s 2 0)
  pulse { s1 with pub := { s1.pub with writing := false } } 312

/-- The end of the buffer of a tick at the next edge (R127 step 5): PARTIAL when entries are left or a copy released
before the reserve has not arrived, and otherwise the completion of step 4. With PUB.CTL.EN = 0 no header is written and
nothing is counted. -/
def pubEdgeEnd (s : State) : State :=
  if !pubOn s then { s with pub := { s.pub with writing := false } }
  else if s.pub.writing then
    let left := (pubTodo s).length
    if left = 0 && !pubInFlight s then pubDone s
    else
      let s1 := dramPut s 9 (pubHdrAdr s (pubBuf s)) (pubHeader s 3 left)
      let s2 := cntAdd (cntAdd s1 0x6028 1) 0x602C left
      pulse { s2 with pub := { s2.pub with writing := false } } 312
  else s

/-- The start of the buffer of a new tick (R127 step 1); `t` is the schedule point. -/
def pubEdgeStart (s : State) (t : W64) : State :=
  let p := { s.pub with n := s.tick.tickn, edgeTime := t, written := 0, stale := 0,
                        full := decide (fullMin s.svc.profile ≤ s.tick.units), slewing := decide (s.tick.slew ≠ 0) }
  if pubOn s then
    let s1 := { s with pub := { p with writing := true } }
    dramPut s1 9 (pubHdrAdr s1 (pubBuf s1) + 16) (leBytes 4 1)
  else { s with pub := { p with writing := false } }

/-- The fill entry of R130. -/
def fillEntry (s : State) (i : Nat) : W128 :=
  mkCell (mkTag s.chain.unit i 15 0xB (s.tick.tickn.toNat % 65536) 0 0) 0

/-- The entry of context `i` written (R127 step 2, R130). -/
def pubWrite (s : State) (i : Nat) : State :=
  let b := pubBuf s
  let q := recTileRead s i 0 3
  let good : W128 := mkCell (recTag (recRead s i)) (recValue (recRead s i))
  let c := if q.1 then good else fillEntry s i
  let s1 := if q.1 then q.2 else cntAdd q.2 0x6030 1
  let s2 := dramPut s1 9 ((regGet64 s (0x6008 + 8 * b)).toNat + 16 * i) (leBytes 16 c.toNat)
  let s3 := pubClear s2 b i
  { s3 with pub := { s3.pub with written := s3.pub.written + 1, stale := s3.pub.stale + b2n (cellQual c == 0xC) } }

/-- The KTB millisecond in hand. -/
def ktbMs (s : State) : Nat := (ktb s).toNat / 1000000

/-- Entries written in the millisecond in hand. -/
def pubMsCount (s : State) : Nat := if s.pub.msAt = ktbMs s then s.pub.msCount else 0

/-- The most entries that the path writes per millisecond (R128). -/
def pubMsMax (s : State) : Nat := if isFrugal s then 524288 else 1048576

/-- One entry more in the millisecond in hand: a millisecond of R128 is one of KTB (DESIGN CHOICE). -/
def pubMsNote (s : State) : State :=
  { s with pub := { s.pub with msAt := ktbMs s, msCount := pubMsCount s + 1 } }

/-- A copy that reaches the history writer (R133). -/
def histAccept (s : State) (c : W128) : State :=
  let ctl := ctlGet s (cellIndex c)
  let drop (z : State) : State := { z with pub := { z.pub with drops := min (z.pub.drops + 1) 65535 } }
  if !(bitAt (regGet s 0x6040) 0 && ctlInuse ctl && ctlHistl ctl) then pulse (drop (cntAdd s 0x6058 1)) 313
  else if 4096 ≤ s.pub.histq.length then pulse (drop (cntAdd s 0x6054 1)) 313
  else
    let e : HistEnt := { cell := c, time := ktb s, slew := decide (s.tick.slew ≠ 0) }
    { s with pub := { s.pub with histq := s.pub.histq ++ [e] } }

/-- A history entry as it is stored (Table 4.8). -/
def histBytes (s : State) (e : HistEnt) : List Byte :=
  leBytes 16 e.cell.toNat ++ leBytes 8 e.time.toNat ++ leBytes 4 s.pub.hseq.toNat ++
  leBytes 4 (s.chain.unit * 2 ^ 25 + b2n e.slew * 2 ^ 16 + s.pub.drops)

/-- Whether 250 ns have passed since the writer took its last entry (R134). -/
def histReady (s : State) : Bool :=
  match s.pub.histLast with
  | none => true
  | some t => decide (250 ≤ (ktb s).toNat - t.toNat)

/-- PUBLICATION_COPY_ACCEPT, R123. -/
def execPublicationCopyAccept (s : State) : Host.Outcome State Fault Refusal :=
  match flyTake 101 s.cells.flight with
  | none => .next s
  | some (o, rest) => .next (pubArrive (flyRest s rest) o)

/-- PUBLICATION_ENTRY_WRITE, R127: the lowest pending entry that is to be written in this tick, at the rate of R128. -/
def execPublicationEntryWrite (s : State) : Host.Outcome State Fault Refusal :=
  if s.pub.writing && pubOn s && decide (pubMsCount s < pubMsMax s) then
    match pubTodo s with
    | [] => .next s
    | i :: _ => .next (pubMsNote (pubWrite s i))
  else .next s

/-- PUBLICATION_HEADER_DONE, R127 step 4. -/
def execPublicationHeaderDone (s : State) : Host.Outcome State Fault Refusal :=
  if s.pub.writing && pubOn s && s.tick.inReserve && (pubTodo s).isEmpty && !pubInFlight s then
    .next (pubDone s)
  else .next s

/-- HISTORY_COPY_ACCEPT, R133. -/
def execHistoryCopyAccept (s : State) : Host.Outcome State Fault Refusal :=
  match flyTake 102 s.cells.flight with
  | none => .next s
  | some (o, rest) => .next (histAccept (flyRest s rest) o.cell)

/-- HISTORY_ENTRY_WRITE, R134; with `parityFail`, the entry at the head fails its parity and is dropped (R315). -/
def execHistoryEntryWrite (s : State) (parityFail : Bool := false) : Host.Outcome State Fault Refusal :=
  match s.pub.histq with
  | [] => .next s
  | e :: rest =>
    if s.pub.histWriting || !histReady s then .next s
    else if parityFail then .next (parityDrop { s with pub := { s.pub with histq := rest } } 102 0)
    else
      let a := (regGet64 s 0x6048).toNat + 32 * field s.pub.hseq 23 0
      let s1 := dramPut s 9 a (histBytes s e)
      .next { s1 with pub := { s1.pub with histq := rest, histWriting := true, drops := 0, histLast := some (ktb s) } }

/-- HISTORY_ENTRY_COMPLETE, R134. -/
def execHistoryEntryComplete (s : State) : Host.Outcome State Fault Refusal :=
  if s.pub.histWriting then
    let s1 := { s with pub := { s.pub with histWriting := false, hseq := s.pub.hseq + 1 } }
    .next (if field s1.pub.hseq 23 0 = 0 then cntAdd s1 0x605C 1 else s1)
  else .next s

end Sys2Proof.Machine
end

