-- ==== Sys2Proof/Machine/Moths.lean ====
section
/-! DEFINITION. Field pins, moths and bank gateways (R349 to R373, R381). Moths 96 to 103 and bank 6 are those of the
Sett. A command names one moth cycle boundary or base cycle of a moth; which cycle it is belongs to the timing that the
model leaves out (notes/assumptions/7.md). -/

namespace Sys2Proof.Machine

/-- The bank of a moth; 6 is the Sett bank. -/
def bankOf (m : Nat) : Nat := m / 16

/-- Host-window offset of a register of bank `b`: KMTH, or the Sett bank view of Table 14.4. -/
def mbkAdr (b off : Nat) : Nat := (if b < 6 then 0x100000 + b * 0x4000 else 0x184000) + off

/-- Host-window offset of a register of moth `m`, `off` counted from MTH[m].CTL. -/
def mthAdr (m off : Nat) : Nat := mbkAdr (bankOf m) (0x1000 + m % 16 * 0x80 + off)

/-- Moth `m` replaced. -/
def mothSet (s : State) (m : Nat) (v : Moth) : State :=
  { s with field := { s.field with moth := tblSet {} m v s.field.moth } }

/-- Moth `m` changed. -/
def mothMap (s : State) (m : Nat) (f : Moth → Moth) : State := mothSet s m (f (mothGet s m))

/-- The power domain of a bank (Table 17.1). -/
def bankDom (b : Nat) : Nat := if b < 6 then 72 + b else 79

/-- Whether the moths of bank `b` can run: powered and not frozen (R486). -/
def bankLive (s : State) (b : Nat) : Bool := domStat s (bankDom b) == 1 && !frzBank s b

/-- The last pin of a bank: the Sett bank has 16 pins (DEDUCED: a Sett pin above 15 does not exist). -/
def lastPin (b : Nat) : Nat := if b < 6 then 31 else 15

/-- Whether moth `m` names bank pin `q`. -/
def claimsPin (s : State) (m q : Nat) : Bool :=
  let mo := mothGet s m
  decide (mo.first ≤ q) && decide (q < mo.first + mo.npin) && decide (q ≤ lastPin (bankOf m))

/-- The moths of bank `b`. -/
def mothsOf (b : Nat) : List Nat := (List.range (if b < 6 then 16 else 8)).map (fun j => 16 * b + j)

/-- The owner of bank pin `q` of bank `b`: the lowest-numbered moth that names it, none while the bank is off (R349,
R454). -/
def pinOwner (s : State) (b q : Nat) : Option Nat :=
  if domStat s (bankDom b) = 1 then (mothsOf b).find? (fun m => claimsPin s m q) else none

/-- Pin `k` of moth `m`, as a pin number, where it exists for that moth (R349). -/
def mothPin (s : State) (m k : Nat) : Option Nat :=
  let mo := mothGet s m
  let q := mo.first + k
  if k < mo.npin ∧ pinOwner s (bankOf m) q = some m then some (32 * bankOf m + q) else none

/-- Whether the moth drives its pin `k` (R350). -/
def mothDriven (s : State) (m k : Nat) : Bool := (mothPin s m k).isSome && bitAt (mothGet s m).oe k

/-- The synchronised level of pin `p`; 0 where the pad supply is absent (R529). -/
def pinLevel (s : State) (p : Nat) : Bool := hasNat p s.field.sync && !hasNat (p / 32) s.field.supAbsent

/-- The level that moth `m` reads at its pin `k` (R349, R350). -/
def mothLevel (s : State) (m k : Nat) : Bool :=
  match mothPin s m k with
  | none => false
  | some p => pinLevel s p

/-- The levels of all pins of moth `m`, pin `k` in bit `k`. -/
def mothLevels (s : State) (m : Nat) : Nat := ((List.range 8).map (fun k => b2n (mothLevel s m k) * 2 ^ k)).foldl (· + ·) 0

/-- Whether the outputs of bank `b` are gated (R351, R381). -/
def bankGated (s : State) (b : Nat) : Bool :=
  if b < 6 then !(s.bstate == .run || s.bstate == .service) || (frzBank s b && bitAt (regGet s (mbkAdr b 0)) 0)
  else s.sett.st != 3

/-- PIN[p].CFG as held: OD, PULL and SAFE. -/
def pinCfg (s : State) (p : Nat) : Word := tblGet 0x10 p s.field.pcfg

/-- Whether pin `p` is open drain, so that a driven 1 releases it (Table 13.11, R538). -/
def pinOd (s : State) (p : Nat) : Bool := bitAt (pinCfg s p) 7

/-- The safe value of pin `p`, none for high impedance, and for a 1 that open drain releases. -/
def pinSafe (s : State) (p : Nat) : Option Bool :=
  match field (pinCfg s p) 4 3 with
  | 0 => some false
  | 1 => if pinOd s p then none else some true
  | _ => none

/-- What the pad of pin `p` is driven to, none when it is not driven (R350, R351, R529). -/
def pinDrive (s : State) (p : Nat) : Option Bool :=
  let b := p / 32
  if hasNat b s.field.supAbsent || hasNat b s.field.supFresh then none
  else if bankGated s b then pinSafe s p
  else
    match pinOwner s b (p % 32) with
    | none => pinSafe s p
    | some m =>
      let mo := mothGet s m
      let k := p % 32 - mo.first
      if bitAt mo.oe k then
        (if bitAt mo.out k && pinOd s p then none else some (bitAt mo.out k))
      else none

/-- The synchronised level of pin `p` as it stands in the base cycle of a command; with FILTER = 0 the filtered level follows
it (R332). A bank with no pad supply reads 0 (R529), and so does an open-drain pin that the KSC has pulled low, once no change of its
is on its way (R350, R538). -/
def syncPut (s : State) (p : Nat) (v : Bool) : State :=
  let low := pinOd s p && pinDrive s p == some false && !s.field.padq.any (fun q => q.1 == p)
  let w := v && !hasNat (p / 32) s.field.supAbsent && !low
  filtFollow { s with field := { s.field with sync := if w then addNat p s.field.sync else delNat p s.field.sync } } p w

/-- The synchronised level at pin `k` of moth `m`. -/
def mothSync (s : State) (m k : Nat) (v : Bool) : State :=
  match mothPin s m k with
  | none => s
  | some p => syncPut s p v

/-- The synchronised levels at all pins of moth `m`. -/
def mothSyncAll (s : State) (m : Nat) (levels : Byte) : State :=
  forNats (List.range 8) (fun z k => mothSync z m k (bitAt levels k)) s

/-- PULL of pin `p`; pulls are off while its pad supply is absent, and from its rise until the block first enters RESET (R529). -/
def pinPull (s : State) (p : Nat) : Nat :=
  if hasNat (p / 32) s.field.supAbsent || hasNat (p / 32) s.field.supFresh then 0 else field (pinCfg s p) 6 5

/-- The level that the pad of pin `p` takes from the KSC: what it is driven to, or, where the KSC does not drive it, the level at which
the outside has last been told to hold it, and without one that of its pull; none where a pin without a pull floats or only the outside
drives it (R350, R538). That the outside goes on holding the level of the last PIN_FILTER_CHANGE is the model's (log 78). -/
def padLevel (s : State) (p : Nat) : Option Bool :=
  match pinDrive s p, pinPull s p with
  | some v, _ => some v
  | none, 1 => some ((tblGet none p s.field.ext).getD true)
  | none, 2 => some ((tblGet none p s.field.ext).getD false)
  | none, _ => none

/-- The level of the pad of pin `p` followed up to `v`. -/
def padsSet (s : State) (p : Nat) (v : Option Bool) : State :=
  { s with field := { s.field with pads := tblSet none p v s.field.pads } }

/-- A change that the KSC has made at the pad of pin `p` on its way to the synchronised level: the second or the third moth base cycle
after it, which the KSC does not fix, of 4 host cycles each (R350). A later change of a pin never overtakes an earlier one. -/
def padNote (s : State) (p : Nat) : State :=
  let now := padLevel s p
  if tblGet none p s.field.pads = now then s
  else
    match now with
    | none => padsSet s p none
    | some v =>
      let q := freshCount s
      let c := if Config.padThird q.1 then 12 else 8
      let last := ((s.field.padq.filter (fun q => q.1 == p)).map (fun q => q.2.2)).foldl max c
      padsSet { q.2 with field := { q.2.field with padq := q.2.field.padq ++ [(p, v, last)] } } p now

/-- The pins at which the KSC can drive or pull: those with a configuration, those that a moth names, and those followed so far. -/
def padPins (s : State) : List Nat :=
  s.field.pcfg.map (·.1) ++ s.field.pads.map (·.1) ++
    s.field.moth.flatMap (fun q => (List.range q.2.npin).map (fun k => 32 * bankOf q.1 + q.2.first + k))

/-- The changes at pads that anything but an output register has made since the last host cycle: PINS, PIN[p].CFG, gating, a change of
owner, a power domain (R350, R351, R538). -/
def padsNote (s : State) : State := forNats (padPins s) padNote s

/-- One host cycle of the changes on their way, each of which ends in the synchronised level of its pin (R350). -/
def padCount (s : State) : State :=
  if s.field.padq.isEmpty then s
  else
    let l := s.field.padq.map (fun q => (q.1, q.2.1, q.2.2 - 1))
    (l.filter (fun q => q.2.2 == 0)).foldl (fun z q => syncPut z q.1 q.2.1)
      { s with field := { s.field with padq := l.filter (fun q => q.2.2 != 0) } }

/-- One host cycle at the pads: the changes on their way go on, and new ones are taken up. -/
def padGo (s : State) : State := padsNote (padCount s)

/-- The word that a read of PIN[p].CFG returns (Table 13.11). -/
def pinCfgRead (s : State) (p : Nat) : Word :=
  let o := pinOwner s (p / 32) (p % 32)
  pinCfg s p ||| BitVec.ofNat 32 ((o.getD 0 % 16) * 256 + 4 * b2n (pinLevel s p) + 2 * b2n o.isSome +
    b2n (pinDrive s p).isSome)

/-- A write of PIN[p].CFG: reserved encodings of PULL and SAFE keep the field (R10). -/
def pinCfgWrite (s : State) (p : Nat) (v : Word) : State :=
  let old := pinCfg s p
  let pull := if field v 6 5 = 3 then field old 6 5 else field v 6 5
  let safe := if field v 4 3 = 3 then field old 4 3 else field v 4 3
  let w : Word := BitVec.ofNat 32 (b2n (bitAt v 7) * 128 + pull * 32 + safe * 8)
  { s with field := { s.field with pcfg := tblSet 0x10 p w s.field.pcfg } }

/-! Gateways. -/

/-- The gateway queue of bank `b`. -/
def gwGet (s : State) (b : Nat) : List OCell := tblGet [] b s.field.gwq

/-- The gateway queue of bank `b` replaced. -/
def gwSet (s : State) (b : Nat) (q : List OCell) : State :=
  { s with field := { s.field with gwq := tblSet [] b q s.field.gwq } }

/-- The tick number that the gateway of bank `b` stamps. -/
def gwTick (s : State) (b : Nat) : Nat := if b < 6 then s.tick.tickn.toNat else s.sett.stn.toNat

/-- The input cell of R365 for a word of moth `m`. -/
def mothCell (s : State) (m : Nat) (w : Word) : W128 :=
  let mo := mothGet s m
  mkCell (mkTag 0 mo.index 4 0 (gwTick s (bankOf m) % 65536) mo.seq (mo.route * 8))
    (BitVec.ofNat 64 (bankOf m * 2 ^ 56 + m % 16 * 2 ^ 48 + w.toNat))

/-- A word of moth `m` made into a cell at the tail of the gateway queue, or discarded with no context (R365). -/
def gwMake (s : State) (m : Nat) (w : Word) : State :=
  let b := bankOf m
  if (mothGet s m).ctxValid then
    mothMap (gwSet s b (gwGet s b ++ [{ cell := mothCell s m w, pend := false, due := dueNow s }])) m
      (fun mo => { mo with seq := (mo.seq + 1) % 256 })
  else cntAdd s (mthAdr m 0x3C) 1

/-- The sample cell of step 1 of Table 13.4; a full queue drops it (R366). A dropped one counts in SEQ (DEDUCED: the cell
is made and then dropped). -/
def gwSample (s : State) (m : Nat) : State :=
  let b := bankOf m
  if (mothGet s m).ctxValid && decide (160 ≤ (gwGet s b).length) then
    cntAdd (mothMap s m (fun mo => { mo with seq := (mo.seq + 1) % 256 })) (mbkAdr b 0x10) 1
  else gwMake s m (BitVec.ofNat 32 (mothLevels s m))

/-- The oldest word of the input queue of moth `m` taken by the gateway, while the gateway queue has room (R366). -/
def gwTakeWord (s : State) (m : Nat) : State :=
  match (mothGet s m).qin with
  | [] => s
  | w :: rest =>
    if (gwGet s (bankOf m)).length < 160 then gwMake (mothMap s m (fun mo => { mo with qin := rest })) m w else s

/-- Every word of the input queue of moth `m` taken, in order, as long as there is room. -/
def gwTakeAll (s : State) (m : Nat) : State := forNats (List.range (mothGet s m).qin.length) (fun z _ => gwTakeWord z m) s

/-- One immediate word taken by the gateway of bank `b`, round robin over the moths with IMODE = 1 (R365). -/
def gwServe (s : State) (b : Nat) : State :=
  let r := tblGet 0 b s.field.gwRot
  let k := (mothsOf b).length
  let order := (List.range k).map (fun i => 16 * b + (r + i) % k)
  match order.find? (fun m => (mothGet s m).imode && !(mothGet s m).qin.isEmpty) with
  | none => s
  | some m =>
    if (gwGet s b).length < 160 then
      let s1 := gwTakeWord s m
      { s1 with field := { s1.field with gwRot := tblSet 0 b ((m % 16 + 1) % k) s1.field.gwRot } }
    else s

/-- Every immediate word of bank `b` taken while the gateway queue has room (R366). -/
def gwServeAll (s : State) (b : Nat) : State :=
  let words := ((mothsOf b).map (fun m => if (mothGet s m).imode then (mothGet s m).qin.length else 0)).foldl (· + ·) 0
  forNats (List.range words) (fun z _ => gwServe z b) s

/-- The moth of bank `b` whose configured context is `i`, the lowest-numbered one (R367). -/
def bankMothOfCtx (s : State) (b i : Nat) : Option Nat :=
  (mothsOf b).find? (fun m => (mothGet s m).ctxValid && decide ((mothGet s m).index = i))

/-- A cell that arrives at the gateway of bank `b` (R367, R380). -/
def gwArrive (s : State) (b : Nat) (c : W128) : State :=
  match bankMothOfCtx s b (cellIndex c) with
  | none => cntAdd s (if b < 6 then 0x400C else 0x18101C) 1
  | some m =>
    if cellKind c ≠ 4 then cntAdd s (mbkAdr b 0xC) 1
    else if 8 ≤ (mothGet s m).held.length then cntAdd s (mthAdr m 0x34) 1
    else mothMap s m (fun mo => { mo with held := mo.held ++ [(c >>> 64).setWidth 32] })

/-! Execution. -/

/-- Opcode and operand of a moth instruction (Table 13.1). -/
def mOp (i : BitVec 24) : Nat := field i 23 19
/-- Words that the input queue and the output queue hold (R363). -/
def qinCap (mo : Moth) : Nat := match mo.qmode with | 0 => 4 | 2 => 8 | _ => 0
def qoutCap (mo : Moth) : Nat := match mo.qmode with | 0 => 4 | 1 => 8 | _ => 0

/-- Whether an instruction is illegal (R356, R363). A non-zero operand field that Table 13.2 does not name has no effect
(DEDUCED: R357 does not list it). -/
def mothIllegal (mo : Moth) (i : BitVec 24) : Bool :=
  match mOp i with
  | 0 => false
  | 1 | 2 => decide (32 < field i 11 6)
  | 3 => decide (5 < field i 11 9)
  | 4 | 6 | 7 => false
  | 5 => decide (field i 11 10 = 3)
  | 8 => decide (2 < field i 11 9)
  | 9 => decide (field i 10 9 = 3)
  | 10 => decide (field i 10 9 = 3) || decide (qoutCap mo = 0)
  | 11 => decide (field i 10 9 = 3) || decide (qinCap mo = 0)
  | 12 => decide (field i 11 9 = 7)
  | 13 => decide (field i 11 10 = 3)
  | _ => true

/-- A byte with bit `k` set to `v`. -/
def putBit (b : Byte) (k : Nat) (v : Bool) : Byte := if v then b ||| BitVec.twoPow 8 k else b &&& ~~~(BitVec.twoPow 8 k)

/-- The output register of pin `k`, where the pin exists; a change at a driven pad is on its way to the synchronised level. -/
def mothOut (s : State) (m k : Nat) (v : Bool) : State :=
  match mothPin s m k with
  | none => s
  | some p => padNote (mothMap s m (fun mo => { mo with out := putBit mo.out k v })) p

/-- The output registers of the driven pins in `mask` set to the bits of `v`. -/
def mothDriveMask (s : State) (m : Nat) (mask v : Nat) : State :=
  forNats (List.range 8) (fun z k => if mask.testBit k && mothDriven z m k then mothOut z m k (v.testBit k) else z) s

/-- The side pins of a moth, lowest first (R360). -/
def sidePins (mo : Moth) : List Nat := ((List.range 8).filter (fun k => bitAt mo.smask k)).take 3

/-- Whether instruction `i` itself drives moth pin `k` in its first moth cycle (Table 13.2). -/
def insDrives (i : BitVec 24) (k : Nat) : Bool :=
  match mOp i with
  | 1 => decide (0 < field i 11 6) && field i 5 3 == k
  | 5 => true
  | 6 => bitAt i k
  | _ => false

/-- The side drive of an instruction, on the driven side pins that it does not drive itself in that cycle (R360). -/
def sideDrive (s : State) (m : Nat) (i : BitVec 24) : State :=
  if bitAt i 15 then
    ((sidePins (mothGet s m)).zip [12, 13, 14]).foldl (fun z q =>
      if mothDriven z m q.1 && !insDrives i q.1 then mothOut z m q.1 (bitAt i q.2) else z) s
  else s

/-- The end of an EDGE or a COUNT that is over, with no instruction injected (R358, R361). -/
def mothEnd (mo : Moth) : Moth :=
  { mo with pc := (mo.pc + 1) % 32, wait := if field mo.cur 18 16 = 0 then .none else .delay (field mo.cur 18 16) }

/-- The end of an instruction and its delay: an injected one gives way to what it interrupted, which ends at once when its
condition was met in the meantime (R358, R371). -/
def mothIdle (mo : Moth) : Moth :=
  match mo.injWait with
  | none => { mo with wait := .none }
  | some .ended => mothEnd { mo with cur := mo.injCur, injWait := none }
  | some w => { mo with wait := w, cur := mo.injCur, edgeLvl := mo.injLvl, injWait := none }

/-- The end of the instruction in hand before its delay: PC advances, or takes `jump`; an injected instruction changes
PC only by a jump (R356, R361, R371). -/
def mothRetire (mo : Moth) (jump : Option Nat) : Moth :=
  let pc := match jump with
    | some a => a
    | none => if mo.injWait.isSome then mo.pc else (mo.pc + 1) % 32
  let m1 := { mo with pc := pc }
  if field mo.cur 18 16 = 0 then mothIdle m1 else { m1 with wait := .delay (field mo.cur 18 16) }

/-- ka, kb, and the register that code 0 of DST or SRC names (R356). -/
def mothSrc (mo : Moth) (code : Nat) (zero : Word) : Word := match code with | 0 => zero | 1 => mo.ka | _ => mo.kb

/-- One bit shifted out of SO to the pin (Table 13.2). -/
def shoutBit (s : State) (m : Nat) : State :=
  let mo := mothGet s m
  let k := field mo.cur 5 3
  let lsb := bitAt mo.cur 2
  let s1 := mothOut s m k (bitAt mo.so (if lsb then 0 else 31))
  mothMap s1 m (fun mo => { mo with so := if lsb then mo.so >>> 1 else mo.so <<< 1 })

/-- One bit shifted into SI from the pin (Table 13.2). -/
def shinBit (s : State) (m : Nat) (b : Bool) : State :=
  let k := field (mothGet s m).cur 5 3
  let s1 := mothSync s m k b
  let v : Word := if mothLevel s1 m k then 1 else 0
  mothMap s1 m (fun mo => { mo with si := if bitAt mo.cur 2 then (mo.si >>> 1) ||| (v <<< 31) else (mo.si <<< 1) ||| v })

/-- `k` bits of a shift done; the shift ends at its last bit. -/
def shiftDone (s : State) (m left k : Nat) : State :=
  mothMap s m (fun mo => if left ≤ k then mothRetire mo none else { mo with wait := .shift (left - k) })

/-- The bits of a SHOUT that `cyc` moth cycles shift. -/
def shoutRun (s : State) (m cyc : Nat) : State :=
  match (mothGet s m).wait with
  | .shift left => shiftDone (forNats (List.range (min cyc left)) (fun z _ => shoutBit z m) s) m left cyc
  | _ => s

/-- The bits of a SHIN that the levels of successive moth cycles shift. -/
def shinRun (s : State) (m : Nat) (bits : List Bool) : State :=
  match (mothGet s m).wait with
  | .shift left => shiftDone ((bits.take left).foldl (fun z b => shinBit z m b) s) m left bits.length
  | _ => s

/-- The end of an EDGE or a COUNT in hand at the next boundary; an injected instruction that begins there goes first (R371). -/
def waitEnds (mo : Moth) : Moth :=
  if mo.inj.isSome && mo.injWait.isNone then { mo with wait := .ended } else mothRetire mo none

/-- What the condition of EDGE `i` leaves as it is seen: TO := 0, and the edge time for an edge or a level (R358). -/
def edgeSeenBy (s : State) (i : BitVec 24) (mo : Moth) : Moth :=
  { mo with tmo := false, edgeTime := if field i 11 9 = 5 then mo.edgeTime else (ktb s).setWidth 32 }

/-- The condition of an EDGE that is seen now (R358). -/
def edgeMet (s : State) (m : Nat) : State := mothMap s m (fun mo => waitEnds (edgeSeenBy s mo.cur mo))

/-- The condition of an EDGE that an injected instruction has interrupted (R358, R371). -/
def heldEdgeMet (s : State) (m : Nat) : State :=
  mothMap s m (fun mo => { edgeSeenBy s mo.injCur mo with injWait := some .ended })

/-- The timeout of an EDGE (R358). -/
def edgeTimeout (s : State) (m : Nat) : State := mothMap s m (fun mo => mothRetire { mo with tmo := true } none)

/-- What the last base cycle of a COUNT leaves (R359). -/
def countMoves (mo : Moth) : Moth := { mo with ka := mo.ka + mo.acc, acc := 0 }

/-- The last base cycle of a COUNT (R359). -/
def countEnd (s : State) (m : Nat) : State := mothMap s m (fun mo => waitEnds (countMoves mo))

/-- The last base cycle of a COUNT that an injected instruction has interrupted (R359, R371). -/
def heldCountEnd (s : State) (m : Nat) : State :=
  mothMap s m (fun mo => { countMoves mo with injWait := some .ended })

/-- Whether FETCH or STOW in hand can be served (R362). -/
def canServe (mo : Moth) : Bool := if mOp mo.cur = 10 then !mo.qout.isEmpty else decide (mo.qin.length < qinCap mo)

/-- FETCH or STOW served (Table 13.2); an immediate word goes to the gateway at once (R365). -/
def queueServe (s : State) (m : Nat) : State :=
  let mo := mothGet s m
  let code := field mo.cur 10 9
  if mOp mo.cur = 10 then
    match mo.qout with
    | [] => s
    | w :: rest =>
      let m1 := { mo with qout := rest }
      let m2 := match code with
        | 0 => { m1 with so := w }
        | 1 => { m1 with ka := w }
        | _ => { m1 with kb := w }
      mothSet s m (mothRetire m2 none)
  else
    let w := mothSrc mo code mo.si
    let m1 := { mo with qin := mo.qin ++ [w] }
    let m2 := if bitAt mo.cur 8 then
        (match code with
          | 0 => { m1 with si := 0 }
          | 1 => { m1 with ka := 0 }
          | _ => { m1 with kb := 0 })
      else m1
    let s1 := mothSet s m (mothRetire m2 none)
    if mo.imode then gwServe s1 (bankOf m) else s1

/-- FETCH or STOW started: served, or stalled (R362). -/
def queueStart (s : State) (m : Nat) : State :=
  let mo := mothGet s m
  if canServe mo then queueServe s m
  else mothSet s m { mo with wait := if mOp mo.cur = 10 then .stallF else .stallS }

/-- Whether the level condition of an EDGE already holds (R358). -/
def levelHolds (s : State) (m : Nat) (i : BitVec 24) : Bool :=
  (field i 11 9 == 3 && mothLevel s m (field i 5 3)) || (field i 11 9 == 4 && !mothLevel s m (field i 5 3))

/-- EDGE started (R358). -/
def edgeStart (s : State) (m : Nat) (i : BitVec 24) : State :=
  if levelHolds s m i then edgeMet s m
  else if bitAt i 8 && decide ((mothGet s m).kb = 0) then edgeTimeout s m
  else mothMap s m (fun mo => { mo with wait := .edge, edgeLvl := mothLevel s m (field i 5 3) })

/-- COUNT started (R359). -/
def countStart (s : State) (m : Nat) (i : BitVec 24) : State :=
  let s1 := mothMap s m (fun mo => { mo with cntCond := field i 11 9, cntPin := field i 5 3 })
  if !bitAt i 8 && decide ((mothGet s m).kb = 0) then countEnd s1 m
  else mothMap s1 m (fun mo => { mo with wait := .count })

/-- Whether a JMP is taken (Table 13.2). -/
def jmpTaken (s : State) (m : Nat) (i : BitVec 24) : Bool :=
  let mo := mothGet s m
  match field i 11 9 with
  | 0 => true
  | 1 => mo.ka != 0
  | 2 => mo.kb != 0
  | 3 => mothLevel s m (field i 7 5)
  | 4 => !mothLevel s m (field i 7 5)
  | 5 => mo.tmo
  | _ => !mo.tmo

/-- DRIVE (Table 13.2). -/
def driveRun (s : State) (m : Nat) (i : BitVec 24) : State :=
  let mo := mothGet s m
  let v := if field i 11 10 = 0 then field i 7 0 else mo.so.toNat
  let s1 := mothDriveMask s m 255 v
  mothMap s1 m (fun mo => mothRetire { mo with so := if field i 11 10 = 2 then mo.so >>> mo.npin else mo.so } none)

/-- TOGGLE (Table 13.2): `out` is the output register as the instruction found it, which a side drive of the same pin does not
change (R360). -/
def toggleRun (s : State) (m : Nat) (i : BitVec 24) (out : Byte) : State :=
  mothMap (mothDriveMask s m (field i 7 0) (255 - out.toNat)) m (fun mo => mothRetire mo none)

/-- LOOP (Table 13.2). -/
def loopRun (mo : Moth) (i : BitVec 24) : Moth :=
  let k := if bitAt i 11 then mo.kb else mo.ka
  if k = 0 then mothRetire mo none
  else mothRetire (if bitAt i 11 then { mo with kb := k - 1 } else { mo with ka := k - 1 }) (some (field i 4 0))

/-- CAPT (Table 13.2). -/
def captRun (s : State) (mo : Moth) (i : BitVec 24) : Moth :=
  let v := if bitAt i 11 then mo.edgeTime else (ktb s).setWidth 32
  let m1 := match field i 10 9 with
    | 0 => { mo with si := v }
    | 1 => { mo with ka := v }
    | _ => { mo with kb := v }
  mothRetire m1 none

/-- SET (Table 13.2). -/
def setRun (mo : Moth) (i : BitVec 24) : Moth :=
  let v : Word := BitVec.ofNat 32 (field i 9 0)
  let m1 := match field i 11 10 with
    | 0 => { mo with ka := v }
    | 1 => { mo with kb := v }
    | _ => { mo with so := v }
  mothRetire m1 none

/-- SAMPLE (Table 13.2). -/
def sampleRun (s : State) (m : Nat) : State :=
  mothMap s m (fun mo => mothRetire { mo with si := (mo.si <<< mo.npin) ||| BitVec.ofNat 32 (mothLevels s m % 2 ^ mo.npin) } none)

/-- The first moth cycle of legal instruction `i`, on the synchronised levels of the state (Table 13.2, R360). A shift of
more than no bits is started and its bits are shifted by `shoutRun` and `shinRun`. -/
def mothStart (s : State) (m : Nat) (i : BitVec 24) : State :=
  let s1 := sideDrive (mothMap s m (fun mo => { mo with cur := i })) m i
  match mOp i with
  | 1 | 2 => mothMap s1 m (fun mo => if field i 11 6 = 0 then mothRetire mo none else { mo with wait := .shift (field i 11 6) })
  | 3 => edgeStart s1 m i
  | 4 => sampleRun s1 m
  | 5 => driveRun s1 m i
  | 6 => toggleRun s1 m i (mothGet s m).out
  | 7 => mothMap s1 m (fun mo => loopRun mo i)
  | 8 => countStart s1 m i
  | 9 => mothMap s1 m (fun mo => captRun s mo i)
  | 10 | 11 => queueStart s1 m
  | 12 => mothMap s1 m (fun mo => mothRetire mo (if jmpTaken s1 m i then some (field i 4 0) else none))
  | 13 => mothMap s1 m (fun mo => setRun mo i)
  | _ => mothMap s1 m (fun mo => mothRetire mo none)

/-- An illegal instruction met at PC `pc` (R357). -/
def mothStop (s : State) (m : Nat) : State :=
  let pc := (mothGet s m).pc
  fltWrite (mothMap s m (fun mo => { mo with en := false, ill := true })) 8 (BitVec.ofNat 32 m) (BitVec.ofNat 32 pc) 0

/-- Whether moth `m` does something at its next moth cycle boundary: enabled, or with an injected instruction in hand. -/
def mothActs (s : State) (m : Nat) : Bool :=
  decide (m < 104) && bankLive s (bankOf m) && ((mothGet s m).en || (mothGet s m).injWait.isSome)

/-- Whether the next thing that moth `m` does is to start the instruction at PC. -/
def mothFetches (s : State) (m : Nat) : Bool :=
  mothActs s m && (mothGet s m).en && (mothGet s m).wait == .none && (mothGet s m).inj.isNone && (mothGet s m).injWait.isNone

/-- The instruction at PC. -/
def mothIns (s : State) (m : Nat) : BitVec 24 := tblGet 0 (mothGet s m).pc (mothGet s m).imem

/-- A moth cycle boundary: a written divisor takes effect (R353). -/
def mothTick (s : State) (m : Nat) : State := mothMap s m (fun mo => { mo with d := mo.dNext.getD mo.d, dNext := none })

/-- The instruction at PC of moth `m` started when its opcode is `k` and it is legal. -/
def mothExec (s : State) (m k : Nat) : State :=
  let i := mothIns s m
  if mothFetches s m && mOp i == k && !mothIllegal (mothGet s m) i then mothStart (mothTick s m) m i else s

/-- Whether a wait goes on at the next boundary: no injection stands before it. -/
def mothWaits (s : State) (m : Nat) : Bool :=
  mothActs s m && ((mothGet s m).inj.isNone || (mothGet s m).injWait.isSome)

/-- Whether the moth has shift bits left of a SHOUT (`k` 1) or a SHIN (`k` 2). -/
def shiftLeft (s : State) (m k : Nat) : Bool :=
  mothWaits s m && mOp (mothGet s m).cur == k && (match (mothGet s m).wait with | .shift _ => true | _ => false)

/-- MRESTART as the next enable applies it (Table 13.10). RESTART also ends a wait that was in progress (DEDUCED: PC 0
starts a fresh instruction). -/
def mothRestart (mo : Moth) (r : Bool × Bool) : Moth :=
  let m1 := if r.1 then
      { mo with pc := 0, si := 0, so := 0, acc := 0, tmo := false, wait := .none, injWait := none }
    else mo
  if r.2 then { m1 with qin := [], qout := [], held := [] } else m1

/-- The enable of a moth (R368, R370): ILL is cleared and a pending MRESTART applied; an EDGE or COUNT that was over as an illegal
injected instruction stopped the moth ends. -/
def mothEnableNow (mo : Moth) : Moth :=
  let m1 := match mo.restart with
    | none => mo
    | some r => { mothRestart mo r with restart := none }
  let m2 := if m1.wait == .ended then mothEnd m1 else m1
  { m2 with en := true, ill := false }

/-- The fields of MTH[m].CTL as a word (Table 13.6). -/
def mothCtlWord (mo : Moth) : Word :=
  BitVec.ofNat 32 (b2n mo.en * 2 ^ 31 + mo.qmode * 2 ^ 29 + b2n mo.edrv * 2 ^ 28 + b2n mo.esamp * 2 ^ 27 + b2n mo.imode * 2 ^ 26)

/-- QMODE, and IMODE, changed: queue words are discarded when QMODE changes (R363); 3 is a reserved encoding. -/
def mothModes (mo : Moth) (v : Word) : Moth :=
  let q := if field v 30 29 = 3 then mo.qmode else field v 30 29
  let m1 := { mo with imode := bitAt v 26, qmode := q }
  if q = mo.qmode then m1 else { m1 with qin := [], qout := [] }

/-- A write of MTH[m].CTL (R368). -/
def mothCtlWrite (s : State) (m : Nat) (v : Word) : State :=
  let mo := mothGet s m
  let m1 := { mo with edrv := bitAt v 28, esamp := bitAt v 27 }
  if mo.en then
    let q := field v 30 29
    let touched := (q ≠ 3 && q != mo.qmode) || bitAt v 26 != mo.imode
    let s1 := mothSet s m { m1 with en := bitAt v 31 }
    if touched then cntAdd s1 (mthAdr m 0x30) 1 else s1
  else
    let m2 := mothModes m1 v
    let s1 := mothSet s m (if bitAt v 31 then mothEnableNow m2 else m2)
    forNats (List.range 8) (fun z _ => gwServe z (bankOf m)) s1

/-- A write that R368 ignores while EN is 1. -/
def mothOffWrite (s : State) (m : Nat) (f : Moth → Moth) : State :=
  if (mothGet s m).en then cntAdd s (mthAdr m 0x30) 1 else mothMap s m f

/-- PINS as a word (Table 13.7). -/
def mothPinsWord (mo : Moth) : Word :=
  BitVec.ofNat 32 (mo.oe.toNat * 2 ^ 24 + mo.smask.toNat * 2 ^ 16 + mo.npin * 256 + mo.first)

/-- The PINS fields that a write leaves (Table 13.7, R10). -/
def mothPinsNew (mo : Moth) (v : Word) : Moth :=
  let sm : Byte := BitVec.ofNat 8 (field v 23 16)
  { mo with oe := BitVec.ofNat 8 (field v 31 24),
            smask := if 3 < popNat 8 sm.toNat then mo.smask else sm,
            npin := if 8 < field v 11 8 then mo.npin else field v 11 8,
            first := field v 4 0 }

/-- Whether moth `m` and another moth of its bank both name bank pin `q`. -/
def pinConflict (s : State) (m q : Nat) : Bool :=
  claimsPin s m q && (mothsOf (bankOf m)).any (fun o => o != m && claimsPin s o q)

/-- Whether a write of the PINS of moth `m` from `s` to `z` creates a conflict: one that only keeps a standing conflict does not
(R349). -/
def conflictMade (s z : State) (m : Nat) : Bool :=
  (List.range (lastPin (bankOf m) + 1)).any (fun q => pinConflict z m q && !pinConflict s m q)

/-- A write of MTH[m].PINS (R349, R368). -/
def mothPinsWrite (s : State) (m : Nat) (v : Word) : State :=
  let s1 := mothOffWrite s m (fun mo => mothPinsNew mo v)
  if conflictMade s s1 m then cntAdd s1 (mbkAdr (bankOf m) 8) 1 else s1

/-- CTXT as a word (Table 13.8). -/
def mothCtxtWord (mo : Moth) : Word := BitVec.ofNat 32 (b2n mo.ctxValid * 2 ^ 31 + mo.route * 2 ^ 26 + mo.index)

/-- The CTXT fields of a word. -/
def mothCtxtNew (mo : Moth) (v : Word) : Moth :=
  { mo with ctxValid := bitAt v 31, route := field v 30 26, index := field v 16 0 }

/-- A write of PC while the moth is disabled abandons the unfinished instruction (R368). -/
def mothPcNew (mo : Moth) (v : Word) : Moth :=
  let m1 := { mo with pc := field v 4 0 }
  match mo.injWait with
  | none => { m1 with wait := .none }
  | some _ => { m1 with injWait := some .none }

/-- A write of CLK (R352, R353): TSYNC waits for the tick edge, D for the moth cycle boundary. -/
def mothClkNew (mo : Moth) (v : Word) : Moth :=
  { mo with tsyncNext := some (bitAt v 31), dNext := if field v 23 0 < 256 then mo.dNext else some (field v 23 0) }

/-- CLK as written (Table 13.6a). -/
def mothClkWord (mo : Moth) : Word :=
  BitVec.ofNat 32 (b2n (mo.tsyncNext.getD mo.tsync) * 2 ^ 31 + mo.dNext.getD mo.d)

/-- A write of IMEM[i] (R369). -/
def mothImemPut (s : State) (m i : Nat) (v : Word) : State :=
  if (mothGet s m).en then cntAdd s (mthAdr m 0x2C) 1
  else mothMap s m (fun mo => { mo with imem := tblSet 0 i (v.setWidth 24) mo.imem })

/-- A write of MRESTART (R370). -/
def mothRestartPut (s : State) (m : Nat) (v : Word) : State :=
  mothOffWrite s m (fun mo => { mo with restart := some (bitAt v 0, bitAt v 1) })

/-- A write of INJ (R371). -/
def mothInjPut (s : State) (m : Nat) (v : Word) : State :=
  if (mothGet s m).inj.isSome then cntAdd s (mthAdr m 0x30) 1
  else mothMap s m (fun mo => { mo with inj := some (v.setWidth 24) })

/-- STAT (Table 13.9). -/
def mothStat (s : State) (m : Nat) : Word :=
  let mo := mothGet s m
  let sh := match mo.wait, mo.injWait with
    | .shift n, _ => n
    | _, some (.shift n) => n
    | _, _ => 0
  BitVec.ofNat 32 (b2n mo.ill * 2 ^ 31 + b2n mo.inj.isSome * 2 ^ 30 + b2n (mo.wait == .stallF) * 2 ^ 29 +
    b2n (mo.wait == .stallS) * 2 ^ 28 + b2n (mo.wait == .edge || mo.wait == .count) * 2 ^ 27 + b2n mo.tmo * 2 ^ 26 +
    b2n (mo.en && !frzBank s (bankOf m)) * 2 ^ 24 + mo.held.length * 2 ^ 20 + mo.qout.length * 2 ^ 16 +
    mo.qin.length * 2 ^ 12 + sh * 2 ^ 6 + mo.pc)

/-! The tick edge of a bank. -/

/-- Whether the configured context of moth `m` is a Fox context, in FASTLOOP (R364). -/
def mothFox (s : State) (m : Nat) : Bool :=
  let mo := mothGet s m
  isFastloop s && s.tick.subtick != 0 && decide (m < 96) && mo.ctxValid && ctlFox (ctlGet s mo.index)

/-- The held words moved to the output queue, in order (Table 13.4 step 3). -/
def heldMove (mo : Moth) : Moth × Nat :=
  let room := qoutCap mo - mo.qout.length
  ({ mo with qout := mo.qout ++ mo.held.take room, held := [] }, mo.held.length - room)

/-- Step 3 of Table 13.4. -/
def edgeStep3 (s : State) (m : Nat) : State :=
  let mo := mothGet s m
  if mo.edrv then
    match mo.held.getLast? with
    | none => s
    | some w => mothMap (mothDriveMask s m 255 w.toNat) m (fun mo => { mo with held := [] })
  else
    let q := heldMove mo
    cntAdd (mothSet s m q.1) (mthAdr m 0x34) q.2

/-- The wait that an injected instruction has interrupted ended at the tick edge (R358, R359, R371); that of a disabled moth stands
still (R368). -/
def heldWaits (s : State) (m : Nat) : State :=
  let mo := mothGet s m
  if mo.en then
    match mo.injWait with
    | some .edge => if field mo.injCur 11 9 = 5 then heldEdgeMet s m else s
    | some .count => if bitAt mo.injCur 8 then heldCountEnd s m else s
    | _ => s
  else s

/-- The waits that end at the tick edge (R358, R359). -/
def edgeWaits (s : State) (m : Nat) : State :=
  if mothActs s m then
    let s1 := heldWaits s m
    let mo := mothGet s1 m
    (if mo.wait == .edge && field mo.cur 11 9 == 5 then edgeMet s1 m
     else if mo.wait == .count && bitAt mo.cur 8 then countEnd s1 m else s1)
  else s

/-- The edge actions of Table 13.4 for moth `m`, after the waits that end in the same cycle, whose pin changes would give
way to step 3. -/
def mothEdge (s : State) (m : Nat) : State :=
  let s0 := mothMap s m (fun mo => { mo with tsync := mo.tsyncNext.getD mo.tsync, tsyncNext := none })
  let s1 := edgeWaits s0 m
  let s2 := if (mothGet s1 m).esamp then gwSample s1 m else s1
  let s3 := if (mothGet s2 m).imode then s2 else gwTakeAll s2 m
  edgeStep3 s3 m

/-- The words of each moth of some banks counted anew, as a main tick begins, at a frozen bank too (R63, R365). -/
def seqFresh (s : State) (banks : List Nat) : State :=
  forNats ((s.field.moth.filter (fun q => q.2.seq != 0 && hasNat (bankOf q.1) banks)).map (·.1))
    (fun z m => mothMap z m (fun mo => { mo with seq := 0 })) s

/-- The edge actions of bank `b` on the moths whose tick edge this is, in ascending number (R364). -/
def bankEdge (s : State) (b : Nat) (main : Bool) : State :=
  if bankLive s b then
    forNats (mothsOf b) (fun z m => if main || mothFox z m then mothEdge z m else z) s
  else s

/-- The remap of R372: spare `sp` takes the place of moth `a`. -/
def mothRemap (s : State) (a sp : Nat) (fresh : Bool) : State :=
  let x := mothGet s a
  let y := mothGet s sp
  let base : Moth := { y with
    imem := x.imem, en := x.en, qmode := x.qmode, edrv := x.edrv, esamp := x.esamp, imode := x.imode,
    tsync := x.tsync, tsyncNext := x.tsyncNext, d := x.d, dNext := x.dNext, oe := x.oe, smask := x.smask,
    npin := x.npin, first := x.first, ctxValid := x.ctxValid, route := x.route, index := x.index, out := x.out }
  let n := if fresh then mothRestart base (true, true)
    else { base with pc := x.pc, si := x.si, so := x.so, ka := x.ka, kb := x.kb, acc := x.acc, tmo := x.tmo,
                     wait := x.wait, cur := x.cur, injWait := x.injWait, injCur := x.injCur, edgeTime := x.edgeTime,
                     edgeLvl := x.edgeLvl, injLvl := x.injLvl,
                     cntCond := x.cntCond, cntPin := x.cntPin, qin := x.qin, qout := x.qout, held := x.held }
  mothSet (mothSet s sp n) a { x with en := false, npin := 0, ctxValid := false }

/-- Bank `b` at its block-reset values (R373, R419); `cfg` says that PIN CFG takes them too. -/
def bankReset (s : State) (b : Nat) (cfg : Bool) : State :=
  let lo := 16 * b
  let hi := if b < 6 then lo + 16 else lo + 8
  let keep := s.field.moth.filter (fun q => decide (q.1 < lo ∨ hi ≤ q.1))
  let pk := if cfg then s.field.pcfg.filter (fun q => decide (q.1 / 32 ≠ b)) else s.field.pcfg
  let s1 := { s with field := { s.field with moth := keep, pcfg := pk, gwq := tblSet [] b [] s.field.gwq,
                                             gwRot := tblSet 0 b 0 s.field.gwRot } }
  regPut s1 (mbkAdr b 0) 0

/-! The commands. -/

/-- MOTH_ENABLE, R368: a write of MTH[m].CTL with EN = 1. -/
def execMothEnable (m : Nat) (v : Word) (s : State) : Host.Outcome State Fault Refusal :=
  if m < 96 ∧ bitAt v 31 = true ∧ domStat s (bankDom (bankOf m)) = 1 then .next (mothCtlWrite s m v) else .next s

/-- MOTH_DISABLE, R368: a write of MTH[m].CTL with EN = 0. -/
def execMothDisable (m : Nat) (v : Word) (s : State) : Host.Outcome State Fault Refusal :=
  if m < 96 ∧ bitAt v 31 = false ∧ domStat s (bankDom (bankOf m)) = 1 then .next (mothCtlWrite s m v) else .next s

/-- A host write to a register of moth `m`; the registers of the Sett bank and of a bank that is off take none (R375,
R457). -/
def mothHostWrite (s : State) (m : Nat) (t : State) : State :=
  if m < 96 ∧ domStat s (bankDom (bankOf m)) = 1 then t else s

/-- MOTH_PC_WRITE, R368. -/
def execMothPcWrite (m : Nat) (v : Word) (s : State) : Host.Outcome State Fault Refusal :=
  .next (mothHostWrite s m (mothOffWrite s m (fun mo => mothPcNew mo v)))

/-- MOTH_IMEM_WRITE, R369. -/
def execMothImemWrite (m i : Nat) (v : Word) (s : State) : Host.Outcome State Fault Refusal :=
  if i < 32 then .next (mothHostWrite s m (mothImemPut s m i v)) else .next s

/-- MOTH_RESTART_WRITE, R370. -/
def execMothRestartWrite (m : Nat) (v : Word) (s : State) : Host.Outcome State Fault Refusal :=
  .next (mothHostWrite s m (mothRestartPut s m v))

/-- MOTH_CLOCK_WRITE, R353. -/
def execMothClockWrite (m : Nat) (v : Word) (s : State) : Host.Outcome State Fault Refusal :=
  .next (mothHostWrite s m (mothMap s m (fun mo => mothClkNew mo v)))

/-- MOTH_INJECT, R371. -/
def execMothInject (m : Nat) (v : Word) (s : State) : Host.Outcome State Fault Refusal :=
  .next (mothHostWrite s m (mothInjPut s m v))

/-- MOTH_INJECTED_EXECUTE, R371: the injected instruction starts on the synchronised levels of the moth's pins. One that
arrives while an injected one is still in hand waits for it (DESIGN CHOICE). -/
def execMothInjectedExecute (m : Nat) (levels : Byte) (s : State) : Host.Outcome State Fault Refusal :=
  let mo := mothGet s m
  match mo.inj with
  | none => .next s
  | some i =>
    if decide (m < 104) && bankLive s (bankOf m) && mo.injWait.isNone then
      let s1 := mothTick (mothSyncAll (mothMap s m (fun mo => { mo with inj := none })) m levels) m
      if mothIllegal mo i then .next (mothStop s1 m)
      else .next (mothStart (mothMap s1 m (fun mo =>
        { mo with injWait := some mo.wait, injCur := mo.cur, injLvl := mo.edgeLvl, wait := .none })) m i)
    else .next s

/-- GATEWAY_CELL_ARRIVAL, R367. -/
def execGatewayCellArrival (b : Nat) (s : State) : Host.Outcome State Fault Refusal :=
  match flyTake (110 + b) s.cells.flight with
  | none => .next s
  | some (o, rest) =>
    if b < 7 ∧ domStat s (bankDom b) = 1 then .next (gwArrive (flyRest s rest) b o.cell) else .next s

/-- The level `v` at which the outside holds pin `p` from now on. Where the KSC does not drive the pin, the pad has that level already, and
no earlier change of the KSC's at it is still to come (R538, log 78). -/
def extPut (s : State) (p : Nat) (v : Bool) : State :=
  let s1 := { s with field := { s.field with ext := tblSet none p (some v) s.field.ext } }
  if (pinDrive s p).isSome then s1
  else padsSet { s1 with field := { s1.field with padq := s1.field.padq.filter (fun q => q.1 != p) } } p (padLevel s1 p)

/-- PIN_FILTER_CHANGE, R332: the synchronised level of pin `p` has been `v` for `cyc` consecutive moth base cycles, and the
filtered level takes it once they are FILTER. A bank with no pad supply reads 0 (R529). -/
def execPinFilterChange (p : Nat) (v : Bool) (s : State) (cyc : Nat := 0) : Host.Outcome State Fault Refusal :=
  if p < 208 then
    let s1 := extPut (syncPut s p v) p v
    let w := pinLevel s1 p
    .next (if pinFilter s p ≤ cyc ∧ hasNat p s1.field.filt ≠ w then filtPut s1 p w else s1)
  else .next s

/-- PAD_SUPPLY_CHANGE, R529. The pins of a bank that loses its supply read 0 at once, and their filtered levels follow as FILTER
gives (R332). -/
def execPadSupplyChange (sup : Nat) (present : Bool) (s : State) : Host.Outcome State Fault Refusal :=
  if sup < 7 then
    (if present then
      (if hasNat sup s.field.supAbsent then
        .next { s with field := { s.field with supAbsent := delNat sup s.field.supAbsent, supFresh := addNat sup s.field.supFresh } }
       else .next s)
     else
      let s1 := { s with field := { s.field with
        supAbsent := addNat sup s.field.supAbsent, supFresh := delNat sup s.field.supFresh,
        sync := s.field.sync.filter (fun p => decide (p / 32 ≠ sup)) } }
      .next (forNats (s.field.filt.filter (fun p => decide (p / 32 = sup))) (fun z p => filtFollow z p false) s1))
  else .next s

/-- MOTH_NOP, R356. -/
def execMothNop (m : Nat) (s : State) : Host.Outcome State Fault Refusal := .next (mothExec s m 0)

/-- MOTH_SHOUT, R356: started where it is the next instruction, and `cyc` of its bits shifted, one a moth cycle. -/
def execMothShout (m cyc : Nat) (s : State) : Host.Outcome State Fault Refusal :=
  if shiftLeft s m 1 then .next (shoutRun s m cyc)
  else
    let s1 := mothExec s m 1
    .next (if shiftLeft s1 m 1 then shoutRun s1 m cyc else s1)

/-- MOTH_SHIN, R356: as MOTH_SHOUT; `bits` are the synchronised levels of the pin in the moth cycles that run. -/
def execMothShin (m : Nat) (bits : List Bool) (s : State) : Host.Outcome State Fault Refusal :=
  if shiftLeft s m 2 then .next (shinRun s m bits)
  else
    let s1 := mothExec s m 2
    .next (if shiftLeft s1 m 2 then shinRun s1 m bits else s1)

/-- MOTH_EDGE, R358: `level` is the synchronised level of the pin in the first moth cycle. -/
def execMothEdge (m : Nat) (level : Bool) (s : State) : Host.Outcome State Fault Refusal :=
  if mothFetches s m && mOp (mothIns s m) == 3 then
    .next (mothExec (mothSync s m (field (mothIns s m) 5 3) level) m 3)
  else .next s

/-- The synchronised level that shows the condition of EDGE `i`, which started when its pin was at `was` (R358). -/
def edgeLevel (i : BitVec 24) (was : Bool) : Bool :=
  match field i 11 9 with
  | 0 => true
  | 1 => false
  | 2 => !was
  | 3 => true
  | _ => false

/-- The synchronised level of the pin of EDGE `i` as its condition is seen. -/
def edgeSync (s : State) (m : Nat) (i : BitVec 24) (was : Bool) : State := mothSync s m (field i 5 3) (edgeLevel i was)

/-- Whether the condition of EDGE `i`, which is not the tick and which started when its pin was at `was`, is met by the level that the pin
has now (R358); one that does not exist reads as 0 (R349). -/
def edgeHolds (s : State) (m : Nat) (i : BitVec 24) (was : Bool) : Bool :=
  let l := mothLevel s m (field i 5 3)
  match field i 11 9 with
  | 0 => !was && l
  | 1 => was && !l
  | 2 => was != l
  | 3 => l
  | 4 => !l
  | _ => false

/-- Whether the condition of EDGE `i`, which is not the tick, can be seen at its pin: nothing holds it at the other level (R529, R538), and
one that does not exist reads as 0 (R349). -/
def edgeCan (s : State) (m : Nat) (i : BitVec 24) (was : Bool) : Bool :=
  match mothPin s m (field i 5 3) with
  | none => edgeHolds s m i was
  | some _ => field i 11 9 != 5 && mothLevel (edgeSync s m i was) m (field i 5 3) == edgeLevel i was

/-- MOTH_EDGE_MET, R358: an edge or level condition is seen, in any base cycle; the tick condition is met by the edge itself.
`held` names an EDGE that an injected instruction has interrupted, which an enabled moth watches on (R368). -/
def execMothEdgeMet (m : Nat) (s : State) (held : Bool := false) : Host.Outcome State Fault Refusal :=
  let mo := mothGet s m
  if !mothActs s m then .next s
  else if held then
    (if mo.en && mo.injWait == some .edge && edgeCan s m mo.injCur mo.injLvl then
       .next (heldEdgeMet (edgeSync s m mo.injCur mo.injLvl) m)
     else .next s)
  else if mo.wait == .edge && edgeCan s m mo.cur mo.edgeLvl then .next (edgeMet (edgeSync s m mo.cur mo.edgeLvl) m)
  else .next s

/-- MOTH_EDGE_TIMEOUT, R358. The condition is tested before the timeout, so that one which the level of the pin meets ends the wait as
met; the edge-time register then takes the time of this command (DEDUCED: the level changed in a base cycle before it; log 36). -/
def execMothEdgeTimeout (m : Nat) (s : State) : Host.Outcome State Fault Refusal :=
  let mo := mothGet s m
  if mothWaits s m && mo.wait == .edge && bitAt mo.cur 8 then
    .next (if edgeHolds s m mo.cur mo.edgeLvl then edgeMet s m else edgeTimeout s m)
  else .next s

/-- MOTH_SAMPLE, R356. -/
def execMothSample (m : Nat) (levels : Byte) (s : State) : Host.Outcome State Fault Refusal :=
  if mothFetches s m && mOp (mothIns s m) == 4 then .next (mothExec (mothSyncAll s m levels) m 4) else .next s

/-- MOTH_DRIVE, R356. -/
def execMothDrive (m : Nat) (s : State) : Host.Outcome State Fault Refusal := .next (mothExec s m 5)

/-- MOTH_TOGGLE, R356. -/
def execMothToggle (m : Nat) (s : State) : Host.Outcome State Fault Refusal := .next (mothExec s m 6)

/-- MOTH_LOOP, R356. -/
def execMothLoop (m : Nat) (s : State) : Host.Outcome State Fault Refusal := .next (mothExec s m 7)

/-- MOTH_COUNT, R359. -/
def execMothCount (m : Nat) (s : State) : Host.Outcome State Fault Refusal := .next (mothExec s m 8)

/-- MOTH_COUNT_END, R359: the end of a COUNT that lasts kb moth cycles; one that lasts until the tick edge ends there. -/
def execMothCountEnd (m : Nat) (s : State) : Host.Outcome State Fault Refusal :=
  if mothActs s m && (mothGet s m).wait == .count && !bitAt (mothGet s m).cur 8 then .next (countEnd s m) else .next s

/-- MOTH_PIN_EDGE_COUNT, R359: a rising or falling edge at the pin that ACC counts, where the pin exists and nothing holds it at
the other level (R349, R529, R538). -/
def execMothPinEdgeCount (m : Nat) (rising : Bool) (s : State) : Host.Outcome State Fault Refusal :=
  let mo := mothGet s m
  let hit := mo.cntCond == 2 || (mo.cntCond == 0 && rising) || (mo.cntCond == 1 && !rising)
  let s1 := mothSync s m mo.cntPin rising
  if decide (m < 104) && bankLive s (bankOf m) && mo.en && hit && (mothPin s m mo.cntPin).isSome &&
      mothLevel s1 m mo.cntPin == rising then
    .next (mothMap s1 m (fun mo => { mo with acc := mo.acc + 1 }))
  else .next s

/-- MOTH_CAPT, R356. -/
def execMothCapt (m : Nat) (s : State) : Host.Outcome State Fault Refusal := .next (mothExec s m 9)

/-- MOTH_FETCH, R362. -/
def execMothFetch (m : Nat) (s : State) : Host.Outcome State Fault Refusal := .next (mothExec s m 10)

/-- MOTH_STOW, R362. -/
def execMothStow (m : Nat) (s : State) : Host.Outcome State Fault Refusal := .next (mothExec s m 11)

/-- MOTH_STALL_END, R362: `cyc` more moth cycles were stalled, each of which counts as it passes; the stall goes on while the
queue does not serve it, and may then be abandoned. -/
def execMothStallEnd (m cyc : Nat) (s : State) : Host.Outcome State Fault Refusal :=
  let mo := mothGet s m
  if mothActs s m && (mo.wait == .stallF || mo.wait == .stallS) then
    let s1 := cntAdd s (mthAdr m 0x38) cyc
    .next (if mothWaits s m && canServe mo then queueServe s1 m else s1)
  else .next s

/-- MOTH_JMP, R356: `level` is the synchronised level of the pin that a pin condition names. -/
def execMothJmp (m : Nat) (level : Bool) (s : State) : Host.Outcome State Fault Refusal :=
  let i := mothIns s m
  if mothFetches s m && mOp i == 12 then
    (if field i 11 9 = 3 ∨ field i 11 9 = 4 then .next (mothExec (mothSync s m (field i 7 5) level) m 12)
     else .next (mothExec s m 12))
  else .next s

/-- MOTH_SET, R356. -/
def execMothSet (m : Nat) (s : State) : Host.Outcome State Fault Refusal := .next (mothExec s m 13)

/-- MOTH_DELAY_END, R361. -/
def execMothDelayEnd (m : Nat) (s : State) : Host.Outcome State Fault Refusal :=
  match (mothGet s m).wait with
  | .delay _ => if mothWaits s m then .next (mothMap s m mothIdle) else .next s
  | _ => .next s

/-- MOTH_ILLEGAL_INSTRUCTION, R357. -/
def execMothIllegalInstruction (m : Nat) (s : State) : Host.Outcome State Fault Refusal :=
  if mothFetches s m && mothIllegal (mothGet s m) (mothIns s m) then .next (mothStop s m) else .next s

end Sys2Proof.Machine
end

