-- ==== Sys2Proof/Machine/Sett.lean ====
section
/-! DEFINITION. The Sett: mailbox, seal, event counter and log, failure (R374 to R400). -/

namespace Sys2Proof.Machine

/-- The Sett replaced. -/
def settMap (s : State) (f : Sett → Sett) : State := { s with sett := f s.sett }

/-- The battery record replaced. -/
def batMap (s : State) (f : Battery → Battery) : State := { s with bat := f s.bat }

/-- SEALPAR[i]. -/
def settPar (s : State) (i : Nat) : Word := tblGet 0 i s.sett.par

/-- MBX.PARCRC: the CRC-32C of SEALPAR[0] to SEALPAR[255] as they now stand, and its reset value before an image or a write has
set them (Table 14.2). -/
def parCrc (s : State) : Word :=
  if s.sett.hasImage || !s.sett.par.isEmpty then crc32c ((List.range 256).flatMap (fun i => leBytes 4 (settPar s i).toNat)) else 0

/-- MBX.STATUS (Table 14.3). -/
def mbxStatus (s : State) : Word :=
  let t := s.sett
  BitVec.ofNat 32 (t.fcause * 2 ^ 12 + b2n (t.batSeen && decide (s.bat.hdr.evcnt = 0xFFFFFFFF)) * 512 + b2n t.parchg * 256 +
    b2n t.idchg * 128 + b2n t.loss * 64 + b2n t.pin * 32 + b2n t.open_ * 16 + b2n (settLegal s) * 8 + t.st)

/-! The battery record (R394, Tables 14.5 and 14.6). -/

/-- The 32-bit word at byte `a` of a byte string. -/
def bytesWord (bs : List Byte) (a : Nat) : Word := BitVec.ofNat 32 (leNat ((bs.drop a).take 4))

/-- Bytes 0x00 to 0x1B of a log entry. -/
def entBody (e : LogEnt) : List Byte :=
  leBytes 8 e.time.toNat ++ leBytes 4 e.evcnt.toNat ++ leBytes 4 e.type.toNat ++ leBytes 4 e.old.toNat ++ leBytes 4 e.new.toNat ++
    leBytes 4 e.settid.toNat

/-- The bytes of a log entry. -/
def logBytes (e : LogEnt) : List Byte := entBody e ++ leBytes 4 e.ecrc.toNat

/-- A log entry with its ECRC. -/
def entSealed (e : LogEnt) : LogEnt := { e with ecrc := crc32c (entBody e) }

/-- Bytes 0x00 to 0x1B of a header. -/
def hdrBody (h : BatHdr) : List Byte :=
  leBytes 4 h.magic.toNat ++ leBytes 4 h.evcnt.toNat ++ leBytes 4 h.sealid.toNat ++ leBytes 4 h.parcrc.toNat ++
    leBytes 4 h.pendid.toNat ++ leBytes 4 h.pendpar.toNat ++ leBytes 4 h.log.toNat

/-- The bytes of a header. -/
def batHeader (s : State) : List Byte := hdrBody s.bat.hdr ++ leBytes 4 s.bat.hdr.hcrc.toNat

/-- A header as the Sett writes it, with MAGIC and HCRC. -/
def hdrSealed (h : BatHdr) : BatHdr :=
  let h1 := { h with magic := 0x54544553 }
  { h1 with hcrc := crc32c (hdrBody h1) }

/-- The index of the next entry, and the entries held (Table 14.5). -/
def hdrNext (h : BatHdr) : Nat := field h.log 4 0
/-- Entries held. -/
def hdrHeld (h : BatHdr) : Nat := field h.log 10 5

/-- LOG advanced by one entry (R395). -/
def logNext (h : BatHdr) : Word := BitVec.ofNat 32 ((hdrNext h + 1) % 32 + 32 * min (hdrHeld h + 1) 32)

/-- The header as it will stand after the writes that wait: that from which the next write goes on, and with which the Sett compares
what it has recorded. -/
def hdrLast (s : State) : BatHdr := match s.bat.queue.getLast? with | some w => w.hdr | none => s.bat.hdr

/-- Whether the record passes the check of R396: MAGIC, HCRC, and the ECRC of every entry held. -/
def batGood (b : Battery) : Bool :=
  b.hdr.magic == 0x54544553 && b.hdr.hcrc == crc32c (hdrBody b.hdr) &&
  (List.range (min (hdrHeld b.hdr) 32)).all (fun i =>
    let e := tblGet {} ((hdrNext b.hdr + 31 - i) % 32) b.log
    e.ecrc == crc32c (entBody e))

/-- A log entry of unknown contents. -/
def entLost (k i : Nat) : LogEnt :=
  let w (j : Nat) : Word := Config.lostWord k (8 * i + j)
  { time := w 0 ++ w 1, evcnt := w 2, type := w 3, old := w 4, new := w 5, settid := w 6, ecrc := w 7 }

/-- A header of unknown contents. -/
def hdrLost (k : Nat) : BatHdr :=
  let w := Config.lostWord k
  { magic := w 256, evcnt := w 257, sealid := w 258, parcrc := w 259, pendid := w 260, pendpar := w 261, log := w 262, hcrc := w 263 }

/-- The whole record lost (R527): no word of it is known. -/
def batLost (s : State) : State :=
  let lost : Tbl LogEnt := (List.range 32).foldl (fun t i => tblSet {} i (entLost s.free i) t) []
  { s with bat := { s.bat with hdr := hdrLost s.free, log := lost }, free := s.free + 1 }

/-- IDCHG and PARCHG as Table 14.3 defines them. -/
def settFlags (s : State) : State :=
  settMap s (fun t => { t with idchg := decide (t.settid ≠ (hdrLast s).sealid), parchg := decide (parCrc s ≠ (hdrLast s).parcrc) })

/-- The flags once the battery record has been read (Table 14.2). -/
def settFlagsSeen (s : State) : State := if s.sett.batSeen then settFlags s else s

/-- Bits 3:0 of word 1 of every published record set to NOT_LEGAL (R387). -/
def publMark (m : Memory) : Memory :=
  (List.range 64).foldl (fun z r => memSet z (32 * r + 4) ((memGet z (32 * r + 4) &&& 0xF0) ||| 0xD)) m

/-- The whole published copy marked NOT_LEGAL, with MBX.GEN incremented (R387). -/
def settNotLegal (s : State) : State := settMap s (fun t => { t with publ := publMark t.publ, gen := t.gen + 1 })

/-- A write to MBX.COMMIT (R385, R387). -/
def mbxCommit (s : State) : State :=
  let p := if settLegal s then s.sett.work else publMark s.sett.work
  pulse (settMap s (fun t => { t with publ := p, gen := t.gen + 1 })) 309

/-- A store of S0 to the mailbox: the working records and MBX.COMMIT take it, and any other is counted (R384). -/
def mbxStore (s : State) (a : Nat) (bs : List Byte) : State :=
  if a < 0x800 then settMap s (fun t => { t with work := memPut t.work a bs })
  else if a ≤ 0xC43 ∧ 0xC40 < a + bs.length then mbxCommit s
  else cntAdd s 0x181020 1

/-- The word of the mailbox at offset `a`; `inside` is the view of S0 and S1, with the working records and the parameters
as they see them (R384, R391). -/
def mbxWord (s : State) (inside : Bool) (a : Nat) : Word :=
  let t := s.sett
  if a < 0x800 then memWord (if inside then t.work else t.publ) a
  else if a < 0xC00 then tblGet 0 ((a - 0x800) / 4) (if inside then t.parSeen else t.par)
  else match a with
    | 0xC00 => t.gen
    | 0xC04 => mbxStatus s
    | 0xC08 => t.settid
    | 0xC0C => if t.batSeen then s.bat.hdr.sealid else 0
    | 0xC10 => if t.batSeen then s.bat.hdr.evcnt else 0
    | 0xC14 => parCrc s
    | 0xC18 => t.stn.setWidth 32
    | 0xC1C => (t.stn >>> 32).setWidth 32
    | _ => 0

/-- Whether an event of this type increments EVCNT (Table 14.4a). -/
def evCounted (type : Nat) : Bool := hasNat type [1, 3, 4, 5, 6]

/-- The entry and the header that an event leaves, over the header `h`, in which the event changes what `f` changes (R393, R395). -/
def batWrite (s : State) (h : BatHdr) (f : BatHdr → BatHdr) (type item : Nat) (old new : Word) : BatWrite :=
  let ev := if evCounted type then satCount h.evcnt 1 else h.evcnt
  { ent := entSealed { time := ktb s, evcnt := ev, type := BitVec.ofNat 32 (type + 256 * item), old := old, new := new,
                       settid := s.sett.settid },
    hdr := hdrSealed (f { h with evcnt := ev, log := logNext h }) }

/-- An event that waits for its battery write (R393, R395), with the change `f` of the header that goes with it: nothing is written
while LOSS is 1 (R396). -/
def settEvent (s : State) (type item : Nat) (old new : Word) (f : BatHdr → BatHdr := id) : State :=
  if s.sett.loss then s
  else
    batMap (settMap s (fun t => { t with batSeen := true })) (fun b =>
      { b with queue := b.queue ++ [batWrite s (hdrLast s) f type item old new] })

/-- LOSS set, and the published copy marked (R396, R387). The writes that waited are not made, so the flags that compare with the record
as it stands follow (Table 14.3). -/
def settLoss (s : State) : State :=
  if s.sett.st = 0 then s
  else
    let s1 := batMap (settMap s (fun t => { t with loss := true })) (fun b => { b with queue := [] })
    settNotLegal (settFlagsSeen s1)

/-- The check of the battery record at the entry into VERIFY (R396, R527), with which MBX.SEALID and the record's PARCRC come to be
compared with what is loaded (Table 14.3). -/
def settCheck (s : State) : State :=
  let s1 := settMap s (fun t => { t with batSeen := true })
  settFlags (if batGood s.bat && !s.io.batloss then s1 else settLoss s1)

/-- The entry of a write at its index, with the header as it was. -/
def entPut (b : Battery) (w : BatWrite) : Battery := { b with log := tblSet {} ((hdrNext w.hdr + 31) % 32) w.ent b.log }

/-- A write made whole: the entry at the index that LOG gives, and then the header (R395). -/
def batPut (b : Battery) (w : BatWrite) : Battery := { entPut b w with hdr := w.hdr, queue := b.queue.tail }

/-- What a loss of power or a reset leaves of the battery record while writes wait (R395): the oldest one may not have begun, its entry
may stand with the header as it was before, or both may stand; which of these is open. The others are lost. -/
def batCut (s : State) : State :=
  match s.bat.queue with
  | [] => s
  | w :: _ =>
    let k := Config.writeLanded s.free
    let b := if k = 0 then s.bat else if k = 1 then entPut s.bat w else batPut s.bat w
    { s with bat := { b with queue := [] }, free := s.free + 1 }

/-- The battery record written anew (R396): EVCNT, PENDID, PENDPAR, SEALID and PARCRC 0, the log empty, and one type-7
entry. -/
def batReinit (s : State) : State :=
  batMap (settMap s (fun t => { t with batSeen := true })) (fun b =>
    { b with queue := [{ batWrite s {} id 7 0 0 0 with full := true }] })

/-- The seal opened (R388, R396): after a loss the record is first written anew, and the opening is logged with EVCNT 1; LOSS stays 1
until the close (R389). -/
def sealOpen (s : State) : State :=
  let loss := s.sett.loss
  let s1 := if loss then batReinit s else s
  let s2 := settEvent (settMap s1 (fun t => { t with loss := false, open_ := true })) 1 0 0 0
  settFlags (settMap s2 (fun t => { t with loss := loss }))

/-- The seal closed by anything but block reset (R389): the identification and the parameters are recorded, LOSS, IDCHG
and PARCHG become 0, and the close is logged; S0 and S1 halted by debug resume (R477). A closed seal is left as it is. -/
def sealClose (s : State) : State :=
  if s.sett.open_ then
    let crc := parCrc s
    let id := s.sett.settid
    let s2 := settMap s (fun t => { t with open_ := false, loss := false, idchg := false, parchg := false })
    let s3 := freezeStep s2 (forNats [64, 65] (fun z n => engMap z n (fun e => { e with dbg := {} })) s2)
    settEvent s3 2 0 (hdrLast s).parcrc crc (fun h => { h with sealid := id, parcrc := crc, pendid := id, pendpar := crc })
  else s

/-- Both engines of the Sett stopped; a machine-check halt stays one. -/
def settHalt (s : State) : State :=
  forNats [64, 65] (fun z n => engMap z n (fun e => { e with run := if e.run = .mcheck then .mcheck else .stopped })) s

/-- The Sett enters FAILED with a cause of Table 14.3 (R383). -/
def settFail (s : State) (cause : Nat) : State :=
  if s.sett.st = 2 ∨ s.sett.st = 3 then
    let adr := (engGet s 64).pc
    let stn : Word := s.sett.stn.setWidth 32
    let s1 := sealClose (settHalt s)
    let s2 := settNotLegal (settMap s1 (fun t => { t with st := 4, fcause := cause }))
    fltWrite s2 10 (BitVec.ofNat 32 cause) adr stn
  else s

/-- The Sett enters IDLE from VERIFY or RUN (Table 14.1, R387, R389). -/
def settIdle (s : State) : State :=
  if s.sett.st = 2 ∨ s.sett.st = 3 then settNotLegal (settMap (sealClose (settHalt s)) (fun t => { t with st := 1 }))
  else s

/-- What the Sett checks when it enters RUN: events 4 and 5 of Table 14.4a, and IDCHG and PARCHG. -/
def settRunCheck (s : State) : State :=
  let crc := parCrc s
  let id := s.sett.settid
  let h := hdrLast s
  let s1 := if crc ≠ h.parcrc ∧ crc ≠ h.pendpar then settEvent s 4 255 h.parcrc crc (fun x => { x with pendpar := crc }) else s
  let s2 := if id ≠ h.sealid ∧ id ≠ h.pendid then settEvent s1 5 0 h.sealid id (fun x => { x with pendid := id }) else s1
  settFlags s2

/-- The write of a seal parameter (R391). -/
def sealParWrite (s : State) (v : Word) : State :=
  if s.sett.open_ then
    let i := s.sett.paridx
    let old := settPar s i
    let s1 := settMap s (fun t => { t with par := tblSet 0 i v t.par, paridx := (t.paridx + 1) % 256 })
    settFlags (if old = v then s1 else settEvent s1 3 (i % 256) old v)
  else cntAdd s 0x181010 1

/-- The word of SETT.LOG at byte `a`: the copy of entry `a / 32` of the record. -/
def settLogWord (s : State) (a : Nat) : Word := bytesWord (logBytes (tblGet {} (a / 32) s.bat.log)) (a % 32)

/-- SETT_MAILBOX_COMMIT, R385: the write of S0 to MBX.COMMIT while the Sett runs. -/
def execSettMailboxCommit (s : State) : Host.Outcome State Fault Refusal :=
  if s.sett.st = 2 ∨ s.sett.st = 3 then .next (mbxCommit s) else .next s

/-- SEAL_PARAMETER_WRITE, R391. -/
def execSealParameterWrite (v : Word) (s : State) : Host.Outcome State Fault Refusal :=
  if domStat s 78 = 1 then .next (sealParWrite s v) else .next s

/-- BATTERY_WRITE_DONE, R395: the oldest event that waits has been written and read back, and the record is checked on that read-back
(R396). Where the read-back differs, nothing is known of the entry and of the header, and LOSS is set. BATLOSS falls when the record has
been written in full (R527). -/
def execBatteryWriteDone (ok : Bool) (s : State) : Host.Outcome State Fault Refusal :=
  match s.bat.queue with
  | [] => .next s
  | w :: _ =>
    if ok then
      let s1 := { batMap s (fun b => batPut b w) with io := { s.io with batloss := s.io.batloss && !w.full } }
      .next (if batGood s1.bat then s1 else settLoss s1)
    else
      let i := (hdrNext w.hdr + 31) % 32
      let s1 := batMap s (fun b => batPut b { w with ent := entLost s.free i })
      .next (settLoss { batMap s1 (fun b => { b with hdr := hdrLost s.free }) with free := s.free + 1 })

/-- The change of KSEAL_N that came last, on a KTB that has gone back from `old` to `now`: the time since then stays what it was (R531). -/
def pinRebase (old now : W64) (t : Sett) : Sett := if now.ult old then { t with pinAt := t.pinAt + (now - old) } else t

/-- Whether less than 10 ms of KTB have passed since the filtered level of KSEAL_N last changed, so that the input has not been unchanged
for 10 ms at another level (R531). Before its first change the level counts as taken at KTB 0 (log 8). -/
def pinSoon (s : State) : Bool := decide ((ktb s - s.sett.pinAt).toNat < 10000000)

/-- KSEAL_FILTER_CHANGE, R531, R389: PIN takes the filtered level; PIN 0 closes an open seal. -/
def execKsealFilterChange (low : Bool) (s : State) : Host.Outcome State Fault Refusal :=
  if low ≠ s.sett.pin ∧ pinSoon s = true then .next s
  else
    let s1 := settMap s (fun t => { t with pin := low, pinAt := if low = t.pin then t.pinAt else ktb s })
    .next (if low then s1 else sealClose s1)

/-- BATLOSS_RISE, R527, R396. -/
def execBatlossRise (s : State) : Host.Outcome State Fault Refusal :=
  if s.io.batloss then .next s
  else .next (settLoss (batLost { s with io := { s.io with batloss := true } }))

end Sys2Proof.Machine
end

