-- ==== Sys2Proof/Machine/Engine.lean ====
section
/-! DEFINITION. The registers of an engine, its decode table, the fetch of a bundle, and the predictor (R137 to R161, R265
to R281). -/

namespace Sys2Proof.Machine

/-- Whether engine `n` is S0 or S1. -/
def isSettEng (n : Nat) : Bool := n == 64 || n == 65

/-- Bytes of IMEM and DMEM (Table 5.1). -/
def imemBytes (n : Nat) : Nat := if n = 66 then 0x10000 else 0x20000
def dmemBytes (n : Nat) : Nat := if n = 66 then 0x20000 else 0x40000

/-- g[r]; g0 reads as zero (R138). -/
def regG (e : Engine) (r : Nat) : Word := if r = 0 then 0 else tblGet 0 r e.g

/-- g[r] written; a write to g0 is discarded. -/
def putG (e : Engine) (r : Nat) (v : Word) : Engine := if r = 0 then e else { e with g := tblSet 0 r v e.g }

/-- p[k]; p0 reads as 1 (R139). -/
def regP (e : Engine) (k : Nat) : Bool := if k = 0 then true else bitAt e.p k

/-- p[k] written; a write to p0 is discarded. -/
def putP (e : Engine) (k : Nat) (v : Bool) : Engine := if k = 0 then e else { e with p := putBit e.p k v }

/-- c[r]; c0 holds the null capability (R140). -/
def regC (e : Engine) (r : Nat) : W128 := if r = 0 then 0 else tblGet 0 r e.c

/-- c[r] written; a write to c0 is discarded. -/
def putC (e : Engine) (r : Nat) (v : W128) : Engine := if r = 0 then e else { e with c := tblSet 0 r v e.c }

/-- The predicates as GETP gives them: p7 to p0, p0 one (R182). -/
def predWord (e : Engine) : Word := ((e.p ||| 1).setWidth 32)

/-- The predicates as SETP sets them; bit 0 is ignored. -/
def predSet (e : Engine) (v : Word) : Engine := { e with p := v.setWidth 8 &&& 0xFE }

/-- ESTAT (Table 5.3). -/
def estat (e : Engine) : Word :=
  BitVec.ofNat 32 (b2n e.compat * 2 ^ 31 + e.ring * 2 ^ 29 + b2n e.ptag * 2 ^ 28 + b2n e.dbg.lockheld * 2 ^ 27 +
    b2n e.ctxOpen.isSome * 2 ^ 26 + b2n e.ubank * 2 ^ 25 + b2n e.repact * 2 ^ 24 + b2n e.dtxf * 2 ^ 19 +
    b2n e.drxf * 2 ^ 18 + e.level * 2 ^ 16)

/-- The save registers of level `t`. -/
def saveGet (e : Engine) (t : Nat) : Save := match t with | 1 => e.save1 | 2 => e.save2 | _ => e.save3

/-- The save registers of level `t` replaced. -/
def saveSet (e : Engine) (t : Nat) (v : Save) : Engine :=
  match t with | 1 => { e with save1 := v } | 2 => { e with save2 := v } | _ => { e with save3 := v }

/-- The writable bits of XSTn and XCAUn (Tables 8.2 and 8.3). -/
def xstMask : Word := 0xFFE30000
def xcauMask : Word := 0x00007F1F

/-- A special register as MFS reads it (Table 5.2); none for a reserved number. -/
def sprGet (s : State) (n k : Nat) : Option Word :=
  let e := engGet s n
  match k with
  | 0 => some e.lc
  | 1 => some e.vbase
  | 2 => some (estat e)
  | 3 => some e.crcp
  | 4 => some e.crci
  | 5 => some ((engTick s n).setWidth 32)
  | 6 => some e.tickHi
  | 7 => some e.dtx
  | 8 => some e.drx
  | 9 => some (BitVec.ofNat 32 n)
  | 10 => some (BitVec.ofNat 32 (tcyc s n))
  | _ =>
    if 16 ≤ k ∧ k ≤ 30 then
      let v := saveGet e ((k - 16) / 5 + 1)
      some (match (k - 16) % 5 with | 0 => v.xpc | 1 => v.xst | 2 => v.xlc | 3 => v.xcau | _ => v.xadr)
    else none

/-- Whether MTS may name a special register (R141). -/
def sprWritable (k : Nat) : Bool := k ≤ 4 || k == 7 || k == 8 || (16 ≤ k && k ≤ 30)

/-- Whether a write of a special register needs SYS (Table 5.2). -/
def sprPriv (k : Nat) : Bool := k == 1 || k == 2 || (16 ≤ k && k ≤ 30)

/-- The effect of a write to a special register (Table 5.2): DTX sets DTXF, ESTAT takes COMPAT alone, and native mode has
ring 0. -/
def sprPut (e : Engine) (k : Nat) (v : Word) : Engine :=
  match k with
  | 0 => { e with lc := v }
  | 1 => { e with vbase := v &&& 0xFFFFF000 }
  | 2 => { e with compat := bitAt v 31, ring := if bitAt v 31 then e.ring else 0 }
  | 3 => { e with crcp := v }
  | 4 => { e with crci := crciWrite e.crci v }
  | 7 => { e with dtx := v, dtxf := true }
  | 8 => { e with drx := v }
  | _ =>
    if 16 ≤ k ∧ k ≤ 30 then
      let t := (k - 16) / 5 + 1
      let x := saveGet e t
      saveSet e t (match (k - 16) % 5 with
        | 0 => { x with xpc := v }
        | 1 => { x with xst := v &&& xstMask }
        | 2 => { x with xlc := v }
        | 3 => { x with xcau := v &&& xcauMask }
        | _ => { x with xadr := v })
    else e

/-- The side effect of reading a special register: TICKN.LO captures the high half, DRX clears DRXF (Table 5.2). -/
def sprSeen (s : State) (n k : Nat) : State :=
  match k with
  | 5 => engMap s n (fun e => { e with tickHi := (engTick s n >>> 32).setWidth 32 })
  | 8 => engMap s n (fun e => { e with drxf := false })
  | _ => s

/-- Capability special register `k` (R231). -/
def xpccGet (e : Engine) (k : Nat) : W128 := if k = 0 then e.pcc else (saveGet e k).xpcc

/-- XPCCk written. -/
def xpccPut (e : Engine) (k : Nat) (v : W128) : Engine := saveSet e k { saveGet e k with xpcc := v }

/-- A CRC setting of the engine in force. -/
def engCrc (e : Engine) : CrcSet := crcSetOf e.crcp e.crci

/-! The decode table and micro-RAM. -/

/-- Entry `m` of the decode shadow of a bank (R276 to R279): the Vetchaos default once the bank has been filled, and the
Reset column before. -/
def decEntry (e : Engine) (bank : Bool) (m : Nat) : Word :=
  if bank then (if e.filled1 then (tblGet none m e.dec1).getD (defaultEntry Config.romUaddr m) else (tblGet none m e.dec1).getD 0)
  else (if e.filled0 then (tblGet none m e.dec0).getD (defaultEntry Config.romUaddr m) else (tblGet none m e.dec0).getD 0)

/-- The bank under which the bundle in hand decodes and runs: the active one, and for a bundle that issued before an exchange the
one that was active then (R310). -/
def runBank (e : Engine) : Bool := e.heldBank.getD e.ubank

/-- The entry that decodes now. -/
def activeEntry (e : Engine) (m : Nat) : Word := decEntry e (runBank e) m

/-- A word of the micro-RAM bank in use. -/
def microWord (e : Engine) (a : Nat) : BitVec 160 := tblGet 0 a (if runBank e then e.uram1 else e.uram0)

/-! Tiles of the engines. -/

/-- Class, instance and tile index in MEM.LASTADR of tile `t` of the IMEM or DMEM of an engine. In class 5 an instance is S0
or S1 (Table 11.4); its DMEM tiles count on from its IMEM tiles (DESIGN CHOICE: the manual gives no order). -/
def engTile (n : Nat) (data : Bool) (t : Nat) : Nat × Nat × Nat :=
  if isSettEng n then (5, n - 64, if data then 2048 + t else t) else (b2n data, n, t)

/-- Whether tile `t` of the IMEM or DMEM of engine `n` fails. -/
def engTileBad (s : State) (n : Nat) (data : Bool) (t : Nat) : Bool :=
  let q := engTile n data t
  tileBad s q.1 q.2.1 q.2.2

/-- A failing check of that tile met by a reader (R320). -/
def engTileDetect (s : State) (n : Nat) (data : Bool) (t reader : Nat) : State :=
  let q := engTile n data t
  tileDetect s q.1 q.2.1 q.2.2 reader

/-! Fetch. -/

/-- The word that the fetch path of engine `n` reads at address `a` (Tables 5.4 and 5.4a). -/
def fetchWord (s : State) (n a : Nat) : Word :=
  if a < imemBytes n then memWord (engGet s n).imem a
  else if n = 66 ∧ 0x08000000 ≤ a ∧ a < 0x08010000 then
    BitVec.ofNat 32 (leNat ((List.range 4).map (fun i => Config.bootRom (a - 0x08000000 + i))))
  else 0

/-- Whether the tile that holds fetch address `a` fails. -/
def fetchTileBad (s : State) (n a : Nat) : Bool := decide (a < imemBytes n) && engTileBad s n false (a / 64)

/-- What the fetch of a bundle gives: its syllables and the address after it, or why it fails, with the address that XADRn
takes. -/
inductive Fetched where
  | bundle (ys : List Syl) (next : Nat)
  | fetchFault (a : Nat)
  | tileFault (a : Nat)
  | tooLong
  deriving DecidableEq, Repr

/-- The syllables from address `a` with room for `fuel` words (R154, R157 to R159). `look` says that the fetch is checked;
without it only the stop bits are followed. -/
def fetchFrom (look : Bool) (s : State) (n : Nat) : Nat → Nat → Fetched
  | 0, _ => .tooLong
  | fuel + 1, a =>
    let e := engGet s n
    if look && !fetchOk e.compat e.pcc a then .fetchFault a
    else if look && fetchTileBad s n a then .tileFault (a / 64 * 64)
    else
      let w := fetchWord s n a
      let entry := activeEntry e (sylMajor w)
      if entFmt entry = some .rl then
        match fuel with
        | 0 => .tooLong
        | fuel2 + 1 =>
          if look && !fetchOk e.compat e.pcc (a + 4) then .fetchFault a
          else if look && fetchTileBad s n (a + 4) then .tileFault ((a + 4) / 64 * 64)
          else
            let y : Syl := { addr := a, word := w, ext := fetchWord s n (a + 4), entry := entry }
            if sylStop w then .bundle [y] (a + 8)
            else match fetchFrom look s n fuel2 (a + 8) with
              | .bundle ys nx => .bundle (y :: ys) nx
              | f => f
      else
        let y : Syl := { addr := a, word := w, ext := 0, entry := entry }
        if sylStop w then .bundle [y] (a + 4)
        else match fetchFrom look s n fuel (a + 4) with
          | .bundle ys nx => .bundle (y :: ys) nx
          | f => f

/-- A program address with bits 1:0 taken as zero. -/
def pcAt (v : Word) : Nat := v.toNat / 4 * 4

/-- The bundle of engine `n` at address `a`: at most eight words (R159). -/
def fetchBundle (s : State) (n a : Nat) : Fetched := fetchFrom true s n 8 a

/-- The address after the bundle at `a`, followed by its stop bits alone; eight words when none is set. -/
def afterBundle (s : State) (n a : Nat) : Nat :=
  match fetchFrom false s n 8 a with
  | .bundle _ nx => nx
  | _ => a + 32

/-! Counters of an engine: scan engines and the Badger have them, the Sett has none. -/

/-- A counter of Tables 8.5, 9.3 and 10.16. -/
def engCount (s : State) (n base k : Nat) : State := if isSettEng n then s else cntAdd s (base + n * 0x20) k

/-! The predictor. -/

/-- The number in R270 of the engine whose key an engine uses. -/
def keyEngine (s : State) (n : Nat) : Nat := if n = 65 then 64 else if isPaired s && n < 64 then n / 2 * 2 else n

/-- The key in force of engine `n` (R270): the encryption, under the predictor key of the sideband, of TCK.TB at its making and
the number of the engine for which it was made. -/
def predKey (s : State) (n : Nat) : List Byte :=
  aesBlock (leBytes 32 s.io.keys.predKey.toNat) (leBytes 8 (engGet s n).keyTime.toNat ++ leBytes 8 (engGet s n).keyNum)

/-- The scramble of the engine for its present context (R269). -/
def predScr (s : State) (n : Nat) : Word :=
  bytesWord (aesBlock (predKey s n) (leBytes 16 ((engGet s n).ctxOpen.getD 0x20000))) 0

/-- Index and tag of the predictor entry for a bundle at `a` (R268, R269). -/
def predIndex (s : State) (n a : Nat) : Nat × Nat :=
  let i := a / 4 % 4096
  if (engGet s n).ptag then
    let v := predScr s n
    (Nat.xor i (field v 11 0), field v 19 12)
  else (i, 0)

/-- The entry of a predictor that has not been changed since R272 set it: counter 0b01, tag 0. -/
def predInit : PredEnt := { ctr := 1, tag := 0 }

/-- The prediction for a bundle at `a` (R267, R269). -/
def predTaken (s : State) (n a : Nat) : Bool :=
  let q := predIndex s n a
  let p := tblGet predInit q.1 (engGet s n).pred
  decide (2 ≤ p.ctr) && (!(engGet s n).ptag || p.tag == q.2)

/-- The update with the resolved direction (R267, R269). -/
def predUpdate (s : State) (n a : Nat) (taken : Bool) : State :=
  let q := predIndex s n a
  engMap s n (fun e =>
    let p := tblGet predInit q.1 e.pred
    let v : PredEnt :=
      if e.ptag && p.tag != q.2 then { ctr := if taken then 2 else 1, tag := q.2 }
      else { p with ctr := if taken then min (p.ctr + 1) 3 else p.ctr - 1 }
    { e with pred := tblSet predInit q.1 v e.pred })

/-- The predictor set as R272 gives at a change of form or a start; `tagged` is the new form, and entry into it installs a
new key: the one that engine 2k holds for engine 2k+1 of a pair, and for S1 that of S0 (R270). A key takes KTB at the change itself as
its TCK.TB (DESIGN CHOICE: R272 has the Badger prepare it before that cycle and does not say when). -/
def predForm (s : State) (n : Nat) (tagged : Bool) : State :=
  let k := keyEngine s n
  let t := if k = n then ktb s else (engGet s k).keyTime
  engMap s n (fun e =>
    { e with pred := [], ptag := tagged, keyTime := if tagged then t else e.keyTime, keyNum := if tagged then k else e.keyNum,
             epoch := if tagged then e.epoch + 1 else e.epoch })

/-- Tile `t` of the IMEM of engine `n` noted where it fails on a wrong path, an annulled slot or a read-ahead (R274). -/
def suspectTile (s : State) (n t : Nat) : State :=
  if fetchTileBad s n (64 * t) then
    engMap (engCount s n 0x800C 1) n (fun e => { e with suspadr := BitVec.ofNat 32 (64 * t) })
  else s

/-- The failing tiles that the bundle at `a` touches (R274). -/
def suspectNote (s : State) (n a : Nat) : State :=
  forNats ((List.range ((afterBundle s n a - 1) / 64 + 1 - a / 64)).map (a / 64 + ·)) (fun z t => suspectTile z n t) s

/-- The failing tiles among those that F1 has read ahead of address `a`, where its fetch stops or turns, and that no bundle uses (R265,
R274): the tiles of the four-tile fetch buffer behind the one that holds the last byte before `a` (DESIGN CHOICE: how far F1 has read by
then is timing, and the buffer is taken as full). -/
def aheadNote (s : State) (n a : Nat) : State :=
  if isSettEng n then s
  else forNats ((List.range 4).map ((a + 63) / 64 + ·)) (fun z t => if t < (a - 1) / 64 + 4 then suspectTile z n t else z) s

/-- `k` wrong-path bundles from address `a`, and the tiles read ahead behind the last of them (R273, R274, Table 9.1). -/
def wrongPath (s : State) (n : Nat) : Nat → Nat → State
  | 0, a => aheadNote s n a
  | k + 1, a => wrongPath (suspectNote (engCount s n 0x8008 1) n a) n k (afterBundle s n a)

/-- What the resolution of a transfer leaves in the predictor and its counters (R266, R267, R273): `cond` says that it goes
through the predictor, `fall` is the bundle after the delay slot. The wrong-path bundles are the alternate buffer after a
correct prediction of taken, the two bundles behind the slot when a transfer predicted not taken is taken, and the target
when one predicted taken is not (DEDUCED from Table 9.2). -/
def predResolve (s : State) (n a fall target : Nat) (cond taken : Bool) : State :=
  let p := if cond then predTaken s n a else true
  let s1 := if cond then predUpdate (engCount s n 0x8000 1) n a taken else s
  let s2 := if cond && p != taken then engCount s1 n 0x8004 1 else s1
  if p && taken then wrongPath s2 n 1 fall
  else if p then wrongPath s2 n 1 target
  else if taken then wrongPath s2 n 2 fall
  else s2

/-! Start and stop. -/

/-- The registers that a start sets (R144): the entry gives PCC, VBASE, COMPAT and c1 to c15. -/
def startEngine (e : Engine) (pcc : W128) (vbase : Word) (compat : Bool) (caps : Tbl W128) : Engine :=
  { e with g := [], p := 0, c := caps, pcc := pcc, pc := capBase pcc, lc := 0, vbase := vbase &&& 0xFFFFF000, compat := compat,
           fresh := false,
           ring := 0, ctxOpen := none, ubank := false, heldBank := none, pushDone := 0, pushPut := 0, told := {}, repact := false,
           level := 0, dtx := 0, drx := 0, dtxf := false,
           drxf := false, crcp := 0, crci := 0, save1 := {}, save2 := {}, save3 := {}, startPcc := pcc,
           startCompat := compat, xfer := none, rep := none, hold := .none, run := .running, dbg := {},
           u := { e.u with donePos := [], done := [], stack := [], late := none, park := [] }, noEvent := false, everStarted := true }

/-- The image's engine entry as it stands in the first tiles of an engine-program section (Table 15.6): PCC, c1 to c15,
VBASE and COMPAT. -/
structure EngEntry where
  pcc : W128
  caps : Tbl W128
  vbase : Word
  compat : Bool
  deriving DecidableEq, Repr

/-- Engine `n` started from an entry: it predicts tagged with a new key, TICKN.HI shows the present tick, and TCYC starts at 0
(R144, R271, R272, Table 5.2). A debug halt ends, and a freeze with it (R344). -/
def engineStart (s : State) (n : Nat) (x : EngEntry) : State :=
  let s1 := engMap s n (fun e => { startEngine e x.pcc x.vbase x.compat x.caps with
    tickHi := (engTick s n >>> 32).setWidth 32, cycOff := rawCyc s n, cycHeld := 0, pstate := .run, wakeReq := false })
  freezeStep s (predForm s1 n true)

/-- The fetch of an engine that runs stops or turns (R274): behind the bundle in hand with `inHand`, and before the next one without. -/
def fetchLeft (s : State) (n : Nat) (inHand : Bool) : State :=
  let a := pcAt (engGet s n).pc
  if (engGet s n).run = .running then aheadNote s n (if inHand then afterBundle s n a else a) else s

/-- An engine stopped: an open context is closed without write-back, its pending cells are dropped, and a debug halt ends, with the
freeze that it made (R344, R417). Its scan entries stay for the skips of R48. -/
def engineStop (s : State) (n : Nat) : State :=
  freezeStep s (engMap (dropPending (fetchLeft s n false) n).2 n (fun e =>
    { e with run := if e.run = .mcheck then .mcheck else .stopped, ctxOpen := none, hold := .none, rep := none, xfer := none,
             repact := false, dbg := {}, heldBank := none, pushDone := 0, pushPut := 0, told := {},
             u := { e.u with donePos := [], done := [], late := none, park := [] },
             pstate := if e.pstate = .off then .off else .run, wakeReq := false }))

/-- The ready list of engine `n` gone. -/
def scanClear (s : State) (n : Nat) : State := engMap s n (fun e => { e with scan := [], scanLost := [], disp := [] })

/-- Whether ESTAT.PTAG counts as started in PSTAT (Table 9.4). -/
def pstatWord (e : Engine) : Word := BitVec.ofNat 32 (b2n (e.ptag && e.everStarted) * 256 + e.epoch.toNat)

end Sys2Proof.Machine
end

