-- ==== Sys2Proof/Machine/Boundary.lean ====
section
/-! DEFINITION. What the Badger does at a tick boundary (R430 to R452, Table 8.5a): changes of owner, retirements,
migrations, bank swaps, profile and period changes, and the entry into HOLD (R417, R431). -/

namespace Sys2Proof.Machine

/-- The Badger is stopped by a machine check (R536). -/
def badgerDead (s : State) : Bool := (engGet s 66).run == .mcheck

/-- A service action is accepted or raised: RUN becomes SERVICE (R429, R430). -/
def svcEnter (s : State) : State := if s.bstate = .run then setBState s .service else s

/-- A service action added. -/
def svcAdd (s : State) (tag : Nat) (a : SvcAct) : State :=
  svcEnter { s with svc := { s.svc with acts := s.svc.acts ++ [{ tag := tag, act := a }] } }

/-- The service actions replaced. -/
def svcActs (s : State) (l : List SvcPend) : State := { s with svc := { s.svc with acts := l } }

/-- Step 7 of a boundary: SERVICE becomes RUN when no action is left (R429). -/
def svcSettle (s : State) : State :=
  if s.bstate = .service ∧ s.svc.acts.isEmpty = true ∧ s.tick.pend.isNone = true then setBState s .run else s

/-! Power domains (R454, R455). -/

/-- The host registers of the window from `lo` to `hi` at their reset values, and the counters there at zero. -/
def winReset (s : State) (lo hi : Nat) : State :=
  { s with hreg := s.hreg.filter (fun q => decide (q.1 < lo ∨ hi < q.1)),
           cnt := s.cnt.filter (fun q => decide (q.1 < lo ∨ hi < q.1)) }

/-- No failing tile left in an instance of a memory class, nor a lock there whose release could not be written. -/
def tilesClean (s : State) (cls inst : Nat) : State :=
  let lo := tileKey cls inst 0
  let s1 := { s with mem := { s.mem with bad := s.mem.bad.filter (fun k => decide (k < lo ∨ lo + 2 ^ 22 ≤ k)) } }
  if cls = 2 then { s1 with store := { s1.store with lockGone := s1.store.lockGone.filter (fun q => homeOf q != inst) } } else s1

/-- The cells of the two queues of engine `n`, its ready list and its slots gone (R455). -/
def queuesClear (s : State) (n : Nat) : State := engMap s n (fun e => { e with inq := [], outq := [], scan := [], scanLost := [], disp := [] })

/-- A domain whose contents are lost or cleared, with every register that it holds at its reset value (R455, Table 17.1).
The KCTL, KMBX and KPWR registers and the pin configuration lie in the Badger domain and stay, SUSPADR and PSTAT.EPOCH of an engine
among them (R275), and the ready list of an engine is its dispatcher's. That a port owes the clearing of its break is the unit's, and
outlives the port (R91). -/
def domClear (s : State) (d : Nat) : State :=
  if d < 64 then
    let e := engGet s d
    tilesClean (tilesClean (tilesClean (engSet s d { pstate := .off, suspadr := e.suspadr, epoch := e.epoch, scan := e.scan,
                                                     scanLost := e.scanLost, disp := e.disp, tickn := e.tickn, tickHeld := e.tickHeld }) 0 d) 1 d) 4 d
  else if d < 72 then
    let k := d - 64
    let out (q : Nat) : Bool := homeOf q != k || decide (2 ^ 17 ≤ q)
    let s1 := { s with store := { s.store with
      recs := s.store.recs.filter (fun q => out q.1), ctl := s.store.ctl.filter (fun q => out q.1),
      ctlEdge := s.store.ctlEdge.filter (fun q => out q.1),
      shared := s.store.shared.filter (fun q => decide (q.1 / 256 ≠ k)),
      portRot := tblDel k s.store.portRot } }
    let s2 := forNats ((List.range 8).map (8 * k + ·)) queuesClear s1
    let s3 := winReset { s2 with trc := tblDel k s2.trc, cells := { s2.cells with rot := tblDel k s2.cells.rot } }
      (trcAdr k 0) (trcAdr k 0xFFF)
    tilesClean s3 2 k
  else if d < 78 then winReset (bankReset s (d - 72) false) (mbkAdr (d - 72) 0) (mbkAdr (d - 72) 0x3FFF)
  else if d = 78 then
    let s1 := engSet (engSet s 64 { pstate := .off }) 65 { pstate := .off }
    let s2 := { s1 with
      sett := { pin := s.sett.pin, pinAt := s.sett.pinAt, st := s.sett.st },
      bat := (batCut s1).bat,
      free := (batCut s1).free,
      store := { s1.store with sett := [], ctlEdge := s1.store.ctlEdge.filter (fun q => decide (q.1 < 2 ^ 17)) },
      cells := { s1.cells with flight := s1.cells.flight.filter (fun f => f.dest != 64 && f.dest != 116),
                               seq := s1.cells.seq.filter (fun q => decide (q.1 < 2 ^ 17)) } }
    let s3 := winReset s2 0x180000 0x183FFF
    tilesClean (tilesClean (tilesClean s3 5 0) 5 1) 5 2
  else if d = 79 then winReset (bankReset s 6 false) 0x184000 0x187FFF
  else if d = 81 then winReset { s with chain := { s.chain with port0 := { owesClear := s.chain.port0.owesClear } } } 0xC0100 0xC013F
  else if d = 82 then winReset { s with chain := { s.chain with port1 := { owesClear := s.chain.port1.owesClear } } } 0xC0140 0xC017F
  else if d = 83 then winReset { s with hub := {}, field := { s.field with filt := s.field.sync } } 0x20000 0x3FFFF
  else if d = 85 then tilesClean { s with mem := { s.mem with staging := [] } } 3 0
  else s

/-- Domain `d` switched off: its contents are lost. -/
def domOff (s : State) (d : Nat) : State := domSet (domClear s d) d 0

/-- An engine that was to go OFF stays on. -/
def offKeep (s : State) (n : Nat) : State := { s with svc := { s.svc with offWait := delNat n s.svc.offWait } }

/-- Domain `d` on again, cleared. An engine domain that is on has its engine not asleep. -/
def domOn (s : State) (d : Nat) : State :=
  let s1 := offKeep (domSet (domClear s d) d 1) d
  if d < 64 then engMap s1 d (fun e => { e with pstate := .run })
  else if d = 78 then
    settMap (engMap (engMap s1 64 (fun e => { e with pstate := .run })) 65 (fun e => { e with pstate := .run }))
      (fun t => { t with st := if s.sett.st = 0 then 1 else s.sett.st })
  else s1

/-- An engine domain switched off, its DROWSE record written if it is traced (R498); an engine that was RETIRED only for want of that is
OFF. -/
def engOffNow (s : State) (n : Nat) : State :=
  svcEngMap (domOff (offKeep (trcEngMark s n 8 12 3 0 0 0) n) n) n (fun v => { v with st := if v.st = 3 then 4 else v.st })

/-- An engine domain switched off. The records that the engine has made leave the trace FIFO for the sink first (R498): at once as far
as the sink takes them (DESIGN CHOICE: no command stands for this flush), and otherwise the engine waits, powered, for the drain that
makes room. -/
def engDomOff (s : State) (n : Nat) : State :=
  if domStat s n = 1 then
    let s1 := trcFlush n 64 s
    if trcFlushed s1 n && trcMarkRoom s1 n then engOffNow s1 n
    else { s1 with svc := { s1.svc with offWait := addNat n s1.svc.offWait } }
  else domOff s n

/-- An engine domain switched off, with the engine OFF; while it waits for its trace, the engine is RETIRED (R441, R498). -/
def engOff (s : State) (n : Nat) : State :=
  let s1 := engDomOff s n
  svcEngMap s1 n (fun v => { v with st := if domStat s1 n = 0 then 4 else 3 })

/-- A cluster goes OFF when it has failed and all its engines are OFF (R456), those of ROLE unused among them. -/
def cluOffCheck (s : State) (k : Nat) : State :=
  if cluMir s k = 3 ∧ (List.range 8).all (fun j => domStat s (8 * k + j) == 0) = true then domOff s (64 + k) else s

/-! Budgets and limits (R38, R39, R42, R57, R59, Table 1.4, Table 4.5). -/

/-- The publish reserve in ns of a period of `units` (R38). -/
def reserveNs (units pct : Nat) : Nat := max ((units * 250 * pct + 99) / 100) 2000

/-- The scan window in ns. -/
def windowNs (units pct : Nat) : Nat := units * 250 - reserveNs units pct

/-- The cycle budget of a period (R39). -/
def budgetOf (units pct : Nat) (frugal : Bool) : Nat :=
  windowNs units pct * (if frugal then 5 else 10) / 8

/-- BOUND[n] of the image in force. -/
def boundOf (img : Image) (n : Nat) : Nat := ((img.bounds[n]?).getD 0).toNat

/-- Admission of R42 over the engines `serve`: profile `p`, period and sub-tick as they would be. -/
def admitted (s : State) (img : Image) (p units subtick : Nat) (serve : Nat → Bool) : Bool :=
  (List.range 64).all (fun n =>
    if !serve n || (p == 1 && n % 2 == 1) then true
    else
      let fox := p == 3 && decide (56 ≤ n) && subtick != 0
      decide (boundOf img n ≤ budgetOf (if fox then subtick else units) s.tick.reserve (p == 4)))

/-- The minimum tick of a profile in units of 250 ns (Table 1.4). -/
def minTick (p : Nat) : Nat := if p = 4 then 4000 else 40

/-- The period meets Table 1.4 for a profile. -/
def periodRange (p units : Nat) : Bool := decide (minTick p ≤ units) && decide (units ≤ 4000000)

/-- The sub-tick period is 0, or at least 10 µs and a divisor of the main period (R57). -/
def subtickFits (units subtick : Nat) : Bool := subtick == 0 || (decide (40 ≤ subtick) && units % subtick == 0)

/-- Period and sub-tick meet Table 1.4 and R57 for a profile. -/
def periodFits (p units subtick : Nat) : Bool :=
  periodRange p units && (subtick == 0 || p == 3) && subtickFits units subtick

/-- Whether INUSE = 1 is allowed at local index `i` with FOX as `fox` says (Table 4.5). -/
def indexAllowed (p i : Nat) (fox : Bool) : Bool :=
  let k := homeOf i
  let low := !Nat.testBit i 13
  match p with
  | 1 => low
  | 2 => k % 2 == 0
  | 3 => if k = 7 then low && fox else !fox
  | 4 => low
  | _ => true

/-! Owners. -/

/-- The copy of ROUTINE.CTL from which context `i` is dispatched: that of its owning engine's cluster (R434). -/
def dispCopy (s : State) (i : Nat) : Nat :=
  liveCopy s (if isMirrored s && homeOf i != cluOf (ownerOf s i) then mirrorOf i else i)

/-- The INUSE contexts by local index with their ROUTINE.CTL copies, one of each mirrored pair (R109, R439, R447). -/
def ctxList (s : State) : List (Nat × Word) :=
  (s.store.ctl.filter (fun q => ctlInuse q.2 && primeCopy s q.1)).map (fun q => (ctxOfCopy s q.1, q.2))

/-- The INUSE contexts that engine `n` owns. -/
def ownedBy (s : State) (n : Nat) : List Nat := ((ctxList s).filter (fun q => ownerWith s q.1 q.2 == n)).map (·.1)

/-- ROUTINE.CTL of context `i` with engine `t` as its owner (R107, R443). -/
def ctlOwned (c : Word) (i t : Nat) : Word :=
  (c &&& 0xFBF8FFFF) ||| BitVec.ofNat 32 (t % 8 * 2 ^ 16 + b2n (cluOf t != homeOf i) * 2 ^ 26)

/-- A Badger change of ROUTINE.CTL (R110, R319, R418): the cluster copy always takes it, and the record unless its tile 0
fails its check. -/
def badgerCtl (s : State) (i : Nat) (c : Word) : State :=
  ctlPut (recPutPart s i 0 4 (fun r => recPutWord r 0x14 c)) i c

/-- Context `i` given to engine `t`. -/
def giveTo (s : State) (t i : Nat) : State := badgerCtl s i (ctlOwned (ctlGet s i) i t)

/-- The cells for some contexts moved from one engine's inbound queue to the end of another's, with their arrival entries;
cells on their way follow (R84). -/
def moveCells1 (s : State) (old new : Nat) (mine : W128 → Bool) : State :=
  let e := engGet s old
  let go := e.inq.filter (fun q => mine q.cell)
  let s1 := engSet s old { e with inq := e.inq.filter (fun q => !mine q.cell) }
  let s2 := go.foldl (fun z q =>
    let d := engGet z new
    if 512 ≤ d.inq.length then qCount z new 4 1 else engSet z new { d with inq := d.inq ++ [q] }) s1
  let fl := s2.cells.flight.map (fun f => if f.dest = old ∧ mine f.cell.cell = true then { f with dest := new } else f)
  let s3 := { s2 with cells := { s2.cells with flight := fl } }
  if go.any (·.arr) then wakeEng (listMaxNote s3 new) new else s3

/-- The same for the engines of a pair. -/
def moveCells (s : State) (old new : Nat) (idx : List Nat) : State :=
  ((pairOf s old).zip (pairOf s new)).foldl (fun z q => moveCells1 z q.1 q.2 (fun c => hasNat (cellIndex c) idx)) s

/-- The scan entry of context `i` moved to the end of another engine's scan entries (R53). -/
def moveScan1 (s : State) (old new i : Nat) : State :=
  if hasNat i (engGet s old).scan then
    wakeEng (listMaxNote (engMap (engMap s old (fun e => { e with scan := delNat i e.scan })) new
      (fun e => { e with scan := e.scan ++ [i] })) new) new
  else s

/-- The same for the engines of a pair. -/
def moveScan (s : State) (old new i : Nat) : State :=
  ((pairOf s old).zip (pairOf s new)).foldl (fun z q => moveScan1 z q.1 q.2 i) s

/-- Context `i` handed over with its cells and entries from engine `old` to engine `t` (R53). -/
def handOver (s : State) (old t i : Nat) : State :=
  if ownerOf s i = t then s else moveScan (moveCells (giveTo s t i) old t [i]) old t i

/-! The entry of an engine in the image (R144, R409). -/

/-- The section of a type and target. -/
def sectOf (img : Image) (type target : Nat) : Option Sect := img.sects.find? (fun x => x.type == type && x.target == target)

/-- The bytes of a section that the pre-check read. -/
def sectBytes (img : Image) (x : Sect) : List Byte :=
  (List.range x.ntiles).flatMap (fun i => tblGet [] (x.first + i) img.pre)

/-- A 128-bit value at byte `a` of a byte string. -/
def bytes128 (bs : List Byte) (a : Nat) : W128 := BitVec.ofNat 128 (leNat ((bs.drop a).take 16))

/-- An engine entry from its 320 bytes. -/
def entryOf (bs : List Byte) : EngEntry :=
  { pcc := bytes128 bs 0,
    caps := (List.range 15).foldl (fun t i => tblSet 0 (i + 1) (bytes128 bs (16 * (i + 1))) t) [],
    vbase := bytesWord bs 0x100, compat := bitAt (bytesWord bs 0x104) 0 }

/-- The entry from which engine `n` starts; in PAIRED both engines of a pair take that of engine 2k (R433). -/
def imgEntry (s : State) (n : Nat) : EngEntry :=
  let t := if isPaired s then n / 2 * 2 else n
  match sectOf s.rel.img 2 t with
  | none => entryOf []
  | some x => entryOf (sectBytes s.rel.img x)

/-- A SPARE engine started, ACTIVE (R443). -/
def startSpare (s : State) (n : Nat) : State :=
  svcEngMap (engineStart s n (imgEntry s n)) n (fun v => { v with st := 1 })

/-! Retirement (R442 to R448). -/

/-- Whether a retirement of engine `n` waits for its open context. -/
def retWaits (s : State) (n : Nat) : Bool :=
  s.svc.acts.any (fun p => match p.act with | .retireTail m _ _ => m == n | _ => false)

/-- The engines that an action retires now, with OFF and the tag that completes. -/
def retList (s : State) (p : SvcPend) : List (Nat × Bool × Nat) :=
  match p.act with
  | .retire n off _ => [(n, off, p.tag)]
  | .retireCluster k off _ =>
    (((List.range 8).map (8 * k + ·)).filter (fun n => svcActive s n && !(isPaired s && n % 2 == 1))).map
      (fun n => (n, off, 0))
  | _ => []

/-- Whether an action is a retirement, and raised by hardware. -/
def isRet (hw : Bool) (a : SvcAct) : Bool :=
  match a with
  | .retire _ _ h => h == hw
  | .retireCluster _ _ h => h == hw
  | _ => false

/-- A retirement put in its place by engine number. -/
def retIns (x : Nat × Bool × Nat) : List (Nat × Bool × Nat) → List (Nat × Bool × Nat)
  | [] => [x]
  | y :: t => if x.1 < y.1 then x :: y :: t else y :: retIns x t

/-- The spares that leave service with a failing cluster. -/
def sparesGone (s : State) (p : SvcPend) : List (Nat × Bool) :=
  match p.act with
  | .retireCluster k off _ =>
    (((List.range 8).map (8 * k + ·)).filter (fun n => (svcEng s n).st == 2)).map (fun n => (n, off))
  | _ => []

/-- The successor of engine `n` (R442): `gone` are the engines that leave service, `taken` the successors of engines with
lower numbers. -/
def succOf (s : State) (gone taken : List Nat) (n : Nat) : Option Nat :=
  let sp := tblGet 255 n s.svc.spare
  let free (m : Nat) : Bool := (svcEng s m).st == 2 && !hasNat m gone && !hasNat m taken
  if decide (sp < 64) && (pairOf s sp).all free && !(isPaired s && sp % 2 == 1) then some sp
  else if isMirrored s && svcActive s (n ^^^ 8) && !hasNat (n ^^^ 8) gone && !retWaits s (n ^^^ 8) then some (n ^^^ 8)
  else none

/-- The successors of the retiring engines, chosen in ascending engine number. -/
def succAll (s : State) (gone : List Nat) : List Nat → List Nat → List (Nat × Option Nat)
  | _, [] => []
  | taken, n :: t =>
    let x := succOf s gone taken n
    (n, x) :: succAll s gone (match x with | none => taken | some m => m :: taken) t

/-- Steps 4 to 6 of R443 for the engine itself: locks, sources in service, and RETIRED or OFF. -/
def retireEnd (s : State) (n : Nat) (off : Bool) (tag : Nat) : State :=
  let s1 := forNats (pairOf s n) (fun z m =>
    let z1 := svcEngMap (engineStop (tgtForce (locksRelease z m) m) m) m (fun v => { v with st := 3 })
    if off then engOff z1 m else z1) s
  hmbComplete (cluOffCheck s1 (cluOf n)) tag 0

/-- A retirement as far as it takes effect at the boundary (R443, R445). -/
def retireNow (s : State) (n : Nat) (off : Bool) (tag : Nat) (succ : Option Nat) : State :=
  if !svcActive s n then hmbComplete s tag 2
  else
    let ctx := (engGet s n).ctxOpen
    let s1 := cntAdd s 0xC004 1
    let s2 := match succ with
      | none => forNats (pairOf s1 n) (fun z m => svcEngMap z m (fun v => { v with succ := 255, moved := false, set := [] }))
          (cntAdd s1 0xC010 1)
      | some t =>
        let z1 := if (svcEng s1 t).st = 2 then forNats (pairOf s1 t) startSpare s1 else cntAdd s1 0xC018 1
        let owned := ownedBy z1 n
        let idx := owned.filter (fun i => decide (some i ≠ ctx))
        let z2 := moveCells (forNats idx (fun z i => giveTo z t i) z1) n t idx
        ((pairOf z2 n).zip (pairOf z2 t)).foldl (fun z q =>
          svcEngMap z q.1 (fun v => { v with succ := q.2, moved := true, set := if q.1 = n then owned else [] })) z2
    match ctx with
    | none => retireEnd s2 n off tag
    | some _ => svcActs s2 (s2.svc.acts ++ [{ tag := tag, act := .retireTail n (succ.getD 255) off }])

/-- Whether a retirement of an engine of cluster `k` waits for an open context. -/
def tailIn (s : State) (k : Nat) : Bool :=
  s.svc.acts.any (fun p => match p.act with | .retireTail n _ _ => cluOf n == k | _ => false)

/-- The RETIRE_ENGINE commands of a cluster whose engines have all finished their retirement completed (R443). -/
def cluSettle (s : State) : State :=
  let done (p : SvcPend) : Bool := match p.act with | .clusterEnd k => !tailIn s k | _ => false
  (s.svc.acts.filter done).foldl (fun z p => hmbComplete z p.tag 0) (svcActs s (s.svc.acts.filter (fun p => !done p)))

/-- What a cluster failure leaves besides the retirements of its engines (R447). A command that named the cluster completes when the
last of them has ended. -/
def cluFailEnd (s : State) (p : SvcPend) : State :=
  match p.act with
  | .retireCluster k off _ =>
    let serves := isMirrored s && cluMir s (k ^^^ 1) != 3
    let s1 := { s with svc := { s.svc with mir := tblSet 0 k 3 s.svc.mir } }
    let s2 := if serves then { s1 with svc := { s1.svc with mir := tblSet 0 (k ^^^ 1) 2 s1.svc.mir } } else s1
    let s3 := forNats ((List.range 8).map (8 * k + ·)) (fun z n =>
      if (svcEng s n).st = 2 then
        (let z1 := svcEngMap (engineStop (tgtForce z n) n) n (fun v => { v with st := 3 })
         if off then engOff z1 n else z1)
      else z) s2
    let s4 := if tailIn s3 k then svcActs s3 (s3.svc.acts ++ [{ p with act := .clusterEnd k }])
      else hmbComplete s3 p.tag 0
    cluOffCheck s4 k
  | _ => s

/-- The retirements of a boundary (R452 steps 1 and 2). -/
def retireAll (s : State) : State :=
  let hw := s.svc.acts.filter (fun p => isRet true p.act)
  let cmd := s.svc.acts.filter (fun p => isRet false p.act)
  let hwl := (hw.flatMap (retList s)).foldl (fun l x => retIns x l) []
  let all := hwl ++ cmd.flatMap (retList s)
  let spares := (hw ++ cmd).flatMap (sparesGone s)
  let gone := all.map (·.1) ++ spares.map (·.1)
  let succs := succAll s gone [] ((all.foldl (fun l x => retIns x l) []).map (·.1))
  let s1 := svcActs s (s.svc.acts.filter (fun p => !isRet true p.act && !isRet false p.act))
  let s2 := all.foldl (fun z x =>
    retireNow z x.1 x.2.1 x.2.2 (((succs.find? (fun q => q.1 == x.1)).map (·.2)).getD none)) s1
  (hw ++ cmd).foldl cluFailEnd s2

/-! Restore and migration. -/

/-- The failing tiles of slice `k` met by the Badger, which reads every record of it (R317, R320). -/
def sliceSeen (s : State) (k : Nat) : State :=
  forNats ((s.mem.bad.filter (fun q => decide (q / 2 ^ 22 = 2 * 128 + k))).map (· % 2 ^ 22)) (fun z t => tileDetect z 2 k t 4) s

/-- Slice `k` copied into its partner slice, with its ROUTINE.CTL copies (R439). A record of which a tile fails is not
copied. -/
def sliceCopy (s0 : State) (k : Nat) : State :=
  let s := sliceSeen s0 k
  let keep (q : Nat) : Bool := homeOf q != k ^^^ 1
  let good (i : Nat) : Bool := !tileBad s 2 k (2 * (i % 2 ^ 14)) && !tileBad s 2 k (2 * (i % 2 ^ 14) + 1)
  let src := s.store.recs.filter (fun q => homeOf q.1 == k && good q.1)
  let cs := s.store.ctl.filter (fun q => homeOf q.1 == k && good q.1)
  let s1 := { s with store := { s.store with
    recs := src.foldl (fun t q => tblSet 0 (mirrorOf q.1) q.2 t) (s.store.recs.filter (fun q => keep q.1)),
    ctl := cs.foldl (fun t q => tblSet 0 (mirrorOf q.1) q.2 t) (s.store.ctl.filter (fun q => keep q.1)) } }
  tilesClean s1 2 (k ^^^ 1)

/-- Whether engine `n`, or the engine that it works in lockstep with, has a context open: it keeps its old contexts until it has
closed that one (R53, Table 8.5a). -/
def ownerBusy (s : State) (n : Nat) : Bool := (pairOf s n).any (fun m => (engGet s m).ctxOpen.isSome)

/-- A BACK restore at its boundary (R450, R451): engine `e` is started and takes back the contexts that its successor still
owns. An engine that has become ACTIVE as a successor meanwhile is not started again, and one that has left service completes the
command with STATE (DESIGN CHOICE: R450 has it SPARE here, and does not say what happens when it is not). -/
def backNow (s : State) (tag e : Nat) : State :=
  let v := svcEng s e
  if v.st ≠ 1 ∧ v.st ≠ 2 then hmbComplete s tag 2 else
  let s1 := if v.st = 2 then forNats (pairOf s e) startSpare s else s
  let idx := v.set.filter (fun i => ctlInuse (ctlGet s1 i) && ownerOf s1 i == v.succ)
  let s2 := forNats idx (fun z i =>
    if ownerBusy s1 v.succ then svcActs z (z.svc.acts ++ [{ tag := 0, act := .handover v.succ i e }])
    else moveCells (giveTo z e i) v.succ e [i]) s1
  let s3 := forNats (pairOf s2 e) (fun z m => svcEngMap z m (fun w => { w with moved := false, set := [] })) s2
  hmbComplete (cntAdd s3 0xC008 1) tag 0

/-- A migration at its boundary (R449, Table 16.7). -/
def migrateNow (s : State) (tag target first count : Nat) : State :=
  if !svcActive s target || retWaits s target then hmbComplete s tag 2
  else
    let idx := (((ctxList s).map (·.1)).filter (fun i => decide (first ≤ i ∧ i < first + count))).filter
      (fun i => ownerOf s i != target)
    let s1 := forNats idx (fun z i =>
      let o := ownerOf z i
      if ownerBusy z o then
        svcActs z (z.svc.acts ++ [{ tag := 0, act := .handover o i target }])
      else moveCells (giveTo z target i) o target [i]) s
    hmbComplete (cntAdd s1 0xC00C idx.length) tag 0

/-- Whether a tick number that a command carries has come: it is not newer than TICKN by the arithmetic of R14. One that is 2^63 away,
which R14 leaves unordered, counts as come (DESIGN CHOICE). -/
def tickDue (s : State) (m : W64) : Bool := !tickAfter s.tick.tickn m

/-- The due BACK restores, in order of acceptance. -/
def backAll (s : State) : State :=
  let due (p : SvcPend) : Bool := match p.act with | .restore _ true m ready => ready && tickDue s m | _ => false
  (s.svc.acts.filter due).foldl (fun z p => match p.act with | .restore e _ _ _ => backNow z p.tag e | _ => z)
    (svcActs s (s.svc.acts.filter (fun p => !due p)))

/-- The due migrations, in order of acceptance. -/
def migrateAll (s : State) : State :=
  let due (p : SvcPend) : Bool := match p.act with | .migrate _ _ _ m => tickDue s m | _ => false
  (s.svc.acts.filter due).foldl (fun z p => match p.act with
      | .migrate t f c _ => migrateNow z p.tag t f c
      | _ => z) (svcActs s (s.svc.acts.filter (fun p => !due p)))

/-! Bank swaps (R310, R311, Table 8.5a). -/

/-- Whether engine `n` is inside a micro-routine. -/
def inMicro (e : Engine) : Bool :=
  match e.hold with
  | .micro => true
  | .farLoad true => true
  | .farStore true => true
  | .parity false _ => true
  | _ => false

/-- Whether a save bank holds a micro-trap whose micro-PC lies in the micro-RAM. -/
def bankInRam (v : Save) : Bool := v.bank.valid && decide (0x800 ≤ v.bank.upc ∧ v.bank.upc ≤ 0xBFF)

/-- Whether the condition of the engine lets it exchange its banks (Table 8.5a). One halted by debug at a trap point waits for the end of
its routine, as one inside a routine does (DESIGN CHOICE: such an engine meets two rows of Table 8.5a, and R256 does not say which goes
first; log 70). -/
def canSwap (e : Engine) : Bool :=
  e.ctxOpen.isNone && !inMicro e && !bankInRam e.save1 && !bankInRam e.save2 && !bankInRam e.save3 && e.run != .mcheck

/-- Whether a SWAP_UBANK has still to make its exchange for engine `n`, where `on` holds of its tick number. -/
def swapNames (on : W64 → Bool) (n : Nat) (p : SvcPend) : Bool :=
  match p.act with
  | .swapUbank mask m => bitAt mask n && on m
  | _ => false

/-- Whether a SWAP_UBANK whose boundary has come still waits for engine `n`. -/
def swapDue (s : State) (n : Nat) : Bool := (engGet s n).swapPend && s.svc.acts.any (swapNames (tickDue s) n)

/-- The pending actions once the oldest SWAP_UBANK that `on` lets act has made its exchange for engine `n`. -/
def swapMade (on : W64 → Bool) (n : Nat) : List SvcPend → List SvcPend
  | [] => []
  | p :: t =>
    match p.act with
    | .swapUbank mask m =>
      if bitAt mask n && on m then { p with act := .swapUbank (mask &&& ~~~((1 : W64) <<< n)) m } :: t else p :: swapMade on n t
    | _ => p :: swapMade on n t

/-- One exchange of the active and the inactive pair, of the oldest SWAP_UBANK that is due; a bundle that has issued and is held
completes under the old pair (R310). A later command that names the engine still waits for its own exchange. -/
def swapOne (s : State) (n : Nat) : State :=
  let l := swapMade (tickDue s) n s.svc.acts
  engMap (engCount (svcActs s l) n 0x9118 1) n (fun e => { e with
    ubank := !e.ubank, swapPend := l.any (swapNames (fun _ => true) n), inact := 2,
    heldBank := if e.hold = .none then none else some (runBank e) })

/-- The due exchanges that no longer have to wait, one for each SWAP_UBANK; the engines of a pair wait for each other. -/
def swapTry (s : State) (n : Nat) : State :=
  if swapDue s n && (pairOf s n).all (fun m => canSwap (engGet s m)) && !badgerDead s then
    let k := (s.svc.acts.filter (swapNames (tickDue s) n)).length
    forNats (pairOf s n) (fun z m => forNats (List.range k) (fun y _ => swapOne y m) z) s
  else s

/-- The SWAP_UBANK commands whose engines have all exchanged completed. -/
def swapSettle (s : State) : State :=
  let done (p : SvcPend) : Bool := match p.act with
    | .swapUbank mask m => tickDue s m && (List.range 64).all (fun n => !(bitAt mask n && (engGet s n).swapPend))
    | _ => false
  (s.svc.acts.filter done).foldl (fun z p => hmbComplete z p.tag 0) (svcActs s (s.svc.acts.filter (fun p => !done p)))

/-- Step 4 of Table 2.3. -/
def swapAll (s : State) : State := swapSettle (forNats (List.range 64) swapTry s)

/-- Whether step 4 or step 5 waits for engine `n`; a swap does not wait for one in a machine-check halt, to which it is not applied
(Table 8.5a). -/
def boundaryWaits (s : State) (n : Nat) : Bool :=
  (swapDue s n && (engGet s n).run != .mcheck) || s.svc.acts.any (fun p => match p.act with
    | .retireTail m _ _ => m == n
    | .handover m _ _ => m == n
    | _ => false)

/-- Step 5 of Table 2.3 (R452); a stopped Badger carries none of it out (R536). -/
def ownersChange (s : State) : State :=
  if badgerDead s then s
  else
    let s1 := migrateAll (backAll (retireAll s))
    forNats ((List.range 64).filter (boundaryWaits s1)) (fun z n => engCount z n 0x7018 1) s1

/-- A pending hand-over put in its place by local index. -/
def handIns (p : SvcPend) (l : List SvcPend) : List SvcPend :=
  let key (q : SvcPend) : Nat := match q.act with | .handover _ i _ => i | _ => 0
  l.takeWhile (fun q => decide (key q ≤ key p)) ++ p :: l.dropWhile (fun q => decide (key q ≤ key p))

/-- What follows when the open context of engine `n` is closed (R53, R256, R443): contexts handed over in ascending local index, the
rest of a retirement, and a bank swap that waited. -/
def ctxClosed (s : State) (n : Nat) : State :=
  if badgerDead s || (pairOf s n).any (fun m => (engGet s m).ctxOpen.isSome) then s
  else
    let head := if isPaired s && decide (n < 64) then n / 2 * 2 else n
    let mine (p : SvcPend) : Bool := match p.act with
      | .retireTail m _ _ => m == head
      | .handover m _ _ => m == head
      | _ => false
    let isHand (p : SvcPend) : Bool := match p.act with | .handover _ _ _ => true | _ => false
    let mineNow := s.svc.acts.filter mine
    let acts := (mineNow.filter isHand).foldl (fun l p => handIns p l) [] ++ mineNow.filter (fun p => !isHand p)
    if acts.isEmpty && !(engGet s n).swapPend then s else
    let s1 := svcActs s (s.svc.acts.filter (fun p => !mine p))
    let s2 := acts.foldl (fun z p => match p.act with
      | .retireTail m t off =>
        if t < 64 then
          retireEnd (forNats (ownedBy z m) (fun y i => handOver y m t i) z) m off p.tag
        else retireEnd z m off p.tag
      | .handover _ i t => handOver z (ownerOf z i) t i
      | _ => z) s1
    swapSettle (swapTry (cluSettle s2) n)

/-! Profile and period changes (R35, R437 to R440). -/

/-- Every engine predictor in the form of the tick edge (R271, R272): `proving` says that PROVING takes effect here. -/
def predEdge (s : State) (proving : Bool) : State :=
  if proving then forNats (List.range 64) (fun z n => wakeEng (predForm z n true) n) s
  else if isProving s then s
  else forNats ((s.eng.filter (fun q => decide (q.1 < 64) && q.2.ptag)).map (·.1)) (fun z n => predForm z n false) s

/-- The records that must have a ROUTINE.CTL word of zero in a set of slices lose it (R418, R440). -/
def ctlZero (s : State) (pick : Nat → Bool) : State :=
  let bad := s.mem.bad.filter (fun k => decide (k / 2 ^ 29 = 2))
  let tiles := (bad.map (fun k => k / 2 ^ 22 % 128 * 2 ^ 14 + k % 2 ^ 22 / 2)).filter
    (fun i => tileBad s 2 (homeOf i) (2 * (i % 2 ^ 14)))
  let idx := ((s.store.recs.filter (fun q => decide (recCtl q.2 ≠ 0))).map (·.1) ++ s.store.ctl.map (·.1) ++ tiles).filter pick
  forNats (idx.foldl (fun l i => addNat i l) []) (fun z i => badgerCtl z i 0) s

/-- Whether the loaded contexts meet step 4 of Table 16.4 for profile `p`. -/
def profileFits (s : State) (p : Nat) : Bool :=
  (ctxList s).all (fun q => indexAllowed p q.1 (ctlFox q.2)) && (p == 2 || s.store.ctl.all (fun q => !ctlXown q.2))

/-- The mirror state of every cluster set, as a release does, a failed one included (R441). -/
def mirSet (s : State) (v : Nat) : State :=
  { s with svc := { s.svc with mir := (List.range 8).foldl (fun t k => tblSet 0 k v t) [] } }

/-- The mirror states that a change of profile gives (R440, R447): a failed cluster stays so, and its partner has the only copy in
MIRRORED. -/
def mirChange (s : State) (mirrored : Bool) : State :=
  let v (k : Nat) : Nat :=
    if cluMir s k = 3 then 3 else if !mirrored then 0 else if cluMir s (k ^^^ 1) = 3 then 2 else 1
  { s with svc := { s.svc with mir := (List.range 8).foldl (fun t k => tblSet 0 k (v k) t) [] } }

/-- The profile changed (R440). -/
def profileNow (s : State) (p : Nat) : State :=
  let was := s.svc.profile
  let s1 := { s with svc := { s.svc with profile := p, fill := false, vlowreq := p == 4 } }
  let s2 := if was = 2 ∧ p ≠ 2 then mirChange (ctlZero s1 (fun i => homeOf i % 2 == 1)) false else s1
  let s3 := if p = 2 then mirChange s2 true else s2
  if p = 5 then predEdge s3 true else s3

/-- The schedule anchored anew at the present tick (R35). -/
def reanchor (s : State) (units subtick : Nat) : State :=
  let k := (s.tick.tickn - s.tick.basen).toNat
  { s with tick := { s.tick with
      phase := s.tick.phase + BitVec.ofNat 64 (k * s.tick.units * 250), basen := s.tick.tickn, units := units,
      subtick := subtick, nextK := 1 } }

/-- A mirror fill that ends without the change it was for: the copies that it has made lose their ROUTINE.CTL words, as they do when
MIRRORED is left (DESIGN CHOICE: R440 says only that the change is dropped). -/
def fillDrop (s : State) : State :=
  if s.svc.fill then ctlZero { s with svc := { s.svc with fill := false } } (fun i => homeOf i % 2 == 1) else s

/-- Whether a pending change has the supply that it needs: one out of FRUGAL waits until the BN9 has acknowledged the raised supply,
and VLOWACK, which LOWV follows, must still show it (R464, R528). -/
def voltReady (s : State) (c : PendChange) : Bool :=
  c.voltOk && !(isFrugal s && c.profile.isSome && c.profile != some 4 && s.svc.lowv)

/-- Step 3 of Table 2.3: a pending change that is due and ready applies. -/
def changeApply (s : State) : State :=
  match s.tick.pend with
  | none => s
  | some c =>
    if c.fillOk && voltReady s c && tickDue s c.m then
      let s1 := { s with tick := { s.tick with pend := none } }
      match c.profile with
      | none => pulse (hmbComplete (reanchor s1 c.units c.subtick) c.tag 0) 299
      | some p =>
        if profileFits s1 p then pulse (hmbComplete (reanchor (profileNow s1 p) c.units c.subtick) c.tag 0) 299
        else hmbComplete (cntAdd (fillDrop s1) 0xC020 1) c.tag 8
    else s

/-! HOLD (R417, R431, R423). -/

/-- The engines `ns` stopped (R417), with nothing left to dispatch. -/
def enginesStop (s : State) (ns : List Nat) : State := forNats ns (fun z n => scanClear (engineStop z n) n) s

/-- Every engine outside the Sett but the Badger stopped (R417), and the tick generator stopped. When it stops in the middle of a tick
(R423, R475), the buffer of that tick is left as it is, with WRITING in its header, and no later edge completes it (DESIGN CHOICE: R127
does not say what becomes of it). -/
def stopOuter (s : State) : State :=
  let s1 := enginesStop s (List.range 64)
  { s1 with
    tick := { s1.tick with running := false },
    pub := { s1.pub with writing := false } }

/-- Every engine but the Badger and the tick generator stopped, and the Sett in IDLE (R417, Table 14.1). -/
def stopAll (s : State) : State := settIdle (enginesStop (stopOuter s) [64, 65])

/-- The engines of the pair of engine `n` set RETIRED at the entry into HOLD: their locks are released (R118), and the sources in
service there are completed (R340). -/
def abortRetired (s : State) (n : Nat) : State :=
  forNats (pairOf s n) (fun z m => svcEngMap (tgtForce (locksRelease z m) m) m (fun v => { v with st := 3 })) s

/-- The end of one pending service action at the entry into HOLD (R431). The engines of a cluster that failed of itself are set RETIRED
as one whose retirement hardware raised is (DEDUCED: R431 speaks of the halted engine of such a retirement). -/
def actAbort (s : State) (p : SvcPend) : State :=
  match p.act with
  | .retire n _ true => abortRetired (cntAdd s 0xC004 1) n
  | .retireCluster _ _ true =>
    forNats ((retList s p).map (·.1)) (fun z n => abortRetired (cntAdd z 0xC004 1) n) s
  | .loadUbank mask _ =>
    hmbComplete (forNats ((List.range 64).filter (fun n => bitAt mask n)) (fun z n =>
      engMap z n (fun e => { e with inact := if e.inact = 1 then 0 else e.inact })) s) p.tag 2
  | .hold => hmbComplete s p.tag 0
  | .retireTail n _ _ => hmbComplete (abortRetired s n) p.tag 2
  | .restore e _ _ false =>
    hmbComplete (if (svcEng s e).st = 5 then cluOffCheck (forNats (pairOf s e) engOff s) (cluOf e) else s) p.tag 2
  | _ => hmbComplete s p.tag 2

/-- A pending service change is dropped with STATE, and a fill for it is undone. -/
def pendAbort (s : State) : State :=
  match s.tick.pend with
  | none => s
  | some c => hmbComplete (fillDrop { s with tick := { s.tick with pend := none } }) c.tag 2

/-- Every bank swap that waits ends. -/
def swapsEnd (s : State) : State :=
  forNats (List.range 64) (fun z n => engMap z n (fun e => { e with swapPend := false })) s

/-- The entry into HOLD of a block whose engines have stopped: pending actions ended, a pending change dropped with STATE. -/
def holdFrom (s1 : State) : State :=
  let s2 := s1.svc.acts.foldl actAbort (svcActs s1 [])
  setBState (pendAbort (swapsEnd s2)) .hold

/-- The entry into HOLD (R417, R431). -/
def holdEnter (s : State) : State := holdFrom (stopAll s)

/-- The Sett-image section. -/
def settSect (img : Image) : Option Sect := img.sects.find? (fun x => x.type == 7)

/-- The Sett failed before RUN (R422). -/
def settLost (s : State) : Bool := (settSect s.rel.img).isSome && s.sett.st == 4

/-- The record of class RELEASE (R415, R423). -/
def relRecord (s : State) (cause tile : Nat) : State := fltWrite s 9 0 (BitVec.ofNat 32 cause) (BitVec.ofNat 32 tile)

/-- A release that fails (R423): `status` completes RELEASE. -/
def relFail (s : State) (cause tile status : Nat) : State :=
  let tag := s.rel.tag
  let s1 := cntAdd (relRecord (holdEnter s) cause tile) 0xB034 1
  let s2 := { s1 with rel := { s1.rel with phase := 5, fcause := cause, lastst := status, tag := 0, atEdge := false, next := none,
                                           failtile := if cause = 2 ∨ cause = 5 then tile else s1.rel.failtile } }
  hmbComplete s2 tag status

/-- The Sett enters FAILED (R383); before RUN that fails the release in the same cycle, with cause 4 (R422, R423). -/
def settDown (s : State) (cause : Nat) : State :=
  let s1 := settFail s cause
  if s1.bstate == .verify && settLost s1 && !badgerDead s1 then relFail s1 4 0 0xE else s1

/-- Whether a release is in COPY or VERIFY. -/
def relCopying (s : State) : Bool := s.bstate == .verify

/-- A release whose pre-check has not ended is abandoned (R423, cause 6). -/
def relDrop (s : State) : State :=
  match s.rel.next with
  | none => s
  | some _ =>
    let tag := s.rel.tag
    let s1 := relRecord (cntAdd s 0xB034 1) 6 0
    hmbComplete { s1 with rel := { s1.rel with next := none, phase := 5, fcause := 6, lastst := 2, tag := 0, atEdge := false } } tag 2

/-- The release in hand is abandoned, in whatever phase it is. -/
def relAbandon (s : State) : State := if relCopying s then relFail s 6 0 2 else relDrop s

/-- A command refused at acceptance (R505, R506). -/
def mbxRefuse (s : State) (st : Nat) : State :=
  let s1 := cntAdd s 0x40024 1
  let s2 := if st = 3 then cntAdd s1 0x4002C 1 else if st = 2 then cntAdd s1 0x40028 1 else s1
  { s2 with mbx := { s2.mbx with busy := false, status := st, tag := 0 } }

/-- The command in the mailbox that has not been accepted when the Badger stops, refused by the first check of Table 19.2 that
fails (R505, R536). -/
def mbxDead (s : State) : State :=
  let code := field s.mbx.cmd 7 0
  if s.mbx.busy then mbxRefuse s (if 4096 < field s.mbx.cmd 31 16 then 3 else if code = 0 ∨ 0x11 < code then 4 else 2) else s

/-- An enumeration in hand completes with STATE, which is its completion event (source 291). -/
def offerAbort (s : State) : State :=
  match s.chain.offer with
  | none => s
  | some q => pulse (hmbComplete { s with chain := { s.chain with offer := none } } q.2.1 2) 291

/-- What stops with the Badger (R536): a release ends, and every deferred command in flight completes with STATE. -/
def badgerStops (s : State) : State :=
  let s1 := relAbandon s
  let s2 := if s.rel.next.isSome && s1.bstate == .awaitImage then setBState s1 .hold else s1
  let s3 : State := s2.svc.acts.foldl (fun z p => hmbComplete z p.tag 2) (svcActs s2 [])
  mbxDead (swapsEnd (offerAbort (pendAbort s3)))

end Sys2Proof.Machine
end

