-- ==== Sys2Proof/Machine/Except.lean ====
section
/-! DEFINITION. Taking an exception and returning from one (R238 to R260), the machine-check halt (R243, R536), the pair
mismatch (R446) and the entry of an event (R240, R339). -/

namespace Sys2Proof.Machine

/-- The saved address, LC and flags of an entry (Table 8.4). -/
structure ExcFrame where
  xpc : Word
  xlc : Word
  dslot : Bool := false
  rep : Bool := false
  utrap : Bool := false
  sidefx : Bool := false
  uslot : Nat := 0
  deriving DecidableEq, Repr

/-- The frame of a fault in the bundle at hand, and of an event in its place: the bundle, the transfer of a delay slot, or
the prefix of a repeat (Table 8.4). -/
def frameOf (e : Engine) : ExcFrame :=
  match e.xfer with
  | some x => { xpc := x.src, xlc := x.lcBefore, dslot := true }
  | none =>
    match e.rep with
    | some r => { xpc := r.prefixAt, xlc := e.lc, rep := true }
    | none => { xpc := e.pc, xlc := e.lc }

/-- XSTt (Table 8.2). -/
def xstWord (e : Engine) (f : ExcFrame) : Word :=
  BitVec.ofNat 32 (b2n e.compat * 2 ^ 31 + e.ring * 2 ^ 29 + b2n f.utrap * 2 ^ 28 + b2n f.dslot * 2 ^ 27 +
    b2n f.rep * 2 ^ 26 + b2n f.sidefx * 2 ^ 25 + b2n e.ctxOpen.isSome * 2 ^ 24 + f.uslot * 2 ^ 21 + e.level * 2 ^ 16)

/-- XCAUt (Table 8.3). -/
def xcauWord (olevel ocause cause : Nat) : Word := BitVec.ofNat 32 (olevel * 2 ^ 13 + ocause * 2 ^ 8 + cause)

/-- The sequencer without a routine. -/
def microIdle (u : Micro) : Micro :=
  { u with stack := [], donePos := [], done := [], late := none, park := [], sRd := none, sRd1 := none, sPd := none, sLc := none, rom := false, pts := 0,
           prog := none, stall := false }

/-- Whether an act is the data that a far load of the bundle has received. -/
def isLd (a : Act) : Bool := match a with | .ld _ _ _ => true | _ => false

/-- The registers after an entry at level `t` with cause `c` (R241). -/
def excRegs (e : Engine) (t c olevel ocause : Nat) (adr : Word) (f : ExcFrame) : Engine :=
  let bank : SaveBank :=
    if f.utrap then { valid := true, upc := e.u.upc, stack := e.u.stack, ut := [e.u.ut0, e.u.ut1, e.u.ut2, e.u.ut3],
                      slot := f.uslot, donePos := e.u.donePos, done := e.u.done.filter (fun a => !isLd a), late := e.u.late,
                      park := e.u.park, pts := e.u.pts, prog := e.u.prog, xfer := e.xfer }
    else { (saveGet e t).bank with valid := false }
  let v : Save := { xpc := f.xpc, xst := xstWord e f, xlc := f.xlc, xcau := xcauWord olevel ocause c, xadr := adr,
                    xpcc := e.pcc, bank := bank }
  { saveSet e t v with
    level := t, repact := false, ring := 0, compat := e.startCompat, pcc := e.startPcc,
    pc := e.vbase + BitVec.ofNat 32 (t * 0x400 + c * 0x20), xfer := none, rep := none, hold := .none, heldBank := none,
    pushDone := 0, pushPut := 0, told := {}, u := microIdle e.u, noEvent := false }

/-- An entry at level `t` with its counters, its trace record and, at level 3, its fault record (R241, R244, R257). S0 and S1,
of which only S0's outcome takes effect, write one record (R382). -/
def excEnter (s : State) (n t c olevel ocause : Nat) (adr : Word) (f : ExcFrame) : State :=
  let between := olevel == 1 || (olevel == 2 && (ocause == 16 || ocause == 17))
  let s1 := engMap (fetchLeft s n (!between)) n (fun e => excRegs e t c olevel ocause adr f)
  let s2 := engCount s1 n (0x7000 + 4 * (t - 1)) 1
  let s3 := if f.utrap then engCount s2 n 0x7014 1 else s2
  let s4 := if t = 3 ∧ n ≠ 65 then fltWrite s3 6 (BitVec.ofNat 32 n) f.xpc (xcauWord olevel ocause c) else s3
  trcEngMark s4 n 5 9 t f.xpc (xcauWord olevel ocause c) adr

/-- A retirement raised by hardware for the engine or pair of engine `n`, once (R430, R444). -/
def raiseRetire (s : State) (n : Nat) : State :=
  let h := if isPaired s then n / 2 * 2 else n
  if badgerDead s || !svcActive s h ||
     s.svc.acts.any (fun p => match p.act with | .retire m _ true => m == h | .retireTail m _ _ => m == h | _ => false)
  then s
  else svcAdd s 0 (.retire h false true)

/-- An engine halted, its open context closed without write-back and its pending cells discarded (R243). -/
def haltEngine (s : State) (n : Nat) : State :=
  let d := dropPending (fetchLeft s n true) n
  engMap (engCount d.2 n 0x7010 d.1) n (fun e =>
    { e with run := .mcheck, ctxOpen := none, hold := .none, xfer := none, rep := none, heldBank := none, pushDone := 0,
             pushPut := 0, told := {}, u := microIdle e.u, dbg := { e.dbg with pending := false } })

/-- The machine-check halt of engine `n` (R243): `level` and `cause` are those of the exception that could not be taken. A
pair halts and retires together (R446), the Sett enters FAILED (R383), and a halt of the Badger has the consequences of
R536. The record carries the engine's PC: after SYSC or BRK the bundle after it, and for a fault in a delay slot or a repeat body that slot
or body; and in PAIRED the halt counts in EXC[].MCHALT of the engine that raised it alone (DESIGN CHOICES: R243 says 'the bundle address'
without saying which one then, and Table 8.5 does not say whether the halt of the other engine counts; log 76). -/
def machineCheck (s : State) (n level cause : Nat) : State :=
  let adr := (engGet s n).pc
  if isSettEng n then settDown (pulse (forNats [64, 65] haltEngine s) 306) 4
  else
    let halted := if n < 64 then pairOf s n else [n]
    let s1 := engCount (forNats halted haltEngine s) n 0x700C 1
    let s2 := pulse (fltWrite s1 7 (BitVec.ofNat 32 n) adr (xcauWord level cause cause)) 306
    let h := if isPaired s2 then n / 2 * 2 else n
    if n < 64 then ctxClosed (tgtForce (raiseRetire s2 n) h) h
    else badgerStops s2

/-- A fault taken in engine `n` with a frame (R242, R243). -/
def takeTrap (s : State) (n : Nat) (tr : Trap) (f : ExcFrame) : State :=
  let lv := (engGet s n).level
  let ol := causeLevel tr.cause
  let oc := causeCode tr.cause
  if 3 ≤ lv then machineCheck s n ol oc
  else if ol = 3 then excEnter s n 3 oc ol oc tr.adr f
  else if max 2 (lv + 1) = 2 then excEnter s n 2 oc ol oc tr.adr f
  else excEnter s n 3 1 ol oc tr.adr f

/-- The two engines of a pair disagree at a bundle retirement (R446). -/
def pairMismatch (s : State) (n : Nat) : State :=
  let h := n / 2 * 2
  let adr := (engGet s h).pc
  let d := (dropPending s h).1
  let s1 := forNats [h, h + 1] (fun z m => engMap (dropPending (fetchLeft z m true) m).2 m (fun e =>
    { e with run := .mcheck, ctxOpen := none, hold := .none, xfer := none, rep := none, heldBank := none, pushDone := 0,
             pushPut := 0, told := {}, u := microIdle e.u })) s
  let s2 := cntAdd (engCount s1 h 0x7010 d) 0xC014 1
  ctxClosed (raiseRetire (fltWrite s2 11 (BitVec.ofNat 32 h) adr 0) h) h

/-- Each of c1 to c15 whose RMASK bit for ring `r` is 0 becomes null (R260). -/
def ringClear (e : Engine) (r : Nat) : Engine := { e with c := e.c.filter (fun q => descRing q.2 r) }

/-- The ring changed, with R260 when it rises in compatibility mode. -/
def ringSet (e : Engine) (r : Nat) : Engine :=
  let e1 := { e with ring := r }
  if e.compat && decide (e.ring < r) then ringClear e1 r else e1

/-- The syllable whose micro-routine runs in engine `n`. -/
def runningSyl (s : State) (n : Nat) : Option (List Syl × Syl) :=
  let e := engGet s n
  match fetchBundle s n (pcAt e.pc) with
  | .bundle ys _ => (ys[e.u.pos]?).map (fun y => (ys, y))
  | _ => none

/-- Whether the guard of a syllable holds (R160). -/
def guardOf (e : Engine) (y : Syl) : Bool := regP e (sylPred y.word) != sylNeg y.word

/-- The order in which the micro-routines of a bundle run (R254): positions by slot. -/
def microOrder (e : Engine) (ys : List Syl) : List Nat :=
  let pos := (List.range ys.length).filter (fun i => match ys[i]? with
    | some y => sylUcode y && guardOf e y
    | none => false)
  (List.range 6).flatMap (fun k => pos.filter (fun i => slotOf ys i == k))

/-- The micro-temporaries, MAR, MDR, the last result and the flags after a routine of the micro-ROM: free values, since the
manual does not give its words (R281, R293); after a return to a micro-trap MAR, MDR and the flags have no defined value
either (R294). -/
def microFree (s : State) (n : Nat) : State :=
  let f := s.free
  let w := Config.romTemp (f + 7)
  engMap { s with free := f + 8 } n (fun e => { e with u := { e.u with
    ut0 := Config.romTemp f, ut1 := Config.romTemp (f + 1), ut2 := Config.romTemp (f + 2), ut3 := Config.romTemp (f + 3),
    mar := Config.romTemp (f + 4), mdr := Config.romTemp (f + 5), lastY := Config.romTemp (f + 6),
    flags := { z := bitAt w 3, n := bitAt w 2, c := bitAt w 1, v := bitAt w 0 } } })

/-- The micro-state of a save bank put back so that the syllable in slot USLOT of the bundle at XPC resumes (R246, R254): the routines
that had completed do not run again, and the faults that waited wait again. Where the bundle cannot be fetched, or holds no such
syllable, it runs from its start. -/
def microResume (s : State) (n : Nat) (v : Save) : State :=
  let inRep := bitAt v.xst 26
  let body := fun (z : State) => if inRep then afterBundle z n (pcAt v.xpc) else pcAt v.xpc
  let s1 := engMap s n (fun e => { e with
    pc := BitVec.ofNat 32 (body s), repact := inRep, xfer := v.bank.xfer,
    rep := if inRep then some { prefixAt := v.xpc, repi := decide (sylMajor (fetchWord s n (pcAt v.xpc)) = 0x57) } else none })
  match fetchBundle s1 n (body s1) with
  | .bundle ys _ =>
    let e := engGet s1 n
    let order := microOrder e ys
    match order.find? (fun i => slotOf ys i == field v.xst 23 21) with
    | none => s
    | some i =>
      let ut (k : Nat) : Word := (v.bank.ut[k]?).getD 0
      let rom := match ys[i]? with | some y => sylRom y | none => false
      engMap (microFree s1 n) n (fun e => { e with hold := .micro, u := { microIdle e.u with
        upc := v.bank.upc, stack := v.bank.stack, ut0 := ut 0, ut1 := ut 1, ut2 := ut 2, ut3 := ut 3, pos := i, rom := rom,
        done := v.bank.done, donePos := delNat i v.bank.donePos, late := v.bank.late, park := v.bank.park,
        pts := v.bank.pts, prog := v.bank.prog } })
  | _ => s

/-- The registers after an ERET from level `t` (R246). -/
def eretRegs (e : Engine) (t : Nat) : Engine :=
  let v := saveGet e t
  let compat := bitAt v.xst 31
  let e1 := saveSet e t { v with bank := { v.bank with valid := false } }
  let e2 := { e1 with pcc := v.xpcc, compat := compat, lc := v.xlc, level := field v.xst 17 16, pc := v.xpc, xfer := none,
                      rep := none, repact := false, hold := .none, heldBank := none, told := {}, u := microIdle e.u,
                      noEvent := decide (field v.xst 17 16 = 0) }
  ringSet e2 (if compat then field v.xst 30 29 else 0)

/-- ERET in engine `n` (R246, R248, R340). -/
def eretTake (s : State) (n : Nat) : State :=
  let e := engGet s n
  let v := saveGet e e.level
  if bitAt v.xst 28 && (!v.bank.valid || v.bank.bad) then
    takeTrap s n { cause := .saveBank, adr := v.xpc } (frameOf e)
  else
    let s1 := engMap (fetchLeft s n true) n (fun e => eretRegs e e.level)
    let s2 := if n < 64 ∧ e.level = 1 ∧ (engGet s1 n).level = 0 then tgtComplete s1 n else s1
    let s3 := if bitAt v.xst 28 then microResume s2 n v else s2
    swapSettle (swapTry s3 n)

/-- Whether engine `n` runs a repeat of the prefix REP (R171). -/
def inRepBody (e : Engine) : Bool := match e.rep with | some r => !r.repi | none => false

/-- Whether the routine stands at a word with a trap point: one in micro-RAM whose TRAP bit is 1, or one of the micro-ROM, which
reaches a trap point within 64 micro-cycles, and within 8 in the library (R281, R294, R296). -/
def trapWord (e : Engine) (y : Syl) : Bool :=
  sylUtrap y && (e.u.rom || decide (e.u.upc < 0x800) || bitAt (microWord e e.u.upc) 136)

/-- Whether the micro-routine that runs stands at a trap point at which an event or a halt is taken: outside a REP body, in a delay
slot too (R171, R240, R294). -/
def atTrapPoint (s : State) (n : Nat) : Bool :=
  let e := engGet s n
  e.hold == .micro && !inRepBody e &&
  (match runningSyl s n with
   | some q => trapWord e q.2
   | none => false)

/-- The waits of R228; a TICKWAIT whose edge has come waits no longer. -/
def waitHold (h : Hold) : Bool := h == .lock || h == .dispatch || h == .tick

/-- Whether engine `n` stands between two bundles, and not between a transfer and its delay slot, inside a REP, or inside a bundle of
which a routine has run or has stopped at a trap point (R175, R240, R254). -/
def betweenBundles (e : Engine) : Bool :=
  (e.hold == .none || e.hold == .trace) && e.xfer.isNone && !inRepBody e && e.u.donePos.isEmpty && e.u.park.isEmpty

/-- The debug halt that is pending takes effect at the next halt point (R480, R481). -/
def haltDue (s : State) (n : Nat) : Bool :=
  let e := engGet s n
  e.dbg.pending &&
  (e.dbg.cause == 2 || e.dbg.cause == 3 || (locksOf s (lockId s n)).isEmpty ||
   decide (field (regGet s 0xD008) 15 0 ≤ cyclesOf s ((ktb s).toNat - e.dbg.since.toNat)))

/-- Whether engine `n` stands at a halt point (R480). -/
def haltPoint (s : State) (n : Nat) : Bool :=
  let e := engGet s n
  betweenBundles e || waitHold e.hold || atTrapPoint s n

/-- Whether engine `n` could take an event at a point of R240 (R240, R246, R482). -/
def eventMay (s : State) (n : Nat) : Bool :=
  let e := engGet s n
  decide (n < 64) && e.run == .running && !e.dbg.halted && !haltDue s n && e.level == 0 && e.pstate == .run && !e.noEvent &&
  !(e.dbg.stepping && !bitAt (dbgCtl s n) 3)

/-- Whether engine `n` can take an event at this moment (R240). -/
def eventPoint (s : State) (n : Nat) : Bool :=
  eventMay s n && (betweenBundles (engGet s n) || waitHold (engGet s n).hold || atTrapPoint s n)

/-- The frame of a micro-trap of the routine of engine `n` (Table 8.4): XPCn is the bundle, or the prefix of a repeat, and LC stands. In a
delay slot the bundle is the slot, and the transfer that it belongs to is kept with the micro-state, so that the resumed slot goes on to
its target (DEDUCED: Table 8.4 gives the trap point its own row, and without the transfer the return would lose it). -/
def microFrame (s : State) (n : Nat) (ys : List Syl) : ExcFrame :=
  let e := engGet s n
  { frameOf { e with xfer := none } with utrap := true, uslot := slotOf ys e.u.pos }

/-- The frame of an event (Table 8.4); at a trap point it is a micro-trap. -/
def eventFrame (s : State) (n : Nat) : ExcFrame :=
  let e := engGet s n
  if e.hold = .micro then
    match runningSyl s n with
    | some q => microFrame s n q.1
    | none => frameOf e
  else frameOf e

/-- The delivery of the event on offer to engine `n` and its entry (R241, R339); both engines of a pair enter, with the same free
values. A bank swap that waited for the end of a micro-routine takes place at its micro-trap (Table 8.5a). -/
def eventTake (s : State) (n : Nat) : State :=
  match tgtOffer s n with
  | none => s
  | some x =>
    let p := srcPrio s x
    let s1 := srcDeliver s x n
    let s2 := forNats (pairOf s1 n) (fun z m =>
      let f := eventFrame z m
      let z1 := if f.utrap && (engGet z m).u.rom then microFree { z with free := s1.free } m else z
      excEnter z1 m 1 p 1 p (BitVec.ofNat 32 x) f) s1
    hubWithdraw (swapSettle (swapTry s2 n))

/-- EVENT_ENTRY, R241. -/
def execEventEntry (n : Nat) (s : State) : Host.Outcome State Fault Refusal :=
  if eventPoint s n && hubEn s && domStat s 83 == 1 then .next (eventTake s n) else .next s

end Sys2Proof.Machine
end

