-- ==== Sys2Proof/Machine/MothRegs.lean ====
section
/-! DEFINITION. The registers of a moth bank by offset (Table 13.5), as the host reaches those of banks 0 to 5 and S0 those
of the Sett bank. -/

namespace Sys2Proof.Machine

/-- Moths of a bank. -/
def bankSize (b : Nat) : Nat := if b < 6 then 16 else 8

/-- A register of moth `m` by its offset within the moth's block. -/
def mothPeek (s : State) (m o : Nat) : Word :=
  let mo := mothGet s m
  match o with
  | 0x00 => mothCtlWord mo
  | 0x04 => mothPinsWord mo
  | 0x08 => mothCtxtWord mo
  | 0x0C => mothStat s m
  | 0x10 => mo.si
  | 0x14 => mo.so
  | 0x18 => mo.ka
  | 0x1C => mo.kb
  | 0x20 => BitVec.ofNat 32 mo.pc
  | 0x2C => cntGet s (mthAdr m 0x2C)
  | 0x30 => cntGet s (mthAdr m 0x30)
  | 0x34 => cntGet s (mthAdr m 0x34)
  | 0x38 => cntGet s (mthAdr m 0x38)
  | 0x3C => cntGet s (mthAdr m 0x3C)
  | 0x40 => mothClkWord mo
  | _ => 0

/-- The register of bank `b` at offset `o`; an offset that Table 13.5 does not list reads zero. -/
def bankPeek (s : State) (b o : Nat) : Word :=
  if o < 0x100 then
    match o with
    | 0x00 => regGet s (mbkAdr b 0)
    | 0x04 => BitVec.ofNat 32 (2 * b2n (frzBank s b) + b2n (bankGated s b))
    | 0x08 => cntGet s (mbkAdr b 8)
    | 0x0C => cntGet s (mbkAdr b 0xC)
    | 0x10 => cntGet s (mbkAdr b 0x10)
    | 0x14 => BitVec.ofNat 32 (gwGet s b).length
    | _ => 0
  else if o < 0x1000 then
    (if (o - 0x100) / 4 ≤ lastPin b then pinCfgRead s (32 * b + (o - 0x100) / 4) else 0)
  else if o < 0x2000 then
    (if (o - 0x1000) / 0x80 < bankSize b then mothPeek s (16 * b + (o - 0x1000) / 0x80) ((o - 0x1000) % 0x80) else 0)
  else
    let j := (o - 0x2000) / 0x80
    if j < bankSize b then (tblGet 0 ((o - 0x2000) % 0x80 / 4) (mothGet s (16 * b + j)).imem).setWidth 32 else 0

/-- A write of a register of moth `m` by its offset within the moth's block (Tables 13.5 to 13.10). -/
def mothPoke (s : State) (m o : Nat) (v : Word) : State :=
  match o with
  | 0x00 => mothCtlWrite s m v
  | 0x04 => mothPinsWrite s m v
  | 0x08 => mothOffWrite s m (fun mo => mothCtxtNew mo v)
  | 0x18 => mothOffWrite s m (fun mo => { mo with ka := v })
  | 0x1C => mothOffWrite s m (fun mo => { mo with kb := v })
  | 0x20 => mothOffWrite s m (fun mo => mothPcNew mo v)
  | 0x24 => mothInjPut s m v
  | 0x28 => mothRestartPut s m v
  | 0x40 => mothMap s m (fun mo => mothClkNew mo v)
  | _ => s

/-- A write of the register of bank `b` at offset `o`. -/
def bankPoke (s : State) (b o : Nat) (v : Word) : State :=
  if o = 0 then regPut s (mbkAdr b 0) (v &&& 1)
  else if o < 0x100 then s
  else if o < 0x1000 then (if (o - 0x100) / 4 ≤ lastPin b then pinCfgWrite s (32 * b + (o - 0x100) / 4) v else s)
  else if o < 0x2000 then
    (if (o - 0x1000) / 0x80 < bankSize b then mothPoke s (16 * b + (o - 0x1000) / 0x80) ((o - 0x1000) % 0x80) v else s)
  else if (o - 0x2000) / 0x80 < bankSize b then
    mothImemPut s (16 * b + (o - 0x2000) / 0x80) ((o - 0x2000) % 0x80 / 4) v
  else s

end Sys2Proof.Machine
end

