-- ==== Sys2Proof/Machine/EngineMem.lean ====
section
/-! DEFINITION. The local address spaces (Tables 5.4 and 5.4a), loads and stores of an engine (R145 to R156, R163 to R166), the
context window and records (R111 to R117), and the push and pop of cells (R63, R69 to R72). -/

namespace Sys2Proof.Machine

/-- The regions of Tables 5.4 and 5.4a. -/
inductive Region where
  | imem | rom | dmem | window | queue | shared | mailbox | bank | far | none
  deriving DecidableEq, Repr

/-- The region of local address `a` for engine `n`. -/
def regionOf (n a : Nat) : Region :=
  if a < imemBytes n then .imem
  else if n = 66 ∧ 0x08000000 ≤ a ∧ a ≤ 0x0800FFFF then .rom
  else if 0x10000000 ≤ a ∧ a < 0x10000000 + dmemBytes n then .dmem
  else if n ≠ 66 ∧ 0x20000000 ≤ a ∧ a ≤ 0x2000007F then .window
  else if n ≠ 66 ∧ 0x30000000 ≤ a ∧ a ≤ 0x3000001F then .queue
  else if n < 64 ∧ 0x40000000 ≤ a ∧ a ≤ 0x400003FF then .shared
  else if 0x50000000 ≤ a ∧ a ≤ 0x50000FFF then .mailbox
  else if isSettEng n = true ∧ 0x60000000 ≤ a ∧ a ≤ 0x60003FFF then .bank
  else if isSettEng n = false ∧ 0x80000000 ≤ a then .far
  else .none

/-- The bytes of a value of 16 bytes or fewer. -/
def bytesOfW (v : W128) (size : Nat) : List Byte := leBytes size v.toNat

/-- `size` bytes at offset `o` of a string of words. -/
def wordBytes (w : Nat → Word) (o size : Nat) : W128 :=
  BitVec.ofNat 128 (leNat ((List.range size).map (fun i => BitVec.ofNat 8 ((w ((o + i) / 4 * 4)).toNat >>> (8 * ((o + i) % 4))))))

/-- The words of the queue-port region (Table 5.7). -/
def queueWord (s : State) (n o : Nat) : Word :=
  let e := engGet s n
  let head : W128 := match e.inq with | [] => fillCell | q :: _ => q.cell
  match o with
  | 0x00 => BitVec.ofNat 32 e.inq.length
  | 0x04 => BitVec.ofNat 32 e.outq.length
  | 0x08 => BitVec.ofNat 32 (e.outq.filter (·.pend)).length
  | 0x10 => head.setWidth 32
  | 0x14 => (head >>> 32).setWidth 32
  | 0x18 => (head >>> 64).setWidth 32
  | 0x1C => (head >>> 96).setWidth 32
  | _ => 0

/-- The shared word at byte offset `o` of cluster `k`; reserved words read zero (Table 5.8). -/
def sharedWord (s : State) (k o : Nat) : Word := if o < 0x380 then tblGet 0 (256 * k + o / 4) s.store.shared else 0

/-- A shared word written; a reserved one takes nothing. -/
def sharedPut (s : State) (k o : Nat) (v : Word) : State :=
  if o < 0x380 then { s with store := { s.store with shared := tblSet 0 (256 * k + o / 4) v s.store.shared } } else s

/-- What a local read gives. -/
inductive Got where
  | val (v : W128)
  | trap (t : Trap)
  /-- A far access: the bundle is held. -/
  | far
  | lost (f : Fault)
  deriving DecidableEq, Repr

/-- The first failing tile of a list of tiles of IMEM or DMEM, by address. -/
def tileTrap (base t : Nat) : Got := .trap { cause := .tileData, adr := BitVec.ofNat 32 (base + 64 * t) }

/-- A read of `size` bytes at local address `a` by engine `n` (R145 to R148, R317, R321). -/
def engLoad (s : State) (n a size : Nat) : Got :=
  let e := engGet s n
  match regionOf n a with
  | .imem => if engTileBad s n false (a / 64) then tileTrap 0 (a / 64)
      else .val (BitVec.ofNat 128 (leNat (memBytes e.imem a size)))
  | .rom => .val (BitVec.ofNat 128 (leNat ((List.range size).map (fun i => Config.bootRom (a - 0x08000000 + i)))))
  | .dmem =>
    let o := a - 0x10000000
    if engTileBad s n true (o / 64) then tileTrap 0x10000000 (o / 64)
    else .val (BitVec.ofNat 128 (leNat (memBytes e.dmem o size)))
  | .window =>
    let o := a - 0x20000000
    if e.ctxOpen.isNone then .trap { cause := .ctxSeq, adr := BitVec.ofNat 32 a }
    else if n < 64 ∧ tileBad s 4 n (o / 64) = true then tileTrap 0x20000000 (o / 64)
    else .val (BitVec.ofNat 128 ((e.window.toNat >>> (8 * o)) % 2 ^ (8 * size)))
  | .queue => .val (wordBytes (queueWord s n) (a - 0x30000000) size)
  | .shared => .val (wordBytes (sharedWord s (cluOf n)) (a - 0x40000000) size)
  | .mailbox => .val (wordBytes (mbxWord s (isSettEng n)) (a - 0x50000000) size)
  | .bank => .val (wordBytes (bankPeek s 6) (a - 0x60000000) size)
  | .far => .far
  | .none => .lost .notDecoded

/-- What a store of fewer than 64 bytes meets before it is made (R319, Table 11.2). -/
def engStoreCheck (s : State) (n a : Nat) : Got :=
  let e := engGet s n
  match regionOf n a with
  | .dmem =>
    let o := a - 0x10000000
    if engTileBad s n true (o / 64) then tileTrap 0x10000000 (o / 64) else .val 0
  | .window =>
    let o := a - 0x20000000
    if e.ctxOpen.isNone then .trap { cause := .ctxSeq, adr := BitVec.ofNat 32 a }
    else if n < 64 ∧ tileBad s 4 n (o / 64) = true then tileTrap 0x20000000 (o / 64)
    else .val 0
  | .far => .far
  | .none => .lost .notDecoded
  | _ => .val 0

/-- The words of a register region that a byte string from offset `o` touches, merged with what they hold (DESIGN CHOICE for a
part of a word), as pairs of offset and value. -/
def mergeWords (w : Nat → Word) (o : Nat) (bs : List Byte) : List (Nat × Word) :=
  ((List.range ((o % 4 + bs.length + 3) / 4)).map (fun i => o / 4 * 4 + 4 * i)).map (fun q =>
    (q, BitVec.ofNat 32 (leNat ((List.range 4).map (fun j =>
      if o ≤ q + j ∧ q + j < o + bs.length then (bs[q + j - o]?).getD 0
      else BitVec.ofNat 8 ((w q).toNat >>> (8 * j)))))))

/-- The granules of DMEM that `len` bytes from offset `o` touch. -/
def granules (o len : Nat) : List Nat := if len = 0 then [] else (List.range ((o + len - 1) / 16 + 1 - o / 16)).map (o / 16 + ·)

/-- Bytes written to DMEM with the validity bits that R152 gives. -/
def dmemPut (e : Engine) (o : Nat) (bs : List Byte) (cap : Bool) : Engine :=
  let off := (granules o bs.length).foldl (fun l g => delNat g l) e.valid
  let c : W128 := BitVec.ofNat 128 (leNat bs)
  { e with dmem := memPut e.dmem o bs, valid := if cap && capValid c && c != 0 then addNat (o / 16) off else off }

/-- A store that takes effect (R145 to R148, R152, R156, R384). A store to a region that no capability grants ST has no
effect (DESIGN CHOICE; unreachable). -/
def engStore (s : State) (n : Nat) (adr : Word) (bs : List Byte) (cap : Bool) : State :=
  let a := adr.toNat
  match regionOf n a with
  | .dmem => engMap s n (fun e => dmemPut e (a - 0x10000000) bs cap)
  | .window => engMap s n (fun e => { e with window := recPutBits e.window (a - 0x20000000) (8 * bs.length) (leNat bs) })
  | .shared =>
    (mergeWords (sharedWord s (cluOf n)) (a - 0x40000000) bs).foldl (fun z q => sharedPut z (cluOf n) q.1 q.2) s
  | .mailbox => if isSettEng n then mbxStore s (a - 0x50000000) bs else s
  | .bank => (mergeWords (bankPeek s 6) (a - 0x60000000) bs).foldl (fun z q => bankPoke z 6 q.1 q.2) s
  | .far =>
    dramPut (engMap s n (fun e => { e with farOut := e.farOut + 1, farSt := e.farSt ++ [(a, bs)] }))
      (if n = 66 then 8 else cluOf n) (a - 0x80000000) bs
  | _ => s

/-- One far store laid over the bytes of a far load of `size` bytes at `a`. -/
def farOver (a size : Nat) (v : W128) (q : Nat × List Byte) : W128 :=
  (List.range size).foldl (fun z i =>
    if q.1 ≤ a + i ∧ a + i < q.1 + q.2.length then
      (z &&& ~~~(BitVec.ofNat 128 (255 * 2 ^ (8 * i)))) ||| BitVec.ofNat 128 (((q.2[a + i - q.1]?).getD 0).toNat * 2 ^ (8 * i))
    else z) v


/-- The ticket words that a load touches increase by one (R156), also where the load takes a byte or a halfword of the word (DESIGN
CHOICE: Table 5.8 speaks of reads of words, and no rule says what a narrower read does; log 74). -/
def ticketTake (s : State) (n : Nat) (adr : Word) (size : Nat) : State :=
  let a := adr.toNat
  if regionOf n a = .shared then
    (((List.range ((a % 4 + size + 3) / 4)).map (fun i => a / 4 * 4 + 4 * i - 0x40000000)).filter
      (fun o => decide (0x300 ≤ o ∧ o < 0x380))).foldl
      (fun z o => sharedPut z (cluOf n) o (sharedWord z (cluOf n) o + 1)) s
  else s

/-! Contexts. -/

/-- The record with local index `i` that engine `n` works on. -/
def engRec (s : State) (n i : Nat) : Rec := if isSettEng n then tblGet 0 i s.store.sett else recRead s (ownCopy s n i)

/-- Whether R111 allows engine `n` to open index `i`. -/
def engMayOpen (s : State) (n i : Nat) : Bool := if isSettEng n then decide (i < 1024) else decide (n < 64) && mayOpen s n i

/-- Whether a tile of record `i`, as engine `n` reads it, fails and no other copy passes. -/
def engRecBad (s : State) (n i t : Nat) : Bool :=
  if isSettEng n then tileBad s 5 2 (2 * i + t)
  else
    let j := ownCopy s n i
    recTileBad s j t && !(isMirrored s && !recTileBad s (mirrorOf j) t)

/-- The TILE_DATA fault of a context instruction at a record tile (Table 11.2). -/
def recTrap (t : Nat) : Trap := { cause := .tileData, adr := BitVec.ofNat 32 (0x20000000 + 0x40 * t) }

/-- What a failing or mirrored read of a record tile leaves in the counters and the log (R121, R320). -/
def engRecSeen (s : State) (n i t : Nat) : State :=
  if isSettEng n then (if tileBad s 5 2 (2 * i + t) then tileDetect s 5 2 (2 * i + t) 2 else s)
  else (recTileRead s (ownCopy s n i) t 2).2

/-- Whether the requests of engine `n` reach what it shares with the engine that it runs with in lockstep (R74, R375, R446). -/
def isHead (s : State) (n : Nat) : Bool := lockId s n == n

/-- Whether another engine holds the lock of record `i`. -/
def lockedByOther (s : State) (n i : Nat) : Bool :=
  match lockHolder (recLock (engRec s n i)) with
  | none => false
  | some h => h != lockId s n

/-- CTXOPEN that opens (R111, R224). -/
def ctxOpenNow (s : State) (n i : Nat) : State :=
  let r := engRec s n i
  let s1 := if isHead s n then engRecSeen (engRecSeen s n i 0) n i 1 else s
  let s2 := tilesClean s1 4 n
  let s3 := engMap (if n < 64 then s2 else s1) n (fun e => { e with window := r, ctxOpen := some i })
  trcCtx s3 n 0 i (BitVec.ofNat 32 (field (recState r) 15 0)) 1

/-- ROUTINE.CTL after a commit: RUNARR, PUBL, HISTL, CLASS and PHASE from the window (R112). -/
def ctlCommit (old new : Word) : Word := (old &&& ~~~0x7000077F) ||| (new &&& 0x7000077F)

/-- The record that a commit leaves: the write-back set of R112 and the counts of R106. -/
def recCommit (old win : Rec) : Rec :=
  let r1 := recPutWord win 0 (recWord old 0)
  let r2 := recPutWord r1 4 (recWord old 4)
  let r3 := recPutWord r2 8 (recWord old 8)
  let r4 := recPutWord r3 0xC (recWord old 0xC)
  let r5 := recPutWord r4 0x10 (recPtr win &&& 0xFFFFFFFC)
  let r6 := recPutWord r5 0x14 (ctlCommit (recCtl old) (recCtl win))
  let r7 := recPutWord r6 0x18 (recLock old)
  recPutWord r7 0x1C (BitVec.ofNat 32 (field (recState win) 31 24 * 2 ^ 24 + (field (recState old) 15 0 + 1) % 65536))

/-- The write-back of a commit (R106, R112, R113): tile 0 is merged and tile 1 is written whole, in every copy, with the ROUTINE.CTL
copies (R110, R120, R318, R319). -/
def engCommitPut (s : State) (n i : Nat) (win : Rec) : State :=
  if isSettEng n then
    let s1 := engRecSeen s n i 0
    tileCure { s1 with store := { s1.store with sett := tblSet 0 i (recCommit (engRec s n i) win) s1.store.sett } } 5 2 (2 * i + 1)
  else
    let j := ownCopy s n i
    let s1 := (recMerge s j 0 2 (fun r => recCommit r win) (fun r => recHalf r 1 (halfBytes win 1))).2
    let s2 := (tileCopies s j).foldl (fun z k => tileCure z 2 (homeOf k) (2 * (k % 2 ^ 14) + 1)) s1
    ctlPut s2 j (recCtl (recCommit (engRec s n i) win))

/-- WORST kept at the commit of a scan-due context (R51): one that the copies of the latest edge made due in the present tick
(R79). For the Fox group the tick is the sub-tick (DESIGN CHOICE: R51 speaks of the tick, and R59 carries only R46 to R50 over to the
sub-tick). -/
def worstNote (s : State) (n i : Nat) : State :=
  let N := if isFox s n then (subNumber s).toNat else s.tick.tickn.toNat
  let a := 0x1012C + cluOf n * 0x40
  let c := tblGet 0 i s.store.ctlEdge
  if n < 64 ∧ ctlInuse c = true ∧ dueAt c N = true ∧ (cntGet s a).toNat < tcyc s n then
    cntPut s a (BitVec.ofNat 32 (tcyc s n))
  else s

/-- CTXCOMMIT that completes (R106, R112, R113, R225) with the window `win` that it read: `head` says that this engine's request
reaches the store. -/
def ctxCommitNow (s : State) (n : Nat) (win : Rec) (head : Bool) : State :=
  match (engGet s n).ctxOpen with
  | none => s
  | some i =>
    let s1 := if head then worstNote (engCommitPut s n i win) n i else s
    let s2 := engMap (releaseAll s1 n) n (fun e => { e with ctxOpen := none })
    let s3 := trcCtx s2 n 1 i (BitVec.ofNat 32 (field (recState (engRec s2 n i)) 15 0)) 0
    s3

/-- CTXDROP (R225): the pending cells are discarded without being counted. -/
def ctxDropNow (s : State) (n : Nat) : State :=
  match (engGet s n).ctxOpen with
  | none => s
  | some i =>
    let s1 := engMap (dropPending s n).2 n (fun e => { e with ctxOpen := none })
    trcCtx s1 n 2 i (BitVec.ofNat 32 (field (recState (engRec s1 n i)) 15 0)) 0

/-- The lock of record `i` taken or cleared by engine `n`, with its trace record (R114, R117, R226). -/
def engLockPut (s : State) (n i : Nat) (h : Option Nat) : State :=
  let f (r : Rec) : Rec := recPutWord r 0x18 (lockWord h)
  if isSettEng n then
    let s1 := engRecSeen s n i 0
    { s1 with store := { s1.store with sett := tblSet 0 i (f (engRec s n i)) s1.store.sett } }
  else (recMerge s (ownCopy s n i) 0 2 f).2

/-- The far stores of engine `n` that touch some of `size` bytes at `a`. -/
def farMeets (a size : Nat) (q : Nat × List Byte) : Bool := decide (q.1 < a + size ∧ a < q.1 + q.2.length)

/-- The value of a far load of engine `n` for which DRAM answers `v`: the engine's own stores that are not complete come before it
in program order (R163, R165). -/
def farValue (s : State) (n : Nat) (a : Word) (size : Nat) (v : W128) : W128 :=
  (engGet s (lockId s n)).farSt.foldl (farOver a.toNat size) (v &&& BitVec.ofNat 128 (2 ^ (8 * size) - 1))

/-- The far stores, oldest first, that need not complete before an access to `size` bytes at `a`, and the bytes of those that do: a store
to the same bytes, and any older store to the bytes of one of these (R165). -/
def farSplit (a size : Nat) : List (Nat × List Byte) → List (Nat × List Byte) × List (Nat × Nat)
  | [] => ([], [(a, size)])
  | q :: t =>
    let r := farSplit a size t
    if r.2.any (fun m => farMeets m.1 m.2 q) then (r.1, (q.1, q.2.length) :: r.2) else (q :: r.1, r.2)

/-- The earlier far stores of engine `n` to the bytes of a far load complete before the load does, each after the older stores to its
own bytes (R165). -/
def farOrder (s : State) (n : Nat) (a : Word) (size : Nat) : State :=
  engMap s (lockId s n) (fun e =>
    let rest := (farSplit a.toNat size e.farSt).1
    { e with farSt := rest, farOut := e.farOut - (e.farSt.length - rest.length) })

/-- The store port of its slice has served engine `n` (R119). -/
def portServed (s : State) (n : Nat) : State :=
  if n < 64 then { s with store := { s.store with portRot := tblSet 0 (cluOf n) ((n % 8 + 1) % 8) s.store.portRot } } else s

/-- ESTAT.LOCKHELD falls when the engine next holds no lock (R481). -/
def lockHeldFall (s : State) (n : Nat) : State :=
  if (engGet s n).dbg.lockheld && (locksOf s (lockId s n)).isEmpty then
    engMap s n (fun e => { e with dbg := { e.dbg with lockheld := false } })
  else s

/-- CTXLOCK that ends with the lock held. -/
def ctxLockNow (s : State) (n i : Nat) (head : Bool) : State :=
  let s1 := if head then engLockPut s n i (some (lockId s n)) else s
  trcCtx s1 n 3 i (BitVec.ofNat 32 (field (recState (engRec s1 n i)) 15 0)) 1

/-- CTXUNLOCK (R117, R226). -/
def ctxUnlockNow (s : State) (n i : Nat) (head : Bool) : State :=
  let held := lockHolder (recLock (engRec s n i)) == some (lockId s n)
  let s1 := if !head then s
    else if held then engLockPut s n i none
    else if n < 64 then cntAdd (engRecSeen s n i 0) (0x610C + cluOf n * 0x20) 1 else s
  lockHeldFall (trcCtx s1 n 4 i (BitVec.ofNat 32 (field (recState (engRec s1 n i)) 15 0)) 0) n

/-! Cells. -/

/-- The number of cells pushed earlier in the tick with the same context, or with none (R63). -/
def seqOf (s : State) (n : Nat) : Nat :=
  match (engGet s n).ctxOpen with
  | none => (engGet s n).seqNone
  | some i => tblGet 0 (if isSettEng n then 2 ^ 17 + i else i) s.cells.seq

/-- One more push counted; in PAIRED and the Sett the two engines share the count of a context, which `head` advances. -/
def seqNext (s : State) (n : Nat) (head : Bool) : State :=
  match (engGet s n).ctxOpen with
  | none => engMap s n (fun e => { e with seqNone := e.seqNone + 1 })
  | some i =>
    let k := if isSettEng n then 2 ^ 17 + i else i
    if head then { s with cells := { s.cells with seq := tblSet 0 k (tblGet 0 k s.cells.seq + 1) s.cells.seq } } else s

/-- One cell of a push (R63, R67, R70, R71): the number placed, and the state. `back` is how many pushes of the burst the
other engine of a pair has counted already for the open context; with none open each engine counts its own. CELL.QUALFIX counts the cells of scan engines that enter a queue: a cell dropped at a
full queue, and one of the Sett's own router, do not count there (DESIGN CHOICE: R67 does not say). -/
def pushOne (s : State) (n : Nat) (head : Bool) (back : Nat) (c : W128) : Nat × State :=
  if cellKind c = 15 then (0, s)
  else
    let q := if (engGet s n).ctxOpen.isNone then seqOf s n % 256 else (seqOf s n + 256 - back % 256) % 256
    let c1 := cellPutBits (cellPutBits c 16 16 (stampOf s n)) 8 8 q
    let e := engGet s n
    let s1 := seqNext s n head
    if 256 ≤ e.outq.length then (0, qCount s1 n 0xC 1)
    else
      let f := pushFix c1
      let s2 := if f.2 && head && n < 64 then cntAdd s1 0x4008 1 else s1
      (1, engMap s2 n (fun e => { e with outq := e.outq ++ [{ cell := f.1, pend := e.ctxOpen.isSome, due := dueNow s }] }))

/-- The cells of a push in order. -/
def pushAll (s : State) (n : Nat) (head : Bool) (back : Nat) : List W128 → Nat × State
  | [] => (0, s)
  | c :: t =>
    let q := pushOne s n head back c
    let r := pushAll q.2 n head (if head || (engGet s n).ctxOpen.isNone then back else back - b2n (cellKind c != 15)) t
    (q.1 + r.1, r.2)

/-- How many leading cells of a list a queue with `room` free places takes without a wait; kind 15 takes no place. -/
def pushPrefix : Nat → List W128 → Nat
  | _, [] => 0
  | room, c :: t =>
    if cellKind c = 15 then pushPrefix room t + 1
    else match room with
      | 0 => 0
      | r + 1 => pushPrefix r t + 1

/-- The cells of a push that go in now. -/
def pushFits (s : State) (n : Nat) (cs : List W128) : Nat := pushPrefix (256 - (engGet s n).outq.length) cs

/-- Whether a push of some cells meets a full queue that holds a released cell, and waits there (R71). Without a context open the
cells of the push itself are released as they enter. -/
def pushStalls (s : State) (n : Nat) (cs : List W128) : Bool :=
  let e := engGet s n
  decide (pushFits s n cs < cs.length) && (anyReleased e.outq || (e.ctxOpen.isNone && decide (0 < pushFits s n cs)))

/-- The cells placed by a push of a list that does not wait. -/
def pushPlaced (s : State) (n : Nat) (cs : List W128) : Nat :=
  min (256 - (engGet s n).outq.length) (cs.filter (fun c => cellKind c != 15)).length

end Sys2Proof.Machine
end

