-- ==== Sys2Proof/Machine/Micro.lean ====
section
/-! DEFINITION. The micro-sequencer (R280 to R296): one micro-word, the library of Table 10.3, the block CRC of R210, and the
end of a routine. A word that uses a code kept for the micro-ROM and Vetchaos is not given a meaning by the manual. -/

namespace Sys2Proof.Machine

/-- A store of engine `n`, made once for a lockstep pair where it reaches what the two share. -/
def storeTake (s : State) (n : Nat) (adr : Word) (bs : List Byte) (cap : Bool) : State :=
  let r := regionOf n adr.toNat
  if isHead s n || r == .dmem || r == .window then engStore s n adr bs cap else s

/-- A load of engine `n` seen by the ticket words (R156), once for a lockstep pair. -/
def loadSeen (s : State) (n : Nat) (adr : Word) (size : Nat) : State := if isHead s n then ticketTake s n adr size else s

/-- A micro-word (Table 10.4). -/
abbrev MWord := BitVec 160

/-- CONST. -/
def mwConst (w : MWord) : Nat := field w 102 87

/-- What one micro-word does. -/
inductive MOut where
  /-- The routine goes on. -/
  | go (s : State)
  /-- The routine ends with this word (R289). -/
  | done (s : State)
  /-- A fault, with whether it was raised at a trap point (R253). -/
  | trap (t : Trap) (point : Bool)
  /-- A far access holds the word (R291). -/
  | far (load : Bool) (a : Word) (size : Nat)
  /-- The word fails its parity check (R280, R297). -/
  | parity (adr : Nat)
  | internal
  | lost (f : Fault)
  deriving DecidableEq, Repr

/-- A source of Table 10.5; none for the codes of the micro-ROM and Vetchaos. -/
def microSrc (e : Engine) (y : Syl) (w : MWord) (c : Nat) : Option Word :=
  let k := mwConst w
  if c < 32 then some (regG e c)
  else match c with
    | 32 => some (regG e (sylRa y.word))
    | 33 => some (sylB y (regG e (sylRb y.word)))
    | 34 => some (e.u.sRd.getD (regG e (sylRd y.word)))
    | 35 => some (if sylRd y.word = 31 then 0 else e.u.sRd1.getD (regG e (sylRd y.word + 1)))
    | 36 => some e.u.ut0
    | 37 => some e.u.ut1
    | 38 => some e.u.ut2
    | 39 => some e.u.ut3
    | 40 => some 0
    | 41 => some (BitVec.ofNat 32 k)
    | 42 => some ((BitVec.ofNat 16 k).signExtend 32)
    | 43 => some (BitVec.ofNat 32 (k * 65536))
    | 44 => some e.u.mdr
    | 45 => some e.u.mar
    | 46 => some (e.u.sLc.getD e.lc)
    | 47 => some (flagsWord e.u.flags)
    | _ => if c < 56 then none else some 0

/-- Whether an event could be taken at a trap point of the routine (R294, condition 11 of Table 10.9). -/
def microEvent (s : State) (n : Nat) (y : Syl) : Bool :=
  eventMay s n && hubEn s && domStat s 83 == 1 && (tgtOffer s (lockId s n)).isSome && !inRepBody (engGet s n) && sylUtrap y

/-- The condition of a word (R290, Table 10.9), from the state that the previous words left. -/
def microCond (s : State) (n : Nat) (y : Syl) (w : MWord) : Option Bool :=
  let e := engGet s n
  let u := e.u
  let k := field w 143 138
  let b := sylB y (regG e (sylRb y.word))
  let v : Option Bool := match k with
    | 0 => some true
    | 1 => some u.flags.z
    | 2 => some u.flags.n
    | 3 => some u.flags.c
    | 4 => some u.flags.v
    | 5 => some (u.ut0 == 0)
    | 6 => some (u.ut1 == 0)
    | 7 => some (u.ut2 == 0)
    | 8 => some (u.ut3 == 0)
    | 9 => some (bitAt u.lastY 0)
    | 10 => some (bitAt u.lastY 31)
    | 11 => some (microEvent s n y)
    | 12 => some (inRepBody e)
    | 13 => some e.compat
    | 14 => some (decide (entFmt y.entry = some .ri))
    | 15 => some (decide (entFmt y.entry = some .rl))
    | 16 => some (b == 0)
    | 17 => some (fIsNaN (regG e (sylRa y.word)))
    | 18 => some (fIsNaN b)
    | 19 => some u.stack.isEmpty
    | 20 => some (u.sLc.getD e.lc == 0)
    | _ => if k < 32 then none else if k < 48 then some (bitAt u.ut3 (k - 32)) else some false
  v.map (fun x => x != bitAt w 137)

/-- Micro-temporary `k` written. -/
def utPut (u : Micro) (k : Nat) (v : Word) : Micro :=
  match k with | 0 => { u with ut0 := v } | 1 => { u with ut1 := v } | 2 => { u with ut2 := v } | _ => { u with ut3 := v }

/-- Micro-temporary `k`. -/
def utGet (u : Micro) (k : Nat) : Word := match k with | 0 => u.ut0 | 1 => u.ut1 | 2 => u.ut2 | _ => u.ut3

/-- A result written to a destination of Table 10.7. -/
def microDst (u : Micro) (d : Nat) (v : Word) : Micro :=
  match d with
  | 1 => { u with sRd := some v }
  | 2 => { u with sRd1 := some v }
  | 3 => { u with sPd := some (bitAt v 0) }
  | 4 => { u with sLc := some v }
  | 5 => { u with ut0 := v }
  | 6 => { u with ut1 := v }
  | 7 => { u with ut2 := v }
  | 8 => { u with ut3 := v }
  | 9 => { u with mar := v }
  | 10 => { u with mdr := v }
  | 11 => { u with xadrs := v }
  | _ => u

/-- Whether a code is kept for the micro-ROM and Vetchaos in one of the fields that a word uses. -/
def microInternal (w : MWord) : Bool :=
  let src (c : Nat) : Bool := decide (48 ≤ c ∧ c < 56)
  let dst (d : Nat) : Bool := decide (12 ≤ d ∧ d < 16)
  let unit := field w 120 118
  let op := field w 117 114
  src (field w 132 127) || src (field w 126 121) || dst (field w 112 108) || dst (field w 86 82) ||
  (unit == 2 && decide (5 ≤ op ∧ op ≤ 7)) || (unit == 5 && decide (14 ≤ op)) ||
  decide (9 ≤ field w 107 104 ∧ field w 107 104 ≤ 11) || decide (field w 63 0 ≠ 0)

/-- Size and kind of MOP (Table 10.10): none for no access, and whether it stores. -/
def mopSize (k : Nat) : Option (Nat × Bool) :=
  match k with
  | 1 => some (1, false) | 2 => some (1, false) | 3 => some (2, false) | 4 => some (2, false) | 5 => some (4, false)
  | 6 => some (1, true) | 7 => some (2, true) | 8 => some (4, true) | _ => none

/-- MDR after a load of MOP. -/
def mopExt (k : Nat) (v : W128) : Word :=
  match k with
  | 1 => (v.setWidth 8).signExtend 32
  | 3 => (v.setWidth 16).signExtend 32
  | _ => v.setWidth 32

/-- The number in the field that MCAP names as a capability register (R291). -/
def microCapNum (y : Syl) (w : MWord) : Nat :=
  if bitAt w 103 then (if entFmt y.entry = some .ri then 0 else sylRb y.word) else sylRa y.word

/-- The capability that MCAP names (R291), where its field is below 16. -/
def microCap (e : Engine) (y : Syl) (w : MWord) : W128 := regC e (microCapNum y w)

/-- The fault of a field of 16 to 31 that names a capability register (Table 5.10), raised as the word that names it would access
memory (DESIGN CHOICE: R157 does not say when, for a field that only a micro-word makes a capability's; log 66). -/
def capIllegal (e : Engine) : Trap := { cause := .illegal, adr := BitVec.ofNat 32 (pcAt e.pc) }

/-- The local bytes that a block covers, or the first failing tile of it. -/
def blockBytes (s : State) (n a len : Nat) : Except Got (List Byte) :=
  let tiles := (List.range ((a % 64 + len + 63) / 64)).map (fun i => max a (a / 64 * 64 + 64 * i))
  match tiles.find? (fun b => match engLoad s n b 1 with | .val _ => false | _ => true) with
  | some b => .error (engLoad s n b 1)
  | none => .ok ((List.range len).map (fun i => match engLoad s n (a + i) 1 with | .val v => v.setWidth 8 | _ => 0))

/-- The checks of R210 for a whole block, and its steps over the first `d` bytes: the state after them, or why it stops. `here` is the
bundle address. -/
def crcBlock (s : State) (n : Nat) (here : Word) (cap : W128) (off len st : Word) (d : Nat) : Except Got Word :=
  let e := engGet s n
  let r := regionOf n (capBase cap).toNat
  if len = 0 then .ok st
  else if 262144 < len.toNat then .error (.trap { cause := .illegal, adr := here })
  else if !(r == .imem || r == .dmem || r == .window) then .error (.trap { cause := .permission, adr := capBase cap })
  else
    match accessCheck e.compat e.ring cap off len.toNat 4 .load with
    | .error t => .error (.trap t)
    | .ok a => (blockBytes s n a.toNat (min d len.toNat)).map (crcStep (engCrc e) st)

/-- A number of free values taken for micro-temporaries. -/
def microTake (s : State) (k : Nat) : Nat × State := (s.free, { s with free := s.free + k })

/-- The word of the routine that called the library routine in hand: MCAP is its. -/
def libCaller (e : Engine) : MWord := match e.u.stack with | [] => 0 | p :: _ => microWord e (p - 1)

/-- LCRCBLK over the first `d` bytes of what it has left (Table 10.3). -/
def libBlock (s : State) (n : Nat) (y : Syl) (d : Nat) : Except Got Word :=
  let e := engGet s n
  let u := e.u
  if 16 ≤ microCapNum y (libCaller e) then .error (.trap (capIllegal e))
  else crcBlock s n (BitVec.ofNat 32 (pcAt e.pc)) (microCap e y (libCaller e)) u.ut1 u.ut2 u.ut0 d

/-- A routine of the library (Table 10.3), run as one action from its entry; what it also overwrites takes free values. It stands at a
trap point until it runs, and runs from its entry after a micro-trap: its inputs stand for the temporaries that its trap points inside
keep, and those of LCRCBLK are what it has left (R281, R294). A fault of LCRCBLK cancels the instruction (DESIGN CHOICE: the
manual does not show the trap bits of its words). -/
def microLib (s : State) (n : Nat) (y : Syl) (lib : Nat) : MOut :=
  let u := (engGet s n).u
  let q := microTake s 4
  let f (k : Nat) : Word := Config.romTemp (q.1 + k)
  let put (g : Micro → Micro) : MOut := .go (engMap q.2 n (fun e => { e with u := g e.u }))
  let dv (m : Nat) : Word := (divOp m u.ut0 u.ut1).getD 0
  match lib with
  | 0x00 => put (fun v => { v with ut0 := dv 1, ut1 := dv 3, ut2 := f 0, ut3 := f 1 })
  | 0x04 => put (fun v => { v with ut0 := dv 0, ut1 := dv 2, ut2 := f 0, ut3 := f 1 })
  | 0x08 => put (fun v => { v with ut0 := fDiv u.ut0 u.ut1, ut2 := f 0 })
  | 0x0C => put (fun v => { v with ut0 := fSqrt u.ut0, ut2 := f 0 })
  | 0x10 =>
    match libBlock s n y u.ut2.toNat with
    | .ok v => put (fun z => { z with ut0 := v, ut2 := 0, ut1 := f 0, ut3 := f 1, mar := f 2, mdr := f 3 })
    | .error (.trap t) => .trap t false
    | .error (.lost x) => .lost x
    | .error _ => .internal
  | _ => .internal

/-- RET: the routine goes on at the micro-address popped, and an empty stack ends it and counts (R289). -/
def microRet (s : State) (n : Nat) : MOut :=
  match (engGet s n).u.stack with
  | [] => .done (engCount s n 0x9110 1)
  | p :: t => .go (engMap s n (fun e => { e with u := { e.u with stack := t, upc := p, pts := 0 } }))

/-- The next micro-address of a word that has acted (R289, Table 10.8). -/
def microNext (s : State) (n : Nat) (w : MWord) (a : Word) (cond : Bool) : MOut :=
  let u := (engGet s n).u
  let tgt := field w 156 144
  let after := (u.upc + 1) % 8192
  let at_ (z : State) (p : Nat) : MOut := .go (engMap z n (fun e => { e with u := { e.u with upc := p } }))
  let err (z : State) : State := engCount z n 0x9110 1
  match field w 159 157 with
  | 0 => at_ s after
  | 1 => at_ s tgt
  | 2 => at_ s (if cond then tgt else after)
  | 3 =>
    let s1 := if 8 ≤ u.stack.length then err s else s
    at_ (engMap s1 n (fun e => { e with u := { e.u with stack := after :: e.u.stack.take 7 } })) tgt
  | 4 => microRet s n
  | 5 => at_ s ((tgt + field a 3 0) % 8192)
  | 6 => .done s
  | _ => .done (err s)

/-- The registers of the sequencer after a word: `ld` is the value that MOP loaded. Two writes of one register in one word,
of which the manual orders neither, leave a free value. -/
def microWrite (u : Micro) (c : CrcSet) (w : MWord) (a b : Word) (ld : Option Word) (size free : Nat) : Micro :=
  let unit := field w 120 118
  let op := field w 117 114
  let d1 := field w 112 108
  let d2 := field w 86 82
  let cnt := field w 81 79
  let maru := field w 78 77
  let yv := unitY c unit op a b (BitVec.ofNat 32 (mwConst w)) u.ut3
  let y := yv.getD u.lastY
  let u1 := if 1 ≤ cnt ∧ cnt ≤ 4 then utPut u (cnt - 1) (utGet u (cnt - 1) - 1) else u
  let u2 := match ld with | none => u1 | some v => { u1 with mdr := v }
  let u3 := match maru with
    | 0 => u2
    | 1 => { u2 with mar := y }
    | 2 => { u2 with mar := u.mar + BitVec.ofNat 32 size }
    | _ => { u2 with mar := a }
  let u4 := microDst (microDst u3 d1 y) d2 y
  let hit (d : Nat) : Bool := d1 == d || d2 == d
  let fv (k : Nat) : Word := Config.romTemp (free + k)
  let u5 := if 1 ≤ cnt ∧ cnt ≤ 4 ∧ hit (cnt + 4) = true then utPut u4 (cnt - 1) (fv 0) else u4
  let u6 := if ld.isSome && hit 10 then { u5 with mdr := fv 1 } else u5
  let u7 := if decide (maru ≠ 0) && hit 9 then { u6 with mar := fv 2 } else u6
  let fl := if unit = 6 then flagsCmp u.flags op a b u.lastY else if bitAt w 113 then flagsOf unit op a b y else u.flags
  { u7 with lastY := y, flags := fl }

/-- The word acts (R285 to R291), with the value of a far load, or the acceptance of a far store, in `got`. -/
def microAct (s : State) (n : Nat) (y : Syl) (w : MWord) (cond : Bool) (got : Option W128) : MOut :=
  let e := engGet s n
  let u := e.u
  match microSrc e y w (field w 132 127), microSrc e y w (field w 126 121) with
  | some a, some b =>
    let k := field w 107 104
    let point := bitAt w 136 && sylUtrap y
    let write (z : State) (ld : Option Word) (size : Nat) : MOut :=
      microNext (engMap { z with free := z.free + 3 } n (fun x =>
        { x with u := microWrite x.u (engCrc e) w a b ld size z.free })) n w a cond
    match mopSize k with
    | none => write s none 0
    | some (size, true) =>
      if !entSidefx y.entry then write (engCount s n 0x9114 1) none size
      else if 16 ≤ microCapNum y w then .trap (capIllegal e) point
      else
        match accessCheck e.compat e.ring (microCap e y w) u.mar size size .store with
        | .error t => .trap t point
        | .ok adr =>
          let bs := leBytes size b.toNat
          let put (z : State) : State := storeTake (trcAccess z n true adr size (b.setWidth 128)) n adr bs false
          match engStoreCheck s n adr.toNat with
          | .trap t => .trap t point
          | .lost f => .lost f
          | .far => if got.isSome then write (put s) none size else .far false adr size
          | .val _ => write (put s) none size
    | some (size, false) =>
      if 16 ≤ microCapNum y w then .trap (capIllegal e) point
      else match accessCheck e.compat e.ring (microCap e y w) u.mar size size .load with
      | .error t => .trap t point
      | .ok adr =>
        let take (v : W128) : MOut :=
          write (loadSeen (trcAccess s n false adr size v) n adr size) (some (mopExt k v)) size
        match engLoad s n adr.toNat size with
        | .trap t => .trap t point
        | .lost f => .lost f
        | .far => match got with | some v => take v | none => .far true adr size
        | .val v => take v
  | _, _ => .internal

/-- The store that the micro-word in hand would make: its address and bytes, for the comparators of a lockstep pair (R382, R446). -/
def microStore (s : State) (n : Nat) (y : Syl) : Option (Word × List Byte) :=
  let e := engGet s n
  let w := microWord e e.u.upc
  match mopSize (field w 107 104), microSrc e y w (field w 126 121) with
  | some (size, true), some b =>
    if 0x800 ≤ e.u.upc ∧ entSidefx y.entry = true then some (e.u.mar, leBytes size b.toNat) else none
  | _, _ => none

/-- The causes of Table 8.1 that a FAULT word can name; no other is ever raised (R239). -/
def causeListed (c : Nat) : Bool := (decide (1 ≤ c) && decide (c ≤ 14)) || c == 16 || c == 17 || decide (24 ≤ c)

/-- One micro-word of the routine that engine `n` runs for syllable `y`. A FAULT word whose cause is not in Table 8.1 raises nothing
and does nothing else (DESIGN CHOICE: R239 and R292 give it no other effect). -/
def microStep (s : State) (n : Nat) (y : Syl) (got : Option W128) : MOut :=
  let e := engGet s n
  if 0xC00 ≤ e.u.upc then .parity e.u.upc
  else if e.u.upc < 0x800 then
    match microLib s n y e.u.upc with
    | .go z => microRet z n
    | o => o
  else
    let w := microWord e e.u.upc
    let uses := field w 159 157 == 2 || field w 135 133 == 1
    if microInternal w then .internal
    else
      match (if uses then microCond s n y w else some true) with
      | none => .internal
      | some c =>
        if field w 135 133 = 1 ∧ c = true then
          if causeListed (mwConst w % 32) then
            .trap { cause := .custom (mwConst w % 32), adr := e.u.xadrs } (bitAt w 136 && sylUtrap y)
          else microNext s n w 0 c
        else microAct s n y w c got

/-- What the routine has staged, as it becomes architectural when the bundle retires (R288). A PD destination whose rd field is 8 to 31
writes predicate rd mod 8, with no fault (DESIGN CHOICE: R288 names the predicate by rd, and no rule says what a number above 7 does in a
microcoded syllable; log 67). -/
def microResults (u : Micro) (y : Syl) : List Act :=
  let rd := sylRd y.word
  (match u.sRd with | some v => [.g rd v] | none => []) ++
  (match u.sRd1 with | some v => (if rd = 31 then [] else [.g (rd + 1) v]) | none => []) ++
  (match u.sPd with | some v => [.p (rd % 8) v] | none => []) ++
  (match u.sLc with | some v => [.lc v] | none => [])

/-- The results kept, and the position marked as completed (R254). -/
def microEnd (s : State) (n : Nat) (acts : List Act) : State :=
  engMap s n (fun e => { e with hold := .none, u := { e.u with
    stack := [], sRd := none, sRd1 := none, sPd := none, sLc := none, rom := false, pts := 0, prog := none,
    done := e.u.done ++ acts, donePos := e.u.donePos ++ [e.u.pos] } })

/-- A routine entered at its first word (R284, R289), or gone on with at the trap point at which its fault waits (R175). -/
def microStart (s : State) (n pos : Nat) (y : Syl) : State :=
  match (engGet s n).u.park.find? (fun q => q.pos == pos) with
  | some q =>
    let ut (k : Nat) : Word := (q.ut[k]?).getD 0
    engMap (microFree s n) n (fun e => { e with hold := .micro, u := { e.u with
      upc := q.upc, stack := q.stack, ut0 := ut 0, ut1 := ut 1, ut2 := ut 2, ut3 := ut 3, sRd := none, sRd1 := none, sPd := none,
      sLc := none, pos := pos, rom := false, pts := 0, prog := none, park := e.u.park.filter (fun v => v.pos != pos) } })
  | none =>
    engMap s n (fun e => { e with hold := .micro, u := { e.u with
      upc := entUaddr y.entry, stack := [], sRd := none, sRd1 := none, sPd := none, sLc := none, xadrs := 0, pos := pos,
      rom := sylRom y, pts := 0, prog := none } })

/-- The bytes of a block CRC that are done at its trap point `k` after the entry, with one trap point in `per` micro-cycles: 4 bytes in each
cycle after the first 6 (DESIGN CHOICE, log 20: the manual gives the length 6 + ceil(n / 4) and that the progress lies in the
micro-temporaries). -/
def crcDone (per k : Nat) : Nat := 4 * (per * k - 6)

/-- The state, the offset and the length that a CRCBLK of the micro-ROM has left: those of its registers, until it has passed a trap
point inside it (R210). -/
def crcLeft (e : Engine) (y : Syl) : Word × Word × Word :=
  e.u.prog.getD (regG e (sylRd y.word), regG e (sylRb y.word), regG e (sylRd y.word + 1))

/-- CRCBLK over the first `d` bytes of what it has left. -/
def romBlock (s : State) (n : Nat) (y : Syl) (d : Nat) : Except Got Word :=
  let e := engGet s n
  let q := crcLeft e y
  crcBlock s n (BitVec.ofNat 32 (pcAt e.pc)) (regC e (sylRa y.word)) q.2.1 q.2.2 q.1 d

/-- The trap points between the entry and the end of a routine of the micro-ROM or of the library, of which DIV, FDIV, FSQRT and the
library have one every 8 micro-cycles (R185, R216, R281). CRCBLK has one every 64 (DESIGN CHOICE: R296 gives no more than that bound). -/
def pointsIn (s : State) (n : Nat) (y : Syl) : Nat :=
  let e := engGet s n
  let blk (per : Nat) (left : Word) : Nat := (6 + (crcDone per e.u.pts + left.toNat + 3) / 4) / per
  if !sylUtrap y then 0
  else if e.u.rom then
    match sylOp y with
    | some .div => 4
    | some .fdiv => 2
    | some .fsqrt => 2
    | some .crcBlk => blk 64 (crcLeft e y).2.2
    | _ => 0
  else
    match e.u.upc with
    | 0x00 => 4
    | 0x04 => 4
    | 0x08 => 2
    | 0x0C => 2
    | 0x10 => blk 8 e.u.ut2
    | _ => 0

/-- What the block CRC of the syllable has done when it comes to its next trap point: of one in the micro-ROM the progress is kept beside
the registers, and of LCRCBLK in its temporaries (R210, R281). Other routines keep none. -/
def blockPoint (s : State) (n : Nat) (y : Syl) : Except Got State :=
  let e := engGet s n
  let u := e.u
  let step (per : Nat) (left : Word) : Nat := min (crcDone per (u.pts + 1) - crcDone per u.pts) left.toNat
  if u.rom then
    if sylOp y = some .crcBlk then
      let q := crcLeft e y
      let d := step 64 q.2.2
      (romBlock s n y d).map (fun v => engMap s n (fun e => { e with
        u := { e.u with prog := some (v, q.2.1 + BitVec.ofNat 32 d, q.2.2 - BitVec.ofNat 32 d) } }))
    else .ok s
  else if u.upc = 0x10 then
    let d := step 8 u.ut2
    (libBlock s n y d).map (fun v => engMap s n (fun e => { e with
      u := { e.u with ut0 := v, ut1 := u.ut1 + BitVec.ofNat 32 d, ut2 := u.ut2 - BitVec.ofNat 32 d } }))
  else .ok s

/-- The result of a routine of the micro-ROM (R184, R210, R212): the acts it leaves, or why it stops. -/
def romResult (s : State) (n : Nat) (y : Syl) : Option (Except Got (List Act)) :=
  let e := engGet s n
  let rd := sylRd y.word
  let a := regG e (sylRa y.word)
  let b := sylB y (regG e (sylRb y.word))
  match sylOp y with
  | some .div => (divOp (sylMinor y.word) a b).map (fun v => .ok [.g rd v])
  | some .fdiv => some (.ok [.g rd (fDiv a b)])
  | some .fsqrt => some (.ok [.g rd (fSqrt a)])
  | some .crcBlk =>
    let len := (crcLeft e y).2.2
    some ((romBlock s n y len.toNat).map (fun v => if e.u.prog.isNone && len == 0 then [] else [.g rd v, .g (rd + 1) 0]))
  | _ => none

end Sys2Proof.Machine
end

