-- ==== Sys2Proof/Machine/Eval.lean ====
section
/-! DEFINITION. What a syllable does on the state before its bundle (R143, R150 to R161, R173 to R237, R258 to R260): the acts that
retire with the bundle, the fault it raises, or why it waits. -/

namespace Sys2Proof.Machine

/-- The result of one syllable, or of the syllables of a bundle together. -/
inductive Ev where
  | acts (l : List Act)
  | trap (t : Trap)
  /-- Tile `t` of the record with index `i` fails for a context instruction (Table 11.2). -/
  | recBad (i t : Nat)
  | hold (h : Hold)
  /-- A push that meets a full queue: the cells that go in before it waits (R71). -/
  | pushPart (cs : List W128)
  /-- A far access for which the bundle is held. -/
  | far (load : Bool) (a : Word) (size : Nat)
  /-- Micro-routines have to run: those of the syllables before a position, the ones behind it following a fault or a wait. -/
  | ucode (before : Nat)
  | stuck (f : Fault)
  | refuse
  deriving DecidableEq, Repr

/-- The bundle at hand: its address, and the address after it. -/
structure At where
  here : Nat
  next : Nat
  deriving DecidableEq, Repr

/-- The fault of cause `c` that records the bundle address. -/
def evHere (z : At) (c : Cause) : Ev := .trap { cause := c, adr := BitVec.ofNat 32 z.here }

/-- A result in g[rd], or ILLEGAL where a reserved minor gives none. -/
def evG (z : At) (rd : Nat) (v : Option Word) : Ev :=
  match v with | some w => .acts [.g rd w] | none => evHere z .illegal

/-- A predicate result. -/
def evP (z : At) (rd : Nat) (v : Option Bool) : Ev :=
  match v with | some w => .acts [.p rd w] | none => evHere z .illegal

/-- A capability result, or the fault of its derivation. -/
def evC (rd : Nat) (v : Chk W128) : Ev := match v with | .ok c => .acts [.c rd c] | .error t => .trap t

/-- The data that the bundle has received for a far access of `size` bytes at `a`. -/
def farAns (e : Engine) (a : Word) (size : Nat) : Option W128 :=
  e.u.done.findSome? (fun x => match x with | .ld b k v => if b = a ∧ k = size then some v else none | _ => none)

/-- A read of `size` bytes at a checked address. -/
def evRead (s : State) (n : Nat) (a : Word) (size : Nat) (k : W128 → Ev) : Ev :=
  match engLoad s n a.toNat size with
  | .val v => k v
  | .trap t => .trap t
  | .lost f => .stuck f
  | .far => match farAns (engGet s n) a size with | some v => k v | none => .far true a size

/-- A write at a checked address; `acts` is what it does. -/
def evWrite (s : State) (n : Nat) (a : Word) (size : Nat) (acts : List Act) : Ev :=
  match engStoreCheck s n a.toNat with
  | .val _ => .acts acts
  | .trap t => .trap t
  | .lost f => .stuck f
  | .far => if (engGet s n).told.stOk then .acts acts else .far false a size

/-- The offset of a load or store (R187). -/
def lsOffset (e : Engine) (y : Syl) : Word :=
  let sel := lsSel (sylMajor y.word) (sylMinor y.word)
  let idx : Word := if entFmt y.entry = some .ri then 0 else regG e (sylRb y.word)
  let disp : Word := match entFmt y.entry with | some .ri => sylImm y.word | some .rl => y.ext | _ => 0
  (if sel.2 then idx * BitVec.ofNat 32 (lsSize sel.1) else idx) + disp

/-- The registers that a load of Table 6.9 writes. -/
def loadActs (k rd : Nat) (v : W128) : List Act :=
  let w (i : Nat) : Word := (v >>> (32 * i)).setWidth 32
  match k with
  | 0 => [.g rd ((v.setWidth 8).signExtend 32)]
  | 1 => [.g rd ((v.setWidth 8).setWidth 32)]
  | 2 => [.g rd ((v.setWidth 16).signExtend 32)]
  | 3 => [.g rd ((v.setWidth 16).setWidth 32)]
  | 4 => [.g rd (w 0)]
  | 5 => [.g rd (w 0), .g (rd + 1) (w 1)]
  | _ => [.g rd (w 0), .g (rd + 1) (w 1), .g (rd + 2) (w 2), .g (rd + 3) (w 3)]

/-- The words of a quadruple, lowest register first, as one 128-bit value (R218, R5). -/
def quad (e : Engine) (r : Nat) : W128 := regG e (r + 3) ++ regG e (r + 2) ++ regG e (r + 1) ++ regG e r

/-- The bytes that a store of Table 6.9 writes. -/
def storeBytes (e : Engine) (k rd : Nat) : List Byte :=
  match k with
  | 5 => leBytes 4 (regG e rd).toNat ++ leBytes 4 (regG e (rd + 1)).toNat
  | 6 => leBytes 16 (quad e rd).toNat
  | _ => leBytes (lsSize k) (regG e rd).toNat

/-- The access check of engine `e` (R150, R258). -/
def engCheck (e : Engine) (c : W128) (off : Word) (size al : Nat) (need : Need) : Chk Word :=
  accessCheck e.compat e.ring c off size al need

/-- A load (R187 to R189). -/
def evLoad (s : State) (n : Nat) (y : Syl) : Ev :=
  let e := engGet s n
  let k := (lsSel (sylMajor y.word) (sylMinor y.word)).1
  let size := lsSize k
  match engCheck e (regC e (sylRa y.word)) (lsOffset e y) size size .load with
  | .error t => .trap t
  | .ok a => evRead s n a size (fun v => .acts (.ld a size v :: loadActs k (sylRd y.word) v))

/-- A store (R187, R188). -/
def evStore (s : State) (n : Nat) (y : Syl) : Ev :=
  let e := engGet s n
  let k := (lsSel (sylMajor y.word) (sylMinor y.word)).1
  let size := lsSize k
  match engCheck e (regC e (sylRa y.word)) (lsOffset e y) size size .store with
  | .error t => .trap t
  | .ok a => evWrite s n a size [.st a (storeBytes e k (sylRd y.word)) false false]

/-- LDC (R152, R189; R258 in compatibility mode). -/
def evLdc (s : State) (n : Nat) (y : Syl) : Ev :=
  let e := engGet s n
  match engCheck e (regC e (sylRa y.word)) (lsOffset e y) 16 16 .loadCap with
  | .error t => .trap t
  | .ok a =>
    evRead s n a 16 (fun v =>
      let done : Ev := .acts [.ld a 16 v, .c (sylRd y.word) v]
      if e.compat then (if descWf v then done else .trap { cause := .segment, adr := a })
      else if regionOf n a.toNat = .dmem ∧ hasNat ((a.toNat - 0x10000000) / 16) e.valid = true then done
      else .trap { cause := .validity, adr := a })

/-- STC (R152, R189; R258 in compatibility mode). -/
def evStc (s : State) (n : Nat) (y : Syl) : Ev :=
  let e := engGet s n
  match engCheck e (regC e (sylRa y.word)) (lsOffset e y) 16 16 .storeCap with
  | .error t => .trap t
  | .ok a => evWrite s n a 16 [.st a (leBytes 16 (regC e (sylRd y.word)).toNat) (!e.compat) false]

/-- The capability instructions of Table 6.11. -/
def evCap (s : State) (n : Nat) (z : At) (y : Syl) (op : Op) : Ev :=
  let e := engGet s n
  let rd := sylRd y.word
  let cs := regC e (sylRa y.word)
  let ct := regC e (sylRb y.word)
  let rb := regG e (sylRb y.word)
  let x := sylB y rb
  match op with
  | .cmov => .acts [.c rd cs]
  | .csetb => evC rd (capSetB e.compat cs x)
  | .csetl => evC rd (capSetL e.compat cs x)
  | .csetbl => evC rd (capSetBL e.compat cs rb y.ext)
  | .candp => evC rd (capAndP e.compat cs x)
  | .cgetb => .acts [.g rd (capBase cs)]
  | .cgetl => .acts [.g rd (capLimit cs)]
  | .cgetp => .acts [.g rd ((capPerm cs).setWidth 32)]
  | .cgett => .acts [.g rd (BitVec.ofNat 32 (capOtype cs))]
  | .cseal => if e.compat then evHere z .illegal else evC rd (capSeal cs ct)
  | .cunseal => if e.compat then evHere z .illegal else evC rd (capUnseal cs ct)
  | _ => if e.compat then evHere z .illegal else evC rd (capSentry cs)

/-! Transfers. -/

/-- The bundle after the delay slot of the bundle at hand (R169). -/
def afterSlot (s : State) (n : Nat) (z : At) : Nat := afterBundle s n z.next

/-- The link value of CJ (R200) and, in compatibility mode, with the caller's ring (R259). -/
def linkWord (s : State) (n : Nat) (z : At) : Word :=
  let e := engGet s n
  (BitVec.ofNat 32 (afterSlot s n z) - capBase e.pcc) ||| BitVec.ofNat 32 (if e.compat then e.ring else 0)

/-- A transfer act. Bits 1:0 of a target are taken as zero, those of a CJ or CJO in native mode too (DESIGN CHOICE: R200 does not
say). -/
def xferAct (e : Engine) (z : At) (taken annul : Bool) (target : Word) (pcc : Option W128) (ring : Option Nat) : Act :=
  .xfer { src := BitVec.ofNat 32 z.here, lcBefore := e.lc, taken := taken, annul := annul && !taken,
          target := target &&& 0xFFFFFFFC, newPcc := pcc, newRing := ring }

/-- The ANNUL bit of a transfer (R197 to R200). -/
def annulBit (y : Syl) (op : Op) : Bool :=
  match op with
  | .br => if sylLong y then bitAt y.word 0 else bitAt y.word 9
  | .blc => bitAt y.word 9
  | _ => bitAt y.word 0

/-- The capability checks of CJ and CJO in native mode (R200, R237). -/
def jumpCheck (cs : W128) (entry : Bool) : Option Trap :=
  if capOtype cs ≠ 0 ∧ (entry && capOtype cs == 255) = false then some { cause := .sealed, adr := capBase cs }
  else if !capHas cs pEX then some { cause := .permission, adr := capBase cs }
  else none

/-- The checks of a jump through a code descriptor at ring `r` (R258, R259). A descriptor without right X raises PERMISSION at the jump,
after the ring check (DESIGN CHOICE: R259 names the ring check alone, and R258 ties X to the fetch; log 68). -/
def descJump (cs : W128) (r : Nat) : Option Trap :=
  if !descPresent cs || !descWf cs || descType cs != 1 then some { cause := .segment, adr := capBase cs }
  else if !descRing cs r then some { cause := .ring, adr := capBase cs }
  else if !capHas cs pEX then some { cause := .permission, adr := capBase cs }
  else none

/-- The gate call of R259; the address of the gate is formed exactly. -/
def evGate (s : State) (n : Nat) (z : At) (y : Syl) (cs : W128) (gb : Word) : Ev :=
  let e := engGet s n
  let off : Word := gb <<< 4
  let ga : Word := capBase cs + off
  let atGate (c : Cause) : Ev := .trap { cause := c, adr := ga }
  let atDesc (c : Cause) : Ev := .trap { cause := c, adr := capBase cs }
  if !descPresent cs || !descWf cs then .trap { cause := .segment, adr := ga }
  else if !descRing cs e.ring then .trap { cause := .ring, adr := ga }
  else if !capHas cs 0 then .trap { cause := .permission, adr := ga }
  else if (capLimit cs).toNat < (capBase cs).toNat + 16 * gb.toNat + 15 then .trap { cause := .bounds, adr := ga }
  else if ga.toNat % 16 ≠ 0 then .trap { cause := .alignment, adr := ga }
  else
      let a := ga
      evRead s n a 16 (fun g =>
        if sylRa y.word = 14 ∨ sylRb y.word = 30 then atGate .gate
        else if descType g ≠ 4 ∨ descPresent g = false then atGate .gate
        else if !descRing g e.ring then atDesc .ring
        else if e.ring < field g 49 48 then atDesc .ring
        else
          match engCheck e (regC e 15) (BitVec.ofNat 32 (16 * field g 47 32)) 16 16 .load with
          | .error t => .trap t
          | .ok ta =>
            evRead s n ta 16 (fun t =>
              if descType (regC e 15) ≠ 2 ∨ descType t ≠ 1 ∨ descPresent t = false ∨ capHas t pEX = false then atGate .gate
              else if !descRing t (field g 49 48) then atDesc .ring
              else .acts [.ld a 16 g, .ld ta 16 t, .c 14 e.pcc, .g 30 (linkWord s n z),
                xferAct e z true false (capBase t + g.setWidth 32) (some t) (some (field g 49 48))]))

/-- CJ with a true guard (R200, R237, R259). The gate fault of a CJ through a gate-table descriptor carries cs.BASE (DESIGN CHOICE:
Table 8.1 gives XADRn the address of an entry, and CJ names none). -/
def evCj (s : State) (n : Nat) (z : At) (y : Syl) : Ev :=
  let e := engGet s n
  let cs := regC e (sylRa y.word)
  let link : List Act := [.c (sylRd y.word) e.pcc, .g (sylRb y.word) (linkWord s n z)]
  if e.compat then
    if descType cs = 3 then .trap { cause := .gate, adr := capBase cs }
    else match descJump cs e.ring with
      | some t => .trap t
      | none => .acts (link ++ [xferAct e z true false (capBase cs) (some cs) none])
  else
    match jumpCheck cs true with
    | some t => .trap t
    | none => .acts (link ++ [xferAct e z true false (capBase cs) (some (capSetOtype cs 0)) none])

/-- CJO with a true guard (R200, R259). -/
def evCjo (s : State) (n : Nat) (z : At) (y : Syl) : Ev :=
  let e := engGet s n
  let cs := regC e (sylRa y.word)
  let gb := regG e (sylRb y.word)
  if e.compat then
    if descType cs = 3 then evGate s n z y cs gb
    else
      let r := max e.ring (field gb 1 0)
      match descJump cs r with
      | some t => .trap t
      | none => .acts [xferAct e z true false (capBase cs + (gb &&& 0xFFFFFFFC)) (some cs) (some r)]
  else
    match jumpCheck cs false with
    | some t => .trap t
    | none => .acts [xferAct e z true false (capBase cs + gb) (some cs) none]

/-- A transfer with its guard (R167, R197 to R200). -/
def evXfer (s : State) (n : Nat) (z : At) (y : Syl) (op : Op) (guard : Bool) : Ev :=
  let e := engGet s n
  let an := annulBit y op
  let rd := sylRd y.word
  let base : Word := BitVec.ofNat 32 z.here
  let target : Word := match op with
    | .br => if sylLong y then base + y.ext else base + (sylImm y.word <<< 2)
    | .blc => base + (sylImm y.word <<< 2)
    | .jr => regG e (sylRa y.word)
    | .cj => capBase (regC e (sylRa y.word))
    | _ => capBase (regC e (sylRa y.word)) + regG e (sylRb y.word)
  let link : List Act := if rd = 0 then [] else [.g rd (BitVec.ofNat 32 (afterSlot s n z))]
  if !guard then .acts [xferAct e z false an target none none]
  else match op with
    | .br => .acts (link ++ [xferAct e z true false target none none])
    | .jr => .acts (link ++ [xferAct e z true false target none none])
    | .blc =>
      if e.lc = 0 then .acts [xferAct e z false an target none none]
      else .acts [.lc (e.lc - 1), xferAct e z (e.lc - 1 != 0) an target none none]
    | .cj => evCj s n z y
    | _ => evCjo s n z y

/-! Cells. -/

/-- The first thing that the write of a burst meets: whole tiles are written without a read (R318, R319). -/
def burstCheck (s : State) (n a len : Nat) : Got :=
  let cells := (List.range (len / 16)).map (fun i => a + 16 * i)
  let whole (c : Nat) : Bool := decide (a ≤ c / 64 * 64) && decide (c / 64 * 64 + 64 ≤ a + len)
  let met (c : Nat) : Got :=
    match engStoreCheck s n c with
    | .trap t => if t.cause = .tileData ∧ whole c = true then .val 0 else .trap t
    | g => g
  match cells.find? (fun c => match met c with | .val _ => false | _ => true) with
  | some c => met c
  | none => .val 0

/-- TPOP and TPEEK (R218, R219). -/
def evPop (s : State) (n : Nat) (y : Syl) (peek : Bool) : Ev :=
  let e := engGet s n
  let b := sylMinor y.word
  let rd := sylRd y.word
  if b = 0 then .acts [.g rd 0]
  else
    match engCheck e (regC e (sylRa y.word)) (regG e (sylRb y.word)) (16 * b) 16 .store with
    | .error t => .trap t
    | .ok a =>
      let cs := (availCells s n).take b
      let k := cs.length
      let acts : List Act := [.st a (cs.flatMap (fun c => leBytes 16 c.toNat)) false true] ++ [.pop (if peek then 0 else k)] ++
        [.g rd (BitVec.ofNat 32 k)]
      if k = 0 then .acts [.pop 0, .g rd 0]
      else
        match burstCheck s n a.toNat (16 * k) with
        | .val _ => .acts acts
        | .trap t => .trap t
        | .lost f => .stuck f
        | .far => if e.told.stOk then .acts acts else .far false a (16 * k)

/-- The cells that TPUSH reads, one after another. -/
def evCells (s : State) (n : Nat) (a : Word) (k : List W128 → Ev) : Nat → List W128 → Ev
  | 0, cs => k cs
  | b + 1, cs => evRead s n (a + BitVec.ofNat 32 (16 * cs.length)) 16 (fun v => evCells s n a k b (cs ++ [v]))

/-- The cells of a push that have still to go in. -/
def pushRest (s : State) (n : Nat) (cs : List W128) : List W128 := cs.drop (engGet s n).pushDone

/-- A push of cells (R71, R220), one after another: those that have gone in already are left out. -/
def evPush (s : State) (n : Nat) (cs : List W128) (acts : List Act) : Ev :=
  let rest := pushRest s n cs
  if pushStalls s n rest then .pushPart (rest.take (pushFits s n rest)) else .acts (.push rest :: acts)

/-- TPUSH (R218, R220). -/
def evTpush (s : State) (n : Nat) (y : Syl) : Ev :=
  let e := engGet s n
  let b := sylMinor y.word
  let rd := sylRd y.word
  if b = 0 then .acts [.g rd 0]
  else
    match engCheck e (regC e (sylRa y.word)) (regG e (sylRb y.word)) (16 * b) 16 .load with
    | .error t => .trap t
    | .ok a => evCells s n a (fun cs =>
        evPush s n cs [.g rd (BitVec.ofNat 32 ((engGet s n).pushPut + pushPlaced s n (pushRest s n cs)))]) b []

/-- TPOPR (R221). -/
def evTpopr (s : State) (n : Nat) (y : Syl) : Ev :=
  match availCells s n with
  | [] => .acts (.pop 0 :: loadActs 6 (sylRd y.word) fillCell)
  | c :: _ => .acts (.pop 1 :: loadActs 6 (sylRd y.word) c)

/-! Contexts. -/

/-- The context-sequence fault with a local index. -/
def evSeq (i : Nat) : Ev := .trap { cause := .ctxSeq, adr := BitVec.ofNat 32 i }

/-- The failure that a lock wait of LOCKWAIT cycles ends in, also where the lock has become free since (R116). -/
def evLockOut (rd : Nat) : Ev := .acts [.p rd false]

/-- The first failing tile of the window of scan engine `n`, which a commit reads (R317). -/
def windowBad (s : State) (n : Nat) : Option Nat := if n < 64 then [0, 1].find? (fun t => tileBad s 4 n t) else none

/-- The context instructions of Table 7.12 but DISPATCH (R224 to R226). A commit that reads a failing window tile raises TILE_DATA
there, as a window load does (DEDUCED from R317 and Table 11.2). -/
def evCtx (s : State) (n : Nat) (y : Syl) (op : Op) : Ev :=
  let e := engGet s n
  let rd := sylRd y.word
  let i := field (regG e (sylRa y.word)) 16 0
  match op with
  | .ctxOpen =>
    if e.ctxOpen.isSome || !engMayOpen s n i then evSeq i
    else if engRecBad s n i 0 then .recBad i 0
    else if e.told.lockOut then evLockOut rd
    else if lockedByOther s n i then .hold .lock
    else if engRecBad s n i 1 then .recBad i 1
    else .acts [.ctxOpen i, .p rd true]
  | .ctxLock =>
    let held := lockHolder (recLock (engRec s n i))
    if !engMayOpen s n i then evSeq i
    else if engRecBad s n i 0 then .recBad i 0
    else if e.told.lockOut then evLockOut rd
    else if held = some (lockId s n) then .acts [.p rd true]
    else if 4 ≤ (locksOf s (lockId s n)).length then evSeq i
    else if held.isSome then .hold .lock
    else .acts [.ctxLock i, .p rd true]
  | .ctxUnlock =>
    if !engMayOpen s n i then evSeq i
    else if engRecBad s n i 0 then .recBad i 0
    else .acts [.ctxUnlock i]
  | _ =>
    match e.ctxOpen with
    | none => .trap { cause := .ctxSeq, adr := Config.openAddr s.free }
    | some j =>
      if op = .ctxDrop then .acts [.ctxDrop]
      else if engRecBad s n j 0 then .recBad j 0
      else match windowBad s n with
        | some t => .trap { cause := .tileData, adr := BitVec.ofNat 32 (0x20000000 + 64 * t) }
        | none => .acts [.ctxCommit]

/-- DISPATCH (R82, R83, R227). With a context open its context-sequence fault carries that context's index (DESIGN CHOICE: Table 8.1
gives XADRn a local index, and DISPATCH names none). It reads ROUTINE.PTR from tile 0 of the record, and a failing tile is met as
CTXOPEN meets it (DEDUCED from R317). -/
def evDispatch (s : State) (n : Nat) (y : Syl) : Ev :=
  let rd := sylRd y.word
  match (engGet s n).ctxOpen with
  | some j => evSeq j
  | none =>
    match nextEntry s n with
    | none => .hold .dispatch
    | some (arr, i, _) =>
      if engRecBad s n i 0 then .recBad i 0
      else .acts [.dispatch, .g rd (BitVec.ofNat 32 (b2n arr * 2 ^ 31 + i)), .g (rd + 1) (recPtr (engRec s n i))]

/-- TICKWAIT (R229). With a context open its context-sequence fault carries that context's index (DESIGN CHOICE: Table 8.1 gives XADRn a
local index or the window address, and TICKWAIT names none). -/
def evTickWait (s : State) (n : Nat) (y : Syl) : Ev :=
  let e := engGet s n
  match e.ctxOpen with
  | some j => evSeq j
  | none => match e.told.tick with | some v => .acts [.g (sylRd y.word) v] | none => .hold .tick

/-! Special registers and system. -/

/-- Debug is enabled for engine `n` (R479). -/
def dbgEnabled (s : State) (n : Nat) : Bool := decide (n < 64) && dbgOpen s && bitAt (dbgCtl s (lockId s n)) 0

/-- SPR (R141, R231). MTS to a reserved number raises the illegal-instruction fault as MFS from one does (DESIGN CHOICE: R141 states the
read of a reserved number and the write of an RO register). -/
def evSpr (s : State) (n : Nat) (z : At) (y : Syl) (op : Op) : Ev :=
  let e := engGet s n
  let rd := sylRd y.word
  let ra := sylRa y.word
  let ok := privOk e.compat e.ring e.pcc
  match op with
  | .mfs => match sprGet s n ra with
    | none => evHere z .illegal
    | some v => .acts [.g rd v, .sprRead ra]
  | .mts =>
    if !sprWritable rd then evHere z .illegal
    else if sprPriv rd && !ok then evHere z .permission
    else if rd = 0 then .acts [.lc (regG e ra)] else .acts [.spr rd (regG e ra)]
  | .cmfs =>
    if 3 < ra then evHere z .illegal
    else if decide (ra ≠ 0) && !ok then evHere z .permission
    else .acts [.c rd (xpccGet e ra)]
  | _ =>
    if rd = 0 ∨ 3 < rd then evHere z .illegal
    else if !ok then evHere z .permission
    else .acts [.xpcc rd (regC e ra)]

/-- SYS but TICKWAIT (R232, R248). -/
def evSys (s : State) (n : Nat) (z : At) (y : Syl) (op : Op) : Ev :=
  let e := engGet s n
  let code := BitVec.ofNat 32 (sylRa y.word)
  match op with
  | .eret =>
    let v := saveGet e e.level
    if e.level = 0 then evHere z .illegal
    else if !privOk e.compat e.ring e.pcc then evHere z .permission
    else if bitAt v.xst 28 && (!v.bank.valid || v.bank.bad) then .trap { cause := .saveBank, adr := v.xpc }
    else .acts [.eret]
  | .sysc => .acts [.trap { cause := .syscall, adr := code }]
  | _ => if dbgEnabled s n then .acts [.haltReq] else .acts [.trap { cause := .breakpoint, adr := code }]

/-- The operation of a syllable whose guard is true, or of a transfer with its guard. -/
def evOp (s : State) (n : Nat) (z : At) (y : Syl) (op : Op) (guard : Bool) : Ev :=
  let e := engGet s n
  let major := sylMajor y.word
  let minor := sylMinor y.word
  let rd := sylRd y.word
  let a := regG e (sylRa y.word)
  let b := sylB y (regG e (sylRb y.word))
  let d := regG e rd
  match op with
  | .alu => evG z rd (aluOp minor a b)
  | .aluImm => evG z rd (aluOp (match major with | 3 => 0 | 4 => 2 | 5 => 3 | _ => 4) a b)
  | .shiftImm => evG z rd (aluOp (major - 0x07 + 7) a (BitVec.ofNat 32 (field y.word 4 0)))
  | .unary => evG z rd (unaryOp minor a)
  | .sat => evG z rd (satOp minor a b)
  | .cmp =>
    let k := if major < 0x12 then minor else if major = 0x18 then 6 else if major = 0x19 then 9 else major - 0x12
    evP z rd (cmpOp k a b)
  | .plog => evP z rd (plogOp minor (regP e (sylRa y.word)) (regP e (sylRb y.word)))
  | .getp => .acts [.g rd (predWord e)]
  | .setp => .acts ((List.range 7).map (fun i => Act.p (i + 1) (bitAt a (i + 1))))
  | .mul => evG z rd (mulOp (if major = 0x22 then 0 else minor) d a b)
  | .div => evG z rd (divOp minor a b)
  | .load => evLoad s n y
  | .store => evStore s n y
  | .ldc => evLdc s n y
  | .stc => evStc s n y
  | .fence => if (engGet s (lockId s n)).farOut = 0 then .acts [] else .hold .fence
  | .cmov | .csetb | .csetl | .csetbl | .candp | .cgetb | .cgetl | .cgetp | .cgett | .cseal | .cunseal | .csentry =>
    evCap s n z y op
  | .br | .blc | .jr | .cj | .cjo => evXfer s n z y op guard
  | .rep | .repi => .acts []
  | .bit => evG z rd (bitOp minor a)
  | .fld => evG z rd (fldOp minor d a b)
  | .crcStep => .acts [.g rd (crcStep (engCrc e) a (leBytes (2 ^ minor) (regG e (sylRb y.word)).toNat))]
  | .crcInit => .acts [.g rd (crcInit (engCrc e))]
  | .crcFin => .acts [.g rd (crcFin (engCrc e) a)]
  | .crcBlk => .refuse
  | .fop => evG z rd (fopOp minor d a b)
  | .fdiv => .acts [.g rd (fDiv a b)]
  | .fsqrt => .acts [.g rd (fSqrt a)]
  | .fcmp => evP z rd (fcmpOp minor a b)
  | .fcvt => evG z rd (fcvtOp minor a)
  | .tpop => evPop s n y false
  | .tpeek => evPop s n y true
  | .tpush => evTpush s n y
  | .tpopr => evTpopr s n y
  | .tpushr => evPush s n [quad e rd] []
  | .ctxOpen | .ctxCommit | .ctxLock | .ctxUnlock | .ctxDrop => evCtx s n y op
  | .dispatch => evDispatch s n y
  | .tickWait => evTickWait s n y
  | .twr => if e.dtxf then .acts [.p rd false] else .acts [.twr a, .p rd true]
  | .trd =>
    if e.drxf then .acts [.g rd e.drx, .trd, .p (sylRb y.word) true] else .acts [.p (sylRb y.word) false]
  | .mfs | .mts | .cmfs | .cmts => evSpr s n z y op
  | .eret | .sysc | .brk => evSys s n z y op
  | .custom => .refuse

/-- Whether PCC holds the permission that NEED names (R143, R277). -/
def needOk (e : Engine) (y : Syl) : Bool :=
  match entNeed y.entry with | 1 => capHas e.pcc pCTX | 2 => capHas e.pcc pQUE | _ => true

/-- One syllable of a bundle (R143, R160, R277). -/
def evSyl (s : State) (n : Nat) (z : At) (y : Syl) (op : Op) : Ev :=
  let e := engGet s n
  let g := guardOf e y
  if !g then (if opIsTransfer op then evOp s n z y op false else .acts [])
  else if (entPriv y.entry && !privOk e.compat e.ring e.pcc) || !needOk e y then evHere z .permission
  else if sylUcode y then .ucode 0
  else evOp s n z y op true

/-- The syllables of a bundle from position `i`, those of `done` left out: the first fault or wait in address order, and
otherwise every act (R161, R175). A routine runs before the fault of a syllable behind it is taken, for its own fault would come
first; one that has stopped with a fault gives it at its place. The cells of a push go in last. -/
def evList (s : State) (n : Nat) (z : At) (done : List Nat) : Nat → List (Syl × Op) → Ev
  | _, [] => .acts []
  | i, (y, op) :: t =>
    if hasNat i done then
      match (engGet s n).u.late with
      | some (j, tr) => if j = i then .trap tr else evList s n z done (i + 1) t
      | none => evList s n z done (i + 1) t
    else
      match evSyl s n z y op with
      | .acts l =>
        (match evList s n z done (i + 1) t with
         | .acts m => .acts (l ++ m)
         | o => o)
      | .ucode _ =>
        (match evList s n z done (i + 1) t with
         | .ucode j => .ucode j
         | _ => .ucode (i + 1))
      | .pushPart cs =>
        (match evList s n z done (i + 1) t with
         | .acts _ => .pushPart cs
         | o => o)
      | o => o

end Sys2Proof.Machine
end

