-- ==== Sys2Proof/Machine/Run.lean ====
section
/-! DEFINITION. The issue and the retirement of a bundle (R154 to R162, R167 to R171, R175, R249 to R254), lockstep pairs (R446,
R376), repeats, and the running of micro-routines. -/

namespace Sys2Proof.Machine

/-- What the bundle at hand comes to. -/
inductive BRes where
  /-- It retires: its acts, the address after it, and whether it holds a conditional transfer. -/
  | retire (acts : List Act) (next : Nat) (cond : Bool)
  /-- A repeat prefix, with the address of its body and the address after the body (R170). -/
  | rep (repi : Bool) (body after : Nat)
  | trap (t : Trap)
  | recBad (i t : Nat)
  | hold (h : Hold)
  /-- Some cells of a push go in, and the bundle waits for room for the next one (R71). -/
  | pushPart (cs : List W128)
  | far (load : Bool) (a : Word) (size : Nat)
  /-- The micro-routine of the syllable at a position starts. -/
  | start (pos : Nat) (y : Syl)
  | stuck (f : Fault)
  | refuse
  deriving DecidableEq, Repr

/-- The bundle at hand, decoded: its syllables and operations with the address after it, or the fault of its fetch and decode. -/
inductive Dec where
  | ok (ys : List Syl) (ops : List Op) (next : Nat)
  | bad (t : Trap)
  deriving DecidableEq, Repr

/-- Fetch and decode of the bundle of engine `n` (R154, R159, R168, R173). -/
def decodeBundle (s : State) (n : Nat) : Dec :=
  let e := engGet s n
  let here := pcAt e.pc
  let ill : Dec := .bad { cause := .illegal, adr := BitVec.ofNat 32 here }
  match fetchBundle s n here with
  | .fetchFault a => .bad { cause := .fetch, adr := BitVec.ofNat 32 a }
  | .tileFault a => .bad { cause := .tileFetch, adr := BitVec.ofNat 32 a }
  | .tooLong => ill
  | .bundle ys nx =>
    match bundleOps (n == 66) ys with
    | none => ill
    | some ops => if e.xfer.isSome && (ys.zip ops).any (fun q => slotBarred q.1 q.2) then ill else .ok ys ops nx

/-- Whether the bundle of engine `n` holds an operation, or raises a fault when it is fetched or decoded. A major that its entry sends
to a routine in micro-RAM counts as the instruction that it replaces, and as a customer instruction (R278). -/
def bundleHas (s : State) (n : Nat) (op : Op) : Bool :=
  match decodeBundle s n with
  | .bad _ => true
  | .ok ys ops _ => decide (op ∈ ops) || ys.any (fun y => sylSent y && decide (opOf (sylMajor y.word) (sylMinor y.word) = some op))

/-- The repeat prefix of R170: its count and its body are checked before any iteration. The check reads the words of the body without the
checks of a fetch, so that a body that cannot be fetched faults on its words here, or at its own fetch (DESIGN CHOICE: R170 does not say
which fault comes first). -/
def prefixRes (s : State) (n : Nat) (repi : Bool) (here nx : Nat) : BRes :=
  let lc := (engGet s n).lc.toNat
  let ill : BRes := .trap { cause := .illegal, adr := BitVec.ofNat 32 here }
  if (if repi then 65535 else 256) < lc then ill
  else
    match fetchFrom false s n 8 nx with
    | .bundle [y] after => if entCls y.entry = some .c then ill else .rep repi nx after
    | _ => ill

/-- Whether a bundle holds a conditional transfer (R202). -/
def hasCond (ys : List Syl) (ops : List Op) : Bool :=
  (ys.zip ops).any (fun q => opIsTransfer q.2 && (q.2 == .blc || decide (sylPred q.1.word ≠ 0) || sylNeg q.1.word))

/-- The results that completed micro-routines of the bundle have left (R254). -/
def doneActs (e : Engine) : List Act := e.u.done.filter (fun a => match a with | .ld _ _ _ => false | _ => true)

/-- The routine that runs next among those that have still to run, given in slot order (R254): one that has stopped at a trap point
with a fault waits for those at lower addresses (R175). -/
def routineNext (e : Engine) (l : List Nat) : Option Nat :=
  let parked := e.u.park.map (·.pos)
  match (l.filter (hasNat · parked)).min? with
  | none => l.head?
  | some p => (l.find? (fun i => decide (i < p) && !hasNat i parked)).or (some p)

/-- The bundle of engine `n` on the present state. -/
def bundleRes (s : State) (n : Nat) : BRes :=
  let e := engGet s n
  let here := pcAt e.pc
  match decodeBundle s n with
  | .bad t => .trap t
  | .ok ys ops nx =>
    match ys, ops with
    | [y], [.rep] => if guardOf e y then prefixRes s n false here nx else .retire [] nx false
    | [y], [.repi] => if guardOf e y then prefixRes s n true here nx else .retire [] nx false
    | _, _ =>
      match evList s n { here := here, next := nx } e.u.donePos 0 (ys.zip ops) with
      | .acts l => .retire (doneActs e ++ l) nx (hasCond ys ops)
      | .trap t => .trap t
      | .recBad i t => .recBad i t
      | .hold h => .hold h
      | .pushPart cs => .pushPart cs
      | .far ld a size => .far ld a size
      | .stuck f => .stuck f
      | .refuse => .refuse
      | .ucode before =>
        match routineNext e ((microOrder e ys).filter (fun i => decide (i < before) && !hasNat i e.u.donePos)) with
        | none => .retire (doneActs e) nx false
        | some i => match ys[i]? with | some y => .start i y | none => .refuse

/-! Retirement. -/

/-- The failing tiles that a burst covers whole are cured (R318). -/
def burstCure (s : State) (n a len : Nat) : State :=
  let base (r : Region) : Nat := if r == .dmem then 0x10000000 else 0x20000000
  let r := regionOf n a
  if r == .dmem || r == .window then
    let whole := ((List.range (len / 64 + 1)).map (fun i => a / 64 + i)).filter (fun t => decide (a ≤ 64 * t ∧ 64 * t + 64 ≤ a + len))
    whole.foldl (fun z t =>
      let k := t - base r / 64
      if r == .dmem then (let q := engTile n true k; tileCure z q.1 q.2.1 q.2.2) else tileCure z 4 n k) s
  else s

/-- The trace records of a store; a burst makes none (R494). -/
def traceStore (s : State) (n : Nat) (a : Word) (bs : List Byte) (burst : Bool) : State :=
  if burst then s else trcAccess s n true a bs.length (BitVec.ofNat 128 (leNat bs))

/-- One act of a retiring bundle. `back` is how many pushes the other engine of a lockstep pair has counted, and `win` the context window
as it stood before the bundle. A use of the store port moves its rotation on (R119). -/
def applyAct (n back : Nat) (win : Rec) (s : State) (a : Act) : State :=
  let head := isHead s n
  match a with
  | .g r v => engMap s n (fun e => putG e r v)
  | .p r v => engMap s n (fun e => putP e r v)
  | .c r v => engMap s n (fun e => putC e r v)
  | .lc v => engMap s n (fun e => { e with lc := v })
  | .st adr bs cap burst => burstCure (storeTake (traceStore s n adr bs burst) n adr bs cap) n adr.toNat bs.length
  | .ld adr size v => loadSeen (trcAccess s n false adr size v) n adr size
  | .spr k v => engMap s n (fun e => sprPut e k v)
  | .sprRead k => sprSeen s n k
  | .xpcc k v => engMap s n (fun e => xpccPut e k v)
  | .twr v => engMap s n (fun e => { e with dtx := v, dtxf := true })
  | .trd => engMap s n (fun e => { e with drxf := false })
  | .pop k => inqPop s n k
  | .push cs => (pushAll s n head back cs).2
  | .ctxOpen i => portServed (ctxOpenNow s n i) n
  | .ctxCommit => portServed (ctxCommitNow s n win head) n
  | .ctxDrop => ctxDropNow s n
  | .ctxLock i => portServed (ctxLockNow s n i head) n
  | .ctxUnlock i => portServed (ctxUnlockNow s n i head) n
  | .dispatch =>
    match nextEntry s n with
    | some q => if head then engRecSeen q.2.2 n q.2.1 0 else q.2.2
    | none => s
  | .xfer _ | .rep _ | .eret | .trap _ | .haltReq => s

/-- An engine whose bundle in hand is over: nothing of its wait, its routines or its push is left (R246, R310). -/
def bundleOver (e : Engine) : Engine :=
  { e with hold := .none, noEvent := false, heldBank := none, pushDone := 0, pushPut := 0, told := {},
           u := { e.u with done := [], donePos := [], late := none, park := [] } }

/-- The cells of a bundle's pushes that count in SEQ. -/
def actPushes (acts : List Act) : Nat :=
  acts.foldl (fun k a => match a with | .push cs => k + (cs.filter (fun c => cellKind c != 15)).length | _ => k) 0

/-- The transfer among the acts of a bundle. -/
def actXfer (acts : List Act) : Option Xfer := acts.findSome? (fun a => match a with | .xfer x => some x | _ => none)

/-- A bank swap that waited for the end of a micro-routine (Table 8.5a). -/
def afterRoutine (s : State) (n : Nat) : State :=
  if (engGet s n).swapPend then swapSettle (swapTry s n) else s

/-- The end of a step requests its halt (R480, R482), also where a request of another kind waits for a lock (R481). -/
def stepEnd (s : State) (n : Nat) : State :=
  let e := engGet s n
  if e.dbg.stepping && e.xfer.isNone && !inRepBody e && !haltDue s n then
    engMap s n (fun e => { e with dbg := { e.dbg with pending := true, cause := 2, since := ktb s } })
  else s

/-- Where the engine goes on after a bundle (R167, R170, R201, R259, R260). In the body of a repeat that is a custom instruction whose
routine writes LC (DST 4), the write stands and LC is then decremented (DESIGN CHOICE: R161 forbids a body to name LC and gives no
consequence for one whose routine does; log 75). -/
def pcAdvance (s : State) (n here nx : Nat) (acts : List Act) (cond : Bool) : State :=
  let go (z : State) (p : Word) : State := engMap z n (fun e => { e with pc := p })
  let e := engGet s n
  match e.xfer with
  | some x =>
    engMap s n (fun e =>
      let e1 := { e with xfer := none, pc := if x.taken then x.target else BitVec.ofNat 32 nx, pcc := x.newPcc.getD e.pcc }
      match x.newRing with | some r => ringSet e1 r | none => e1)
  | none =>
    match actXfer acts with
    | some x =>
      let fall := afterBundle s n nx
      let s1 := predResolve s n here fall x.target.toNat cond x.taken
      -- the annulled slot is noted last (DESIGN CHOICE: R274 does not say whose tile SUSPADR keeps where the slot and a wrong-path
      -- bundle of one transfer both fail)
      if x.annul then go (suspectNote s1 n nx) (BitVec.ofNat 32 fall)
      else engMap s1 n (fun e => { e with xfer := some x, pc := BitVec.ofNat 32 nx })
    | none =>
      match e.rep with
      | some _ =>
        let lc := e.lc - 1
        if lc = 0 then engMap s n (fun e => { e with lc := lc, rep := none, repact := false, pc := BitVec.ofNat 32 nx })
        else engMap s n (fun e => { e with lc := lc })
      | none => go s (BitVec.ofNat 32 nx)

/-- What a bundle raises once it has retired: a system call or a breakpoint, an exception return, a halt request (R232). -/
def afterRetire (s : State) (n : Nat) (acts : List Act) : State :=
  let e := engGet s n
  match acts.findSome? (fun a => match a with | .trap t => some t | _ => none) with
  | some t => takeTrap s n t { xpc := e.pc, xlc := e.lc }
  | none =>
    if acts.any (fun a => a == .haltReq) then
      engMap s n (fun e => { e with dbg := { e.dbg with pending := true, cause := 3, since := ktb s } })
    else s

/-- Whether an act closes the open context. -/
def actCloses (a : Act) : Bool := a == .ctxCommit || a == .ctxDrop

/-- What follows a bundle that has closed the open context of engine `n` (R53, R255, R256). -/
def afterClose (s : State) (n : Nat) (acts : List Act) : State :=
  if acts.any actCloses then ctxClosed s n else s

/-- The retirement of a bundle by one engine. Every syllable has read its sources, and a context is open for the whole bundle, before
one of them closes it (R161). -/
def retireOne (s : State) (n back : Nat) (acts : List Act) (nx : Nat) (cond : Bool) : State :=
  let here := pcAt (engGet s n).pc
  let order := acts.filter (fun a => !actCloses a) ++ acts.filter actCloses
  let s1 := order.foldl (applyAct n back (engGet s n).window) (engMap s n bundleOver)
  if acts.any (fun a => a == .eret) then stepEnd (eretTake s1 n) n
  else
    let s2 := afterRetire (pcAdvance s1 n here nx acts cond) n acts
    afterClose (afterRoutine (stepEnd s2 n) n) n acts

/-- The detection of the tile that a fault names (R320), by region. -/
def trapTile (s : State) (n : Nat) (t : Trap) : State :=
  let a := t.adr.toNat
  match t.cause with
  | .tileFetch => engTileDetect s n false (a / 64) 0
  | .tileData =>
    match regionOf n a with
    | .imem => engTileDetect s n false (a / 64) 1
    | .dmem => engTileDetect s n true ((a - 0x10000000) / 64) 1
    | .window => if n < 64 then tileDetect s 4 n ((a - 0x20000000) / 64) 1 else s
    | _ => s
  | _ => s

/-- A fault taken by one engine with a frame, where a failing tile has been met already; a tile failure in the Sett fails the Sett
(R383). -/
def trapMet (s : State) (n : Nat) (t : Trap) (f : ExcFrame) : State :=
  let s1 := { s with free := s.free + 1 }
  if isSettEng n ∧ (t.cause = .tileData ∨ t.cause = .tileFetch) then settDown s1 3
  else if (engGet s1 n).run = .mcheck then s1
  else afterRoutine (stepEnd (takeTrap s1 n t f) n) n

/-- A fault taken by one engine with a frame. -/
def trapOne (s : State) (n : Nat) (t : Trap) (f : ExcFrame) : State := trapMet (trapTile s n t) n t f

/-- Whether a routine of the bundle in hand that has run has the side-effect flag (Table 8.2). -/
def doneSidefx (s : State) (n : Nat) : Bool :=
  let e := engGet s n
  !e.u.donePos.isEmpty &&
  (match fetchBundle s n (pcAt e.pc) with
   | .bundle ys _ => e.u.donePos.any (fun i => match ys[i]? with | some y => entSidefx y.entry | none => false)
   | _ => false)

/-- The frame of a fault of the bundle in hand. -/
def faultFrame (s : State) (n : Nat) : ExcFrame := { frameOf (engGet s n) with sidefx := doneSidefx s n }

/-- A wait entered; the time it began is kept while it lasts. -/
def holdSet (s : State) (n : Nat) (h : Hold) : State :=
  engMap s n (fun e => { e with hold := h, waitFrom := if e.hold = h then e.waitFrom else ktb s,
                                waitCyc := if e.hold = h then e.waitCyc else 0 })

/-- The cells of a push that go in before the bundle waits (R71). -/
def pushSome (s : State) (n back : Nat) (cs : List W128) : State :=
  let q := pushAll s n (isHead s n) back cs
  holdSet (engMap q.2 n (fun e => { e with pushDone := e.pushDone + cs.length, pushPut := e.pushPut + q.1 })) n .push

/-- The effect of one bundle on one engine. The body that a repeat with LC = 0 skips does not count as a wrong-path bundle (DESIGN CHOICE: it
is aligned and never issued, but the bundles that R273 lists do not name it; log 77). -/
def applyOne (s : State) (n back : Nat) (r : BRes) : Host.Outcome State Fault Refusal :=
  match r with
  | .retire acts nx cond => .next (retireOne s n back acts nx cond)
  | .rep repi body after =>
    let s1 := engMap s n (fun e =>
      let e1 := bundleOver e
      if e.lc = 0 then { e1 with pc := BitVec.ofNat 32 after }
      else { e1 with pc := BitVec.ofNat 32 body, repact := true, rep := some { prefixAt := e.pc, repi := repi } })
    .next (if (engGet s n).lc = 0 then stepEnd s1 n else s1)
  | .trap t => .next (trapOne s n t (faultFrame s n))
  | .recBad i t => .next (trapMet (if isHead s n then engRecSeen s n i t else s) n (recTrap t) (faultFrame s n))
  | .hold h => .next (holdSet (if h = .dispatch then inqWait s n else s) n h)
  | .pushPart cs => .next (pushSome s n back cs)
  | .far ld _ _ => .next (holdSet s n (if ld then .farLoad false else .farStore false))
  | .start pos y => .next (microStart s n pos y)
  | .stuck f => .fault f
  | .refuse => .refused .vetchaosInternal

/-- The engine that runs in lockstep behind engine `n`. -/
def partnerOf (s : State) (n : Nat) : Option Nat :=
  if n = 64 then some 65 else if isPaired s && decide (n < 64 ∧ n % 2 = 0) then some (n + 1) else none

/-- Two lockstep engines disagree (R446, R376). -/
def lockstepFail (s : State) (n : Nat) : State := if isSettEng n then settDown s 1 else pairMismatch s n

/-- The tile fault that the bundle of engine `n` meets. -/
def tileMet (s : State) (n : Nat) : Option Trap :=
  match bundleRes s n with
  | .trap t => if t.cause = .tileData ∨ t.cause = .tileFetch then some t else none
  | _ => none

/-- Whether one engine of the Sett meets a failing tile where the other does not. -/
def settTileMet (s : State) (n m : Nat) : Bool := isSettEng n && decide (tileMet s n ≠ tileMet s m)

/-- The failing tile check recorded (R320). -/
def settTileSeen (s : State) (n m : Nat) : State :=
  match tileMet s n, tileMet s m with
  | some t, _ => trapTile s n t
  | none, some t => trapTile s m t
  | none, none => s

/-- The bundle of engine `n`, and of its lockstep partner, run once; both take the same free values. A failing tile that one engine of
the Sett meets alone is a failing tile check, not a mismatch (R325, R383). -/
def runOnce (s : State) (n : Nat) : Host.Outcome State Fault Refusal :=
  let r := bundleRes s n
  match partnerOf s n with
  | none => applyOne s n 0 r
  | some m =>
    if settTileMet s n m then .next (settDown (settTileSeen s n m) 3)
    else if bundleRes s m = r then
      match applyOne s n 0 r with
      | .next z =>
        let back := match r with | .retire acts _ _ => actPushes acts | .pushPart cs => actPushes [.push cs] | _ => 0
        -- a machine check or a failure of the Sett has stopped both
        if (engGet z m).run = .running then applyOne { z with free := s.free } m back r else .next z
      | o => o
    else .next (lockstepFail s n)

/-- Whether the lock wait of an engine is one that may not wait at all (R116). -/
def noLockWait (s : State) (n : Nat) : Bool := decide (n < 64) && decide (field (regGet s (0x6100 + cluOf n * 0x20)) 15 0 = 0)

/-- The bundle in hand of engine `n` and of its lockstep partner told something. -/
def tellBoth (s : State) (n : Nat) (f : Told → Told) : State :=
  (match partnerOf s n with | none => [n] | some m => [n, m]).foldl (fun z m => engMap z m (fun e => { e with told := f e.told })) s

/-- The bundle run once, with the lock wait of length zero ended at once. -/
def runWait (s : State) (n : Nat) : Host.Outcome State Fault Refusal :=
  match runOnce s n with
  | .next z =>
    if (engGet z n).hold = .lock ∧ noLockWait s n = true then
      runOnce (tellBoth (cntAdd s (0x6108 + cluOf n * 0x20) 1) n (fun t => { t with lockOut := true })) n
    else .next z
  | o => o

/-- Whether trace unit `k` dropped a record between two states (R497). -/
def trcDropped (s z : State) (k : Nat) : Bool := decide ((trcGet s k).lost < (trcGet z k).lost)

/-- Whether TRCSTALL holds engine `n`, whose record was dropped between two states, in W (R497). -/
def trcHeld (s z : State) (n : Nat) : Bool := decide (n < 64) && bitAt (trcCtl s (cluOf n)) 3 && trcDropped s z (cluOf n)

/-- The cycles that an engine has been held for the trace FIFO, where `held` says that it has, counted up to now. -/
def trcStallCount (s : State) (n : Nat) (held : Bool) : State :=
  if held then
    engMap (cntAdd s (trcAdr (cluOf n) 0x14) (cyclesOf s ((ktb s).toNat - (engGet s n).waitFrom.toNat))) n
      (fun e => { e with waitFrom := ktb s, u := { e.u with stall := false } })
  else s

/-- A bundle and, when it is the prefix REP or stands in its body, every iteration that follows without a hold (R170, R171). One whose
record finds no room under TRCSTALL waits in W with nothing done (R497). -/
def runRep : Nat → State → Nat → Host.Outcome State Fault Refusal
  | 0, s, _ => .next s
  | k + 1, s, n =>
    match runWait s n with
    | .next z =>
      let e := engGet z n
      if trcHeld s z n then .next (forNats (pairOf s n) (fun y m => holdSet y m .trace) s)
      else if inRepBody e && e.hold == .none && e.run == .running then runRep k z n
      else .next z
    | o => o

/-- The bundle of engine `n` run, with the cycles counted that it has been held in W (R497). -/
def runBundle (s : State) (n : Nat) : Host.Outcome State Fault Refusal :=
  runRep 258 (trcStallCount s n ((engGet s n).hold == .trace)) n

/-- The power domain of an engine. -/
def engDom (n : Nat) : Nat := if n < 64 then n else if n = 66 then 80 else 78

/-- Whether engine `n` runs: started, not halted by debug or at its halt point, awake and powered. -/
def engRuns (s : State) (n : Nat) : Bool :=
  let e := engGet s n
  decide (n < 67) && e.run == .running && !e.dbg.halted && e.pstate == .run && domStat s (engDom n) == 1 &&
  !(haltDue s n && haltPoint s n)

/-- Whether engine `n` is the first of its lockstep pair, or runs alone. -/
def engLeads (s : State) (n : Nat) : Bool := isHead s n

/-- Whether engine `n` and its partner can issue their present bundle. -/
def engReady (s : State) (n : Nat) (ok : Hold → Bool) : Bool :=
  engLeads s n && engRuns s n && ok (engGet s n).hold &&
  (match partnerOf s n with | none => true | some m => engRuns s m && (engGet s m).hold == (engGet s n).hold)

/-- A hold from which a bundle is issued. -/
def issueHold (h : Hold) : Bool := h == .none || h == .trace

/-- A command that stands for an instruction: the present bundle of engine `n` runs when it holds the operation. A command for
an engine that does not run now, or whose bundle holds no such operation, changes nothing. -/
def issueOp (op : Op) (n : Nat) (s : State) : Host.Outcome State Fault Refusal :=
  if engReady s n issueHold && bundleHas s n op then runBundle s n else .next s

/-- The bundle of engine `n` run again once what it waited for has come. -/
def runAgain (s : State) (n : Nat) : Host.Outcome State Fault Refusal :=
  let s1 := (match partnerOf s n with | none => [n] | some m => [n, m]).foldl
    (fun z m => engMap z m (fun e => { e with hold := .none })) s
  runBundle s1 n

/-! Micro-routines. -/

/-- A fault raised by a micro-word (R253): at a trap point the micro-state is saved, and otherwise the instruction is
cancelled. While a routine at a lower address of the bundle has still to run, the fault waits for what that one gives (R175): a routine
that has stopped at a trap point keeps its micro-state, and meets its fault again when its turn comes. -/
def microTrap (s : State) (n : Nat) (ys : List Syl) (y : Syl) (t : Trap) (point : Bool) : State :=
  let e := engGet s n
  let f := faultFrame s n
  let lower := (microOrder e ys).any (fun j => decide (j < e.u.pos) && !hasNat j e.u.donePos)
  if point && !lower then trapOne s n t (microFrame s n ys)
  else if point then
    engMap s n (fun e => { e with hold := .none, u := { microIdle e.u with
      done := e.u.done, donePos := e.u.donePos, late := e.u.late,
      park := { pos := e.u.pos, upc := e.u.upc, stack := e.u.stack, ut := [e.u.ut0, e.u.ut1, e.u.ut2, e.u.ut3] } :: e.u.park } })
  else if lower then
    engMap s n (fun e => { e with hold := .none, u := { microIdle e.u with
      done := e.u.done, donePos := e.u.donePos ++ [e.u.pos], park := e.u.park,
      late := match e.u.late with
        | some q => if q.1 < e.u.pos then some q else some (e.u.pos, t)
        | none => some (e.u.pos, t) } })
  else trapOne s n t { f with sidefx := f.sidefx || entSidefx y.entry }

/-- The trap point at which the routine of engine `n` stood before a word acted passed: events may be taken again (R246). -/
def pointPass (before s : State) (n : Nat) (y : Syl) : State :=
  if trapWord (engGet before n) y then engMap s n (fun e => { e with noEvent := false }) else s

/-- What a micro-step leaves, as an outcome; `k` goes on with the next word. -/
def microOut (s : State) (n : Nat) (ys : List Syl) (y : Syl) (o : MOut) (k : State → Host.Outcome State Fault Refusal) :
    Host.Outcome State Fault Refusal :=
  match o with
  | .go z => k z
  | .done z => .next (microEnd (pointPass s z n y) n (microResults (engGet z n).u y))
  | .trap t p => .next (microTrap s n ys y t p)
  | .far ld _ _ => .next (holdSet s n (if ld then .farLoad true else .farStore true))
  | .parity a => .next (holdSet s n (.parity false a))
  | .internal => .refused .vetchaosInternal
  | .lost f => .fault f

/-- A routine of the micro-ROM or of the library of engine `n` at its next trap point (R185, R281). -/
def pointNext (s : State) (n : Nat) (y : Syl) : State :=
  pointPass s (engMap s n (fun e => { e with u := { e.u with pts := e.u.pts + 1 } })) n y

/-- What stops a routine of the micro-ROM or of the library; a fault of it is none at a trap point. -/
def romStop (s : State) (n : Nat) (ys : List Syl) (y : Syl) (g : Got) : Host.Outcome State Fault Refusal :=
  match g with
  | .trap t => .next (microTrap s n ys y t false)
  | .lost f => .fault f
  | _ => .refused .vetchaosInternal

/-- One micro-word of the routine of one engine, or a routine of the micro-ROM or of the library to its end: with `pass`, such a routine
goes on to its next trap point only. -/
def microOne (pass : Bool) (s : State) (n : Nat) : Host.Outcome State Fault Refusal :=
  match runningSyl s n with
  | none => .next s
  | some (ys, y) =>
    if pass then
      if (engGet s n).u.pts < pointsIn s n y then
        match blockPoint s n y with
        | .ok z => .next (pointNext z n y)
        | .error g => romStop s n ys y g
      else .next s
    else if (engGet s n).u.rom then
      match romResult s n y with
      | none => .refused .vetchaosInternal
      | some (.ok acts) => .next (microEnd (pointPass s (microFree s n) n y) n acts)
      | some (.error g) => romStop s n ys y g
    else microOut s n ys y (microStep s n y none) (fun z => .next (pointPass s z n y))

/-- Whether the routine that engine `n` ran has completed and its bundle goes on. -/
def microFinished (s : State) (n : Nat) : Bool :=
  let e := engGet s n
  e.run == .running && e.hold == .none && !e.u.donePos.isEmpty

/-- Two engines as the comparators of R446 and R376 see them in a micro-routine. -/
def microAgree (a b : Engine) : Bool :=
  a.hold == b.hold && a.pc == b.pc && a.level == b.level && a.u == b.u && a.run == b.run

/-- Whether the word in hand of two lockstep engines would make the same store (R382). -/
def microStoresAgree (s : State) (n m : Nat) : Bool :=
  match runningSyl s n, runningSyl s m with
  | some (_, y), some (_, x) => (engGet s n).u.rom || decide (microStore s n y = microStore s m x)
  | _, _ => true

/-- A change of the routine of engine `n` and of its partner. What the partner reads is what stands before a store or a ticket of this
word, so that it acts first where neither leaves its routine by a fault; nothing takes effect where their stores differ. -/
def microPair (s : State) (n : Nat) (f : State → Nat → Host.Outcome State Fault Refusal) : Host.Outcome State Fault Refusal :=
  match partnerOf s n with
  | none => f s n
  | some m =>
    if !microStoresAgree s n m then .next (lockstepFail s n)
    else
      match f s n with
      | .next z =>
        let quiet := (engGet z n).level == (engGet s n).level && (engGet z n).run == .running
        let both := if quiet then
            (match f s m with | .next w => f { w with free := s.free } n | o => o)
          else if (engGet z m).run ≠ .running then .next z
          else f { z with free := s.free } m
        (match both with
         | .next w =>
           if (engGet w m).run = .running && !microAgree (engGet w n) (engGet w m) then .next (lockstepFail w n) else .next w
         | o => o)
      | o => o

/-- A step ends at the trap point at which the routine of engine `n` and of its partner stands (R482). -/
def stepPoint (s : State) (n : Nat) : State :=
  if atTrapPoint s n then forNats (match partnerOf s n with | none => [n] | some m => [n, m]) stepEnd s else s

/-- The routine of engine `n` taken to its next trap point, where it is one of the micro-ROM or of the library. -/
def microPass (s : State) (n : Nat) : Host.Outcome State Fault Refusal :=
  match microPair s n (microOne true) with
  | .next z => .next (stepPoint z n)
  | o => o

/-- Whether a routine that is stepped has a trap point before its end. -/
def stepsInside (s : State) (n : Nat) : Bool :=
  (engGet s n).dbg.stepping &&
  (match runningSyl s n with | some q => decide ((engGet s n).u.pts < pointsIn s n q.2) | none => false)

/-- The routine of engine `n` held at its word while the trace FIFO has no room for the record of it (R497). -/
def microStall (s : State) (n : Nat) : State :=
  (pairOf s n).foldl (fun z m => engMap z m (fun e => { e with waitFrom := ktb s, u := { e.u with stall := true } })) s

/-- Up to `k` micro-words of engine `n` and its partner, and the bundle run on where the routine has completed; a halt that is due, or
the end of a step, stops the routine at a trap point, and TRCSTALL at a word whose record finds no room. -/
def microRun : Nat → State → Nat → Host.Outcome State Fault Refusal
  | 0, s, _ => .next s
  | k + 1, s, n =>
    if stepsInside s n then microPass s n
    else
      match microPair s n (microOne false) with
      | .next z =>
        if trcHeld s z n then .next (microStall s n)
        else if microFinished z n then runBundle z n
        else if (engGet z n).hold ≠ .micro then .next z
        else
          let z1 := stepPoint z n
          if atTrapPoint z1 n && haltDue z1 n then .next z1 else microRun k z1 n
      | o => o

/-- A far access of the micro-word in hand answered, and the bundle run on where the routine has completed. -/
def microBoth (s : State) (n : Nat) (f : State → Nat → Host.Outcome State Fault Refusal) : Host.Outcome State Fault Refusal :=
  let s1 := trcStallCount s n (engGet s n).u.stall
  match microPair s1 n f with
  | .next z => if trcHeld s1 z n then .next (microStall s1 n) else if microFinished z n then runBundle z n else .next z
  | o => o

/-- The answer to a far access of a micro-word: `got` is its value, or `none` when the system MMU refuses it. -/
def microFar (got : Option W128) (s : State) (n : Nat) : Host.Outcome State Fault Refusal :=
  match runningSyl s n with
  | none => .next s
  | some (ys, y) =>
    let s1 := engMap s n (fun e => { e with hold := .micro })
    match got with
    | some v =>
      let q := match microStep s1 n y none with
        | .far true a size => (farValue s1 n a size v, if isHead s1 n then farOrder s1 n a size else s1)
        | _ => (v, s1)
      microOut q.2 n ys y (microStep q.2 n y (some q.1)) (fun z => .next (pointPass s z n y))
    | none =>
      match microStep s1 n y none with
      | .far _ a _ =>
        .next (microTrap s1 n ys y { cause := .far, adr := a } (bitAt (microWord (engGet s1 n) (engGet s1 n).u.upc) 136 && sylUtrap y))
      | _ => .next s

end Sys2Proof.Machine
end

