-- ==== Sys2Proof/Machine/EngineRows.lean ====
section
/-! DEFINITION. The commands that stand for engine instructions, one definition each, and those that end a wait of an engine. -/

namespace Sys2Proof.Machine

/-- ALU, R177. -/
def execAlu (n : Nat) (s : State) : Host.Outcome State Fault Refusal := issueOp .alu n s

/-- ALU_IMMEDIATE, R179. -/
def execAluImmediate (n : Nat) (s : State) : Host.Outcome State Fault Refusal := issueOp .aluImm n s

/-- SHIFT_IMMEDIATE, R178. -/
def execShiftImmediate (n : Nat) (s : State) : Host.Outcome State Fault Refusal := issueOp .shiftImm n s

/-- UNARY, R177. -/
def execUnary (n : Nat) (s : State) : Host.Outcome State Fault Refusal := issueOp .unary n s

/-- SAT, R180. -/
def execSat (n : Nat) (s : State) : Host.Outcome State Fault Refusal := issueOp .sat n s

/-- CMP, R181. -/
def execCmp (n : Nat) (s : State) : Host.Outcome State Fault Refusal := issueOp .cmp n s

/-- PLOG, R182. -/
def execPlog (n : Nat) (s : State) : Host.Outcome State Fault Refusal := issueOp .plog n s

/-- GETP, R182. -/
def execGetp (n : Nat) (s : State) : Host.Outcome State Fault Refusal := issueOp .getp n s

/-- SETP, R182. -/
def execSetp (n : Nat) (s : State) : Host.Outcome State Fault Refusal := issueOp .setp n s

/-- MUL, R183. -/
def execMul (n : Nat) (s : State) : Host.Outcome State Fault Refusal := issueOp .mul n s

/-- DIV, R184. -/
def execDiv (n : Nat) (s : State) : Host.Outcome State Fault Refusal := issueOp .div n s

/-- LOAD, R187. -/
def execLoad (n : Nat) (s : State) : Host.Outcome State Fault Refusal := issueOp .load n s

/-- STORE, R187. -/
def execStore (n : Nat) (s : State) : Host.Outcome State Fault Refusal := issueOp .store n s

/-- LDC, R189. -/
def execLdc (n : Nat) (s : State) : Host.Outcome State Fault Refusal := issueOp .ldc n s

/-- STC, R189. -/
def execStc (n : Nat) (s : State) : Host.Outcome State Fault Refusal := issueOp .stc n s

/-- FENCE, R192. -/
def execFence (n : Nat) (s : State) : Host.Outcome State Fault Refusal := issueOp .fence n s

/-- CMOV, R193. -/
def execCmov (n : Nat) (s : State) : Host.Outcome State Fault Refusal := issueOp .cmov n s

/-- CSETB, R194. -/
def execCsetb (n : Nat) (s : State) : Host.Outcome State Fault Refusal := issueOp .csetb n s

/-- CSETL, R194. -/
def execCsetl (n : Nat) (s : State) : Host.Outcome State Fault Refusal := issueOp .csetl n s

/-- CSETBL, R194. -/
def execCsetbl (n : Nat) (s : State) : Host.Outcome State Fault Refusal := issueOp .csetbl n s

/-- CANDP, R193. -/
def execCandp (n : Nat) (s : State) : Host.Outcome State Fault Refusal := issueOp .candp n s

/-- CGETB, R193. -/
def execCgetb (n : Nat) (s : State) : Host.Outcome State Fault Refusal := issueOp .cgetb n s

/-- CGETL, R193. -/
def execCgetl (n : Nat) (s : State) : Host.Outcome State Fault Refusal := issueOp .cgetl n s

/-- CGETP, R193. -/
def execCgetp (n : Nat) (s : State) : Host.Outcome State Fault Refusal := issueOp .cgetp n s

/-- CGETT, R193. -/
def execCgett (n : Nat) (s : State) : Host.Outcome State Fault Refusal := issueOp .cgett n s

/-- CSEAL, R236. -/
def execCseal (n : Nat) (s : State) : Host.Outcome State Fault Refusal := issueOp .cseal n s

/-- CUNSEAL, R236. -/
def execCunseal (n : Nat) (s : State) : Host.Outcome State Fault Refusal := issueOp .cunseal n s

/-- CSENTRY, R236. -/
def execCsentry (n : Nat) (s : State) : Host.Outcome State Fault Refusal := issueOp .csentry n s

/-- BR, R197. -/
def execBr (n : Nat) (s : State) : Host.Outcome State Fault Refusal := issueOp .br n s

/-- BLC, R198. -/
def execBlc (n : Nat) (s : State) : Host.Outcome State Fault Refusal := issueOp .blc n s

/-- JR, R199. -/
def execJr (n : Nat) (s : State) : Host.Outcome State Fault Refusal := issueOp .jr n s

/-- CJ, R200. -/
def execCj (n : Nat) (s : State) : Host.Outcome State Fault Refusal := issueOp .cj n s

/-- CJO, R200. -/
def execCjo (n : Nat) (s : State) : Host.Outcome State Fault Refusal := issueOp .cjo n s

/-- REP, R170. -/
def execRep (n : Nat) (s : State) : Host.Outcome State Fault Refusal := issueOp .rep n s

/-- REPI, R170. -/
def execRepi (n : Nat) (s : State) : Host.Outcome State Fault Refusal := issueOp .repi n s

/-- BIT, R205. -/
def execBit (n : Nat) (s : State) : Host.Outcome State Fault Refusal := issueOp .bit n s

/-- FLD, R206. -/
def execFld (n : Nat) (s : State) : Host.Outcome State Fault Refusal := issueOp .fld n s

/-- CRC_STEP, R208. -/
def execCrcStep (n : Nat) (s : State) : Host.Outcome State Fault Refusal := issueOp .crcStep n s

/-- CRCINIT, R209. -/
def execCrcinit (n : Nat) (s : State) : Host.Outcome State Fault Refusal := issueOp .crcInit n s

/-- CRCFIN, R209. -/
def execCrcfin (n : Nat) (s : State) : Host.Outcome State Fault Refusal := issueOp .crcFin n s

/-- CRCBLK, R210. -/
def execCrcblk (n : Nat) (s : State) : Host.Outcome State Fault Refusal := issueOp .crcBlk n s

/-- FOP, R212. -/
def execFop (n : Nat) (s : State) : Host.Outcome State Fault Refusal := issueOp .fop n s

/-- FDIV, R216. -/
def execFdiv (n : Nat) (s : State) : Host.Outcome State Fault Refusal := issueOp .fdiv n s

/-- FSQRT, R216. -/
def execFsqrt (n : Nat) (s : State) : Host.Outcome State Fault Refusal := issueOp .fsqrt n s

/-- FCMP, R214. -/
def execFcmp (n : Nat) (s : State) : Host.Outcome State Fault Refusal := issueOp .fcmp n s

/-- FCVT, R215. -/
def execFcvt (n : Nat) (s : State) : Host.Outcome State Fault Refusal := issueOp .fcvt n s

/-- TPOP, R219. -/
def execTpop (n : Nat) (s : State) : Host.Outcome State Fault Refusal := issueOp .tpop n s

/-- TPEEK, R219. -/
def execTpeek (n : Nat) (s : State) : Host.Outcome State Fault Refusal := issueOp .tpeek n s

/-- TPUSH, R220. -/
def execTpush (n : Nat) (s : State) : Host.Outcome State Fault Refusal := issueOp .tpush n s

/-- TPOPR, R221. -/
def execTpopr (n : Nat) (s : State) : Host.Outcome State Fault Refusal := issueOp .tpopr n s

/-- TPUSHR, R221. -/
def execTpushr (n : Nat) (s : State) : Host.Outcome State Fault Refusal := issueOp .tpushr n s

/-- CTXOPEN, R224. -/
def execCtxopen (n : Nat) (s : State) : Host.Outcome State Fault Refusal := issueOp .ctxOpen n s

/-- CTXCOMMIT, R225. -/
def execCtxcommit (n : Nat) (s : State) : Host.Outcome State Fault Refusal := issueOp .ctxCommit n s

/-- CTXLOCK, R226. -/
def execCtxlock (n : Nat) (s : State) : Host.Outcome State Fault Refusal := issueOp .ctxLock n s

/-- CTXUNLOCK, R226. -/
def execCtxunlock (n : Nat) (s : State) : Host.Outcome State Fault Refusal := issueOp .ctxUnlock n s

/-- CTXDROP, R225. -/
def execCtxdrop (n : Nat) (s : State) : Host.Outcome State Fault Refusal := issueOp .ctxDrop n s

/-- DISPATCH, R227. -/
def execDispatch (n : Nat) (s : State) : Host.Outcome State Fault Refusal := issueOp .dispatch n s

/-- TICKWAIT, R229. -/
def execTickwait (n : Nat) (s : State) : Host.Outcome State Fault Refusal := issueOp .tickWait n s

/-- TWR, R230. -/
def execTwr (n : Nat) (s : State) : Host.Outcome State Fault Refusal := issueOp .twr n s

/-- TRD, R230. -/
def execTrd (n : Nat) (s : State) : Host.Outcome State Fault Refusal := issueOp .trd n s

/-- MFS, R231. -/
def execMfs (n : Nat) (s : State) : Host.Outcome State Fault Refusal := issueOp .mfs n s

/-- MTS, R231. -/
def execMts (n : Nat) (s : State) : Host.Outcome State Fault Refusal := issueOp .mts n s

/-- CMFS, R231. -/
def execCmfs (n : Nat) (s : State) : Host.Outcome State Fault Refusal := issueOp .cmfs n s

/-- CMTS, R231. -/
def execCmts (n : Nat) (s : State) : Host.Outcome State Fault Refusal := issueOp .cmts n s

/-- The save bank of the present level of engine `n` made to fail its parity check (R248). -/
def bankSpoil (s : State) (n : Nat) : State :=
  engMap s n (fun e =>
    let v := saveGet e e.level
    saveSet e e.level { v with bank := { v.bank with bad := true } })

/-- ERET, R246; with `bankBad`, the save bank that it would read fails its parity check (R248). -/
def execEret (n : Nat) (s : State) (bankBad : Bool := false) : Host.Outcome State Fault Refusal :=
  issueOp .eret n (if bankBad then (pairOf s n).foldl bankSpoil s else s)

/-- SYSC, R232. -/
def execSysc (n : Nat) (s : State) : Host.Outcome State Fault Refusal := issueOp .sysc n s

/-- BRK, R232. -/
def execBrk (n : Nat) (s : State) : Host.Outcome State Fault Refusal := issueOp .brk n s

/-- CUSTOM_INSTRUCTION, R234. -/
def execCustomInstruction (n : Nat) (s : State) : Host.Outcome State Fault Refusal := issueOp .custom n s

/-! Waits. -/

/-- FAR_LOAD_DATA, R191: the data of the far load for which the bundle, or its micro-word, is held; `none` is a failure that the
system MMU reports. The engine's earlier stores to the same bytes are complete by then (R165). -/
def execFarLoadData (n : Nat) (data : Option W128) (s : State) : Host.Outcome State Fault Refusal :=
  if engReady s n (fun h => h == .farLoad false) then
    match bundleRes s n with
    | .far true a size =>
      match data with
      | some v =>
        let give (z : State) (m : Nat) : State :=
          engMap z m (fun e => { e with u := { e.u with done := e.u.done ++ [.ld a size (farValue s m a size v)] } })
        runAgain ((match partnerOf s n with | none => [n] | some m => [n, m]).foldl give (farOrder s n a size)) n
      | none =>
        .next ((match partnerOf s n with | none => [n] | some m => [n, m]).foldl
          (fun z m => trapOne { z with free := s.free } m { cause := .far, adr := a } (faultFrame z m)) s)
    | _ => .next s
  else if engReady s n (fun h => h == .farLoad true) then
    match data with
    | some v => microBoth s n (microFar (some v))
    | none => microBoth s n (microFar none)
  else .next s

/-- FAR_STORE_ACCEPT, R191: the system MMU accepts the translation of the far store for which the bundle, or its micro-word, is
held, or refuses it. A ninth far store is not accepted before one of the eight completes. -/
def execFarStoreAccept (n : Nat) (ok : Bool) (s : State) : Host.Outcome State Fault Refusal :=
  if ok && decide (8 ≤ (engGet s n).farOut) then .next s
  else if engReady s n (fun h => h == .farStore false) then
    match bundleRes s n with
    | .far false a _ =>
      if ok then runAgain (tellBoth s n (fun t => { t with stOk := true })) n
      else .next ((match partnerOf s n with | none => [n] | some m => [n, m]).foldl
        (fun z m => trapOne { z with free := s.free } m { cause := .far, adr := a } (faultFrame z m)) s)
    | _ => .next s
  else if engReady s n (fun h => h == .farStore true) then microBoth s n (microFar (if ok then some 0 else none))
  else .next s

/-- FAR_STORE_COMPLETE, R165: the oldest accepted far store of engine `n` completes (DESIGN CHOICE: R165 orders only those to the same
bytes); a FENCE that waited for the last one goes on. -/
def execFarStoreComplete (n : Nat) (s : State) : Host.Outcome State Fault Refusal :=
  if (engGet s n).farOut = 0 then .next s
  else
    let s1 := engMap s n (fun e => { e with farOut := e.farOut - 1, farSt := e.farSt.drop 1 })
    if engReady s1 n (fun h => h == .fence) && decide ((engGet s1 n).farOut = 0) then runAgain s1 n else .next s1

/-- `cyc` more cycles of a lock wait counted (R116). -/
def lockStall (s : State) (n cyc : Nat) : State :=
  let s1 := engMap s n (fun e => { e with waitCyc := e.waitCyc + cyc })
  if n < 64 then cntAdd s1 (0x6104 + cluOf n * 0x20) cyc else s1

/-- The cycles that the lock wait in hand of engine `n` may still last (R116). -/
def lockLeft (s : State) (n : Nat) : Nat := field (regGet s (0x6100 + cluOf n * 0x20)) 15 0 - (engGet s n).waitCyc

/-- A lock wait that has lasted LOCKWAIT cycles ends without the lock (R116). -/
def lockTimeout (s : State) (n : Nat) : Host.Outcome State Fault Refusal :=
  let s1 := lockStall s n (lockLeft s n)
  runAgain (tellBoth (if n < 64 then cntAdd s1 (0x6108 + cluOf n * 0x20) 1 else s1) n (fun t => { t with lockOut := true })) n

/-- Whether the bundle on which engine `n` waits for a lock holds CTXLOCK rather than CTXOPEN. -/
def waitsToLock (s : State) (n : Nat) : Bool := bundleHas s n .ctxLock

/-- Whether engine `n` waits on a lock that is free now. -/
def lockWaits (s : State) (n : Nat) : Bool :=
  engReady s n (fun h => h == .lock) && decide (bundleRes s n ≠ .hold .lock)

/-- The engine of a cluster that its store port serves next among those that wait on free locks (R119, Table 4.6): a CTXLOCK comes
before a CTXOPEN, and among the same the engine after the one served last. -/
def portNext (s : State) (k : Nat) : Option Nat :=
  let order := (List.range 8).map (fun j => 8 * k + (tblGet 0 k s.store.portRot + j) % 8)
  let ready := order.filter (lockWaits s)
  (ready.find? (waitsToLock s)).or ready.head?

/-- LOCK_WAIT_END, R114: the wait of the instruction has lasted `cyc` cycles more, which count whether or not it ends here. A wait of
LOCKWAIT cycles in all ends without the lock (R116); before that it ends when the lock is free and the store port serves this engine
(R119). -/
def execLockWaitEnd (n cyc : Nat) (s : State) : Host.Outcome State Fault Refusal :=
  if engReady s n (fun h => h == .lock) then
    if decide (n < 64) && decide (lockLeft s n ≤ cyc) then lockTimeout s n
    else
      let s1 := lockStall s n cyc
      if lockWaits s n && (decide (64 ≤ n) || portNext s (cluOf n) == some n) then runAgain s1 n else .next s1
  else .next s

/-- LOCK_WAIT_TIMEOUT, R116: the rest of the LOCKWAIT cycles of the wait in hand has passed. -/
def execLockWaitTimeout (n : Nat) (s : State) : Host.Outcome State Fault Refusal :=
  if engReady s n (fun h => h == .lock) && decide (bundleRes s n = .hold .lock) then lockTimeout s n
  else .next s

/-- DISPATCH_ENTRY_READY, R82: the list of a waiting engine has an entry that it may take. -/
def execDispatchEntryReady (n : Nat) (s : State) : Host.Outcome State Fault Refusal :=
  if engReady s n (fun h => h == .dispatch) && (nextEntry s n).isSome then runAgain s n else .next s

/-- TICKWAIT_EDGE, R229: the edge for which the instruction waits has come. -/
def execTickwaitEdge (n : Nat) (s : State) : Host.Outcome State Fault Refusal :=
  if engReady s n (fun h => h == .tickMet) then runAgain s n else .next s

/-! Micro-routines and their parity. -/

/-- MICROROUTINE_COMPLETE, R284: the routine that holds the bundle runs up to `cyc` micro-words, and a routine of the micro-ROM
to its end. With `cyc` 0, a routine of the micro-ROM or of the library goes on to its next trap point (R185, R246, R281, R296). -/
def execMicroroutineComplete (n cyc : Nat) (s : State) : Host.Outcome State Fault Refusal :=
  if engReady s n (fun h => h == .micro) then
    if cyc = 0 then microPass s n else microRun cyc (trcStallCount s n (engGet s n).u.stall) n
  else .next s

/-- The record and counter of a repair (R297). -/
def repairNote (s : State) (n : Nat) (entry : Bool) (adr : Nat) : State :=
  let w := BitVec.ofNat 32 (b2n entry * 2 ^ 17 + b2n (engGet s n).ubank * 2 ^ 16 + adr % 8192)
  fltWrite (engCount s n 0x910C 1) 4 (BitVec.ofNat 32 n) w 0

/-- What a failing micro-word or decode entry leads to (R297 to R299, R381, R536): the repair, a machine-check halt when the second
read or the golden copy fails too or the Badger is stopped, and the failure of the Sett. -/
def parityOutcome (s : State) (n : Nat) (entry : Bool) (adr : Nat) (ok : Bool) : State :=
  if isSettEng n then settDown s 2
  else if !ok || badgerDead s || (!entry && decide (0xC00 ≤ adr)) then machineCheck s n 3 0
  else repairNote s n entry adr

/-- MICROWORD_REPAIR_DONE, R297: a held engine reads the word again; without a hold the failing read and its repair are one
step. -/
def execMicrowordRepairDone (n : Nat) (entry : Bool) (adr : Nat) (ok : Bool) (s : State) :
    Host.Outcome State Fault Refusal :=
  let e := engGet s n
  if decide (67 ≤ n) || e.run != .running || domStat s (engDom n) != 1 then .next s
  else if e.hold = .parity entry adr then
    let s1 := parityOutcome s n entry adr ok
    .next (if (engGet s1 n).run = .running then
      engMap s1 n (fun e => { e with hold := if entry then .none else .micro }) else s1)
  else .next (parityOutcome s n entry adr ok)

end Sys2Proof.Machine
end

