-- ==== Sys2Proof/Machine/Chain.lean ====
section
/-! DEFINITION. The chain (R56, R86 to R98): frames, ports, breaks, wraps and enumeration. A cell that the crossbar brings to a
port leaves at once in a frame of its own, and `Chain.out` records the frames sent. -/

namespace Sys2Proof.Machine

/-- Port `p`. -/
def portGet (s : State) (p : Nat) : Port := if p = 0 then s.chain.port0 else s.chain.port1

/-- Port `p` replaced. -/
def portSet (s : State) (p : Nat) (x : Port) : State :=
  if p = 0 then { s with chain := { s.chain with port0 := x } } else { s with chain := { s.chain with port1 := x } }

/-- The register of port `p` at an offset of its block. -/
def chnAdr (p off : Nat) : Nat := 0xC0100 + p * 0x40 + off

/-- CHN.CTL.EN0 or EN1, with the port's domain on. -/
def portOn (s : State) (p : Nat) : Bool := decide (p < 2) && bitAt (regGet s 0xC0000) p && domStat s (81 + p) == 1

/-- CHN.CTL.HEAD. -/
def chnHead (s : State) : Bool := bitAt (regGet s 0xC0000) 2

/-- Fields of a frame header (Table 3.6). -/
def fhType (h : W64) : Nat := field h 63 56
def fhSrc (h : W64) : Nat := field h 55 49
def fhHops (h : W64) : Nat := field h 48 41
def fhCount (h : W64) : Nat := field h 40 37
def fhWrap (h : W64) : Bool := bitAt h 36
def fhPast (h : W64) : Bool := bitAt h 35
def fhStamp (h : W64) : Nat := field h 31 16
def fhSeq (h : W64) : Nat := field h 15 0

/-- A frame header from its fields. -/
def fhMake (type src hops count : Nat) (wrap past : Bool) (stamp seq : Nat) : W64 :=
  BitVec.ofNat 64 (type % 256 * 2 ^ 56 + src % 128 * 2 ^ 49 + hops % 256 * 2 ^ 41 + count % 16 * 2 ^ 37 + b2n wrap * 2 ^ 36 +
    b2n past * 2 ^ 35 + stamp % 65536 * 2 ^ 16 + seq % 65536)

/-- CRC-32C over header and bodies (R88). -/
def frameCrc (h : W64) (bodies : List W128) : Word :=
  crc32c (leBytes 8 h.toNat ++ bodies.flatMap (fun b => leBytes 16 b.toNat))

/-- A frame sent out of port `p` (R88, R93): HOPS, STAMP and LSEQ are those of this transmission. -/
def frameSend (s : State) (p : Nat) (type src hops : Nat) (wrap past : Bool) (bodies : List W128) : State :=
  let x := portGet s p
  let h := fhMake type src (hops + 1) bodies.length wrap past s.tick.tickn.toNat x.txSeq
  let s1 := portSet s p { x with txSeq := (x.txSeq + 1) % 65536 }
  { s1 with chain := { s1.chain with out := s1.chain.out ++ [(p, { hdr := h, bodies := bodies, crc := frameCrc h bodies })] } }

/-- The cells of a wrapped frame carry ROUTE bit 2 (R92). -/
def wrapCells (bodies : List W128) : List W128 := bodies.map (fun c => c ||| 4)

/-- A unicast cell frame sent out of port `p`; when that port is down it is wrapped or dropped (R92). -/
def unicastSend (s : State) (p src hops : Nat) (wrap : Bool) (bodies : List W128) : State :=
  if (portGet s p).up then frameSend s p 1 src hops wrap false bodies
  else if wrap then cntAdd s (chnAdr p 0x18) 1
  else
    let s1 := cntAdd s (chnAdr p 0x1C) 1
    if (portGet s1 (1 - p)).up then frameSend s1 (1 - p) 1 src hops true false (wrapCells bodies)
    else cntAdd s1 (chnAdr (1 - p) 0x18) 1

/-- A broadcast cell of this unit (R94). -/
def broadcastSend (s : State) (c : W128) : State :=
  if (portGet s 0).up then frameSend s 0 1 s.chain.unit 0 false false [c]
  else if (portGet s 1).up then frameSend s 1 1 s.chain.unit 0 true true [c]
  else s

/-- The cells that the crossbar has brought to the ports sent on. Before the first commit the ports carry only control frames
(R97). -/
def chainFlush (s : State) : State :=
  let mine (f : Flight) : Bool := f.dest == 120 || f.dest == 121
  let go := s.cells.flight.filter mine
  let s1 := flyRest s (s.cells.flight.filter (fun f => !mine f))
  if s.chain.unit = 0 then s1
  else go.foldl (fun z f =>
    if cellUnit f.cell.cell = 127 then broadcastSend z f.cell.cell
    else unicastSend z (f.dest - 120) z.chain.unit 0 false [f.cell.cell]) s1

/-! Receiving. -/

/-- Whether a cell is early by exactly one tick. -/
def cellEarly (s : State) (c : W128) : Bool := ageOf (s.tick.tickn.toNat % 65536) (cellStamp c) == 0xFFFF

/-- The test of one cell of a received frame, wherever the cell is bound (R56, R89): a full port buffer drops it, an early one is
held or dropped, an old one is dropped; the Boolean says that it goes on now. -/
def cellTest (s : State) (p : Nat) (b : BufCell) : Bool × State :=
  let x := portGet s p
  if 512 ≤ x.buf.length then (false, cntAdd s (chnAdr p 0x24) 1)
  else if cellEarly s b.cell then (false, portSet s p { x with buf := x.buf ++ [b] })
  else if 0x8000 ≤ ageOf (s.tick.tickn.toNat % 65536) (cellStamp b.cell) then (false, cntAdd s (chnAdr p 0x10) 1)
  else if cellOld s b.cell then (false, cntAdd s (chnAdr p 0x14) 1)
  else (true, s)

/-- The cells of a received frame tested in order: those that go on now, and the state. -/
def cellsTest (s : State) (p : Nat) : List BufCell → List BufCell × State
  | [] => ([], s)
  | b :: t =>
    let r := cellTest s p b
    let q := cellsTest r.2 p t
    (if r.1 then b :: q.1 else q.1, q.2)

/-- A cell that this unit delivers (R75). -/
def portDeliver (s : State) (c : W128) : State :=
  if cellKind c = 15 then s
  else if 9 ≤ cellKind c ∧ cellKind c ≤ 13 then cntAdd s 0x4004 1
  else routeLocal s { cell := c, pend := false, due := dueNow s }

/-- Whether a frame passes the checks of R88. -/
def frameOk (h : W64) (bodies : List W128) (crc : Word) : Bool :=
  let t := fhType h
  crc == frameCrc h bodies && decide (1 ≤ t ∧ t ≤ 4) && fhCount h == bodies.length &&
  (if t = 1 then decide (1 ≤ bodies.length ∧ bodies.length ≤ 8) else bodies.length == 1)

/-- What every valid frame does on receipt (R88, R89, R91): a port that was only silent is up again, gaps in LSEQ and skewed
stamps count. The first frame after reset or power-up of the port counts no gap (DESIGN CHOICE: R88 gives no starting LSEQ, and does not
say whether a first frame can show one; log 73). -/
def frameSeen (s : State) (p : Nat) (h : W64) : State :=
  let x := portGet s p
  let gap := match x.rxSeq with | none => false | some r => fhSeq h != (r + 1) % 65536
  let up := { x with rxSeq := some (fhSeq h), up := true, upSince := if x.up then x.upSince else some (ktb s) }
  let s1 := cntAdd (portSet s p up) (chnAdr p 0x0C) (b2n gap)
  let d := ageOf (s.tick.tickn.toNat % 65536) (fhStamp h)
  if d = 0 ∨ d = 1 ∨ d = 0xFFFF then s1 else cntAdd s1 (chnAdr p 0x20) 1

/-- Receipt of a frame of TYPE `type` on port `p`: none when the row is not this frame's; the Boolean says that the frame goes
on to its own handling. A ring size of 0 sets no limit to HOPS (DEDUCED: the offers of the first enumeration must pass). -/
def frameTake (s : State) (p type : Nat) (h : W64) (bodies : List W128) (crc : Word) : Option (Bool × State) :=
  if !portOn s p || (portGet s p).training || (portGet s p).lanes == 0 then none
  else if !frameOk h bodies crc then some (false, cntAdd s (chnAdr p 8) 1)
  else if fhType h ≠ type then none
  else
    let s1 := frameSeen s p h
    if s.chain.units ≠ 0 ∧ 2 * s.chain.units ≤ fhHops h then some (false, cntAdd s1 (chnAdr p 0x18) 1)
    else some (true, s1)

/-- Cells of a broadcast frame that port `p` passes on (R94); the fields of their frame stand with the first. -/
def broadcastTake (s : State) (p : Nat) (b : BufCell) (bodies : List W128) : State :=
  let own := b.src == s.chain.unit
  if own && !b.wrap then s
  else
    let past := b.past || own
    let s1 := if !own && (!b.wrap || b.past) then bodies.foldl portDeliver s else s
    if (portGet s1 (1 - p)).up then frameSend s1 (1 - p) 1 b.src b.hops b.wrap past bodies
    else if !b.wrap then frameSend s1 p 1 b.src b.hops true past bodies
    else s1

/-- Cells of one frame that port `p` passes on: delivered, forwarded or broadcast (R92, R94); they have one destination. -/
def cellsPass (s : State) (p : Nat) (l : List BufCell) : State :=
  match l with
  | [] => s
  | b :: _ =>
    let bodies := l.map (·.cell)
    if cellUnit b.cell = 127 then broadcastTake s p b bodies
    else if cellUnit b.cell = s.chain.unit then bodies.foldl portDeliver s
    else unicastSend s (1 - p) b.src b.hops b.wrap bodies

/-- A received cell frame: each cell is tested, and those that are current go on together (R56, R89). Before the first commit the
ports carry only control frames (R97), so its cells are discarded and, as no counter is named for it, not counted (DESIGN
CHOICE). -/
def cellsTake (s : State) (p : Nat) (h : W64) (bodies : List W128) : State :=
  if s.chain.unit = 0 then s
  else
    let q := cellsTest s p (bodies.map (fun c => { cell := c, src := fhSrc h, hops := fhHops h, wrap := fhWrap h, past := fhPast h }))
    cellsPass q.2 p q.1

/-- The early cells of port `p` that have become current passed on at an edge (R56): a held cell that goes on to another unit
leaves in a frame of its own (DESIGN CHOICE: no rule says how held cells are framed). -/
def earlyPass (s : State) (p : Nat) : State :=
  let x := portGet s p
  (x.buf.filter (fun b => !cellEarly s b.cell)).foldl (fun z b => cellsPass z p [b])
    (portSet s p { x with buf := x.buf.filter (fun b => cellEarly s b.cell) })

/-- The entries of the buffer of port `p` at the places of a list dropped for their parity (R315). -/
def portParity (s : State) (p : Nat) (bad : List Nat) : State :=
  let l := (portGet s p).buf
  let hit := (List.range l.length).filter (fun i => bad.contains i)
  let s1 := forNats hit (fun z i => parityDrop z p i) s
  portSet s1 p { portGet s1 p with buf := ((List.range l.length).filter (fun i => !bad.contains i)).filterMap (fun i => l[i]?) }

/-! Breaks (R91). -/

/-- CHN.BREAKAT changed; source 290 is pulsed at a change. -/
def breakPut (s : State) (valid : Bool) (u : Nat) : State :=
  if valid = s.chain.brkValid ∧ u = s.chain.brkUnit then s
  else pulse { s with chain := { s.chain with brkValid := valid, brkUnit := u } } 290

/-- BRKUNIT of the break at port `p` of this unit. -/
def ownBreak (s : State) (p : Nat) : Nat :=
  if p = 0 then s.chain.unit else if s.chain.unit ≤ 1 then s.chain.units else s.chain.unit - 1

/-- A ring-status body. -/
def statusBody (valid : Bool) (u : Nat) : W128 := BitVec.ofNat 128 (u % 128 + 128 * b2n valid)

/-- A ring-status frame of this unit out of port `p` (R91): every enabled port that is not retraining and has lane lock sends them, one
that is down only for want of frames too. -/
def statusSend (s : State) (p : Nat) (valid : Bool) (u : Nat) : State :=
  let x := portGet s p
  if portOn s p && (x.up || (x.lanes != 0 && !x.training)) then frameSend s p 4 s.chain.unit 0 false false [statusBody valid u] else s

/-- Port `p` goes down (R91): the break is counted, noted unless another is known, and announced out of the other port. -/
def portDown (s : State) (p : Nat) : State :=
  let x := portGet s p
  if x.up then
    let s1 := cntAdd (portSet s p { x with up := false, upSince := none, owesClear := true }) (chnAdr p 4) 1
    let s2 := if s1.chain.brkValid then s1 else breakPut s1 true (ownBreak s1 p)
    statusSend s2 (1 - p) true (ownBreak s2 p)
  else s

/-- A port that stops being powered or enabled (R91, Table 17.2). -/
def portOff (s : State) (p : Nat) : State :=
  let s1 := portDown s p
  portSet s1 p { portGet s1 p with training := false, lanes := 0, active := [] }

/-- CHN.CTL written (Table 3.14): a port newly enabled begins to train, one no longer enabled goes down. -/
def chnCtlWrite (s : State) (v : Word) : State :=
  let old := regGet s 0xC0000
  let s1 := regPut s 0xC0000 (v &&& 7)
  forNats [0, 1] (fun z p =>
    if bitAt old p && !bitAt v p then portOff z p
    else if !bitAt old p && bitAt v p then portSet z p { portGet z p with training := domStat z (81 + p) == 1, lanes := 0, up := false }
    else z) s1

/-- A received ring-status frame: it loads CHN.BREAKAT, which keeps the first break reported until one of VALID = 0 comes, and is
forwarded until it comes back to its sender. Before the first commit every unit has address 0 (R97) and every SRC is 0, so a unit
takes each such frame for its own and forwards none (DESIGN CHOICE: R91 does not say how far a frame goes in a ring that was never
enumerated). -/
def statusTake (s : State) (p : Nat) (h : W64) (bodies : List W128) : State :=
  match bodies with
  | [] => s
  | b :: _ =>
    let valid := bitAt b 7
    let s1 := if valid then (if s.chain.brkValid then s else breakPut s true (field b 6 0)) else breakPut s false (field b 6 0)
    if fhSrc h = s.chain.unit then s1
    else if (portGet s1 (1 - p)).up then frameSend s1 (1 - p) 4 (fhSrc h) (fhHops h) (fhWrap h) (fhPast h) bodies
    else s1

/-! Enumeration (R95 to R98). -/

/-- The body of an offer. -/
def offerBody (next : Nat) (refused seen : Bool) (origin : Word) : W128 :=
  BitVec.ofNat 128 (next % 128 + 128 * b2n refused + 256 * b2n seen + origin.toNat * 65536)

/-- ORIGIN of an offer or commit. -/
def bodyOrigin (b : W128) : Word := (b >>> 16).setWidth 32

/-- A control frame forwarded out of port 0. -/
def ctlForward (s : State) (type : Nat) (h : W64) (b : W128) : State :=
  if (portGet s 0).up then frameSend s 0 type (fhSrc h) (fhHops h) (fhWrap h) (fhPast h) [b] else s

/-- ENUMERATE_CHAIN completes. -/
def enumEnd (s : State) (tag status : Nat) : State :=
  pulse (hmbComplete { s with chain := { s.chain with offer := none } } tag status) 291

/-- The head's own offer has returned: the command completes, and on success a commit goes round the ring (R95, R96). -/
def offerReturned (s : State) (tag : Nat) (origin : Word) (b : W128) : State :=
  let next := field b 6 0
  if bitAt b 7 then enumEnd s tag 2
  else if bitAt b 8 then enumEnd s tag 9
  else if next < 2 then enumEnd s tag 0x17
  else
    let s1 := { s with chain := { s.chain with unit := 1, units := next - 1 } }
    let body : W128 := BitVec.ofNat 128 (next - 1 + origin.toNat * 65536)
    let s2 := if (portGet s1 0).up then frameSend s1 0 3 1 0 false false [body] else s1
    enumEnd s2 tag 0

/-- An offer received by this unit. In VERIFY, RUN and SERVICE every unit, a head too, forwards it as refused (R97); a head whose own
offer comes back to it in these states completes its command with STATE and sends no commit, as for a refused offer (DESIGN
CHOICE: R97 and R95 do not treat a head that has changed its state since). -/
def offerTake (s : State) (h : W64) (b : W128) : State :=
  let next := field b 6 0
  let origin := bodyOrigin b
  if chnHead s then
    let busy := tickingState s.bstate
    let foreign := ctlForward s 2 h (offerBody next (bitAt b 7 || busy) true origin)
    match s.chain.offer with
    | some (o, tag, t) =>
      if o = origin ∧ (ktb s).toNat - t.toNat ≤ 10000000 then (if busy then enumEnd s tag 2 else offerReturned s tag origin b)
      else foreign
    | none => foreign
  else if tickingState s.bstate then ctlForward s 2 h (offerBody next true (bitAt b 8) origin)
  else if next = 127 ∨ next = 0 then ctlForward s 2 h (offerBody 0 (bitAt b 7) (bitAt b 8) origin)
  else
    let s1 := { s with chain := { s.chain with tent := some (next, origin, ktb s) } }
    ctlForward s1 2 h (offerBody (next + 1) (bitAt b 7) (bitAt b 8) origin)

/-- A commit received by this unit: the head removes it, and every other unit forwards it. -/
def commitTake (s : State) (h : W64) (b : W128) : State :=
  if chnHead s then s
  else
    let s1 := match s.chain.tent with
      | some (a, o, _) =>
        if o = bodyOrigin b ∧ tickingState s.bstate = false then
          { s with chain := { s.chain with unit := a, units := field b 6 0, tent := none } }
        else s
      | none => s
    ctlForward s1 3 h b

/-- An enumeration begun by the head (R95): the offer leaves port 0 with NEXT = 2. -/
def enumStart (s : State) (tag : Nat) : State :=
  let origin : Word := (ktb s).setWidth 32
  let s1 := { s with chain := { s.chain with offer := some (origin, tag, ktb s) } }
  if portOn s1 0 && (portGet s1 0).up then frameSend s1 0 2 s1.chain.unit 0 false false [offerBody 2 false false origin] else s1

/-! The commands. -/

/-- CELL_FRAME_RECEIVE, R92. -/
def execCellFrameReceive (p : Nat) (hdr : W64) (bodies : List W128) (crc : Word) (s : State) :
    Host.Outcome State Fault Refusal :=
  match frameTake s p 1 hdr bodies crc with
  | some (true, z) => .next (cellsTake z p hdr bodies)
  | some (false, z) => .next z
  | none => .next s

/-- ENUMERATION_OFFER_RECEIVE, R95: offers go round the ring from port 0 to port 1. -/
def execEnumerationOfferReceive (p : Nat) (hdr : W64) (bodies : List W128) (crc : Word) (s : State) :
    Host.Outcome State Fault Refusal :=
  match frameTake s p 2 hdr bodies crc with
  | some (true, z) => .next (if p = 1 then offerTake z hdr (bodies.headD 0) else z)
  | some (false, z) => .next z
  | none => .next s

/-- ENUMERATION_COMMIT_RECEIVE, R95. -/
def execEnumerationCommitReceive (p : Nat) (hdr : W64) (bodies : List W128) (crc : Word) (s : State) :
    Host.Outcome State Fault Refusal :=
  match frameTake s p 3 hdr bodies crc with
  | some (true, z) => .next (if p = 1 then commitTake z hdr (bodies.headD 0) else z)
  | some (false, z) => .next z
  | none => .next s

/-- RING_STATUS_RECEIVE, R91. -/
def execRingStatusReceive (p : Nat) (hdr : W64) (bodies : List W128) (crc : Word) (s : State) :
    Host.Outcome State Fault Refusal :=
  match frameTake s p 4 hdr bodies crc with
  | some (true, z) => .next (statusTake z p hdr bodies)
  | some (false, z) => .next z
  | none => .next s

/-- A port retrains (R87): it is down meanwhile and runs on no lane. -/
def portRetrain (s : State) (p : Nat) : State :=
  let s1 := portDown s p
  portSet s1 p { portGet s1 p with training := true, lanes := 0, active := [] }

/-- CHAIN_PORT_DOWN, R91: loss of lane lock, after which the port retrains, or with `retrain` false 25 µs without a valid frame. -/
def execChainPortDown (p : Nat) (s : State) (retrain : Bool := false) : Host.Outcome State Fault Refusal :=
  if portOn s p then .next (if retrain then portRetrain s p else portDown s p) else .next s

/-- RING_STATUS_SEND, R91: a unit with a port down reports its own break, and any other one what it knows. -/
def execRingStatusSend (p : Nat) (s : State) : Host.Outcome State Fault Refusal :=
  if p < 2 then
    let own := !(portGet s (1 - p)).up && (portGet s (1 - p)).owesClear
    .next (if own then statusSend s p true (ownBreak s (1 - p)) else statusSend s p s.chain.brkValid s.chain.brkUnit)
  else .next s

/-- BREAK_CLEAR_SEND, R91: a port that was down has been up for 1 ms. -/
def execBreakClearSend (p : Nat) (s : State) : Host.Outcome State Fault Refusal :=
  let x := portGet s p
  match x.upSince with
  | some t =>
    if portOn s p && x.up && x.owesClear && decide (1000000 ≤ (ktb s).toNat - t.toNat) then
      let s1 := breakPut (portSet s p { x with owesClear := false }) false s.chain.brkUnit
      .next (statusSend (statusSend s1 0 false s1.chain.brkUnit) 1 false s1.chain.brkUnit)
    else .next s
  | none => .next s

/-- The lanes a port runs on, of those that work: 4, 2 or 1 of them, the largest count and the lowest numbers (R87). -/
def lanesUsed (working : Nat) : List Nat :=
  let l := (List.range 4).filter (fun i => working / 2 ^ i % 2 == 1)
  if l.length = 3 then l.take 2 else l

/-- LANE_RETRAIN_DONE, R87: `working` is the mask of the lanes that completed their training. A port that was up and has another
count of lanes now has been down for the retrain; one without a working lane stays as it is. -/
def execLaneRetrainDone (p working : Nat) (s : State) : Host.Outcome State Fault Refusal :=
  let l := lanesUsed working
  if !portOn s p || l.isEmpty then .next s
  else if (portGet s p).up && (portGet s p).lanes == l.length then .next (portSet s p { portGet s p with active := l })
  else
    let s1 := portRetrain s p
    .next (portSet s1 p { portGet s1 p with training := false, lanes := l.length, active := l, up := true, upSince := some (ktb s1) })

/-- ENUMERATION_OFFER_TIMEOUT, R96. -/
def execEnumerationOfferTimeout (s : State) : Host.Outcome State Fault Refusal :=
  match s.chain.offer with
  | some (_, tag, t) => if 10000000 < (ktb s).toNat - t.toNat then .next (enumEnd s tag 0x16) else .next s
  | none => .next s

/-- TENTATIVE_ADDRESS_DROP, R96. -/
def execTentativeAddressDrop (s : State) : Host.Outcome State Fault Refusal :=
  match s.chain.tent with
  | some (_, _, t) =>
    if 20000000 ≤ (ktb s).toNat - t.toNat then .next { s with chain := { s.chain with tent := none } } else .next s
  | none => .next s

end Sys2Proof.Machine
end

