-- ==== Sys2Proof/Machine/Router.lean ====
section
/-! DEFINITION. The routers and the gateways' way to the crossbar (R74 to R76, R315, R366, R380). -/

namespace Sys2Proof.Machine

/-- The read of tile 0 of Sett record `i` by the Sett's router and dispatcher: a failing one fails the Sett (R317, R383). -/
def settRecSeen (s : State) (i : Nat) : State :=
  if tileBad s 5 2 (2 * i) then settDown (tileDetect s 5 2 (2 * i) 3) 3 else s

/-- The Sett router's handling of one cell (R380): it leaves the Sett nowhere. -/
def settRoute (s : State) (o : OCell) : State :=
  let c := o.cell
  let k := cellKind c
  let drop := cntAdd s 0x18101C 1
  if k = 15 then s
  else if cellPub c || cellHist c || cellHost c || cellUnit c != 0 || decide (9 ≤ k ∧ k ≤ 13) || !cellDlv c then drop
  else if cellMoth c then (if (bankMothOfCtx s 6 (cellIndex c)).isSome then flyTo s 116 o else drop)
  else if 1024 ≤ cellIndex c then drop
  else if tileBad s 5 2 (2 * cellIndex c) then settRecSeen s (cellIndex c)
  else if ctlInuse (recCtl (tblGet 0 (cellIndex c) s.store.sett)) then flyTo s 64 o
  else drop

/-- The first released cell of an outbound queue, and the queues of a lockstep pair after it is taken (R55, R74, R382). -/
def queueTake (s : State) (n : Nat) : Option OCell × State :=
  if n = 64 then
    let q := takeReleased (queueOld s 64) (engGet s 64).outq
    let s1 := engMap s 64 (fun e => { e with outq := q.2.1 })
    (q.1, engMap s1 65 (fun e => { e with outq := (takeReleased (queueOld s 64) e.outq).2.1 }))
  else outqTake s n

/-- The outbound queue of engine `n` no longer stalls a push: it has room, or holds no released cell (R71). -/
def pushFree (s : State) (n : Nat) : Bool :=
  let q := (engGet s n).outq
  decide (q.length < 256) || !anyReleased q

/-- What follows once a released cell of engine `n` is out of its queue: a push that waited goes on, and its stall cycles count for
both engines of a pair (R71). -/
def pushGoesOn (s : State) (n cyc : Nat) : Host.Outcome State Fault Refusal :=
  if engReady s n (fun h => h == .push) then
    runAgain ((match partnerOf s n with | none => [n] | some m => [n, m]).foldl (fun z m => qCount z m 0x10 cyc) s) n
  else .next s

/-- One cell taken from engine `n` by its router; a queue entry that fails parity is dropped (R315). -/
def routerTake (s : State) (n : Nat) (parityFail : Bool) (cyc : Nat) : Host.Outcome State Fault Refusal :=
  match queueTake s n with
  | (none, s1) => pushGoesOn s1 n cyc
  | (some o, s1) =>
    let s2 := if parityFail then parityRecord (cntAdd s1 0xA044 1) 0 n 0
      else if n = 64 then settRoute s1 o else chainFlush (routeCell s1 o)
    pushGoesOn s2 n cyc

/-- A push of engine `n` waits although its queue no longer stalls it: its released cells left by the age test (R55, R71). -/
def pushLeft (s : State) (n : Nat) : Bool := engReady s n (fun h => h == .push) && pushFree s n

/-- ROUTER_CELL, R75: the router of cluster `k`, or with 8 the Sett router, takes one released cell round robin. `cyc` is how many
cycles a push of that engine has stalled, when one waits. With no released cell to take, a push whose queue the age test has
cleared goes on (R71). -/
def execRouterCell (k : Nat) (parityFail : Bool) (cyc : Nat) (s : State) : Host.Outcome State Fault Refusal :=
  if k < 8 ∧ domStat s (64 + k) = 1 then
    match (routerOrder s k).find? (routerServes s) with
    | none =>
      match (routerOrder s k).find? (pushLeft s) with
      | none => .next s
      | some n => pushGoesOn s n cyc
    | some n => routerTake (rotAfter s k n) n parityFail cyc
  else if k = 8 ∧ domStat s 78 = 1 then
    if anyReleased (engGet s 64).outq then routerTake s 64 parityFail cyc
    else if pushLeft s 64 then pushGoesOn s 64 cyc
    else .next s
  else .next s

/-- The tick stamp against which the gateway queue of a bank tests its cells. -/
def gwOld (s : State) (b : Nat) (c : W128) : Bool := if b < 6 then cellOld s c else queueOld s 64 c

/-- The cell that bank `b` passes on: routed, or with `parityFail` dropped for its parity (R315). -/
def gwPass (s : State) (b : Nat) (o : OCell) (parityFail : Bool) : State :=
  if parityFail then parityDrop s b 0
  else if b < 6 then chainFlush (routeCell s o) else settRoute s o

/-- GATEWAY_CELL_PASS, R366: the oldest cell of the gateway queue that is not past the age limit goes to the crossbar, those past it
are dropped as age drops (R55), and immediate words take the places left. With `parityFail`, the entry passed fails its parity. -/
def execGatewayCellPass (b : Nat) (s : State) (parityFail : Bool := false) : Host.Outcome State Fault Refusal :=
  if b < 7 ∧ domStat s (bankDom b) = 1 then
    let l := (gwGet s b).dropWhile (fun o => gwOld s b o.cell)
    let s1 := agedAdd (gwSet s b l.tail) (110 + b) ((gwGet s b).length - l.length)
    match l with
    | [] => .next (gwServeAll s1 b)
    | o :: _ => .next (gwServeAll (gwPass s1 b o parityFail) b)
  else .next s

/-- QUEUE_AGE_SWEEP, R55: every cell queue is swept, and immediate words take the places left in the gateway queues (R366). -/
def execQueueAgeSweep (s : State) : Host.Outcome State Fault Refusal :=
  .next (forNats (List.range 6) gwServeAll (sweepAll s))

/-- Whether the arrival of a cell makes the Sett's dispatcher read the record of its context. -/
def settAsks (s : State) (c : W128) : Bool :=
  cellDlv c && !cellMoth c && ctlRunarr (tblGet 0 (2 ^ 17 + cellIndex c) s.store.ctlEdge)

/-- INBOUND_CELL_ARRIVAL, R73: the cell on its way to engine `n` reaches the inbound queue; 64 names the queues of S0 and S1,
which take every Sett cell together (R382). With `bad`, the queue entry fails its parity at its next read, and with `badEntry` the arrival
entry that the dispatcher appends for it (R315). -/
def execInboundCellArrival (n : Nat) (s : State) (bad : Bool := false) (badEntry : Bool := false) : Host.Outcome State Fault Refusal :=
  match flyTake n s.cells.flight with
  | none => .next s
  | some (o, rest) =>
    let s1 := flyRest s rest
    if n < 64 then .next (inqPut s1 n { cell := o.cell, arr := arrEntry s o.cell, bad := bad, lost := badEntry })
    else if n = 64 then
      let s2 := if settAsks s o.cell then settRecSeen s1 (cellIndex o.cell) else s1
      let q : QCell := { cell := o.cell, arr := settArrEntry s o.cell, bad := bad, lost := badEntry }
      .next (inqPut (inqPut s2 64 q) 65 q)
    else .next s

end Sys2Proof.Machine
end

