-- ==== Sys2Proof/Machine/Patch.lean ====
section
/-! DEFINITION. Patch blocks, the fill and the load of micro-RAM banks (R300 to R311). The patch keys and the customer key hash are
those that the sideband supplied; the hash of the Vetchaos key in Badger ROM, a number that the spec does not give, is
Config.vetKeyHash. -/

namespace Sys2Proof.Machine

/-- One item of a payload record (Table 10.12). -/
inductive PItem where
  | word (a : Nat) (w : MWord)
  | entry (m : Nat) (v : Word)
  | cost (m : Nat) (v : Nat)
  deriving DecidableEq, Repr

/-- UCODE.ROMVER of stepping B0 (Table 10.16). -/
def romVer : Word := 0x00010003

/-- `n` bytes at `a` of a byte string as a number; bytes past its end count as zero. -/
def bytesNat (bs : List Byte) (a n : Nat) : Nat := leNat ((bs.drop a).take n)

/-- Whether bytes `a` to `b - 1` are all zero. -/
def bytesZero (bs : List Byte) (a b : Nat) : Bool := ((bs.drop a).take (b - a)).all (fun x => x == 0)

/-- The header fields KIND, ENC, PLEN, SCOPE, SCOPEX and BLOCKID (Table 10.11). -/
def pbKind (bs : List Byte) : Nat := bytesNat bs 6 1
def pbEnc (bs : List Byte) : Bool := bytesNat bs 7 1 == 1
def pbPlen (bs : List Byte) : Nat := bytesNat bs 0x0C 4
def pbScope (bs : List Byte) : W64 := BitVec.ofNat 64 (bytesNat bs 0x10 8)
def pbScopex (bs : List Byte) : Nat := bytesNat bs 0x18 4
def pbId (bs : List Byte) : Word := bytesWord bs 0x1C

/-- Step 1 of Table 10.13. -/
def pbHeaderOk (bs : List Byte) : Bool :=
  decide (256 ≤ bs.length) && bytesNat bs 0 4 == 0x5543534B && bytesNat bs 4 2 == 1 && decide (pbKind bs ≤ 1) &&
  decide (bytesNat bs 7 1 ≤ 1) && decide (pbPlen bs % 4 = 0) && decide (pbPlen bs ≤ 32768) &&
  decide (256 + pbPlen bs ≤ bs.length) && decide (pbScopex bs < 4) && bytesZero bs 0x2C 0x30 && bytesZero bs 0xC0 0x100 &&
  (pbEnc bs || (bytesZero bs 0x20 0x2C && bytesZero bs 0x30 0x40))

/-- The payload as it is stored. -/
def pbBody (bs : List Byte) : List Byte := (bs.drop 256).take (pbPlen bs)

/-- The patch key of a block's KIND (R301). -/
def pbKey (k : SideKeys) (bs : List Byte) : List Byte := beBytes 32 (if pbKind bs = 0 then k.vetKey.toNat else k.custKey.toNat)

/-- The IV of a block. -/
def pbIv (bs : List Byte) : List Byte := (bs.drop 0x20).take 12

/-- The payload as it is applied: decrypted when ENC is 1. -/
def pbPlain (k : SideKeys) (bs : List Byte) : List Byte := if pbEnc bs then gcmText (pbKey k bs) (pbIv bs) (pbBody bs) else pbBody bs

/-- Step 3 of Table 10.13: SHA-256 over KEYX and KEYY is the hash that the KIND calls for; a fuse hash of zeros matches no key. -/
def pbKeyOk (k : SideKeys) (bs : List Byte) : Bool :=
  let h := sha256 ((bs.drop 0x40).take 64)
  if pbKind bs = 0 then h == Config.vetKeyHash else k.custHash != 0 && h == beBytes 32 k.custHash.toNat

/-- Step 4: the ECDSA signature over header bytes 0x00 to 0x7F and the payload as stored. -/
def pbSigOk (bs : List Byte) : Bool :=
  let f (a : Nat) : Nat := beNat ((bs.drop a).take 32)
  ecdsaOk (f 0x40) (f 0x60) (f 0x80) (f 0xA0) (beNat (sha256 (bs.take 0x80 ++ pbBody bs)))

/-- Step 5: the tag of an encrypted payload, with header bytes 0x00 to 0x2F as additional data. -/
def pbTagOk (k : SideKeys) (bs : List Byte) : Bool :=
  !pbEnc bs || gcmTag (pbKey k bs) (pbIv bs) (bs.take 0x30) (pbBody bs) == (bs.drop 0x30).take 16

/-- Steps 3 to 5 of Table 10.13: 0, or the status of the first that fails. -/
def pbAuth (k : SideKeys) (bs : List Byte) : Nat :=
  if !pbKeyOk k bs then 0x11 else if !pbSigOk bs then 0x12 else if !pbTagOk k bs then 0x13 else 0

/-- The micro-words of a record body. -/
def recWords : Nat → Nat → List Byte → List PItem
  | 0, _, _ => []
  | c + 1, a, bs => .word a (BitVec.ofNat 160 (leNat (bs.take 20))) :: recWords c (a + 1) (bs.drop 20)

/-- The entries or costs of a record body. -/
def recFours (mk : Nat → Nat → PItem) : Nat → Nat → List Byte → List PItem
  | 0, _, _ => []
  | c + 1, a, bs => mk a (leNat (bs.take 4)) :: recFours mk c (a + 1) (bs.drop 4)

/-- The records of a payload as items in order; none when they are not well formed (step 7). -/
def parseRecords : Nat → List Byte → Option (List PItem)
  | 0, bs => if bs.isEmpty then some [] else none
  | f + 1, bs =>
    if bs.isEmpty then some []
    else
      let type := bytesNat bs 0 1
      let count := bytesNat bs 2 2
      let start := bytesNat bs 4 2
      let size := if type = 1 then 20 else 4
      let limit := if type = 1 then 0x2000 else 0x100
      let body := bs.drop 8
      if bs.length < 8 ∨ bytesNat bs 1 1 ≠ 0 ∨ bytesNat bs 6 2 ≠ 0 ∨ type < 1 ∨ 3 < type ∨ body.length < count * size ∨
          (0 < count ∧ limit < start + count) then none
      else
        let items := match type with
          | 1 => recWords count start body
          | 2 => recFours (fun m v => .entry m (BitVec.ofNat 32 v)) count start body
          | _ => recFours (fun m v => .cost m v) count start body
        (parseRecords f (body.drop (count * size))).map (fun t => items ++ t)

/-- The items of a block. -/
def pbItems (k : SideKeys) (bs : List Byte) : Option (List PItem) := parseRecords (pbPlain k bs).length (pbPlain k bs)

/-- Whether the region of a customer or Vetchaos block holds an item (R300). -/
def itemInKind (kind : Nat) (i : PItem) : Bool :=
  match i with
  | .word a _ => if kind = 0 then decide (0x800 ≤ a ∧ a ≤ 0xAFF) else decide (0xB00 ≤ a ∧ a ≤ 0xBFF)
  | .entry m _ => if kind = 0 then decide (m ≤ 0xDF) else decide (0xE0 ≤ m)
  | .cost m _ => kind == 1 && decide (0xE0 ≤ m)

/-- Every entry with VALID = 1 has a cost in the block (R302). -/
def costsGiven (items : List PItem) : Bool :=
  items.all (fun i => match i with
    | .entry m v => !entValid v || items.any (fun j => match j with | .cost k _ => k == m | _ => false)
    | _ => true)

/-! Table 10.14. -/

/-- The rule for an entry. -/
def entRule (v : Word) : Bool :=
  entUcode v && bitAt v 26 && entUtrap v && decide (0xB00 ≤ entUaddr v ∧ entUaddr v ≤ 0xBFF) && decide (field v 25 24 ≠ 3) &&
  decide (field v 23 21 ≤ 5) && decide (entNeed v ≠ 3) && field v 18 13 == 0

/-- Operations of a unit that a customer may use. -/
def unitOps (u : Nat) : Nat :=
  match u with | 0 => 16 | 1 => 9 | 2 => 5 | 3 => 9 | 4 => 3 | 5 => 14 | 6 => 3 | _ => 0

/-- The customer region. -/
def inCust (a : Nat) : Bool := decide (0xB00 ≤ a ∧ a ≤ 0xBFF)

/-- The micro-addresses that a JUMP, CJMP or DISP word names. -/
def mwNames (w : MWord) : List Nat :=
  match field w 159 157 with
  | 1 => [field w 156 144]
  | 2 => [field w 156 144]
  | 5 => (List.range 16).map (field w 156 144 + ·)
  | _ => []

/-- The rules of Table 10.14 for one word at `a`, apart from the two that look at other words. -/
def wordRule (a : Nat) (w : MWord) : Bool :=
  let nxt := field w 159 157
  let t := field w 156 144
  let src (c : Nat) : Bool := decide (32 ≤ c ∧ c ≤ 47)
  let csel := field w 143 138
  let exc := field w 135 133
  (mwNames w).all inCust && (nxt != 3 || inCust t || t == 0 || t == 4 || t == 8 || t == 12 || t == 16) &&
  !(a == 0xBFF && (nxt == 0 || nxt == 2)) && src (field w 132 127) && src (field w 126 121) &&
  (decide (csel ≤ 20) || src csel) && decide (field w 117 114 < unitOps (field w 120 118)) && decide (field w 112 108 ≤ 11) &&
  decide (field w 86 82 ≤ 11) && decide (field w 107 104 ≤ 8) &&
  (exc == 0 || (exc == 1 && decide (24 ≤ mwConst w % 32) && !bitAt w 136 && nxt == 0)) &&
  decide (nxt ≤ 6) && decide (field w 81 79 ≤ 4) && field w 76 0 == 0

/-- The addresses that the items of a block write. -/
def wordsOf (items : List PItem) : List Nat := items.filterMap (fun i => match i with | .word a _ => some a | _ => none)

/-- Backward transfers: every word that the word at `a` names at or below `a` has TRAP = 1, where the block writes one of the
two. -/
def backRule (region : Tbl MWord) (written : List Nat) (a : Nat) : Bool :=
  (mwNames (tblGet 0 a region)).all (fun t => decide (a < t) || bitAt (tblGet 0 t region) 136 ||
    !(hasNat a written || hasNat t written))

/-- A word that neither is a trap point nor ends with DONE or RET. -/
def mwOpen (w : MWord) : Bool := !bitAt w 136 && field w 159 157 != 6 && field w 159 157 != 4 && field w 159 157 != 7

/-- The addresses of the customer region that can follow a word. -/
def mwNext (a : Nat) (w : MWord) : List Nat :=
  match field w 159 157 with
  | 0 => [a + 1]
  | 1 => mwNames w
  | 2 => (a + 1) :: mwNames w
  | 3 => [field w 156 144, a + 1]
  | 5 => mwNames w
  | _ => []

/-- The addresses of the customer region. -/
def custAdrs : List Nat := (List.range 256).map (0xB00 + ·)

/-- The open words of the customer region among some addresses, each once. -/
def openOf (region : Tbl MWord) (l : List Nat) : List Nat :=
  (l.filter (fun a => decide (0xB00 ≤ a ∧ a ≤ 0xBFF) && mwOpen (tblGet 0 a region))).foldl (fun t a => addNat a t) []

/-- The words that follow those of a list in an executable sequence, while they are open. -/
def openNext (region : Tbl MWord) (l : List Nat) : List Nat :=
  openOf region (l.flatMap (fun a => mwNext a (tblGet 0 a region)))

/-- Whether some run of open words goes on for `k` more words and holds a written word in the end: `q` has the last words of the runs
so far without a written word, and of those with one. -/
def openRuns (region : Tbl MWord) (written : List Nat) : Nat → List Nat × List Nat → Bool
  | 0, q => !q.2.isEmpty
  | k + 1, q =>
    if q.1.isEmpty && q.2.isEmpty then false
    else
      let n := openNext region q.1
      openRuns region written k (n.filter (fun a => !hasNat a written),
        openOf region (n.filter (fun a => hasNat a written) ++ openNext region q.2))

/-- Trap spacing: no executable run of more than 64 words that holds a written word has neither a trap point nor an end. A run is
executable from a word that a block has supplied or that an entry of the block names (DEDUCED: the Reset words between them begin
no sequence, and without this reading every region that is not full would break the rule). -/
def spacingRule (region : Tbl MWord) (items : List PItem) : Bool :=
  let written := wordsOf items
  let named := items.filterMap (fun i => match i with | .entry _ v => some (entUaddr v) | _ => none)
  let starts := openOf region ((region.map (·.1)).filter (fun a => tblGet 0 a region != 0) ++ written ++ named)
  !openRuns region written 64 (starts.filter (fun a => !hasNat a written), starts.filter (fun a => hasNat a written))

/-- Table 10.14 over a block, on the customer region as it stands after the block (R304): each item by itself, and the rules that
look at two words or at runs over the whole region. -/
def custRule (region : Tbl MWord) (items : List PItem) : Bool :=
  items.all (fun i => match i with
    | .word a w => wordRule a w
    | .entry _ v => entRule v
    | .cost _ _ => true) &&
  custAdrs.all (backRule region (wordsOf items)) && spacingRule region items

/-! Applying. -/

/-- One bank with its decode shadow. -/
structure Bank where
  words : Tbl MWord := []
  dec : Tbl (Option Word) := []
  filled : Bool := false
  deriving DecidableEq, Repr

/-- The two banks of an engine. -/
def bankOfEng (e : Engine) (b : Bool) : Bank :=
  if b then { words := e.uram1, dec := e.dec1, filled := e.filled1 } else { words := e.uram0, dec := e.dec0, filled := e.filled0 }

/-- A bank of an engine replaced. -/
def bankPut (e : Engine) (b : Bool) (x : Bank) : Engine :=
  if b then { e with uram1 := x.words, dec1 := x.dec, filled1 := x.filled }
  else { e with uram0 := x.words, dec0 := x.dec, filled0 := x.filled }

/-- The entry `m` of a bank. -/
def bankEntry (x : Bank) (m : Nat) : Word :=
  (tblGet none m x.dec).getD (if x.filled then defaultEntry Config.romUaddr m else 0)

/-- A decode entry written; an entry equal to its fill value is not listed. -/
def bankEntPut (x : Bank) (m : Nat) (v : Word) : Bank :=
  let dflt := if x.filled then defaultEntry Config.romUaddr m else 0
  { x with dec := tblSet none m (if v = dflt then none else some v) x.dec }

/-- One item applied (R305). -/
def applyItem (x : Bank) (i : PItem) : Bank :=
  match i with
  | .word a w => { x with words := tblSet 0 a w x.words }
  | .entry m v => bankEntPut x m v
  | .cost _ _ => x

/-- A block applied. -/
def applyBlock (k : SideKeys) (x : Bank) (bs : List Byte) : Bank := ((pbItems k bs).getD []).foldl applyItem x

/-- Whether a block is in scope for engine `n`; a customer block with SCOPEX bit 0 applies to S0 and S1 and to nothing else
(R305). -/
def pbFor (bs : List Byte) (n : Nat) : Bool :=
  if n < 64 then bitAt (pbScope bs) n && !(pbKind bs == 1 && pbScopex bs % 2 == 1)
  else if n = 66 then pbScopex bs / 2 % 2 == 1
  else pbScopex bs % 2 == 1

/-- A fresh bank: the Reset word everywhere and the defaults of R278 (R306 step 1). -/
def freshBank : Bank := { filled := true }

/-- Bank 0 of engine `n` filled from blocks, and bank 1 EMPTY (R306). -/
def bankFill (s : State) (n : Nat) (blocks : List (List Byte)) : State :=
  engMap s n (fun e =>
    let e1 := bankPut (bankPut e false ((blocks.filter (fun b => pbFor b n)).foldl (applyBlock s.io.keys) freshBank)) true {}
    { e1 with inact := 0, dbgmod := false, swapPend := false, ubank := false, idKnown := true })

/-- The identifier of a bank (R313): 0 for one that has never been filled. -/
def bankId (x : Bank) : Word :=
  if x.filled then
    crc32c ((List.range 1024).flatMap (fun a => leBytes 20 (tblGet 0 (0x800 + a) x.words).toNat) ++
      (List.range 256).flatMap (fun m => leBytes 4 (bankEntry x m).toNat))
  else 0

/-- The contents that the banks of engines 0 to 63 and 66 hold, with `extra` beside them, each once (R308). -/
def goldSet (s : State) (extra : List Bank) : List Bank :=
  let held := (s.eng.filter (fun q => (decide (q.1 < 64) || q.1 == 66) && q.2.idKnown)).flatMap (fun q =>
    let e := q.2
    (if (bankOfEng e e.ubank).filled then [bankOfEng e e.ubank] else []) ++
    (if e.inact ≠ 0 ∧ (bankOfEng e (!e.ubank)).filled then [bankOfEng e (!e.ubank)] else []))
  (held ++ extra).foldl (fun l x => if l.contains x then l else l ++ [x]) []

/-- The golden copies in use, of which there are at most four (R308). Where debug writes, customer blocks of a release or Vetchaos blocks
at start leave more than four distinct contents, four have a copy (DESIGN CHOICE: R308 refuses only LOAD_UBANK, and does not say which
content goes without; log 43). -/
def goldCount (s : State) : Nat := min (goldSet s []).length 4

/-! The checks of Table 10.13. -/

/-- Steps 1 to 9 of Table 10.13 for a block; `source` is 0 at start, 1 in the decode-overrides section, 2 in the Sett image and 3
in LOAD_UBANK; `regions` are the customer regions of the engines in scope as they stand before the block. Where no engine is in scope a
customer block is checked on a region of Reset words (DESIGN CHOICE: R304 names no region then). 0 passes. -/
def blockCheck (k : SideKeys) (source : Nat) (regions : List (Tbl MWord)) (bs : List Byte) : Nat :=
  let kind := pbKind bs
  if !pbHeaderOk bs then 6
  else if (source = 1 ∨ source = 2) ∧ kind = 0 then 6
  else if source = 0 ∧ kind = 1 then 6
  else if kind = 0 ∧ pbEnc bs = false then 6
  else
    match pbAuth k bs with
    | st + 1 => st + 1
    | 0 =>
      if bytesWord bs 8 ≠ romVer then 0x14
      else
        match pbItems k bs with
        | none => 6
        | some items =>
          if kind = 1 ∧ costsGiven items = false then 6
          else if !items.all (itemInKind kind) then 9
          else if kind = 1 ∧ (2 ≤ pbScopex bs ∨ (pbScopex bs = 1 ∧ source ≠ 2)) then 9
          else if kind = 1 ∧ !(if regions.isEmpty then [[]] else regions).all (fun r =>
              custRule ((items.foldl applyItem { words := r }).words) items) then 0xA
          else 0

/-- A block refused: UCODE.REFUSED, UCODE.LASTST and a record of class UPATCH (R303, Table 19.9). -/
def blockRefuse (s : State) (bs : List Byte) (status : Nat) : State :=
  let s1 := cntAdd { s with mem := { s.mem with lastst := status } } 0x9008 1
  fltWrite s1 5 (pbId bs) (BitVec.ofNat 32 status) 0

/-- Blocks checked in order, each on the regions that the blocks before it leave for the engines `es`: the first refusal. -/
def blocksCheck (k : SideKeys) (source : Nat) (es : List Nat) (start : Nat → Bank) : List (List Byte) → List (List Byte) →
    Option (List Byte × Nat)
  | _, [] => none
  | before, b :: t =>
    let regions := (es.filter (pbFor b)).map (fun n => ((before.filter (fun x => pbFor x n)).foldl (applyBlock k) (start n)).words)
    match blockCheck k source regions b with
    | 0 => blocksCheck k source es start (before ++ [b]) t
    | c => some (b, c)

/-- The Vetchaos blocks at start (R306): a refused one is left out. -/
def vetAccept (s : State) (blocks : List (List Byte)) : State :=
  blocks.foldl (fun z b => match blockCheck s.io.keys 0 [] b with
    | 0 => { z with mem := { z.mem with vet := z.mem.vet ++ [b] } }
    | c => blockRefuse z b c) { s with mem := { s.mem with vet := [] } }

/-- The fill of R306 steps 1 and 2 for every engine. -/
def vetFill (s : State) : State := forNats (List.range 67) (fun z n => bankFill z n z.mem.vet) s

/-- The costs in force after a release (R309): those of the customer blocks in scope of engine `n`. -/
def costsOf (k : SideKeys) (n : Nat) (blocks : List (List Byte)) (t : Tbl (Option Nat)) : Tbl (Option Nat) :=
  let items := (blocks.filter (fun b => pbFor b n)).flatMap (fun b => (pbItems k b).getD [])
  items.foldl (fun u i => match i with | .cost m v => tblSet none (256 * n + m) (some v) u | _ => u) t

/-- Whether a block of LOAD_UBANK raises a cost in force for engine `n` (R309). -/
def costRaised (s : State) (n : Nat) (bs : List Byte) : Bool :=
  ((pbItems s.io.keys bs).getD []).any (fun i => match i with
    | .cost m v => (match tblGet none (256 * n + m) s.svc.cost with | some c => decide (c < v) | none => false)
    | _ => false)

/-- The bank that LOAD_UBANK leaves in the inactive pair of engine `n` (R307). -/
def loadedBank (s : State) (blocks : List (List Byte)) (n : Nat) : Bank :=
  let e := engGet s n
  (blocks.filter (fun b => pbFor b n)).foldl (applyBlock s.io.keys) (bankOfEng e e.ubank)

/-- Steps 2 to 4 of R307 for engine `n`. -/
def loadBank (s : State) (blocks : List (List Byte)) (n : Nat) : State :=
  let x := loadedBank s blocks n
  engMap s n (fun e => { bankPut e (!e.ubank) x with inact := 2 })

end Sys2Proof.Machine
end

