-- ==== Sys2Proof/Machine/Release.lean ====
section
/-! DEFINITION. Images and release (R407 to R426): the choice of a source, the pre-check of Table 15.8, the start of VERIFY,
the copy tile by tile, and the checks before RUN. -/

namespace Sys2Proof.Machine

/-! The source. -/

/-- A word of the bytes before the body. -/
def hdW (h : List Byte) (a : Nat) : Nat := bytesNat h a 4

/-- The least multiple of 64 at or above `n`. -/
def up64 (n : Nat) : Nat := (n + 63) / 64 * 64

/-- BODYOFF as R407 gives it. -/
def bodyOff (tiles nsect : Nat) : Nat := up64 (0x300 + 4 * tiles + 32 * nsect)

/-- Whether a source of `size` bytes is valid (R413). -/
def srcValid (size : Nat) (h : List Byte) : Bool :=
  let tiles := hdW h 0x0C
  let nsect := hdW h 0x10
  let off := bodyOff tiles nsect
  decide (size ≠ 0) && hdW h 0 == 0x4943534B && bytesNat h 4 2 == 1 && decide (1 ≤ tiles ∧ tiles ≤ 917504) &&
  decide (1 ≤ nsect ∧ nsect ≤ 512) && hdW h 0x14 == off && decide (off + 64 * tiles ≤ size) && decide (off ≤ h.length) &&
  crc32c (h.take 0x24 ++ [0, 0, 0, 0] ++ (h.take off).drop 0x28) == bytesWord h 0x24

/-- The tiles of the staging buffer from 0 to `n - 1` that fail their check. -/
def stageBad (s : State) (n : Nat) : List Nat := (List.range n).filter (fun t => tileBad s 3 0 t)

/-- The Badger's reads of tiles of the staging buffer: each failing one is detected (R317, R320). -/
def stageSeen (s : State) (tiles : List Nat) : State :=
  forNats (tiles.filter (fun t => tileBad s 3 0 t)) (fun z t => tileDetect z 3 0 t 4) s

/-- The tiles before the body that the test of R413 reads: those of the header, and the rest once the header passes. -/
def stageHeadTiles (s : State) : List Nat :=
  let h := memBytes s.mem.staging 0 0x300
  let off := bodyOff (hdW h 0x0C) (hdW h 0x10)
  List.range (if (stageBad s 12).isEmpty && decide (off ≤ 2097152) then off / 64 else 12)

/-- The bytes before the body of an image in the staging buffer, none when a tile of them fails its check (R328). -/
def stageHead (s : State) : List Byte :=
  let h := memBytes s.mem.staging 0 0x300
  let off := bodyOff (hdW h 0x0C) (hdW h 0x10)
  if !(stageBad s 12).isEmpty || decide (2097152 < off) then []
  else if (stageBad s (off / 64)).isEmpty then memBytes s.mem.staging 0 off else []

/-- The choice of R414 between the slots: the slot, none when no source is valid, and whether the choice was a tie. -/
def chooseSlot (va vb : Bool) (ga gb : Nat) : Option (Bool × Bool) :=
  if va && vb then
    let d := (gb + 65536 - ga) % 65536
    if d = 0 ∨ d = 32768 then some (false, true) else some (decide (d < 32768), false)
  else if va then some (false, false)
  else if vb then some (true, false)
  else none

/-- A section entry (Table 15.5). -/
def sectAt (h : List Byte) (tiles i : Nat) : Sect :=
  let a := 0x300 + 4 * tiles + 32 * i
  { type := bytesNat h a 1, target := bytesNat h (a + 2) 2, first := hdW h (a + 4), ntiles := hdW h (a + 8),
    dest := hdW h (a + 0xC), param := bytesWord h (a + 0x10) }

/-- The image of a source: `src` is its code in REL.STATUS.SRC, `other` the GEN of the source not chosen. -/
def imageOf (src other : Nat) (h : List Byte) (pre : Tbl (List Byte)) : Image :=
  let tiles := hdW h 0x0C
  { src := src, profile := bytesNat h 6 1, gen := bytesNat h 8 2, otherGen := other, tiles := tiles, period := hdW h 0x18,
    subtick := hdW h 0x1C, bcrc := bytesWord h 0x20,
    bounds := (List.range 64).map (fun e => bytesWord h (0x100 + 8 * e)),
    roles := (List.range 64).map (fun e => hdW h (0x104 + 8 * e)),
    sects := (List.range (hdW h 0x10)).map (sectAt h tiles), pre := pre }

/-- ROLE of engine `e`. -/
def roleOf (img : Image) (e : Nat) : Nat := (img.roles[e]?).getD 0

/-- Whether the image gives engine `e` memories: ROLE active or spare. -/
def roleLoaded (img : Image) (e : Nat) : Bool := decide (e < 64) && (roleOf img e == 1 || roleOf img e == 2)

/-- Word `i` of the Sett subheader (Table 15.7). -/
def settSub (img : Image) (i : Nat) : Nat :=
  match settSect img with
  | none => 0
  | some x => bytesNat (tblGet [] x.first img.pre) (4 * i) 4

/-- First tiles of the parts of the Sett section, counted from its first tile: records, bank, parameters, patch blocks. -/
def settRecAt (img : Image) : Nat := 6 + settSub img 1 + settSub img 2
def settBankAt (img : Image) : Nat := settRecAt img + 2 * settSub img 3
def settParAt (img : Image) : Nat := settBankAt img + 25
def settPatchAt (img : Image) : Nat := settParAt img + 16

/-! Step 3 of Table 15.8. -/

/-- Table 15.6 for one section, apart from the counts per image. -/
def sectOk (img : Image) (x : Sect) : Bool :=
  let d0 := x.dest == 0
  let p0 := x.param == 0
  match x.type with
  | 1 => roleLoaded img x.target && p0 && decide (x.dest % 64 = 0) && decide (1 ≤ x.ntiles ∧ x.ntiles ≤ 4096) &&
      (decide (x.dest + 64 * x.ntiles ≤ 0x20000) ||
       (decide (0x10000000 ≤ x.dest) && decide (x.dest + 64 * x.ntiles ≤ 0x10040000)))
  | 2 => roleLoaded img x.target && p0 && d0 && x.ntiles == 5
  | 3 => decide (x.target < 8) && p0 && d0 && decide (1 ≤ x.ntiles ∧ x.ntiles ≤ 4)
  | 4 => x.target == 0 && d0 && decide (1 ≤ x.ntiles ∧ x.ntiles ≤ 4128) && decide (1 ≤ x.param.toNat ∧ x.param.toNat ≤ 8)
  | 5 => decide (x.target < 8) && p0 && x.ntiles % 2 == 0 && decide (2 ≤ x.ntiles ∧ x.ntiles ≤ 32768) &&
      decide (x.dest + x.ntiles / 2 ≤ 16384)
  | 6 => decide (x.target < 6) && p0 && d0 && x.ntiles == 50
  | 7 => x.target == 0 && d0 && decide (settSub img 1 ≤ 2048) && decide (settSub img 2 ≤ 4096) &&
      decide (settSub img 3 ≤ 1024) && decide (settSub img 4 ≤ 4128) &&
      x.ntiles == 47 + settSub img 1 + settSub img 2 + 2 * settSub img 3 + settSub img 4 &&
      bytesZero (tblGet [] x.first img.pre) 0x14 0x40
  | 8 => decide (x.target < 8) && p0 && d0 && x.ntiles == 1
  | _ => false

/-- Whether two ranges of local addresses or records overlap. -/
def rangesMeet (a n b m : Nat) : Bool := decide (a < b + m ∧ b < a + n)

/-- Two sections that an image may not hold together (Table 15.6). -/
def sectClash (x y : Sect) : Bool :=
  x.type == y.type && x.target == y.target &&
  (match x.type with
   | 1 => rangesMeet x.dest (64 * x.ntiles) y.dest (64 * y.ntiles)
   | 5 => rangesMeet x.dest (x.ntiles / 2) y.dest (y.ntiles / 2)
   | _ => true)

/-- Pairs of a list that clash. -/
def anyClash : List Sect → Bool
  | [] => false
  | x :: t => t.any (sectClash x) || anyClash t

/-- Sections in ascending order cover the tiles from `a` to `tiles - 1` exactly (R408). -/
def coverOk (tiles : Nat) : Nat → List Sect → Bool
  | a, [] => a == tiles
  | a, x :: t => x.first == a && decide (1 ≤ x.ntiles) && coverOk tiles (a + x.ntiles) t

/-- The zero bytes of every section entry. -/
def sectZeros (h : List Byte) (tiles i : Nat) : Bool :=
  let a := 0x300 + 4 * tiles + 32 * i
  bytesZero h (a + 1) (a + 2) && bytesZero h (a + 0x14) (a + 0x20)

/-- Step 3 of Table 15.8. -/
def formatOk (h : List Byte) (img : Image) : Bool :=
  decide (img.profile ≤ 5) && bytesZero h 7 8 && bytesZero h 0xA 0xC && bytesZero h 0x28 0x100 &&
  img.roles.all (fun r => decide (r < 3)) &&
  (img.profile != 1 || (List.range 32).all (fun k => roleOf img (2 * k) == roleOf img (2 * k + 1))) &&
  (List.range img.sects.length).all (sectZeros h img.tiles) && img.sects.all (sectOk img) && !anyClash img.sects &&
  coverOk img.tiles 0 img.sects &&
  (List.range 64).all (fun e => !roleLoaded img e || (sectOf img 2 e).isSome)

/-! Steps 4 to 9. -/

/-- The period and the phase of the Sett tick in the first parameter tile. -/
def settPeriod (img : Image) : Nat :=
  match settSect img with | none => 0 | some x => bytesNat (tblGet [] (x.first + settParAt img) img.pre) 0 4
def settPhase (img : Image) : Nat :=
  match settSect img with | none => 0 | some x => bytesNat (tblGet [] (x.first + settParAt img) img.pre) 4 4

/-- TCRC of a body tile in the bytes before the body. -/
def tcrcOf (h : List Byte) (t : Nat) : Word := bytesWord h (0x300 + 4 * t)

/-- A body tile read at the pre-check matches its TCRC. -/
def preOk (h : List Byte) (img : Image) (t : Nat) : Bool :=
  let b := tblGet [] t img.pre
  b.length == 64 && crc32c b == tcrcOf h t

/-- The tiles that step 7 reads. -/
def consumed (img : Image) : List Nat :=
  img.sects.flatMap (fun x =>
    let all := (List.range x.ntiles).map (x.first + ·)
    match x.type with
    | 2 => all
    | 3 => all
    | 4 => all
    | 8 => all
    | 7 => (List.range 6).map (x.first + ·) ++ (List.range (settSub img 4)).map (x.first + settPatchAt img + ·)
    | _ => [])

/-- Every record that the image supplies lies at an index that Table 4.5 allows. In FASTLOOP its FOX bit is not tested: an index passes that
Table 4.5 allows with either value of FOX (DESIGN CHOICE: Table 15.8 step 4 and R420 name the indices and XOWN, and no rule says whether
RELEASE tests the FOX column of Table 4.5; log 72). -/
def recordsOk (img : Image) : Bool :=
  img.sects.all (fun x => x.type != 5 || (List.range (x.ntiles / 2)).all (fun r =>
    let i := 16384 * x.target + x.dest + r
    indexAllowed img.profile i false || indexAllowed img.profile i true))

/-- Step 4: 0, LIMIT or CHECK. -/
def limitCheck (h : List Byte) (img : Image) : Nat :=
  if !(decide (40 ≤ img.period ∧ img.period ≤ 4000000) && periodFits img.profile img.period img.subtick && recordsOk img) then 8
  else match settSect img with
    | none => 0
    | some x =>
      if !preOk h img (x.first + settParAt img) then 0xB
      else if settPeriod img < 400 ∨ 4000000 < settPeriod img ∨ settPeriod img * 250 ≤ settPhase img then 8
      else 0

/-- Step 6. -/
def boundsOk (s : State) (img : Image) : Bool :=
  admitted s img img.profile img.period img.subtick (fun n => roleOf img n == 1) &&
  ((settSect img).isNone || decide (settSub img 0 ≤ budgetOf (settPeriod img) 5 (img.profile == 4)))

/-- The carve-outs of cluster `k` as far roots: BASE, LIMIT and PERM. -/
def carveouts (img : Image) (k : Nat) : List (Word × Word × Nat) :=
  match sectOf img 3 k with
  | none => []
  | some x =>
    let bs := sectBytes img x
    ((List.range (4 * x.ntiles)).map (fun i =>
      (bytesWord bs (16 * i), bytesWord bs (16 * i + 4), bytesNat bs (16 * i + 8) 4))).filter
        (fun q => decide (q ≠ ((0 : Word), (0 : Word), 0)))

/-- The contents of the engine-entry, carve-out and spares sections (R409). -/
def contentOk (img : Image) (x : Sect) : Bool :=
  let bs := sectBytes img x
  match x.type with
  | 2 => bytesZero bs 0x108 0x140 && decide ((bytesWord bs 0x104).toNat ≤ 1)
  | 3 => (List.range (4 * x.ntiles)).all (fun i =>
      bytesZero bs (16 * i) (16 * i + 16) ||
      (decide (0x80000000 ≤ bytesNat bs (16 * i) 4 ∧ bytesNat bs (16 * i) 4 ≤ bytesNat bs (16 * i + 4) 4) &&
       decide (bytesNat bs (16 * i + 8) 4 ≤ 3) && bytesZero bs (16 * i + 12) (16 * i + 16)))
  | 8 => bytesZero bs 8 64 && (List.range 8).all (fun j =>
      let m := bytesNat bs j 1
      m == 255 || (decide (m < 8) && roleOf img (8 * x.target + m) == 2 && roleOf img (8 * x.target + j) == 1))
  | 7 => bytesZero (bs.drop 64) 0x108 0x140
  | _ => true

/-- The roots of Table 5.5 that a capability or descriptor may derive from: BASE, LIMIT, PERM. -/
def scanRoots : List (Word × Word × Nat) :=
  [(0x00000000, 0x0001FFFF, 0xF1), (0x10000000, 0x1003FFFF, 0x0F), (0x20000000, 0x2000007F, 0x03),
   (0x30000000, 0x3000001F, 0x01), (0x40000000, 0x400003FF, 0x03), (0x50000000, 0x50000FFF, 0x01),
   (0x00000001, 0x000000FE, 0x300)]

/-- The roots of S0 and S1 (Table 5.5a). -/
def settRoots : List (Word × Word × Nat) :=
  [(0x00000000, 0x0001FFFF, 0xF1), (0x10000000, 0x1003FFFF, 0x0F), (0x20000000, 0x2000007F, 0x03),
   (0x30000000, 0x3000001F, 0x01), (0x50000000, 0x50000FFF, 0x03), (0x60000000, 0x60003FFF, 0x03),
   (0x00000001, 0x000000FE, 0x300)]

/-- Whether a value lies inside a root with a subset of its permissions. -/
def inRoot (c : W128) (r : Word × Word × Nat) : Bool :=
  r.1.ule (capBase c) && (capLimit c).ule r.2.1 && decide (capPerm c &&& ~~~(BitVec.ofNat 16 r.2.2) = 0)

/-- Whether a capability of an engine entry meets R144. -/
def entryCapOk (roots : List (Word × Word × Nat)) (c : W128) : Bool :=
  c == 0 || (capValid c && roots.any (inRoot (capSetOtype c 0)) &&
    (match capOtype c with
     | 0 => true
     | 255 => capHas c pEX
     | _ => true))

/-- Whether a descriptor of a compatibility-mode entry meets R144 (DEDUCED: the rights stand for the permissions of the same
bit numbers). -/
def entryDescOk (roots : List (Word × Word × Nat)) (c : W128) : Bool :=
  c == 0 || (descWf c && (capBase c).ule (capLimit c) && roots.any (inRoot c))

/-- Whether an engine entry meets R144. -/
def entryOk (roots : List (Word × Word × Nat)) (x : EngEntry) : Bool :=
  let caps := (List.range 15).map (fun i => tblGet 0 (i + 1) x.caps)
  if x.compat then
    descPresent x.pcc && decide (descType x.pcc = 1) && capHas x.pcc pEX && (x.pcc :: caps).all (entryDescOk roots)
  else decide (capOtype x.pcc = 0) && capHas x.pcc pEX && (x.pcc :: caps).all (entryCapOk roots)

/-- The entry of S0 and S1. -/
def settEntry (img : Image) : EngEntry :=
  match settSect img with
  | none => entryOf []
  | some x => entryOf ((List.range 5).flatMap (fun i => tblGet [] (x.first + 1 + i) img.pre))

/-- Step 8. -/
def entriesOk (img : Image) : Bool :=
  img.sects.all (fun x => x.type != 2 || entryOk (scanRoots ++ carveouts img (x.target / 8)) (entryOf (sectBytes img x))) &&
  ((settSect img).isNone || entryOk settRoots (settEntry img))

/-- Patch blocks that begin on tiles, at most `c` of them. -/
def splitBlocks : Nat → List Byte → List (List Byte)
  | 0, _ => []
  | c + 1, bs =>
    if bs.isEmpty then []
    else
      let n := up64 (256 + bytesNat bs 0x0C 4)
      bs.take n :: splitBlocks c (bs.drop n)

/-- The customer blocks of the decode-overrides section. -/
def imgBlocks (img : Image) : List (List Byte) :=
  match sectOf img 4 0 with | none => [] | some x => splitBlocks x.param.toNat (sectBytes img x)

/-- The patch blocks of the Sett image. -/
def settBlocks (img : Image) : List (List Byte) :=
  match settSect img with
  | none => []
  | some x =>
    splitBlocks (settSub img 4) ((List.range (settSub img 4)).flatMap (fun i => tblGet [] (x.first + settPatchAt img + i) img.pre))

/-- Step 9: the first block refused, with its status. -/
def blocksOk (k : SideKeys) (img : Image) : Option (List Byte × Nat) :=
  (blocksCheck k 1 ((List.range 64).filter (roleLoaded img)) (fun _ => freshBank) [] (imgBlocks img)).or
    (blocksCheck k 2 [64] (fun _ => freshBank) [] (settBlocks img))

/-- Steps 3 to 8 of Table 15.8: 0 when every check passes. -/
def preCheck (s : State) (h : List Byte) (img : Image) : Nat :=
  if !formatOk h img then 6
  else if limitCheck h img ≠ 0 then limitCheck h img
  else if (settSect img).isSome ∧ s.sett.st = 4 then 0xF
  else if !boundsOk s img then 7
  else if !(consumed img).all (preOk h img) then 0xB
  else if !img.sects.all (contentOk img) then 6
  else if !entriesOk img then 0x10
  else 0

/-- The body tiles that the pre-check reads as far as it goes: the Sett subheader with the format, the first parameter tile with the
limits, and every consumed tile at step 7. -/
def preTiles (s : State) (h : List Byte) (img : Image) : List Nat :=
  if !formatOk h img then (match settSect img with | none => [] | some x => [x.first])
  else if limitCheck h img ≠ 0 ∨ ((settSect img).isSome ∧ s.sett.st = 4) ∨ boundsOk s img = false then
    (match settSect img with | none => [] | some x => [x.first, x.first + settParAt img])
  else consumed img

/-- A RELEASE refused (R416). -/
def relRefuse (s : State) (tag status : Nat) : State :=
  hmbComplete { cntAdd s 0xB030 1 with rel := { s.rel with lastst := status } } tag status

/-- No valid source (R415). -/
def relNoSource (s : State) (tag : Nat) : State :=
  let s1 := relRecord (relRefuse s tag 0xC) 1 0
  let s2 := { s1 with rel := { s1.rel with fcause := 1 } }
  if s2.bstate = .awaitImage then setBState s2 .hold else s2

/-- The body tiles of an image in the staging buffer that the pre-check reads; a tile that fails its check reads as missing. -/
def stagePre (s : State) (h : List Byte) : Tbl (List Byte) :=
  let tiles := hdW h 0x0C
  let off := hdW h 0x14
  (List.range tiles).foldl (fun t i =>
    if tileBad s 3 0 (off / 64 + i) then t else tblSet [] i (memBytes s.mem.staging (off + 64 * i) 64) t) []

/-- The tiles given with a source as a table. -/
def srcPre (x : SrcImage) : Tbl (List Byte) := x.tiles.foldl (fun t q => tblSet [] q.1 q.2 t) []

/-- Steps 2 to 9 of a RELEASE that has been accepted: it is refused, or its image waits for RELEASE_PRECHECK_PASS. -/
def relCheck (s : State) (tag : Nat) (img : Image) (h : List Byte) : State :=
  match preCheck s h img with
  | 0 =>
    (match blocksOk s.io.keys img with
     | some q => relRefuse (blockRefuse s q.1 q.2) tag q.2
     | none => { s with rel := { s.rel with next := some img, phaseBefore := s.rel.phase, phase := 1, tag := tag } })
  | c => relRefuse (if c = 7 then cntAdd s 0x10090 1 else s) tag c

/-- The choice of the source (R414). -/
def relChoose (s : State) (tag src : Nat) (imgA imgB : SrcImage) : State :=
  if src = 1 then
    let h := stageHead s
    let s0 := stageSeen s (stageHeadTiles s)
    if srcValid 2097152 h then
      let img := imageOf 2 0 h (stagePre s h)
      let s1 := stageSeen s0 ((preTiles s h img).map (hdW h 0x14 / 64 + ·))
      relCheck { s1 with rel := { s1.rel with ambiguous := false } } tag img h
    else relNoSource s0 tag
  else
    let va := srcValid (field (regGet s 0xB010) 26 0) imgA.head
    let vb := srcValid (field (regGet s 0xB014) 26 0) imgB.head
    let ga := bytesNat imgA.head 8 2
    let gb := bytesNat imgB.head 8 2
    match chooseSlot va vb ga gb with
    | none => relNoSource s tag
    | some (b, tie) =>
      let s1 := { s with rel := { s.rel with ambiguous := tie } }
      if b then relCheck s1 tag (imageOf 1 (if va then ga else 0) imgB.head (srcPre imgB)) imgB.head
      else relCheck s1 tag (imageOf 0 (if vb then gb else 0) imgA.head (srcPre imgA)) imgA.head

/-! The copy plan (R419). -/

/-- A step of the copy. -/
inductive PStep where
  /-- Tile `o` of the Sett section, the body tile `t`. -/
  | sett (o t : Nat)
  | settStart
  | moth (b o t : Nat)
  | ctx (i half t : Nat)
  | fill (n : Nat)
  | eng (n adr t : Nat)
  | start (n : Nat)
  deriving DecidableEq, Repr

/-- The copied tiles of the Sett section. -/
def settPlan (img : Image) : List PStep :=
  match settSect img with
  | none => []
  | some x => ((List.range (settPatchAt img)).filter (fun o => decide (6 ≤ o))).map (fun o => .sett o (x.first + o)) ++ [.settStart]

/-- The steps for engine `n`. -/
def engPlan (img : Image) (n : Nat) : List PStep :=
  if roleLoaded img n then
    .fill n :: ((img.sects.filter (fun x => x.type == 1 && x.target == n)).flatMap (fun x =>
      (List.range x.ntiles).map (fun i => .eng n (x.dest + 64 * i) (x.first + i)))) ++
    (if roleOf img n = 1 then [.start n] else [])
  else []

/-- The steps for cluster `k`. -/
def cluPlan (img : Image) (k : Nat) : List PStep :=
  (img.sects.filter (fun x => x.type == 5 && x.target == k)).flatMap (fun x =>
    (List.range x.ntiles).map (fun i => .ctx (16384 * k + x.dest + i / 2) (i % 2) (x.first + i))) ++
  (List.range 8).flatMap (fun j => engPlan img (8 * k + j))

/-- The whole copy in the order of R419. -/
def copyPlan (img : Image) : List PStep :=
  settPlan img ++
  (List.range 6).flatMap (fun b => (img.sects.filter (fun x => x.type == 6 && x.target == b)).flatMap (fun x =>
    (List.range 50).map (fun o => .moth b o (x.first + o)))) ++
  (List.range 8).flatMap (cluPlan img)

/-- The body tile of a step that copies one. -/
def stepTile (p : PStep) : Option Nat :=
  match p with
  | .sett _ t => some t
  | .moth _ _ t => some t
  | .ctx _ _ t => some t
  | .eng _ _ t => some t
  | _ => none

/-! What a copied tile writes. -/

/-- The last tile of a bank's program is loaded: the moths whose image CTL.EN is 1 are enabled at the next main edge (R419). -/
def bankLoaded (b tiles o : Nat) (s : State) : State :=
  if o + 1 = tiles then
    forNats (mothsOf b) (fun z m => mothMap z m (fun mo => { mo with enNext := mo.enNext || mo.enLoad, enLoad := false })) s
  else s

/-- The fields of a moth block or of the pins from tile `o` of a bank's program (R410); `pins` tiles hold pin words. -/
def mothTile (s : State) (b pins o : Nat) (bs : List Byte) : State :=
  if o < pins then
    forNats (List.range 16) (fun z i =>
      if 16 * o + i ≤ lastPin b then pinCfgWrite z (32 * b + 16 * o + i) (bytesWord bs (4 * i)) else z) s
  else
    let m := 16 * b + (o - pins) / 3
    bankLoaded b (pins + 3 * (mothsOf b).length) o <|
    match (o - pins) % 3 with
    | 0 =>
      let ctl := bytesWord bs 0
      let s1 := mothPoke s m 0x00 (ctl &&& 0x7FFFFFFF)
      let s2 := mothPoke (mothPoke s1 m 0x04 (bytesWord bs 4)) m 0x08 (bytesWord bs 8)
      let s3 := mothPoke (mothPoke s2 m 0x18 (bytesWord bs 0xC)) m 0x1C (bytesWord bs 0x10)
      let s4 := mothPoke (mothPoke s3 m 0x20 (bytesWord bs 0x14)) m 0x40 (bytesWord bs 0x18)
      mothMap s4 m (fun mo => { mo with enLoad := bitAt ctl 31 })
    | k => forNats (List.range 16) (fun z i => mothImemPut z m (16 * (k - 1) + i) (bytesWord bs (4 * i))) s

/-- A whole-tile write of engine memory at local address `a` (R318); the validity bits of DMEM granules are cleared
(R152). -/
def engTilePut (s : State) (n a : Nat) (bs : List Byte) : State :=
  let data := decide (0x10000000 ≤ a)
  let t := a % 0x10000000 / 64
  let s1 := engMap s n (fun e =>
    if data then { e with dmem := memPut e.dmem (64 * t) bs, valid := e.valid.filter (fun g => decide (g / 4 ≠ t)) }
    else { e with imem := memPut e.imem (64 * t) bs })
  let k := engTile n data t
  tileCure s1 k.1 k.2.1 k.2.2

/-- A whole-tile write of half a record by the Badger, in every copy, with the ROUTINE.CTL copies (R110, R120). -/
def ctxTilePut (s : State) (i half : Nat) (bs : List Byte) : State :=
  let s1 := halfPut s i half bs
  if half = 0 then ctlPut s1 i (recCtl (recHalf 0 0 bs)) else s1

/-- A tile of the Sett section: `o` counts from its first tile. -/
def settTilePut (s : State) (img : Image) (o : Nat) (bs : List Byte) : State :=
  let both (z : State) (a : Nat) : State := engTilePut (engTilePut z 64 a bs) 65 a bs
  if o < 6 + settSub img 1 then both s (64 * (o - 6))
  else if o < settRecAt img then both s (0x10000000 + 64 * (o - 6 - settSub img 1))
  else if o < settBankAt img then
    let q := o - settRecAt img
    let r := recHalf (tblGet 0 (q / 2) s.store.sett) (q % 2) bs
    tileCure { s with store := { s.store with sett := tblSet 0 (q / 2) r s.store.sett } } 5 2 q
  else if o < settParAt img then mothTile s 6 1 (o - settBankAt img) bs
  else
    let q := 16 * (o - settParAt img)
    settFlagsSeen (settMap s (fun t =>
      let p := (List.range 16).foldl (fun u i => tblSet 0 (q + i) (bytesWord bs (4 * i)) u) t.par
      { t with par := p, parSeen := p }))

/-- The engines whose memories a tile of a section of engine `n` loads: in PAIRED both of a pair are loaded from the sections of engine
2k (R433), and the duplicates for 2k + 1 are read and checked, as the CRC of the body needs them (R422), and written nowhere. -/
def loadEngs (img : Image) (n : Nat) : List Nat :=
  if img.profile = 1 then (if n % 2 = 0 then [n, n + 1] else []) else [n]

/-- The on-chip tile that an engine-memory tile at local address `a` loads in engine `n`. -/
def engAt (n a : Nat) : Nat × Nat × Nat := engTile n (decide (0x10000000 ≤ a)) (a % 0x10000000 / 64)

/-- The whole-tile write of one step, with the reference of R323 for each tile written. -/
def stepWrite (s : State) (p : PStep) (bs : List Byte) (crc : Word) : State :=
  let ref (z : State) (k : Nat) : State := { z with mem := { z.mem with refs := tblSet none k (some crc) z.mem.refs } }
  match p with
  | .sett o _ => settTilePut s s.rel.img o bs
  | .moth b o _ => mothTile s b 2 o bs
  | .ctx i half _ =>
    let key (j : Nat) : Nat := tileKey 2 (homeOf j) (2 * (j % 2 ^ 14) + half)
    let s0 := ref (ctxTilePut s i half bs) (key i)
    let s1 := if isMirrored s then ref s0 (key (mirrorOf i)) else s0
    if half = 0 ∧ ctlInuse (ctlGet s1 i) = true ∧ ctlPubl (ctlGet s1 i) = true then pubMark s1 i else s1
  | .eng n a _ =>
    forNats (loadEngs s.rel.img n) (fun z m =>
      ref (engTilePut z m a bs) (tileKey (engAt m a).1 (engAt m a).2.1 (engAt m a).2.2)) s
  | _ => s

/-- A step that copies no tile: a micro-RAM fill or a start. -/
def stepAct (s : State) (p : PStep) : State :=
  let img := s.rel.img
  match p with
  | .fill n => bankFill s n (s.mem.vet ++ imgBlocks img)
  | .start n => engMap (engineStart s n (imgEntry s n)) n (fun e => { e with fresh := true })
  | .settStart =>
    let s1 := forNats [64, 65] (fun z n =>
      let z1 := bankFill z n (z.mem.vet ++ settBlocks img)
      engMap (engineStart z1 n (settEntry img)) n (fun e => { e with fresh := true })) s
    settFlagsSeen (settMap s1 (fun t => { t with hasImage := true, bound := BitVec.ofNat 32 (settSub img 0) }))
  | _ => s

/-- The steps from the present one that copy no tile carried out; the end of the plan makes PHASE VERIFY. -/
def planGo : List PStep → State → State
  | [], s => { s with rel := { s.rel with phase := 3 } }
  | p :: t, s =>
    match stepTile p with
    | some _ => s
    | none =>
      let s1 := stepAct s p
      planGo t { s1 with rel := { s1.rel with step := s1.rel.step + 1 } }

/-- The step in hand. -/
def planAt (s : State) : List PStep := (copyPlan s.rel.img).drop s.rel.step

/-! The start of VERIFY (R418, R441). -/

/-- The records that an image supplies. -/
def supplied (img : Image) (i : Nat) : Bool :=
  img.sects.any (fun x => x.type == 5 && x.target == homeOf i && decide (x.dest ≤ i % 2 ^ 14 ∧ i % 2 ^ 14 < x.dest + x.ntiles / 2))

/-- The costs of the customer entries that the image leaves valid (R309). -/
def relCosts (k : SideKeys) (img : Image) : Tbl (Option Nat) :=
  ((List.range 64).filter (roleLoaded img)).foldl (fun t n =>
    let bank := ((imgBlocks img).filter (fun b => pbFor b n)).foldl (applyBlock k) freshBank
    (costsOf k n (imgBlocks img) []).foldl (fun u q =>
      if entValid (bankEntry bank (q.1 % 256)) then tblSet none q.1 q.2 u else u) t) []

/-- The spares named by the image: a spares tile numbers the engines inside its cluster (DEDUCED from R409), and the table is by
global numbers. -/
def relSpares (img : Image) : Tbl Nat :=
  (img.sects.filter (fun x => x.type == 8)).foldl (fun t x =>
    let bs := sectBytes img x
    (List.range 8).foldl (fun u j =>
      let m := bytesNat bs j 1
      tblSet 255 (8 * x.target + j) (if m < 8 then 8 * x.target + m else 255) u) t) []

/-- The engines that turn OFF at a release, before its profile takes effect: their locks are released and their event targets are forced
(R118, R340). -/
def relLeave (img : Image) (s : State) : State :=
  forNats ((List.range 64).filter (fun n => !roleLoaded img n && domStat s n == 1)) (fun z n => tgtForce (locksRelease z n) n) s

/-- Engine `n` and its domain as ROLE gives them (R441, R456). -/
def relEngine (img : Image) (s : State) (n : Nat) : State :=
  let put (z : State) (c : Nat) : State := svcEngMap z n (fun _ => { st := c })
  match roleOf img n with
  | 1 => put (if domStat s n = 1 then offKeep s n else domOn s n) 1
  | 2 => put (if domStat s n = 1 then offKeep s n else domOn s n) 2
  | _ => put (engDomOff s n) 0

/-- A domain that the image needs powered on, with REQ = 1. -/
def relPower (s : State) (d : Nat) : State :=
  let s1 := { s with svc := { s.svc with reqOff := delNat d s.svc.reqOff } }
  if domStat s d = 1 then s1 else domOn s1 d

/-- The clusters and host-switched domains that the image needs (R441, R457). -/
def relDomains (img : Image) (s : State) : State :=
  let clu := ((List.range 8).filter (fun k => (List.range 8).any (fun j => roleLoaded img (8 * k + j)))).map (64 + ·)
  let banks := (img.sects.filter (fun x => x.type == 6)).map (fun x => 72 + x.target)
  let sett := if (settSect img).isSome then [78, 79] else []
  let s1 := forNats (clu.filter (fun d => domStat s d != 1)) domOn s
  forNats (banks ++ sett) relPower s1

/-- The first schedule point at or after KTB (R33). -/
def firstPoint (s : State) (phase p : Nat) : Nat := if p = 0 then 0 else ((ktb s).toNat - phase + p - 1) / p

/-- The tick generator started (R33): DISPATCH waits for the first edge. -/
def tickStart (s : State) : State :=
  { s with tick := { s.tick with
      running := true, nextK := firstPoint s s.tick.phase.toNat (s.tick.units * 250), edgeAt := none, firstEdge := true,
      inReserve := true, subI := 0, subReserve := true, pend := none } }

/-- The Sett in VERIFY with a Sett section, and in IDLE without one (Table 14.1, R378). -/
def settVerify (s : State) (img : Image) : State :=
  if (settSect img).isNone then settFlagsSeen (settMap s (fun t => { t with hasImage := false }))
  else if s.sett.st = 1 ∨ s.sett.st = 0 then
    let p := settPeriod img * 250
    let k := firstPoint s (settPhase img) p
    let s1 := settMap s (fun t => { t with
      st := 2, fcause := 0, units := settPeriod img, phase := BitVec.ofNat 32 (settPhase img),
      stn := BitVec.ofNat 64 (((ktb s).toNat - settPhase img) / p), taken := if k = 0 then none else some (k - 1),
      inReserve := true, hasImage := false, idReported := none,
      declared := (match settSect img with | some x => x.param | none => 0) })
    settCheck (bankReset s1 6 true)
  else s

/-- R418 as one action: the image under pre-check becomes the one being released. -/
def relBegin (s : State) : State :=
  match s.rel.next with
  | none => s
  | some img =>
    let s0 := relLeave img s
    let s1 := { s0 with
      rel := { s.rel with img := img, next := none, phase := 2, fcause := 0, step := 0, copied := 0, crcs := [],
                          readback := false, identOk := (settSect img).isNone, atEdge := false },
      svc := { s.svc with profile := img.profile, vlowreq := img.profile == 4, fill := false, spare := relSpares img,
                          cost := relCosts s.io.keys img },
      tick := { s.tick with units := img.period, subtick := img.subtick },
      mem := { s0.mem with refs := [] },
      store := { s0.store with ctlEdge := [] } }
    let s2 := relDomains img (forNats (List.range 64) (relEngine img) s1)
    let s3 := mirSet s2 (if img.profile = 2 then 1 else 0)
    let s4 := forNats (List.range 6) (fun z b => bankReset z b true) s3
    let s5 := ctlZero s4 (fun i => !supplied img i)
    let s6 := settVerify (tickStart (setBState s5 .verify)) img
    planGo (planAt s6) s6

/-! The commands. -/

/-- RELEASE_PRECHECK_PASS, R418: in AWAIT_IMAGE or HOLD the release begins, and in RUN or SERVICE it begins at the next main
edge (R417). -/
def execReleasePrecheckPass (s : State) : Host.Outcome State Fault Refusal :=
  if s.rel.next.isNone || badgerDead s then .next s
  else if s.bstate = .run ∨ s.bstate = .service then .next { s with rel := { s.rel with atEdge := true } }
  else if s.bstate = .awaitImage ∨ s.bstate = .hold then .next (relBegin s)
  else .next s

/-- The bytes of body tile `t` and its TCRC as the Badger reads them from the captured source: from the staging buffer they are
the model's own, none for a tile that fails its check, and otherwise those that the command brings. -/
def tileSource (s : State) (t : Nat) (bytes : List Byte) (tcrc : Word) : Option (List Byte × Word) :=
  if s.rel.img.src = 2 then
    let off := bodyOff s.rel.img.tiles s.rel.img.sects.length
    let at4 := 0x300 + 4 * t
    if tileBad s 3 0 (off / 64 + t) || tileBad s 3 0 (at4 / 64) then none
    else some (memBytes s.mem.staging (off + 64 * t) 64, memWord s.mem.staging at4)
  else some (bytes, tcrc)

/-- The detection of the failing staging tiles that a read of body tile `t` and of its TCRC meets (R317, R328). -/
def sourceSeen (s : State) (t : Nat) : State :=
  if s.rel.img.src = 2 then
    stageSeen s [bodyOff s.rel.img.tiles s.rel.img.sects.length / 64 + t, (0x300 + 4 * t) / 64]
  else s

/-- The copy of one tile (R420). -/
def copyTile (s : State) (p : PStep) (t : Nat) (bytes : List Byte) (tcrc : Word) : State :=
  match tileSource s t bytes tcrc with
  | none => relFail (sourceSeen s t) 2 t 0xB
  | some (bs, want) =>
    if bs.length ≠ 64 ∨ crc32c bs ≠ want then relFail s 2 t 0xB
    else
      let xown := match p with
        | .ctx _ 0 _ => ctlXown (bytesWord bs 0x14) && s.svc.profile != 2
        | _ => false
      if xown then relFail s 8 0 8
      else
        let s1 := stepWrite s p bs want
        let s2 := { s1 with rel := { s1.rel with copied := s1.rel.copied + 1, crcs := tblSet 0 t want s1.rel.crcs,
                                                 step := s1.rel.step + 1 } }
        planGo (planAt s2) s2

/-- RELEASE_TILE_COPY, R420: the next tile of the copy. -/
def execReleaseTileCopy (bytes : List Byte) (tcrc : Word) (s : State) : Host.Outcome State Fault Refusal :=
  if s.bstate = .verify ∧ s.rel.phase = 2 ∧ badgerDead s = false then
    if settLost s then .next (relFail s 4 0 0xE)
    else match planAt s with
      | p :: _ => (match stepTile p with
          | some t => .next (copyTile s p t bytes tcrc)
          | none => .next s)
      | [] => .next s
  else .next s

/-- The on-chip copies that one step has made, as class, instance and tile: in MIRRORED both copies of a context tile (R120). -/
def stepCopies (s : State) (p : PStep) : List (Nat × Nat × Nat) :=
  let img := s.rel.img
  match p with
  | .eng n a _ => (loadEngs img n).map (fun m => engAt m a)
  | .ctx i half _ => (tileCopies s i).map (fun j => (2, homeOf j, 2 * (j % 2 ^ 14) + half))
  | .sett o _ =>
    if o < settRecAt img then
      let data := decide (6 + settSub img 1 ≤ o)
      let t := if data then o - 6 - settSub img 1 else o - 6
      [engTile 64 data t, engTile 65 data t]
    else if o < settBankAt img then [(5, 2, o - settRecAt img)] else []
  | _ => []

/-- Tiles read back one after the other, up to the first that fails its check: it is detected, and in Sett memory fails the Sett
(R383). -/
def tilesRead : List (Nat × Nat × Nat) → State → Bool × State
  | [], s => (true, s)
  | k :: t, s =>
    if tileBad s k.1 k.2.1 k.2.2 then
      (false, if k.1 = 5 then settFail (tileDetect s k.1 k.2.1 k.2.2 4) 3 else tileDetect s k.1 k.2.1 k.2.2 4)
    else tilesRead t s

/-- The readback of the copies of one step: whether each passes its check (R422). -/
def readBack (s : State) (p : PStep) : Bool × State := tilesRead (stepCopies s p) s

/-- The readback of every copy in order, up to the first that fails. -/
def readAll : List PStep → State → Option Nat × State
  | [], s => (none, s)
  | p :: t, s =>
    let r := readBack s p
    if r.1 then readAll t r.2 else (stepTile p, r.2)

/-- The CRC-32C of the body from the CRCs of its tiles as they were read (R422). -/
def bodyCrc (s : State) : Word :=
  crc32cOfTiles ((List.range s.rel.img.tiles).map (fun t =>
    match tblGet [] t s.rel.img.pre, hasNat t (consumed s.rel.img) with
    | b, true => crc32c b
    | _, false => tblGet 0 t s.rel.crcs))

/-- RELEASE_READBACK_DONE, R422. -/
def execReleaseReadbackDone (s : State) : Host.Outcome State Fault Refusal :=
  if s.bstate = .verify ∧ s.rel.phase = 3 ∧ s.rel.readback = false ∧ badgerDead s = false then
    if settLost s then .next (relFail s 4 0 0xE)
    else match readAll (copyPlan s.rel.img) s with
      | (some t, z) => .next (relFail z 5 t 0xB)
      | (none, z) =>
        if bodyCrc z ≠ z.rel.img.bcrc then .next (relFail z 3 0 0xB)
        else .next { z with rel := { z.rel with readback := true } }
  else .next s

/-- The identification computed over the Sett section without its parameter tiles (R411, R392). -/
def settIdent (s : State) : Word :=
  let img := s.rel.img
  match settSect img with
  | none => 0
  | some x =>
    let os := (List.range x.ntiles).filter (fun o => decide (o < settParAt img ∨ settPatchAt img ≤ o))
    crc32cOfTiles (os.map (fun o =>
      if 6 ≤ o ∧ o < settParAt img then tblGet 0 (x.first + o) s.rel.crcs else crc32c (tblGet [] (x.first + o) img.pre)))

/-- SETT_IDENT_REPORT, R392: SETTID computed in VERIFY, once the Sett section has been copied. -/
def execSettIdentReport (s : State) : Host.Outcome State Fault Refusal :=
  if s.bstate = .verify ∧ s.sett.st = 2 ∧ s.sett.hasImage = true ∧ s.sett.idReported = none then
    let id := settIdent s
    let same := id == s.sett.declared
    let s1 := settFlags (settMap s (fun t => { t with settid := id, idReported := some same }))
    if badgerDead s then .next s1
    else if same then .next { s1 with rel := { s1.rel with identOk := true } }
    else .next (relFail s1 4 0 0xE)
  else .next s

end Sys2Proof.Machine
end

