-- ==== Sys2Proof/Machine/Tick.lean ====
section
/-! DEFINITION. The edges and reserves of the main tick, of the Fox sub-tick and of the Sett tick (R31 to R60, R378, R379,
Table 2.3). Each is guarded by KTB; an edge that finds its reserve not yet begun begins it first, as Table 2.3 orders them. -/

namespace Sys2Proof.Machine

/-! Reserves. -/

/-- Whether engine `n` overruns at the start of a reserve (R46): a halt by debug or a machine check, and an engine out of service,
does not. -/
def overruns (s : State) (n : Nat) : Bool :=
  let e := engGet s n
  svcActive s n && !e.dbg.halted && e.run != .mcheck && (e.ctxOpen.isSome || !e.scan.isEmpty)

/-- The entries left on the list of engine `n` skipped (R48), with those lost to their parity whose context was not dispatched
(R315), counted in its cluster; in PAIRED those of the pair once. -/
def skipLeft (s : State) (n : Nat) : State :=
  let l := (engGet s n).scan ++ (engGet s n).scanLost
  let s1 := engMap s n (fun e => { e with scan := [], scanLost := [] })
  if isPaired s && n % 2 == 1 then s1
  else cntAdd (forNats l ctxSkip s1) (0x10104 + cluOf n * 0x40) l.length

/-- The main reserve at cluster `k` (R46 to R50): nothing while the cluster is tick-frozen. -/
def cluReserve (s : State) (k : Nat) : State :=
  if frzTick s k then s
  else
    let es := ((List.range 8).map (8 * k + ·)).filter (fun n => !isFox s n)
    let ovr := es.filter (overruns s)
    let s1 := forNats ovr (fun z n => cntAdd z (0x10108 + k * 0x40 + 4 * (n % 8)) 1) s
    let s2 := if ovr.isEmpty then s1
      else cntPut (cntAdd s1 (0x10100 + k * 0x40) 1) (0x10128 + k * 0x40) (s.tick.tickn.setWidth 32)
    forNats es skipLeft s2

/-- Whether any engine outside the Fox group overruns now in a cluster that is not frozen. -/
def anyOverrun (s : State) : Bool := (List.range 64).any (fun n => !isFox s n && !frzTick s (cluOf n) && overruns s n)

/-- The start of the main publish reserve (Table 2.3 step 1). -/
def reserveStart (s : State) : State :=
  let ovr := anyOverrun s
  let s1 := forNats (List.range 8) cluReserve { s with tick := { s.tick with inReserve := true } }
  let s2 := pulse s1 297
  if ovr then pulse s2 298 else s2

/-- The Fox engines. -/
def foxEngines (s : State) : List Nat := ((List.range 8).map (56 + ·)).filter (isFox s)

/-- The start of a sub-tick reserve (R59): overruns of the Fox group count in CLU[7].SUBOVR in place of EOVR, and a sub-tick with
an overrun counts in CLU[7].TICKOVR. -/
def subReserveStart (s : State) : State :=
  let s0 := { s with tick := { s.tick with subReserve := true } }
  if frzTick s 7 then s0
  else
    let ovr := (foxEngines s).filter (overruns s)
    let s1 := cntAdd s0 0x102F0 ovr.length
    let s2 := if ovr.isEmpty then s1 else pulse (cntPut (cntAdd s1 0x102C0 1) 0x102E8 (s.tick.tickn.setWidth 32)) 298
    forNats (foxEngines s) skipLeft s2

/-! Lists. -/

/-- Whether context `i` with ROUTINE.CTL `c` is scan-due at the edge in hand (R41, R58). With TCK.SUBTICK = 0 there are no
sub-ticks, and a Fox context goes by the main tick number (DESIGN CHOICE: R41 and R58 do not say which number then counts). -/
def scanDue (s : State) (c : Word) : Bool :=
  if ctlFox c && isFastloop s && s.tick.subtick != 0 then dueAt c (subNumber s).toNat else dueAt c s.tick.tickn.toNat

/-- A scan entry put at the end of the list of the owner of context `i`, and of both engines of a pair (R74, R80). -/
def scanPut (s : State) (i : Nat) : State :=
  (pairOf s (ownerOf s i)).foldl (fun z n => engMap z n (fun e => { e with scan := e.scan ++ [i] })) s

/-- A scan entry of engine `n` that fails its parity is dropped and noted, so that the context is skipped at the reserve when
nothing dispatches it (R315). -/
def scanLose (s : State) (n i : Nat) : State :=
  let e := engGet s n
  if hasNat i e.scan then
    engMap (listDrop s n (e.scan.findIdx (· == i))) n (fun v => { v with scan := delNat i v.scan, scanLost := v.scanLost ++ [i] })
  else s

/-- The dispatch lists of some engines built anew (R79, R80, Table 4.5), without the contexts whose ROUTINE.CTL copy fails its parity;
then the entries that fail theirs are dropped (R315). -/
def listsBuild (s : State) (es : List Nat) (f : EdgeFails) : State :=
  let s1 := forNats es (fun z n => if (engGet z n).scan.isEmpty && !(engGet z n).fresh && (engGet z n).scanLost.isEmpty && (engGet z n).disp.isEmpty then z
    else engMap z n (fun e => { e with scan := [], scanLost := [], disp := [], fresh := false })) s
  let idx := ((ctxList s1).filter (fun q =>
    scanDue s1 q.2 && foxListed s1 q.1 q.2 && !hasNat (dispCopy s1 q.1) f.ctl && hasNat (ownerWith s1 q.1 q.2) es)).map (·.1)
  let s2 := forNats es listMaxNote (forNats idx scanPut s1)
  (f.scan.filter (fun q => hasNat q.1 es)).foldl (fun z q => scanLose z q.1 q.2) s2

/-- The ROUTINE.CTL copies as the dispatchers of the clusters that `on` names see them at the edge (R79), by context; the others,
and those of the Sett store, keep theirs. A context is seen through the copy of its owning engine's cluster (R434); the copies that
`skip` names have failed their parity. -/
def edgeCopies (s : State) (on : Nat → Bool) (skip : List Nat) : State :=
  let seen (i : Nat) : Bool := on (cluOf (ownerOf s i))
  let keep := s.store.ctlEdge.filter (fun q => decide (2 ^ 17 ≤ q.1) || !seen q.1)
  let new := ((s.store.ctl.filter (fun q => primeCopy s q.1)).map (fun q => (ctxOfCopy s q.1, q.2))).filter
    (fun q => seen q.1 && !hasNat (dispCopy s q.1) skip)
  { s with store := { s.store with ctlEdge := new.foldl (fun t q => tblSet 0 q.1 q.2 t) keep } }

/-- The failing ROUTINE.CTL copies rewritten by the Badger from their records (R315). -/
def ctlsRewrite (s : State) (l : List Nat) : State := if badgerDead s then s else forNats l ctlRewrite s

/-- TCYC of some engines counts from the edge in hand (Table 5.2). -/
def cycFresh (s : State) (es : List Nat) : State :=
  forNats (es.filter (fun n => (engGet s n).cycOff != 0 || (engGet s n).cycHeld != 0)) (fun z n =>
    engMap z n (fun e => { e with cycOff := 0, cycHeld := 0 })) s

/-- TCYC of some engines goes on across an edge that is withheld from them (R486): `old` is the state before the edge. -/
def cycKeep (old s : State) (es : List Nat) : State :=
  forNats es (fun z n => engMap z n (fun e => { e with cycHeld := e.cycHeld + rawCyc old n })) s

/-- An edge of its tick as engine `n` sees it: TICKWAIT ends, and sleep ends; one that still naps wakes late (R229, R461, R462). -/
def edgeSeen (s : State) (n : Nat) : State :=
  let e := engGet s n
  let late := decide (n < 64) && (e.pstate == .nap || e.pstate == .napEntry || e.pstate == .wakeNap)
  let s1 := if late then cntAdd s (0x8080C + n * 0x10) 1 else s
  let s2 := if e.hold = .tick then
      engMap s1 n (fun v => { v with hold := .tickMet, told := { v.told with tick := some (tickReport s n) } })
    else s1
  wakeEng s2 n

/-- The engines that the state lists among `0` to `64`. -/
def listed (s : State) : List Nat := (s.eng.map (·.1)).filter (· < 64)

/-! The main edge. -/

/-- The tick period in ns. -/
def periodNs (s : State) : Nat := s.tick.units * 250

/-- Whether a schedule point that has not been taken has been reached (R32). -/
def pointReached (s : State) : Bool :=
  s.tick.running && decide (periodNs s ≠ 0) && decide (s.tick.phase.toNat + s.tick.nextK * periodNs s ≤ (ktb s).toNat)

/-- The edge itself: TICKN takes the number of the latest schedule point reached, and points passed over are counted (R32 to
R34). The Boolean says that the queues empty. -/
def edgeRaise (s : State) : Bool × State :=
  let p := periodNs s
  let k := ((ktb s).toNat - s.tick.phase.toNat) / p
  let d := k + 1 - s.tick.nextK
  let t := { s.tick with
    tickn := s.tick.basen + BitVec.ofNat 64 k, nextK := k + 1, edgeAt := some (s.tick.phase + BitVec.ofNat 64 (k * p)),
    firstEdge := false, inReserve := false, subI := 0, subReserve := false, cycMain := 0, cycSub := 0, agePending := none }
  let s1 := cntAdd { s with tick := t } 0x10088 (d - 1)
  let s2 := match s.tick.agePending with | some a => regPut s1 0x4000 (a.setWidth 32) | none => s1
  (s.tick.firstEdge || decide (1 < d), pulse s2 296)

/-- Edge M of a release (R424): the block and the Sett enter RUN, and RELEASE completes. -/
def enterRun (s : State) : State :=
  let img := s.rel.img
  let s1 := setBState s .run
  let s2 := if s1.sett.st = 2 then settRunCheck (settMap s1 (fun t => { t with st := 3 })) else s1
  let s3 := { s2 with rel := { s2.rel with phase := 4, srcForce := img.src, genForce := img.gen, genOther := img.otherGen,
                                           bcrcForce := img.bcrc, tag := 0 } }
  hmbComplete s3 s.rel.tag 0

/-- Whether the release in hand may enter RUN at this edge (R422, R424). -/
def runReady (s : State) : Bool :=
  s.bstate == .verify && s.rel.phase == 3 && s.rel.readback && s.rel.identOk && !badgerDead s

/-- Whether this edge is the one at which the block enters HOLD (R417, R429). -/
def holdDue (s : State) : Bool :=
  (s.bstate == .run || s.bstate == .service) && (s.rel.atEdge || s.svc.acts.any (fun p => p.act == .hold))

/-- The moths that the image enables at this edge (R419). -/
def mothsEnable (s : State) (ms : List Nat) : State :=
  forNats (ms.filter (fun m => (mothGet s m).enNext)) (fun z m =>
    mothMap z m (fun mo => { (if mo.en then mo else mothEnableNow mo) with enNext := false })) s

/-- The remaps whose moth has its tick edge now carried out, after the steps of Table 13.4 (R372). -/
def remapAll (s : State) (main : Bool) : State :=
  let due (p : SvcPend) : Bool := match p.act with
    | .remap a _ _ => bankLive s (bankOf a) && (main || mothFox s a)
    | _ => false
  (s.svc.acts.filter due).foldl (fun z p => match p.act with
      | .remap a sp fresh => hmbComplete (mothRemap z a sp fresh) p.tag 0
      | _ => z) (svcActs s (s.svc.acts.filter (fun p => !due p)))

/-- The tiles of one instance of a class that is powered (Table 11.1); class 5 has the memories of S0 and of S1 and the store. -/
def tileCount (s : State) (cls inst : Nat) : Nat :=
  let engOn := decide (inst < 64) && domStat s inst == 1
  let settOn := domStat s 78 == 1
  match cls with
  | 0 => if engOn then 2048 else if inst = 66 then 1024 else 0
  | 1 => if engOn then 4096 else if inst = 66 then 2048 else 0
  | 2 => if inst < 8 ∧ domStat s (64 + inst) = 1 then 32768 else 0
  | 3 => if inst = 0 ∧ domStat s 85 = 1 then 32768 else 0
  | 4 => if engOn then 2 else 0
  | 5 => if settOn && decide (inst < 2) then 6144 else if settOn && inst == 2 then 2048 else 0
  | _ => 0

/-- The tiles of a list, those that exist, no longer agree with their check words (R316). -/
def tilesFail (s : State) (l : List (Nat × Nat × Nat)) : State :=
  (l.filter (fun q => decide (q.2.2 < tileCount s q.1 q.2.1))).foldl (fun z q => tileSpoil z q.1 q.2.1 q.2.2) s

/-! Output cells at an edge (R24, R60). A cell that an engine committed before the edge is at its gateway when the banks act, so the
edge first takes such cells through the router and the crossbar, if no command has done so. -/

/-- A released cell bound for a moth. -/
def mothBound (o : OCell) : Bool := !o.pend && cellDlv o.cell && cellMoth o.cell

/-- One cell taken by the router of cluster `k`, round robin (R76). -/
def routerStep (s : State) (k : Nat) : State :=
  match (routerOrder s k).find? (routerServes s) with
  | none => s
  | some n =>
    match queueTake s n with
    | (some o, s1) => rotAfter (chainFlush (routeCell s1 o)) k n
    | (none, s1) => rotAfter s1 k n

/-- The routers of clusters 0 to 7 take cells in turn, one each at a time and at most `m` times, as long as an engine of the cluster
among `es` holds a cell that `want` names. -/
def routerDrain (es : List Nat) (want : OCell → Bool) : Nat → State → State
  | 0, s => s
  | m + 1, s =>
    let busy := (List.range 8).filter (fun k => es.any (fun n => cluOf n == k && routerServes s n && (engGet s n).outq.any want))
    if busy.isEmpty then s else routerDrain es want m (forNats busy routerStep s)

/-- The cells of the Sett taken by its router, in order and at most `k` of them, up to the last one that is bound for a moth. -/
def settDrain : Nat → State → State
  | 0, s => s
  | k + 1, s =>
    if (engGet s 64).outq.any mothBound then
      match queueTake s 64 with
      | (some o, s1) => settDrain k (settRoute s1 o)
      | (none, s1) => s1
    else s

/-- The cells on their way to the gateways of the banks of a list delivered. -/
def gwDeliver (s : State) (banks : List Nat) : State :=
  let mine (f : Flight) : Bool := banks.any (fun b => f.dest == 110 + b && domStat s (bankDom b) == 1)
  (s.cells.flight.filter mine).foldl (fun z f => gwArrive z (f.dest - 110) f.cell.cell)
    (flyRest s (s.cells.flight.filter (fun f => !mine f)))

/-- The committed output cells of some scan engines brought to the gateways of some banks. -/
def pinsDeliver (s : State) (es banks : List Nat) : State := gwDeliver (routerDrain es mothBound 2048 s) banks

/-- Every cell released before edge M of a release routed while the router still discards (R421, R424). -/
def outDrain (s : State) : State := routerDrain ((listed s).filter (· < 64)) (fun o => !o.pend) 2048 s

/-- The rotations that start anew at each main edge of PROVING (R76, R119, R341). -/
def rotsReset (s : State) : State :=
  if isProving s then hubRotReset { s with cells := { s.cells with rot := [] }, store := { s.store with portRot := [] } } else s

/-- The banks at a main edge (R36): committed outputs arrive, and every bank samples, stamps and drives. -/
def banksAct (s : State) : State :=
  forNats (List.range 6) (fun z b => bankEdge z b true) (pinsDeliver s ((listed s).filter (· < 64)) (List.range 6))

/-- The copies of the late queue and the early cells of the chain ports taken at a main edge (R56, R124), without the entries that
fail their parity (R315). -/
def edgeTakes (s : State) (f : EdgeFails) : State :=
  earlyPass (earlyPass (portParity (portParity (lateAccept s f.late) 0 f.buf0) 1 f.buf1) 0) 1

/-- Step 6 of Table 2.3 (R36, R56, R76, R124, R341). -/
def edgeActions (s : State) (f : EdgeFails) : State :=
  let s2 := pubEdgeStart (rotsReset s) (s.tick.edgeAt.getD 0)
  edgeTakes (remapAll (mothsEnable (banksAct s2) (List.range 96)) true) f

/-- The tick number as the engines of the clusters that are not tick-frozen see it, with what counts from the edge. -/
def engTicks (s : State) : State :=
  forNats ((listed s).filter (fun n => !frzTick s (cluOf n))) (fun z n =>
    engMap z n (fun e => { e with tickn := z.tick.tickn, tickHeld := false, seqNone := 0 })) s

/-- The edge in the trace of each cluster (Table 18.6), and the edges that frozen clusters miss. -/
def edgeTraces (s : State) : State :=
  forNats (List.range 8) (fun z k => if !frzTick s k then trcTick z k 0 z.tick.tickn else cntAdd z 0xD024 1) s

/-- Step 7 of Table 2.3: what the edge brings to the clusters that are not tick-frozen (R63, R79, Table 18.6). A ROUTINE.CTL copy
that fails parity is rewritten, and its context gets no entry in this tick (R315). -/
def edgeClusters (s : State) (f : EdgeFails) : State :=
  let on (k : Nat) : Bool := !frzTick s k
  let es := (List.range 64).filter (fun n => on (cluOf n))
  let s2 := edgeCopies (ctlsRewrite s f.ctl) on f.ctl
  let seq := s2.cells.seq.filter (fun q => decide (2 ^ 17 ≤ q.1) || !on (homeOf q.1))
  let s5 := listsBuild (engTicks { s2 with cells := { s2.cells with seq := seq } }) es f
  edgeTraces (forNats (66 :: (listed s5).filter (fun n => on (cluOf n))) edgeSeen s5)

/-- The edge raised: the words of each moth count anew (R63), the queues empty where R33 or R34 asks it, immediate moth words take the
places left (R366), and TCYC counts from the edge. -/
def edgeBegin (s : State) : State :=
  let r := edgeRaise s
  let s0 := seqFresh r.2 (List.range 6)
  let s1 := if r.1 then forNats (List.range 6) gwServeAll (emptyQueues s0) else s0
  let es := (listed s1).filter (· < 64)
  cycKeep s (cycFresh s1 (66 :: es.filter (fun n => !frzTick s1 (cluOf n)))) (es.filter (fun n => frzTick s1 (cluOf n)))

/-- Sub-tick edge 0 of FASTLOOP is the main edge (R58), and event-hub source 301 is pulsed there too. -/
def subPulse (s : State) : State := if isFastloop s && s.tick.subtick != 0 then pulse s 301 else s

/-- A main edge that leaves the block ticking (Table 2.3 steps 3 to 7, R424). -/
def edgeSteps (s : State) (f : EdgeFails) : State :=
  let s1 := edgeBegin s
  let s2 := if runReady s1 then enterRun (outDrain s1) else s1
  let s3 := changeApply s2
  let s4 := if s3.bstate = .verify then s3 else predEdge s3 false
  let s5 := edgeActions (ownersChange (swapAll s4)) f
  svcSettle (edgeClusters (subPulse s5) f)

/-- A main edge at which the block enters HOLD (R36, R417, R431): the edge is raised and its actions take place, the buffer in hand
becomes that of the new tick, and everything stops. No buffer is written for a tick in which the generator does not run (R127). It is
no edge in RUN or SERVICE of R271: a scan engine that was started in the tick before it keeps the tagged form (DESIGN CHOICE: R271 does
not say which state the edge that enters HOLD is in). -/
def edgeHold (s : State) (f : EdgeFails) : State :=
  let s1 := subPulse (edgeTraces (engTicks (edgeTakes (banksAct (rotsReset (edgeBegin s))) f)))
  let s2 := holdEnter s1
  { s2 with pub := { s2.pub with n := s2.tick.tickn, edgeTime := s2.tick.edgeAt.getD 0, written := 0, stale := 0, writing := false } }

/-- A main edge. -/
def mainEdge (s : State) (f : EdgeFails) : State :=
  let s0 := if s.tick.edgeAt.isSome && !s.tick.inReserve then reserveStart s else s
  let s1 := if isFastloop s0 && s0.tick.subtick != 0 && s0.tick.edgeAt.isSome && !s0.tick.subReserve then subReserveStart s0 else s0
  let s2 := pubEdgeEnd s1
  if settLost s2 && s2.bstate == .verify && !badgerDead s2 then relFail s2 4 0 0xE
  else if holdDue s2 then
    let s3 := edgeHold s2 f
    if s2.rel.atEdge then relBegin s3 else s3
  else edgeSteps s2 f

/-- MAIN_TICK_EDGE, R36; `fails` names what fails its parity at this edge (R315) and the tiles that no longer pass (R316). -/
def execMainTickEdge (fails : EdgeFails) (s : State) : Host.Outcome State Fault Refusal :=
  if pointReached s then .next (mainEdge (tilesFail s fails.tiles) fails) else .next s

/-- PUBLISH_RESERVE_START, R46. -/
def execPublishReserveStart (s : State) : Host.Outcome State Fault Refusal :=
  match s.tick.edgeAt with
  | some t =>
    if s.tick.running && !s.tick.inReserve && decide (t.toNat + windowNs s.tick.units s.tick.reserve ≤ (ktb s).toNat) then
      .next (reserveStart s)
    else .next s
  | none => .next s

/-! The Fox sub-tick. -/

/-- The latest sub-tick index that KTB has reached in the present tick. -/
def subReached (s : State) (t : W64) : Nat :=
  min (((ktb s).toNat - t.toNat) / (s.tick.subtick * 250)) (foxRatio s - 1)

/-- A sub-tick edge after the first one of its tick (R58, R60). An engine started in the tick gets its first list at the next main
edge (R419). -/
def subEdge (s : State) (i : Nat) (f : EdgeFails) : State :=
  let s0 := if s.tick.subReserve then s else subReserveStart s
  let s1 := pulse { s0 with tick := { s0.tick with subI := i, subReserve := false, cycSub := 0 } } 301
  let frz := frzTick s1 7
  let es := (foxEngines s1).filter (fun n => hasNat n (listed s1))
  let sc := if frz then cycKeep s0 s1 es else forNats es (fun z n => engMap z n (fun e => { e with tickn := z.tick.tickn, tickHeld := false }))
    (cycFresh s1 es)
  let sd := pinsDeliver sc (foxEngines s1) (List.range 6)
  let s2 := remapAll (forNats (List.range 6) (fun z b => bankEdge z b false) sd) false
  if frz then cntAdd s2 0xD024 1
  else
    let g := { f with ctl := f.ctl.filter (fun c => homeOf c == 7) }
    let s3 := edgeCopies (ctlsRewrite s2 g.ctl) (fun k => k == 7) g.ctl
    let s4 := listsBuild s3 ((foxEngines s3).filter (fun n => !(engGet s3 n).fresh)) g
    let s5 := forNats ((foxEngines s4).filter (fun n => hasNat n (listed s4))) edgeSeen s4
    trcTick s5 7 1 (subNumber s5)

/-- FOX_SUBTICK_EDGE, R58. When KTB has passed several sub-tick edges, one edge is raised, the latest, and no register counts those
passed over (DESIGN CHOICE: R34 gives the rule for main edges only). `fails` names the ROUTINE.CTL copies and ready-list entries of
the Fox group that fail their parity at this edge (R315). -/
def execFoxSubtickEdge (s : State) (fails : EdgeFails := {}) : Host.Outcome State Fault Refusal :=
  match s.tick.edgeAt with
  | some t =>
    if s.tick.running && isFastloop s && s.tick.subtick != 0 && decide (s.tick.subI < subReached s t) then
      .next (subEdge (tilesFail s fails.tiles) (subReached s t) fails)
    else .next s
  | none => .next s

/-- FOX_SUBTICK_RESERVE, R59. -/
def execFoxSubtickReserve (s : State) : Host.Outcome State Fault Refusal :=
  match s.tick.edgeAt with
  | some t =>
    let q := s.tick.subtick
    if s.tick.running && isFastloop s && q != 0 && !s.tick.subReserve &&
        decide (t.toNat + s.tick.subI * (q * 250) + windowNs q s.tick.reserve ≤ (ktb s).toNat) then
      .next (subReserveStart s)
    else .next s
  | none => .next s

/-! The Sett tick. -/

/-- Whether the Sett tick runs. -/
def settTicks (s : State) : Bool := (s.sett.st == 2 || s.sett.st == 3) && s.sett.units != 0

/-- The Sett schedule point `k`. -/
def settPoint (s : State) (k : Nat) : Nat := s.sett.phase.toNat + k * (s.sett.units * 250)

/-- The first Sett schedule point not yet taken. -/
def settNext (s : State) : Nat := match s.sett.taken with | none => 0 | some k => k + 1

/-- A skip of Sett context `i` (R48, R379). A failing tile is met in Sett memory, and the Sett fails (R325, R383). -/
def settSkip (s : State) (i : Nat) : State :=
  if tileBad s 5 2 (2 * i) then settDown (cntAdd (tileDetect s 5 2 (2 * i) 3) 0xA030 1) 3
  else
    let r := tblGet 0 i s.store.sett
    let r1 := recPutBits (recPutBits r 0x0C 4 0xC) 0x1E 8 (min (field (recState r) 23 16 + 1) 255)
    { s with store := { s.store with sett := tblSet 0 i r1 s.store.sett } }

/-- The start of the Sett reserve: an overrun counts in SETT.OVR, and the entries left are skipped. -/
def settReserveStart (s : State) : State :=
  let e := engGet s 64
  let s1 := settMap s (fun t => { t with inReserve := true })
  let ovr := e.run == .running && !e.dbg.halted && (e.ctxOpen.isSome || !e.scan.isEmpty)
  let s2 := if ovr then cntAdd s1 0x181014 1 else s1
  let s3 := forNats [64, 65] (fun z n => engMap z n (fun v => { v with scan := [], scanLost := [] })) s2
  let l := e.scan ++ e.scanLost
  cntAdd (forNats l settSkip s3) 0x181024 l.length

/-- The Sett contexts that are scan-due at STN (R41, R379). -/
def settDue (s : State) : List Nat :=
  (s.store.sett.filter (fun q => ctlInuse (recCtl q.2) && dueAt (recCtl q.2) s.sett.stn.toNat)).map (·.1)

/-- The tiles of the records from which the Sett dispatcher builds its lists, read and checked; a failing one fails the Sett (R317,
R383). -/
def settSeen (s : State) : State :=
  (s.store.sett.map (·.1)).foldl settRecSeen s

/-- An entry of the ready list of the Sett that fails its parity is dropped (R315). -/
def settLose (s : State) (i : Nat) : State :=
  let l := (engGet s 64).scan
  if hasNat i l then
    forNats [64, 65] (fun z n => engMap z n (fun v => { v with scan := delNat i v.scan, scanLost := v.scanLost ++ [i] }))
      (listDrop s 64 (l.findIdx (· == i)))
  else s

/-- What the Sett sees at its edge: new seal parameters (R391), the words of R79, its queues swept, its lists without the entries
`lost` that fail their parity, and its waits. -/
def settLists (s : State) (lost : List Nat) : State :=
  let keep := s.store.ctlEdge.filter (fun q => decide (q.1 < 2 ^ 17))
  let edge := s.store.sett.foldl (fun t q => tblSet 0 (2 ^ 17 + q.1) (recCtl q.2) t) keep
  let s1 := { s with store := { s.store with ctlEdge := edge },
                     cells := { s.cells with seq := s.cells.seq.filter (fun q => decide (q.1 < 2 ^ 17)) } }
  let gq := (gwGet s1 6).filter (fun o => !queueOld s1 64 o.cell)
  let s2 := gwServeAll (agedAdd (gwSet (engSweep (engSweep s1 64) 65) 6 gq) 116 ((gwGet s1 6).length - gq.length)) 6
  let due := settDue s2
  let s3 := forNats [64, 65] (fun z n => engMap z n (fun e => { e with scan := due, scanLost := [], disp := [], fresh := false, seqNone := 0 })) s2
  edgeSeen (edgeSeen (lost.foldl settLose s3) 64) 65

/-- A Sett edge (R378, R381). A Sett that fails as its dispatcher reads its records goes no further. -/
def settEdge (s : State) (k : Nat) (lost : List Nat) : State :=
  let s0 := if s.sett.taken.isSome && !s.sett.inReserve then settReserveStart s else s
  if !settTicks s0 then s0
  else
    let d := k + 1 - settNext s0
    let s1 := cntAdd (settMap s0 (fun t => { t with taken := some k, stn := BitVec.ofNat 64 k, inReserve := false, parSeen := t.par }))
      0x181018 (d - 1)
    let s2 := cycFresh { s1 with tick := { s1.tick with cycSett := 0 } } [64, 65]
    let s3 := mothsEnable (bankEdge (gwDeliver (settDrain 256 (seqFresh s2 [6])) [6]) 6 true) ((List.range 8).map (96 + ·))
    let s4 := settSeen s3
    if settTicks s4 then settLists s4 lost else s4

/-- SETT_TICK_EDGE, R378; `tiles` names the tiles of the Sett, by instance and number, whose contents have failed since its last
edge (R316), and `lost` the contexts whose new ready-list entries fail their parity (R315). -/
def execSettTickEdge (s : State) (tiles : List (Nat × Nat) := []) (lost : List Nat := []) : Host.Outcome State Fault Refusal :=
  if settTicks s && decide (settPoint s (settNext s) ≤ (ktb s).toNat) then
    .next (settEdge (tilesFail s (tiles.map (fun q => (5, q.1, q.2)))) (((ktb s).toNat - s.sett.phase.toNat) / (s.sett.units * 250)) lost)
  else .next s

/-- SETT_PUBLISH_RESERVE, R379. -/
def execSettPublishReserve (s : State) : Host.Outcome State Fault Refusal :=
  match s.sett.taken with
  | some k =>
    if settTicks s && !s.sett.inReserve && decide (settPoint s k + windowNs s.sett.units 5 ≤ (ktb s).toNat) then
      .next (settReserveStart s)
    else .next s
  | none => .next s

end Sys2Proof.Machine
end

