-- ==== Sys2Proof/Machine/Service.lean ====
section
/-! DEFINITION. The commands of service in operation as the Badger takes them up (R307 to R311, R326, R372, R388, R437 to R450,
Table 19.5), and what it does on its own: restores, mirror fills, scrubbing, repair and rebuild (R322 to R327, R439, R447,
R450). -/

namespace Sys2Proof.Machine

/-- A word of a payload. -/
def plWord (pl : List Word) (i : Nat) : Word := (pl[i]?).getD 0

/-- Two words of a payload, low word first. -/
def plWide (pl : List Word) (i : Nat) : W64 := plWord pl (i + 1) ++ plWord pl i

/-- A tick number that has passed counts as that of the next boundary. -/
def futureTick (s : State) (m : W64) : W64 := if tickDue s m then s.tick.tickn + 1 else m

/-- A pending period or profile change, which is a service action (R430, R437). -/
def changePend (s : State) (c : PendChange) : State :=
  let s1 := { s with tick := { s.tick with pend := some c } }
  svcEnter s1

/-- A refusal for want of admission (R44). -/
def boundRefuse (s : State) (tag : Nat) : State := hmbComplete (cntAdd s 0x10090 1) tag 7

/-! SET_TICK and SET_PROFILE. -/

/-- SET_TICK (R35, R43, R57, Table 19.5). In FASTLOOP a sub-tick that breaks R57 completes with BOUND, as that rule says, or with
LIMIT, as Table 19.5 does: which of the two is open (log 58). What else breaks Table 1.4 or Table 19.5 completes with LIMIT. No admission
has failed then, and TCK.ADMREF does not count (R44). -/
def setTickTake (s : State) (tag : Nat) (pl : List Word) : State :=
  let units := field (plWord pl 0) 21 0
  let sub := field (plWord pl 1) 21 0
  if s.tick.pend.isSome then hmbComplete s tag 2
  else if !periodRange s.svc.profile units || (sub != 0 && s.svc.profile != 3) then hmbComplete s tag 8
  else if !subtickFits units sub then hmbComplete s tag (if Config.subtickLimit then 8 else 7)
  else if (units < s.tick.units ∨ sub ≠ s.tick.subtick) ∧ admitted s s.rel.img s.svc.profile units sub (svcActive s) = false then
    boundRefuse s tag
  else changePend s { tag := tag, m := plWide pl 2, units := units, subtick := sub, profile := none, fillOk := true, voltOk := true }

/-- SET_PROFILE (R437 to R439, Table 16.4). A change into MIRRORED begins its fill, and one out of FRUGAL asks for the supply
(R464). -/
def setProfileTake (s : State) (tag : Nat) (pl : List Word) : State :=
  let p := field (plWord pl 0) 2 0
  let was := s.svc.profile
  let fixed (q : Nat) : Bool := q == 1 || q == 3
  if s.tick.pend.isSome then hmbComplete s tag 2
  else if fixed p || fixed was then hmbComplete s tag 0xA
  else if s.tick.units < minTick p then hmbComplete s tag 8
  else if !profileFits s p then hmbComplete s tag 8
  else if p = 2 ∧ was ≠ 2 ∧ (List.range 8).any (fun k => cluMir s k == 3) = true then hmbComplete s tag 8
  else if (p == 4) != (was == 4) && !admitted s s.rel.img p s.tick.units s.tick.subtick (svcActive s) then boundRefuse s tag
  else
    let fill := p == 2 && was != 2
    let s1 := { s with svc := { s.svc with fill := fill, vlowreq := if was = 4 ∧ p ≠ 4 then false else s.svc.vlowreq } }
    changePend s1 { tag := tag, m := plWide pl 1, units := s.tick.units, subtick := s.tick.subtick, profile := some p,
                    fillOk := !fill, voltOk := was != 4 || p == 4 || !s.svc.lowv }

/-- MIRROR_FILL_DONE, R439: every record of C0, C2, C4 and C6 has been copied into the partner slice. -/
def execMirrorFillDone (s : State) : Host.Outcome State Fault Refusal :=
  match s.tick.pend with
  | some c =>
    if c.profile = some 2 ∧ c.fillOk = false ∧ badgerDead s = false then
      let s1 := forNats [0, 2, 4, 6] sliceCopy s
      .next { s1 with tick := { s1.tick with pend := some { c with fillOk := true } } }
    else .next s
  | none => .next s

/-! Retirement, restore and migration. -/

/-- Whether a retirement of engine `n` is pending. -/
def retPending (s : State) (n : Nat) : Bool :=
  s.svc.acts.any (fun p => match p.act with
    | .retire m _ _ => (pairOf s m).contains n
    | .retireTail m _ _ => (pairOf s m).contains n
    | .retireCluster k _ _ => cluOf n == k
    | _ => false)

/-- Whether a retirement of cluster `k` is pending. -/
def cluRetPending (s : State) (k : Nat) : Bool :=
  s.svc.acts.any (fun p => match p.act with | .retireCluster j _ _ => j == k | .clusterEnd j => j == k | _ => false)

/-- RETIRE_ENGINE (R443, R447, Table 19.5). -/
def retireTake (s : State) (tag : Nat) (pl : List Word) : State :=
  let w := plWord pl 0
  let n := field w 6 0
  if bitAt w 8 then
    if !(List.range 8).any (fun j => svcActive s (8 * n + j)) || cluRetPending s n then hmbComplete s tag 2
    else forNats ((List.range 8).map (8 * n + ·)) wakeEng (svcAdd s tag (.retireCluster n (bitAt w 9) false))
  else if 64 ≤ n ∨ (isPaired s = true ∧ n % 2 = 1) then hmbComplete s tag 9
  else if !svcActive s n || retPending s n then hmbComplete s tag 2
  else forNats (pairOf s n) wakeEng (svcAdd s tag (.retire n (bitAt w 9) false))

/-- Step 1 of Table 16.6: the engine domain, and a cluster that is off, powered up anew. -/
def restorePower (s : State) (n : Nat) : State :=
  let s1 := if domStat s (64 + cluOf n) = 1 then s else domOn s (64 + cluOf n)
  svcEngMap (domOn s1 n) n (fun v => { v with st := 5 })

/-- The restore that is in progress in a cluster: the first one that has not completed step 4. -/
def restoreInHand (s : State) (k : Nat) : Option SvcPend :=
  s.svc.acts.find? (fun p => match p.act with | .restore e _ _ ready => cluOf e == k && !ready | _ => false)

/-- The next restore of cluster `k` begins, where none is in progress: with `m` the number of those that wait at most. One whose engine
is no longer RETIRED or OFF completes with STATE (DESIGN CHOICE: R450 does not say what becomes of a second restore of the same
engine). -/
def restoreNext (k : Nat) : Nat → State → State
  | 0, s => s
  | m + 1, s =>
    match restoreInHand s k with
    | none => s
    | some p => (match p.act with
        | .restore e _ _ false =>
          let st := (svcEng s e).st
          if st = 3 ∨ st = 4 then forNats (pairOf s e) restorePower s
          else if st = 5 then s
          else restoreNext k m (hmbComplete (svcActs s (s.svc.acts.erase p)) p.tag 2)
        | _ => s)

/-- RESTORE_ENGINE (R450): one restore at a time in each cluster, so that one that finds another in progress waits with its engine as it
is. -/
def restoreTake (s : State) (tag : Nat) (pl : List Word) : State :=
  let w := plWord pl 0
  let e := field w 6 0
  let st := (svcEng s e).st
  if isPaired s && e % 2 == 1 then hmbComplete s tag 9
  else if st ≠ 3 ∧ st ≠ 4 then hmbComplete s tag 2
  else
    let s1 := if (restoreInHand s (cluOf e)).isSome then s else forNats (pairOf s e) restorePower s
    svcAdd s1 tag (.restore e (bitAt w 8) (futureTick s (plWide pl 1)) false)

/-- MIGRATE (R449): the target and the owners of the contexts wake (R461). -/
def migrateTake (s : State) (tag : Nat) (pl : List Word) : State :=
  let t := field (plWord pl 0) 6 0
  let first := field (plWord pl 1) 16 0
  let count := field (plWord pl 2) 14 0
  let home := homeOf first
  if count = 0 then hmbComplete s tag 0
  else if 2 ^ 14 < first % 2 ^ 14 + count then hmbComplete s tag 9
  else if 64 ≤ t ∨ (cluOf t ≠ home ∧ (isMirrored s = false ∨ cluOf t ≠ home ^^^ 1)) then hmbComplete s tag 9
  else if isPaired s && t % 2 == 1 then hmbComplete s tag 9
  else if !svcActive s t then hmbComplete s tag 2
  else
    let own := ((ctxList s).filter (fun q => decide (first ≤ q.1 ∧ q.1 < first + count))).map (fun q => ownerWith s q.1 q.2)
    forNats (t :: own.foldl (fun l n => addNat n l) []) (fun z n => forNats (pairOf z n) wakeEng z)
      (svcAdd s tag (.migrate t first count (futureTick s (plWide pl 3))))

/-- The image tiles of the memories of engine `n`: local address and body tile. In PAIRED both engines of a pair have those of engine 2k
(R433). -/
def engImage (img : Image) (n : Nat) : List (Nat × Nat) :=
  (img.sects.filter (fun x => x.type == 1 && x.target == (if img.profile = 1 then n / 2 * 2 else n))).flatMap (fun x =>
    (List.range x.ntiles).map (fun i => (x.dest + 64 * i, x.first + i)))

/-- The instance whose image tiles a tile of an instance has: in MIRRORED an odd slice holds copies of the records of its
partner. -/
def srcInst (s : State) (cls inst : Nat) : Nat := if cls = 2 ∧ isMirrored s = true then inst / 2 * 2 else inst

/-- The reference of a tile (R323). -/
def refOf (s : State) (cls inst tile : Nat) : Option Word := tblGet none (tileKey cls (srcInst s cls inst) tile) s.mem.refs

/-- The place of a tile in the release reference table (R323). -/
def refAt (cls inst tile : Nat) : Nat :=
  match cls with | 0 => 2048 * inst + tile | 1 => 131072 + 4096 * inst + tile | _ => 393216 + 32768 * inst + tile

/-- A reference that fails its parity becomes absent (R315). -/
def refFail (s : State) (cls inst tile : Nat) (fails : Bool) : State :=
  let k := srcInst s cls inst
  if fails && (refOf s cls inst tile).isSome then
    let s1 := parityRecord s 3 (refAt cls k tile) (refAt cls k tile)
    { s1 with mem := { s1.mem with refs := tblSet none (tileKey cls k tile) none s1.mem.refs } }
  else s

/-- The staging tile of body tile `t`, when the staging buffer is the captured source. -/
def bodyTile (s : State) (t : Nat) : Option Nat :=
  if s.rel.img.src = 2 then some (bodyOff s.rel.img.tiles s.rel.img.sects.length / 64 + t) else none

/-- Body tile `t` as the Badger reads it from the captured source, none when its staging tile fails its check (R324, R328); `given`
is what the command brings. -/
def sourceBytes (s : State) (t : Nat) (given : List Byte) : Option (List Byte) :=
  match bodyTile s t with
  | some k => if tileBad s 3 0 k then none else some (memBytes s.mem.staging (64 * k) 64)
  | none => some given

/-- The detection that this read of body tile `t` meets (R317, R320). -/
def bodySeen (s : State) (t : Nat) : State := match bodyTile s t with | some k => stageSeen s [k] | none => s

/-- Step 4 of Table 16.6 for engine `n`: the Boolean says that every tile agrees with its reference. -/
def restoreCopy (tiles : Tbl (List Byte)) (n : Nat) : List (Nat × Nat) → State → Bool × State
  | [], s => (true, s)
  | (a, t) :: rest, s =>
    let k := engTile n (decide (0x10000000 ≤ a)) (a % 0x10000000 / 64)
    let s1 := bodySeen s t
    match sourceBytes s t (tblGet [] t tiles), refOf s k.1 k.2.1 k.2.2 with
    | some bs, some want =>
      if bs.length = 64 ∧ crc32c bs = want then restoreCopy tiles n rest (engTilePut s1 n a bs) else (false, s1)
    | _, _ => (false, s1)

/-- Steps 3 and 4 of Table 16.6 for some engines. -/
def restoreLoad (tiles : Tbl (List Byte)) : List Nat → State → Bool × State
  | [], s => (true, s)
  | n :: t, s =>
    let r := restoreCopy tiles n (engImage s.rel.img n) (bankFill s n (s.mem.vet ++ imgBlocks s.rel.img))
    if r.1 then restoreLoad tiles t r.2 else r

/-- A cluster that had failed refills its slice from the partner and counts as mirrored again, or as not mirrored outside
MIRRORED (R447, R451). -/
def cluRefill (s : State) (k : Nat) : State :=
  if cluMir s k ≠ 3 then s
  else
    let put (z : State) (j v : Nat) : State := { z with svc := { z.svc with mir := tblSet 0 j v z.svc.mir } }
    if isMirrored s && cluMir s (k ^^^ 1) != 3 then put (put (sliceCopy s (k ^^^ 1)) k 1) (k ^^^ 1) 1
    else put s k 0

/-- A restore that failed: the engines go OFF, and a failed cluster with them when no other engine of it is on (R451, R456). -/
def restoreFail (s : State) (tag e status : Nat) : State :=
  hmbComplete (cluOffCheck (forNats (pairOf s e) engOff s) (cluOf e)) tag status

/-- The end of step 4 of a restore (R450, R451). -/
def restoreEnd (s : State) (p : SvcPend) (e : Nat) (back : Bool) (m : W64) (bistOk : Bool) (tiles : Tbl (List Byte)) : State :=
  let s0 := svcActs s (s.svc.acts.erase p)
  if !bistOk then restoreFail (cntAdd s0 0xC01C 1) p.tag e 0x19
  else match restoreLoad tiles (pairOf s e) s0 with
    | (false, s1) => restoreFail s1 p.tag e 0xB
    | (true, s1) =>
      let s2 := cluRefill (forNats (pairOf s e) (fun z n => svcEngMap z n (fun v => { v with st := 2 })) s1) (cluOf e)
      if back then svcActs s2 (s2.svc.acts ++ [{ p with act := .restore e true m true }])
      else hmbComplete (cntAdd s2 0xC008 1) p.tag 0

/-- RESTORE_DONE, R451: BIST and, when it passes, the reload end; the next restore of the cluster begins (R450). -/
def execRestoreDone (e : Nat) (bistOk : Bool) (tiles : Tbl (List Byte)) (s : State) : Host.Outcome State Fault Refusal :=
  if e < 64 ∧ badgerDead s = false then
    match restoreInHand s (cluOf e) with
    | some p => (match p.act with
        | .restore n back m false =>
          if n = e then .next (restoreNext (cluOf e) 64 (restoreEnd s p e back m bistOk tiles)) else .next s
        | _ => .next s)
    | none => .next s
  else .next s

/-- CLUSTER_FAIL_DETECT, R447: the store port of cluster `k` has failed to complete an access. Its engines wake
(R461). -/
def execClusterFailDetect (k : Nat) (s : State) : Host.Outcome State Fault Refusal :=
  if k < 8 ∧ (s.bstate = .verify ∨ s.bstate = .run ∨ s.bstate = .service) ∧ badgerDead s = false ∧ cluMir s k ≠ 3 ∧ cluRetPending s k = false ∧
      domStat s (64 + k) = 1 then
    .next (forNats ((List.range 8).map (8 * k + ·)) wakeEng
      (svcAdd (fltWrite s 12 (BitVec.ofNat 32 k) 0 0) 0 (.retireCluster k false true)))
  else .next s

/-! Micro-RAM service. -/

/-- In PAIRED a mask names both engines of a pair or neither (R311). -/
def maskPairs (s : State) (mask : W64) : Bool :=
  !isPaired s || (List.range 32).all (fun k => bitAt mask (2 * k) == bitAt mask (2 * k + 1))

/-- The engines of a mask. -/
def maskList (mask : W64) : List Nat := (List.range 64).filter (fun n => bitAt mask n)

/-- The blocks named by LOAD_UBANK: offset and length. -/
def ubankBlocks (pl : List Word) : List (Nat × Nat) :=
  (List.range (field (plWord pl 2) 3 0)).map (fun i => ((plWord pl (3 + 2 * i)).toNat, (plWord pl (4 + 2 * i)).toNat))

/-- The staging tiles of a block that fail their check. -/
def blockTilesBad (s : State) (b : Nat × Nat) : List Nat :=
  (List.range ((b.2 + 63) / 64)).filter (fun i => tileBad s 3 0 (b.1 / 64 + i))

/-- LOAD_UBANK (R307 to R309, R311): every check is made before anything is written, and the inactive banks are then
LOADING. -/
def loadUbankTake (s : State) (tag : Nat) (pl : List Word) : State :=
  let mask := plWide pl 0
  let es := maskList mask
  let named := ubankBlocks pl
  if named.isEmpty || es.isEmpty then hmbComplete s tag 0
  else if !maskPairs s mask then hmbComplete s tag 9
  else if es.any (fun n => domStat s n != 1 || (engGet s n).swapPend || (engGet s n).inact == 1) then hmbComplete s tag 2
  else match named.find? (fun b => !(blockTilesBad s b).isEmpty) with
    | some b =>
      let t := b.1 / 64 + (blockTilesBad s b).headD 0
      hmbComplete (tileDetect s 3 0 t 4) tag 0xB
    | none =>
      let blocks := named.map (fun b => memBytes s.mem.staging b.1 b.2)
      match blocksCheck s.io.keys 3 es (fun n => bankOfEng (engGet s n) (engGet s n).ubank) [] blocks with
      | some q => hmbComplete (blockRefuse s q.1 q.2) tag q.2
      | none =>
        if es.any (fun n => blocks.any (fun b => !pbFor b n)) then hmbComplete s tag 9
        else if es.any (fun n => blocks.any (fun b => pbKind b == 1 && costRaised s n b)) then hmbComplete s tag 7
        else
          let s1 := forNats es (fun z n => engMap (loadBank z blocks n) n (fun e => { e with inact := 1 })) s
          if 4 < (goldSet s1 []).length then hmbComplete s tag 0x15
          else svcAdd s1 tag (.loadUbank mask named)

/-- LOAD_UBANK_DONE, R312: every named engine is LOADED. -/
def execLoadUbankDone (s : State) : Host.Outcome State Fault Refusal :=
  match s.svc.acts.find? (fun p => match p.act with | .loadUbank _ _ => true | _ => false) with
  | some p => (match p.act with
      | .loadUbank mask _ =>
        if badgerDead s then .next s
        else
          let s1 := forNats (maskList mask) (fun z n => engMap z n (fun e => { e with inact := if e.inact = 1 then 2 else e.inact })) s
          .next (hmbComplete (svcActs s1 (s1.svc.acts.erase p)) p.tag 0)
      | _ => .next s)
  | none => .next s

/-- SWAP_UBANK (R310, R311). -/
def swapUbankTake (s : State) (tag : Nat) (pl : List Word) : State :=
  let mask := plWide pl 0
  let es := maskList mask
  if es.isEmpty then hmbComplete s tag 0
  else if !maskPairs s mask then hmbComplete s tag 9
  else if es.any (fun n => (engGet s n).inact != 2) then hmbComplete s tag 2
  else
    let s1 := forNats es (fun z n => wakeEng (engMap z n (fun e => { e with swapPend := true })) n) s
    svcAdd s1 tag (.swapUbank mask (futureTick s (plWide pl 2)))

/-! Tiles. -/

/-- The body tile of the released image that holds a tile of a memory class. -/
def imageTile (img : Image) (cls inst tile : Nat) : Option Nat :=
  if cls = 2 then
    (img.sects.find? (fun x => x.type == 5 && x.target == inst &&
      decide (x.dest ≤ tile / 2 ∧ tile / 2 < x.dest + x.ntiles / 2))).map (fun x => x.first + (tile - 2 * x.dest))
  else
    let a := 64 * tile + (if cls = 1 then 0x10000000 else 0)
    ((engImage img inst).find? (fun q => q.1 == a)).map (·.2)

/-- A whole-tile write of a tile of class 0, 1 or 2; a context tile is written in every copy of its record (R120). -/
def tilePut (s : State) (cls inst tile : Nat) (bs : List Byte) : State :=
  if cls = 2 then ctxTilePut s (2 ^ 14 * inst + tile / 2) (tile % 2) bs
  else engTilePut s inst (64 * tile + (if cls = 1 then 0x10000000 else 0)) bs

/-- The image bytes of a tile that match its reference (R324). -/
def repairBytes (s : State) (cls inst tile : Nat) (given : List Byte) : Option (List Byte) :=
  match refOf s cls inst tile, imageTile s.rel.img cls (srcInst s cls inst) tile with
  | some want, some t => (match sourceBytes s t given with
      | some bs => if bs.length = 64 ∧ crc32c bs = want then some bs else none
      | none => none)
  | _, _ => none

/-- The detection that the read of a tile's source meets. -/
def repairSeen (s : State) (cls inst tile : Nat) : State :=
  match refOf s cls inst tile, imageTile s.rel.img cls (srcInst s cls inst) tile with
  | some _, some t => bodySeen s t
  | _, _ => s

/-- In MIRRORED, the twin of a context tile when both copies are kept and the twin passes (R326, R327). -/
def twinBytes (s : State) (inst tile : Nat) : Option (List Byte) :=
  let i := 2 ^ 14 * inst + tile / 2
  let j := mirrorOf i
  if isMirrored s && cluMir s inst == 1 && !tileBad s 2 (homeOf j) tile then some (halfBytes (recGet s j) (tile % 2)) else none

/-- The detection that the Badger's read of a failing twin meets (R317, R320). -/
def twinSeen (s : State) (inst tile : Nat) : State :=
  if isMirrored s && cluMir s inst == 1 && tileBad s 2 (inst ^^^ 1) tile then tileDetect s 2 (inst ^^^ 1) tile 4 else s

/-- A copy of a context tile replaced by its twin. -/
def twinPut (s : State) (inst tile : Nat) (bs : List Byte) : State :=
  let i := 2 ^ 14 * inst + tile / 2
  let r := recHalf (recGet s i) (tile % 2) bs
  let s1 := tileCure (recPut1 s i r) 2 inst tile
  if tile % 2 = 0 then ctlPut1 s1 i (recCtl r) else s1

/-- RELOAD_TILE (R326); with `refBad`, the reference fails its parity as it is read. A tile number past the end of its memory names a tile with no reference. -/
def reloadTake (s : State) (tag : Nat) (pl : List Word) (bytes : List Byte) (refBad : Bool) : State :=
  let w := plWord pl 0
  let cls := field w 2 0
  let inst := field w 14 8
  let tile := field (plWord pl 1) 21 0
  let refuseAt (z : State) (c : Nat) : State := hmbComplete (cntAdd z 0xA038 1) tag c
  let refuse := refuseAt s
  let off := if cls = 2 then domStat s (64 + inst) != 1 else domStat s inst != 1
  let twin := if cls = 2 then twinBytes s inst tile else none
  if 4 ≤ cls ∨ (cls < 2 ∧ 64 ≤ inst) ∨ (cls = 2 ∧ 8 ≤ inst) then refuse 9
  else if cls ≠ 3 ∧ off = true then refuse 2
  else if (cls = 1 ∨ cls = 2) ∧ bitAt w 31 = false then refuse 0xA
  else if tileCount s cls inst ≤ tile then refuse 0xD
  else match twin with
    | some bs => hmbComplete (cntAdd (twinPut (svcEnter s) inst tile bs) 0xA034 1) tag 0
    | none =>
      let z := refFail (if cls = 2 then twinSeen s inst tile else s) cls inst tile refBad
      if (refOf z cls inst tile).isNone then refuseAt z 0xD
      else match repairBytes z cls inst tile bytes with
        | some bs => hmbComplete (cntAdd (tilePut (svcEnter z) cls inst tile bs) 0xA034 1) tag 0
        | none => refuseAt (repairSeen z cls inst tile) 0xB

/-- Tiles of one instance of a class; 0 for an instance that the scrubber does not read (R322). -/
def scrubTiles (s : State) (cls inst : Nat) : Nat := if cls < 5 then tileCount s cls inst else 0

/-- The instances that a scrub pass reads, by class. -/
def scrubInsts : List (Nat × Nat) :=
  let es := (List.range 64) ++ [66]
  es.map (fun n => (0, n)) ++ es.map (fun n => (1, n)) ++ (List.range 8).map (fun k => (2, k)) ++ [(3, 0)] ++
    (List.range 64).map (fun n => (4, n))

/-- The scrubber's next tile of an instance. -/
def scrubPos (s : State) (cls inst : Nat) : Nat := tblGet 0 (128 * cls + inst) s.mem.scrub

/-- A tile read by the scrubber; `corrupt` says that its contents have failed. -/
def scrubRead (s : State) (cls inst tile : Nat) (corrupt : Bool) : State :=
  let s1 := if corrupt then tileSpoil s cls inst tile else s
  if cls = 2 then (recTileRead s1 (2 ^ 14 * inst + tile / 2) (tile % 2) 4).2
  else if tileBad s1 cls inst tile then tileDetect s1 cls inst tile 4 else s1

/-- Whether a pass is complete: every instance has been read whole. -/
def scrubWhole (s : State) : Bool := scrubInsts.all (fun q => decide (scrubTiles s q.1 q.2 ≤ scrubPos s q.1 q.2))

/-- A pass counted; the next one begins. -/
def scrubPass (s : State) : State := cntAdd { s with mem := { s.mem with scrub := [] } } 0xA040 1

/-- The scrubber moves on in an instance; when every instance has been read whole, the pass counts. -/
def scrubMove (s : State) (cls inst : Nat) : State :=
  let s1 := { s with mem := { s.mem with scrub := tblSet 0 (128 * cls + inst) (scrubPos s cls inst + 1) s.mem.scrub } }
  if scrubWhole s1 then scrubPass s1 else s1

/-- SCRUB_TILE_READ, R322: the next tile of an instance; a row that names any other tile is no read of the scrubber (log 3). An instance
read whole waits for the others of its pass (DESIGN CHOICE: R322 gives each instance its own pace and does not say what one that is
ahead does). A pass that became complete because the instance left to read went OFF counts as the scrubber next acts. -/
def execScrubTileRead (cls inst tile : Nat) (corrupt : Bool) (s : State) : Host.Outcome State Fault Refusal :=
  if bitAt (regGet s 0xA000) 0 ∧ badgerDead s = false then
    if tile = scrubPos s cls inst ∧ tile < scrubTiles s cls inst then
      .next (scrubMove (scrubRead s cls inst tile corrupt) cls inst)
    else if s.mem.scrub ≠ [] ∧ scrubWhole s = true then .next (scrubPass s)
    else .next s
  else .next s

/-- SUSPECT_TILE_READ, R322: the tile that PIPE[n].SUSPADR names. -/
def execSuspectTileRead (n : Nat) (corrupt : Bool) (s : State) : Host.Outcome State Fault Refusal :=
  let t := (engGet s n).suspadr.toNat / 64
  if badgerDead s = false ∧ (n < 64 ∨ n = 66) ∧ t < scrubTiles s 0 n then .next (scrubRead s 0 n t corrupt) else .next s

/-- What the boot ROM gives for a tile of the Badger's IMEM. -/
def romTile (t : Nat) : List Byte := (List.range 64).map (fun i => Config.badgerMem (64 * t + i))

/-- TILE_REPAIR, R324, R325: a failing IMEM tile repaired without a command; the Badger's own comes from its boot ROM. With `refBad`,
the reference fails its parity as it is read. -/
def execTileRepair (cls inst tile : Nat) (bytes : List Byte) (s : State) (refBad : Bool := false) : Host.Outcome State Fault Refusal :=
  if badgerDead s = false ∧ cls = 0 ∧ tileBad s 0 inst tile = true then
    if inst = 66 then .next (engTilePut s 66 (64 * tile) (romTile tile))
    else if inst < 64 ∧ bitAt (regGet s 0xA000) 1 = true then
      let s1 := refFail s 0 inst tile refBad
      match repairBytes s1 0 inst tile bytes with
      | some bs => .next (cntAdd (engTilePut s1 inst (64 * tile) bs) 0xA034 1)
      | none => .next (cntAdd (repairSeen s1 0 inst tile) 0xA038 1)
    else .next s
  else .next s

/-- Tile 0 of the record of context `i` rebuilt (Table 11.3) from its image half `img`; `known` says that the tile has a reference,
without which its parts from the image are zero, the quality among them. -/
def rebuildTile0 (s : State) (i : Nat) (img : Rec) (known : Bool) : Rec :=
  let h := (List.range 64).find? (fun n => hasNat (if isMirrored s then ctxOfCopy s i else i) (locksOf s n))
  let r1 := recPutBits (recPutWord (recPutWord 0 0x10 (recPtr img)) 0x14 (ctlGet s i)) 0 64 (recValue img).toNat
  let tag : W128 := if known then cellPutBits ((recTag img).setWidth 128) 32 4 0xB else 0
  recPutWord (recPutBits r1 8 64 tag.toNat) 0x18 (lockWord h)

/-- A failing tile of the record copy `i` rebuilt from the image (R327, Table 11.3), in every copy of the record (R120). -/
def rebuildFrom (s : State) (i tile : Nat) (bytes : List Byte) : State :=
  let k := homeOf i
  let t := 2 * (i % 2 ^ 14) + tile
  let known := (refOf s 2 k t).isSome
  let src := repairBytes s 2 k t bytes
  let s1 := if src.isNone && known then cntAdd (repairSeen s 2 k t) 0xA038 1 else s
  let half := src.getD (leBytes 64 0)
  let whole := if tile = 1 then half
    else leBytes 64 (rebuildTile0 s i (BitVec.ofNat 1024 (leNat half)) known).toNat
  tilePut s1 2 k t whole

/-- TILE_REBUILD, R327: a failing context tile of the record copy `i` rebuilt, from its twin where that passes. With `refBad`, the
reference fails its parity as it is read. A copy in the slice of a failed cluster is not in use, and rebuilds use its partner (R447). -/
def execTileRebuild (i tile : Nat) (bytes : List Byte) (s : State) (refBad : Bool := false) : Host.Outcome State Fault Refusal :=
  let k := homeOf i
  let t := 2 * (i % 2 ^ 14) + tile
  if bitAt (regGet s 0xA000) 2 ∧ badgerDead s = false ∧ i < 2 ^ 17 ∧ tile < 2 ∧ tileBad s 2 k t = true ∧
      domStat s (64 + k) = 1 ∧ sliceGone s k = false then
    match twinBytes s k t with
    | some bs => .next (cntAdd (twinPut s k t bs) 0xA03C 1)
    | none => .next (cntAdd (rebuildFrom (refFail (twinSeen s k t) 2 k t refBad) i tile bytes) 0xA03C 1)
  else .next s

/-! The remaining commands that the Badger takes up. -/

/-- REMAP_MOTH (R372, Table 19.5). -/
def remapTake (s : State) (tag : Nat) (pl : List Word) : State :=
  let w := plWord pl 0
  let a := field w 6 0
  let sp := field w 14 8
  let y := mothGet s sp
  if 96 ≤ a ∨ 96 ≤ sp ∨ bankOf a ≠ bankOf sp then hmbComplete s tag 9
  else if y.en || y.npin != 0 then hmbComplete s tag 2
  else svcAdd s tag (.remap a sp (bitAt w 31))

/-- ENUMERATE_CHAIN (R95, R98). -/
def enumerateTake (s : State) (tag : Nat) : State :=
  if !chnHead s then pulse (hmbComplete s tag 9) 291
  else if s.chain.offer.isSome then pulse (hmbComplete s tag 2) 291
  else enumStart s tag

/-- OPEN_SEAL (R388); a seal that is open stays open. -/
def openSealTake (s : State) (tag : Nat) : State :=
  if !s.sett.pin then hmbComplete s tag 0x18
  else if s.sett.st ≠ 3 then hmbComplete s tag 2
  else hmbComplete (if s.sett.open_ then s else sealOpen s) tag 0

/-- CLOSE_SEAL (R389). -/
def closeSealTake (s : State) (tag : Nat) : State := hmbComplete (sealClose s) tag 0

end Sys2Proof.Machine
end

