-- ==== Sys2Proof/Machine/Power.lean ====
section
/-! DEFINITION. Host power requests and engine sleep (R454 to R463). -/

namespace Sys2Proof.Machine

/-- The domains that the host may switch (Table 17.1). -/
def domHost (d : Nat) : Bool := (decide (72 ≤ d) && decide (d < 80)) || d == 81 || d == 82 || d == 83 || d == 85

/-- Whether Table 17.2 allows the host to switch a domain off. -/
def domOffAllowed (s : State) (d : Nat) : Bool :=
  if d < 78 then (mothsOf (d - 72)).all (fun m => !(mothGet s m).en)
  else if d = 78 ∨ d = 79 then s.bstate == .awaitImage || s.bstate == .hold
  else if d = 83 then !hubEn s
  else if d = 85 then
    s.rel.next.isNone && s.bstate != .verify &&
    (if s.rel.phase = 2 ∨ s.rel.phase = 3 then s.rel.img.src else s.rel.srcForce) != 2
  else true

/-- A host-switched domain off, with the effect that Table 17.2 gives. -/
def hostDomOff (s : State) (d : Nat) : State :=
  if domStat s d = 0 then s
  else if d = 81 ∨ d = 82 then domOff (portOff s (d - 81)) d
  else if d = 78 then settMap (domOff s d) (fun t => { t with st := 0 })
  else domOff s d

/-- A host write of PWR.DOM[d].REQ (R457): an ignored request leaves REQ as it was. -/
def powerWrite (s : State) (d : Nat) (on : Bool) : State :=
  if !domHost d then s
  else if on then
    let s1 := { s with svc := { s.svc with reqOff := delNat d s.svc.reqOff } }
    if domStat s d = 0 then domSet s1 d 2 else s1
  else if domOffAllowed s d then hostDomOff { s with svc := { s.svc with reqOff := addNat d s.svc.reqOff } } d
  else cntAdd s 0x80004 1

/-- POWER_REQUEST, R457. -/
def execPowerRequest (d : Nat) (on : Bool) (s : State) : Host.Outcome State Fault Refusal :=
  if d < 86 ∧ hostUp s = true then .next (powerWrite s d on) else .next s

/-- DOMAIN_POWER_UP_DONE, R455: a chain port that is enabled begins to train (R87). -/
def execDomainPowerUpDone (d : Nat) (s : State) : Host.Outcome State Fault Refusal :=
  if d < 86 ∧ domStat s d = 2 then
    let s1 := domOn s d
    if d = 81 ∨ d = 82 then
      .next (portSet s1 (d - 81) { portGet s1 (d - 81) with training := bitAt (regGet s1 0xC0000) (d - 81) })
    else .next s1
  else .next s

/-! Engine sleep. -/

/-- KTB at the schedule point of the next edge of engine `n`: the next sub-tick edge in the Fox group (R460). -/
def nextEdgeAt (s : State) (n : Nat) : Nat :=
  let main := s.tick.phase.toNat + s.tick.nextK * periodNs s
  match s.tick.edgeAt with
  | some t => if isFox s n then min main (t.toNat + (s.tick.subI + 1) * (s.tick.subtick * 250)) else main
  | none => main

/-- PWR.ENG[n].CFG. -/
def pwrCfg (s : State) (n : Nat) : Word := regGet s (0x80800 + n * 0x10)

/-- Whether a wake condition of R461 stands for engine `n`: an entry, an event on offer to a scan engine (R19), a halt request, or a
service action for it. -/
def wakeStands (s : State) (n : Nat) : Bool :=
  let e := engGet s n
  e.inq.any (·.arr) || !e.scan.isEmpty || (decide (n < 64) && (tgtOffer s n).isSome) || e.dbg.pending || boundaryWaits s n

/-- Whether engine `n` may doze (R459). S0, S1 and the Badger have no DOZEDLY register, so the command alone says when they have
waited long enough. -/
def mayDoze (s : State) (n : Nat) : Bool :=
  let e := engGet s n
  e.run == .running && e.pstate == .run && !e.dbg.halted && (e.hold == .dispatch || e.hold == .tick) && !wakeStands s n &&
  (decide (64 ≤ n) || decide (field (pwrCfg s n) 7 0 ≤ cyclesOf s ((ktb s).toNat - e.waitFrom.toNat))) &&
  trcFlushed s n && trcMarkRoom s n

/-- Whether a dozing engine begins its entry into NAP (R460). -/
def mayNap (s : State) (n : Nat) : Bool :=
  decide (n < 64) && bitAt (pwrCfg s n) 15 && !(engGet s n).dbg.halted && s.tick.running &&
  decide ((ktb s).toNat + field (pwrCfg s n) 23 16 * 1000 + 2500 ≤ nextEdgeAt s n)

/-- Engine `n` in DOZE, and in its entry into NAP where R460 allows it at once. -/
def dozeNow (s : State) (n : Nat) : State :=
  let s1 := trcEngMark s n 8 12 1 0 0 0
  engMap s1 n (fun e => { e with pstate := if mayNap s n then .napEntry else .doze, wakeReq := false })

/-- ENGINE_DOZE, R459: S0 and S1 doze together. -/
def execEngineDoze (n : Nat) (s : State) : Host.Outcome State Fault Refusal :=
  if n < 67 ∧ n ≠ 65 ∧ mayDoze s n = true then
    .next (if n = 64 then dozeNow (dozeNow s 64) 65 else dozeNow s n)
  else .next s

/-- NAP_ENTRY_DONE, R460, R498: a wake condition that arose during the entry is served now. -/
def execNapEntryDone (n : Nat) (s : State) : Host.Outcome State Fault Refusal :=
  let e := engGet s n
  if n < 64 ∧ (e.pstate = .napEntry ∨ (e.pstate = .doze ∧ mayNap s n = true)) ∧ trcFlushed s n = true ∧ trcMarkRoom s n = true then
    let s1 := cntAdd (trcEngMark s n 8 12 2 0 0 0) (0x80808 + n * 0x10) 1
    .next (engMap s1 n (fun e => { e with pstate := if e.wakeReq then .wakeNap else .nap }))
  else .next s

/-- ENGINE_WAKE, R461: the engine reaches RUN with its WAKE record and the SYNC after it, and its wait goes on. -/
def execEngineWake (n : Nat) (s : State) : Host.Outcome State Fault Refusal :=
  let e := engGet s n
  if n < 67 ∧ (e.pstate = .waking ∨ e.pstate = .wakeNap) ∧ trcWakeRoom s n = true then
    .next (engMap (trcWake s n) n (fun e => { e with pstate := .run, wakeReq := false }))
  else .next s

/-- TIMED_WAKE_START, R462: 2 µs of KTB before the schedule point of the engine's next edge. -/
def execTimedWakeStart (n : Nat) (s : State) : Host.Outcome State Fault Refusal :=
  if n < 64 ∧ (engGet s n).pstate = .nap ∧ s.tick.running = true ∧ nextEdgeAt s n ≤ (ktb s).toNat + 2000 then
    .next (engMap s n (fun e => { e with pstate := .wakeNap, wakeReq := true }))
  else .next s

/-- PWR.ENG[n].STAT (Table 17.8). -/
def pwrEngStat (s : State) (n : Nat) : Word :=
  match (engGet s n).pstate with
  | .run => 0
  | .doze => 1
  | .napEntry => 1
  | .nap => 2
  | .off => 3
  | .waking => 4
  | .wakeNap => 4

/-- The engines of cluster `k` that wait for their trace to be flushed go OFF (R498), in ascending number as the FIFO has room. -/
def offGo (s : State) (k : Nat) : State :=
  let mine := (s.svc.offWait).filter (fun n => cluOf n == k)
  if mine.isEmpty then s
  else cluOffCheck (forNats mine (fun z n => if trcFlushed z n && trcMarkRoom z n then engOffNow z n else z) s) k

/-- TRACE_RECORD_DRAIN, R496. -/
def execTraceRecordDrain (k : Nat) (parityFail : Bool) (s : State) : Host.Outcome State Fault Refusal :=
  if k < 8 ∧ domStat s (64 + k) = 1 then .next (offGo (trcDrain s k parityFail) k) else .next s

end Sys2Proof.Machine
end

