-- ==== Sys2Proof/Machine/Debug.lean ====
section
/-! DEFINITION. Debug (R473 to R492): the lock, run control, freezes, the debug accesses of the engine windows, the terminals and
the unlock. -/

namespace Sys2Proof.Machine

/-- The window of engine `n` (R18). -/
def dbgWin (n off : Nat) : Nat := 0x200000 + n * 0x1000 + off

/-- A refused debug access or command counted (R474). -/
def lockRej (s : State) : State := cntAdd s 0xD01C 1

/-- Whether windows 64 and 65 answer (R477). -/
def settDbg (s : State) : Bool := dbgOpen s && s.io.settdbg && s.sett.open_

/-- Whether debug may read through window `n` at all. -/
def dbgReach (s : State) (n : Nat) : Bool := if isSettEng n then settDbg s else dbgOpen s

/-- The engines on which window `n` acts: a lockstep pair together (R477, R479). -/
def dbgPair (s : State) (n : Nat) : List Nat := if isSettEng n then [64, 65] else pairOf s n

/-- Window 2k + 1 in PAIRED (R479). -/
def dbgReadOnly (s : State) (n : Nat) : Bool := isPaired s && decide (n < 64) && n % 2 == 1

/-- Whether a command may be given to window `n` (R477 to R479). -/
def dbgCommand (s : State) (n : Nat) : Bool :=
  if isSettEng n then settDbg s
  else decide (n < 64) && dbgOpen s && bitAt (dbgCtl s n) 0 && !dbgReadOnly s n

/-! Run control (R479 to R485). -/

/-- The debug state of engine `n` changed. -/
def dbgMap (s : State) (n : Nat) (f : DbgState → DbgState) : State := engMap s n (fun e => { e with dbg := f e.dbg })

/-- A halt request with its cause; one that is pending stays (R480). A sleeping engine wakes (R461). -/
def haltRequest (s : State) (n cause : Nat) : State :=
  let d := (engGet s n).dbg
  if d.pending then s
  else wakeEng (dbgMap s n (fun d => { d with pending := true, cause := cause, since := ktb s })) n

/-- Whether engine `n` runs as HALT needs it. -/
def dbgRunning (s : State) (n : Nat) : Bool := (engGet s n).run == .running && !(engGet s n).dbg.halted

/-- CMD.HALT. -/
def haltCmd (s : State) (n : Nat) : State :=
  if dbgCommand s n && dbgRunning s n then forNats (dbgPair s n) (fun z m => haltRequest z m 1) s else lockRej s

/-- HALT, R480. -/
def execHalt (n : Nat) (s : State) : Host.Outcome State Fault Refusal := if n < 67 ∧ hostUp s = true then .next (haltCmd s n) else .next s

/-- The engine halted at its halt point: a waiting bundle is to run again from its start, and one in a delay slot from its
transfer (R480, R481). What it had read ahead is discarded (R274). -/
def haltNow (s : State) (n : Nat) : State :=
  let e := engGet s n
  let trap := e.hold == .micro
  let wait := waitHold e.hold
  let pc := match e.xfer with | some x => if wait then x.src else e.pc | none => e.pc
  let lc := match e.xfer with | some x => if wait then x.lcBefore else e.lc | none => e.lc
  let held := !(locksOf s (lockId s n)).isEmpty
  let s1 := engMap (fetchLeft s n (!betweenBundles e)) n (fun e =>
    { (if wait then { bundleOver e with noEvent := e.noEvent } else e) with
             pc := pc, lc := lc, xfer := if wait then none else e.xfer,
             dbg := { e.dbg with halted := true, pending := false, stepping := false, intrap := trap, lockheld := held, hpc := pc } })
  trcEngMark s1 n 6 10 e.dbg.cause pc (estat (engGet s1 n)) 0

/-- The halt of a member of the halt group requests that of every other (R484), and in PAIRED of both engines of its pair (R479,
R485). -/
def groupHalt (s : State) (n : Nat) : State :=
  if n < 64 ∧ bitAt (dbgCtl s n) 2 = true then
    forNats ((List.range 64).filter (fun m => m != n && bitAt (dbgCtl s m) 0 && bitAt (dbgCtl s m) 2 && dbgOpen s && dbgRunning s m))
      (fun z m => forNats (dbgPair z m) (fun y k => haltRequest y k 4) z) s
  else s

/-- DEBUG_HALT_TAKEN, R480, R484, R485: the engines of a pair halt together; an offer to a halted engine is withdrawn. -/
def execDebugHaltTaken (n : Nat) (s : State) : Host.Outcome State Fault Refusal :=
  let e := engGet s n
  if n < 66 ∧ isHead s n = true ∧ e.run = .running ∧ e.pstate = .run ∧ e.dbg.halted = false ∧
      haltDue s n = true ∧ haltPoint s n = true then
    let s1 := forNats (dbgPair s n) haltNow s
    .next (hubWithdraw (freezeStep s (groupHalt s1 n)))
  else .next s

/-- One write of the register space made in the engine (R489, Table 18.9): a 16-byte one is of a capability register. -/
def regWrite (e : Engine) (w : Bool × Nat × W128) : Engine :=
  let a := w.2.1
  let v := w.2.2.setWidth 32
  if w.1 then (if a < 0x300 then putC e ((a - 0x200) / 16) w.2.2 else xpccPut e ((a - 0x300) / 16) w.2.2)
  else if a < 0x80 then putG e (a / 4) v
  else if a = 0x80 then predSet e v
  else sprPut e ((a - 0x100) / 4) v

/-- The engine goes on from its halt point (R482): `sub` is 0 for RESUME and 1 for STEP. The writes of its register space take effect
(R489). -/
def resumeNow (s : State) (sub n : Nat) : State :=
  let d := (engGet s n).dbg
  let s0 := engMap s n (fun e => d.writes.foldl regWrite e)
  let s1 := dbgMap s0 n (fun d => { d with halted := false, intrap := false, cause := 0, stepping := sub == 1, writes := [] })
  trcEngMark s1 n 7 10 sub d.hpc 0 0

/-- CMD.RESUME or CMD.STEP (Table 18.4). -/
def resumeCmd (s : State) (sub n : Nat) : State :=
  if dbgCommand s n && (engGet s n).dbg.halted then freezeStep s (forNats (dbgPair s n) (fun z m => resumeNow z sub m) s)
  else lockRej s

/-- RESUME, R482. -/
def execResume (n : Nat) (s : State) : Host.Outcome State Fault Refusal := if n < 67 ∧ hostUp s = true then .next (resumeCmd s 0 n) else .next s

/-- STEP, R482. -/
def execStep (n : Nat) (s : State) : Host.Outcome State Fault Refusal := if n < 67 ∧ hostUp s = true then .next (resumeCmd s 1 n) else .next s

/-- One lock freed (R483): a partial write by debug, not made where the tile fails (R120, R319), though the lock counts no longer. -/
def freeOne (s : State) (i : Nat) : State :=
  let s1 := lockFreeBy s i 5 (fun r => recPutBits r 0x0C 4 7)
  if ctlPubl (ctlGet s i) then pubMark s1 i else s1

/-- CMD.LOCKFREE (R483). -/
def lockfreeCmd (s : State) (n : Nat) : State :=
  let d := (engGet s n).dbg
  if n < 64 ∧ dbgCommand s n = true ∧ d.halted = true ∧ d.lockheld = true then
    let l := locksOf s (lockId s n)
    let s1 := cntAdd (forNats l freeOne s) 0xD020 l.length
    forNats (dbgPair s n) (fun z m => dbgMap z m (fun d => { d with lockheld := false })) s1
  else lockRej s

/-- LOCKFREE, R483. -/
def execLockfree (n : Nat) (s : State) : Host.Outcome State Fault Refusal := if n < 67 ∧ hostUp s = true then .next (lockfreeCmd s n) else .next s

/-- A write of DBG[n].CMD: more than one bit set is ignored (Table 18.14). -/
def cmdWrite (s : State) (n : Nat) (v : Word) : State :=
  match field v 3 0 with
  | 1 => haltCmd s n
  | 2 => resumeCmd s 0 n
  | 4 => resumeCmd s 1 n
  | 8 => lockfreeCmd s n
  | _ => s

/-! Debug accesses (R487 to R491). -/

/-- DBG[n].ERR bits set. -/
def errSet (s : State) (n v : Nat) : State :=
  { s with io := { s.io with err := tblSet 0 n ((tblGet 0 n s.io.err) ||| v) s.io.err } }

/-- Byte `i` of DBG[n].TILEBUF. -/
def bufBytes (s : State) (n len : Nat) : List Byte := memBytes s.io.tilebuf (64 * n) len

/-- Bytes put into DBG[n].TILEBUF. -/
def bufPut (s : State) (n : Nat) (bs : List Byte) : State := { s with io := { s.io with tilebuf := memPut s.io.tilebuf (64 * n) bs } }

/-- ACC.SPACE, ACC.TILE and ACC.CONSUME of window `n`. -/
def accSpace (s : State) (n : Nat) : Nat := field (regGet s (dbgWin n 0x10)) 2 0
/-- ACC.TILE. -/
def accTile (s : State) (n : Nat) : Bool := bitAt (regGet s (dbgWin n 0x10)) 3
/-- ACC.CONSUME. -/
def accConsume (s : State) (n : Nat) : Bool := bitAt (regGet s (dbgWin n 0x10)) 4

/-- The local regions that space 0 reaches (Table 18.7). -/
def dbgRegion (n a : Nat) : Option Region :=
  match regionOf n a with
  | .imem => some .imem
  | .dmem => some .dmem
  | .window => some .window
  | .queue => some .queue
  | .shared => some .shared
  | .mailbox => some .mailbox
  | _ => none

/-- `len` bytes as stored at local address `a`. -/
def dbgBytes (s : State) (n a len : Nat) (r : Region) : List Byte :=
  let e := engGet s n
  match r with
  | .imem => memBytes e.imem a len
  | .dmem => memBytes e.dmem (a - 0x10000000) len
  | .window => leBytes len (e.window.toNat >>> (8 * (a - 0x20000000)))
  | .queue => bytesOfW (wordBytes (queueWord s n) (a - 0x30000000) len) len
  | .shared => (List.range (len / 4)).flatMap (fun i => leBytes 4 (sharedWord s (cluOf n) (a - 0x40000000 + 4 * i)).toNat)
  | .mailbox => (List.range (len / 4)).flatMap (fun i => leBytes 4 (mbxWord s (isSettEng n) (a - 0x50000000 + 4 * i)).toNat)
  | _ => []

/-- The failing check that a debug access of that tile meets: class, instance and tile. -/
def dbgBadTile (s : State) (n a : Nat) (r : Region) : Option (Nat × Nat × Nat) :=
  let pick (q : Nat × Nat × Nat) : Option (Nat × Nat × Nat) := if tileBad s q.1 q.2.1 q.2.2 then some q else none
  match r with
  | .imem => pick (engTile n false (a / 64))
  | .dmem => pick (engTile n true ((a - 0x10000000) / 64))
  | .window => if n < 64 then pick (4, n, (a - 0x20000000) / 64) else none
  | _ => none

/-- `len` bytes at local address `a` as debug reads them: as stored, where their tile fails its check (R321). -/
def dbgStored (s : State) (n a len : Nat) (r : Region) : List Byte :=
  let bs := dbgBytes s n a len r
  match dbgBadTile s n a r with
  | some q => (List.range len).map (fun i => Config.failedByte (tileKey q.1 q.2.1 q.2.2) (a % 64 + i) (bs.getD i 0))
  | none => bs

/-- The first address and the length of a space 0 access, where Table 18.7 allows it. -/
def dbgSpan (s : State) (n : Nat) : Option (Nat × Nat × Region) :=
  let a := (regGet s (dbgWin n 0x14)).toNat
  let b := if accTile s n then a / 64 * 64 else a
  let len := if accTile s n then 64 else 4
  match dbgRegion n b with
  | some r => if a % 4 = 0 ∧ dbgRegion n (b + len - 1) = some r then some (b, len, r) else none
  | none => none

/-- The five parity bits of a micro-word (R283): each makes the ones of its group and itself odd. -/
def parityBits (w : BitVec 160) : Nat :=
  ((List.range 5).map (fun g =>
    (((List.range 32).map (fun i => b2n (bitAt w (32 * g + i)))).foldl (· + ·) 0 + 1) % 2 * 2 ^ g)).foldl (· + ·) 0

/-- The micro-RAM word of a bank. -/
def bankWord (e : Engine) (b : Bool) (a : Nat) : BitVec 160 := tblGet 0 a (if b then e.uram1 else e.uram0)

/-- Bank, micro-address and word index of a space 1 access. -/
def uramSpan (s : State) (n : Nat) : Option (Bool × Nat × Nat) :=
  let a := regGet s (dbgWin n 0x14)
  if !accTile s n && decide (a.toNat < 2 ^ 17) && decide (0x800 ≤ field a 15 3) && decide (field a 15 3 ≤ 0xBFF) && decide (field a 2 0 ≤ 5) then
    some (bitAt a 16, field a 15 3, field a 2 0)
  else none

/-- Bank and major of a space 2 access. -/
def decSpan (s : State) (n : Nat) : Option (Bool × Nat) :=
  let a := regGet s (dbgWin n 0x14)
  if !accTile s n && decide (a.toNat < 2 ^ 9) then some (bitAt a 8, field a 7 0) else none

/-- What the register space holds at an address, with a 16-byte value where TILE is 1 (Table 18.9). -/
def regSpace (s : State) (n a : Nat) (tile : Bool) : Option W128 :=
  let e := engGet s n
  if tile then
    if 0x200 ≤ a ∧ a < 0x300 ∧ a % 16 = 0 then some (regC e ((a - 0x200) / 16))
    else if 0x300 ≤ a ∧ a ≤ 0x330 ∧ a % 16 = 0 then some (xpccGet e ((a - 0x300) / 16))
    else none
  else if a < 0x80 ∧ a % 4 = 0 then some ((regG e (a / 4)).setWidth 128)
  else if a = 0x80 then some ((predWord e).setWidth 128)
  else if 0x100 ≤ a ∧ a ≤ 0x178 ∧ a % 4 = 0 then (sprGet s n ((a - 0x100) / 4)).map (·.setWidth 128)
  else if a = 0x380 then some (BitVec.ofNat 128 (if e.dbg.intrap then e.u.upc else 0))
  else none

/-- A refused or impossible read: ACCERR, and zero (R490). -/
def dbgReadErr (s : State) (n : Nat) : Word × State := (0, errSet s n 1)

/-- A space 0 read (R487, R490, R491); a failing tile of the Sett fails the Sett (R383). -/
def dbgReadMem (s : State) (n : Nat) : Word × State :=
  match dbgSpan s n with
  | none => dbgReadErr s n
  | some (a, len, r) =>
    let bs := dbgStored s n a len r
    let s1 := match dbgBadTile s n a r with
      | some q =>
        let z := errSet (tileDetect s q.1 q.2.1 q.2.2 5) n 2
        if q.1 = 5 then settDown z 3 else z
      | none => s
    let s2 := if accConsume s n then ticketTake s1 n (BitVec.ofNat 32 a) len else s1
    if accTile s n then (Config.debugTileWord s2.free, bufPut { s2 with free := s2.free + 1 } n bs) else (bytesWord bs 0, s2)

/-- A space 3 read (R491): the Badger's register space reads as zero (R478). -/
def dbgReadReg (s : State) (n : Nat) : Word × State :=
  let a := (regGet s (dbgWin n 0x14)).toNat
  if n = 66 then (0, s)
  else if (engGet s n).dbg.halted then
    match regSpace s n a (accTile s n) with
    | none => dbgReadErr s n
    | some v =>
      if accTile s n then (Config.debugTileWord s.free, bufPut { s with free := s.free + 1 } n (leBytes 16 v.toNat))
      else (v.setWidth 32, if accConsume s n && 0x100 ≤ a && a ≤ 0x178 then sprSeen s n ((a - 0x100) / 4) else s)
  else dbgReadErr s n

/-- The access that a read of DBG[n].DATA performs. -/
def dbgRead (s : State) (n : Nat) : Word × State :=
  let e := engGet s n
  match accSpace s n with
  | 0 => dbgReadMem s n
  | 1 => match uramSpan s n with
    | some (b, a, w) =>
      (if w = 5 then BitVec.ofNat 32 (parityBits (bankWord e b a)) else ((bankWord e b a) >>> (32 * w)).setWidth 32, s)
    | none => dbgReadErr s n
  | 2 => match decSpan s n with
    | some (b, m) => (decEntry e b m, s)
    | none => dbgReadErr s n
  | 3 => dbgReadReg s n
  | _ => dbgReadErr s n

/-- DEBUG_DATA_READ, R487: a consume access wakes the engine (R461). -/
def execDebugDataRead (n : Nat) (s : State) : Host.Outcome State Fault Refusal :=
  if 67 ≤ n ∨ hostUp s = false then .next s
  else if dbgReach s n then
    let q := dbgRead s n
    .next (if accConsume s n then wakeEng { q.2 with hostRd := q.1.setWidth 64 } n else { q.2 with hostRd := q.1.setWidth 64 })
  else .next { lockRej s with hostRd := 0 }

/-- A space 0 write of bytes by debug into engine `n` through window `w` (R489, R152, R319). -/
def dbgWriteMem (s : State) (w n : Nat) (v : Word) : State :=
  match dbgSpan s w with
  | none => errSet s w 1
  | some (a, len, r) =>
    let bs := if accTile s w then bufBytes s w 64 else leBytes 4 v.toNat
    let whole := accTile s w
    let put (z : State) : State :=
      match r with
      | .imem => engMap z n (fun e => { e with imem := memPut e.imem a bs })
      | .dmem => engMap z n (fun e => dmemPut e (a - 0x10000000) bs false)
      | .window => engMap z n (fun e => { e with window := recPutBits e.window (a - 0x20000000) (8 * len) (leNat bs) })
      | .shared => (List.range (len / 4)).foldl (fun y i => sharedPut y (cluOf n) (a - 0x40000000 + 4 * i) (bytesWord bs (4 * i))) z
      | _ => errSet z w 1
    match dbgBadTile s n a r with
    | none => put s
    | some q => if whole then put (tileCure s q.1 q.2.1 q.2.2) else cntAdd (tileDetect s q.1 q.2.1 q.2.2 5) 0xA030 1

/-- A micro-word or decode entry written by debug into one engine (R489): DBGMOD is set. A write of word 5, the parity bits, is refused
(DESIGN CHOICE: R489 says only that the parity is computed). -/
def dbgWriteMicro (s : State) (w n : Nat) (v : Word) : State :=
  match accSpace s w with
  | 1 =>
    (match uramSpan s w with
     | some (b, a, k) =>
       if k = 5 then errSet s w 1
       else engMap s n (fun e =>
         let x := bankWord e b a
         let y : BitVec 160 := BitVec.ofNat 160 (x.toNat - (x.toNat >>> (32 * k)) % 2 ^ 32 * 2 ^ (32 * k) + v.toNat * 2 ^ (32 * k))
         let e1 := if b then { e with uram1 := tblSet 0 a y e.uram1 } else { e with uram0 := tblSet 0 a y e.uram0 }
         { e1 with dbgmod := true })
     | none => errSet s w 1)
  | _ =>
    match decSpan s w with
    | some (b, m) => engMap s n (fun e => { bankPut e b (bankEntPut (bankOfEng e b) m v) with dbgmod := true })
    | none => errSet s w 1

/-- A capability as debug writes it: null where it is not valid (R489). -/
def dbgCap (c : W128) : W128 := if capValid c then c else 0

/-- Whether the register space takes a write at an address, of 16 bytes where `tile` is true (Table 18.9, R491). -/
def regWritable (tile : Bool) (a : Nat) : Bool :=
  if tile then decide (a % 16 = 0) && (decide (0x210 ≤ a ∧ a < 0x300) || decide (0x310 ≤ a ∧ a ≤ 0x330))
  else a == 0x80 || (decide (a % 4 = 0) && (decide (4 ≤ a ∧ a < 0x80) ||
    (decide (0x100 ≤ a ∧ a ≤ 0x178) && sprWritable ((a - 0x100) / 4))))

/-- A space 3 write into one engine (R489, R491), which takes effect when the engine next resumes or steps. -/
def dbgWriteReg (s : State) (w n : Nat) (v : Word) : State :=
  let a := (regGet s (dbgWin w 0x14)).toNat
  let tile := accTile s w
  let x := if tile then dbgCap (BitVec.ofNat 128 (leNat (bufBytes s w 16))) else v.setWidth 128
  if (engGet s n).dbg.halted && regWritable tile a then dbgMap s n (fun d => { d with writes := d.writes ++ [(tile, a, x)] })
  else errSet s w 1

/-- The access that a write of DBG[w].DATA performs on engine `n`. -/
def dbgWriteOne (s : State) (w n : Nat) (v : Word) : State :=
  match accSpace s w with
  | 0 => dbgWriteMem s w n v
  | 1 => dbgWriteMicro s w n v
  | 2 => dbgWriteMicro s w n v
  | 3 => dbgWriteReg s w n v
  | _ => errSet s w 1

/-- A write of DBG[n].DATA (R489): the writes that a window refuses set ERR.ACCERR (R490). -/
def dbgWrite (s : State) (n : Nat) (v : Word) : State :=
  if !dbgReach s n then lockRej s
  else if 64 ≤ n then errSet (lockRej s) n 1
  else if dbgReadOnly s n then errSet s n 1
  else
    forNats (dbgPair s n) (fun z m => dbgWriteOne z n m v) s

/-- DEBUG_DATA_WRITE, R489. -/
def execDebugDataWrite (n : Nat) (v : Word) (s : State) : Host.Outcome State Fault Refusal :=
  if n < 67 ∧ hostUp s = true then .next (dbgWrite s n v) else .next s

/-! Terminals (R492). -/

/-- Whether the terminal of window `n` answers: also while debug is locked, except in windows 64 and 65. -/
def termReach (s : State) (n : Nat) : Bool := if isSettEng n then settDbg s else decide (n < 67)

/-- The read of DBG[n].TTX by the host, or by a consume access. -/
def ttxTake (s : State) (n : Nat) : State := forNats (dbgPair s n) (fun z m => engMap z m (fun e => { e with dtxf := false })) s

/-- TERMINAL_TX_READ, R492. -/
def execTerminalTxRead (n : Nat) (s : State) : Host.Outcome State Fault Refusal :=
  if 67 ≤ n ∨ hostUp s = false then .next s
  else if termReach s n then .next (ttxTake { s with hostRd := (engGet s n).dtx.setWidth 64 } n)
  else .next { lockRej s with hostRd := 0 }

/-- A write of DBG[n].TRX. Debug never writes registers of the Sett, so windows 64 and 65 take none (R375). -/
def trxWrite (s : State) (n : Nat) (v : Word) : State :=
  if !termReach s n || isSettEng n then lockRej s
  else if dbgReadOnly s n then s
  else if (engGet s n).drxf then cntAdd s (dbgWin n 0x2C) 1
  else forNats (dbgPair s n) (fun z m => engMap z m (fun e => { e with drx := v, drxf := true })) s

/-- TERMINAL_RX_WRITE, R492. -/
def execTerminalRxWrite (n : Nat) (v : Word) (s : State) : Host.Outcome State Fault Refusal :=
  if n < 67 ∧ hostUp s = true then .next (trxWrite s n v) else .next s

/-! The unlock (R475, R476, Table 18.3). -/

/-- The block states in which an unlock may start. -/
def unlockState (b : BState) : Bool := b == .awaitImage || b == .verify || b == .run || b == .service || b == .hold

/-- The actions of the Sett and of the battery record at an unlock (R399, R476). -/
def settUnlock (s : State) (granted : Bool) : State :=
  if s.sett.st = 0 then s else settEvent s 6 0 0 (BitVec.ofNat 32 (b2n granted))

/-- Steps 1 and 2 of Table 18.3. With the seal open, the Sett goes on until it has been erased, and only then is it idle and the unlock
logged (R399). -/
def unlockStart (s : State) : State :=
  let granted := s.sett.open_
  let s1 := relAbandon s
  let s2 := if granted then holdFrom (stopOuter s1) else settUnlock (holdEnter s1) false
  { s2 with io := { s2.io with unlocking := true, settdbg := s2.io.settdbg || granted } }

/-- Whether a write of DBGG.UNLOCK while debug is locked starts nothing and is counted (R475, R536). -/
def unlockRefused (s : State) (v : Word) : Bool :=
  s.io.locked && !(v == 0x4B434C55 && unlockState s.bstate && !badgerDead s)

/-- A write of DBGG.UNLOCK (R475); one in the course of an unlock leaves that as it is, and once the Badger has halted an unlock is refused (R536). -/
def unlockWrite (s : State) (v : Word) : State :=
  if !s.io.locked then s
  else if unlockRefused s v then lockRej s
  else if s.io.unlocking then s
  else unlockStart s

/-- DEBUG_UNLOCK, R475. -/
def execDebugUnlock (v : Word) (s : State) : Host.Outcome State Fault Refusal :=
  if hostUp s then .next (unlockWrite s v) else .next s

/-- The SRAM of a scan engine cleared (Table 11.1). -/
def engErase (s : State) (n : Nat) : State :=
  engMap s n (fun e => { e with
    imem := [], dmem := [], valid := [], window := 0, uram0 := [], uram1 := [], dec0 := [], dec1 := [], filled0 := false,
    filled1 := false, inact := 0, dbgmod := false, ubank := false, inq := [], outq := [], scan := [], scanLost := [], disp := [] })

/-- The Badger's memories as its boot ROM gives them (Table 15.3, step 2). -/
def badgerLoad (s : State) : State :=
  engMap s 66 (fun e => { e with
    imem := memPut [] 0 ((List.range 0x10000).map Config.badgerMem),
    dmem := memPut [] 0 ((List.range 0x20000).map (fun i => Config.badgerMem (0x10000000 + i))), valid := [] })

/-- The SRAM of the Sett cleared, with its queues and the mailbox records (R399). The seal parameters are registers and stay (log 18). -/
def settWipe (s : State) : State :=
  let s1 := engErase (engErase s 64) 65
  let s2 := { s1 with
    store := { s1.store with sett := [], ctlEdge := s1.store.ctlEdge.filter (fun q => decide (q.1 < 2 ^ 17)) },
    cells := { s1.cells with flight := s1.cells.flight.filter (fun f => f.dest != 64 && f.dest != 116) },
    field := { s1.field with gwq := tblDel 6 s1.field.gwq } }
  let s3 := tilesClean (tilesClean (tilesClean s2 5 0) 5 1) 5 2
  settMap s3 (fun t => { t with work := [], publ := [] })

/-- The Sett erased, after which it enters IDLE and the unlock is logged (R399): the published copy is marked as at every entry into IDLE
(R387), and an open seal closes (R389). -/
def settErase (s : State) : State := settUnlock (settIdle (enginesStop (settWipe s) [64, 65])) true

/-- Step 3 of Table 18.3 outside the Sett: every SRAM but the fault log, and the reference table. -/
def sramErase (s : State) : State :=
  let s1 := forNats ((s.eng.map (·.1)).filter (fun n => decide (n < 64) || n == 66)) engErase s
  let s2 := { s1 with
    store := { s1.store with recs := [], ctl := [], lockGone := [],
                             ctlEdge := s1.store.ctlEdge.filter (fun q => decide (2 ^ 17 ≤ q.1)) },
    cells := { s1.cells with hostq := [], flight := s1.cells.flight.filter (fun f => f.dest == 64 || f.dest == 116) },
    pub := { s1.pub with late := [], histq := [] },
    field := { s1.field with gwq := s1.field.gwq.filter (fun q => decide (6 ≤ q.1)) },
    chain := { s1.chain with port0 := { s1.chain.port0 with buf := [] }, port1 := { s1.chain.port1 with buf := [] } },
    mbx := { s1.mbx with req := [], resp := [] },
    trc := (s1.trc.map (fun q : Nat × Trc => (q.1, { q.2 with buf := [] }))).filter (fun q => decide (q.2 ≠ ({} : Trc))),
    mem := { s1.mem with staging := [], refs := [], bad := s1.mem.bad.filter (fun k => decide (k / 2 ^ 29 = 5)) } }
  badgerLoad s2

/-- DEBUG_UNLOCK_DONE, R475: steps 3 to 5 of Table 18.3. -/
def execDebugUnlockDone (blocks : List (List Byte)) (s : State) : Host.Outcome State Fault Refusal :=
  if s.io.unlocking = true ∧ badgerDead s = false then
    let s1 := sramErase (if s.io.settdbg then settErase s else s)
    let s2 := forNats ((List.range 67).filter (fun n => s.io.settdbg || !isSettEng n)) (fun z n => bankFill z n z.mem.vet)
      (vetAccept s1 blocks)
    let s3 := setBState s2 .awaitImage
    .next { s3 with io := { s3.io with unlocking := false, locked := false } }
  else .next s

end Sys2Proof.Machine
end

