-- ==== Sys2Proof/Machine/Regs.lean ====
section
/-! DEFINITION. The host window (R5 to R11, R501 to R503): what each offset reads as, what a host read and a host write of it do,
and the commands of the host port. -/

namespace Sys2Proof.Machine

/-- The regions of Table 19.1. -/
def winMapped (a : Nat) : Bool :=
  decide (a < 0x118000) || decide (0x180000 ≤ a ∧ a < 0x188000) || decide (0x200000 ≤ a ∧ a < 0x243000) ||
  decide (0x400000 ≤ a ∧ a < 0x408000) || decide (0x600000 ≤ a ∧ a < 0x700000) ||
  decide (0x1000000 ≤ a ∧ a < 0x1200000) || decide (0x2000000 ≤ a ∧ a < 0x3000000)

/-- The low words of the 64-bit registers (R6). -/
def isLow64 (a : Nat) : Bool :=
  hasNat a [0x6008, 0x6010, 0x6018, 0x6048, 0xB000, 0xB008, 0x10008, 0x10010, 0x10018, 0x10020, 0x10038, 0x10040] ||
  a == 0x180C18 || isRow 0x400018 0x1000 8 a

/-- The switched power domain that holds the register at an offset (Table 17.1); none for the domains that are always on. -/
def regDomain (a : Nat) : Option Nat :=
  if 0x20000 ≤ a ∧ a < 0x40000 then some 83
  else if 0xC0100 ≤ a ∧ a < 0xC0180 then some (81 + (a - 0xC0100) / 0x40)
  else if 0x100000 ≤ a ∧ a < 0x118000 then (if 0x100 ≤ a % 0x4000 ∧ a % 0x4000 < 0x1000 then none else some (72 + (a - 0x100000) / 0x4000))
  else if 0x180000 ≤ a ∧ a < 0x184000 then some 78
  else if 0x184000 ≤ a ∧ a < 0x188000 then (if 0x100 ≤ a % 0x4000 ∧ a % 0x4000 < 0x1000 then none else some 79)
  else if 0x400000 ≤ a ∧ a < 0x408000 then some (64 + (a - 0x400000) / 0x1000)
  else if 0x600000 ≤ a ∧ a < 0x700000 then some (64 + (a - 0x600000) / 0x20000)
  else if 0x1000000 ≤ a ∧ a < 0x1200000 then some 85
  else if 0x2000000 ≤ a ∧ a < 0x3000000 then some (64 + (a - 0x2000000) / 0x200000)
  else none

/-- Whether the domain of an offset is on. -/
def regOn (s : State) (a : Nat) : Bool := match regDomain a with | some d => domStat s d == 1 | none => true

/-- One half of a 64-bit value: the high word when `hi`. -/
def half (hi : Bool) (v : W64) : Word := if hi then (v >>> 32).setWidth 32 else v.setWidth 32

/-! Reading. -/

/-- The code of a block state (Table 16.1). -/
def bstateCode (b : BState) : Nat :=
  match b with
  | .off => 0
  | .reset => 1
  | .keeperBoot => 2
  | .awaitImage => 3
  | .verify => 4
  | .run => 5
  | .service => 6
  | .hold => 7

/-- The cell at the head of the host cell queue, as a debug read shows it. -/
def hostqHead (s : State) : W128 := (s.cells.hostq.head?).getD fillCell

/-- PUB.STATUS (Table 4.11): zero until the first edge. -/
def pubStatus (s : State) : Word :=
  let b := if s.pub.n = 0 ∧ s.pub.edgeTime = 0 then (0, 0) else (s.pub.n.toNat % 2, (s.pub.n.toNat + 1) % 2)
  BitVec.ofNat 32 (4 * b2n (!s.pub.late.isEmpty) + 2 * b.1 + b.2)

/-- A register of the pipeline block (Table 9.3). -/
def pipePeek (s : State) (n o a : Nat) : Word :=
  if isSettEng n then 0
  else match o with
    | 0x10 => (engGet s n).suspadr
    | 0x18 => pstatWord (engGet s n)
    | _ => cntGet s a

/-- A register of the microcode block of engine `n` (Tables 10.16 and 10.17). -/
def ucPeek (s : State) (n o a : Nat) : Word :=
  let e := engGet s n
  if isSettEng n then 0
  else match o with
    | 0x00 => BitVec.ofNat 32 (128 * b2n e.dbgmod + 64 * b2n e.swapPend + 16 * e.inact + b2n e.ubank)
    | 0x04 => if e.idKnown then bankId (bankOfEng e e.ubank) else 0
    | 0x08 => if e.inact = 0 then 0 else bankId (bankOfEng e (!e.ubank))
    | _ => cntGet s a

/-- REL.STATUS (Table 15.11). -/
def relStatus (s : State) : Word :=
  let r := s.rel
  BitVec.ofNat 32 (r.lastst * 2 ^ 16 + r.fcause * 2 ^ 12 + b2n r.ambiguous * 256 + r.srcForce * 64 + r.phase)

/-- SVC.STATUS (Table 16.9). -/
def svcStatus (s : State) : Word :=
  let next := match s.tick.pend with
    | some c => c.profile.getD s.svc.profile
    | none => 0
  BitVec.ofNat 32 (next * 2 ^ 12 + s.svc.profile * 256 + bstateCode s.bstate)

/-- SVC.ENG[n] (Table 16.10). -/
def svcEngWord (s : State) (n : Nat) : Word :=
  let v := svcEng s n
  BitVec.ofNat 32 (v.succ * 256 + b2n v.moved * 128 + v.st)

/-- DBGG.STATUS (Table 18.12). -/
def dbggStatus (s : State) : Word :=
  BitVec.ofNat 32 (8 * b2n s.io.settdbg + 4 * b2n s.io.unlocking + 2 * b2n s.io.fused + b2n s.io.locked)

/-- The KCTL region from 0x4000 to 0x8FFF (Tables 3.9, 4.9, 8.5, 9.3). -/
def kctlLow (s : State) (a : Nat) : Word :=
  if 0x5000 ≤ a ∧ a < 0x5800 ∧ a % 0x20 = 0 then
    let e := engGet s ((a - 0x5000) / 0x20)
    BitVec.ofNat 32 (e.outq.length * 2 ^ 16 + e.inq.length)
  else if 0x8000 ≤ a ∧ a < 0x8000 + 67 * 0x20 then pipePeek s ((a - 0x8000) / 0x20) (a % 0x20) a
  else match a with
    | 0x4000 => (match s.tick.agePending with | some v => v.setWidth 32 | none => regGet s a)
    | 0x4014 => BitVec.ofNat 32 s.cells.hostq.length
    | 0x4020 => (hostqHead s).setWidth 32
    | 0x4024 => (s.cells.hostCap >>> 32).setWidth 32
    | 0x4028 => (s.cells.hostCap >>> 64).setWidth 32
    | 0x402C => (s.cells.hostCap >>> 96).setWidth 32
    | 0x6004 => pubStatus s
    | 0x6044 => s.pub.hseq
    | 0x6050 => BitVec.ofNat 32 s.pub.histq.length
    | _ => regGet s a ||| cntGet s a

/-- The KCTL region from 0x9000 to 0xFFFF (Tables 10.16, 11.4, 15.10, 16.8, 18.12). -/
def kctlHigh (s : State) (a : Nat) : Word :=
  if 0x9100 ≤ a ∧ a < 0x9100 + 67 * 0x20 then ucPeek s ((a - 0x9100) / 0x20) (a % 0x20) a
  else if 0xC100 ≤ a ∧ a < 0xC200 then svcEngWord s ((a - 0xC100) / 4)
  else if 0xC200 ≤ a ∧ a < 0xC220 then BitVec.ofNat 32 (cluMir s ((a - 0xC200) / 4))
  else match a with
    | 0x9000 => romVer
    | 0x9004 => BitVec.ofNat 32 (goldCount s)
    | 0x900C => BitVec.ofNat 32 s.mem.lastst
    | 0xA008 => s.mem.lastadr
    | 0xB018 => relStatus s
    | 0xB01C => BitVec.ofNat 32 (s.rel.genOther * 2 ^ 16 + s.rel.genForce)
    | 0xB020 => s.rel.bcrcForce
    | 0xB024 => BitVec.ofNat 32 s.rel.copied
    | 0xB028 => BitVec.ofNat 32 s.rel.failtile
    | 0xC000 => svcStatus s
    | 0xD000 => dbggStatus s
    | 0xD010 => 0x0B9B0001
    | _ => regGet s a ||| cntGet s a

/-- A register of the KTCK region (Tables 2.4 to 2.8). With no change pending, TCK.NEXTN and TCK.NEXTUNITS read 0 (DESIGN CHOICE:
R35 gives their contents only while one is). -/
def ktckPeek (s : State) (a : Nat) : Word :=
  let t := s.tick
  match a with
  | 0x10000 =>
    BitVec.ofNat 32 (128 * b2n (decide (t.slew ≠ 0)) + 64 * b2n t.pend.isSome +
      32 * b2n (t.running && isFastloop s && decide (t.subtick ≠ 0)) + 16 * b2n t.running)
  | 0x10008 => half false (ktb s)
  | 0x1000C => half true (ktb s)
  | 0x10010 => half false t.tickn
  | 0x10014 => half true t.tickn
  | 0x10018 => half false t.phase
  | 0x1001C => half true t.phase
  | 0x10020 => half false t.basen
  | 0x10024 => half true t.basen
  | 0x10028 => BitVec.ofNat 32 t.units
  | 0x1002C => BitVec.ofNat 32 t.reserve
  | 0x10030 => BitVec.ofNat 32 t.subtick
  | 0x10034 => if t.units = 0 then 0 else BitVec.ofNat 32 (budgetOf t.units t.reserve (isFrugal s))
  | 0x10038 => half false t.slew
  | 0x1003C => half true t.slew
  | 0x10040 => (match t.pend with | some c => half false c.m | none => 0)
  | 0x10044 => (match t.pend with | some c => half true c.m | none => 0)
  | 0x10048 => (match t.pend with | some c => BitVec.ofNat 32 c.units | none => 0)
  | _ => cntGet s a

/-- A register of the KEVH region (Tables 12.3 to 12.10); a read of CLAIM here shows the offer and delivers nothing (R11). -/
def kevhPeek (s : State) (a : Nat) : Word :=
  let o := a - 0x20000
  if o = 4 then BitVec.ofNat 32 (hubPending s)
  else if 0x5000 ≤ o ∧ o < 0x6000 then srcStat s ((o - 0x5000) / 4)
  else if 0x6000 ≤ o ∧ o < 0x6080 then tblGet 0 ((o - 0x6000) % 0x40 / 4) s.hub.sw
  else if 0x7000 ≤ o ∧ o < 0x7900 ∧ o % 0x20 = 4 then tgtStat s ((o - 0x7000) / 0x20)
  else if 0x7A00 ≤ o ∧ o < 0x7A80 ∧ o % 0x10 = 0 then claimWord s ((o - 0x7A00) / 0x10)
  else if 0x7C00 ≤ o ∧ o < 0x8000 ∧ o % 0x10 = 4 then BitVec.ofNat 32 (holdRemain s ((o - 0x7C00) / 0x10))
  else regGet s a ||| cntGet s a

/-- The bytes of a fault record (Table 19.8). -/
def fltBytes (r : FltRec) : List Byte :=
  leBytes 8 r.time.toNat ++ leBytes 4 r.tick.toNat ++ leBytes 4 (r.cls + r.rep * 2 ^ 16) ++ leBytes 4 r.source.toNat ++
    leBytes 4 r.arg0.toNat ++ leBytes 4 r.arg1.toNat ++ leBytes 4 r.fseq.toNat

/-- A completion entry as HMB.CPL shows it (Table 19.14). -/
def cplWord (s : State) : Word :=
  match s.mbx.cpl with
  | [] => 0
  | (tag, st) :: _ => BitVec.ofNat 32 (2 ^ 31 + st * 2 ^ 16 + tag)

/-- A register of the KMBX region (Tables 19.11 to 19.14). -/
def kmbxPeek (s : State) (a : Nat) : Word :=
  let o := a - 0x40000
  let m := s.mbx
  if 0x1000 ≤ o ∧ o < 0x2000 then memWord m.req (o - 0x1000)
  else if 0x2000 ≤ o ∧ o < 0x3000 then (if m.busy then 0 else memWord m.resp (o - 0x2000))
  else if 0x8000 ≤ o ∧ o < 0x10000 then
    (match m.log[(o - 0x8000) / 32]? with | some r => bytesWord (fltBytes r) (o % 32) | none => 0)
  else match o with
    | 0x0000 => m.cmd
    | 0x0008 => BitVec.ofNat 32 (b2n m.busy * 2 ^ 31 + m.status * 2 ^ 16 + m.tag)
    | 0x000C => BitVec.ofNat 32 m.reslen
    | 0x0010 => cplWord s
    | 0x0014 => BitVec.ofNat 32 m.inflight
    | 0x0100 => BitVec.ofNat 32 m.log.length
    | 0x0108 => m.fseq
    | _ => cntGet s a

/-- A register of the KPWR region (Tables 17.6 to 17.8). -/
def kpwrPeek (s : State) (a : Nat) : Word :=
  let o := a - 0x80000
  if o = 0 then BitVec.ofNat 32 (b2n s.svc.lowv)
  else if 0x100 ≤ o ∧ o < 0x100 + 86 * 4 then BitVec.ofNat 32 (domStat s ((o - 0x100) / 4))
  else if 0x400 ≤ o ∧ o < 0x400 + 86 * 4 then BitVec.ofNat 32 (b2n (!hasNat ((o - 0x400) / 4) s.svc.reqOff))
  else if 0x800 ≤ o ∧ o < 0xC00 ∧ o % 16 = 4 then pwrEngStat s ((o - 0x800) / 16)
  else regGet s a ||| cntGet s a

/-- A register of the KCHN region (Tables 3.13 to 3.17). -/
def kchnPeek (s : State) (a : Nat) : Word :=
  let c := s.chain
  let link (x : Port) : Word := BitVec.ofNat 32 (8 * b2n x.training + x.lanes)
  match a with
  | 0xC0004 =>
    BitVec.ofNat 32 (c.unit * 2 ^ 24 + c.units * 2 ^ 16 + 4 * b2n (c.port0.up && c.port1.up && !c.brkValid) +
      2 * b2n c.port1.up + b2n c.port0.up)
  | 0xC0008 => BitVec.ofNat 32 (128 * b2n c.brkValid + c.brkUnit)
  | 0xC0100 => link c.port0
  | 0xC0140 => link c.port1
  | _ => regGet s a ||| cntGet s a

/-- A register of the KSET region (Table 14.4): the copies of the battery record show it once the Sett has used it. -/
def ksetPeek (s : State) (a : Nat) : Word :=
  let o := a - 0x180000
  if o < 0x1000 then mbxWord s false o
  else if o = 0x1000 then BitVec.ofNat 32 s.sett.paridx
  else if 0x1040 ≤ o ∧ o < 0x1060 then (if s.sett.batSeen then bytesWord (batHeader s) (o - 0x1040) else 0)
  else if 0x2000 ≤ o ∧ o < 0x2400 then (if s.sett.batSeen then settLogWord s (o - 0x2000) else 0)
  else if 0x4000 ≤ o then bankPeek s 6 (o - 0x4000)
  else cntGet s a

/-- DBG[n].STAT (Table 18.16). -/
def dbgStat (s : State) (n : Nat) : Word :=
  let d := (engGet s n).dbg
  BitVec.ofNat 32 (d.cause * 16 + 8 * b2n d.intrap + 4 * b2n d.lockheld + 2 * b2n d.pending + b2n d.halted)

/-- A register of the window of engine `n`, other than DATA (Table 18.14). -/
def dbgPeek (s : State) (n o : Nat) : Word :=
  let e := engGet s n
  if 0x40 ≤ o ∧ o < 0x80 then memWord s.io.tilebuf (64 * n + (o - 0x40))
  else match o with
    | 0x04 => dbgStat s n
    | 0x08 => 0
    | 0x0C => e.dbg.hpc
    | 0x1C => BitVec.ofNat 32 (tblGet 0 n s.io.err)
    | 0x20 => e.dtx
    | 0x28 => BitVec.ofNat 32 (2 * b2n e.drxf + b2n e.dtxf)
    | _ => regGet s (dbgWin n o) ||| cntGet s (dbgWin n o)

/-- A register of the KTRC region (Tables 18.18 and 18.19). -/
def ktrcPeek (s : State) (a : Nat) : Word :=
  let t := trcGet s ((a - 0x400000) / 0x1000)
  match a % 0x1000 with
  | 0x004 => BitVec.ofNat 32 (128 * b2n (!sinkFree s ((a - 0x400000) / 0x1000)) + t.fifo.length)
  | 0x008 => BitVec.ofNat 32 t.wptr
  | 0x024 => BitVec.ofNat 32 t.dwptr
  | _ => regGet s a ||| cntGet s a

/-- The word of a record of the context-store view at an offset of the view. -/
def viewWord (s : State) (o : Nat) : Word := recWord (recGet s (o / 128)) (o % 128)

/-- Whether the tile at an offset of the view fails in MIRRORED while its twin passes: the twin is read (R121, R321). -/
def viewTwin (s : State) (o : Nat) : Bool :=
  isMirrored s && recTileBad s (o / 128) (o % 128 / 64) && !recTileBad s (mirrorOf (o / 128)) (o % 128 / 64)

/-- Whether the record tile at an offset of the view fails, after its twin has been asked in MIRRORED (R321). -/
def viewBad (s : State) (o : Nat) : Bool := recTileBad s (o / 128) (o % 128 / 64) && !viewTwin s o

/-- The word of the view that a debug read of an offset gets. -/
def viewRead (s : State) (o : Nat) : Word := viewWord s (if viewTwin s o then o ^^^ 0x200000 else o)

/-- The word at a window offset that is a multiple of 4, as a read without side effect shows it (R9, R11); DBG[n].DATA apart. -/
def winPeek (s : State) (a : Nat) : Word :=
  if !regOn s a then (if 0x1000000 ≤ a ∧ a < 0x1200000 then 0xFFFFFFFF else 0)
  else if a < 0x9000 then kctlLow s a
  else if a < 0x10000 then kctlHigh s a
  else if a < 0x20000 then ktckPeek s a
  else if a < 0x40000 then kevhPeek s a
  else if a < 0x80000 then kmbxPeek s a
  else if a < 0xC0000 then kpwrPeek s a
  else if a < 0x100000 then kchnPeek s a
  else if a < 0x118000 then bankPeek s ((a - 0x100000) / 0x4000) ((a - 0x100000) % 0x4000)
  else if 0x180000 ≤ a ∧ a < 0x188000 then ksetPeek s a
  else if 0x200000 ≤ a ∧ a < 0x243000 then dbgPeek s ((a - 0x200000) / 0x1000) (a % 0x1000)
  else if 0x400000 ≤ a ∧ a < 0x408000 then ktrcPeek s a
  else if 0x600000 ≤ a ∧ a < 0x700000 then
    ((tblGet 0 ((a - 0x600000) % 0x20000 / 16) (trcGet s ((a - 0x600000) / 0x20000)).buf) >>> (8 * (a % 16))).setWidth 32
  else if 0x1000000 ≤ a ∧ a < 0x1200000 then
    (if tileBad s 3 0 ((a - 0x1000000) / 64) then 0xFFFFFFFF else memWord s.mem.staging (a - 0x1000000))
  else if 0x2000000 ≤ a ∧ a < 0x3000000 then
    (if viewBad s (a - 0x2000000) then 0xFFFFFFFF else viewRead s (a - 0x2000000))
  else 0

/-- What the check of a tile leaves when the host or debug reads a tiled region of the window (R317, R320, R321). -/
def winSeen (s : State) (a reader : Nat) : State :=
  if !regOn s a then s
  else if 0x1000000 ≤ a ∧ a < 0x1200000 then
    (if tileBad s 3 0 ((a - 0x1000000) / 64) then tileDetect s 3 0 ((a - 0x1000000) / 64) reader else s)
  else if 0x2000000 ≤ a ∧ a < 0x3000000 then (recTileRead s ((a - 0x2000000) / 128) (a % 128 / 64) reader).2
  else s

/-! The debug lock at the window (R474, R477, R478). -/

/-- Whether a host access at an offset is refused because of the lock. -/
def hostRefused (s : State) (a : Nat) : Bool :=
  if 0x200000 ≤ a ∧ a < 0x243000 then
    let n := (a - 0x200000) / 0x1000
    if isSettEng n then !settDbg s
    else !dbgOpen s && !hasNat (a % 0x1000) [0x04, 0x20, 0x24, 0x28, 0x2C]
  else if (0x400000 ≤ a ∧ a < 0x408000) ∨ (0x2000000 ≤ a ∧ a < 0x3000000) then !dbgOpen s
  else false

/-- Whether an access of the Sarern wire is refused: while debug is locked it reaches only the DBGG registers. -/
def wireRefused (s : State) (a : Nat) : Bool :=
  (!dbgOpen s && !decide (0xD000 ≤ a ∧ a < 0xE000)) || hostRefused s a

/-- Whether a write by the wire is refused (R472): what the lock refuses, a write of DBGG.UNLOCK that starts nothing (R475), and the
writes that windows 64 to 66 do not take (R375, R477, R478). -/
def wireWriteRefused (s : State) (a : Nat) (v : Word) : Bool :=
  let n := (a - 0x200000) / 0x1000
  let late := decide (0x240000 ≤ a ∧ a < 0x243000)
  wireRefused s a || (a == 0xD004 && unlockRefused s v) || (late && decide (a % 0x1000 = 0x18)) ||
  (late && isSettEng n && decide (a % 0x1000 = 0x24)) ||
  (late && decide (a % 0x1000 = 0x08) && (field v 3 0 == 8 || (n == 66 && hasNat (field v 3 0) [1, 2, 4])))

/-! Reads with their side effects. -/

/-- A host read of the word at an offset: its value and what it leaves (R7, R11). -/
def winRead (s : State) (a reader : Nat) : Word × State :=
  if !regOn s a then (winPeek s a, s)
  else if a = 0x4020 then
    let z := hostqPop s
    (z.cells.hostCap.setWidth 32, z)
  else if isRow 0x4108 0x20 8 a || isRow 0x1012C 0x40 8 a then (cntGet s a, cntPut s a 0)
  else if isRow 0x27A00 0x10 8 a then (claimWord s ((a - 0x27A00) / 0x10), claimTake s ((a - 0x27A00) / 0x10))
  else if a = 0x40010 then
    (cplWord s, { s with mbx := { s.mbx with cpl := s.mbx.cpl.tail, inflight := s.mbx.inflight - min 1 s.mbx.cpl.length } })
  else if isRow 0x200020 0x1000 67 a then ((engGet s ((a - 0x200000) / 0x1000)).dtx, ttxTake s ((a - 0x200000) / 0x1000))
  else if isRow 0x200018 0x1000 67 a then
    let n := (a - 0x200000) / 0x1000
    let q := dbgRead s n
    (q.1, if accConsume s n then wakeEng q.2 n else q.2)
  else if isLow64 a then (winPeek s a, { s with capHigh := tblSet none a (some (winPeek s (a + 4))) s.capHigh })
  else if isLow64 (a - 4) then
    (match tblGet none (a - 4) s.capHigh with
     | some w => (w, s)
     | none => (winPeek s a, s))
  else (winPeek s a, winSeen s a reader)

/-! Writing. -/

/-- A plain register written with the bits of a mask (R9). -/
def maskPut (s : State) (a : Nat) (m v : Word) : State := regPut s a (v &&& m)

/-- A tick register, ignored while the generator runs (R61). -/
def tickWrite (s : State) (f : Tick → Tick) : State :=
  if s.tick.running then cntAdd s 0x1008C 1 else { s with tick := f s.tick }

/-- A slot register of a release, ignored in PRECHECK, COPY and VERIFY (R427). -/
def slotWrite (s : State) (t : State) : State :=
  if s.rel.phase = 1 ∨ s.rel.phase = 2 ∨ s.rel.phase = 3 then s else t

/-- REL.SIZEA and REL.SIZEB: a size that is no multiple of 64, or beyond 67,108,864, is not taken (R10). -/
def sizeWrite (s : State) (a : Nat) (v : Word) : State :=
  let n := field v 26 0
  if n % 64 = 0 ∧ n ≤ 67108864 then slotWrite s (regPut s a (BitVec.ofNat 32 n)) else s

/-- A 64-bit register set to a value in one step (R7); address bits that must be zero are taken as zero. -/
def wideSet (s : State) (a : Nat) (v : W64) : State :=
  let put (m : W64) : State := regPut (regPut s a ((v &&& ~~~m).setWidth 32)) (a + 4) ((v >>> 32).setWidth 32)
  if a = 0x6008 ∨ a = 0x6010 ∨ a = 0x6018 ∨ a = 0x6048 then
    (if bitAt (regGet s 0x6000) 0 || bitAt (regGet s 0x6040) 0 then s
     else put (if a = 0x6018 then 0x3F else if a = 0x6048 then 0xFFF else 0x1FFFFF))
  else if a = 0xB000 ∨ a = 0xB008 then slotWrite s (put 0xFFF)
  else if a = 0x10018 then tickWrite s (fun t => { t with phase := v })
  else if a = 0x10020 then tickWrite s (fun t => { t with basen := v })
  else if isRow 0x400018 0x1000 8 a then (if bitAt (regGet s (a - 0x18)) 0 then s else put 0xFFF)
  else s

/-- The write of a 64-bit register in one access; it discards the held low word (R7). -/
def wideWrite (s : State) (a : Nat) (v : W64) : State :=
  wideSet { s with heldLow := tblSet none a none s.heldLow } a v

/-- The present value of the low word of a 64-bit register. -/
def lowNow (s : State) (a : Nat) : Word := winPeek s a

/-- The write of the high word of a 64-bit register (R7). -/
def highWrite (s : State) (a : Nat) (v : Word) : State :=
  wideWrite s a (v ++ (tblGet none a s.heldLow).getD (lowNow s a))

/-- A KCTL register written. -/
def kctlWrite (s : State) (a : Nat) (v : Word) : State :=
  if isRow 0x4100 0x20 8 a then maskPut s a 1 v
  else if isRow 0x6100 0x20 8 a then maskPut s a 0xFFFF v
  else match a with
    | 0x4000 => if field v 7 0 = 0 then s else { s with tick := { s.tick with agePending := some (v.setWidth 8) } }
    | 0x6000 => maskPut s a 1 v
    | 0x6040 => maskPut s a 1 v
    | 0xA000 => maskPut s a 7 v
    | 0xA004 => if field v 15 0 < 16 then s else maskPut s a 0xFFFF v
    | 0xB010 => sizeWrite s a v
    | 0xB014 => sizeWrite s a v
    | 0xD004 => unlockWrite s v
    | 0xD008 => maskPut s a 0xFFFF v
    | 0xD00C => freezeStep s (maskPut s a 0x1FF3F v)
    | _ => s

/-- A KTCK register of 32 bits written (R61, Tables 2.7 and 2.8): reserved encodings keep the field. -/
def ktckWrite (s : State) (a : Nat) (v : Word) : State :=
  match a with
  | 0x1002C => tickWrite s (fun t => if field v 5 0 = 0 ∨ 50 < field v 5 0 then t else { t with reserve := field v 5 0 })
  | 0x10030 => tickWrite s (fun t => if 0 < field v 21 0 ∧ field v 21 0 < 40 then t else { t with subtick := field v 21 0 })
  | _ => s

/-- Ones written to EVH.SRC[x].STAT (Table 12.7). -/
def srcStatWrite (s : State) (x : Nat) (v : Word) : State :=
  let s1 := if bitAt v 0 then srcClearPend s x else s
  if bitAt v 1 then srcComplete s1 x true else s1

/-- A KEVH register written (Tables 12.3 to 12.10): an offer whose source is no longer eligible at its target is withdrawn (R338). -/
def kevhWrite (s : State) (a : Nat) (v : Word) : State :=
  let o := a - 0x20000
  if o = 0 then hubCtlWrite s v
  else if 0x1000 ≤ o ∧ o < 0x5000 then
    if o % 0x10 = 0 then srcCfgWrite s ((o - 0x1000) / 0x10) v
    else hubWithdraw (if o % 0x10 = 0xC then maskPut s a 0xFF v else regPut s a v)
  else if 0x5000 ≤ o ∧ o < 0x6000 then srcStatWrite s ((o - 0x5000) / 4) v
  else if 0x6000 ≤ o ∧ o < 0x6040 then swPut s ((o - 0x6000) / 4) (tblGet 0 ((o - 0x6000) / 4) s.hub.sw ||| v)
  else if 0x6040 ≤ o ∧ o < 0x6080 then swPut s ((o - 0x6040) / 4) (tblGet 0 ((o - 0x6040) / 4) s.hub.sw &&& ~~~v)
  else if 0x7000 ≤ o ∧ o < 0x7900 ∧ o % 0x20 = 0 then hubWithdraw (maskPut s a 0x11F v)
  else if 0x7A00 ≤ o ∧ o < 0x7A80 ∧ o % 0x10 = 4 then eoiWrite s ((o - 0x7A00) / 0x10) v
  else if 0x7C00 ≤ o ∧ o < 0x8000 ∧ o % 0x10 = 0 then hubWithdraw (maskPut s a 0x1FFFF v)
  else s

/-- A KMBX register written (R504): while BUSY is 1 the writes of CMD, GO and the request buffer are counted and ignored. -/
def kmbxWrite (s : State) (a : Nat) (v : Word) : State :=
  let o := a - 0x40000
  let mine := o = 0 ∨ o = 4 ∨ (0x1000 ≤ o ∧ o < 0x2000)
  if mine ∧ s.mbx.busy = true then cntAdd s 0x40030 1
  else if o = 0 then { s with mbx := { s.mbx with cmd := v &&& 0xFFFF00FF } }
  else if o = 4 then (if bitAt v 0 then { s with mbx := { s.mbx with busy := true } } else s)
  else if 0x1000 ≤ o ∧ o < 0x2000 then { s with mbx := { s.mbx with req := memPutWord s.mbx.req (o - 0x1000) v } }
  else s

/-- A KPWR register written (Tables 17.6 and 17.7). -/
def kpwrWrite (s : State) (a : Nat) (v : Word) : State :=
  if 0x80400 ≤ a ∧ a < 0x80400 + 86 * 4 then powerWrite s ((a - 0x80400) / 4) (bitAt v 0)
  else if isRow 0x80800 0x10 64 a then maskPut s a 0x00FF80FF v
  else s

/-- DBG[n].CTL: a freeze may begin or end with it. -/
def dbgCtlWrite (s : State) (n : Nat) (v : Word) : State := freezeStep s (maskPut s (dbgWin n 0) 0x1F v)

/-- A register of the window of engine `n` written (Table 18.14): the windows that are read only, or for reading, take only what
their rules allow (R477 to R479). -/
def dbgWinWrite (s : State) (n o : Nat) (v : Word) : State :=
  if o = 0x08 then cmdWrite s n v
  else if o = 0x18 then dbgWrite s n v
  else if o = 0x24 then trxWrite s n v
  else if dbgReadOnly s n then s
  else if 0x40 ≤ o ∧ o < 0x80 then
    { s with io := { s.io with tilebuf := memPutWord s.io.tilebuf (64 * n + (o - 0x40)) v } }
  else match o with
    | 0x00 => dbgCtlWrite s n v
    | 0x10 => maskPut s (dbgWin n o) 0x1F (if 4 ≤ field v 2 0 then (v &&& 0x18) ||| (regGet s (dbgWin n o) &&& 7) else v)
    | 0x14 => regPut s (dbgWin n o) v
    | 0x1C => { s with io := { s.io with err := tblSet 0 n (tblGet 0 n s.io.err &&& (3 - field v 1 0)) s.io.err } }
    | _ => s

/-- A KTRC register written (Tables 18.18 and 18.19). -/
def ktrcWrite (s : State) (a : Nat) (v : Word) : State :=
  let k := (a - 0x400000) / 0x1000
  let o := a % 0x1000
  if o = 0 then trcCtlWrite s k v
  else if o = 0x20 then (if bitAt (trcCtl s k) 0 then s else maskPut s a 0xFFFFF000 v)
  else if o = 0x28 then maskPut s a 0xFFFFFFF0 v
  else if 0x40 ≤ o ∧ o < 0xC0 then
    (match o % 0x10 with
     | 0x0 => regPut s a v
     | 0x4 => regPut s a v
     | 0x8 => maskPut s a 7 v
     | _ => s)
  else if 0xC0 ≤ o ∧ o < 0xE0 then
    (match o % 0x10 with
     | 0x0 => maskPut s a 0x1FFFF v
     | 0x4 => maskPut s a 0x1FFFF v
     | 0x8 => maskPut s a 1 v
     | _ => s)
  else s

/-! The staging buffer and the context-store view. -/

/-- Whether a byte range of the staging buffer meets a block that a LOAD_UBANK still reads (R307). -/
def stageHeld (s : State) (o len : Nat) : Bool :=
  s.svc.acts.any (fun p => match p.act with
    | .loadUbank _ blocks => blocks.any (fun b => decide (o < b.1 + b.2 ∧ b.1 < o + len))
    | _ => false)

/-- Bytes written to one tile of the staging buffer by the host (R318, R319). -/
def stageTile (s : State) (o : Nat) (bs : List Byte) : State :=
  let put (z : State) : State := { z with mem := { z.mem with staging := memPut z.mem.staging o bs } }
  let t := o / 64
  if o % 64 = 0 ∧ bs.length = 64 then put (tileCure s 3 0 t)
  else if tileBad s 3 0 t then cntAdd (tileDetect s 3 0 t 6) 0xA030 1
  else put s

/-- A host access of `n` bytes at an offset that R8 does not reject: naturally aligned and at least 32 bits wide. -/
def alignedAccess (o n : Nat) : Bool := hasNat n [4, 8, 16, 32, 64] && o % n == 0

/-- A host write into the staging buffer: ignored while the domain is off, and over a block that a LOAD_UBANK holds. -/
def stageWrite (s : State) (o : Nat) (bs : List Byte) : State :=
  if domStat s 85 ≠ 1 then s
  else if stageHeld s o bs.length then cntAdd s 0x9010 1
  else stageTile s o bs

/-- A fault record of class HOST_ACCESS (R8, R502, Table 19.9). -/
def accessFault (s : State) (off size : Nat) (write : Bool) : State :=
  fltWrite s 1 (BitVec.ofNat 32 (off / 4 * 4)) (BitVec.ofNat 32 (b2n write + size * 16 + off % 4 * 2 ^ 16)) 0

/-- STAGING_BUFFER_WRITE, R318: an access that is not aligned has no effect and is recorded (R8). -/
def execStagingBufferWrite (off : Nat) (data : List Byte) (s : State) : Host.Outcome State Fault Refusal :=
  if hostUp s = true ∧ off + data.length ≤ 0x200000 ∧ 0 < data.length ∧ data.length ≤ 64 then
    .next (if alignedAccess off data.length then stageWrite s off data else accessFault s (0x1000000 + off) data.length true)
  else .next s

/-- Bytes written to one tile of the context-store view (R318, R319, R120). The cluster's copy of
ROUTINE.CTL follows commits and the Badger only (R110). -/
def viewTile (s : State) (reader o : Nat) (bs : List Byte) : State :=
  let i := o / 128
  let t := o % 128 / 64
  if o % 64 = 0 ∧ bs.length = 64 then halfPut s i t bs
  else recPutPart s i t reader (fun r => recPutBits r (o % 128) (8 * bs.length) (leNat bs))

/-- A host write to the context-store view (R503): a debug write, refused while debug is locked (R474). -/
def viewWrite (s : State) (reader o : Nat) (bs : List Byte) : State :=
  if !dbgOpen s then lockRej s
  else if domStat s (64 + o / 0x200000) ≠ 1 then s
  else viewTile s reader o bs

/-- CONTEXT_VIEW_WRITE, R503: an access that is not aligned has no effect and is recorded (R8). -/
def execContextViewWrite (off : Nat) (data : List Byte) (s : State) : Host.Outcome State Fault Refusal :=
  if hostUp s = true ∧ off + data.length ≤ 0x1000000 ∧ 0 < data.length ∧ data.length ≤ 64 then
    .next (if alignedAccess off data.length then viewWrite s 6 off data else accessFault s (0x2000000 + off) data.length true)
  else .next s

/-! The host port. -/

/-- A 32-bit write at a window offset, once the lock has let it pass. The low word of a 64-bit register is held whatever would become
of a write of the whole register now, so one written to PUB.BASE, PUB.HDR or HIST.BASE while its EN is 1 takes effect with a high
word that comes after EN has become 0 (DESIGN CHOICE: R136 ignores writes while EN is 1 and R7 holds low words without limit). -/
def winWrite (s : State) (a : Nat) (v : Word) : State :=
  if !regOn s a then s
  else if isLow64 a then { s with heldLow := tblSet none a (some v) s.heldLow }
  else if isLow64 (a - 4) && decide (4 ≤ a) then highWrite s (a - 4) v
  else if a < 0x10000 then kctlWrite s a v
  else if a < 0x20000 then ktckWrite s a v
  else if a < 0x40000 then kevhWrite s a v
  else if a < 0x80000 then kmbxWrite s a v
  else if a < 0xC0000 then kpwrWrite s a v
  else if a = 0xC0000 then chnCtlWrite s v
  else if 0x100000 ≤ a ∧ a < 0x118000 then bankPoke s ((a - 0x100000) / 0x4000) ((a - 0x100000) % 0x4000) v
  else if a = 0x181000 then settMap s (fun t => { t with paridx := field v 7 0 })
  else if a = 0x181004 then sealParWrite s v
  else if 0x200000 ≤ a ∧ a < 0x243000 then dbgWinWrite s ((a - 0x200000) / 0x1000) (a % 0x1000) v
  else if 0x400000 ≤ a ∧ a < 0x408000 then ktrcWrite s a v
  else if 0x1000000 ≤ a ∧ a < 0x1200000 then stageWrite s (a - 0x1000000) (leBytes 4 v.toNat)
  else if 0x2000000 ≤ a ∧ a < 0x3000000 then viewWrite s 6 (a - 0x2000000) (leBytes 4 v.toNat)
  else s

/-- A 32-bit host write. -/
def hostWrite (s : State) (a : Nat) (v : Word) : State := if hostRefused s a then lockRej s else winWrite s a v

/-- MISALIGNED_HOST_ACCESS, R8. -/
def execMisalignedHostAccess (off size : Nat) (write : Bool) (s : State) : Host.Outcome State Fault Refusal :=
  if hostUp s && (decide (size < 4) || off % size != 0) then
    .next (accessFault (if write then s else { s with hostRd := 0 }) off size write)
  else .next s

/-- UNMAPPED_HOST_ACCESS, R502. -/
def execUnmappedHostAccess (off size : Nat) (write : Bool) (s : State) : Host.Outcome State Fault Refusal :=
  if hostUp s && !winMapped off && decide (off < 0x4000000) then
    .next (accessFault (if write then s else { s with hostRd := 0 }) off size write)
  else .next s

/-- Whether an offset lies in a tiled region of the window. -/
def winTiled (a : Nat) : Bool := decide (0x1000000 ≤ a ∧ a < 0x1200000) || decide (0x2000000 ≤ a ∧ a < 0x3000000)

/-- An aligned 64-bit host write to a tiled region: one access, and one check of its tile (R317, R329). -/
def hostWriteTile (s : State) (a : Nat) (v : W64) : State :=
  if a < 0x1200000 then stageWrite s (a - 0x1000000) (leBytes 8 v.toNat) else viewWrite s 6 (a - 0x2000000) (leBytes 8 v.toNat)

/-- REGISTER_WRITE, R10: a 32-bit write, or an aligned 64-bit one; two 32-bit registers take a 64-bit write one after the other.
A write that R8 or R502 rejects is recorded. -/
def execRegisterWrite (off : Nat) (wide : Bool) (v : W64) (s : State) : Host.Outcome State Fault Refusal :=
  if !hostUp s then .next s
  else if off % (if wide then 8 else 4) ≠ 0 ∨ winMapped off = false then .next (accessFault s off (if wide then 8 else 4) true)
  else if wide then
    if isLow64 off then .next (if hostRefused s off then lockRej s else if regOn s off then wideWrite s off v else s)
    else if winTiled off then .next (hostWriteTile s off v)
    else .next (hostWrite (hostWrite s off (half false v)) (off + 4) (half true v))
  else .next (hostWrite s off (half false v))

/-- A 32-bit host read: what the lock refuses reads zero (R474). -/
def hostRead (s : State) (a : Nat) : Word × State := if hostRefused s a then (0, lockRej s) else winRead s a 6

/-- An aligned 64-bit host read: of a 64-bit register or of a tile in one access, which the lock refuses once, and otherwise of two
registers in turn (R7, R317, R474). -/
def hostReadWide (s : State) (a : Nat) : W64 × State :=
  if isLow64 a || winTiled a then
    (if hostRefused s a then (0, lockRej s) else (winPeek s (a + 4) ++ winPeek s a, winSeen s a 6))
  else
    let r := hostRead s a
    let q := hostRead r.2 (a + 4)
    (q.1 ++ r.1, q.2)

/-- The part of the KMBX region that is SRAM: the mailbox buffers and the fault log (Table 11.1). -/
def mbxSram (a : Nat) : Bool := decide (0x41000 ≤ a ∧ a < 0x43000) || decide (0x48000 ≤ a ∧ a < 0x50000)

/-- Whether a read at `a` shows an entry of these: the response buffer shows none while BUSY is 1 (R504), and FLT.VIEW none beyond
FLT.LEVEL (R518). -/
def mbxShown (s : State) (a : Nat) : Bool :=
  mbxSram a && !(s.mbx.busy && decide (0x42000 ≤ a ∧ a < 0x43000)) &&
    !decide (0x48000 ≤ a ∧ s.mbx.log.length ≤ (a - 0x48000) / 32)

/-- A host read of an entry of these that fails its parity (R315): the failure is recorded as one of the other memories of Table 19.9,
named by the word of the KMBX region, and the read returns an open value (DESIGN CHOICE: R315 lists no treatment of these
entries). -/
def mbxParity (s : State) (entry : Nat) : State :=
  let s1 := parityRecord s 5 entry entry
  { s1 with hostRd := (Config.parityWord s1.free).setWidth 64, free := s1.free + 1 }

/-- HOST_LOW_WORD_READ, R7: the read of the low word of a 64-bit register captures the high word. The table has no row for any other
aligned host read, so this one carries them (DESIGN CHOICE): the high word, whose read returns the captured value; with `wide`, 64
bits at once; and any other offset of the window. With `parity`, the entry of the mailbox buffer or of the fault log that is read fails
its parity (R315). -/
def execHostLowWordRead (off : Nat) (s : State) (wide : Bool := false) (parity : Bool := false) : Host.Outcome State Fault Refusal :=
  if !hostUp s || off % (if wide then 8 else 4) != 0 || !winMapped off then .next s
  else if parity && mbxShown s off then .next (mbxParity s (off / 4 - 0x10000))
  else if wide then .next { (hostReadWide s off).2 with hostRd := (hostReadWide s off).1 }
  else .next { (hostRead s off).2 with hostRd := (hostRead s off).1.setWidth 64 }

/-- HOST_LOW_WORD_WRITE, R7. -/
def execHostLowWordWrite (off : Nat) (v : Word) (s : State) : Host.Outcome State Fault Refusal :=
  if hostUp s && isLow64 off then .next (hostWrite s off v) else .next s

/-- HOST_HIGH_WORD_WRITE, R7: `off` is the offset of the high word. -/
def execHostHighWordWrite (off : Nat) (v : Word) (s : State) : Host.Outcome State Fault Refusal :=
  if hostUp s && decide (4 ≤ off) && isLow64 (off - 4) then .next (hostWrite s off v) else .next s

/-- HMB_CPL_READ, R510. -/
def execHmbCplRead (s : State) : Host.Outcome State Fault Refusal :=
  if hostUp s then .next { (winRead s 0x40010 6).2 with hostRd := (winRead s 0x40010 6).1.setWidth 64 } else .next s

end Sys2Proof.Machine
end

