-- ==== Sys2Proof/Machine/Wire.lean ====
section
/-! DEFINITION. The Sarern wire (R467 to R472). -/

namespace Sys2Proof.Machine

/-- The CRC-8 of Table 7.6 over bits sent most significant first (R470). -/
def crc8Bits (bs : List Bool) : Byte :=
  let c := crcSetOf 0x07000000 0x00000008
  ((bs.foldl (crcBit c) 0) >>> 24).setWidth 8

/-- The `n` bits of a number, most significant first. -/
def bitsOf (n v : Nat) : List Bool := ((List.range n).map (fun i => Nat.testBit v i)).reverse

/-- The answer on the wire: ACK and, for a read that is done, RDATA, with RSCRC (R470, R472). -/
def wireAnswer (s : State) (ack : Nat) (data : Option Word) : State :=
  let bs := bitsOf 4 ack ++ (match data with | some v => bitsOf 32 v.toNat | none => [])
  { s with io := { s.io with ack := ack, rdata := data.getD 0, rscrc := crc8Bits bs } }

/-- DONE, AGAIN and DENIED (Table 18.2). -/
def wireDone (s : State) (data : Option Word) : State := wireAnswer s 5 data
/-- AGAIN. -/
def wireAgain (s : State) : State := wireAnswer s 3 none
/-- DENIED. -/
def wireDenied (s : State) : State := wireAnswer s 6 none

/-- A request whose CRC is right goes on; any other is DENIED and counted (R472). -/
def wireCheck (s : State) (bits : List Bool) (crc : Byte) (k : State) : State :=
  if crc8Bits bits = crc then k else wireDenied (cntAdd s 0xD018 1)

/-- A word of a tiled region of the window as debug reads it (R321): a failing tile shows its data as stored, after its twin has been
asked in MIRRORED (R121, Table 11.2). -/
def wireTile (s : State) (a : Nat) : Word × State :=
  if a < 0x1200000 then
    let o := a - 0x1000000
    let w := memWord s.mem.staging o
    (if tileBad s 3 0 (o / 64) then failedWord (tileKey 3 0 (o / 64)) (o % 64) w else w, winSeen s a 5)
  else
    let o := a - 0x2000000
    let w := viewRead s o
    let j := liveCopy s (o / 128)
    (if viewBad s o then failedWord (tileKey 2 (homeOf j) (2 * (j % 2 ^ 14) + o % 128 / 64)) (o % 64) w else w, winSeen s a 5)

/-- A debug read of the word at an offset (R471, R11); a read of DBG[n].DATA with ACC.CONSUME = 1 wakes the engine (R461). -/
def wireRead (s : State) (a : Nat) : Word × State :=
  let n := (a - 0x200000) / 0x1000
  if !winMapped a then (0, accessFault s a 4 false)
  else if winTiled a && regOn s a then wireTile s a
  else if isRow 0x200018 0x1000 67 a then ((dbgRead s n).1, if accConsume s n then wakeEng (dbgRead s n).2 n else (dbgRead s n).2)
  else (winPeek s a, s)

/-- The consume access (R471): one of DBG[n].TTX wakes the engine (R461, R492). -/
def wireConsume (s : State) (a : Nat) : Word × State :=
  if !winMapped a then (0, accessFault s a 4 false)
  else if winTiled a && regOn s a then wireTile s a
  else if isRow 0x200020 0x1000 67 a then
    let n := (a - 0x200000) / 0x1000
    ((winRead s a 5).1, forNats (dbgPair s n) wakeEng (winRead s a 5).2)
  else winRead s a 5

/-- A read frame: its access `k`, made when the read completes before the first ACK cell (R472). -/
def wireReadFrame (s : State) (op addr : Nat) (crc : Byte) (inTime : Bool) (k : State → Nat → Word × State) : State :=
  wireCheck s (bitsOf 4 op ++ bitsOf 24 addr) crc
    (if wireRefused s (4 * addr) then wireDenied (lockRej s)
     else if inTime then wireDone (k s (4 * addr)).2 (some (k s (4 * addr)).1)
     else wireAgain s)

/-- SARERN_IDR, R470: a frame of 4 operation bits; a reserved OP is denied. -/
def execSarernIdr (op : Nat) (crc : Byte) (s : State) : Host.Outcome State Fault Refusal :=
  if hostUp s = false ∨ 16 ≤ op ∨ (2 ≤ op ∧ op ≤ 4) then .next s
  else .next (wireCheck s (bitsOf 4 op) crc (if op = 1 then wireDone s (some 0x0B9B0001) else wireDenied s))

/-- SARERN_RD, R471. -/
def execSarernRd (addr : Nat) (crc : Byte) (inTime : Bool) (s : State) : Host.Outcome State Fault Refusal :=
  if hostUp s = true ∧ addr < 2 ^ 24 then .next (wireReadFrame s 2 addr crc inTime wireRead) else .next s

/-- SARERN_RDC, R471. -/
def execSarernRdc (addr : Nat) (crc : Byte) (inTime : Bool) (s : State) : Host.Outcome State Fault Refusal :=
  if hostUp s = true ∧ addr < 2 ^ 24 then .next (wireReadFrame s 3 addr crc inTime wireConsume) else .next s

/-- SARERN_WR, R471: acts as a host write. One that is refused leaves only what the refusal counts (R472, R490). -/
def execSarernWr (addr : Nat) (v : Word) (crc : Byte) (s : State) : Host.Outcome State Fault Refusal :=
  let a := 4 * addr
  if hostUp s = true ∧ addr < 2 ^ 24 then
    .next (wireCheck s (bitsOf 4 4 ++ bitsOf 24 addr ++ bitsOf 32 v.toNat) crc
      (if wireRefused s a then wireDenied (lockRej s)
       else if wireWriteRefused s a v then wireDenied (hostWrite s a v)
       else wireDone (if winMapped a then hostWrite s a v else accessFault s a 4 true) none))
  else .next s

/-- A line error (R467, R469): the frame in progress is abandoned with no effect, and nothing answers. -/
def lineError (s : State) : State :=
  let s1 := cntAdd s 0xD014 1
  { s1 with io := { s1.io with ack := 15, rdata := 0, rscrc := 0 } }

/-- KDIO_LINE_ERROR, R467. -/
def execKdioLineError (s : State) : Host.Outcome State Fault Refusal := if hostUp s then .next (lineError s) else .next s

/-- SARERN_FRAME_HIGH_TIMEOUT, R469. -/
def execSarernFrameHighTimeout (s : State) : Host.Outcome State Fault Refusal :=
  if hostUp s then .next (lineError s) else .next s

end Sys2Proof.Machine
end

