-- ==== Sys2Proof/Machine/Mailbox.lean ====
section
/-! DEFINITION. The commands of the host mailbox (R504 to R512, R518, R520): acceptance in the order of Table 19.2, tags and
results, and the hand-over of deferred commands to the Badger. -/

namespace Sys2Proof.Machine

/-- HMB.CMD for a code and a length (Table 19.12). -/
def cmdOf (code len : Nat) : Word := BitVec.ofNat 32 (len % 65536 * 65536 + code % 256)

/-- The words of a payload as bytes of the request buffer. -/
def plBytes (pl : List Word) : List Byte := pl.flatMap (fun w => leBytes 4 w.toNat)

/-- The mailbox with a command submitted. Where BUSY is 1 already, a host write of HMB.GO has submitted one, and the row
decides it when it names its code. Otherwise the row writes the payload, HMB.CMD and HMB.GO itself (R504). -/
def mbxEnter (s : State) (code len : Nat) (pl : List Word) : Option State :=
  if hostUp s = false ∨ 65536 ≤ len then none
  else if s.mbx.busy then (if field s.mbx.cmd 7 0 = code then some s else none)
  else some { s with mbx := { s.mbx with cmd := cmdOf code len, busy := true,
                                         req := memPut s.mbx.req 0 ((plBytes pl).take 4096) } }

/-- The first `n` bytes of the request buffer as words. -/
def reqWords (s : State) (n : Nat) : List Word := (List.range (n / 4)).map (fun i => memWord s.mbx.req (4 * i))

/-- The block states and releases in which a command is allowed (R506, Table 19.3, R536). While an unlock erases, the Badger
takes none. -/
def cmdAllowed (s : State) (code : Nat) : Bool :=
  let always := hasNat code [0xD, 0x10, 0x11]
  if badgerDead s || s.io.unlocking then false
  else match s.bstate with
    | .off => false
    | .reset => false
    | .keeperBoot => false
    | .awaitImage => if s.rel.next.isSome then always || code == 2 else always || code == 1 || code == 0xC
    | .hold => if s.rel.next.isSome then always || code == 2 else always || code == 1 || code == 0xC
    | .verify => always || code == 2
    | .run => if s.rel.next.isSome then always || code == 2 else code != 0xC
    | .service => if s.rel.next.isSome then always || code == 2 else code != 0xC

/-- The commands that complete at acceptance (Table 19.3). -/
def atAcceptance (code : Nat) : Bool := hasNat code [0xD, 0x10, 0x11]

/-- Whether a word has no bit outside `mask`. -/
def onlyBits (w mask : Word) : Bool := w &&& ~~~mask == 0

/-- The length of Table 19.3. -/
def lenOf (code : Nat) (pl : List Word) : Nat :=
  match code with
  | 1 => 4
  | 3 => 12
  | 4 => 16
  | 5 => 4
  | 6 => 12
  | 7 => 20
  | 8 => 12 + 8 * field (plWord pl 2) 3 0
  | 9 => 16
  | 0xA => 8
  | 0xB => 4
  | 0x11 => 4
  | _ => 0

/-- A block named by LOAD_UBANK inside its encoding (Table 19.4). -/
def ubankBlockOk (b : Nat × Nat) : Bool :=
  b.1 % 64 == 0 && decide (256 ≤ b.2 ∧ b.2 ≤ 33024) && decide (b.1 + b.2 ≤ 2097152)

/-- Every field inside its encoding and every reserved bit zero (R412, R437, R449, Table 19.4). -/
def payloadOk (code : Nat) (pl : List Word) : Bool :=
  let w0 := plWord pl 0
  let w1 := plWord pl 1
  let w2 := plWord pl 2
  match code with
  | 1 => decide (w0.toNat < 2)
  | 3 => decide (w0.toNat ≤ 5)
  | 4 => decide (40 ≤ w0.toNat ∧ w0.toNat ≤ 4000000) && onlyBits w1 0x3FFFFF && (w1 == 0 || decide (40 ≤ w1.toNat))
  | 5 => onlyBits w0 0x37F && (!bitAt w0 8 || decide (field w0 6 0 < 8))
  | 6 => onlyBits w0 0x17F && decide (field w0 6 0 < 64) && (bitAt w0 8 || (w1 == 0 && w2 == 0))
  | 7 => onlyBits w0 0x7F && onlyBits w1 0x1FFFF && decide (w2.toNat ≤ 16384)
  | 8 => onlyBits w2 0xF && decide (field w2 3 0 ≤ 8) && (ubankBlocks pl).all ubankBlockOk
  | 0xA => onlyBits w0 0x80007F07 && decide (field w0 2 0 < 6) && onlyBits w1 0x3FFFFF
  | 0xB => onlyBits w0 0x80007F7F
  | 0x11 => decide (w0.toNat ≤ 1024)
  | _ => true

/-- The checks of Table 19.2 on the submitted command: the status of the first that fails, 0 when all pass. -/
def acceptStatus (s : State) : Nat :=
  let code := field s.mbx.cmd 7 0
  let len := field s.mbx.cmd 31 16
  let pl := reqWords s len
  if 4096 < len then 3
  else if code = 0 ∨ 0x11 < code then 4
  else if cmdAllowed s code = false then 2
  else if atAcceptance code = false ∧ 16 ≤ s.mbx.inflight then 5
  else if len ≠ lenOf code pl ∨ payloadOk code pl = false then 6
  else 0

/-- A command accepted: its tag, its status and the count (R509); `k` is what it does, and a deferred one is in flight
(R510). -/
def mbxAccept (s : State) (deferred : Bool) : State :=
  let t := s.mbx.nextTag
  let s1 := cntAdd s 0x40020 1
  { s1 with mbx := { s1.mbx with
      busy := false, status := b2n deferred, tag := t, nextTag := if t = 65535 then 1 else t + 1,
      inflight := s1.mbx.inflight + b2n deferred } }

/-- A deferred command: refused at acceptance, or accepted and taken up by the Badger (R511). -/
def mbxDeferred (s : State) (take : State → Nat → List Word → State) : State :=
  match acceptStatus s with
  | 0 => take (mbxAccept s true) s.mbx.nextTag (reqWords s (field s.mbx.cmd 31 16))
  | st => mbxRefuse s st

/-- A command that completes at acceptance, with the result that `k` leaves in the response buffer. -/
def mbxNow (s : State) (k : State → List Word → List Byte × State) : State :=
  match acceptStatus s with
  | 0 =>
    let r := k s (reqWords s (field s.mbx.cmd 31 16))
    let s1 := mbxAccept r.2 false
    { s1 with mbx := { s1.mbx with resp := memPut s1.mbx.resp 0 r.1, reslen := r.1.length } }
  | st => mbxRefuse s st

/-- The row of a deferred command. -/
def mbxRow (s : State) (code len : Nat) (pl : List Word) (take : State → Nat → List Word → State) : State :=
  match mbxEnter s code len pl with
  | none => s
  | some z => mbxDeferred z take

/-- The row of a command that completes at acceptance. -/
def mbxRowNow (s : State) (code len : Nat) (pl : List Word) (k : State → List Word → List Byte × State) : State :=
  match mbxEnter s code len pl with
  | none => s
  | some z => mbxNow z k

/-! The commands. -/

/-- RELEASE, R412 to R416. -/
def execRelease (len : Nat) (pl : List Word) (imgA imgB : SrcImage) (s : State) : Host.Outcome State Fault Refusal :=
  .next (mbxRow s 1 len pl (fun z t p => relChoose z t (plWord p 0).toNat imgA imgB))

/-- HOLD as the Badger takes it up (R425): a release in COPY or VERIFY, or in the PRECHECK of one begun in AWAIT_IMAGE or HOLD,
ends with the block in HOLD; in RUN or SERVICE the block enters HOLD at the next main edge. HOLD is no service action of
R430. -/
def holdTake (s : State) (tag : Nat) : State :=
  let s1 := relAbandon s
  if s1.bstate = .run ∨ s1.bstate = .service then svcActs s1 (s1.svc.acts ++ [{ tag := tag, act := .hold }])
  else hmbComplete (setBState s1 .hold) tag 0

/-- HOLD, R425. -/
def execHold (len : Nat) (pl : List Word) (s : State) : Host.Outcome State Fault Refusal :=
  .next (mbxRow s 2 len pl (fun z t _ => holdTake z t))

/-- SET_PROFILE, R437, R438. -/
def execSetProfile (len : Nat) (pl : List Word) (s : State) : Host.Outcome State Fault Refusal :=
  .next (mbxRow s 3 len pl setProfileTake)

/-- SET_TICK, R35, R43. -/
def execSetTick (len : Nat) (pl : List Word) (s : State) : Host.Outcome State Fault Refusal :=
  .next (mbxRow s 4 len pl setTickTake)

/-- RETIRE_ENGINE, R443. -/
def execRetireEngine (len : Nat) (pl : List Word) (s : State) : Host.Outcome State Fault Refusal :=
  .next (mbxRow s 5 len pl retireTake)

/-- RESTORE_ENGINE, R450. -/
def execRestoreEngine (len : Nat) (pl : List Word) (s : State) : Host.Outcome State Fault Refusal :=
  .next (mbxRow s 6 len pl restoreTake)

/-- MIGRATE, R449. -/
def execMigrate (len : Nat) (pl : List Word) (s : State) : Host.Outcome State Fault Refusal :=
  .next (mbxRow s 7 len pl migrateTake)

/-- LOAD_UBANK, R307. -/
def execLoadUbank (len : Nat) (pl : List Word) (s : State) : Host.Outcome State Fault Refusal :=
  .next (mbxRow s 8 len pl loadUbankTake)

/-- SWAP_UBANK, R310. -/
def execSwapUbank (len : Nat) (pl : List Word) (s : State) : Host.Outcome State Fault Refusal :=
  .next (mbxRow s 9 len pl swapUbankTake)

/-- RELOAD_TILE, R326. -/
def execReloadTile (len : Nat) (pl : List Word) (bytes : List Byte) (s : State) (refBad : Bool := false) : Host.Outcome State Fault Refusal :=
  .next (mbxRow s 0xA len pl (fun z t p => reloadTake z t p bytes refBad))

/-- REMAP_MOTH, R372. -/
def execRemapMoth (len : Nat) (pl : List Word) (s : State) : Host.Outcome State Fault Refusal :=
  .next (mbxRow s 0xB len pl remapTake)

/-- ENUMERATE_CHAIN, R95. -/
def execEnumerateChain (len : Nat) (pl : List Word) (s : State) : Host.Outcome State Fault Refusal :=
  .next (mbxRow s 0xC len pl (fun z t _ => enumerateTake z t))

/-- The result of SEAL_STATUS (R390). The index of the newest entry is a free value while the log holds none. -/
def sealResult (s : State) : List Byte :=
  let b := s.bat.hdr
  let newest : Word := if hdrHeld b = 0 then Config.noEntryIndex else BitVec.ofNat 32 ((hdrNext b + 31) % 32)
  plBytes [mbxStatus s, s.sett.settid, b.sealid, b.evcnt, b.parcrc, newest]

/-- SEAL_STATUS, R390. -/
def execSealStatus (len : Nat) (pl : List Word) (s : State) : Host.Outcome State Fault Refusal :=
  .next (mbxRowNow s 0xD len pl (fun z _ => (sealResult z, z)))

/-- OPEN_SEAL, R388. -/
def execOpenSeal (len : Nat) (pl : List Word) (s : State) : Host.Outcome State Fault Refusal :=
  .next (mbxRow s 0xE len pl (fun z t _ => openSealTake z t))

/-- CLOSE_SEAL, R389. -/
def execCloseSeal (len : Nat) (pl : List Word) (s : State) : Host.Outcome State Fault Refusal :=
  .next (mbxRow s 0xF len pl (fun z t _ => closeSealTake z t))

/-- Every counter and high-water register at zero (R520); the stamps CLU[k].LASTOVR stay. -/
def countersClear (s : State) : State := { s with cnt := s.cnt.filter (fun q => isRow 0x10128 0x40 8 q.1) }

/-- CLEAR_COUNTERS, R520. -/
def execClearCounters (len : Nat) (pl : List Word) (s : State) : Host.Outcome State Fault Refusal :=
  .next (mbxRowNow s 0x10 len pl (fun z _ => ([], countersClear z)))

/-- The result words of one fault record; those of a record that fails its parity are open values, by its place (R315). -/
def faultWords (s : State) (bad : List Nat) (r : FltRec) (i : Nat) : List Byte :=
  if hasNat i bad then plBytes ((List.range 8).map (fun j => Config.parityWord (s.free + 8 * i + j))) else fltBytes r

/-- Fault records taken out of the log, and the result that shows them (R518). -/
def faultsRead (s : State) (want : Nat) (bad : List Nat) : List Byte × State :=
  let n := min (min want 127) s.mbx.log.length
  let rest := s.mbx.log.drop n
  (plBytes [BitVec.ofNat 32 n, BitVec.ofNat 32 rest.length, cntGet s 0x40104, 0, 0, 0, 0, 0] ++
     (s.mbx.log.take n).zipIdx.flatMap (fun q => faultWords s bad q.1 q.2), { s with mbx := { s.mbx with log := rest } })

/-- The entries of the fault log that fail their parity as the Badger reads them, recorded as R315 gives: `bad` names their places. -/
def faultsParity (s : State) (bad : List Nat) : State :=
  if bad.isEmpty then s
  else bad.foldl (fun z i => parityRecord z 5 (0x2000 + 8 * i) i) { s with free := s.free + 8 * 127 }

/-- READ_FAULTS, R518; `bad` names the places of the records that fail their parity as they are read (R315). -/
def execReadFaults (len : Nat) (pl : List Word) (s : State) (bad : List Nat := []) : Host.Outcome State Fault Refusal :=
  .next (mbxRowNow s 0x11 len pl (fun z p =>
    let want := (plWord p 0).toNat
    let met := bad.filter (fun i => decide (i < min (min want 127) z.mbx.log.length))
    let q := faultsRead z want met
    (q.1, faultsParity q.2 met)))

/-- BADCMD_SUBMISSION, R505: a code that Table 19.3 does not list. -/
def execBadcmdSubmission (code len : Nat) (s : State) : Host.Outcome State Fault Refusal :=
  if (code = 0 ∨ 0x11 < code) ∧ code < 256 then .next (mbxRowNow s code len [] (fun z _ => ([], z))) else .next s

end Sys2Proof.Machine
end

