-- ==== Sys2Proof/Machine/BoundaryOps.lean ====
section
/-! DEFINITION. The signals of the boundary (R402 to R405, R522 to R529): power, block reset, the release and the boot of the
Badger, the BN9 time and its steps (R26 to R30, R524, R525), and the supply acknowledgement. -/

namespace Sys2Proof.Machine

/-! Power and reset. -/

/-- What outlives the loss of the block's power: the inputs, the battery record, DRAM, what the block has sent, and the model's
own fields. The Sett's queue of battery writes does not. -/
def kept (s : State) : State :=
  { State.reset with
    tick := { bn9 := s.tick.bn9 },
    field := { sync := s.field.sync, filt := s.field.sync, ext := s.field.ext, supAbsent := s.field.supAbsent,
               supFresh := s.field.supFresh },
    sett := { pin := s.sett.pin, pinAt := (pinRebase (ktb s) s.tick.bn9 s.sett).pinAt },
    bat := (batCut s).bat,
    svc := { lowv := s.svc.lowv },
    chain := { out := s.chain.out },
    io := { fused := s.io.fused, locked := s.io.fused, krst := s.io.krst, kbrel := s.io.kbrel, kdio := s.io.kdio,
            batloss := s.io.batloss, ksbOut := s.io.ksbOut },
    mem := { dram := s.mem.dram },
    free := (batCut s).free,
    pending := s.pending }

/-- OFF: every domain is off (R428, R454). -/
def powerLoss (s : State) : State :=
  let z := kept s
  let doms := (List.range 86).foldl (fun t d => tblSet 1 d 0 t) []
  { z with bstate := .off, sett := { z.sett with st := 0 }, svc := { z.svc with dom := doms } }

/-- The pads of every supply that is present work from the entry into RESET (R529). -/
def padsEnter (s : State) : State := { s with field := { s.field with supFresh := [] } }

/-- The SRAM of an engine; its registers, its predictor and its run control at their reset values. -/
def engKept (e : Engine) : Engine :=
  { imem := e.imem, dmem := e.dmem, valid := e.valid, window := e.window, uram0 := e.uram0, uram1 := e.uram1, dec0 := e.dec0,
    dec1 := e.dec1, filled0 := e.filled0, filled1 := e.filled1 }

/-- A block reset (R403): every register at its reset value. SRAM keeps its contents (R16) but for the fault log (R516), the
queues, the buffers that a register map gives a reset value, and the release reference table, which block reset changes (R323) and
which is then absent; KTB takes the BN9 time (R26). The reset is reported over KSB (R526). -/
def blockReset (s : State) : State :=
  let z := padsEnter (kept s)
  { z with
    eng := s.eng.foldl (fun t q => tblSet {} q.1 (engKept q.2) t) [],
    store := { recs := s.store.recs, ctl := s.store.ctl, sett := s.store.sett, lockGone := s.store.lockGone },
    trc := s.trc.foldl (fun t q => tblSet {} q.1 ({ buf := q.2.buf } : Trc) t) [],
    mem := { z.mem with staging := s.mem.staging, bad := s.mem.bad },
    io := { z.io with ksbOut := z.io.ksbOut + 1 } }

/-- POWER_ON, R402: OFF to RESET, with every domain on and cleared (R455). -/
def execPowerOn (s : State) : Host.Outcome State Fault Refusal :=
  if s.bstate = .off then .next (padsEnter (kept s)) else .next s

/-- BLOCK_POWER_OFF, R428. -/
def execBlockPowerOff (s : State) : Host.Outcome State Fault Refusal := .next (powerLoss s)

/-- BLOCK_RESET, R526: 0 a rise of KRSTREQ, 1 a BN9 reset, 2 a fall of KBREL, which in RESET is none. While the block is OFF only the
levels of the inputs change. -/
def execBlockReset (cause : Nat) (s : State) : Host.Outcome State Fault Refusal :=
  let s1 := { s with io := { s.io with krst := s.io.krst || cause == 0, kbrel := s.io.kbrel && cause != 2 } }
  if 3 ≤ cause then .next s
  else if s.bstate = .off then .next s1
  else if cause = 2 ∧ s.bstate = .reset then .next s1
  else .next (blockReset s1)

/-- KDIO_LONG_LOW, R467, R468. -/
def execKdioLongLow (s : State) : Host.Outcome State Fault Refusal :=
  if s.bstate = .off then .next s else .next (blockReset { s with io := { s.io with kdio := true } })

/-- The boot-ROM root of Table 5.5a. -/
def bootRoot : W128 := capMake 0x08000000 0x0800FFFF (2 ^ pLD + 2 ^ pEX + 2 ^ pSYS) 0

/-- The state in which the Badger starts (R144): its PCC is the boot-ROM root, and c1 to c5 hold its other roots in the order of
Table 5.5a; VBASE and ESTAT.COMPAT, which R144 takes from an image entry that the Badger does not have, are 0 (DESIGN CHOICE: no rule
says in which registers the boot finds its roots, nor with what VBASE and in which mode it starts). -/
def badgerEntry : EngEntry :=
  let roots : List W128 :=
    [capMake 0 0xFFFF (2 ^ pLD + 2 ^ pEX + 2 ^ pSYS) 0,
     capMake 0x10000000 0x1001FFFF (2 ^ pLD + 2 ^ pST + 2 ^ pLDC + 2 ^ pSTC) 0,
     capMake 0x50000000 0x50000FFF (2 ^ pLD) 0,
     capMake 0x80000000 0xFFFFFFFF (2 ^ pLD + 2 ^ pST) 0,
     capMake 1 0xFE (2 ^ pSEAL + 2 ^ pUNSEAL) 0]
  { pcc := bootRoot, caps := (List.range 5).foldl (fun t i => tblSet 0 (i + 1) (roots.getD i 0) t) [], vbase := 0, compat := false }

/-- BADGER_RELEASE, R526, R405: KBREL is high; `krst` and `kdio` say that KRSTREQ is high and KDIO low still, and the block then stays
in RESET. A ROM that fails its check stops the Badger, and the block stays in KEEPER_BOOT. -/
def execBadgerRelease (romOk : Bool) (s : State) (krst : Bool := false) (kdio : Bool := false) : Host.Outcome State Fault Refusal :=
  if s.bstate = .reset ∧ (krst || kdio) = true then
    .next { s with io := { s.io with krst := krst, kdio := kdio, kbrel := true } }
  else if s.bstate = .reset then
    let s1 := setBState { s with io := { s.io with krst := false, kdio := false, kbrel := true } } .keeperBoot
    if romOk then .next (badgerLoad (engineStart s1 66 badgerEntry))
    else .next { s1 with rel := { s1.rel with fcause := 7 } }
  else .next s

/-- SIDEBAND_READY, R404: the items of Table 15.2, and steps 4 and 5 of Table 15.3. -/
def execSidebandReady (blocks : List (List Byte)) (s : State) (keys : SideKeys := {}) : Host.Outcome State Fault Refusal :=
  if s.bstate = .keeperBoot ∧ s.rel.fcause ≠ 7 ∧ badgerDead s = false ∧ blocks.length ≤ 8 then
    .next (setBState (vetFill (vetAccept { s with io := { s.io with keys := keys } } blocks)) .awaitImage)
  else .next s

/-! Time. -/

/-- The slew after `c` ns of BN9 time: one less for every 256 ns (R30). -/
def slewShrink (t : Tick) (c : Nat) : Tick :=
  if t.slew = 0 then { t with slewAcc := 0 }
  else
    let a := t.slewAcc + c
    let k := a / 256
    if t.slew.toNat ≤ k then { t with slew := 0, slewAcc := 0 }
    else { t with slew := t.slew - BitVec.ofNat 64 k, slewAcc := a % 256 }

/-- The cycles of KCLK that one host cycle lasts counted for TCYC (Table 5.2). -/
def cyclesGo (s : State) : State :=
  let k := kclkEighths s
  { s with tick := { s.tick with
      cycMain := s.tick.cycMain + k, cycSub := s.tick.cycSub + k, cycSett := s.tick.cycSett + k } }

/-- A moment that lies after the present one counts as the present one. -/
def notAfter (now t : W64) : W64 := if now.ult t then now else t

/-- The same for a chain port. -/
def portNotAfter (now : W64) (x : Port) : Port := { x with upSince := x.upSince.map (notAfter now) }

/-- The same for an engine. -/
def engNotAfter (now : W64) (e : Engine) : Engine :=
  { e with waitFrom := notAfter now e.waitFrom, dbg := { e.dbg with since := notAfter now e.dbg.since } }

/-- The moments from which waits are measured, where KTB has gone back to `now` (R27): each wait begins anew at the present time
(DESIGN CHOICE: no rule measures a time across such a step). -/
def momentsBack (now : W64) (s : State) : State :=
  let c := s.chain
  let s1 := { s with
    pub := { s.pub with histLast := s.pub.histLast.map (notAfter now) },
    chain := { c with
      port0 := portNotAfter now c.port0,
      port1 := portNotAfter now c.port1,
      tent := c.tent.map (fun t => (t.1, t.2.1, notAfter now t.2.2)),
      offer := c.offer.map (fun t => (t.1, t.2.1, notAfter now t.2.2)) } }
  let s2 := forNats (s.trc.map (·.1)) (fun z k => trcSet z k { trcGet z k with last := notAfter now (trcGet z k).last }) s1
  forNats (s.eng.map (·.1)) (fun z n => engMap z n (engNotAfter now)) s2

/-- The timers of the hub and every other moment counted from the present time, where KTB has gone back (R27, R342). -/
def timersBack (old s : State) : State :=
  if (ktb s).ult (ktb old) then
    let s1 := { s with sett := pinRebase (ktb old) (ktb s) s.sett }
    old.hub.tmr.foldl (tmrRebase old (ktbHundreds s1)) (momentsBack (ktb s1) s1)
  else s

/-- KTB at the BN9 time `tbi` with no slew (R27). -/
def takeBn9 (s : State) (tbi : W64) : State :=
  timersBack s { s with tick := { s.tick with bn9 := tbi, slew := 0, slewAcc := 0 } }

/-- BN9 time that advances to `tbi` at its own rate, `c` ns later (R26, R30). -/
def rateStep (s : State) (tbi : W64) (c : Nat) : State :=
  { s with tick := slewShrink { s.tick with bn9 := tbi } c }

/-- A forward step of `z` ns to `tbi` while the generator runs (R28). -/
def forwardStep (s : State) (tbi z : W64) : State :=
  if z.ule s.tick.slew then { s with tick := { s.tick with bn9 := tbi, slew := s.tick.slew - z } }
  else cntAdd { s with tick := { s.tick with bn9 := tbi, slew := 0, slewAcc := 0 } } 0x10080 1

/-- A backward step of `z` ns to `tbi` while the generator runs (R29). -/
def backwardStep (s : State) (tbi z : W64) : State :=
  cntAdd { s with tick := { s.tick with bn9 := tbi, slew := s.tick.slew + z } } 0x10084 1

/-- A step of `z` ns, signed, to `tbi` (R524): the nanosecond of the cycle itself counts as BN9 time. -/
def bn9Step (s : State) (tbi z : W64) : State :=
  if s.tick.running = false then takeBn9 s tbi
  else
    let s1 := { s with tick := slewShrink s.tick 1 }
    if z.msb then backwardStep s1 tbi (-z) else forwardStep s1 tbi z

/-- A TBI value without TBSTEP (R524, R525). -/
def tbiTake (s : State) (tbi : W64) : State :=
  let c := tbi - s.tick.bn9
  if c.ule 2 then rateStep s tbi c.toNat
  else bn9Step (pulse (cntAdd s 0x10094 1) 300) tbi (c - 1)

/-- The BN9 time that the block sees while it is OFF: only the input changes. -/
def bn9Only (s : State) (tbi : W64) : State :=
  { s with
    tick := { s.tick with bn9 := tbi },
    sett := pinRebase s.tick.bn9 tbi s.sett }

/-- The cycles that bundles of some engines have waited in D counted (R262). -/
def hazStall (s : State) (l : List (Nat × Nat)) : State :=
  (l.filter (fun q => (decide (q.1 < 64) || q.1 == 66) && (engGet s q.1).run == .running && domStat s (engDom q.1) == 1)).foldl
    (fun z q => engCount z q.1 0x8014 q.2) s

/-- TBI_UPDATE, R524: one host cycle, in which the changes of driven pads go on (R350). `stalls` gives, by engine, the stall cycles in D
since the last update, which PIPE[n].HAZSTALL counts (R262): the model runs bundles without cycles, and its sender tells them. -/
def execTbiUpdate (tbi : W64) (s : State) (stalls : List (Nat × Nat) := []) : Host.Outcome State Fault Refusal :=
  if s.bstate = .off then .next (bn9Only s tbi) else .next (tbiTake (padGo (cyclesGo (hazStall s stalls))) tbi)

/-- A TBI value with TBSTEP high and TBS = `z` (R524): TBS of zero has no effect, and a step that R28 or R29 takes pulses source 300
(R330). -/
def tbsTake (s : State) (tbi z : W64) : State :=
  let s1 := padGo (cyclesGo s)
  if s.bstate = .off then bn9Only s tbi
  else if z = 0 then rateStep s1 tbi (tbi - s.tick.bn9).toNat
  else if s.tick.running then pulse (bn9Step s1 tbi z) 300
  else bn9Step s1 tbi z

/-- TIMEBASE_FORWARD_STEP, R28: TBS is `size`, not negative. -/
def execTimebaseForwardStep (tbi size : W64) (s : State) : Host.Outcome State Fault Refusal :=
  if size.msb then .next s else .next (tbsTake s tbi size)

/-- TIMEBASE_BACKWARD_STEP, R29: TBS is `-size`. -/
def execTimebaseBackwardStep (tbi size : W64) (s : State) : Host.Outcome State Fault Refusal :=
  if (-size).msb || decide (size = 0) then .next (tbsTake s tbi (-size)) else .next s

/-- VLOWACK_CHANGE, R528: PWR.STATUS.LOWV follows, and a pending change out of FRUGAL has its supply (R464). -/
def execVlowackChange (level : Bool) (s : State) : Host.Outcome State Fault Refusal :=
  let s1 := { s with svc := { s.svc with lowv := level } }
  match s1.tick.pend with
  | some c => if level then .next s1 else .next { s1 with tick := { s1.tick with pend := some { c with voltOk := true } } }
  | none => .next s1

end Sys2Proof.Machine
end

