-- ==== Sys2Proof/Machine/Dispatch.lean ====
section
/-! DEFINITION. One arm per command: its meaning. -/

namespace Sys2Proof.Machine

/-- The effect of one command on everything but the queue of waiting commands. -/
def exec (i : Instr) (s : State) : Host.Outcome State Fault Refusal :=
  match i with
  | .powerOn => Sys2Proof.Machine.execPowerOn s
  | .blockReset cause => Sys2Proof.Machine.execBlockReset cause s
  | .kdioLongLow => Sys2Proof.Machine.execKdioLongLow s
  | .kdioLineError => Sys2Proof.Machine.execKdioLineError s
  | .badgerRelease romOk krst kdio => Sys2Proof.Machine.execBadgerRelease romOk s krst kdio
  | .sidebandReady blocks keys => Sys2Proof.Machine.execSidebandReady blocks s keys
  | .tbiUpdate tbi stalls => Sys2Proof.Machine.execTbiUpdate tbi s stalls
  | .timebaseForwardStep tbi size => Sys2Proof.Machine.execTimebaseForwardStep tbi size s
  | .timebaseBackwardStep tbi size => Sys2Proof.Machine.execTimebaseBackwardStep tbi size s
  | .batlossRise => Sys2Proof.Machine.execBatlossRise s
  | .vlowackChange level => Sys2Proof.Machine.execVlowackChange level s
  | .ksealFilterChange low => Sys2Proof.Machine.execKsealFilterChange low s
  | .hostLowWordRead off wide parity => Sys2Proof.Machine.execHostLowWordRead off s wide parity
  | .hostLowWordWrite off v => Sys2Proof.Machine.execHostLowWordWrite off v s
  | .hostHighWordWrite off v => Sys2Proof.Machine.execHostHighWordWrite off v s
  | .misalignedHostAccess off size write => Sys2Proof.Machine.execMisalignedHostAccess off size write s
  | .unmappedHostAccess off size write => Sys2Proof.Machine.execUnmappedHostAccess off size write s
  | .registerWrite off wide v => Sys2Proof.Machine.execRegisterWrite off wide v s
  | .ageLimitWrite v => Sys2Proof.Machine.execAgeLimitWrite v s
  | .hostqCellPop parityFail => Sys2Proof.Machine.execHostqCellPop s parityFail
  | .clusterWorstRead k => Sys2Proof.Machine.execClusterWorstRead k s
  | .listmaxRead k => Sys2Proof.Machine.execListmaxRead k s
  | .hmbCplRead => Sys2Proof.Machine.execHmbCplRead s
  | .eventClaim c => Sys2Proof.Machine.execEventClaim c s
  | .eventEoi c v => Sys2Proof.Machine.execEventEoi c v s
  | .sourceInsvcClear src => Sys2Proof.Machine.execSourceInsvcClear src s
  | .sourcePendClear src => Sys2Proof.Machine.execSourcePendClear src s
  | .softwareEventSet w v => Sys2Proof.Machine.execSoftwareEventSet w v s
  | .softwareEventClear w v => Sys2Proof.Machine.execSoftwareEventClear w v s
  | .sourceDisable src v => Sys2Proof.Machine.execSourceDisable src v s
  | .hubDisable => Sys2Proof.Machine.execHubDisable s
  | .powerRequest d on => Sys2Proof.Machine.execPowerRequest d on s
  | .domainPowerUpDone d => Sys2Proof.Machine.execDomainPowerUpDone d s
  | .sealParameterWrite v => Sys2Proof.Machine.execSealParameterWrite v s
  | .batteryWriteDone ok => Sys2Proof.Machine.execBatteryWriteDone ok s
  | .mothEnable m v => Sys2Proof.Machine.execMothEnable m v s
  | .mothDisable m v => Sys2Proof.Machine.execMothDisable m v s
  | .mothPcWrite m v => Sys2Proof.Machine.execMothPcWrite m v s
  | .mothImemWrite m j v => Sys2Proof.Machine.execMothImemWrite m j v s
  | .mothRestartWrite m v => Sys2Proof.Machine.execMothRestartWrite m v s
  | .mothClockWrite m v => Sys2Proof.Machine.execMothClockWrite m v s
  | .mothInject m v => Sys2Proof.Machine.execMothInject m v s
  | .mothInjectedExecute m levels => Sys2Proof.Machine.execMothInjectedExecute m levels s
  | .contextViewWrite off data => Sys2Proof.Machine.execContextViewWrite off data s
  | .stagingBufferWrite off data => Sys2Proof.Machine.execStagingBufferWrite off data s
  | .debugUnlock v => Sys2Proof.Machine.execDebugUnlock v s
  | .debugUnlockDone blocks => Sys2Proof.Machine.execDebugUnlockDone blocks s
  | .halt n => Sys2Proof.Machine.execHalt n s
  | .resume n => Sys2Proof.Machine.execResume n s
  | .step n => Sys2Proof.Machine.execStep n s
  | .lockfree n => Sys2Proof.Machine.execLockfree n s
  | .debugHaltTaken n => Sys2Proof.Machine.execDebugHaltTaken n s
  | .debugDataRead n => Sys2Proof.Machine.execDebugDataRead n s
  | .debugDataWrite n v => Sys2Proof.Machine.execDebugDataWrite n v s
  | .terminalTxRead n => Sys2Proof.Machine.execTerminalTxRead n s
  | .terminalRxWrite n v => Sys2Proof.Machine.execTerminalRxWrite n v s
  | .sarernIdr op crc => Sys2Proof.Machine.execSarernIdr op crc s
  | .sarernRd addr crc inTime => Sys2Proof.Machine.execSarernRd addr crc inTime s
  | .sarernRdc addr crc inTime => Sys2Proof.Machine.execSarernRdc addr crc inTime s
  | .sarernWr addr v crc => Sys2Proof.Machine.execSarernWr addr v crc s
  | .release len pl imgA imgB => Sys2Proof.Machine.execRelease len pl imgA imgB s
  | .hold len pl => Sys2Proof.Machine.execHold len pl s
  | .setProfile len pl => Sys2Proof.Machine.execSetProfile len pl s
  | .setTick len pl => Sys2Proof.Machine.execSetTick len pl s
  | .retireEngine len pl => Sys2Proof.Machine.execRetireEngine len pl s
  | .restoreEngine len pl => Sys2Proof.Machine.execRestoreEngine len pl s
  | .migrate len pl => Sys2Proof.Machine.execMigrate len pl s
  | .loadUbank len pl => Sys2Proof.Machine.execLoadUbank len pl s
  | .loadUbankDone => Sys2Proof.Machine.execLoadUbankDone s
  | .swapUbank len pl => Sys2Proof.Machine.execSwapUbank len pl s
  | .reloadTile len pl bytes refBad => Sys2Proof.Machine.execReloadTile len pl bytes s refBad
  | .remapMoth len pl => Sys2Proof.Machine.execRemapMoth len pl s
  | .enumerateChain len pl => Sys2Proof.Machine.execEnumerateChain len pl s
  | .sealStatus len pl => Sys2Proof.Machine.execSealStatus len pl s
  | .openSeal len pl => Sys2Proof.Machine.execOpenSeal len pl s
  | .closeSeal len pl => Sys2Proof.Machine.execCloseSeal len pl s
  | .clearCounters len pl => Sys2Proof.Machine.execClearCounters len pl s
  | .readFaults len pl bad => Sys2Proof.Machine.execReadFaults len pl s bad
  | .releasePrecheckPass => Sys2Proof.Machine.execReleasePrecheckPass s
  | .releaseTileCopy bytes tcrc => Sys2Proof.Machine.execReleaseTileCopy bytes tcrc s
  | .releaseReadbackDone => Sys2Proof.Machine.execReleaseReadbackDone s
  | .settIdentReport => Sys2Proof.Machine.execSettIdentReport s
  | .mainTickEdge fails => Sys2Proof.Machine.execMainTickEdge fails s
  | .publishReserveStart => Sys2Proof.Machine.execPublishReserveStart s
  | .foxSubtickEdge fails => Sys2Proof.Machine.execFoxSubtickEdge s fails
  | .foxSubtickReserve => Sys2Proof.Machine.execFoxSubtickReserve s
  | .settTickEdge tiles lost => Sys2Proof.Machine.execSettTickEdge s tiles lost
  | .settPublishReserve => Sys2Proof.Machine.execSettPublishReserve s
  | .queueAgeSweep => Sys2Proof.Machine.execQueueAgeSweep s
  | .routerCell k parityFail cyc => Sys2Proof.Machine.execRouterCell k parityFail cyc s
  | .inboundCellArrival n bad badEntry => Sys2Proof.Machine.execInboundCellArrival n s bad badEntry
  | .hostQueueArrival => Sys2Proof.Machine.execHostQueueArrival s
  | .publicationCopyAccept => Sys2Proof.Machine.execPublicationCopyAccept s
  | .publicationEntryWrite => Sys2Proof.Machine.execPublicationEntryWrite s
  | .publicationHeaderDone => Sys2Proof.Machine.execPublicationHeaderDone s
  | .historyCopyAccept => Sys2Proof.Machine.execHistoryCopyAccept s
  | .historyEntryWrite parityFail => Sys2Proof.Machine.execHistoryEntryWrite s parityFail
  | .historyEntryComplete => Sys2Proof.Machine.execHistoryEntryComplete s
  | .gatewayCellArrival b => Sys2Proof.Machine.execGatewayCellArrival b s
  | .gatewayCellPass b parityFail => Sys2Proof.Machine.execGatewayCellPass b s parityFail
  | .cellFrameReceive p hdr bodies crc => Sys2Proof.Machine.execCellFrameReceive p hdr bodies crc s
  | .enumerationOfferReceive p hdr bodies crc => Sys2Proof.Machine.execEnumerationOfferReceive p hdr bodies crc s
  | .enumerationCommitReceive p hdr bodies crc => Sys2Proof.Machine.execEnumerationCommitReceive p hdr bodies crc s
  | .ringStatusReceive p hdr bodies crc => Sys2Proof.Machine.execRingStatusReceive p hdr bodies crc s
  | .chainPortDown p retrain => Sys2Proof.Machine.execChainPortDown p s retrain
  | .ringStatusSend p => Sys2Proof.Machine.execRingStatusSend p s
  | .breakClearSend p => Sys2Proof.Machine.execBreakClearSend p s
  | .laneRetrainDone p working => Sys2Proof.Machine.execLaneRetrainDone p working s
  | .enumerationOfferTimeout => Sys2Proof.Machine.execEnumerationOfferTimeout s
  | .tentativeAddressDrop => Sys2Proof.Machine.execTentativeAddressDrop s
  | .alu n => Sys2Proof.Machine.execAlu n s
  | .aluImmediate n => Sys2Proof.Machine.execAluImmediate n s
  | .shiftImmediate n => Sys2Proof.Machine.execShiftImmediate n s
  | .unary n => Sys2Proof.Machine.execUnary n s
  | .sat n => Sys2Proof.Machine.execSat n s
  | .cmp n => Sys2Proof.Machine.execCmp n s
  | .plog n => Sys2Proof.Machine.execPlog n s
  | .getp n => Sys2Proof.Machine.execGetp n s
  | .setp n => Sys2Proof.Machine.execSetp n s
  | .mul n => Sys2Proof.Machine.execMul n s
  | .div n => Sys2Proof.Machine.execDiv n s
  | .load n => Sys2Proof.Machine.execLoad n s
  | .store n => Sys2Proof.Machine.execStore n s
  | .ldc n => Sys2Proof.Machine.execLdc n s
  | .stc n => Sys2Proof.Machine.execStc n s
  | .fence n => Sys2Proof.Machine.execFence n s
  | .farLoadData n data => Sys2Proof.Machine.execFarLoadData n data s
  | .farStoreAccept n ok => Sys2Proof.Machine.execFarStoreAccept n ok s
  | .farStoreComplete n => Sys2Proof.Machine.execFarStoreComplete n s
  | .cmov n => Sys2Proof.Machine.execCmov n s
  | .csetb n => Sys2Proof.Machine.execCsetb n s
  | .csetl n => Sys2Proof.Machine.execCsetl n s
  | .csetbl n => Sys2Proof.Machine.execCsetbl n s
  | .candp n => Sys2Proof.Machine.execCandp n s
  | .cgetb n => Sys2Proof.Machine.execCgetb n s
  | .cgetl n => Sys2Proof.Machine.execCgetl n s
  | .cgetp n => Sys2Proof.Machine.execCgetp n s
  | .cgett n => Sys2Proof.Machine.execCgett n s
  | .cseal n => Sys2Proof.Machine.execCseal n s
  | .cunseal n => Sys2Proof.Machine.execCunseal n s
  | .csentry n => Sys2Proof.Machine.execCsentry n s
  | .br n => Sys2Proof.Machine.execBr n s
  | .blc n => Sys2Proof.Machine.execBlc n s
  | .jr n => Sys2Proof.Machine.execJr n s
  | .cj n => Sys2Proof.Machine.execCj n s
  | .cjo n => Sys2Proof.Machine.execCjo n s
  | .rep n => Sys2Proof.Machine.execRep n s
  | .repi n => Sys2Proof.Machine.execRepi n s
  | .bit n => Sys2Proof.Machine.execBit n s
  | .fld n => Sys2Proof.Machine.execFld n s
  | .crcStep n => Sys2Proof.Machine.execCrcStep n s
  | .crcinit n => Sys2Proof.Machine.execCrcinit n s
  | .crcfin n => Sys2Proof.Machine.execCrcfin n s
  | .crcblk n => Sys2Proof.Machine.execCrcblk n s
  | .fop n => Sys2Proof.Machine.execFop n s
  | .fdiv n => Sys2Proof.Machine.execFdiv n s
  | .fsqrt n => Sys2Proof.Machine.execFsqrt n s
  | .fcmp n => Sys2Proof.Machine.execFcmp n s
  | .fcvt n => Sys2Proof.Machine.execFcvt n s
  | .tpop n => Sys2Proof.Machine.execTpop n s
  | .tpeek n => Sys2Proof.Machine.execTpeek n s
  | .tpush n => Sys2Proof.Machine.execTpush n s
  | .tpopr n => Sys2Proof.Machine.execTpopr n s
  | .tpushr n => Sys2Proof.Machine.execTpushr n s
  | .ctxopen n => Sys2Proof.Machine.execCtxopen n s
  | .ctxcommit n => Sys2Proof.Machine.execCtxcommit n s
  | .ctxlock n => Sys2Proof.Machine.execCtxlock n s
  | .ctxunlock n => Sys2Proof.Machine.execCtxunlock n s
  | .ctxdrop n => Sys2Proof.Machine.execCtxdrop n s
  | .dispatch n => Sys2Proof.Machine.execDispatch n s
  | .lockWaitEnd n cyc => Sys2Proof.Machine.execLockWaitEnd n cyc s
  | .lockWaitTimeout n => Sys2Proof.Machine.execLockWaitTimeout n s
  | .dispatchEntryReady n => Sys2Proof.Machine.execDispatchEntryReady n s
  | .tickwait n => Sys2Proof.Machine.execTickwait n s
  | .tickwaitEdge n => Sys2Proof.Machine.execTickwaitEdge n s
  | .twr n => Sys2Proof.Machine.execTwr n s
  | .trd n => Sys2Proof.Machine.execTrd n s
  | .mfs n => Sys2Proof.Machine.execMfs n s
  | .mts n => Sys2Proof.Machine.execMts n s
  | .cmfs n => Sys2Proof.Machine.execCmfs n s
  | .cmts n => Sys2Proof.Machine.execCmts n s
  | .eret n bankBad => Sys2Proof.Machine.execEret n s bankBad
  | .sysc n => Sys2Proof.Machine.execSysc n s
  | .brk n => Sys2Proof.Machine.execBrk n s
  | .customInstruction n => Sys2Proof.Machine.execCustomInstruction n s
  | .microroutineComplete n cyc => Sys2Proof.Machine.execMicroroutineComplete n cyc s
  | .microwordRepairDone n entry adr ok => Sys2Proof.Machine.execMicrowordRepairDone n entry adr ok s
  | .eventEntry n => Sys2Proof.Machine.execEventEntry n s
  | .settMailboxCommit => Sys2Proof.Machine.execSettMailboxCommit s
  | .eventSourcePending src => Sys2Proof.Machine.execEventSourcePending src s
  | .pinFilterChange p v cyc => Sys2Proof.Machine.execPinFilterChange p v s cyc
  | .eventOffer => Sys2Proof.Machine.execEventOffer s
  | .holdoffExpire g => Sys2Proof.Machine.execHoldoffExpire g s
  | .mothNop m => Sys2Proof.Machine.execMothNop m s
  | .mothShout m cyc => Sys2Proof.Machine.execMothShout m cyc s
  | .mothShin m bits => Sys2Proof.Machine.execMothShin m bits s
  | .mothEdge m level => Sys2Proof.Machine.execMothEdge m level s
  | .mothEdgeMet m held => Sys2Proof.Machine.execMothEdgeMet m s held
  | .mothEdgeTimeout m => Sys2Proof.Machine.execMothEdgeTimeout m s
  | .mothSample m levels => Sys2Proof.Machine.execMothSample m levels s
  | .mothDrive m => Sys2Proof.Machine.execMothDrive m s
  | .mothToggle m => Sys2Proof.Machine.execMothToggle m s
  | .mothLoop m => Sys2Proof.Machine.execMothLoop m s
  | .mothCount m => Sys2Proof.Machine.execMothCount m s
  | .mothCountEnd m => Sys2Proof.Machine.execMothCountEnd m s
  | .mothPinEdgeCount m rising => Sys2Proof.Machine.execMothPinEdgeCount m rising s
  | .mothCapt m => Sys2Proof.Machine.execMothCapt m s
  | .mothFetch m => Sys2Proof.Machine.execMothFetch m s
  | .mothStow m => Sys2Proof.Machine.execMothStow m s
  | .mothStallEnd m cyc => Sys2Proof.Machine.execMothStallEnd m cyc s
  | .mothJmp m level => Sys2Proof.Machine.execMothJmp m level s
  | .mothSet m => Sys2Proof.Machine.execMothSet m s
  | .mothDelayEnd m => Sys2Proof.Machine.execMothDelayEnd m s
  | .mothIllegalInstruction m => Sys2Proof.Machine.execMothIllegalInstruction m s
  | .scrubTileRead cls inst tile corrupt => Sys2Proof.Machine.execScrubTileRead cls inst tile corrupt s
  | .suspectTileRead n corrupt => Sys2Proof.Machine.execSuspectTileRead n corrupt s
  | .tileRepair cls inst tile bytes refBad => Sys2Proof.Machine.execTileRepair cls inst tile bytes s refBad
  | .tileRebuild j tile bytes refBad => Sys2Proof.Machine.execTileRebuild j tile bytes s refBad
  | .mirrorFillDone => Sys2Proof.Machine.execMirrorFillDone s
  | .restoreDone e bistOk tiles => Sys2Proof.Machine.execRestoreDone e bistOk tiles s
  | .clusterFailDetect k => Sys2Proof.Machine.execClusterFailDetect k s
  | .engineDoze n => Sys2Proof.Machine.execEngineDoze n s
  | .napEntryDone n => Sys2Proof.Machine.execNapEntryDone n s
  | .engineWake n => Sys2Proof.Machine.execEngineWake n s
  | .timedWakeStart n => Sys2Proof.Machine.execTimedWakeStart n s
  | .traceRecordDrain k parityFail => Sys2Proof.Machine.execTraceRecordDrain k parityFail s
  | .blockPowerOff => Sys2Proof.Machine.execBlockPowerOff s
  | .padSupplyChange sup present => Sys2Proof.Machine.execPadSupplyChange sup present s
  | .badcmdSubmission code len => Sys2Proof.Machine.execBadcmdSubmission code len s
  | .sarernFrameHighTimeout => Sys2Proof.Machine.execSarernFrameHighTimeout s

end Sys2Proof.Machine
end

