-- ==== Sys2Proof/Safety.lean ====
section
/-! DEFINITION. The terms in which the claims speak: a run that goes on, a bundle that holds one instruction, and what an engine
looks like once that bundle has retired. -/

namespace Sys2Proof.Machine

/-- The step answers a next state: neither a fault nor a refusal. -/
def stepsOn (s : State) : Prop := ∃ t, step s = .next t

/-- The command that stands for an operation in engine `n`. -/
def commandOf (op : Op) (n : Nat) : Instr :=
  match op with
  | .alu => .alu n | .aluImm => .aluImmediate n | .shiftImm => .shiftImmediate n | .unary => .unary n | .sat => .sat n
  | .cmp => .cmp n | .plog => .plog n | .getp => .getp n | .setp => .setp n | .mul => .mul n | .div => .div n
  | .load => .load n | .store => .store n | .ldc => .ldc n | .stc => .stc n | .fence => .fence n
  | .cmov => .cmov n | .csetb => .csetb n | .csetl => .csetl n | .csetbl => .csetbl n | .candp => .candp n
  | .cgetb => .cgetb n | .cgetl => .cgetl n | .cgetp => .cgetp n | .cgett => .cgett n
  | .cseal => .cseal n | .cunseal => .cunseal n | .csentry => .csentry n
  | .br => .br n | .blc => .blc n | .jr => .jr n | .cj => .cj n | .cjo => .cjo n | .rep => .rep n | .repi => .repi n
  | .bit => .bit n | .fld => .fld n | .crcStep => .crcStep n | .crcInit => .crcinit n | .crcFin => .crcfin n
  | .crcBlk => .crcblk n | .fop => .fop n | .fdiv => .fdiv n | .fsqrt => .fsqrt n | .fcmp => .fcmp n | .fcvt => .fcvt n
  | .tpop => .tpop n | .tpeek => .tpeek n | .tpush => .tpush n | .tpopr => .tpopr n | .tpushr => .tpushr n
  | .ctxOpen => .ctxopen n | .ctxCommit => .ctxcommit n | .ctxLock => .ctxlock n | .ctxUnlock => .ctxunlock n
  | .ctxDrop => .ctxdrop n | .dispatch => .dispatch n | .tickWait => .tickwait n | .twr => .twr n | .trd => .trd n
  | .mfs => .mfs n | .mts => .mts n | .cmfs => .cmfs n | .cmts => .cmts n | .eret => .eret n false | .sysc => .sysc n
  | .brk => .brk n | .custom => .customInstruction n

/-- The present bundle of engine `n` is the one syllable `y` of operation `op`, with `nx` the address after it, and the engine
issues it now: it runs, alone, in no delay slot and no repeat, with no bank swap, step, routine result or ended wait outstanding. -/
structure Alone (s : State) (n : Nat) (y : Syl) (op : Op) (nx : Nat) : Prop where
  ready : engReady s n issueHold = true
  unheld : (engGet s n).hold = .none
  single : partnerOf s n = none
  bundle : decodeBundle s n = .ok [y] [op] nx
  noSlot : (engGet s n).xfer = none
  noRep : (engGet s n).rep = none
  noSwap : (engGet s n).swapPend = false
  noStep : (engGet s n).dbg.stepping = false
  noDonePos : (engGet s n).u.donePos = []
  noDone : (engGet s n).u.done = []
  untold : (engGet s n).told = {}

/-- The same with a true guard (R160) and the permissions that the decode entry asks for (R277). -/
structure Issues (s : State) (n : Nat) (y : Syl) (op : Op) (nx : Nat) : Prop extends Alone s n y op nx where
  guard : guardOf (engGet s n) y = true
  priv : entPriv y.entry = true → privOk (engGet s n).compat (engGet s n).ring (engGet s n).pcc = true
  need : needOk (engGet s n) y = true

/-- The same for a syllable whose decode entry selects no micro-routine. -/
structure Runs (s : State) (n : Nat) (y : Syl) (op : Op) (nx : Nat) : Prop extends Issues s n y op nx where
  hard : sylUcode y = false

/-- The bundle of engine `n` is the syllable `y` of operation `op`, as in `Issues`, and waits for what `h` names. -/
structure Waits (s : State) (n : Nat) (y : Syl) (op : Op) (nx : Nat) (h : Hold) : Prop where
  ready : engReady s n (fun x => x == h) = true
  held : (engGet s n).hold = h
  single : partnerOf s n = none
  bundle : decodeBundle s n = .ok [y] [op] nx
  noSlot : (engGet s n).xfer = none
  noRep : (engGet s n).rep = none
  noSwap : (engGet s n).swapPend = false
  noStep : (engGet s n).dbg.stepping = false
  noDonePos : (engGet s n).u.donePos = []
  noDone : (engGet s n).u.done = []
  waitsOn : (engGet s n).told.lockOut = false
  guard : guardOf (engGet s n) y = true
  priv : entPriv y.entry = true → privOk (engGet s n).compat (engGet s n).ring (engGet s n).pcc = true
  need : needOk (engGet s n) y = true
  hard : sylUcode y = false

/-- Engine `e` after the retirement of a bundle that does nothing else: it goes on at `nx`. -/
def retired (e : Engine) (nx : Nat) : Engine := { bundleOver e with pc := BitVec.ofNat 32 nx }

/-- Engine `n` goes on at `nx`. -/
def goOn (s : State) (n nx : Nat) : State := engMap s n (fun e => { e with pc := BitVec.ofNat 32 nx })

/-- The registers that a load with code `k` of Table 6.9 writes from the value `v` read, lowest register first. -/
def putLoad (k rd : Nat) (v : W128) (e : Engine) : Engine :=
  match k with
  | 0 => putG e rd ((v.setWidth 8).signExtend 32)
  | 1 => putG e rd ((v.setWidth 8).setWidth 32)
  | 2 => putG e rd ((v.setWidth 16).signExtend 32)
  | 3 => putG e rd ((v.setWidth 16).setWidth 32)
  | 4 => putG e rd (v.setWidth 32)
  | 5 => putG (putG e rd (v.setWidth 32)) (rd + 1) ((v >>> 32).setWidth 32)
  | _ => putG (putG (putG (putG e rd (v.setWidth 32)) (rd + 1) ((v >>> 32).setWidth 32)) (rd + 2) ((v >>> 64).setWidth 32))
      (rd + 3) ((v >>> 96).setWidth 32)

/-- The code of Table 6.9 that a load or store syllable selects. -/
def lsCode (y : Syl) : Nat := (lsSel (sylMajor y.word) (sylMinor y.word)).1

/-- What a command answers whose bundle comes to `z` in state `s`: engine `n` is held in W with nothing done while TRCSTALL keeps a
record of the bundle from being dropped (R497). -/
def unlessHeld (s : State) (n : Nat) (z : State) : Host.Outcome State Fault Refusal :=
  .next (if trcHeld s z n then holdSet s n .trace else z)

/-- No record of engine `n` holds it: it is not traced, or TRCSTALL is 0. -/
def flows (s : State) (n : Nat) : Prop := n < 64 → trcOn s (cluOf n) = false ∨ bitAt (trcCtl s (cluOf n)) 3 = false

/-- The two operands of a syllable (R157): `g[ra]`, and `g[rb]`, the immediate or the literal. -/
def opA (s : State) (n : Nat) (y : Syl) : Word := regG (engGet s n) (sylRa y.word)
def opB (s : State) (n : Nat) (y : Syl) : Word := sylB y (regG (engGet s n) (sylRb y.word))

/-- The code, the length and the payload that a command submits at the mailbox, none for a command that submits nothing there (R504). -/
def submission (i : Instr) : Option (Nat × Nat × List Word) :=
  match i with
  | .release len pl _ _ => some (1, len, pl)
  | .hold len pl => some (2, len, pl)
  | .setProfile len pl => some (3, len, pl)
  | .setTick len pl => some (4, len, pl)
  | .retireEngine len pl => some (5, len, pl)
  | .restoreEngine len pl => some (6, len, pl)
  | .migrate len pl => some (7, len, pl)
  | .loadUbank len pl => some (8, len, pl)
  | .swapUbank len pl => some (9, len, pl)
  | .reloadTile len pl _ _ => some (0xA, len, pl)
  | .remapMoth len pl => some (0xB, len, pl)
  | .enumerateChain len pl => some (0xC, len, pl)
  | .sealStatus len pl => some (0xD, len, pl)
  | .openSeal len pl => some (0xE, len, pl)
  | .closeSeal len pl => some (0xF, len, pl)
  | .clearCounters len pl => some (0x10, len, pl)
  | .readFaults len pl _ => some (0x11, len, pl)
  | .badcmdSubmission code len => if (code = 0 ∨ 0x11 < code) ∧ code < 256 then some (code, len, []) else none
  | _ => none

/-- The mailbox row of a code, a length and a payload submits its command, which is accepted in the state `z` (R504, R505). -/
structure Accepts (s : State) (code len : Nat) (pl : List Word) (z : State) : Prop where
  enters : mbxEnter s code len pl = some z
  passes : acceptStatus z = 0
  tagged : z.mbx.nextTag ≠ 0

/-- The payload of the command that is submitted in `z`. -/
def payload (z : State) : List Word := reqWords z (field z.mbx.cmd 31 16)

/-- A service action waits under a tag. -/
def hasAct (s : State) (tag : Nat) (a : SvcAct) : Prop := ⟨tag, a⟩ ∈ s.svc.acts

/-- Moth `m` starts the legal instruction `i` of opcode `k` at its PC now, with no side drive (R356, R360). -/
structure Begins (s : State) (m k : Nat) (i : BitVec 24) : Prop where
  fetches : mothFetches s m = true
  word : mothIns s m = i
  opcode : mOp i = k
  legal : mothIllegal (mothGet s m) i = false
  noSide : bitAt i 15 = false

/-- Pin `p` takes the level that stands outside: its pad has its supply (R529), and no open-drain 0 of the KSC pulls it low
(R538). -/
structure FreePin (s : State) (p : Nat) : Prop where
  supplied : hasNat (p / 32) s.field.supAbsent = false
  released : pinOd s p = false ∨ pinDrive s p ≠ some false

/-- Moth `m` reads `reads` at its pin `k` when the outside holds the pin at `level`; a pin that does not exist reads 0 (R349). -/
def PinReads (s : State) (m k : Nat) (level reads : Bool) : Prop :=
  (reads = level ∧ ∃ p, mothPin s m k = some p ∧ FreePin s p) ∨ (reads = false ∧ mothPin s m k = none)

/-- A moth as the first moth cycle of instruction `i` finds it: a written divisor has taken effect (R353). -/
def begun (mo : Moth) (i : BitVec 24) : Moth := { mo with d := mo.dNext.getD mo.d, dNext := none, cur := i }

/-- Moth `m` waits inside an instruction for what `w` names, with no injection before it. -/
structure MWaits (s : State) (m : Nat) (w : MWait) : Prop where
  goes : mothWaits s m = true
  waits : (mothGet s m).wait = w

/-- A command of moth `m` has changed no other moth, no tile and no context record. -/
structure OwnMoth (s t : State) (m : Nat) : Prop where
  others : ∀ q, q ≠ m → mothGet t q = mothGet s q
  mem : t.mem = s.mem
  store : t.store = s.store

/-- The debug lock of the part (R474 to R477): whether the fuse is blown, whether debug is locked, whether an unlock runs, and
whether the Sett is open to debug. -/
structure Lock where
  fused : Bool
  locked : Bool
  unlocking : Bool
  settdbg : Bool
  deriving DecidableEq, Repr

/-- The debug lock of a state. -/
def lockOf (s : State) : Lock :=
  { fused := s.io.fused, locked := s.io.locked, unlocking := s.io.unlocking, settdbg := s.io.settdbg }

/-- The invariant of the debug lock: only a part with a blown fuse is ever locked, only a locked part is being unlocked, and
the Sett is open to debug only on a part with a blown fuse. -/
def LockInv (s : State) : Prop :=
  (s.io.locked = true → s.io.fused = true) ∧ (s.io.unlocking = true → s.io.locked = true) ∧
  (s.io.settdbg = true → s.io.fused = true)

end Sys2Proof.Machine
end

