-- ==== Sys2Proof/Certificates/Slice0/Obligations.lean ====
section
/-! DEFINITION. The statements for the provers. -/

open Sys2Proof Sys2Proof.Machine

/-- The model of a block of commands: the queue is first in, first out. The second clause is the model's choice
(notes/assumptions/1.md). -/
def Obligations.StepRunsFrontCommand : Prop :=
  ∀ s : State,
    (∀ (c : Instr) (q : List Instr), step { s with pending := c :: q } = exec c { s with pending := q }) ∧
    step { s with pending := [] } = .next { s with pending := [] }

/-- The effect of every command is on everything but the queue (the model of a block of commands). -/
def Obligations.CommandsLeaveTheQueue : Prop :=
  ∀ (c : Instr) (s t : State), exec c s = .next t → t.pending = s.pending

/-- R474 to R477 over every step, from every state that meets the invariant. -/
def Obligations.LockInvariantStep : Prop :=
  ∀ s t : State, LockInv s → step s = .next t → LockInv t

/-- The invariant of LockInvariantStep at reset. -/
def Obligations.LockInvariantReset : Prop := LockInv State.reset

/-- The security claim of R474 and R475 over all commands. -/
def Obligations.OnlyAnUnlockOpensDebug : Prop :=
  ∀ (c : Instr) (s t : State), LockInv s → exec c s = .next t →
    t.io.fused = s.io.fused ∧
    (s.io.locked = true → t.io.locked = false → (∃ blocks, c = .debugUnlockDone blocks) ∧ s.io.unlocking = true)

/-- R403 and R16 with the reset values of the register tables (`regReset`); where the manual states no value the model's
choice is in notes/assumptions/5.md. -/
def Obligations.ResetState : Prop :=
  let s := State.reset
  s.bstate = .reset ∧ s.tick.running = false ∧ s.tick.tickn = 0 ∧ s.tick.units = 0 ∧ ktb s = 0 ∧
  (∀ a, regGet s a = regReset a) ∧ (∀ a, cntGet s a = 0) ∧
  (∀ n, (engGet s n).run = .stopped ∧ (engGet s n).inq = [] ∧ (engGet s n).outq = [] ∧ (engGet s n).ctxOpen = none) ∧
  (∀ m, (mothGet s m).en = false) ∧ s.mbx.busy = false ∧ s.mbx.cpl = [] ∧ s.mbx.log = [] ∧ s.cells.hostq = [] ∧
  s.pending = []

/-- R402 to R405, R428, R467, R468, R526. -/
def Obligations.PowerAndResetCommands : Prop :=
  ∀ s : State,
    (s.bstate = .off → ∃ t, exec .powerOn s = .next t ∧ t.bstate = .reset ∧ t.hreg = [] ∧ t.cnt = [] ∧ t.eng = [] ∧
      t.tick.bn9 = s.tick.bn9 ∧ t.tick.slew = 0 ∧ t.io.locked = s.io.fused ∧ t.mem.dram = s.mem.dram ∧ t.svc.dom = []) ∧
    (∃ t, exec .blockPowerOff s = .next t ∧ t.bstate = .off ∧ (∀ d, d < 86 → domStat t d = 0) ∧ t.hreg = [] ∧ t.eng = [] ∧
      t.mem.dram = s.mem.dram ∧ t.bat.queue = [] ∧
      (s.bat.queue = [] → t.bat.log = s.bat.log ∧ t.bat.hdr = s.bat.hdr) ∧
      (∀ w rest, s.bat.queue = w :: rest → (t.bat.hdr = s.bat.hdr ∨ t.bat.hdr = w.hdr) ∧
        (t.bat.hdr = s.bat.hdr ∨ tblGet {} ((hdrNext w.hdr + 31) % 32) t.bat.log = w.ent) ∧
        ∀ i, i ≠ (hdrNext w.hdr + 31) % 32 → tblGet {} i t.bat.log = tblGet {} i s.bat.log)) ∧
    (s.bstate ≠ .off → ∃ t, exec (.blockReset 0) s = .next t ∧ t.bstate = .reset ∧ t.io.krst = true ∧ t.hreg = [] ∧
      t.cnt = [] ∧ t.store.recs = s.store.recs ∧ t.mem.staging = s.mem.staging ∧ t.mbx.log = [] ∧
      t.io.locked = s.io.fused ∧ t.tick.slew = 0 ∧ t.tick.bn9 = s.tick.bn9 ∧ t.tick.running = false ∧
      t.io.ksbOut = s.io.ksbOut + 1) ∧
    (s.bstate = .off → ∀ cause, cause < 3 → exec (.blockReset cause) s =
      .next { s with io := { s.io with krst := s.io.krst || cause == 0, kbrel := s.io.kbrel && cause != 2 } }) ∧
    (s.bstate ≠ .off → ∃ t, exec .kdioLongLow s = .next t ∧ t.bstate = .reset ∧ t.io.kdio = true ∧ t.hreg = [] ∧
      t.cnt = [] ∧ t.store.recs = s.store.recs ∧ t.mem.staging = s.mem.staging ∧ t.io.ksbOut = s.io.ksbOut + 1) ∧
    (s.bstate = .reset → ∀ romOk krst kdio, (krst || kdio) = true →
      ∃ t, exec (.badgerRelease romOk krst kdio) s = .next t ∧ t.bstate = .reset ∧ t.io.krst = krst ∧ t.io.kdio = kdio ∧
        t.io.kbrel = true ∧ t.eng = s.eng) ∧
    (s.bstate = .reset → ∃ t, exec (.badgerRelease true) s = .next t ∧ t.bstate = .keeperBoot ∧
      (engGet t 66).run = .running ∧ (engGet t 66).pc = 0x08000000 ∧ t.io.krst = false ∧ t.io.kbrel = true) ∧
    (s.bstate = .reset → ∃ t, exec (.badgerRelease false) s = .next t ∧ t.bstate = .keeperBoot ∧ t.rel.fcause = 7) ∧
    (s.bstate = .keeperBoot → s.rel.fcause ≠ 7 → badgerDead s = false → ∀ (keys : SideKeys) (blocks : List (List Byte)),
      blocks.length ≤ 8 → ∃ t, exec (.sidebandReady blocks keys) s = .next t ∧ t.bstate = .awaitImage ∧ t.io.keys = keys)

/-- R29. That BN9 time runs on by the nanosecond of the cycle that carries the step (R524) before the step itself is the model's
choice (notes/assumptions/8.md). -/
def Obligations.BackwardStepGoesToSlew : Prop :=
  ∀ (s : State) (tbi size : W64), s.bstate ≠ .off → s.tick.running = true → (-size).msb = true →
    let slew := (slewShrink s.tick 1).slew
    ∃ t, exec (.timebaseBackwardStep tbi size) s = .next t ∧ t.tick.slew = slew + size ∧
      cntGet t 0x10084 = satCount (cntGet s 0x10084) 1 ∧ t.tick.bn9 = tbi ∧
      (tbi = s.tick.bn9 + 1 - size → ktb t = s.tick.bn9 + 1 + slew)

/-- R28, with the nanosecond of the cycle as in BackwardStepGoesToSlew: the model's choice (notes/assumptions/8.md). -/
def Obligations.ForwardStepTakesSlewFirst : Prop :=
  ∀ (s : State) (size : W64), s.bstate ≠ .off → s.tick.running = true → size.msb = false → size ≠ 0 →
    let slew := (slewShrink s.tick 1).slew
    let tbi := s.tick.bn9 + 1 + size
    let plain := s.tick.bn9 + 1 + slew
    ∃ t, exec (.timebaseForwardStep tbi size) s = .next t ∧ t.tick.bn9 = tbi ∧
      (size.ule slew = true → t.tick.slew = slew - size ∧ ktb t = plain ∧ cntGet t 0x10080 = cntGet s 0x10080) ∧
      (size.ule slew = false → t.tick.slew = 0 ∧ ktb t = plain + (size - slew) ∧
        cntGet t 0x10080 = satCount (cntGet s 0x10080) 1)

/-- R26, R27, R30, R524. -/
def Obligations.TimebaseFollowsAndStops : Prop :=
  ∀ (s : State) (tbi size : W64), s.bstate ≠ .off →
    let alike := fun (t : State) => ∀ n,
      { engGet t n with waitFrom := 0, dbg := { (engGet t n).dbg with since := 0 } } =
        { engGet s n with waitFrom := 0, dbg := { (engGet s n).dbg with since := 0 } }
    ((tbi - s.tick.bn9).ule 2 = true →
      ∃ t, exec (.tbiUpdate tbi) s = .next t ∧ t.tick.bn9 = tbi ∧
        t.tick.slew = (slewShrink s.tick (tbi - s.tick.bn9).toNat).slew ∧ t.tick.tickn = s.tick.tickn ∧
        (s.field.padq = [] → t.cnt = s.cnt ∧ t.eng = s.eng)) ∧
    (s.tick.running = false → size ≠ 0 → size.msb = false →
      ∃ t, exec (.timebaseForwardStep tbi size) s = .next t ∧ ktb t = tbi ∧ t.tick.slew = 0 ∧ t.tick.tickn = s.tick.tickn ∧
        (s.field.padq = [] → (ktb s).ule tbi = true → t.cnt = s.cnt ∧ t.eng = s.eng) ∧ (s.field.padq = [] → alike t)) ∧
    (s.tick.running = false → (-size).msb = true →
      ∃ t, exec (.timebaseBackwardStep tbi size) s = .next t ∧ ktb t = tbi ∧ t.tick.slew = 0 ∧ t.tick.tickn = s.tick.tickn ∧
        (s.field.padq = [] → (ktb s).ule tbi = true → t.cnt = s.cnt ∧ t.eng = s.eng) ∧ (s.field.padq = [] → alike t))

/-- R332, R376, R396, R464, R527 to R529, R531. That a change of KSEAL_N told within 10 ms of KTB is refused, and that the first is measured
from KTB 0, is the model's choice (notes/assumptions/8.md). -/
def Obligations.BoundaryInputs : Prop :=
  ∀ s : State,
    (s.io.batloss = false → ∃ t, exec .batlossRise s = .next t ∧ t.io.batloss = true ∧ t.bat.hdr = hdrLost s.free ∧
      (s.sett.st ≠ 0 → t.sett.loss = true) ∧ t.eng = s.eng ∧ t.store = s.store) ∧
    (∀ level, ∃ t, exec (.vlowackChange level) s = .next t ∧ t.svc.lowv = level ∧
      t = { s with svc := { s.svc with lowv := level }, tick := { s.tick with pend := t.tick.pend } } ∧
      (∀ c, s.tick.pend = some c → level = false → t.tick.pend = some { c with voltOk := true })) ∧
    (s.sett.pin = true → exec (.ksealFilterChange true) s = .next s) ∧
    (s.sett.pin = false → pinSoon s = false → exec (.ksealFilterChange true) s =
      .next { s with sett := { s.sett with pin := true, pinAt := ktb s } }) ∧
    (s.sett.pin = false ∨ pinSoon s = false →
      ∃ t, exec (.ksealFilterChange false) s = .next t ∧ t.sett.pin = false ∧ t.sett.open_ = false) ∧
    (∀ low, low ≠ s.sett.pin → pinSoon s = true → exec (.ksealFilterChange low) s = .next s) ∧
    (∀ sup, sup < 7 → ∃ t, exec (.padSupplyChange sup false) s = .next t ∧ hasNat sup t.field.supAbsent = true ∧
      ∀ p, p / 32 = sup → hasNat p t.field.sync = false ∧
        hasNat p t.field.filt = (hasNat p s.field.filt && decide (pinFilter s p ≠ 0))) ∧
    (∀ sup, sup < 7 → hasNat sup s.field.supAbsent = true →
      ∃ t, exec (.padSupplyChange sup true) s = .next t ∧ hasNat sup t.field.supAbsent = false) ∧
    (∀ p v cyc, p < 208 → hasNat (p / 32) s.field.supAbsent = false →
      pinOd s p = true → pinDrive s p = some false → s.field.padq.any (fun q => q.1 == p) = false →
      ∃ t, exec (.pinFilterChange p v cyc) s = .next t ∧ hasNat p t.field.sync = false) ∧
    (∀ p v cyc, p < 208 → hasNat (p / 32) s.field.supAbsent = false → (pinOd s p = false ∨ pinDrive s p ≠ some false) →
      ∃ t, exec (.pinFilterChange p v cyc) s = .next t ∧ hasNat p t.field.sync = v ∧
        hasNat p t.field.filt = if pinFilter s p ≤ cyc then v else hasNat p s.field.filt)

/-- R330, R333, R338 to R340, R346. That SOURCE_PEND_CLEAR takes the offer of its source back is the model's choice
(notes/assumptions/35.md): the cases of R338 do not list it. -/
def Obligations.HubHostCommands : Prop :=
  ∀ s : State, hubUp s = true →
    (∀ c x, c < 8 → tgtOffer s (64 + c) = some x → ∃ t, exec (.eventClaim c) s = .next t ∧
      t.hostRd = (BitVec.ofNat 32 (2 ^ 31 + srcPrio s x * 65536 + x)).setWidth 64 ∧
      (srcGet t x).insvc = some (64 + c) ∧ (srcGet t x).pend = false ∧ (srcGet t x).offered = none) ∧
    (∀ c v, c < 8 → (srcGet s (field v 9 0)).insvc = some (64 + c) →
      ∃ t, exec (.eventEoi c v) s = .next t ∧ (srcGet t (field v 9 0)).insvc = none) ∧
    (∀ x, x < 1024 → (srcGet s x).insvc.isSome = true → ∃ t, exec (.sourceInsvcClear x) s = .next t ∧
      (srcGet t x).insvc = none) ∧
    (∀ x, x < 1024 → ∃ t, exec (.sourcePendClear x) s = .next t ∧ (srcGet t x).pend = false ∧
      (srcGet t x).offered = none ∧ (srcGet t x).insvc = (srcGet s x).insvc ∧ t.eng = s.eng ∧ t.hreg = s.hreg) ∧
    (∀ x v, x < 1024 → bitAt v 31 = false → ∃ t, exec (.sourceDisable x v) s = .next t ∧ (srcGet t x).pend = false ∧
      (srcGet t x).offered = none ∧ srcCfg t x = srcCfgNew (srcCfg s x) v ∧ t.eng = s.eng) ∧
    (∀ w v, w < 16 → exec (.softwareEventSet w v) s = .next { s with hub := { s.hub with
      sw := tblSet 0 w (tblGet 0 w s.hub.sw ||| v) s.hub.sw } }) ∧
    (∀ w v, w < 16 → exec (.softwareEventClear w v) s = .next { s with hub := { s.hub with
      sw := tblSet 0 w (tblGet 0 w s.hub.sw &&& ~~~v) s.hub.sw } }) ∧
    (∃ t, exec .hubDisable s = .next t ∧ hubEn t = false ∧ t.eng = s.eng ∧ t.hub.sw = s.hub.sw ∧ t.hub.tmr = s.hub.tmr ∧
      ∀ x, (srcGet t x).insvc = (srcGet s x).insvc ∧ (srcGet t x).pend = (srcGet s x).pend ∧ (srcGet t x).offered = none)

/-- R331, R333, R337, R338, R344, R346. -/
def Obligations.HubSamplesOffersAndTimers : Prop :=
  ∀ s : State, domStat s 83 = 1 →
    (∀ x, ∃ t, exec (.eventSourcePending x) s = .next t ∧ (srcGet t x).insvc = (srcGet s x).insvc ∧
      (∀ y, y ≠ x → srcGet t y = srcGet s y) ∧ t.hreg = s.hreg ∧
      (srcReserved x = false → (srcGet t x).raw = srcSignal s x) ∧ (srcReserved x = true → t = s)) ∧
    (∀ x, srcReserved x = false → srcActive s x = true → srcMode s x = 0 → srcSignal s x = true →
      (srcGet s x).insvc = none → (srcGet s x).pend = false →
      ∃ t, exec (.eventSourcePending x) s = .next t ∧ (srcGet t x).pend = true) ∧
    (hubEn s = false → ∃ t, exec .eventOffer s = .next t ∧ t.eng = s.eng ∧ t.hreg = s.hreg ∧
      ∀ x, (srcGet t x).offered = none ∧ (srcGet t x).pend = (srcGet s x).pend ∧ (srcGet t x).insvc = (srcGet s x).insvc) ∧
    (hubEn s = true → ∃ t, exec .eventOffer s = .next t ∧ t.eng = s.eng ∧ t.hreg = s.hreg ∧
      ∀ x, (srcGet t x).pend = (srcGet s x).pend ∧ (srcGet t x).insvc = (srcGet s x).insvc) ∧
    (hubEn s = true → (∀ x, (srcGet s x).offered = none) → ∀ x k, k < 72 → srcCandidate s x k = true →
      (∀ y, y ≠ x → srcCandidate s y k = true → srcBefore s x y = true) →
      ∃ t, exec .eventOffer s = .next t ∧ (srcGet t x).offered = some k ∧ (srcGet t x).rot = k) ∧
    (hubEn s = true → ∀ x y k, k < 72 → (∀ z, z ≠ y → (srcGet s z).offered = none) → (srcGet s y).offered = some k →
      offerStands s y k = true → srcPrio s y < srcPrio s x → srcCandidate s x k = true →
      (∀ z, z ≠ x → srcCandidate s z k = true → srcBefore s x z = true) →
      ∃ t, exec .eventOffer s = .next t ∧ (srcGet t x).offered = some k ∧ (srcGet t y).offered ≠ some k) ∧
    (∀ g, g < 64 → ∃ t, exec (.holdoffExpire g) s = .next t ∧ t.hub.src = s.hub.src ∧
      (∀ h, h ≠ g → tblGet {} h t.hub.tmr = tblGet {} h s.hub.tmr) ∧
      ((tblGet {} g s.hub.tmr).left ≠ 0 → holdRemain s g = 0 → tblGet {} g t.hub.tmr = {} ∧
        cntGet t (0x27C08 + g * 0x10) = satCount (cntGet s (0x27C08 + g * 0x10)) (b2n (groupPending s g))) ∧
      (((tblGet {} g s.hub.tmr).left = 0 ∨ holdRemain s g ≠ 0) → t = s))

/-- The instructions that write one general register and nothing else (R177 to R183, R205 to R209, R212 to R215, R182's
GETP), for every operand form: the whole next state. -/
def Obligations.IntegerInstructionsComplete : Prop :=
  ∀ (s : State) (n : Nat) (y : Syl) (nx : Nat),
    let a := opA s n y
    let b := opB s n y
    let d := regG (engGet s n) (sylRd y.word)
    let m := sylMinor y.word
    let j := sylMajor y.word
    let out := fun v : Word => (.next (engSet s n (putG (retired (engGet s n) nx) (sylRd y.word) v)) :
      Host.Outcome State Fault Refusal)
    (Runs s n y .alu nx → ∃ v, aluOp m a b = some v ∧ exec (.alu n) s = out v) ∧
    (Runs s n y .aluImm nx → ∃ v, aluOp (if j = 3 then 0 else if j = 4 then 2 else if j = 5 then 3 else 4) a b = some v ∧
      exec (.aluImmediate n) s = out v) ∧
    (Runs s n y .shiftImm nx → ∃ v, aluOp (if j = 7 then 7 else if j = 8 then 8 else if j = 9 then 9 else 10) a
      (BitVec.ofNat 32 (field y.word 4 0)) = some v ∧ exec (.shiftImmediate n) s = out v) ∧
    (Runs s n y .unary nx → ∃ v, unaryOp m a = some v ∧ exec (.unary n) s = out v) ∧
    (Runs s n y .sat nx → ∃ v, satOp m a b = some v ∧ exec (.sat n) s = out v) ∧
    (Runs s n y .mul nx → ∃ v, mulOp (if j = 0x22 then 0 else m) d a b = some v ∧ exec (.mul n) s = out v) ∧
    (Runs s n y .bit nx → ∃ v, bitOp m a = some v ∧ exec (.bit n) s = out v) ∧
    (Runs s n y .fld nx → ∃ v, fldOp m d a b = some v ∧ exec (.fld n) s = out v) ∧
    (Runs s n y .fop nx → ∃ v, fopOp m d a b = some v ∧ exec (.fop n) s = out v) ∧
    (Runs s n y .fcvt nx → ∃ v, fcvtOp m a = some v ∧ exec (.fcvt n) s = out v) ∧
    (Runs s n y .getp nx → exec (.getp n) s = out (predWord (engGet s n))) ∧
    (Runs s n y .crcStep nx → exec (.crcStep n) s =
      out (crcStep (engCrc (engGet s n)) a (leBytes (2 ^ m) (regG (engGet s n) (sylRb y.word)).toNat))) ∧
    (Runs s n y .crcInit nx → exec (.crcinit n) s = out (crcInit (engCrc (engGet s n)))) ∧
    (Runs s n y .crcFin nx → exec (.crcfin n) s = out (crcFin (engCrc (engGet s n)) a))

/-- The instructions that write predicates (R181, R182, R214): the whole next state. -/
def Obligations.PredicateInstructionsComplete : Prop :=
  ∀ (s : State) (n : Nat) (y : Syl) (nx : Nat),
    let e := engGet s n
    let a := opA s n y
    let b := opB s n y
    let m := sylMinor y.word
    let j := sylMajor y.word
    let out := fun v : Bool => (.next (engSet s n (putP (retired e nx) (sylRd y.word) v)) :
      Host.Outcome State Fault Refusal)
    (Runs s n y .cmp nx →
      ∃ v, cmpOp (if j < 0x12 then m else if j = 0x18 then 6 else if j = 0x19 then 9 else j - 0x12) a b = some v ∧
        exec (.cmp n) s = out v) ∧
    (Runs s n y .plog nx → ∃ v, plogOp m (regP e (sylRa y.word)) (regP e (sylRb y.word)) = some v ∧
      exec (.plog n) s = out v) ∧
    (Runs s n y .fcmp nx → ∃ v, fcmpOp m a b = some v ∧ exec (.fcmp n) s = out v) ∧
    (Runs s n y .setp nx → ∃ q : Byte, exec (.setp n) s = .next (engSet s n { retired e nx with p := q }) ∧
      ∀ k, 1 ≤ k → k ≤ 7 → bitAt q k = bitAt a k)

/-- The capability instructions of R193, R194 and R236: the whole next state wherever the derivation raises no fault. -/
def Obligations.CapabilityInstructionsComplete : Prop :=
  ∀ (s : State) (n : Nat) (y : Syl) (nx : Nat),
    let e := engGet s n
    let cs := regC e (sylRa y.word)
    let ct := regC e (sylRb y.word)
    let x := opB s n y
    let outC := fun v : W128 => (.next (engSet s n (putC (retired e nx) (sylRd y.word) v)) : Host.Outcome State Fault Refusal)
    let outG := fun v : Word => (.next (engSet s n (putG (retired e nx) (sylRd y.word) v)) : Host.Outcome State Fault Refusal)
    (Runs s n y .cmov nx → exec (.cmov n) s = outC cs) ∧
    (Runs s n y .csetb nx → ∀ v, capSetB e.compat cs x = .ok v → exec (.csetb n) s = outC v) ∧
    (Runs s n y .csetl nx → ∀ v, capSetL e.compat cs x = .ok v → exec (.csetl n) s = outC v) ∧
    (Runs s n y .csetbl nx → ∀ v, capSetBL e.compat cs (regG e (sylRb y.word)) y.ext = .ok v →
      exec (.csetbl n) s = outC v) ∧
    (Runs s n y .candp nx → ∀ v, capAndP e.compat cs x = .ok v → exec (.candp n) s = outC v) ∧
    (Runs s n y .cgetb nx → exec (.cgetb n) s = outG (capBase cs)) ∧
    (Runs s n y .cgetl nx → exec (.cgetl n) s = outG (capLimit cs)) ∧
    (Runs s n y .cgetp nx → exec (.cgetp n) s = outG ((capPerm cs).setWidth 32)) ∧
    (Runs s n y .cgett nx → exec (.cgett n) s = outG (BitVec.ofNat 32 (capOtype cs))) ∧
    (Runs s n y .cseal nx → e.compat = false → ∀ v, capSeal cs ct = .ok v → exec (.cseal n) s = outC v) ∧
    (Runs s n y .cunseal nx → e.compat = false → ∀ v, capUnseal cs ct = .ok v → exec (.cunseal n) s = outC v) ∧
    (Runs s n y .csentry nx → e.compat = false → ∀ v, capSentry cs = .ok v → exec (.csentry n) s = outC v)

/-- The special-register, terminal and fence instructions (R141, R192, R230, R231): the whole next state. -/
def Obligations.SpecialRegisterInstructionsComplete : Prop :=
  ∀ (s : State) (n : Nat) (y : Syl) (nx : Nat),
    let e := engGet s n
    let r := retired e nx
    let rd := sylRd y.word
    let ra := sylRa y.word
    let out := fun f : Engine => (.next (engSet s n f) : Host.Outcome State Fault Refusal)
    (Runs s n y .mfs nx → ∀ v, sprGet s n ra = some v →
      exec (.mfs n) s = .next (goOn (sprSeen (engSet s n (putG (bundleOver e) rd v)) n ra) n nx)) ∧
    (Runs s n y .mts nx → sprWritable rd = true → (sprPriv rd = true → privOk e.compat e.ring e.pcc = true) →
      exec (.mts n) s = out (sprPut r rd (regG e ra))) ∧
    (Runs s n y .cmfs nx → ra ≤ 3 → (ra ≠ 0 → privOk e.compat e.ring e.pcc = true) →
      exec (.cmfs n) s = out (putC r rd (xpccGet e ra))) ∧
    (Runs s n y .cmts nx → 1 ≤ rd → rd ≤ 3 → privOk e.compat e.ring e.pcc = true →
      exec (.cmts n) s = out (xpccPut r rd (regC e ra))) ∧
    (Runs s n y .twr nx → e.dtxf = false →
      exec (.twr n) s = out (putP { r with dtx := regG e ra, dtxf := true } rd true)) ∧
    (Runs s n y .twr nx → e.dtxf = true → exec (.twr n) s = out (putP r rd false)) ∧
    (Runs s n y .trd nx → e.drxf = true →
      exec (.trd n) s = out (putP { putG r rd e.drx with drxf := false } (sylRb y.word) true)) ∧
    (Runs s n y .trd nx → e.drxf = false → exec (.trd n) s = out (putP r (sylRb y.word) false)) ∧
    (Runs s n y .fence nx → (engGet s (lockId s n)).farOut = 0 → exec (.fence n) s = out r)

/-- R160 for every operation that is no transfer (BR, BLC, JR, CJ and CJO resolve as not taken instead). -/
def Obligations.FalseGuardChangesNothing : Prop :=
  ∀ (op : Op) (s : State) (n : Nat) (y : Syl) (nx : Nat), Alone s n y op nx → opIsTransfer op = false →
    guardOf (engGet s n) y = false →
    exec (commandOf op n) s = .next (engSet s n (retired (engGet s n) nx))

/-- R187 to R189 with R150, R152, R156, R494 and R497, for every local region and every operand form: the whole next state. -/
def Obligations.LoadsAndStoresComplete : Prop :=
  ∀ (s : State) (n : Nat) (y : Syl) (nx : Nat) (a : Word),
    let e := engGet s n
    let k := lsCode y
    let c := regC e (sylRa y.word)
    let rd := sylRd y.word
    let traced := fun (store : Bool) (size : Nat) (v : W128) => trcAccess (engMap s n bundleOver) n store a size v
    let made := fun (bs : List Byte) (cap : Bool) =>
      unlessHeld s n (goOn (engStore (traced true bs.length (BitVec.ofNat 128 (leNat bs))) n a bs cap) n nx)
    (Runs s n y .load nx → engCheck e c (lsOffset e y) (lsSize k) (lsSize k) .load = .ok a →
      ∀ v, engLoad s n a.toNat (lsSize k) = .val v →
        exec (.load n) s = unlessHeld s n (engMap (ticketTake (traced false (lsSize k) v) n a (lsSize k)) n
          (fun f => putLoad k rd v { f with pc := BitVec.ofNat 32 nx }))) ∧
    (Runs s n y .ldc nx → engCheck e c (lsOffset e y) 16 16 .loadCap = .ok a →
      ∀ v, engLoad s n a.toNat 16 = .val v →
        (if e.compat then descWf v = true
         else regionOf n a.toNat = .dmem ∧ hasNat ((a.toNat - 0x10000000) / 16) e.valid = true) →
        exec (.ldc n) s = unlessHeld s n (engMap (ticketTake (traced false 16 v) n a 16) n
          (fun f => putC { f with pc := BitVec.ofNat 32 nx } rd v))) ∧
    (Runs s n y .store nx → engCheck e c (lsOffset e y) (lsSize k) (lsSize k) .store = .ok a →
      engStoreCheck s n a.toNat = .val 0 →
        exec (.store n) s = made (storeBytes e k rd) false) ∧
    (Runs s n y .stc nx → engCheck e c (lsOffset e y) 16 16 .storeCap = .ok a →
      engStoreCheck s n a.toNat = .val 0 →
        exec (.stc n) s = made (leBytes 16 (regC e rd).toNat) (!e.compat))

/-- The store that STORE and STC make (`engStore`), seen through the read of one byte of DMEM (R145, R152, R187). -/
def Obligations.DmemStoreWritesItsBytesOnly : Prop :=
  ∀ (s : State) (n : Nat) (a : Word) (bs : List Byte), regionOf n a.toNat = .dmem →
    let o := a.toNat - 0x10000000
    let t := engStore s n a bs false
    t = engSet s n { engGet s n with dmem := (engGet t n).dmem, valid := (engGet t n).valid } ∧
    (∀ i, (h : i < bs.length) → memGet (engGet t n).dmem (o + i) = bs[i]) ∧
    (∀ q, q < o ∨ o + bs.length ≤ q → memGet (engGet t n).dmem q = memGet (engGet s n).dmem q) ∧
    (∀ g, g ∈ (engGet t n).valid ↔ g ∈ (engGet s n).valid ∧ ¬(0 < bs.length ∧ o / 16 ≤ g ∧ g ≤ (o + bs.length - 1) / 16))

/-- R165, R191: the next state in full for the instruction alone, where no trace record holds the engine. That FAR_STORE_COMPLETE takes
the oldest store is the model's choice (notes/assumptions/51.md): R165 orders only accesses to the same bytes. -/
def Obligations.FarAccessesComplete : Prop :=
  ∀ (s : State) (n : Nat) (y : Syl) (nx : Nat) (a : Word),
    let e := engGet s n
    let k := lsCode y
    let c := regC e (sylRa y.word)
    let rd := sylRd y.word
    let ended := fun (z : State) => engMap z n bundleOver
    (flows s n → Waits s n y .load nx (.farLoad false) → engCheck e c (lsOffset e y) (lsSize k) (lsSize k) .load = .ok a →
      regionOf n a.toNat = .far → ∀ v : W128, let got := farValue s n a (lsSize k) v
      exec (.farLoadData n (some v)) s =
        .next (engMap (trcAccess (ended (farOrder s n a (lsSize k))) n false a (lsSize k) got) n
          (fun f => putLoad k rd got { f with pc := BitVec.ofNat 32 nx })) ∧
      (engGet (farOrder s n a (lsSize k)) n).farSt = e.farSt.filter (fun q => !farMeets a.toNat (lsSize k) q) ∧
      (e.farSt = [] → got = v &&& BitVec.ofNat 128 (2 ^ (8 * lsSize k) - 1) ∧ farOrder s n a (lsSize k) = engSet s n e)) ∧
    (flows s n → Waits s n y .store nx (.farStore false) →
      engCheck e c (lsOffset e y) (lsSize k) (lsSize k) .store = .ok a →
      regionOf n a.toNat = .far → e.farOut < 8 →
      let bs := storeBytes e k rd
      exec (.farStoreAccept n true) s =
        .next (goOn (dramPut (engMap (trcAccess (ended s) n true a bs.length (BitVec.ofNat 128 (leNat bs))) n
          (fun f => { f with farOut := f.farOut + 1, farSt := f.farSt ++ [(a.toNat, bs)] })) (if n = 66 then 8 else cluOf n)
          (a.toNat - 0x80000000) bs) n nx)) ∧
    (0 < e.farOut → e.hold ≠ .fence →
      exec (.farStoreComplete n) s = .next (engSet s n { e with farOut := e.farOut - 1, farSt := e.farSt.drop 1 }))

/-- R160, R167, R197 to R200, R259: the fields of the engine that the transfer sets. That bits 1:0 of the target of a native CJ or CJO
are cleared, as the others clear theirs, is the model's choice (notes/assumptions/62.md): R200 does not say. -/
def Obligations.TransfersComplete : Prop :=
  ∀ (s : State) (n : Nat) (y : Syl) (nx : Nat),
    let e := engGet s n
    let rd := sylRd y.word
    let here : Word := BitVec.ofNat 32 (pcAt e.pc)
    let link : Word := BitVec.ofNat 32 (afterBundle s n nx)
    let cs := regC e (sylRa y.word)
    let gb := regG e (sylRb y.word)
    let due := fun (t : State) (target : Word) (pcc : Option W128) (ring : Option Nat) =>
      (engGet t n).pc = BitVec.ofNat 32 nx ∧ (engGet t n).hold = .none ∧
      (engGet t n).xfer = some
        { src := here, lcBefore := e.lc, taken := true, annul := false, target := target &&& 0xFFFFFFFC, newPcc := pcc, newRing := ring }
    let slot := fun (t : State) (target : Word) (pcc : Option W128) => due t target pcc none
    let fell := fun (t : State) (op : Op) => (engGet t n).hold = .none ∧
      (annulBit y op = true → (engGet t n).pc = link ∧ (engGet t n).xfer = none) ∧
      (annulBit y op = false → (engGet t n).pc = BitVec.ofNat 32 nx ∧
        ∃ x, (engGet t n).xfer = some x ∧ x.taken = false ∧ x.newPcc = none ∧ x.newRing = none)
    (Runs s n y .br nx → ∃ t, exec (.br n) s = .next t ∧
      slot t (if sylLong y then here + y.ext else here + (sylImm y.word <<< 2)) none ∧
      ∀ r, regG (engGet t n) r = if r = rd ∧ r ≠ 0 then link else regG e r) ∧
    (Runs s n y .jr nx → ∃ t, exec (.jr n) s = .next t ∧ slot t (regG e (sylRa y.word)) none ∧
      ∀ r, regG (engGet t n) r = if r = rd ∧ r ≠ 0 then link else regG e r) ∧
    (Runs s n y .blc nx → 1 < e.lc.toNat → ∃ t, exec (.blc n) s = .next t ∧
      slot t (here + (sylImm y.word <<< 2)) none ∧ (engGet t n).lc = e.lc - 1 ∧ (engGet t n).g = e.g) ∧
    (Runs s n y .blc nx → e.lc.toNat ≤ 1 → ∃ t, exec (.blc n) s = .next t ∧ fell t .blc ∧ (engGet t n).lc = 0 ∧
      (engGet t n).g = e.g) ∧
    (∀ op, opIsTransfer op = true → Alone s n y op nx → guardOf e y = false → ∃ t, exec (commandOf op n) s = .next t ∧
      fell t op ∧ (engGet t n).g = e.g ∧ (engGet t n).c = e.c ∧ (engGet t n).lc = e.lc) ∧
    (Runs s n y .cj nx → e.compat = false → capHas cs pEX = true → (capOtype cs = 0 ∨ capOtype cs = 255) →
      ∃ t, exec (.cj n) s = .next t ∧ slot t (capBase cs) (some (capSetOtype cs 0)) ∧
        (∀ r, regC (engGet t n) r = if r = rd ∧ r ≠ 0 then e.pcc else regC e r) ∧
        ∀ r, regG (engGet t n) r = if r = sylRb y.word ∧ r ≠ 0 then link - capBase e.pcc else regG e r) ∧
    (Runs s n y .cjo nx → e.compat = false → capHas cs pEX = true → capOtype cs = 0 →
      ∃ t, exec (.cjo n) s = .next t ∧ slot t (capBase cs + gb) (some cs) ∧
        (engGet t n).g = e.g ∧ (engGet t n).c = e.c) ∧
    (Runs s n y .cj nx → e.compat = true → descType cs ≠ 3 → descJump cs e.ring = none →
      ∃ t, exec (.cj n) s = .next t ∧ slot t (capBase cs) (some cs) ∧
        (∀ r, regC (engGet t n) r = if r = rd ∧ r ≠ 0 then e.pcc else regC e r) ∧
        ∀ r, regG (engGet t n) r = if r = sylRb y.word ∧ r ≠ 0 then (link - capBase e.pcc) ||| BitVec.ofNat 32 e.ring else regG e r) ∧
    (Runs s n y .cjo nx → e.compat = true → descType cs ≠ 3 → descJump cs (max e.ring (field gb 1 0)) = none →
      ∃ t, exec (.cjo n) s = .next t ∧
        due t (capBase cs + (gb &&& 0xFFFFFFFC)) (some cs) (some (max e.ring (field gb 1 0))) ∧
        (engGet t n).g = e.g ∧ (engGet t n).c = e.c) ∧
    (Runs s n y .cjo nx → e.compat = true → descType cs = 3 → ∀ (g d : W128) (ta : Word) acts,
      evGate s n { here := pcAt e.pc, next := nx } y cs gb = .acts acts →
      engLoad s n (capBase cs + (gb <<< 4)).toNat 16 = .val g →
      engCheck e (regC e 15) (BitVec.ofNat 32 (16 * field g 47 32)) 16 16 .load = .ok ta → engLoad s n ta.toNat 16 = .val d →
      ∃ t, exec (.cjo n) s = unlessHeld s n t ∧ due t (capBase d + g.setWidth 32) (some d) (some (field g 49 48)) ∧
        (∀ r, regC (engGet t n) r = if r = 14 then e.pcc else regC e r) ∧
        ∀ r, regG (engGet t n) r = if r = 30 then (link - capBase e.pcc) ||| BitVec.ofNat 32 e.ring else regG e r)

/-- R167 and R201 with ALU in the slot, for a transfer that does not change the ring. -/
def Obligations.DelaySlotThenTarget : Prop :=
  ∀ (s : State) (n : Nat) (y : Syl) (nx : Nat) (x : Xfer), let e := engGet s n
    engReady s n issueHold = true → e.hold = .none → partnerOf s n = none → decodeBundle s n = .ok [y] [.alu] nx →
    e.xfer = some x → x.newRing = none → e.swapPend = false → e.dbg.stepping = false → e.rep = none →
    e.u.donePos = [] → e.u.done = [] → guardOf e y = true →
    (entPriv y.entry = true → privOk e.compat e.ring e.pcc = true) → needOk e y = true → sylUcode y = false →
    ∃ v, aluOp (sylMinor y.word) (opA s n y) (opB s n y) = some v ∧
      exec (.alu n) s = .next (engSet s n (putG
        { bundleOver e with xfer := none, pc := (if x.taken then x.target else BitVec.ofNat 32 nx), pcc := x.newPcc.getD e.pcc }
        (sylRd y.word) v))

/-- R170, R171: the prefix checks its count and its body (one syllable, not of class C), then skips, runs or enters it. -/
def Obligations.RepeatPrefixesComplete : Prop :=
  ∀ (s : State) (n : Nat) (y b : Syl) (nx after : Nat),
    let e := engGet s n
    fetchFrom false s n 8 nx = .bundle [b] after → entCls b.entry ≠ some .c →
    (Runs s n y .rep nx → e.lc = 0 → exec (.rep n) s = .next (engSet s n (retired e after))) ∧
    (Runs s n y .repi nx → e.lc = 0 → exec (.repi n) s = .next (engSet s n (retired e after))) ∧
    (Runs s n y .repi nx → 1 ≤ e.lc.toNat → e.lc.toNat ≤ 65535 →
      exec (.repi n) s = .next (engSet s n
        { retired e nx with repact := true, rep := some { prefixAt := e.pc, repi := true } })) ∧
    (let once := fun f : Engine => putG f (sylRd b.word)
       ((aluOp (sylMinor b.word) (regG f (sylRa b.word)) (sylB b (regG f (sylRb b.word)))).getD 0)
     guardOf e b = true → (entPriv b.entry = true → privOk e.compat e.ring e.pcc = true) → needOk e b = true → sylUcode b = false →
     (Runs s n y .rep nx → 1 ≤ e.lc.toNat → e.lc.toNat ≤ 256 →
       decodeBundle (engSet s n { e with pc := BitVec.ofNat 32 nx }) n = .ok [b] [.alu] after →
       exec (.rep n) s = .next (engSet s n
         { Nat.iterate once e.lc.toNat (bundleOver e) with
           lc := 0, rep := none, repact := false, pc := BitVec.ofNat 32 after })) ∧
     (∀ r, e.rep = some r → r.repi = true → engReady s n issueHold = true → e.hold = .none → partnerOf s n = none →
       decodeBundle s n = .ok [b] [.alu] after → e.xfer = none → e.swapPend = false → e.dbg.stepping = false → e.u.donePos = [] →
       e.u.done = [] →
       exec (.alu n) s = .next (engSet s n
         (if e.lc - 1 = 0 then
           { once (bundleOver e) with lc := 0, rep := none, repact := false, pc := BitVec.ofNat 32 after }
          else { once (bundleOver e) with lc := e.lc - 1 })))) ∧
    (Runs s n y .rep nx → 256 < e.lc.toNat →
      bundleRes s n = .trap { cause := .illegal, adr := BitVec.ofNat 32 (pcAt e.pc) }) ∧
    (Runs s n y .repi nx → 65535 < e.lc.toNat →
      bundleRes s n = .trap { cause := .illegal, adr := BitVec.ofNat 32 (pcAt e.pc) })

/-- R55, R71, R218 to R221 and R494 in full, for the instruction alone in a traced or an untraced engine and, for TPOP and TPEEK, a buffer in
DMEM whose tiles pass their checks. -/
def Obligations.CellInstructionsComplete : Prop :=
  ∀ (s : State) (n : Nat) (y : Syl) (nx : Nat) (a : Word),
    let e := engGet s n
    let b := sylMinor y.word
    let rd := sylRd y.word
    let c := regC e (sylRa y.word)
    let off := regG e (sylRb y.word)
    let s0 := engMap s n bundleOver
    let have_ := (availCells s n).take b
    let bytes := have_.flatMap (fun q => leBytes 16 q.toNat)
    let count := BitVec.ofNat 32 have_.length
    let put := fun (z : State) (v : Word) => engMap z n (fun f => putG { f with pc := BitVec.ofNat 32 nx } rd v)
    (Runs s n y .tpop nx → b = 0 → exec (.tpop n) s = .next (put s0 0)) ∧
    (Runs s n y .tpeek nx → b = 0 → exec (.tpeek n) s = .next (put s0 0)) ∧
    (Runs s n y .tpush nx → b = 0 → exec (.tpush n) s = .next (put s0 0)) ∧
    (Runs s n y .tpop nx → 0 < b → have_ = [] → engCheck e c off (16 * b) 16 .store = .ok a →
      exec (.tpop n) s = .next (put (inqPop s0 n 0) 0)) ∧
    (Runs s n y .tpeek nx → 0 < b → have_ = [] → engCheck e c off (16 * b) 16 .store = .ok a →
      exec (.tpeek n) s = .next (put (inqPop s0 n 0) 0)) ∧
    (Runs s n y .tpop nx → 0 < have_.length → engCheck e c off (16 * b) 16 .store = .ok a →
      (∀ i, i < have_.length → engStoreCheck s n (a.toNat + 16 * i) = .val 0) → regionOf n a.toNat = .dmem →
      (∀ t, engTileBad s n true t = false) →
      exec (.tpop n) s = .next (put (inqPop (engStore s0 n a bytes false) n have_.length) count)) ∧
    (Runs s n y .tpeek nx → 0 < have_.length → engCheck e c off (16 * b) 16 .store = .ok a →
      (∀ i, i < have_.length → engStoreCheck s n (a.toNat + 16 * i) = .val 0) → regionOf n a.toNat = .dmem →
      (∀ t, engTileBad s n true t = false) →
      exec (.tpeek n) s = .next (put (inqPop (engStore s0 n a bytes false) n 0) count)) ∧
    (Runs s n y .tpush nx → 0 < b → e.pushDone = 0 → e.pushPut = 0 → engCheck e c off (16 * b) 16 .load = .ok a →
      ∀ vs : List W128, vs.length = b →
      (∀ i, (h : i < vs.length) → engLoad s n (a + BitVec.ofNat 32 (16 * i)).toNat 16 = .val vs[i]) →
      (pushStalls s n vs = false →
        exec (.tpush n) s = .next (put (pushAll s0 n true 0 vs).2 (BitVec.ofNat 32 (pushPlaced s n vs)))) ∧
      (pushStalls s n vs = true →
        exec (.tpush n) s = .next (pushSome s n 0 (vs.take (pushFits s n vs))))) ∧
    (Runs s n y .tpopr nx → availCells s n = [] →
      exec (.tpopr n) s = .next (engMap (inqPop s0 n 0) n (fun f => putLoad 6 rd fillCell { f with pc := BitVec.ofNat 32 nx }))) ∧
    (Runs s n y .tpopr nx → ∀ q rest, availCells s n = q :: rest →
      exec (.tpopr n) s = .next (engMap (inqPop s0 n 1) n (fun f => putLoad 6 rd q { f with pc := BitVec.ofNat 32 nx }))) ∧
    (Runs s n y .tpushr nx → e.pushDone = 0 → pushStalls s n [quad e rd] = false →
      exec (.tpushr n) s = .next (goOn (pushAll s0 n true 0 [quad e rd]).2 n nx))

/-- R82, R111 to R117, R119, R224 to R227, R494 and R497 for the instruction alone. -/
def Obligations.ContextInstructionsComplete : Prop :=
  ∀ (s : State) (n : Nat) (y : Syl) (nx i : Nat),
    let e := engGet s n
    let rd := sylRd y.word
    let s0 := engMap s n bundleOver
    let goes := fun (z : State) => goOn z n nx
    i = field (regG e (sylRa y.word)) 16 0 →
    (Runs s n y .ctxOpen nx → e.ctxOpen = none → engMayOpen s n i = true → engRecBad s n i 0 = false →
      engRecBad s n i 1 = false → lockedByOther s n i = false →
      ∃ t, exec (.ctxopen n) s = unlessHeld s n t ∧ (engGet t n).ctxOpen = some i ∧ (engGet t n).window = engRec s n i ∧
        (rd ≠ 0 → regP (engGet t n) rd = true) ∧ (engGet t n).pc = BitVec.ofNat 32 nx) ∧
    (Runs s n y .ctxCommit nx → ∀ j, e.ctxOpen = some j → engRecBad s n j 0 = false → windowBad s n = none →
      let z := goes (portServed (ctxCommitNow s0 n e.window true) n)
      exec (.ctxcommit n) s = unlessHeld s n (ctxClosed z n) ∧ (engGet z n).ctxOpen = none) ∧
    (Runs s n y .ctxDrop nx → ∀ j, e.ctxOpen = some j →
      let z := goes (ctxDropNow s0 n)
      exec (.ctxdrop n) s = unlessHeld s n (ctxClosed z n) ∧
      engGet z n = { retired e nx with ctxOpen := none, outq := e.outq.filter (fun o => !o.pend) } ∧ z.store = s.store) ∧
    (∀ z : State, z.svc.acts = [] → (engGet z n).swapPend = false → ctxClosed z n = z) ∧
    (Runs s n y .ctxLock nx → engMayOpen s n i = true → engRecBad s n i 0 = false →
      lockHolder (recLock (engRec s n i)) = none → (locksOf s (lockId s n)).length < 4 →
      exec (.ctxlock n) s = unlessHeld s n
        (engMap (portServed (ctxLockNow s0 n i true) n) n (fun f => putP { f with pc := BitVec.ofNat 32 nx } rd true))) ∧
    (Runs s n y .ctxLock nx → engMayOpen s n i = true → engRecBad s n i 0 = false →
      lockHolder (recLock (engRec s n i)) = some (lockId s n) →
      exec (.ctxlock n) s = .next (engSet s n (putP (retired e nx) rd true))) ∧
    (Runs s n y .ctxUnlock nx → engMayOpen s n i = true → engRecBad s n i 0 = false →
      exec (.ctxunlock n) s = unlessHeld s n (goes (portServed (ctxUnlockNow s0 n i true) n))) ∧
    (Runs s n y .dispatch nx → e.ctxOpen = none → ∀ arr j z, nextEntry s n = some (arr, j, z) → engRecBad s n j 0 = false →
      ∃ t, exec (.dispatch n) s = .next t ∧ (engGet t n).pc = BitVec.ofNat 32 nx ∧
        (rd ≠ 0 → regG (engGet t n) rd = BitVec.ofNat 32 (b2n arr * 2 ^ 31 + j)) ∧
        regG (engGet t n) (rd + 1) = recPtr (engRec s n j) ∧
        (engGet t n).inq = (engGet z n).inq ∧ (engGet t n).scan = (engGet z n).scan)

/-- R82, R114 to R116, R119 and R229 for the instruction alone; the lock waits end in an engine that no trace record holds. -/
def Obligations.EngineWaitsEnd : Prop :=
  ∀ (s : State) (n : Nat) (y : Syl) (nx : Nat),
    let e := engGet s n
    let rd := sylRd y.word
    let i := field (regG e (sylRa y.word)) 16 0
    let lim := 0x6100 + cluOf n * 0x20
    (Runs s n y .tickWait nx → e.ctxOpen = none →
      exec (.tickwait n) s = .next (engSet s n { e with hold := .tick, waitFrom := ktb s, waitCyc := 0 })) ∧
    (e.hold = .tick → (engGet (edgeSeen s n) n).hold = .tickMet ∧ (engGet (edgeSeen s n) n).told.tick = some (tickReport s n)) ∧
    (Waits s n y .tickWait nx .tickMet → e.ctxOpen = none → ∀ v, e.told.tick = some v →
      exec (.tickwaitEdge n) s = .next (engSet s n (putG (retired e nx) rd v))) ∧
    (Waits s n y .dispatch nx .dispatch → e.ctxOpen = none → ∀ arr j z, nextEntry s n = some (arr, j, z) → engRecBad s n j 0 = false →
      ∃ t, exec (.dispatchEntryReady n) s = .next t ∧ (engGet t n).hold = .none ∧
        (engGet t n).pc = BitVec.ofNat 32 nx ∧
        (rd ≠ 0 → regG (engGet t n) rd = BitVec.ofNat 32 (b2n arr * 2 ^ 31 + j)) ∧
        regG (engGet t n) (rd + 1) = recPtr (engRec s n j)) ∧
    (∀ op, (op = .ctxLock ∧ (locksOf s (lockId s n)).length < 4 ∨ op = .ctxOpen ∧ e.ctxOpen = none) → Runs s n y op nx →
      engMayOpen s n i = true → engRecBad s n i 0 = false → noLockWait s n = false →
      (∃ h, lockHolder (recLock (engRec s n i)) = some h ∧ h ≠ lockId s n) →
      exec (commandOf op n) s = .next (engSet s n { e with hold := .lock, waitFrom := ktb s, waitCyc := 0 })) ∧
    (n < 64 → flows s n → Waits s n y .ctxLock nx .lock → engMayOpen s n i = true → engRecBad s n i 0 = false →
      lockHolder (recLock (engRec s n i)) = none → (locksOf s (lockId s n)).length < 4 → portNext s (cluOf n) = some n → ∀ cyc,
      cyc < lockLeft s n → ∃ t, exec (.lockWaitEnd n cyc) s = .next t ∧ (engGet t n).hold = .none ∧ (engGet t n).pc = BitVec.ofNat 32 nx ∧
        (rd ≠ 0 → regP (engGet t n) rd = true) ∧ cntGet t (lim + 4) = satCount (cntGet s (lim + 4)) cyc) ∧
    (n < 64 → Waits s n y .ctxLock nx .lock → engMayOpen s n i = true → engRecBad s n i 0 = false →
      (∃ h, lockHolder (recLock (engRec s n i)) = some h ∧ h ≠ lockId s n) → (locksOf s (lockId s n)).length < 4 →
      (∀ cyc, cyc < lockLeft s n → exec (.lockWaitEnd n cyc) s = .next (lockStall s n cyc)) ∧
      ∃ t, exec (.lockWaitTimeout n) s = .next t ∧ (∀ cyc, lockLeft s n ≤ cyc → exec (.lockWaitEnd n cyc) s = .next t) ∧
        (engGet t n).hold = .none ∧ (engGet t n).pc = BitVec.ofNat 32 nx ∧ (rd ≠ 0 → regP (engGet t n) rd = false) ∧
        cntGet t (lim + 4) = satCount (cntGet s (lim + 4)) (lockLeft s n) ∧
        cntGet t (lim + 8) = satCount (cntGet s (lim + 8)) 1)

/-- R184, R210, R216, R234 and R284 for routines of the micro-ROM, and the start of a routine in micro-RAM. -/
def Obligations.MicrocodedInstructionsComplete : Prop :=
  ∀ (s : State) (n : Nat) (y : Syl) (nx cyc : Nat),
    let e := engGet s n
    let rd := sylRd y.word
    let m := sylMinor y.word
    let starts := fun (i : Instr) (t : State) => exec i s = .next t ∧
      t = engSet s n (engGet t n) ∧ (engGet t n).hold = .micro ∧ (engGet t n).g = e.g ∧ (engGet t n).pc = e.pc
    let ends := fun (t : State) (v : Word) => ∃ u, exec (.microroutineComplete n cyc) t = .next u ∧
      (engGet u n).hold = .none ∧ (engGet u n).pc = BitVec.ofNat 32 nx ∧
      ∀ r, regG (engGet u n) r = if r = rd ∧ r ≠ 0 then v else regG e r
    sylUcode y = true → 0 < cyc → e.u.late = none → e.u.park = [] →
    (Issues s n y .div nx → sylRom y = true → ∃ t v, starts (.div n) t ∧ divOp m (opA s n y) (opB s n y) = some v ∧ ends t v) ∧
    (Issues s n y .fdiv nx → sylRom y = true → ∃ t, starts (.fdiv n) t ∧ ends t (fDiv (opA s n y) (opB s n y))) ∧
    (Issues s n y .fsqrt nx → sylRom y = true → ∃ t, starts (.fsqrt n) t ∧ ends t (fSqrt (opA s n y))) ∧
    (Issues s n y .crcBlk nx → sylRom y = true → regG e (rd + 1) = 0 →
      ∃ t, starts (.crcblk n) t ∧ ends t (regG e rd)) ∧
    (Issues s n y .custom nx → sylRom y = false →
      ∃ t, starts (.customInstruction n) t ∧ (engGet t n).u.upc = entUaddr y.entry ∧ (engGet t n).u.stack = [] ∧
        (engGet t n).u.sRd = none ∧ (engGet t n).u.xadrs = 0)

/-- R297 for a scan engine with its domain on. -/
def Obligations.MicrowordRepairResumes : Prop :=
  ∀ (s : State) (n adr : Nat) (entry : Bool), n < 64 → (engGet s n).run = .running → domStat s n = 1 →
    badgerDead s = false → (entry = false → adr < 0xC00) → (engGet s n).hold = .parity entry adr →
    ∃ t, exec (.microwordRepairDone n entry adr true) s = .next t ∧
      (engGet t n).hold = (if entry then .none else .micro) ∧ (engGet t n).g = (engGet s n).g ∧
      (engGet t n).pc = (engGet s n).pc ∧
      cntGet t (0x910C + n * 0x20) = satCount (cntGet s (0x910C + n * 0x20)) 1

/-- R232, R241, R242, R246 and R497: the engine after entries and returns, where TRCSTALL holds none of them for its trace record; the
saved status is the word of Table 8.2. -/
def Obligations.ExceptionsEnterAndReturn : Prop :=
  ∀ (s : State) (n : Nat) (y : Syl) (nx : Nat),
    let e := engGet s n
    let code := BitVec.ofNat 32 (sylRa y.word)
    let entered := fun (t : State) (c : Nat) => let f := engGet t n
      f.level = 2 ∧ f.save2.xpc = BitVec.ofNat 32 nx ∧ f.save2.xlc = e.lc ∧ f.save2.xadr = code ∧ f.save2.xpcc = e.pcc ∧
      f.save2.xcau = BitVec.ofNat 32 (2 * 2 ^ 13 + c * 2 ^ 8 + c) ∧
      f.save2.xst = xstWord (retired e nx) { xpc := BitVec.ofNat 32 nx, xlc := e.lc } ∧ f.ring = 0 ∧
      f.compat = e.startCompat ∧ f.pcc = e.startPcc ∧ f.pc = e.vbase + BitVec.ofNat 32 (0x800 + c * 0x20)
    (Runs s n y .sysc nx → e.level = 0 → ∃ t, exec (.sysc n) s = unlessHeld s n t ∧ entered t 16) ∧
    (Runs s n y .brk nx → e.level = 0 → dbgEnabled s n = false → ∃ t, exec (.brk n) s = unlessHeld s n t ∧ entered t 17) ∧
    (Runs s n y .brk nx → dbgEnabled s n = true → ∃ t, exec (.brk n) s = .next t ∧ (engGet t n).dbg.pending = true ∧
      (engGet t n).dbg.cause = 3 ∧ (engGet t n).pc = BitVec.ofNat 32 nx) ∧
    (eventPoint s n = true → hubEn s = true → domStat s 83 = 1 → partnerOf s n = none → isPaired s = false →
      e.hold ≠ .micro → e.xfer = none → e.rep = none → ∀ x, tgtOffer s n = some x →
      ∃ t, exec (.eventEntry n) s = .next t ∧ (engGet t n).level = 1 ∧ (engGet t n).save1.xpc = e.pc ∧
        (engGet t n).save1.xadr = BitVec.ofNat 32 x ∧
        (engGet t n).pc = e.vbase + BitVec.ofNat 32 (0x400 + srcPrio s x * 0x20) ∧ (engGet t n).pcc = e.startPcc) ∧
    (n < 64 → isPaired s = false → Runs s n y .eret nx → flows s n → 1 ≤ e.level → e.level ≤ 2 →
      privOk e.compat e.ring e.pcc = true → bitAt (saveGet e e.level).xst 28 = true →
      ∃ t, exec (.eret n true) s = .next t ∧ (engGet t n).level = 3 ∧ (engGet t n).save3.xpc = e.pc ∧
        (engGet t n).save3.xadr = (saveGet e e.level).xpc ∧
        (engGet t n).pc = e.vbase + BitVec.ofNat 32 (0xC00 + causeCode .saveBank * 0x20)) ∧
    (Runs s n y .eret nx → 1 ≤ e.level → e.level ≤ 3 → privOk e.compat e.ring e.pcc = true →
      bitAt (saveGet e e.level).xst 28 = false → let v := saveGet e e.level
      ∃ t, exec (.eret n false) s = unlessHeld s n t ∧ (engGet t n).pc = v.xpc ∧ (engGet t n).pcc = v.xpcc ∧ (engGet t n).lc = v.xlc ∧
        (engGet t n).level = field v.xst 17 16 ∧ (engGet t n).compat = bitAt v.xst 31)

/-- R161, R241 and R242 through the command of any operation in the bundle. -/
def Obligations.FaultsAreTakenInPlace : Prop :=
  ∀ (op : Op) (s : State) (n : Nat) (tr : Trap), let e := engGet s n
    n < 64 → engReady s n issueHold = true → e.hold = .none → partnerOf s n = none → bundleHas s n op = true →
    e.xfer = none → e.rep = none → e.swapPend = false → e.dbg.stepping = false → e.level = 0 →
    bundleRes s n = .trap tr → tr.cause ≠ .tileData → tr.cause ≠ .tileFetch → causeLevel tr.cause = 2 →
    ∃ t, exec (commandOf op n) s = unlessHeld s n t ∧ (engGet t n).level = 2 ∧ (engGet t n).g = e.g ∧ (engGet t n).p = e.p ∧
      (engGet t n).c = e.c ∧ (engGet t n).lc = e.lc ∧ (engGet t n).save2.xpc = e.pc ∧ (engGet t n).save2.xadr = tr.adr ∧
      (engGet t n).save2.xcau = BitVec.ofNat 32 (2 * 2 ^ 13 + causeCode tr.cause * 2 ^ 8 + causeCode tr.cause) ∧
      (engGet t n).save2.xpcc = e.pcc ∧ (engGet t n).pcc = e.startPcc ∧ (engGet t n).dmem = e.dmem ∧
      (engGet t n).pc = e.vbase + BitVec.ofNat 32 (0x800 + causeCode tr.cause * 0x20)

/-- R505, R506 and Table 19.2. -/
def Obligations.MailboxRefusesInOrder : Prop :=
  (∀ z : State, let code := field z.mbx.cmd 7 0
    let len := field z.mbx.cmd 31 16
    acceptStatus z = if 4096 < len then 3 else if code = 0 ∨ 0x11 < code then 4 else if cmdAllowed z code = false then 2
      else if atAcceptance code = false ∧ 16 ≤ z.mbx.inflight then 5
      else if len ≠ lenOf code (payload z) ∨ payloadOk code (payload z) = false then 6 else 0) ∧
  (∀ (s z : State) (i : Instr) (code len : Nat) (pl : List Word), submission i = some (code, len, pl) →
    mbxEnter s code len pl = some z → acceptStatus z ≠ 0 →
    ∃ t, exec i s = .next t ∧ t.mbx = { z.mbx with busy := false, status := acceptStatus z, tag := 0 } ∧
      t.mbx.nextTag = s.mbx.nextTag ∧ t = { s with mbx := t.mbx, cnt := t.cnt } ∧
      cntGet t 0x40024 = satCount (cntGet s 0x40024) 1 ∧
      cntGet t 0x4002C = satCount (cntGet s 0x4002C) (if acceptStatus z = 3 then 1 else 0) ∧
      cntGet t 0x40028 = satCount (cntGet s 0x40028) (if acceptStatus z = 2 then 1 else 0)) ∧
  (∀ (s : State) (code len : Nat), hostUp s = true → s.mbx.busy = false → code < 256 → (code = 0 ∨ 0x11 < code) → len ≤ 4096 →
    ∃ t, exec (.badcmdSubmission code len) s = .next t ∧ t.mbx.busy = false ∧ t.mbx.tag = 0 ∧ t.mbx.status = 4 ∧
      t.mbx.nextTag = s.mbx.nextTag ∧ t.eng = s.eng ∧ cntGet t 0x40024 = satCount (cntGet s 0x40024) 1)

/-- R315, R390, R509, R518, R520. That READ_FAULTS takes an entry out that fails its parity as any other, and what it returns of it, is
the model's choice (notes/assumptions/64.md). RESLEN 0 after CLEAR_COUNTERS, and ACCEPTED 1 because the command counts itself after the clearing,
are the model's choice (notes/assumptions/13.md); the index of the newest entry of an empty log is free (notes/assumptions/14.md). -/
def Obligations.ImmediateCommandsComplete : Prop :=
  ∀ (s z : State) (len : Nat) (pl : List Word),
    let done := fun (t : State) => t.mbx.busy = false ∧ t.mbx.status = 0 ∧ t.mbx.tag = z.mbx.nextTag
    (Accepts s 0xD len pl z → ∃ t, exec (.sealStatus len pl) s = .next t ∧ done t ∧ t.mbx.reslen = 24 ∧
      memBytes t.mbx.resp 0 24 = sealResult s ∧ t = { s with cnt := t.cnt, mbx := t.mbx }) ∧
    (Accepts s 0x10 len pl z → ∃ t, exec (.clearCounters len pl) s = .next t ∧ done t ∧ t.mbx.reslen = 0 ∧
      (∀ a, isRow 0x10128 0x40 8 a = false → a ≠ 0x40020 → cntGet t a = 0) ∧ cntGet t 0x40020 = 1 ∧
      (∀ k, k < 8 → cntGet t (0x10128 + k * 0x40) = cntGet s (0x10128 + k * 0x40)) ∧ t = { s with cnt := t.cnt, mbx := t.mbx }) ∧
    (Accepts s 0x11 len pl z → let k := min (min (plWord (payload z) 0).toNat 127) s.mbx.log.length
      (∃ t, exec (.readFaults len pl) s = .next t ∧ done t ∧ t.mbx.log = s.mbx.log.drop k ∧ t.mbx.reslen = 32 + 32 * k ∧
        t = { s with cnt := t.cnt, mbx := t.mbx }) ∧
      ∀ bad, ∃ t, exec (.readFaults len pl bad) s = .next t ∧ done t ∧ t.mbx.reslen = 32 + 32 * k)

/-- R35, R43, R425, R437, R438. -/
def Obligations.TickAndProfileCommandsComplete : Prop :=
  ∀ (s z : State) (len : Nat) (pl : List Word),
    let p := payload z
    let a := mbxAccept z true
    let tag := z.mbx.nextTag
    (Accepts s 4 len pl z → s.tick.pend = none →
      let u := field (plWord p 0) 21 0
      let sub := field (plWord p 1) 21 0
      periodFits s.svc.profile u sub = true → admitted s s.rel.img s.svc.profile u sub (svcActive s) = true →
      ∃ t, exec (.setTick len pl) s = .next t ∧
        t.tick.pend = some { tag := tag, m := plWide p 2, units := u, subtick := sub, profile := none, fillOk := true, voltOk := true } ∧
        t.tick.units = s.tick.units ∧ t.bstate = (if s.bstate = .run then .service else s.bstate)) ∧
    (Accepts s 3 len pl z → s.tick.pend = none →
      let q := field (plWord p 0) 2 0
      let was := s.svc.profile
      q ≠ 1 → q ≠ 3 → was ≠ 1 → was ≠ 3 → minTick q ≤ s.tick.units → profileFits s q = true →
      (q = 2 → ∀ k, k < 8 → cluMir s k ≠ 3) →
      admitted s s.rel.img q s.tick.units s.tick.subtick (svcActive s) = true →
      ∃ t c, exec (.setProfile len pl) s = .next t ∧ t.tick.pend = some c ∧ c.profile = some q ∧ c.tag = tag ∧
        c.m = plWide p 1 ∧ t.svc.profile = was ∧ (c.fillOk = true ↔ ¬(q = 2 ∧ was ≠ 2))) ∧
    (Accepts s 2 len pl z → s.rel.next = none → (s.bstate = .run ∨ s.bstate = .service) →
      exec (.hold len pl) s = .next (svcActs a (s.svc.acts ++ [{ tag := tag, act := .hold }]))) ∧
    (∀ img, Accepts s 2 len pl z → s.rel.next = some img → (s.bstate = .awaitImage ∨ s.bstate = .hold) →
      ∃ t, exec (.hold len pl) s = .next t ∧ t.bstate = .hold ∧ (tag, 0) ∈ t.mbx.cpl ∧ t.rel.next = none ∧ t.rel.phase = 5 ∧
        t.rel.fcause = 6) ∧
    (Accepts s 2 len pl z → s.bstate = .verify → ∃ t, exec (.hold len pl) s = .next t ∧ t.bstate = .hold ∧
      (tag, 0) ∈ t.mbx.cpl ∧ t.rel.phase = 5 ∧ t.rel.fcause = 6)

/-- R310, R372, R430, R443, R449, R450 outside PAIRED. That RESTORE brings the domain on at once (notes/assumptions/16.md) and shows the
engine TESTING from its take-up (notes/assumptions/15.md) is the model's choice. -/
def Obligations.ServiceCommandsComplete : Prop :=
  ∀ (s z : State) (len : Nat) (pl : List Word), isPaired s = false →
    let p := payload z
    let w := plWord p 0
    let n := field w 6 0
    let tag := z.mbx.nextTag
    let moved := fun (t : State) => t.bstate = (if s.bstate = .run then .service else s.bstate)
    (Accepts s 5 len pl z → bitAt w 8 = false → n < 64 → svcActive s n = true → retPending s n = false →
      ∃ t, exec (.retireEngine len pl) s = .next t ∧ hasAct t tag (.retire n (bitAt w 9) false) ∧ moved t ∧
        svcActive t n = true) ∧
    (Accepts s 6 len pl z → ((svcEng s n).st = 3 ∨ (svcEng s n).st = 4) →
      ∃ t, exec (.restoreEngine len pl) s = .next t ∧ hasAct t tag (.restore n (bitAt w 8) (futureTick s (plWide p 1)) false) ∧
        (restoreInHand s (cluOf n) = none → (svcEng t n).st = 5 ∧ domStat t n = 1) ∧
        ((restoreInHand s (cluOf n)).isSome = true → svcEng t n = svcEng s n ∧ domStat t n = domStat s n) ∧ moved t) ∧
    (Accepts s 7 len pl z →
      let first := field (plWord p 1) 16 0
      let count := field (plWord p 2) 14 0
      0 < count → first % 2 ^ 14 + count ≤ 2 ^ 14 → n < 64 → cluOf n = homeOf first → svcActive s n = true →
      ∃ t, exec (.migrate len pl) s = .next t ∧ hasAct t tag (.migrate n first count (futureTick s (plWide p 3))) ∧ moved t) ∧
    (Accepts s 9 len pl z →
      let mask := plWide p 0
      maskList mask ≠ [] → maskPairs s mask = true → (∀ e, e ∈ maskList mask → (engGet s e).inact = 2) →
      ∃ t, exec (.swapUbank len pl) s = .next t ∧ hasAct t tag (.swapUbank mask (futureTick s (plWide p 2))) ∧ moved t ∧
        ∀ e, e ∈ maskList mask → (engGet t e).swapPend = true ∧ (engGet t e).ubank = (engGet s e).ubank) ∧
    (Accepts s 0xB len pl z →
      let sp := field w 14 8
      n < 96 → sp < 96 → bankOf n = bankOf sp → (mothGet s sp).en = false → (mothGet s sp).npin = 0 →
      ∃ t, exec (.remapMoth len pl) s = .next t ∧ hasAct t tag (.remap n sp (bitAt w 31)) ∧ moved t ∧ t.field.moth = s.field.moth)

/-- R95, R307, R326, R388, R389, R412 to R416. That LOAD_UBANK writes the banks at its take-up and shows LOADING until LOAD_UBANK_DONE
(notes/assumptions/43.md), the order of its checks (notes/assumptions/15.md) and the staging source (notes/assumptions/44.md) are the
model's choice. -/
def Obligations.OtherDeferredCommandsComplete : Prop :=
  ∀ (s z : State) (len : Nat) (pl : List Word),
    let p := payload z
    let w := plWord p 0
    let a := mbxAccept z true
    let tag := z.mbx.nextTag
    (∀ bytes bs, Accepts s 0xA len pl z → let cls := field w 2 0
      let inst := field w 14 8
      let tile := field (plWord p 1) 21 0
      (cls = 0 ∨ (cls = 1 ∧ bitAt w 31 = true)) → inst < 64 → domStat s inst = 1 → tile < tileCount s cls inst →
      (refOf s cls inst tile).isSome = true → repairBytes s cls inst tile bytes = some bs →
      ∃ t, exec (.reloadTile len pl bytes false) s = .next t ∧ (tag, 0) ∈ t.mbx.cpl ∧
        t.bstate = (if s.bstate = .run then .service else s.bstate) ∧
        (engGet t inst).imem = (engGet (tilePut s cls inst tile bs) inst).imem ∧
        (engGet t inst).dmem = (engGet (tilePut s cls inst tile bs) inst).dmem) ∧
    (∀ bytes, Accepts s 0xA len pl z → let cls := field w 2 0
      let inst := field w 14 8
      let tile := field (plWord p 1) 21 0
      (cls = 0 ∨ (cls = 1 ∧ bitAt w 31 = true)) → inst < 64 → domStat s inst = 1 → tile < tileCount s cls inst →
      ∃ t, exec (.reloadTile len pl bytes true) s = .next t ∧ (tag, 0xD) ∈ t.mbx.cpl ∧ refOf t cls inst tile = none ∧
        (engGet t inst).imem = (engGet s inst).imem ∧ (engGet t inst).dmem = (engGet s inst).dmem) ∧
    (Accepts s 0xE len pl z → s.sett.pin = true → s.sett.st = 3 →
      ∃ t, exec (.openSeal len pl) s = .next t ∧ (tag, 0) ∈ t.mbx.cpl ∧ t.sett.open_ = true) ∧
    (Accepts s 0xF len pl z → ∃ t, exec (.closeSeal len pl) s = .next t ∧ (tag, 0) ∈ t.mbx.cpl ∧ t.sett.open_ = false) ∧
    (Accepts s 0xC len pl z → chnHead s = true → s.chain.offer = none →
      ∃ t, exec (.enumerateChain len pl) s = .next t ∧ t.chain.offer = some ((ktb s).setWidth 32, tag, ktb s) ∧
        t.mbx.cpl = s.mbx.cpl) ∧
    (Accepts s 8 len pl z →
      let es := maskList (plWide p 0)
      let named := ubankBlocks p
      let blocks := named.map (fun b => memBytes s.mem.staging b.1 b.2)
      let loading := forNats es (fun x n => engMap (loadBank x blocks n) n (fun e => { e with inact := 1 })) a
      named ≠ [] → es ≠ [] → maskPairs s (plWide p 0) = true →
      (∀ n, n ∈ es → domStat s n = 1 ∧ (engGet s n).swapPend = false ∧ (engGet s n).inact ≠ 1) →
      (∀ b, b ∈ named → blockTilesBad s b = []) →
      blocksCheck s.io.keys 3 es (fun n => bankOfEng (engGet s n) (engGet s n).ubank) [] blocks = none →
      (∀ n, n ∈ es → ∀ b, b ∈ blocks → pbFor b n = true ∧ (pbKind b = 1 → costRaised s n b = false)) →
      (goldSet loading []).length ≤ 4 →
      exec (.loadUbank len pl) s = .next (svcAdd loading tag (.loadUbank (plWide p 0) named))) ∧
    (∀ imgA imgB, Accepts s 1 len pl z → w = 1 → let h := stageHead s
      let img := imageOf 2 0 h (stagePre s h)
      (∀ k, tileBad s 3 0 k = false) → srcValid 2097152 h = true →
      preCheck { a with rel := { a.rel with ambiguous := false } } h img = 0 → blocksOk s.io.keys img = none →
      ∃ t, exec (.release len pl imgA imgB) s = .next t ∧ t.rel.next = some img ∧ t.rel.phase = 1 ∧ t.rel.tag = tag ∧
        t.bstate = s.bstate ∧ t.eng = s.eng)

/-- R7 over all 64-bit registers (`isLow64`), and R61 for the two of the tick generator. The wide form of HOST_LOW_WORD_READ
(notes/assumptions/56.md) and the holding of a low word while PHASE, BASEN (notes/assumptions/12.md) or a base of the publication
(notes/assumptions/57.md) ignores writes are the model's choice. -/
def Obligations.HostWideRegisterAccess : Prop :=
  ∀ (s : State) (a : Nat) (v w : Word), hostUp s = true → isLow64 a = true → regOn s a = true → hostRefused s a = false →
    (exec (.hostLowWordWrite a v) s = .next { s with heldLow := tblSet none a (some v) s.heldLow }) ∧
    (∃ t u, exec (.hostLowWordWrite a v) s = .next t ∧ exec (.hostHighWordWrite (a + 4) w) t = .next u ∧
      exec (.registerWrite a true (w ++ v)) s = .next u ∧ tblGet none a u.heldLow = none) ∧
    (exec (.hostLowWordRead a true) s = .next { s with hostRd := winPeek s (a + 4) ++ winPeek s a }) ∧
    (∃ t, exec (.hostLowWordRead a false) s = .next t ∧ t.hostRd = (winPeek s a).setWidth 64 ∧
      tblGet none a t.capHigh = some (winPeek s (a + 4)) ∧ t = { s with hostRd := t.hostRd, capHigh := t.capHigh }) ∧
    (a = 0x10018 → s.tick.running = false → ∃ t, exec (.registerWrite a true (w ++ v)) s = .next t ∧
      t.tick = { s.tick with phase := w ++ v } ∧ t = { s with tick := t.tick, heldLow := t.heldLow }) ∧
    (a = 0x10020 → s.tick.running = false → ∃ t, exec (.registerWrite a true (w ++ v)) s = .next t ∧
      t.tick = { s.tick with basen := w ++ v } ∧ t = { s with tick := t.tick, heldLow := t.heldLow }) ∧
    ((a = 0x10018 ∨ a = 0x10020) → s.tick.running = true → ∃ t, exec (.registerWrite a true (w ++ v)) s = .next t ∧
      t.tick = s.tick ∧ cntGet t 0x1008C = satCount (cntGet s 0x1008C) 1 ∧ t = { s with cnt := t.cnt, heldLow := t.heldLow })

/-- R8, R9, R10, R61, R68, R502. -/
def Obligations.HostRegisterWrites : Prop :=
  ∀ s : State, hostUp s = true →
    (∀ k v, k < 8 → ∃ t, exec (.registerWrite (0x4100 + 0x20 * k) false v) s = .next t ∧ t = { s with hreg := t.hreg } ∧
      regGet t (0x4100 + 0x20 * k) = half false v &&& 1 ∧ ∀ a, a ≠ 0x4100 + 0x20 * k → regGet t a = regGet s a) ∧
    (∀ v, s.tick.running = false → let n := field (half false v) 5 0
      exec (.registerWrite 0x1002C false v) s =
        .next { s with tick := { s.tick with reserve := if 1 ≤ n ∧ n ≤ 50 then n else s.tick.reserve } }) ∧
    (∀ v, exec (.ageLimitWrite v) s =
      .next (if field v 7 0 = 0 then s else { s with tick := { s.tick with agePending := some (v.setWidth 8) } })) ∧
    (∀ off size write, s.mbx.log.length < 1024 →
      let src := BitVec.ofNat 32 (off / 4 * 4)
      fltMerge s 1 src s.mbx.log = none →
      let faulted := fun (t : State) => (write = false → t.hostRd = 0) ∧ (write = true → t.hostRd = s.hostRd) ∧
        cntGet t 0x40204 = satCount (cntGet s 0x40204) 1 ∧ (∀ a, a ≠ 0x40204 → cntGet t a = cntGet s a) ∧
        t.mbx = { s.mbx with fseq := s.mbx.fseq + 1, log := s.mbx.log ++ [{
          time := ktb s, tick := s.tick.tickn.setWidth 32, cls := 1, rep := 0, source := src,
          arg0 := BitVec.ofNat 32 (b2n write + size * 16 + off % 4 * 2 ^ 16), arg1 := 0, fseq := s.mbx.fseq }] } ∧
        t = { s with cnt := t.cnt, mbx := t.mbx, hostRd := t.hostRd }
      (size < 4 ∨ off % size ≠ 0 → ∃ t, exec (.misalignedHostAccess off size write) s = .next t ∧ faulted t) ∧
      (winMapped off = false → off < 0x4000000 → ∃ t, exec (.unmappedHostAccess off size write) s = .next t ∧ faulted t))

/-- R51, R55, R78, R100, R315, R504, R510, R518. That such a read returns an open value is the model's choice (notes/assumptions/64.md). -/
def Obligations.HostReadsWithEffects : Prop :=
  ∀ s : State, hostUp s = true →
    (let q := s.cells.hostq.dropWhile (cellOld s)
      ∃ t, exec (.hostqCellPop false) s = .next t ∧ t.cells = { s.cells with hostq := q.tail, hostCap := q.headD fillCell } ∧
        t.hostRd = (((q.headD fillCell).setWidth 32 : Word)).setWidth 64 ∧
        cntGet t 0x401C = satCount (cntGet s 0x401C) (s.cells.hostq.length - q.length) ∧
        (∀ a, a ≠ 0x401C → cntGet t a = cntGet s a) ∧ t = { s with cnt := t.cnt, cells := t.cells, hostRd := t.hostRd }) ∧
    (∀ c rest, s.cells.hostq = c :: rest → let q := rest.dropWhile (cellOld s)
      ∃ t, exec (.hostqCellPop true) s = .next t ∧ t.cells = { s.cells with hostq := q.tail, hostCap := q.headD fillCell } ∧
        cntGet t 0xA044 = satCount (cntGet s 0xA044) 1) ∧
    (∀ k, k < 8 → let a := 0x4108 + k * 0x20
      ∃ t, exec (.listmaxRead k) s = .next t ∧ t.hostRd = (cntGet s a).setWidth 64 ∧ cntGet t a = 0 ∧
        (∀ b, b ≠ a → cntGet t b = cntGet s b) ∧ t = { s with cnt := t.cnt, hostRd := t.hostRd }) ∧
    (∀ k, k < 8 → let a := 0x1012C + k * 0x40
      ∃ t, exec (.clusterWorstRead k) s = .next t ∧ t.hostRd = (cntGet s a).setWidth 64 ∧ cntGet t a = 0 ∧
        (∀ b, b ≠ a → cntGet t b = cntGet s b) ∧ t = { s with cnt := t.cnt, hostRd := t.hostRd }) ∧
    (s.mbx.cpl = [] → exec .hmbCplRead s = .next { s with hostRd := 0 }) ∧
    (∀ tag st rest, s.mbx.cpl = (tag, st) :: rest →
      exec .hmbCplRead s = .next { s with
        hostRd := (BitVec.ofNat 32 (2 ^ 31 + st * 2 ^ 16 + tag)).setWidth 64,
        mbx := { s.mbx with cpl := rest, inflight := s.mbx.inflight - 1 } }) ∧
    (∀ off, off % 4 = 0 → winMapped off = true → mbxSram off = true → (0x42000 ≤ off → off < 0x43000 → s.mbx.busy = false) →
      (0x48000 ≤ off → (off - 0x48000) / 32 < s.mbx.log.length) → ∃ t k, exec (.hostLowWordRead off false true) s = .next t ∧
        t.hostRd = (Config.parityWord k).setWidth 64 ∧ t.mbx.req = s.mbx.req ∧ t.mbx.resp = s.mbx.resp ∧ t.store = s.store) ∧
    (∀ off parity, off % 4 = 0 → (0x42000 ≤ off ∧ off < 0x43000 ∧ s.mbx.busy = true ∨
      0x48000 ≤ off ∧ off < 0x50000 ∧ s.mbx.log.length ≤ (off - 0x48000) / 32) →
      ∃ t, exec (.hostLowWordRead off false parity) s = .next t ∧ t.hostRd = 0 ∧ t.mbx = s.mbx)

/-- R8, R318, R319, R474, R503. That a view write leaves the ROUTINE.CTL copies is the model's choice (notes/assumptions/18.md): R110
names the changes that update them. -/
def Obligations.HostBufferWrites : Prop :=
  ∀ (s : State) (off : Nat) (data : List Byte), hostUp s = true → 0 < data.length → data.length ≤ 64 →
    let aligned := (data.length = 4 ∨ data.length = 8 ∨ data.length = 16 ∨ data.length = 32 ∨ data.length = 64) ∧ off % data.length = 0
    (¬ aligned → off + data.length ≤ 0x200000 →
      exec (.stagingBufferWrite off data) s = .next (accessFault s (0x1000000 + off) data.length true)) ∧
    (¬ aligned → off + data.length ≤ 0x1000000 →
      exec (.contextViewWrite off data) s = .next (accessFault s (0x2000000 + off) data.length true)) ∧
    (aligned → off + data.length ≤ 0x200000 → domStat s 85 = 1 → stageHeld s off data.length = false →
      (data.length = 64 ∨ tileBad s 3 0 (off / 64) = false →
        ∃ t, exec (.stagingBufferWrite off data) s = .next t ∧ memBytes t.mem.staging off data.length = data ∧
          (∀ b, b < off ∨ off + data.length ≤ b → memGet t.mem.staging b = memGet s.mem.staging b) ∧
          tileBad t 3 0 (off / 64) = false ∧ t = { s with mem := t.mem } ∧ t.mem.dram = s.mem.dram) ∧
      (data.length < 64 → tileBad s 3 0 (off / 64) = true →
        ∃ t, exec (.stagingBufferWrite off data) s = .next t ∧ t.mem.staging = s.mem.staging ∧
          tileBad t 3 0 (off / 64) = true ∧ cntGet t 0xA030 = satCount (cntGet s 0xA030) 1)) ∧
    (aligned → off + data.length ≤ 0x1000000 → s.io.locked = true → exec (.contextViewWrite off data) s = .next (lockRej s)) ∧
    (aligned → off + data.length ≤ 0x1000000 → s.io.locked = false → domStat s (64 + off / 0x200000) = 1 → isMirrored s = false →
      s.svc.fill = false → (data.length = 64 ∨ recTileBad s (off / 128) (off % 128 / 64) = false) →
      ∃ t, exec (.contextViewWrite off data) s = .next t ∧
        recGet t (off / 128) = recPutBits (recGet s (off / 128)) (off % 128) (8 * data.length) (leNat data) ∧
        (∀ i, i ≠ off / 128 → recGet t i = recGet s i) ∧ t.store.ctl = s.store.ctl ∧ t.eng = s.eng ∧
        recTileBad t (off / 128) (off % 128 / 64) = false)

/-- R457 whole; the contents of a domain that is off or comes up are those of R454 and R455. -/
def Obligations.PowerDomainRequests : Prop :=
  ∀ s : State,
    (∀ d, hostUp s = true → d < 86 → domHost d = true → domStat s d = 0 →
      ∃ t, exec (.powerRequest d true) s = .next t ∧ domStat t d = 2 ∧ hasNat d t.svc.reqOff = false ∧
        (∀ c, c ≠ d → domStat t c = domStat s c) ∧ t = { s with svc := t.svc }) ∧
    (∀ d, hostUp s = true → d < 86 → domHost d = true → domOffAllowed s d = false →
      exec (.powerRequest d false) s = .next (cntAdd s 0x80004 1)) ∧
    (∀ d, hostUp s = true → d < 86 → domHost d = true → domOffAllowed s d = true →
      ∃ t, exec (.powerRequest d false) s = .next t ∧ domStat t d = 0 ∧ ∀ c, c ≠ d → domStat t c = domStat s c) ∧
    (∀ b, hostUp s = true → b < 6 → domStat s (72 + b) = 1 → (∀ m, m ∈ mothsOf b → (mothGet s m).en = false) →
      ∃ t, exec (.powerRequest (72 + b) false) s = .next t ∧ domStat t (72 + b) = 0 ∧ hasNat (72 + b) t.svc.reqOff = true ∧
        (∀ c, c ≠ 72 + b → domStat t c = domStat s c) ∧ gwGet t b = [] ∧ t.eng = s.eng ∧ t.store = s.store ∧
        ∀ m, mothGet t m = if bankOf m = b then {} else mothGet s m) ∧
    (hostUp s = true → hubUp s = true → hubEn s = false →
      ∃ t, exec (.powerRequest 83 false) s = .next t ∧ domStat t 83 = 0 ∧ t.hub = {} ∧ t.eng = s.eng) ∧
    (hostUp s = true → domStat s 85 = 1 → domOffAllowed s 85 = true →
      ∃ t, exec (.powerRequest 85 false) s = .next t ∧ domStat t 85 = 0 ∧ t.mem.staging = [] ∧ t.eng = s.eng) ∧
    (∀ d, d < 86 → domStat s d = 2 →
      ∃ t, exec (.domainPowerUpDone d) s = .next t ∧ domStat t d = 1 ∧ (∀ c, c ≠ d → domStat t c = domStat s c) ∧
        (d < 64 → (engGet t d).pstate = .run ∧ (engGet t d).inq = [] ∧ (engGet t d).imem = [] ∧ (engGet t d).run = .stopped))

/-- R459 to R462, R498. That ENGINE_DOZE begins the entry into NAP at once where R460 allows it, and that S0 and S1 doze in one command,
are the model's choice (notes/assumptions/17.md). -/
def Obligations.EngineSleepStates : Prop :=
  ∀ (s : State) (n : Nat),
    (n < 67 → n ≠ 64 → n ≠ 65 → mayDoze s n = true →
      ∃ t, exec (.engineDoze n) s = .next t ∧ t.store = s.store ∧
        engGet t n = { engGet s n with pstate := if mayNap s n then .napEntry else .doze, wakeReq := false } ∧
        ∀ m, m ≠ n → engGet t m = engGet s m) ∧
    (mayDoze s 64 = true → ∃ t, exec (.engineDoze 64) s = .next t ∧ (engGet t 64).pstate = .doze ∧ (engGet t 65).pstate = .doze ∧
      ∀ m, m ≠ 64 → m ≠ 65 → engGet t m = engGet s m) ∧
    (n < 64 → ((engGet s n).pstate = .napEntry ∨ ((engGet s n).pstate = .doze ∧ mayNap s n = true)) → trcFlushed s n = true →
      trcMarkRoom s n = true →
      ∃ t, exec (.napEntryDone n) s = .next t ∧
        engGet t n = { engGet s n with pstate := if (engGet s n).wakeReq then .wakeNap else .nap } ∧
        cntGet t (0x80808 + n * 0x10) = satCount (cntGet s (0x80808 + n * 0x10)) 1 ∧ ∀ m, m ≠ n → engGet t m = engGet s m) ∧
    (n < 67 → ((engGet s n).pstate = .waking ∨ (engGet s n).pstate = .wakeNap) → trcWakeRoom s n = true →
      ∃ t, exec (.engineWake n) s = .next t ∧ engGet t n = { engGet s n with pstate := .run, wakeReq := false } ∧
        ∀ m, m ≠ n → engGet t m = engGet s m) ∧
    (n < 64 → (engGet s n).pstate = .nap → s.tick.running = true → nextEdgeAt s n ≤ (ktb s).toNat + 2000 →
      ∃ t, exec (.timedWakeStart n) s = .next t ∧ t = { s with eng := t.eng } ∧
        engGet t n = { engGet s n with pstate := .wakeNap, wakeReq := true } ∧ ∀ m, m ≠ n → engGet t m = engGet s m)

/-- R125, R474 to R477, R480 to R483, Table 18.3. That the block shows HOLD while the unlock erases is the model's choice
(notes/assumptions/18.md): Table 18.3 names no state for that time. -/
def Obligations.DebugRunControl : Prop :=
  ∀ s : State, hostUp s = true →
    (∀ v, s.io.locked = true → v ≠ 0x4B434C55 → exec (.debugUnlock v) s = .next (lockRej s)) ∧
    (s.io.locked = true → s.io.unlocking = false → unlockState s.bstate = true → badgerDead s = false →
      ∃ t, exec (.debugUnlock 0x4B434C55) s = .next t ∧ t.io.unlocking = true ∧ t.io.locked = true ∧ t.bstate = .hold ∧
        t.io.settdbg = (s.io.settdbg || s.sett.open_)) ∧
    (∀ blocks, s.io.unlocking = true → badgerDead s = false →
      ∃ t, exec (.debugUnlockDone blocks) s = .next t ∧ t.io.locked = false ∧ t.io.unlocking = false ∧ t.bstate = .awaitImage ∧
        t.store.recs = [] ∧ t.store.ctl = [] ∧ t.mem.staging = [] ∧ t.mem.refs = [] ∧ t.mbx.req = [] ∧ t.mbx.resp = [] ∧
        t.store.shared = s.store.shared ∧ ∀ n, n < 64 → (engGet t n).imem = [] ∧ (engGet t n).dmem = [] ∧ (engGet t n).inq = []) ∧
    (∀ n, n < 64 → isPaired s = false → dbgCommand s n = true →
      (dbgRunning s n = true → (engGet s n).dbg.pending = false → ∃ t, exec (.halt n) s = .next t ∧
        (engGet t n).dbg = { (engGet s n).dbg with pending := true, cause := 1, since := ktb s } ∧
        (∀ m, m ≠ n → engGet t m = engGet s m) ∧ t = { s with eng := t.eng }) ∧
      ((engGet s n).dbg.halted = true →
        (∃ t, exec (.resume n) s = .next t ∧ (engGet t n).dbg.halted = false ∧ (engGet t n).dbg.stepping = false ∧
          (engGet t n).pc = (engGet s n).pc ∧ t.store = s.store ∧ (engGet t n).dbg.writes = [] ∧
          (engGet t n).g = ((engGet s n).dbg.writes.foldl regWrite (engGet s n)).g) ∧
        (∃ t, exec (.step n) s = .next t ∧ (engGet t n).dbg.halted = false ∧ (engGet t n).dbg.stepping = true ∧
          (engGet t n).pc = (engGet s n).pc ∧ t.store = s.store)) ∧
      ((engGet s n).dbg.halted = true → (engGet s n).dbg.lockheld = true → isMirrored s = false → s.svc.fill = false →
        (∀ i, i ∈ locksOf s n → recTileBad s i 0 = false) →
        ∃ t, exec (.lockfree n) s = .next t ∧ (engGet t n).dbg.lockheld = false ∧
          cntGet t 0xD020 = satCount (cntGet s 0xD020) (locksOf s n).length ∧
          ∀ i, (i ∈ locksOf s n → recLock (recGet t i) = 0 ∧ recPtr (recGet t i) = recPtr (recGet s i) ∧
              recWord (recGet t i) 0xC &&& 0xF = 7 ∧ (ctlPubl (ctlGet s i) = true → i ∈ t.pub.pend0 ∧ i ∈ t.pub.pend1)) ∧
            (i ∉ locksOf s n → recGet t i = recGet s i))) ∧
    (∀ n, n < 64 → isPaired s = false → (engGet s n).run = .running → (engGet s n).pstate = .run → (engGet s n).dbg.halted = false →
      haltDue s n = true → haltPoint s n = true → ∃ t, exec (.debugHaltTaken n) s = .next t ∧
        (engGet t n).dbg.halted = true ∧ (engGet t n).dbg.pending = false ∧ ((engGet s n).xfer = none →
          (engGet t n).pc = (engGet s n).pc ∧ (engGet t n).dbg.hpc = (engGet s n).pc)) ∧
    (∀ n, n < 67 → dbgCommand s n = false → exec (.halt n) s = .next (lockRej s) ∧ exec (.resume n) s = .next (lockRej s) ∧
      exec (.step n) s = .next (lockRej s) ∧ exec (.lockfree n) s = .next (lockRej s))

/-- R375, R474, R487 to R492. -/
def Obligations.DebugAccessesAndTerminals : Prop :=
  ∀ (s : State) (n : Nat), hostUp s = true → n < 67 →
    (∀ a r, dbgReach s n = true → accSpace s n = 0 → accTile s n = false → accConsume s n = false →
      dbgSpan s n = some (a, 4, r) → dbgBadTile s n a r = none →
      exec (.debugDataRead n) s = .next { s with hostRd := (bytesWord (dbgBytes s n a 4 r) 0).setWidth 64 }) ∧
    (dbgReach s n = false → exec (.debugDataRead n) s = .next { lockRej s with hostRd := 0 }) ∧
    (dbgReach s n = true → accSpace s n = 0 → dbgSpan s n = none → ∃ t, exec (.debugDataRead n) s = .next t ∧
      (accConsume s n = false → t.hostRd = 0 ∧ t = { s with io := t.io, hostRd := 0 } ∧
        tblGet 0 n t.io.err = tblGet 0 n s.io.err ||| 1)) ∧
    (∀ a v, n < 64 → isPaired s = false → dbgReach s n = true → accSpace s n = 0 → accTile s n = false →
      dbgSpan s n = some (a, 4, .dmem) → dbgBadTile s n a .dmem = none → ∃ t, exec (.debugDataWrite n v) s = .next t ∧
        memBytes (engGet t n).dmem (a - 0x10000000) 4 = leBytes 4 v.toNat ∧
        (∀ b, b < a - 0x10000000 ∨ a - 0x10000000 + 4 ≤ b → memGet (engGet t n).dmem b = memGet (engGet s n).dmem b) ∧
        (engGet t n).g = (engGet s n).g ∧ (∀ m, m ≠ n → engGet t m = engGet s m) ∧ t = { s with eng := t.eng }) ∧
    (∀ v, n < 64 → isPaired s = false → dbgReach s n = true → accSpace s n = 3 → accTile s n = false →
      (engGet s n).dbg.halted = true → let a := (regGet s (dbgWin n 0x14)).toNat
      regWritable false a = true → ∃ t, exec (.debugDataWrite n v) s = .next t ∧
        (engGet t n).dbg.writes = (engGet s n).dbg.writes ++ [(false, a, v.setWidth 128)] ∧ (engGet t n).g = (engGet s n).g ∧
        (∀ m, m ≠ n → engGet t m = engGet s m) ∧ t = { s with eng := t.eng }) ∧
    (∀ v, dbgReach s n = false → exec (.debugDataWrite n v) s = .next (lockRej s)) ∧
    (isSettEng n = false → isPaired s = false →
      exec (.terminalTxRead n) s =
        .next (engMap { s with hostRd := (engGet s n).dtx.setWidth 64 } n (fun e => { e with dtxf := false }))) ∧
    (∀ v, isSettEng n = false → isPaired s = false →
      exec (.terminalRxWrite n v) s = .next (if (engGet s n).drxf then cntAdd s (dbgWin n 0x2C) 1
        else engMap s n (fun e => { e with drx := v, drxf := true }))) ∧
    (isSettEng n = true → settDbg s = false → exec (.terminalTxRead n) s = .next { lockRej s with hostRd := 0 }) ∧
    (∀ v, isSettEng n = true → exec (.terminalRxWrite n v) s = .next (lockRej s))

/-- R11, R467, R469 to R472. That a WR which its window refuses leaves what the host's refused write leaves, one LOCKREJ and ERR.ACCERR,
is the model's choice (notes/assumptions/18.md): R472 says only that it has no effect. -/
def Obligations.SarernWireFrames : Prop :=
  ∀ (s : State) (addr : Nat) (v : Word) (crc : Byte), hostUp s = true → addr < 2 ^ 24 →
    let a := 4 * addr
    let rd := bitsOf 4 2 ++ bitsOf 24 addr
    let rdc := bitsOf 4 3 ++ bitsOf 24 addr
    let wr := bitsOf 4 4 ++ bitsOf 24 addr ++ bitsOf 32 v.toNat
    (crc8Bits (bitsOf 4 1) = crc → ∃ t, exec (.sarernIdr 1 crc) s = .next t ∧ t.io.ack = 5 ∧ t.io.rdata = 0x0B9B0001 ∧
      t = { s with io := t.io }) ∧
    (crc8Bits (bitsOf 4 1) ≠ crc → ∃ t, exec (.sarernIdr 1 crc) s = .next t ∧ t.io.ack = 6 ∧ t.io.rdata = 0 ∧
      cntGet t 0xD018 = satCount (cntGet s 0xD018) 1 ∧ t = { s with cnt := t.cnt, io := t.io }) ∧
    (∀ inTime, crc8Bits rd ≠ crc → ∃ t, exec (.sarernRd addr crc inTime) s = .next t ∧ t.io.ack = 6 ∧
      cntGet t 0xD018 = satCount (cntGet s 0xD018) 1 ∧ t = { s with cnt := t.cnt, io := t.io }) ∧
    (∀ inTime, crc8Bits rd = crc → wireRefused s a = true → ∃ t, exec (.sarernRd addr crc inTime) s = .next t ∧ t.io.ack = 6 ∧
      cntGet t 0xD01C = satCount (cntGet s 0xD01C) 1 ∧ t = { s with cnt := t.cnt, io := t.io }) ∧
    (crc8Bits rd = crc → wireRefused s a = false →
      (∃ t, exec (.sarernRd addr crc false) s = .next t ∧ t.io.ack = 3 ∧ t = { s with io := t.io }) ∧
      (winMapped a = true → (a < 0x200000 ∨ (0x400000 ≤ a ∧ a < 0x1000000)) → ∃ t, exec (.sarernRd addr crc true) s = .next t ∧
        t.io.ack = 5 ∧ t.io.rdata = winPeek s a ∧ t = { s with io := t.io })) ∧
    (∀ tag st rest, a = 0x40010 → s.io.locked = false → crc8Bits rdc = crc → s.mbx.cpl = (tag, st) :: rest →
      ∃ t, exec (.sarernRdc addr crc true) s = .next t ∧ t.io.ack = 5 ∧ t.io.rdata = BitVec.ofNat 32 (2 ^ 31 + st * 2 ^ 16 + tag) ∧
        t.mbx = { s.mbx with cpl := rest, inflight := s.mbx.inflight - 1 } ∧ t.eng = s.eng) ∧
    (crc8Bits wr = crc → wireWriteRefused s a v = false → winMapped a = true →
      ∃ z t, exec (.registerWrite a false (v.setWidth 64)) s = .next z ∧ exec (.sarernWr addr v crc) s = .next t ∧
        t.io.ack = 5 ∧ t = { z with io := { z.io with ack := t.io.ack, rdata := t.io.rdata, rscrc := t.io.rscrc } }) ∧
    (crc8Bits wr = crc → wireRefused s a = false → wireWriteRefused s a v = true → winMapped a = true →
      ∃ z t, exec (.registerWrite a false (v.setWidth 64)) s = .next z ∧ exec (.sarernWr addr v crc) s = .next t ∧
        t.io.ack = 6 ∧ t = { z with io := { z.io with ack := t.io.ack, rdata := t.io.rdata, rscrc := t.io.rscrc } } ∧
        t.cnt = (lockRej s).cnt ∧ t.eng = s.eng) ∧
    (crc8Bits wr = crc → wireRefused s a = true → ∃ t, exec (.sarernWr addr v crc) s = .next t ∧ t.io.ack = 6 ∧
      t = { s with cnt := t.cnt, io := t.io }) ∧
    (∃ t, exec .kdioLineError s = .next t ∧ t.io.ack = 15 ∧ cntGet t 0xD014 = satCount (cntGet s 0xD014) 1 ∧
      t = { s with cnt := t.cnt, io := t.io } ∧ exec .sarernFrameHighTimeout s = .next t)

/-- R385, R387, R391, R392, R394 to R396, R527. That an event which waits for its write counts on the header that the write before it
will leave is the model's choice (notes/assumptions/38.md). -/
def Obligations.SettRecordsAndReports : Prop :=
  ∀ s : State,
    (∀ v, domStat s 78 = 1 → s.sett.open_ = true → let i := s.sett.paridx
      ∃ t, exec (.sealParameterWrite v) s = .next t ∧ settPar t i = v ∧ (∀ j, j ≠ i → settPar t j = settPar s j) ∧
        t.sett.paridx = (i + 1) % 256 ∧ t.eng = s.eng ∧ t.cnt = s.cnt ∧ t.sett.publ = s.sett.publ ∧
        (settPar s i = v → t.bat = s.bat) ∧
        (settPar s i ≠ v → s.sett.loss = false → let n := satCount (hdrLast s).evcnt 1
          t.bat.hdr = s.bat.hdr ∧ t.bat.log = s.bat.log ∧ t.bat.queue = s.bat.queue ++ [{
            ent := entSealed {
              time := ktb s, evcnt := n, type := BitVec.ofNat 32 (3 + 256 * (i % 256)), old := settPar s i, new := v,
              settid := s.sett.settid },
            hdr := hdrSealed { hdrLast s with evcnt := n, log := logNext (hdrLast s) } }])) ∧
    (∀ v, domStat s 78 = 1 → s.sett.open_ = false → exec (.sealParameterWrite v) s = .next (cntAdd s 0x181010 1)) ∧
    (∀ w rest, s.bat.queue = w :: rest → let i := (hdrNext w.hdr + 31) % 32
      (∃ t, exec (.batteryWriteDone true) s = .next t ∧ t.bat.hdr = w.hdr ∧ tblGet {} i t.bat.log = w.ent ∧
        (∀ j, j ≠ i → tblGet {} j t.bat.log = tblGet {} j s.bat.log) ∧ t.io = { s.io with batloss := s.io.batloss && !w.full } ∧
        t.eng = s.eng ∧ (batGood t.bat = true → t.bat.queue = rest ∧ t.sett = s.sett) ∧
        (batGood t.bat = false → s.sett.st ≠ 0 → t.sett.loss = true ∧ t.bat.queue = [])) ∧
      (∃ t, exec (.batteryWriteDone false) s = .next t ∧ t.bat.hdr = hdrLost s.free ∧ tblGet {} i t.bat.log = entLost s.free i ∧
        (∀ j, j ≠ i → tblGet {} j t.bat.log = tblGet {} j s.bat.log) ∧ t.io = s.io ∧
        (s.sett.st ≠ 0 → t.sett.loss = true ∧ t.bat.queue = []))) ∧
    ((s.sett.st = 2 ∨ s.sett.st = 3) →
      ∃ t, exec .settMailboxCommit s = .next t ∧ t.sett = { s.sett with
          publ := if settLegal s then s.sett.work else publMark s.sett.work, gen := s.sett.gen + 1 } ∧
        t.store = s.store ∧ t.bat = s.bat) ∧
    (s.bstate = .verify → s.sett.st = 2 → s.sett.hasImage = true → s.sett.idReported = none → badgerDead s = false →
      (settIdent s = s.sett.declared → ∃ t, exec .settIdentReport s = .next t ∧ t.sett.settid = settIdent s ∧
        t.sett.idReported = some true ∧ t.rel.identOk = true ∧ t.bstate = .verify) ∧
      (settIdent s ≠ s.sett.declared → ∃ t, exec .settIdentReport s = .next t ∧ t.sett.settid = settIdent s ∧
        t.bstate = .hold ∧ t.rel.fcause = 4 ∧ t.rel.phase = 5))

/-- R315, R378, R379, R382, R391. -/
def Obligations.SettTickEdgeAndReserve : Prop :=
  ∀ s : State, settTicks s = true →
    (∀ lost, (∀ i, tileBad s 5 2 (2 * i) = false) → s.sett.inReserve = true → settPoint s (settNext s) ≤ (ktb s).toNat →
      let k := ((ktb s).toNat - s.sett.phase.toNat) / (s.sett.units * 250)
      ∃ t, exec (.settTickEdge [] lost) s = .next t ∧ t.sett = { s.sett with
          taken := some k, stn := BitVec.ofNat 64 k, inReserve := false, parSeen := s.sett.par } ∧
        t.tick = { s.tick with cycSett := 0 } ∧ (engGet t 64).scan = (settDue t).filter (fun i => !hasNat i lost) ∧
        (engGet t 65).scan = (engGet t 64).scan ∧
        t.store.sett = s.store.sett ∧ cntGet t 0x181018 = satCount (cntGet s 0x181018) (k - settNext s)) ∧
    (∀ k, (∀ i, i ∈ (engGet s 64).scan ++ (engGet s 64).scanLost → tileBad s 5 2 (2 * i) = false) → s.sett.taken = some k → s.sett.inReserve = false → settPoint s k + windowNs s.sett.units 5 ≤ (ktb s).toNat →
      ∃ t, exec .settPublishReserve s = .next t ∧ t.sett.inReserve = true ∧ (engGet t 64).scan = [] ∧ (engGet t 65).scan = [] ∧
        t.tick = s.tick ∧ t.store.recs = s.store.recs ∧
        cntGet t 0x181024 = satCount (cntGet s 0x181024) ((engGet s 64).scan ++ (engGet s 64).scanLost).length)

/-- R369 whole, and of R353, R368, R370 and R371 what the clauses say. -/
def Obligations.MothHostCommands : Prop :=
  ∀ (s : State) (m : Nat) (v : Word), m < 96 → domStat s (bankDom (bankOf m)) = 1 →
    let mo := mothGet s m
    (bitAt v 31 = true → mo.en = false → (∀ q, q ∈ mothsOf (bankOf m) → (mothGet s q).imode = false) → bitAt v 26 = false →
      ∃ t, exec (.mothEnable m v) s = .next t ∧ (mothGet t m).en = true ∧ (mothGet t m).ill = false ∧
        (mothGet t m).restart = none ∧ (mothGet t m).edrv = bitAt v 28 ∧ (mothGet t m).esamp = bitAt v 27 ∧
        (mothGet t m).pc = (if mo.restart.isSome && (mo.restart.getD (false, false)).1 then 0
          else if mo.wait = .ended then (mo.pc + 1) % 32 else mo.pc) ∧
        ∀ q, q ≠ m → mothGet t q = mothGet s q) ∧
    (bitAt v 31 = false → mo.en = true →
      ∃ t, exec (.mothDisable m v) s = .next t ∧
        mothGet t m = { mo with en := false, edrv := bitAt v 28, esamp := bitAt v 27 } ∧
        (∀ q, q ≠ m → mothGet t q = mothGet s q) ∧ t = { s with field := t.field, cnt := t.cnt }) ∧
    (mo.en = false →
      (∃ t, exec (.mothPcWrite m v) s = .next t ∧ (mothGet t m).pc = field v 4 0 ∧ (mothGet t m).acc = mo.acc ∧
        (∀ q, q ≠ m → mothGet t q = mothGet s q) ∧ t = { s with field := t.field }) ∧
      (∀ i, i < 32 → ∃ t, exec (.mothImemWrite m i v) s = .next t ∧ tblGet 0 i (mothGet t m).imem = v.setWidth 24 ∧
        (∀ j, j ≠ i → tblGet 0 j (mothGet t m).imem = tblGet 0 j mo.imem) ∧ (mothGet t m).pc = mo.pc ∧
        (∀ q, q ≠ m → mothGet t q = mothGet s q) ∧ t = { s with field := t.field }) ∧
      exec (.mothRestartWrite m v) s = .next (mothSet s m { mo with restart := some (bitAt v 0, bitAt v 1) })) ∧
    (mo.en = true → exec (.mothPcWrite m v) s = .next (cntAdd s (mthAdr m 0x30) 1) ∧
      (∀ i, i < 32 → exec (.mothImemWrite m i v) s = .next (cntAdd s (mthAdr m 0x2C) 1)) ∧
      exec (.mothRestartWrite m v) s = .next (cntAdd s (mthAdr m 0x30) 1)) ∧
    exec (.mothClockWrite m v) s = .next (mothSet s m { mo with
      tsyncNext := some (bitAt v 31), dNext := if field v 23 0 < 256 then mo.dNext else some (field v 23 0) }) ∧
    (mo.inj = none → exec (.mothInject m v) s = .next (mothSet s m { mo with inj := some (v.setWidth 24) })) ∧
    (mo.inj.isSome = true → exec (.mothInject m v) s = .next (cntAdd s (mthAdr m 0x30) 1))

/-- R356, R358 to R360. That a level operand is what the pin reads, and that the synchronised level takes it, is the model's choice
(notes/assumptions/36.md). -/
def Obligations.MothPinInstructionsComplete : Prop :=
  ∀ (s : State) (m : Nat) (i : BitVec 24),
    let mo := mothGet s m
    let n := field i 11 6
    let k := field i 5 3
    (∀ cyc, Begins s m 1 i → ∃ t, exec (.mothShout m cyc) s = .next t ∧
      (mothGet t m).so = (if bitAt i 2 then mo.so >>> min cyc n else mo.so <<< min cyc n) ∧
      (cyc < n → (mothGet t m).wait = .shift (n - cyc) ∧ (mothGet t m).pc = mo.pc) ∧
      (n ≤ cyc → (mothGet t m).pc = (mo.pc + 1) % 32) ∧ (mothGet t m).si = mo.si ∧ t.eng = s.eng ∧
      (∀ j, j < 8 → (j ≠ k ∨ min cyc n = 0 ∨ mothPin s m j = none) → bitAt (mothGet t m).out j = bitAt mo.out j) ∧
      (0 < min cyc n → (mothPin s m k).isSome = true →
        bitAt (mothGet t m).out k = bitAt mo.so (if bitAt i 2 then min cyc n - 1 else 32 - min cyc n))) ∧
    (∀ bits, Begins s m 2 i → mothPin s m k = none → ∃ t, exec (.mothShin m bits) s = .next t ∧
      (mothGet t m).si = (if bitAt i 2 then mo.si >>> min bits.length n else mo.si <<< min bits.length n) ∧
      (n ≤ bits.length → (mothGet t m).pc = (mo.pc + 1) % 32) ∧ OwnMoth s t m) ∧
    (∀ bits p, Begins s m 2 i → mothPin s m k = some p → FreePin s p →
      ∃ t, exec (.mothShin m bits) s = .next t ∧
        (mothGet t m).si = (bits.take n).foldl (fun (a : Word) (b : Bool) => let v : Word := if b then 1 else 0
          if bitAt i 2 then (a >>> 1) ||| (v <<< 31) else (a <<< 1) ||| v) mo.si ∧
        (bits.length < n → (mothGet t m).wait = .shift (n - bits.length) ∧ (mothGet t m).pc = mo.pc) ∧
        (n ≤ bits.length → (mothGet t m).pc = (mo.pc + 1) % 32) ∧ (mothGet t m).so = mo.so ∧ OwnMoth s t m) ∧
    (∀ level reads, Begins s m 3 i → PinReads s m k level reads →
      let holds := (field i 11 9 = 3 ∧ reads = true) ∨ (field i 11 9 = 4 ∧ reads = false)
      (holds → ∃ t, exec (.mothEdge m level) s = .next t ∧
        mothGet t m = mothRetire { begun mo i with tmo := false, edgeTime := (ktb s).setWidth 32 } none ∧ OwnMoth s t m) ∧
      (¬ holds → bitAt i 8 = false ∨ mo.kb ≠ 0 → ∃ t, exec (.mothEdge m level) s = .next t ∧
        mothGet t m = { begun mo i with wait := .edge, edgeLvl := reads } ∧ OwnMoth s t m) ∧
      (¬ holds → bitAt i 8 = true → mo.kb = 0 → ∃ t, exec (.mothEdge m level) s = .next t ∧
        mothGet t m = mothRetire { begun mo i with tmo := true } none ∧ OwnMoth s t m)) ∧
    (∀ levels, Begins s m 4 i → ∃ t, exec (.mothSample m levels) s = .next t ∧
      mothGet t m = mothRetire { begun mo i with
        si := (mo.si <<< mo.npin) ||| BitVec.ofNat 32 (mothLevels t m % 2 ^ mo.npin) } none ∧ OwnMoth s t m ∧
      (∀ j reads, j < 8 → PinReads s m j (bitAt levels j) reads → mothLevel t m j = reads)) ∧
    (Begins s m 5 i → ∃ t, exec (.mothDrive m) s = .next t ∧
      let v := if field i 11 10 = 0 then field i 7 0 else mo.so.toNat
      mothGet t m = mothRetire { begun mo i with
        so := if field i 11 10 = 2 then mo.so >>> mo.npin else mo.so, out := (mothGet t m).out } none ∧
      ∀ k, k < 8 → bitAt (mothGet t m).out k = if mothDriven s m k then v.testBit k else bitAt mo.out k) ∧
    (Begins s m 6 i → ∃ t, exec (.mothToggle m) s = .next t ∧
      mothGet t m = mothRetire { begun mo i with out := (mothGet t m).out } none ∧
      ∀ k, k < 8 → bitAt (mothGet t m).out k = (bitAt mo.out k ^^ (bitAt i k && mothDriven s m k))) ∧
    (Begins s m 8 i →
      let c := { begun mo i with cntCond := field i 11 9, cntPin := field i 5 3 }
      (bitAt i 8 = true ∨ mo.kb ≠ 0 → exec (.mothCount m) s = .next (mothSet s m { c with wait := .count })) ∧
      (bitAt i 8 = false → mo.kb = 0 →
        exec (.mothCount m) s = .next (mothSet s m (mothRetire { c with ka := mo.ka + mo.acc, acc := 0 } none))))

/-- R357, and the rows of Table 13.2 (R356, R361, R362). That the level operand of a JMP on its pin is what the pin reads, and that the
synchronised level takes it, is the model's choice (notes/assumptions/36.md). -/
def Obligations.MothRegisterInstructionsComplete : Prop :=
  ∀ (s : State) (m : Nat) (i : BitVec 24),
    let mo := mothGet s m
    let b := begun mo i
    let code := field i 10 9
    (Begins s m 0 i → exec (.mothNop m) s = .next (mothSet s m (mothRetire b none))) ∧
    (Begins s m 7 i → exec (.mothLoop m) s = .next (mothSet s m (
      if bitAt i 11 then (if mo.kb = 0 then mothRetire b none else mothRetire { b with kb := mo.kb - 1 } (some (field i 4 0)))
      else (if mo.ka = 0 then mothRetire b none else mothRetire { b with ka := mo.ka - 1 } (some (field i 4 0)))))) ∧
    (Begins s m 9 i → let v := if bitAt i 11 then mo.edgeTime else (ktb s).setWidth 32
      exec (.mothCapt m) s = .next (mothSet s m (mothRetire { b with
        si := if code = 0 then v else mo.si, ka := if code = 1 then v else mo.ka, kb := if code = 2 then v else mo.kb } none))) ∧
    (∀ w rest, Begins s m 10 i → mo.qout = w :: rest →
      exec (.mothFetch m) s = .next (mothSet s m (mothRetire { b with
        qout := rest, so := if code = 0 then w else mo.so, ka := if code = 1 then w else mo.ka,
        kb := if code = 2 then w else mo.kb } none))) ∧
    (Begins s m 10 i → mo.qout = [] → exec (.mothFetch m) s = .next (mothSet s m { b with wait := .stallF })) ∧
    (Begins s m 11 i → mo.imode = false → mo.qin.length < qinCap mo →
      exec (.mothStow m) s = .next (mothSet s m (mothRetire { b with
        qin := mo.qin ++ [if code = 0 then mo.si else if code = 1 then mo.ka else mo.kb],
        si := if bitAt i 8 && code = 0 then 0 else mo.si, ka := if bitAt i 8 && code = 1 then 0 else mo.ka,
        kb := if bitAt i 8 && code = 2 then 0 else mo.kb } none))) ∧
    (Begins s m 11 i → mo.imode = true → mo.qin = [] → (gwGet s (bankOf m)).length < 160 →
      (∀ q, q ∈ mothsOf (bankOf m) → q ≠ m → (mothGet s q).imode = true → (mothGet s q).qin = []) →
      let w := if code = 0 then mo.si else if code = 1 then mo.ka else mo.kb
      let done := mothRetire { b with
        si := if bitAt i 8 && code = 0 then 0 else mo.si, ka := if bitAt i 8 && code = 1 then 0 else mo.ka,
        kb := if bitAt i 8 && code = 2 then 0 else mo.kb } none
      (mo.ctxValid = true → ∃ t, exec (.mothStow m) s = .next t ∧ mothGet t m = { done with seq := (mo.seq + 1) % 256 } ∧
        gwGet t (bankOf m) = gwGet s (bankOf m) ++ [{ cell := mothCell s m w, pend := false, due := dueNow s }] ∧ OwnMoth s t m) ∧
      (mo.ctxValid = false → ∃ t, exec (.mothStow m) s = .next t ∧ mothGet t m = done ∧
        gwGet t (bankOf m) = gwGet s (bankOf m) ∧
        cntGet t (mthAdr m 0x3C) = satCount (cntGet s (mthAdr m 0x3C)) 1 ∧ OwnMoth s t m)) ∧
    (Begins s m 11 i → qinCap mo ≤ mo.qin.length → exec (.mothStow m) s = .next (mothSet s m { b with wait := .stallS })) ∧
    (∀ level, Begins s m 12 i → field i 11 9 ≠ 3 → field i 11 9 ≠ 4 →
      exec (.mothJmp m level) s = .next (mothSet s m (mothRetire b (if jmpTaken s m i then some (field i 4 0) else none)))) ∧
    (∀ level reads, Begins s m 12 i → PinReads s m (field i 7 5) level reads →
      (field i 11 9 = 3 → ∃ t, exec (.mothJmp m level) s = .next t ∧ OwnMoth s t m ∧
        mothGet t m = mothRetire b (if reads then some (field i 4 0) else none)) ∧
      (field i 11 9 = 4 → ∃ t, exec (.mothJmp m level) s = .next t ∧ OwnMoth s t m ∧
        mothGet t m = mothRetire b (if reads then none else some (field i 4 0)))) ∧
    (Begins s m 13 i → let v : Word := BitVec.ofNat 32 (field i 9 0)
      exec (.mothSet m) s = .next (mothSet s m (mothRetire { b with
        ka := if field i 11 10 = 0 then v else mo.ka, kb := if field i 11 10 = 1 then v else mo.kb,
        so := if field i 11 10 = 2 then v else mo.so } none))) ∧
    (mothFetches s m = true → mothIns s m = i → mothIllegal mo i = true →
      ∃ t, exec (.mothIllegalInstruction m) s = .next t ∧ mothGet t m = { mo with en := false, ill := true } ∧
        (∀ q, q ≠ m → mothGet t q = mothGet s q) ∧ cntGet t 0x40220 = satCount (cntGet s 0x40220) 1 ∧
        (s.mbx.log.length < 1024 → fltMerge s 8 (BitVec.ofNat 32 m) s.mbx.log = none → t.mbx.log = s.mbx.log ++ [{
          time := ktb s, tick := s.tick.tickn.setWidth 32, cls := 8, rep := 0, source := BitVec.ofNat 32 m,
          arg0 := BitVec.ofNat 32 mo.pc, arg1 := 0, fseq := s.mbx.fseq }]))

/-- R349, R357 to R359, R361, R362, R371. That MOTH_EDGE_MET and MOTH_PIN_EDGE_COUNT bring the level of the pin with them, which its
synchronised level takes, is the model's choice (notes/assumptions/36.md). -/
def Obligations.MothWaitsEnd : Prop :=
  ∀ (s : State) (m : Nat),
    let mo := mothGet s m
    let code := field mo.cur 10 9
    let cond := field mo.cur 11 9
    let met := mothRetire { mo with tmo := false, edgeTime := (ktb s).setWidth 32 } none
    (∀ p, MWaits s m .edge → field mo.cur 11 9 < 5 → mothPin s m (field mo.cur 5 3) = some p → FreePin s p → ∃ t, exec (.mothEdgeMet m false) s = .next t ∧ OwnMoth s t m ∧
      mothGet t m = met) ∧
    (MWaits s m .edge → mothPin s m (field mo.cur 5 3) = none →
      (cond = 0 ∨ cond = 3 ∨ cond = 5 ∨ (cond = 1 ∨ cond = 2) ∧ mo.edgeLvl = false → exec (.mothEdgeMet m false) s = .next s) ∧
      (cond = 4 ∨ (cond = 1 ∨ cond = 2) ∧ mo.edgeLvl = true → exec (.mothEdgeMet m false) s = .next (mothSet s m met))) ∧
    (MWaits s m .edge → field mo.cur 11 9 = 5 → mo.injWait = none →
      edgeWaits s m = mothSet s m (mothRetire { mo with tmo := false } none)) ∧
    (∀ p, mothActs s m = true → mo.wait = .edge → field mo.cur 11 9 < 5 → mothPin s m (field mo.cur 5 3) = some p →
      FreePin s p → mo.inj.isSome = true → mo.injWait = none →
      ∃ t, exec (.mothEdgeMet m false) s = .next t ∧ OwnMoth s t m ∧
        mothGet t m = { mo with tmo := false, edgeTime := (ktb s).setWidth 32, wait := .ended }) ∧
    (∀ p, mothActs s m = true → mo.en = true → mo.injWait = some .edge → field mo.injCur 11 9 < 5 →
      mothPin s m (field mo.injCur 5 3) = some p → FreePin s p →
      ∃ t, exec (.mothEdgeMet m true) s = .next t ∧ OwnMoth s t m ∧
        mothGet t m = { mo with tmo := false, edgeTime := (ktb s).setWidth 32, injWait := some .ended }) ∧
    (MWaits s m .edge → bitAt mo.cur 8 = true →
      (edgeHolds s m mo.cur mo.edgeLvl = false → exec (.mothEdgeTimeout m) s =
        .next (mothSet s m (mothRetire { mo with tmo := true } none))) ∧
      (edgeHolds s m mo.cur mo.edgeLvl = true → exec (.mothEdgeTimeout m) s = .next (mothSet s m met))) ∧
    (MWaits s m .count → bitAt mo.cur 8 = false → exec (.mothCountEnd m) s =
      .next (mothSet s m (mothRetire { mo with ka := mo.ka + mo.acc, acc := 0 } none))) ∧
    (mothActs s m = true → mo.wait = .count → bitAt mo.cur 8 = false → mo.inj.isSome = true → mo.injWait = none →
      exec (.mothCountEnd m) s = .next (mothSet s m { mo with ka := mo.ka + mo.acc, acc := 0, wait := .ended })) ∧
    (∀ rising p, m < 104 → bankLive s (bankOf m) = true → mo.en = true → mothPin s m mo.cntPin = some p → FreePin s p →
      (mo.cntCond = 2 ∨ (mo.cntCond = 0 ∧ rising = true) ∨ (mo.cntCond = 1 ∧ rising = false)) →
      ∃ t, exec (.mothPinEdgeCount m rising) s = .next t ∧ mothGet t m = { mo with acc := mo.acc + 1 } ∧
        hasNat p t.field.sync = rising ∧ OwnMoth s t m ∧
        (pinFilter s p ≠ 0 → t = { s with field := t.field })) ∧
    (∀ cyc w rest, MWaits s m .stallF → mOp mo.cur = 10 → mo.qout = w :: rest →
      ∃ t, exec (.mothStallEnd m cyc) s = .next t ∧ mothGet t m = mothRetire { mo with
          qout := rest, so := if code = 0 then w else mo.so, ka := if code = 1 then w else mo.ka,
          kb := if code = 0 ∨ code = 1 then mo.kb else w } none ∧
        cntGet t (mthAdr m 0x38) = satCount (cntGet s (mthAdr m 0x38)) cyc ∧ t = { s with field := t.field, cnt := t.cnt }) ∧
    (∀ cyc, MWaits s m .stallS → mOp mo.cur = 11 → mo.imode = false → mo.qin.length < qinCap mo →
      ∃ t, exec (.mothStallEnd m cyc) s = .next t ∧ mothGet t m = mothRetire { mo with
          qin := mo.qin ++ [if code = 0 then mo.si else if code = 1 then mo.ka else mo.kb],
          si := if bitAt mo.cur 8 && code = 0 then 0 else mo.si, ka := if bitAt mo.cur 8 && code = 1 then 0 else mo.ka,
          kb := if bitAt mo.cur 8 && decide (1 < code) then 0 else mo.kb } none ∧
        cntGet t (mthAdr m 0x38) = satCount (cntGet s (mthAdr m 0x38)) cyc ∧ t = { s with field := t.field, cnt := t.cnt }) ∧
    (∀ cyc, MWaits s m .stallS → mOp mo.cur = 11 → qinCap mo ≤ mo.qin.length →
      exec (.mothStallEnd m cyc) s = .next (cntAdd s (mthAdr m 0x38) cyc)) ∧
    (∀ cyc, MWaits s m .stallF → mOp mo.cur = 10 → mo.qout = [] →
      exec (.mothStallEnd m cyc) s = .next (cntAdd s (mthAdr m 0x38) cyc)) ∧
    (∀ k, MWaits s m (.delay k) → exec (.mothDelayEnd m) s = .next (mothSet s m (mothIdle mo))) ∧
    (∀ i levels, m < 104 → bankLive s (bankOf m) = true → mo.inj = some i → mo.injWait = none →
      (mothIllegal mo i = true → ∃ t, exec (.mothInjectedExecute m levels) s = .next t ∧ (mothGet t m).en = false ∧
        (mothGet t m).ill = true ∧ (mothGet t m).inj = none ∧ (mothGet t m).pc = mo.pc) ∧
      (mothIllegal mo i = false → mOp i = 13 → field i 11 10 = 0 → field i 18 16 = 0 → bitAt i 15 = false →
        let done : Moth := { mo with
          d := mo.dNext.getD mo.d, dNext := none, inj := none, injCur := mo.cur, injLvl := mo.edgeLvl, ka := BitVec.ofNat 32 (field i 9 0) }
        ∃ t, exec (.mothInjectedExecute m levels) s = .next t ∧
          mothGet t m = if mo.wait = .ended then mothEnd done else done))

/-- R55, R70, R73, R75, R76, R78, R366, R367. -/
def Obligations.CellsMoveThroughQueues : Prop :=
  ∀ s : State,
    (∀ n o rest bad lost, n < 64 → flyTake n s.cells.flight = some (o, rest) →
      ((engGet s n).inq.length < 512 → ∃ t, exec (.inboundCellArrival n bad lost) s = .next t ∧ t.cells = { s.cells with flight := rest } ∧
        (engGet t n).inq = (engGet s n).inq ++ [{ cell := o.cell, arr := arrEntry s o.cell, bad := bad, lost := lost }] ∧
        (engGet t n).g = (engGet s n).g ∧ (∀ m, m ≠ n → engGet t m = engGet s m) ∧ t.store = s.store) ∧
      (512 ≤ (engGet s n).inq.length → ∃ t, exec (.inboundCellArrival n bad lost) s = .next t ∧ t.eng = s.eng ∧
        t.cells = { s.cells with flight := rest } ∧
        cntGet t (0x5000 + n * 0x20 + 4) = satCount (cntGet s (0x5000 + n * 0x20 + 4)) 1)) ∧
    (∀ o rest, flyTake 100 s.cells.flight = some (o, rest) →
      (s.cells.hostq.length < 256 → exec .hostQueueArrival s =
        .next { s with cells := { s.cells with flight := rest, hostq := s.cells.hostq ++ [o.cell] } }) ∧
      (256 ≤ s.cells.hostq.length → ∃ t, exec .hostQueueArrival s = .next t ∧ t.cells = { s.cells with flight := rest } ∧
        cntGet t 0x4018 = satCount (cntGet s 0x4018) 1 ∧ t.eng = s.eng)) ∧
    (∀ k n cyc, k < 8 → domStat s (64 + k) = 1 → isPaired s = false → (routerOrder s k).find? (routerServes s) = some n →
      (engGet s n).hold ≠ .push → ∃ t, exec (.routerCell k false cyc) s = .next t ∧
        (engGet t n).outq = (takeReleased (cellOld s) (engGet s n).outq).2.1 ∧ tblGet 0 k t.cells.rot = (n % 8 + 1) % 8 ∧
        (∀ m, m ≠ n → engGet t m = engGet s m) ∧ t.store = s.store) ∧
    (∀ b o rest m, b < 6 → domStat s (bankDom b) = 1 → flyTake (110 + b) s.cells.flight = some (o, rest) →
      bankMothOfCtx s b (cellIndex o.cell) = some m → cellKind o.cell = 4 → (mothGet s m).held.length < 8 →
      exec (.gatewayCellArrival b) s = .next (mothSet { s with cells := { s.cells with flight := rest } } m
        { mothGet s m with held := (mothGet s m).held ++ [(o.cell >>> 64).setWidth 32] })) ∧
    (∀ b o rest pf, b < 6 → domStat s (bankDom b) = 1 → (∀ m, m ∈ mothsOf b → (mothGet s m).imode = false) →
      gwGet s b = o :: rest → cellOld s o.cell = false →
      ∃ t, exec (.gatewayCellPass b pf) s = .next t ∧ gwGet t b = rest ∧ t.field.moth = s.field.moth ∧
        t.store = s.store ∧ (pf = false → t.eng = s.eng) ∧ (pf = true → cntGet t 0xA044 = satCount (cntGet s 0xA044) 1 ∧ t.cells.flight = s.cells.flight)) ∧
    (∃ t, exec .queueAgeSweep s = .next t ∧ t.cells.hostq = s.cells.hostq.filter (fun c => !cellOld s c) ∧
      (∀ n, n < 64 → (engGet t n).inq = (engGet s n).inq.filter (fun q => !q.bad && !cellOld s q.cell) ∧
        (engGet t n).outq = (engGet s n).outq.filter (fun o => o.pend || !cellOld s o.cell) ∧
        (engGet t n).scan = (engGet s n).scan) ∧ t.pub.late = s.pub.late.filter (fun o => !cellOld s o.cell) ∧ t.store = s.store ∧
      ((∀ m, (mothGet s m).imode = true → (mothGet s m).qin = []) → t.field.moth = s.field.moth))

/-- R123, R124, R127, R129, R130, R133 and R134. Where a millisecond begins and the LEFT of the finished header are the model's choices
(notes/assumptions/57.md). -/
def Obligations.PublicationAndHistory : Prop :=
  ∀ s : State,
    (∀ o rest, flyTake 101 s.cells.flight = some (o, rest) → let i := cellIndex o.cell
      let ctl := ctlGet s i
      (tickAfter s.tick.tickn o.due = false → ctlInuse ctl = true → ctlPubl ctl = true → isMirrored s = false →
        s.svc.fill = false → recTileBad s i 0 = false →
        ∃ t, exec .publicationCopyAccept s = .next t ∧ recValue (recGet t i) = (o.cell >>> 64).setWidth 64 ∧
          recTag (recGet t i) = o.cell.setWidth 64 ∧ recCtl (recGet t i) = recCtl (recGet s i) ∧
          (∀ j, j ≠ i → recGet t j = recGet s j) ∧ hasNat i t.pub.pend0 = true ∧ hasNat i t.pub.pend1 = true ∧
          t.cells = { s.cells with flight := rest } ∧ t.eng = s.eng) ∧
      (tickAfter s.tick.tickn o.due = false → ¬(ctlInuse ctl = true ∧ ctlPubl ctl = true) →
        ∃ t, exec .publicationCopyAccept s = .next t ∧ t.store = s.store ∧ t.pub = s.pub ∧
          cntGet t 0x6020 = satCount (cntGet s 0x6020) 1) ∧
      (tickAfter s.tick.tickn o.due = true → s.pub.late.length < 4096 → exec .publicationCopyAccept s =
        .next { s with cells := { s.cells with flight := rest }, pub := { s.pub with late := s.pub.late ++ [o] } })) ∧
    (∀ i l, s.pub.writing = true → pubOn s = true → pubTodo s = i :: l → isMirrored s = false → recTileBad s i 0 = false →
      pubMsCount s < pubMsMax s → let a := 2 ^ 64 * 9 + (regGet64 s (0x6008 + 8 * pubBuf s)).toNat + 16 * i
      ∃ t, exec .publicationEntryWrite s = .next t ∧
        memBytes t.mem.dram a 16 = leBytes 16 (mkCell (recTag (recGet s i)) (recValue (recGet s i))).toNat ∧
        (∀ b, b < a ∨ a + 16 ≤ b → memGet t.mem.dram b = memGet s.mem.dram b) ∧ hasNat i (pubPend t (pubBuf t)) = false ∧
        t.pub.written = s.pub.written + 1 ∧ t.store = s.store ∧ t.eng = s.eng) ∧
    (pubMsMax s ≤ pubMsCount s → exec .publicationEntryWrite s = .next s) ∧
    (s.pub.writing = true → pubOn s = true → s.tick.inReserve = true → pubTodo s = [] → pubInFlight s = false →
      ∃ t, exec .publicationHeaderDone s = .next t ∧ t.pub = { s.pub with writing := false } ∧
        memBytes t.mem.dram (2 ^ 64 * 9 + pubHdrAdr s (pubBuf s)) 64 = pubHeader s 2 0 ∧ t.store = s.store) ∧
    (∀ o rest, flyTake 102 s.cells.flight = some (o, rest) →
      let ok := bitAt (regGet s 0x6040) 0 && ctlInuse (ctlGet s (cellIndex o.cell)) && ctlHistl (ctlGet s (cellIndex o.cell))
      (ok = true → s.pub.histq.length < 4096 → ∃ t, exec .historyCopyAccept s = .next t ∧
        t.pub.histq = s.pub.histq ++ [{ cell := o.cell, time := ktb s, slew := decide (s.tick.slew ≠ 0) }] ∧
        t = { s with cells := { s.cells with flight := rest }, pub := t.pub } ∧ t.pub.drops = s.pub.drops) ∧
      (ok = false → ∃ t, exec .historyCopyAccept s = .next t ∧ t.pub = { s.pub with drops := min (s.pub.drops + 1) 65535 } ∧
        cntGet t 0x6058 = satCount (cntGet s 0x6058) 1 ∧ t.store = s.store) ∧
      (ok = true → 4096 ≤ s.pub.histq.length → ∃ t, exec .historyCopyAccept s = .next t ∧
        t.pub = { s.pub with drops := min (s.pub.drops + 1) 65535 } ∧ cntGet t 0x6054 = satCount (cntGet s 0x6054) 1 ∧
        t.store = s.store)) ∧
    (∀ pf, histReady s = false → exec (.historyEntryWrite pf) s = .next s) ∧
    (∀ e rest, s.pub.histq = e :: rest → s.pub.histWriting = false → histReady s = true →
      let a := 2 ^ 64 * 9 + ((regGet64 s 0x6048).toNat + 32 * field s.pub.hseq 23 0)
      ∃ t, exec (.historyEntryWrite false) s = .next t ∧ memBytes t.mem.dram a 32 = histBytes s e ∧
        (∀ b, b < a ∨ a + 32 ≤ b → memGet t.mem.dram b = memGet s.mem.dram b) ∧
        t.pub = { s.pub with histq := rest, histWriting := true, drops := 0, histLast := some (ktb s) } ∧
        t = { s with pub := t.pub, mem := t.mem }) ∧
    (∀ e rest, s.pub.histq = e :: rest → s.pub.histWriting = false → histReady s = true →
      ∃ t, exec (.historyEntryWrite true) s = .next t ∧ t.pub = { s.pub with histq := rest } ∧ t.mem = s.mem ∧
        cntGet t 0xA044 = satCount (cntGet s 0xA044) 1) ∧
    (s.pub.histWriting = true → ∃ t, exec .historyEntryComplete s = .next t ∧
      t.pub = { s.pub with histWriting := false, hseq := s.pub.hseq + 1 } ∧
      cntGet t 0x605C = satCount (cntGet s 0x605C) (b2n (decide (field (s.pub.hseq + 1) 23 0 = 0))) ∧
      t = { s with pub := t.pub, cnt := t.cnt })

/-- R56, R88 to R92, R95 to R97. That frames are operands and outputs, that a valid frame brings a silent port up, and the place of the
unit's own break are the model's reading (notes/assumptions/47.md). -/
def Obligations.ChainFramesReceived : Prop :=
  ∀ (s : State) (p : Nat) (h : W64) (bodies : List W128) (crc : Word),
    (portOn s p = true → (portGet s p).training = false → (portGet s p).lanes ≠ 0 → frameOk h bodies crc = false →
      let t := cntAdd s (chnAdr p 8) 1
      exec (.cellFrameReceive p h bodies crc) s = .next t ∧ exec (.enumerationOfferReceive p h bodies crc) s = .next t ∧
      exec (.enumerationCommitReceive p h bodies crc) s = .next t ∧ exec (.ringStatusReceive p h bodies crc) s = .next t) ∧
    (∀ z c rest, frameTake s p 1 h bodies crc = some (true, z) → bodies = c :: rest → cellUnit c ≠ 127 →
      cellUnit c ≠ s.chain.unit → s.chain.unit ≠ 0 → (portGet s (1 - p)).up = true → (portGet s p).buf.length < 512 →
      (∀ x, x ∈ bodies → ageOf (s.tick.tickn.toNat % 65536) (cellStamp x) < 0x8000 ∧ cellOld s x = false) →
      ∃ t, exec (.cellFrameReceive p h bodies crc) s = .next t ∧
        t.chain.out = s.chain.out ++ [(1 - p, {
          hdr := fhMake 1 (fhSrc h) (fhHops h + 1) bodies.length (fhWrap h) false s.tick.tickn.toNat (portGet s (1 - p)).txSeq,
          bodies := bodies,
          crc := frameCrc (fhMake 1 (fhSrc h) (fhHops h + 1) bodies.length (fhWrap h) false s.tick.tickn.toNat
            (portGet s (1 - p)).txSeq) bodies })] ∧
        (portGet t p).up = true ∧ (portGet t p).rxSeq = some (fhSeq h) ∧ t.cells = s.cells ∧ t.store = s.store) ∧
    (∀ z, frameTake s p 1 h bodies crc = some (true, z) → s.chain.unit = 0 →
      exec (.cellFrameReceive p h bodies crc) s = .next z ∧ z = { s with chain := z.chain, cnt := z.cnt } ∧
        z.chain.out = s.chain.out ∧ (portGet z p).buf = (portGet s p).buf) ∧
    (∀ z c, frameTake s p 1 h bodies crc = some (true, z) → bodies = [c] → s.chain.unit ≠ 0 →
      (portGet s p).buf.length < 512 → ageOf (s.tick.tickn.toNat % 65536) (cellStamp c) = 0xFFFF →
      ∃ t, exec (.cellFrameReceive p h bodies crc) s = .next t ∧ (portGet t p).buf = (portGet s p).buf ++ [{
        cell := c, src := fhSrc h, hops := fhHops h, wrap := fhWrap h, past := fhPast h }] ∧
        t.cells = s.cells ∧ t.store = s.store ∧ t.chain.out = s.chain.out) ∧
    (∀ z b, frameTake s p 2 h bodies crc = some (true, z) → bodies = [b] → p = 1 → chnHead s = false →
      tickingState s.bstate = false → field b 6 0 ≠ 0 → field b 6 0 ≠ 127 →
      ∃ t, exec (.enumerationOfferReceive p h bodies crc) s = .next t ∧
        t.chain.tent = some (field b 6 0, bodyOrigin b, ktb s) ∧ t.chain.unit = s.chain.unit ∧ t.cells = s.cells) ∧
    (∀ z b a t0, frameTake s p 3 h bodies crc = some (true, z) → bodies = [b] → p = 1 → chnHead s = false →
      tickingState s.bstate = false → s.chain.tent = some (a, bodyOrigin b, t0) →
      ∃ t, exec (.enumerationCommitReceive p h bodies crc) s = .next t ∧ t.chain.unit = a ∧ t.chain.units = field b 6 0 ∧
        t.chain.tent = none ∧ t.cells = s.cells) ∧
    (∀ z b, frameTake s p 4 h bodies crc = some (true, z) → bodies = [b] →
      ∃ t, exec (.ringStatusReceive p h bodies crc) s = .next t ∧ t.cells = s.cells ∧ t.store = s.store ∧
        (bitAt b 7 = false → t.chain.brkValid = false) ∧
        (bitAt b 7 = true → t.chain.brkValid = true ∧
          t.chain.brkUnit = if s.chain.brkValid then s.chain.brkUnit else field b 6 0))

/-- R87, R91, R96. What CHAIN_PORT_DOWN leaves and that the own break goes before BREAKAT are the model's reading
(notes/assumptions/47.md). -/
def Obligations.ChainPortsAndTimers : Prop :=
  ∀ (s : State) (p : Nat),
    (∀ retrain, portOn s p = true → (portGet s p).up = true → ∃ t, exec (.chainPortDown p retrain) s = .next t ∧ (portGet t p).up = false ∧
      t.chain.brkValid = true ∧ t.chain.brkUnit = (if s.chain.brkValid then s.chain.brkUnit else ownBreak s p) ∧
      cntGet t (chnAdr p 4) = satCount (cntGet s (chnAdr p 4)) 1 ∧ t.cells = s.cells ∧
      (retrain = true → (portGet t p).training = true ∧ (portGet t p).lanes = 0)) ∧
    (portOn s p = true → ((portGet s p).up = true ∨ ((portGet s p).lanes ≠ 0 ∧ (portGet s p).training = false)) →
      let own := !(portGet s (1 - p)).up && (portGet s (1 - p)).owesClear
      let valid := own || s.chain.brkValid
      let u := if own then ownBreak s (1 - p) else s.chain.brkUnit
      let hdr := fhMake 4 s.chain.unit 1 1 false false s.tick.tickn.toNat (portGet s p).txSeq
      ∃ t, exec (.ringStatusSend p) s = .next t ∧ t = { s with chain := t.chain } ∧
        t.chain.out = s.chain.out ++ [(p, {
          hdr := hdr, bodies := [statusBody valid u], crc := frameCrc hdr [statusBody valid u] })] ∧
        (portGet t p).txSeq = ((portGet s p).txSeq + 1) % 65536 ∧ portGet t (1 - p) = portGet s (1 - p)) ∧
    (∀ since, portOn s p = true → (portGet s p).up = true → (portGet s p).owesClear = true → (portGet s p).upSince = some since →
      1000000 ≤ (ktb s).toNat - since.toNat → ∃ t, exec (.breakClearSend p) s = .next t ∧ t.chain.brkValid = false ∧
        (portGet t p).owesClear = false ∧ t.cells = s.cells) ∧
    (∀ working, let l := lanesUsed working
      (l.length = 0 ∨ l.length = 1 ∨ l.length = 2 ∨ l.length = 4) ∧ (∀ i, i ∈ l → i < 4 ∧ working.testBit i = true) ∧
      (portOn s p = true → (portGet s p).up = false → l ≠ [] →
        ∃ t, exec (.laneRetrainDone p working) s = .next t ∧ t = { s with chain := t.chain } ∧
          portGet t p = { portGet s p with
            training := false, lanes := l.length, active := l, up := true, upSince := some (ktb s) } ∧
          portGet t (1 - p) = portGet s (1 - p)) ∧
      (portOn s p = true → (portGet s p).up = true → (portGet s p).lanes = l.length → l ≠ [] →
        exec (.laneRetrainDone p working) s = .next (portSet s p { portGet s p with active := l })) ∧
      (portOn s p = true → (portGet s p).up = true → (portGet s p).lanes ≠ l.length → l ≠ [] →
        ∃ t, exec (.laneRetrainDone p working) s = .next t ∧ (portGet t p).lanes = l.length ∧ (portGet t p).up = true ∧
          cntGet t (chnAdr p 4) = satCount (cntGet s (chnAdr p 4)) 1)) ∧
    (∀ o tag sent, s.chain.offer = some (o, tag, sent) → tag ≠ 0 → 10000000 < (ktb s).toNat - sent.toNat →
      ∃ t, exec .enumerationOfferTimeout s = .next t ∧ t.chain = { s.chain with offer := none } ∧
        t.mbx.cpl = s.mbx.cpl ++ [(tag, 0x16)]) ∧
    (∀ a o since, s.chain.tent = some (a, o, since) → 20000000 ≤ (ktb s).toNat - since.toNat →
      exec .tentativeAddressDrop s = .next { s with chain := { s.chain with tent := none } })

/-- R32 to R34, R36, R68, R417, R424. -/
def Obligations.MainTickEdgeTakesItsPoint : Prop :=
  ∀ (s : State) (fails : EdgeFails), pointReached s = true →
    let k := ((ktb s).toNat - s.tick.phase.toNat) / periodNs s
    let n := s.tick.basen + BitVec.ofNat 64 k
    ((s.bstate = .run ∨ s.bstate = .service) → holdDue s = false → s.tick.pend = none → s.tick.agePending = none →
      ∃ t, exec (.mainTickEdge fails) s = .next t ∧ (t.bstate = .run ∨ t.bstate = .service) ∧ t.tick.tickn = n ∧
        t.tick.nextK = k + 1 ∧ t.tick.edgeAt = some (s.tick.phase + BitVec.ofNat 64 (k * periodNs s)) ∧
        t.tick.inReserve = false ∧ t.tick.subI = 0 ∧ t.tick.firstEdge = false ∧ t.tick.running = true ∧
        cntGet t 0x10088 = satCount (cntGet s 0x10088) (k - s.tick.nextK) ∧ regGet t 0x4000 = regGet s 0x4000) ∧
    (∀ limit, (s.bstate = .run ∨ s.bstate = .service) → holdDue s = false → s.tick.agePending = some limit →
      ∃ t, exec (.mainTickEdge fails) s = .next t ∧ t.tick.agePending = none ∧ ageLimit t = limit.toNat) ∧
    (holdDue s = true → s.rel.atEdge = false →
      ∃ t, exec (.mainTickEdge fails) s = .next t ∧ t.bstate = .hold ∧ t.tick.running = false ∧ t.tick.tickn = n ∧
        t.svc.acts = [] ∧ t.tick.pend = none ∧ t.pub.n = n ∧ t.pub.writing = false ∧
        cntGet t 0x10088 = satCount (cntGet s 0x10088) (k - s.tick.nextK)) ∧
    (s.bstate = .verify → runReady s = true → settLost s = false → s.rel.tag ≠ 0 → s.tick.pend = none →
      ∃ t, exec (.mainTickEdge fails) s = .next t ∧ (t.bstate = .run ∨ t.bstate = .service) ∧ t.rel.phase = 4 ∧
        t.rel.srcForce = s.rel.img.src ∧ t.rel.genForce = s.rel.img.gen ∧ (s.rel.tag, 0) ∈ t.mbx.cpl ∧ t.tick.tickn = n)

/-- R46, R47, R58, R59. That of several sub-tick edges that KTB has passed only the latest is raised, and those passed over are not
counted, is the model's choice (notes/assumptions/46.md). -/
def Obligations.ReservesAndSubticks : Prop :=
  ∀ (s : State) (e : W64), s.tick.edgeAt = some e → s.tick.running = true →
    (s.tick.inReserve = false → e.toNat + windowNs s.tick.units s.tick.reserve ≤ (ktb s).toNat →
      ∃ t, exec .publishReserveStart s = .next t ∧ t.tick = { s.tick with inReserve := true } ∧
        (freezeOn s = false → ∀ n, n < 64 → isFox s n = false → (engGet t n).scan = [] ∧
          (engGet t n).ctxOpen = (engGet s n).ctxOpen ∧
          cntGet t (0x10108 + n / 8 * 0x40 + 4 * (n % 8)) =
            satCount (cntGet s (0x10108 + n / 8 * 0x40 + 4 * (n % 8))) (b2n (overruns s n)))) ∧
    (isFastloop s = true → s.tick.subtick ≠ 0 → s.tick.subI < subReached s e → s.tick.subReserve = true →
      ∀ fails, ∃ t, exec (.foxSubtickEdge fails) s = .next t ∧
        t.tick = { s.tick with subI := subReached s e, subReserve := false, cycSub := 0 } ∧ t.bstate = s.bstate ∧
        t.sett = s.sett) ∧
    (isFastloop s = true → s.tick.subtick ≠ 0 → s.tick.subReserve = false →
      e.toNat + s.tick.subI * (s.tick.subtick * 250) + windowNs s.tick.subtick s.tick.reserve ≤ (ktb s).toNat →
      ∃ t, exec .foxSubtickReserve s = .next t ∧ t.tick = { s.tick with subReserve := true } ∧
        (freezeOn s = false → ∀ n, (56 ≤ n → n < 64 → (engGet t n).scan = []) ∧
          (n < 56 → (engGet t n).scan = (engGet s n).scan)) ∧
        (freezeOn s = false → let ovr := (foxEngines s).filter (overruns s)
          cntGet t 0x102F0 = satCount (cntGet s 0x102F0) ovr.length ∧
          cntGet t 0x102C0 = satCount (cntGet s 0x102C0) (b2n (!ovr.isEmpty))))

/-- R417 to R423. -/
def Obligations.ReleaseProceeds : Prop :=
  ∀ s : State, badgerDead s = false →
    (∀ img, s.rel.next = some img →
      ((s.bstate = .run ∨ s.bstate = .service) →
        exec .releasePrecheckPass s = .next { s with rel := { s.rel with atEdge := true } }) ∧
      ((s.bstate = .awaitImage ∨ s.bstate = .hold) →
        ∃ t, exec .releasePrecheckPass s = .next t ∧ t.bstate = .verify ∧ t.rel.img = img ∧ t.rel.next = none ∧
          (t.rel.phase = 2 ∨ t.rel.phase = 3) ∧ t.rel.copied = 0 ∧ t.svc.profile = img.profile ∧ t.tick.units = img.period ∧
          t.tick.subtick = img.subtick ∧ t.tick.running = true ∧ t.tick.firstEdge = true)) ∧
    (∀ bytes tcrc p rest k bs want, s.bstate = .verify → s.rel.phase = 2 → settLost s = false → planAt s = p :: rest →
      stepTile p = some k → tileSource s k bytes tcrc = some (bs, want) →
      (bs.length = 64 → crc32c bs = want → (∀ i o, p = .ctx i 0 o → ctlXown (bytesWord bs 0x14) = false) →
        ∃ t, exec (.releaseTileCopy bytes tcrc) s = .next t ∧ t.bstate = .verify ∧ t.rel.copied = s.rel.copied + 1 ∧
          s.rel.step < t.rel.step ∧ tblGet 0 k t.rel.crcs = want ∧
          (∀ n a o, p = .eng n a o → n < 64 → a < 0x20000 → a % 64 = 0 →
            (s.rel.img.profile ≠ 1 → memBytes (engGet t n).imem a 64 = bs) ∧
            (s.rel.img.profile = 1 → n % 2 = 0 → memBytes (engGet t n).imem a 64 = bs ∧
              memBytes (engGet t (n + 1)).imem a 64 = bs))) ∧
      (crc32c bs ≠ want → ∃ t, exec (.releaseTileCopy bytes tcrc) s = .next t ∧ t.bstate = .hold ∧ t.rel.fcause = 2 ∧
        t.rel.failtile = k ∧ t.rel.phase = 5 ∧ t.tick.running = false)) ∧
    (∀ bytes tcrc p rest k, s.bstate = .verify → s.rel.phase = 2 → settLost s = false → planAt s = p :: rest →
      stepTile p = some k → tileSource s k bytes tcrc = none →
      ∃ t, exec (.releaseTileCopy bytes tcrc) s = .next t ∧ t.bstate = .hold ∧ t.rel.fcause = 2 ∧ t.rel.failtile = k) ∧
    (s.bstate = .verify → s.rel.phase = 3 → s.rel.readback = false → settLost s = false →
      (∀ z, readAll (copyPlan s.rel.img) s = (none, z) → bodyCrc z = z.rel.img.bcrc →
        exec .releaseReadbackDone s = .next { z with rel := { z.rel with readback := true } }) ∧
      (∀ z, readAll (copyPlan s.rel.img) s = (none, z) → bodyCrc z ≠ z.rel.img.bcrc →
        ∃ t, exec .releaseReadbackDone s = .next t ∧ t.bstate = .hold ∧ t.rel.fcause = 3) ∧
      (∀ z k, readAll (copyPlan s.rel.img) s = (some k, z) →
        ∃ t, exec .releaseReadbackDone s = .next t ∧ t.bstate = .hold ∧ t.rel.fcause = 5 ∧ t.rel.failtile = k))

/-- R315, R316, R320, R322, R324, R325, R327, R447. That an instance that is ahead waits for the end of the pass is the model's choice
(notes/assumptions/42.md), and so is the form in which State holds the check words (notes/assumptions/55.md). -/
def Obligations.ScrubRepairAndRebuild : Prop :=
  ∀ s : State, badgerDead s = false →
    (∀ cls inst tile, tileBad s cls inst tile = true ↔ tileCheckWord s cls inst tile ≠ crc32c (tileBytes s cls inst tile)) ∧
    (∀ cls inst, let tile := scrubPos s cls inst
      bitAt (regGet s 0xA000) 0 = true → tile < scrubTiles s cls inst → cls ≠ 2 →
      tileBad s cls inst tile = false →
      let last := scrubInsts.all (fun q => decide (scrubTiles s q.1 q.2 ≤ scrubPos s q.1 q.2 + b2n (q == (cls, inst))))
      ∃ t, exec (.scrubTileRead cls inst tile false) s = .next t ∧ t.mem = { s.mem with scrub := t.mem.scrub } ∧
        t = { s with mem := t.mem, cnt := t.cnt } ∧
        (last = false → t.cnt = s.cnt ∧ scrubPos t cls inst = tile + 1) ∧
        (last = true → t.mem.scrub = [] ∧ cntGet t 0xA040 = satCount (cntGet s 0xA040) 1)) ∧
    (∀ cls inst, let tile := scrubPos s cls inst
      bitAt (regGet s 0xA000) 0 = true → tile < scrubTiles s cls inst →
      cls < 2 → ∃ t, exec (.scrubTileRead cls inst tile true) s = .next t ∧ tileBad t cls inst tile = true ∧
        t.mem.lastadr = BitVec.ofNat 32 (tileKey cls inst tile) ∧ t.store = s.store ∧
        cntGet t (0xA010 + 4 * cls) = satCount (cntGet s (0xA010 + 4 * cls)) 1) ∧
    (∀ n, n < 64 → let tile := (engGet s n).suspadr.toNat / 64
      tile < scrubTiles s 0 n →
      (tileBad s 0 n tile = false → exec (.suspectTileRead n false) s = .next s) ∧
      (∃ t, exec (.suspectTileRead n true) s = .next t ∧ tileBad t 0 n tile = true ∧
        t.mem.lastadr = BitVec.ofNat 32 (tileKey 0 n tile) ∧ cntGet t 0xA010 = satCount (cntGet s 0xA010) 1)) ∧
    (∀ inst tile bytes, inst < 64 → bitAt (regGet s 0xA000) 1 = true → tileBad s 0 inst tile = true → tile < 2 ^ 22 →
      (∀ bs, repairBytes s 0 inst tile bytes = some bs → ∃ t, exec (.tileRepair 0 inst tile bytes false) s = .next t ∧
        memBytes (engGet t inst).imem (64 * tile) 64 = bs ∧ tileBad t 0 inst tile = false ∧
        (∀ a, a < 64 * tile ∨ 64 * tile + 64 ≤ a → memGet (engGet t inst).imem a = memGet (engGet s inst).imem a) ∧
        (∀ m, m ≠ inst → engGet t m = engGet s m) ∧ cntGet t 0xA034 = satCount (cntGet s 0xA034) 1) ∧
      (∀ refBad, (refBad = true ∨ repairBytes s 0 inst tile bytes = none) →
        ∃ t, exec (.tileRepair 0 inst tile bytes refBad) s = .next t ∧ tileBad t 0 inst tile = true ∧
          (engGet t inst).imem = (engGet s inst).imem ∧ t.store = s.store ∧
          cntGet t 0xA038 = satCount (cntGet s 0xA038) 1)) ∧
    (∀ i tile bytes refBad, sliceGone s (homeOf i) = true → exec (.tileRebuild i tile bytes refBad) s = .next s) ∧
    (∀ i tile bytes refBad, i < 2 ^ 17 → tile < 2 → bitAt (regGet s 0xA000) 2 = true → domStat s (64 + homeOf i) = 1 →
      sliceGone s (homeOf i) = false →
      tileBad s 2 (homeOf i) (2 * (i % 2 ^ 14) + tile) = true →
      ∃ t, exec (.tileRebuild i tile bytes refBad) s = .next t ∧ tileBad t 2 (homeOf i) (2 * (i % 2 ^ 14) + tile) = false ∧
        cntGet t 0xA03C = satCount (cntGet s 0xA03C) 1 ∧ (∀ n, (engGet t n).imem = (engGet s n).imem) ∧
        (∀ j, j ≠ i → (mirroring s = true → j ≠ mirrorOf i) → recGet t j = recGet s j) ∧
        (mirroring s = false → (refBad = true ∨ repairBytes s 2 (homeOf i) (2 * (i % 2 ^ 14) + tile) bytes = none) → tile = 0 →
          ctlGet t i = ctlGet s i ∧ recCtl (recGet t i) = ctlGet s i ∧ recValue (recGet t i) = 0))

/-- R312, R315, R439, R447, R451, R496, R497. -/
def Obligations.ServiceEndsAndTrace : Prop :=
  ∀ s : State, badgerDead s = false →
    (∀ c, s.tick.pend = some c → c.profile = some 2 → c.fillOk = false → ∃ t, exec .mirrorFillDone s = .next t ∧
      t.tick = { s.tick with pend := some { c with fillOk := true } } ∧
      (∀ n, (engGet t n).g = (engGet s n).g ∧ (engGet t n).imem = (engGet s n).imem ∧ (engGet t n).dmem = (engGet s n).dmem) ∧
      ∀ i, homeOf i % 2 = 0 → recGet t i = recGet s i) ∧
    (∀ p e m tiles, e < 64 → restoreInHand s (cluOf e) = some p → p.act = .restore e false m false → p.tag ≠ 0 → isPaired s = false →
      restoreInHand (svcActs s (s.svc.acts.erase p)) (cluOf e) = none → (trcGet s (cluOf e)).fifo = [] →
      (∃ t, exec (.restoreDone e false tiles) s = .next t ∧ (svcEng t e).st = 4 ∧ domStat t e = 0 ∧ (p.tag, 0x19) ∈ t.mbx.cpl ∧
        t.svc.acts = s.svc.acts.erase p) ∧
      (∀ z, restoreLoad tiles [e] (svcActs s (s.svc.acts.erase p)) = (false, z) →
        ∃ t, exec (.restoreDone e true tiles) s = .next t ∧ (svcEng t e).st = 4 ∧ domStat t e = 0 ∧ (p.tag, 0xB) ∈ t.mbx.cpl ∧
          t.svc.acts = s.svc.acts.erase p) ∧
      (∀ z, restoreLoad tiles [e] (svcActs s (s.svc.acts.erase p)) = (true, z) →
        ∃ t, exec (.restoreDone e true tiles) s = .next t ∧ (svcEng t e).st = 2 ∧ (p.tag, 0) ∈ t.mbx.cpl ∧
          t.svc.acts = s.svc.acts.erase p ∧ (engGet t e).imem = (engGet z e).imem)) ∧
    (∀ k, k < 8 → (s.bstate = .run ∨ s.bstate = .service) → cluMir s k ≠ 3 → cluRetPending s k = false → domStat s (64 + k) = 1 →
      ∃ t, exec (.clusterFailDetect k) s = .next t ∧ t.bstate = .service ∧
        t.svc.acts = s.svc.acts ++ [{ tag := 0, act := .retireCluster k false true }] ∧
        cntGet t 0x40230 = satCount (cntGet s 0x40230) 1) ∧
    (∀ p mask blocks, s.svc.acts.find? (fun q => match q.act with | .loadUbank _ _ => true | _ => false) = some p →
      p.act = .loadUbank mask blocks → p.tag ≠ 0 → ∃ t, exec .loadUbankDone s = .next t ∧ (p.tag, 0) ∈ t.mbx.cpl ∧
        t.svc.acts = s.svc.acts.erase p ∧
        ∀ n, (engGet t n).inact = if n ∈ maskList mask ∧ (engGet s n).inact = 1 then 2 else (engGet s n).inact) ∧
    (∀ k r rest, k < 8 → domStat s (64 + k) = 1 → (trcGet s k).fifo = r :: rest → (trcGet s k).lost = 0 →
      (trcGet s k).syncDue = false → (∀ n, n ∈ s.svc.offWait → cluOf n ≠ k) →
      (sinkFree s k = true → bitAt (trcCtl s k) 1 = false → ∃ t, exec (.traceRecordDrain k false) s = .next t ∧
        trcGet t k = { trcGet s k with
          fifo := rest, buf := tblSet 0 (trcGet s k).wptr r (trcGet s k).buf, wptr := ((trcGet s k).wptr + 1) % 8192,
          full := (trcGet s k).wptr == 8191 && !bitAt (trcCtl s k) 2 } ∧
        (∀ j, j ≠ k → trcGet t j = trcGet s j) ∧ t.mem = s.mem ∧
        cntGet t (trcAdr k 0xC) = satCount (cntGet s (trcAdr k 0xC)) 1) ∧
      (sinkFree s k = true → bitAt (trcCtl s k) 1 = true →
        let a := 2 ^ 64 * k + ((regGet64 s (trcAdr k 0x18)).toNat + (trcGet s k).dwptr)
        ∃ t, exec (.traceRecordDrain k false) s = .next t ∧ (trcGet t k).fifo = rest ∧
          memBytes t.mem.dram a 16 = leBytes 16 r.toNat ∧
          (∀ b, b < a ∨ a + 16 ≤ b → memGet t.mem.dram b = memGet s.mem.dram b)) ∧
      (∃ t, exec (.traceRecordDrain k true) s = .next t ∧ (trcGet t k).buf = (trcGet s k).buf ∧ t.mem.dram = s.mem.dram ∧
        cntGet t (trcAdr k 0x10) = satCount (cntGet s (trcAdr k 0x10)) 1))
end

