-- ==== Sys2Proof/Laws/Table.lean ====
section
/-! SUPPORT. The laws of sparse tables and byte memories: a read after a write, independence of other keys, and the canonical
form that every operation keeps. -/

namespace Sys2Proof.Machine

section
variable {α : Type}

theorem tblGet_tblDel (d : α) (k j : Nat) (t : Tbl α) : tblGet d j (tblDel k t) = if j = k then d else tblGet d j t := by
  induction t with
  | nil => simp [tblDel, tblGet]
  | cons q t ih =>
    obtain ⟨a, x⟩ := q
    by_cases hk : a = k
    · subst hk
      by_cases hj : j = a
      · subst hj; simpa [tblDel] using ih
      · simp [tblDel, tblGet, ih, hj, Ne.symm hj]
    · by_cases hj : j = k
      · subst hj; simp [tblDel, tblGet, hk, ih]
      · simp [tblDel, tblGet, hk, ih, hj]

theorem tblGet_tblIns_self (d : α) (k : Nat) (v : α) (t : Tbl α) (h : ∀ q ∈ t, q.1 ≠ k) :
    tblGet d k (tblIns k v t) = v := by
  induction t with
  | nil => simp [tblIns, tblGet]
  | cons q t ih =>
    obtain ⟨a, x⟩ := q
    have ha : a ≠ k := h (a, x) (by simp)
    simp only [tblIns]
    split
    · simp [tblGet]
    · simp [tblGet, ha, ih (fun q hq => h q (by simp [hq]))]

theorem tblGet_tblIns_other (d : α) {k j : Nat} (hj : j ≠ k) (v : α) (t : Tbl α) :
    tblGet d j (tblIns k v t) = tblGet d j t := by
  induction t with
  | nil => simp [tblIns, tblGet, Ne.symm hj]
  | cons q t ih =>
    obtain ⟨a, x⟩ := q
    simp only [tblIns]
    split
    · simp [tblGet, Ne.symm hj]
    · simp [tblGet, ih]

theorem tblDel_fresh (k : Nat) (t : Tbl α) : ∀ q ∈ tblDel k t, q.1 ≠ k := by
  induction t with
  | nil => simp [tblDel]
  | cons q t ih =>
    obtain ⟨a, x⟩ := q
    by_cases hk : a = k
    · simpa [tblDel, hk] using ih
    · intro q hq
      simp only [tblDel, hk, if_false, List.mem_cons] at hq
      rcases hq with rfl | hq
      · exact hk
      · exact ih q hq

theorem tblDel_tblDel (k : Nat) (t : Tbl α) : tblDel k (tblDel k t) = tblDel k t := by
  induction t with
  | nil => rfl
  | cons q t ih =>
    obtain ⟨a, x⟩ := q
    by_cases hk : a = k <;> simp [tblDel, hk, ih]

theorem tblDel_tblIns (k : Nat) (v : α) (t : Tbl α) : tblDel k (tblIns k v t) = tblDel k t := by
  induction t with
  | nil => simp [tblIns, tblDel]
  | cons q t ih =>
    obtain ⟨a, x⟩ := q
    simp only [tblIns]
    split
    · simp [tblDel]
    · by_cases hk : a = k <;> simp [tblDel, hk, ih]

variable [DecidableEq α]

/-- A read after a write of the same entry gives what was written. -/
@[simp] theorem tblGet_tblSet_self (d : α) (k : Nat) (v : α) (t : Tbl α) : tblGet d k (tblSet d k v t) = v := by
  unfold tblSet
  split
  · rename_i h; simp [tblGet_tblDel, h]
  · exact tblGet_tblIns_self d k v _ (tblDel_fresh k t)

/-- A write leaves every other entry alone. -/
theorem tblGet_tblSet_other (d : α) {k j : Nat} (hj : j ≠ k) (v : α) (t : Tbl α) :
    tblGet d j (tblSet d k v t) = tblGet d j t := by
  unfold tblSet
  split
  · simp [tblGet_tblDel, hj]
  · simp [tblGet_tblIns_other d hj, tblGet_tblDel, hj]

/-- The later of two writes of one entry stands alone. -/
@[simp] theorem tblSet_tblSet (d : α) (k : Nat) (v w : α) (t : Tbl α) : tblSet d k v (tblSet d k w t) = tblSet d k v t := by
  unfold tblSet
  split <;> split <;> simp [tblDel_tblIns, tblDel_tblDel]

theorem tblWfFrom_mono (d : α) {lo hi : Nat} (h : lo ≤ hi) (t : Tbl α) (ht : tblWfFrom d hi t = true) :
    tblWfFrom d lo t = true := by
  cases t with
  | nil => rfl
  | cons q t =>
    obtain ⟨a, x⟩ := q
    simp only [tblWfFrom, Bool.and_eq_true, decide_eq_true_eq] at ht ⊢
    exact ⟨⟨by omega, ht.1.2⟩, ht.2⟩

theorem tblDel_wfFrom (d : α) (k lo : Nat) (t : Tbl α) (h : tblWfFrom d lo t = true) : tblWfFrom d lo (tblDel k t) = true := by
  induction t generalizing lo with
  | nil => rfl
  | cons q t ih =>
    obtain ⟨a, x⟩ := q
    simp only [tblWfFrom, Bool.and_eq_true, decide_eq_true_eq] at h
    by_cases hk : a = k
    · simp only [tblDel, hk, if_true]
      exact tblWfFrom_mono d (by omega) _ (ih (a + 1) h.2)
    · simp only [tblDel, hk, if_false, tblWfFrom, Bool.and_eq_true, decide_eq_true_eq]
      exact ⟨h.1, ih (a + 1) h.2⟩

theorem tblIns_wfFrom (d : α) {k : Nat} {v : α} (hv : v ≠ d) (lo : Nat) (hlo : lo ≤ k) (t : Tbl α)
    (h : tblWfFrom d lo t = true) (hk : ∀ q ∈ t, q.1 ≠ k) : tblWfFrom d lo (tblIns k v t) = true := by
  induction t generalizing lo with
  | nil => simp [tblIns, tblWfFrom, hlo, hv]
  | cons q t ih =>
    obtain ⟨a, x⟩ := q
    have ha : a ≠ k := hk (a, x) (by simp)
    simp only [tblWfFrom, Bool.and_eq_true, decide_eq_true_eq] at h
    simp only [tblIns]
    split
    · simp only [tblWfFrom, Bool.and_eq_true, decide_eq_true_eq]
      exact ⟨⟨hlo, by simp [hv]⟩, ⟨by omega, h.1.2⟩, h.2⟩
    · simp only [tblWfFrom, Bool.and_eq_true, decide_eq_true_eq]
      exact ⟨h.1, ih (a + 1) (by omega) h.2 (fun q hq => hk q (by simp [hq]))⟩

/-- A write keeps the canonical form. -/
theorem tblSet_wf (d : α) (k : Nat) (v : α) (t : Tbl α) (h : tblWf d t = true) : tblWf d (tblSet d k v t) = true := by
  unfold tblSet tblWf at *
  split
  · exact tblDel_wfFrom d k 0 t h
  · rename_i hv
    exact tblIns_wfFrom d hv 0 (Nat.zero_le k) _ (tblDel_wfFrom d k 0 t h) (tblDel_fresh k t)

/-- Dropping entries keeps the canonical form. -/
theorem tblFilter_wfFrom (d : α) (p : Nat × α → Bool) (lo : Nat) (t : Tbl α) (h : tblWfFrom d lo t = true) :
    tblWfFrom d lo (t.filter p) = true := by
  induction t generalizing lo with
  | nil => rfl
  | cons q t ih =>
    obtain ⟨a, x⟩ := q
    simp only [tblWfFrom, Bool.and_eq_true, decide_eq_true_eq] at h
    simp only [List.filter]
    split
    · simp only [tblWfFrom, Bool.and_eq_true, decide_eq_true_eq]
      exact ⟨h.1, ih (a + 1) h.2⟩
    · exact tblWfFrom_mono d (by omega) _ (ih (a + 1) h.2)

end

/-! Byte memories. -/

/-- A byte read where it was written. -/
@[simp] theorem memGet_memSet_self (m : Memory) (a : Nat) (b : Byte) : memGet (memSet m a b) a = b := tblGet_tblSet_self 0 a b m

/-- A byte write leaves every other byte alone. -/
theorem memGet_memSet_other (m : Memory) {a c : Nat} (h : c ≠ a) (b : Byte) : memGet (memSet m a b) c = memGet m c :=
  tblGet_tblSet_other 0 h b m

/-- A byte write keeps the canonical form. -/
theorem memSet_wf (m : Memory) (a : Nat) (b : Byte) (h : Memory.wf m = true) : Memory.wf (memSet m a b) = true :=
  tblSet_wf 0 a b m h

/-- A write of a byte string keeps the canonical form. -/
theorem memPut_wf (m : Memory) (a : Nat) (bs : List Byte) (h : Memory.wf m = true) : Memory.wf (memPut m a bs) = true := by
  induction bs generalizing m a with
  | nil => exact h
  | cons b bs ih => exact ih _ _ (memSet_wf m a b h)

/-- A write of a byte string leaves every byte outside it alone. -/
theorem memGet_memPut_outside (m : Memory) (a : Nat) (bs : List Byte) (c : Nat) (h : c < a ∨ a + bs.length ≤ c) :
    memGet (memPut m a bs) c = memGet m c := by
  induction bs generalizing m a with
  | nil => rfl
  | cons b bs ih =>
    simp only [List.length_cons] at h
    rw [memPut, ih _ _ (by omega), memGet_memSet_other _ (by omega)]

/-- A byte string read back where it was written. -/
theorem memGet_memPut_inside (m : Memory) (a : Nat) (bs : List Byte) (i : Nat) (h : i < bs.length) :
    memGet (memPut m a bs) (a + i) = bs[i] := by
  induction bs generalizing m a i with
  | nil => simp at h
  | cons b bs ih =>
    cases i with
    | zero => simp [memPut, memGet_memPut_outside (memSet m a b) (a + 1) bs a (Or.inl (by omega))]
    | succ i =>
      have := ih (memSet m a b) (a + 1) i (by simpa using h)
      simpa [memPut, Nat.add_assoc, Nat.add_comm 1 i] using this

end Sys2Proof.Machine
end

