-- ==== Sys2Proof/Laws/State.lean ====
section
/-! SUPPORT. One lemma per field of State for each of the single-component updates: what an update leaves alone, and what a
read gives after it. -/

namespace Sys2Proof.Machine

variable (s : State)

/-! engSet. -/
@[simp] theorem engSet_bstate (n : Nat) (e : Engine) : (engSet s n e).bstate = s.bstate := rfl
@[simp] theorem engSet_hreg (n : Nat) (e : Engine) : (engSet s n e).hreg = s.hreg := rfl
@[simp] theorem engSet_cnt (n : Nat) (e : Engine) : (engSet s n e).cnt = s.cnt := rfl
@[simp] theorem engSet_heldLow (n : Nat) (e : Engine) : (engSet s n e).heldLow = s.heldLow := rfl
@[simp] theorem engSet_capHigh (n : Nat) (e : Engine) : (engSet s n e).capHigh = s.capHigh := rfl
@[simp] theorem engSet_hostRd (n : Nat) (e : Engine) : (engSet s n e).hostRd = s.hostRd := rfl
@[simp] theorem engSet_tick (n : Nat) (e : Engine) : (engSet s n e).tick = s.tick := rfl
@[simp] theorem engSet_cells (n : Nat) (e : Engine) : (engSet s n e).cells = s.cells := rfl
@[simp] theorem engSet_store (n : Nat) (e : Engine) : (engSet s n e).store = s.store := rfl
@[simp] theorem engSet_pub (n : Nat) (e : Engine) : (engSet s n e).pub = s.pub := rfl
@[simp] theorem engSet_chain (n : Nat) (e : Engine) : (engSet s n e).chain = s.chain := rfl
@[simp] theorem engSet_hub (n : Nat) (e : Engine) : (engSet s n e).hub = s.hub := rfl
@[simp] theorem engSet_field (n : Nat) (e : Engine) : (engSet s n e).field = s.field := rfl
@[simp] theorem engSet_sett (n : Nat) (e : Engine) : (engSet s n e).sett = s.sett := rfl
@[simp] theorem engSet_bat (n : Nat) (e : Engine) : (engSet s n e).bat = s.bat := rfl
@[simp] theorem engSet_rel (n : Nat) (e : Engine) : (engSet s n e).rel = s.rel := rfl
@[simp] theorem engSet_svc (n : Nat) (e : Engine) : (engSet s n e).svc = s.svc := rfl
@[simp] theorem engSet_trc (n : Nat) (e : Engine) : (engSet s n e).trc = s.trc := rfl
@[simp] theorem engSet_mbx (n : Nat) (e : Engine) : (engSet s n e).mbx = s.mbx := rfl
@[simp] theorem engSet_io (n : Nat) (e : Engine) : (engSet s n e).io = s.io := rfl
@[simp] theorem engSet_mem (n : Nat) (e : Engine) : (engSet s n e).mem = s.mem := rfl
@[simp] theorem engSet_free (n : Nat) (e : Engine) : (engSet s n e).free = s.free := rfl
@[simp] theorem engSet_pending (n : Nat) (e : Engine) : (engSet s n e).pending = s.pending := rfl

/-! engMap. -/
@[simp] theorem engMap_bstate (n : Nat) (f : Engine → Engine) : (engMap s n f).bstate = s.bstate := rfl
@[simp] theorem engMap_hreg (n : Nat) (f : Engine → Engine) : (engMap s n f).hreg = s.hreg := rfl
@[simp] theorem engMap_cnt (n : Nat) (f : Engine → Engine) : (engMap s n f).cnt = s.cnt := rfl
@[simp] theorem engMap_heldLow (n : Nat) (f : Engine → Engine) : (engMap s n f).heldLow = s.heldLow := rfl
@[simp] theorem engMap_capHigh (n : Nat) (f : Engine → Engine) : (engMap s n f).capHigh = s.capHigh := rfl
@[simp] theorem engMap_hostRd (n : Nat) (f : Engine → Engine) : (engMap s n f).hostRd = s.hostRd := rfl
@[simp] theorem engMap_tick (n : Nat) (f : Engine → Engine) : (engMap s n f).tick = s.tick := rfl
@[simp] theorem engMap_cells (n : Nat) (f : Engine → Engine) : (engMap s n f).cells = s.cells := rfl
@[simp] theorem engMap_store (n : Nat) (f : Engine → Engine) : (engMap s n f).store = s.store := rfl
@[simp] theorem engMap_pub (n : Nat) (f : Engine → Engine) : (engMap s n f).pub = s.pub := rfl
@[simp] theorem engMap_chain (n : Nat) (f : Engine → Engine) : (engMap s n f).chain = s.chain := rfl
@[simp] theorem engMap_hub (n : Nat) (f : Engine → Engine) : (engMap s n f).hub = s.hub := rfl
@[simp] theorem engMap_field (n : Nat) (f : Engine → Engine) : (engMap s n f).field = s.field := rfl
@[simp] theorem engMap_sett (n : Nat) (f : Engine → Engine) : (engMap s n f).sett = s.sett := rfl
@[simp] theorem engMap_bat (n : Nat) (f : Engine → Engine) : (engMap s n f).bat = s.bat := rfl
@[simp] theorem engMap_rel (n : Nat) (f : Engine → Engine) : (engMap s n f).rel = s.rel := rfl
@[simp] theorem engMap_svc (n : Nat) (f : Engine → Engine) : (engMap s n f).svc = s.svc := rfl
@[simp] theorem engMap_trc (n : Nat) (f : Engine → Engine) : (engMap s n f).trc = s.trc := rfl
@[simp] theorem engMap_mbx (n : Nat) (f : Engine → Engine) : (engMap s n f).mbx = s.mbx := rfl
@[simp] theorem engMap_io (n : Nat) (f : Engine → Engine) : (engMap s n f).io = s.io := rfl
@[simp] theorem engMap_mem (n : Nat) (f : Engine → Engine) : (engMap s n f).mem = s.mem := rfl
@[simp] theorem engMap_free (n : Nat) (f : Engine → Engine) : (engMap s n f).free = s.free := rfl
@[simp] theorem engMap_pending (n : Nat) (f : Engine → Engine) : (engMap s n f).pending = s.pending := rfl

/-! cntAdd. -/
@[simp] theorem cntAdd_bstate (a k : Nat) : (cntAdd s a k).bstate = s.bstate := rfl
@[simp] theorem cntAdd_hreg (a k : Nat) : (cntAdd s a k).hreg = s.hreg := rfl
@[simp] theorem cntAdd_heldLow (a k : Nat) : (cntAdd s a k).heldLow = s.heldLow := rfl
@[simp] theorem cntAdd_capHigh (a k : Nat) : (cntAdd s a k).capHigh = s.capHigh := rfl
@[simp] theorem cntAdd_hostRd (a k : Nat) : (cntAdd s a k).hostRd = s.hostRd := rfl
@[simp] theorem cntAdd_tick (a k : Nat) : (cntAdd s a k).tick = s.tick := rfl
@[simp] theorem cntAdd_eng (a k : Nat) : (cntAdd s a k).eng = s.eng := rfl
@[simp] theorem cntAdd_cells (a k : Nat) : (cntAdd s a k).cells = s.cells := rfl
@[simp] theorem cntAdd_store (a k : Nat) : (cntAdd s a k).store = s.store := rfl
@[simp] theorem cntAdd_pub (a k : Nat) : (cntAdd s a k).pub = s.pub := rfl
@[simp] theorem cntAdd_chain (a k : Nat) : (cntAdd s a k).chain = s.chain := rfl
@[simp] theorem cntAdd_hub (a k : Nat) : (cntAdd s a k).hub = s.hub := rfl
@[simp] theorem cntAdd_field (a k : Nat) : (cntAdd s a k).field = s.field := rfl
@[simp] theorem cntAdd_sett (a k : Nat) : (cntAdd s a k).sett = s.sett := rfl
@[simp] theorem cntAdd_bat (a k : Nat) : (cntAdd s a k).bat = s.bat := rfl
@[simp] theorem cntAdd_rel (a k : Nat) : (cntAdd s a k).rel = s.rel := rfl
@[simp] theorem cntAdd_svc (a k : Nat) : (cntAdd s a k).svc = s.svc := rfl
@[simp] theorem cntAdd_trc (a k : Nat) : (cntAdd s a k).trc = s.trc := rfl
@[simp] theorem cntAdd_mbx (a k : Nat) : (cntAdd s a k).mbx = s.mbx := rfl
@[simp] theorem cntAdd_io (a k : Nat) : (cntAdd s a k).io = s.io := rfl
@[simp] theorem cntAdd_mem (a k : Nat) : (cntAdd s a k).mem = s.mem := rfl
@[simp] theorem cntAdd_free (a k : Nat) : (cntAdd s a k).free = s.free := rfl
@[simp] theorem cntAdd_pending (a k : Nat) : (cntAdd s a k).pending = s.pending := rfl

/-! cntPut. -/
@[simp] theorem cntPut_bstate (a : Nat) (v : Word) : (cntPut s a v).bstate = s.bstate := rfl
@[simp] theorem cntPut_hreg (a : Nat) (v : Word) : (cntPut s a v).hreg = s.hreg := rfl
@[simp] theorem cntPut_heldLow (a : Nat) (v : Word) : (cntPut s a v).heldLow = s.heldLow := rfl
@[simp] theorem cntPut_capHigh (a : Nat) (v : Word) : (cntPut s a v).capHigh = s.capHigh := rfl
@[simp] theorem cntPut_hostRd (a : Nat) (v : Word) : (cntPut s a v).hostRd = s.hostRd := rfl
@[simp] theorem cntPut_tick (a : Nat) (v : Word) : (cntPut s a v).tick = s.tick := rfl
@[simp] theorem cntPut_eng (a : Nat) (v : Word) : (cntPut s a v).eng = s.eng := rfl
@[simp] theorem cntPut_cells (a : Nat) (v : Word) : (cntPut s a v).cells = s.cells := rfl
@[simp] theorem cntPut_store (a : Nat) (v : Word) : (cntPut s a v).store = s.store := rfl
@[simp] theorem cntPut_pub (a : Nat) (v : Word) : (cntPut s a v).pub = s.pub := rfl
@[simp] theorem cntPut_chain (a : Nat) (v : Word) : (cntPut s a v).chain = s.chain := rfl
@[simp] theorem cntPut_hub (a : Nat) (v : Word) : (cntPut s a v).hub = s.hub := rfl
@[simp] theorem cntPut_field (a : Nat) (v : Word) : (cntPut s a v).field = s.field := rfl
@[simp] theorem cntPut_sett (a : Nat) (v : Word) : (cntPut s a v).sett = s.sett := rfl
@[simp] theorem cntPut_bat (a : Nat) (v : Word) : (cntPut s a v).bat = s.bat := rfl
@[simp] theorem cntPut_rel (a : Nat) (v : Word) : (cntPut s a v).rel = s.rel := rfl
@[simp] theorem cntPut_svc (a : Nat) (v : Word) : (cntPut s a v).svc = s.svc := rfl
@[simp] theorem cntPut_trc (a : Nat) (v : Word) : (cntPut s a v).trc = s.trc := rfl
@[simp] theorem cntPut_mbx (a : Nat) (v : Word) : (cntPut s a v).mbx = s.mbx := rfl
@[simp] theorem cntPut_io (a : Nat) (v : Word) : (cntPut s a v).io = s.io := rfl
@[simp] theorem cntPut_mem (a : Nat) (v : Word) : (cntPut s a v).mem = s.mem := rfl
@[simp] theorem cntPut_free (a : Nat) (v : Word) : (cntPut s a v).free = s.free := rfl
@[simp] theorem cntPut_pending (a : Nat) (v : Word) : (cntPut s a v).pending = s.pending := rfl

/-! regPut. -/
@[simp] theorem regPut_bstate (a : Nat) (v : Word) : (regPut s a v).bstate = s.bstate := rfl
@[simp] theorem regPut_cnt (a : Nat) (v : Word) : (regPut s a v).cnt = s.cnt := rfl
@[simp] theorem regPut_heldLow (a : Nat) (v : Word) : (regPut s a v).heldLow = s.heldLow := rfl
@[simp] theorem regPut_capHigh (a : Nat) (v : Word) : (regPut s a v).capHigh = s.capHigh := rfl
@[simp] theorem regPut_hostRd (a : Nat) (v : Word) : (regPut s a v).hostRd = s.hostRd := rfl
@[simp] theorem regPut_tick (a : Nat) (v : Word) : (regPut s a v).tick = s.tick := rfl
@[simp] theorem regPut_eng (a : Nat) (v : Word) : (regPut s a v).eng = s.eng := rfl
@[simp] theorem regPut_cells (a : Nat) (v : Word) : (regPut s a v).cells = s.cells := rfl
@[simp] theorem regPut_store (a : Nat) (v : Word) : (regPut s a v).store = s.store := rfl
@[simp] theorem regPut_pub (a : Nat) (v : Word) : (regPut s a v).pub = s.pub := rfl
@[simp] theorem regPut_chain (a : Nat) (v : Word) : (regPut s a v).chain = s.chain := rfl
@[simp] theorem regPut_hub (a : Nat) (v : Word) : (regPut s a v).hub = s.hub := rfl
@[simp] theorem regPut_field (a : Nat) (v : Word) : (regPut s a v).field = s.field := rfl
@[simp] theorem regPut_sett (a : Nat) (v : Word) : (regPut s a v).sett = s.sett := rfl
@[simp] theorem regPut_bat (a : Nat) (v : Word) : (regPut s a v).bat = s.bat := rfl
@[simp] theorem regPut_rel (a : Nat) (v : Word) : (regPut s a v).rel = s.rel := rfl
@[simp] theorem regPut_svc (a : Nat) (v : Word) : (regPut s a v).svc = s.svc := rfl
@[simp] theorem regPut_trc (a : Nat) (v : Word) : (regPut s a v).trc = s.trc := rfl
@[simp] theorem regPut_mbx (a : Nat) (v : Word) : (regPut s a v).mbx = s.mbx := rfl
@[simp] theorem regPut_io (a : Nat) (v : Word) : (regPut s a v).io = s.io := rfl
@[simp] theorem regPut_mem (a : Nat) (v : Word) : (regPut s a v).mem = s.mem := rfl
@[simp] theorem regPut_free (a : Nat) (v : Word) : (regPut s a v).free = s.free := rfl
@[simp] theorem regPut_pending (a : Nat) (v : Word) : (regPut s a v).pending = s.pending := rfl

/-! svcEngMap. -/
@[simp] theorem svcEngMap_bstate (n : Nat) (f : SvcEng → SvcEng) : (svcEngMap s n f).bstate = s.bstate := rfl
@[simp] theorem svcEngMap_hreg (n : Nat) (f : SvcEng → SvcEng) : (svcEngMap s n f).hreg = s.hreg := rfl
@[simp] theorem svcEngMap_cnt (n : Nat) (f : SvcEng → SvcEng) : (svcEngMap s n f).cnt = s.cnt := rfl
@[simp] theorem svcEngMap_heldLow (n : Nat) (f : SvcEng → SvcEng) : (svcEngMap s n f).heldLow = s.heldLow := rfl
@[simp] theorem svcEngMap_capHigh (n : Nat) (f : SvcEng → SvcEng) : (svcEngMap s n f).capHigh = s.capHigh := rfl
@[simp] theorem svcEngMap_hostRd (n : Nat) (f : SvcEng → SvcEng) : (svcEngMap s n f).hostRd = s.hostRd := rfl
@[simp] theorem svcEngMap_tick (n : Nat) (f : SvcEng → SvcEng) : (svcEngMap s n f).tick = s.tick := rfl
@[simp] theorem svcEngMap_eng (n : Nat) (f : SvcEng → SvcEng) : (svcEngMap s n f).eng = s.eng := rfl
@[simp] theorem svcEngMap_cells (n : Nat) (f : SvcEng → SvcEng) : (svcEngMap s n f).cells = s.cells := rfl
@[simp] theorem svcEngMap_store (n : Nat) (f : SvcEng → SvcEng) : (svcEngMap s n f).store = s.store := rfl
@[simp] theorem svcEngMap_pub (n : Nat) (f : SvcEng → SvcEng) : (svcEngMap s n f).pub = s.pub := rfl
@[simp] theorem svcEngMap_chain (n : Nat) (f : SvcEng → SvcEng) : (svcEngMap s n f).chain = s.chain := rfl
@[simp] theorem svcEngMap_hub (n : Nat) (f : SvcEng → SvcEng) : (svcEngMap s n f).hub = s.hub := rfl
@[simp] theorem svcEngMap_field (n : Nat) (f : SvcEng → SvcEng) : (svcEngMap s n f).field = s.field := rfl
@[simp] theorem svcEngMap_sett (n : Nat) (f : SvcEng → SvcEng) : (svcEngMap s n f).sett = s.sett := rfl
@[simp] theorem svcEngMap_bat (n : Nat) (f : SvcEng → SvcEng) : (svcEngMap s n f).bat = s.bat := rfl
@[simp] theorem svcEngMap_rel (n : Nat) (f : SvcEng → SvcEng) : (svcEngMap s n f).rel = s.rel := rfl
@[simp] theorem svcEngMap_trc (n : Nat) (f : SvcEng → SvcEng) : (svcEngMap s n f).trc = s.trc := rfl
@[simp] theorem svcEngMap_mbx (n : Nat) (f : SvcEng → SvcEng) : (svcEngMap s n f).mbx = s.mbx := rfl
@[simp] theorem svcEngMap_io (n : Nat) (f : SvcEng → SvcEng) : (svcEngMap s n f).io = s.io := rfl
@[simp] theorem svcEngMap_mem (n : Nat) (f : SvcEng → SvcEng) : (svcEngMap s n f).mem = s.mem := rfl
@[simp] theorem svcEngMap_free (n : Nat) (f : SvcEng → SvcEng) : (svcEngMap s n f).free = s.free := rfl
@[simp] theorem svcEngMap_pending (n : Nat) (f : SvcEng → SvcEng) : (svcEngMap s n f).pending = s.pending := rfl

/-! domSet. -/
@[simp] theorem domSet_bstate (d v : Nat) : (domSet s d v).bstate = s.bstate := rfl
@[simp] theorem domSet_hreg (d v : Nat) : (domSet s d v).hreg = s.hreg := rfl
@[simp] theorem domSet_cnt (d v : Nat) : (domSet s d v).cnt = s.cnt := rfl
@[simp] theorem domSet_heldLow (d v : Nat) : (domSet s d v).heldLow = s.heldLow := rfl
@[simp] theorem domSet_capHigh (d v : Nat) : (domSet s d v).capHigh = s.capHigh := rfl
@[simp] theorem domSet_hostRd (d v : Nat) : (domSet s d v).hostRd = s.hostRd := rfl
@[simp] theorem domSet_tick (d v : Nat) : (domSet s d v).tick = s.tick := rfl
@[simp] theorem domSet_eng (d v : Nat) : (domSet s d v).eng = s.eng := rfl
@[simp] theorem domSet_cells (d v : Nat) : (domSet s d v).cells = s.cells := rfl
@[simp] theorem domSet_store (d v : Nat) : (domSet s d v).store = s.store := rfl
@[simp] theorem domSet_pub (d v : Nat) : (domSet s d v).pub = s.pub := rfl
@[simp] theorem domSet_chain (d v : Nat) : (domSet s d v).chain = s.chain := rfl
@[simp] theorem domSet_hub (d v : Nat) : (domSet s d v).hub = s.hub := rfl
@[simp] theorem domSet_field (d v : Nat) : (domSet s d v).field = s.field := rfl
@[simp] theorem domSet_sett (d v : Nat) : (domSet s d v).sett = s.sett := rfl
@[simp] theorem domSet_bat (d v : Nat) : (domSet s d v).bat = s.bat := rfl
@[simp] theorem domSet_rel (d v : Nat) : (domSet s d v).rel = s.rel := rfl
@[simp] theorem domSet_trc (d v : Nat) : (domSet s d v).trc = s.trc := rfl
@[simp] theorem domSet_mbx (d v : Nat) : (domSet s d v).mbx = s.mbx := rfl
@[simp] theorem domSet_io (d v : Nat) : (domSet s d v).io = s.io := rfl
@[simp] theorem domSet_mem (d v : Nat) : (domSet s d v).mem = s.mem := rfl
@[simp] theorem domSet_free (d v : Nat) : (domSet s d v).free = s.free := rfl
@[simp] theorem domSet_pending (d v : Nat) : (domSet s d v).pending = s.pending := rfl

/-! settMap. -/
@[simp] theorem settMap_bstate (f : Sett → Sett) : (settMap s f).bstate = s.bstate := rfl
@[simp] theorem settMap_hreg (f : Sett → Sett) : (settMap s f).hreg = s.hreg := rfl
@[simp] theorem settMap_cnt (f : Sett → Sett) : (settMap s f).cnt = s.cnt := rfl
@[simp] theorem settMap_heldLow (f : Sett → Sett) : (settMap s f).heldLow = s.heldLow := rfl
@[simp] theorem settMap_capHigh (f : Sett → Sett) : (settMap s f).capHigh = s.capHigh := rfl
@[simp] theorem settMap_hostRd (f : Sett → Sett) : (settMap s f).hostRd = s.hostRd := rfl
@[simp] theorem settMap_tick (f : Sett → Sett) : (settMap s f).tick = s.tick := rfl
@[simp] theorem settMap_eng (f : Sett → Sett) : (settMap s f).eng = s.eng := rfl
@[simp] theorem settMap_cells (f : Sett → Sett) : (settMap s f).cells = s.cells := rfl
@[simp] theorem settMap_store (f : Sett → Sett) : (settMap s f).store = s.store := rfl
@[simp] theorem settMap_pub (f : Sett → Sett) : (settMap s f).pub = s.pub := rfl
@[simp] theorem settMap_chain (f : Sett → Sett) : (settMap s f).chain = s.chain := rfl
@[simp] theorem settMap_hub (f : Sett → Sett) : (settMap s f).hub = s.hub := rfl
@[simp] theorem settMap_field (f : Sett → Sett) : (settMap s f).field = s.field := rfl
@[simp] theorem settMap_bat (f : Sett → Sett) : (settMap s f).bat = s.bat := rfl
@[simp] theorem settMap_rel (f : Sett → Sett) : (settMap s f).rel = s.rel := rfl
@[simp] theorem settMap_svc (f : Sett → Sett) : (settMap s f).svc = s.svc := rfl
@[simp] theorem settMap_trc (f : Sett → Sett) : (settMap s f).trc = s.trc := rfl
@[simp] theorem settMap_mbx (f : Sett → Sett) : (settMap s f).mbx = s.mbx := rfl
@[simp] theorem settMap_io (f : Sett → Sett) : (settMap s f).io = s.io := rfl
@[simp] theorem settMap_mem (f : Sett → Sett) : (settMap s f).mem = s.mem := rfl
@[simp] theorem settMap_free (f : Sett → Sett) : (settMap s f).free = s.free := rfl
@[simp] theorem settMap_pending (f : Sett → Sett) : (settMap s f).pending = s.pending := rfl

/-! batMap. -/
@[simp] theorem batMap_bstate (f : Battery → Battery) : (batMap s f).bstate = s.bstate := rfl
@[simp] theorem batMap_hreg (f : Battery → Battery) : (batMap s f).hreg = s.hreg := rfl
@[simp] theorem batMap_cnt (f : Battery → Battery) : (batMap s f).cnt = s.cnt := rfl
@[simp] theorem batMap_heldLow (f : Battery → Battery) : (batMap s f).heldLow = s.heldLow := rfl
@[simp] theorem batMap_capHigh (f : Battery → Battery) : (batMap s f).capHigh = s.capHigh := rfl
@[simp] theorem batMap_hostRd (f : Battery → Battery) : (batMap s f).hostRd = s.hostRd := rfl
@[simp] theorem batMap_tick (f : Battery → Battery) : (batMap s f).tick = s.tick := rfl
@[simp] theorem batMap_eng (f : Battery → Battery) : (batMap s f).eng = s.eng := rfl
@[simp] theorem batMap_cells (f : Battery → Battery) : (batMap s f).cells = s.cells := rfl
@[simp] theorem batMap_store (f : Battery → Battery) : (batMap s f).store = s.store := rfl
@[simp] theorem batMap_pub (f : Battery → Battery) : (batMap s f).pub = s.pub := rfl
@[simp] theorem batMap_chain (f : Battery → Battery) : (batMap s f).chain = s.chain := rfl
@[simp] theorem batMap_hub (f : Battery → Battery) : (batMap s f).hub = s.hub := rfl
@[simp] theorem batMap_field (f : Battery → Battery) : (batMap s f).field = s.field := rfl
@[simp] theorem batMap_sett (f : Battery → Battery) : (batMap s f).sett = s.sett := rfl
@[simp] theorem batMap_rel (f : Battery → Battery) : (batMap s f).rel = s.rel := rfl
@[simp] theorem batMap_svc (f : Battery → Battery) : (batMap s f).svc = s.svc := rfl
@[simp] theorem batMap_trc (f : Battery → Battery) : (batMap s f).trc = s.trc := rfl
@[simp] theorem batMap_mbx (f : Battery → Battery) : (batMap s f).mbx = s.mbx := rfl
@[simp] theorem batMap_io (f : Battery → Battery) : (batMap s f).io = s.io := rfl
@[simp] theorem batMap_mem (f : Battery → Battery) : (batMap s f).mem = s.mem := rfl
@[simp] theorem batMap_free (f : Battery → Battery) : (batMap s f).free = s.free := rfl
@[simp] theorem batMap_pending (f : Battery → Battery) : (batMap s f).pending = s.pending := rfl

/-! trcSet. -/
@[simp] theorem trcSet_bstate (k : Nat) (t : Trc) : (trcSet s k t).bstate = s.bstate := rfl
@[simp] theorem trcSet_hreg (k : Nat) (t : Trc) : (trcSet s k t).hreg = s.hreg := rfl
@[simp] theorem trcSet_cnt (k : Nat) (t : Trc) : (trcSet s k t).cnt = s.cnt := rfl
@[simp] theorem trcSet_heldLow (k : Nat) (t : Trc) : (trcSet s k t).heldLow = s.heldLow := rfl
@[simp] theorem trcSet_capHigh (k : Nat) (t : Trc) : (trcSet s k t).capHigh = s.capHigh := rfl
@[simp] theorem trcSet_hostRd (k : Nat) (t : Trc) : (trcSet s k t).hostRd = s.hostRd := rfl
@[simp] theorem trcSet_tick (k : Nat) (t : Trc) : (trcSet s k t).tick = s.tick := rfl
@[simp] theorem trcSet_eng (k : Nat) (t : Trc) : (trcSet s k t).eng = s.eng := rfl
@[simp] theorem trcSet_cells (k : Nat) (t : Trc) : (trcSet s k t).cells = s.cells := rfl
@[simp] theorem trcSet_store (k : Nat) (t : Trc) : (trcSet s k t).store = s.store := rfl
@[simp] theorem trcSet_pub (k : Nat) (t : Trc) : (trcSet s k t).pub = s.pub := rfl
@[simp] theorem trcSet_chain (k : Nat) (t : Trc) : (trcSet s k t).chain = s.chain := rfl
@[simp] theorem trcSet_hub (k : Nat) (t : Trc) : (trcSet s k t).hub = s.hub := rfl
@[simp] theorem trcSet_field (k : Nat) (t : Trc) : (trcSet s k t).field = s.field := rfl
@[simp] theorem trcSet_sett (k : Nat) (t : Trc) : (trcSet s k t).sett = s.sett := rfl
@[simp] theorem trcSet_bat (k : Nat) (t : Trc) : (trcSet s k t).bat = s.bat := rfl
@[simp] theorem trcSet_rel (k : Nat) (t : Trc) : (trcSet s k t).rel = s.rel := rfl
@[simp] theorem trcSet_svc (k : Nat) (t : Trc) : (trcSet s k t).svc = s.svc := rfl
@[simp] theorem trcSet_mbx (k : Nat) (t : Trc) : (trcSet s k t).mbx = s.mbx := rfl
@[simp] theorem trcSet_io (k : Nat) (t : Trc) : (trcSet s k t).io = s.io := rfl
@[simp] theorem trcSet_mem (k : Nat) (t : Trc) : (trcSet s k t).mem = s.mem := rfl
@[simp] theorem trcSet_free (k : Nat) (t : Trc) : (trcSet s k t).free = s.free := rfl
@[simp] theorem trcSet_pending (k : Nat) (t : Trc) : (trcSet s k t).pending = s.pending := rfl

/-! mothSet. -/
@[simp] theorem mothSet_bstate (m : Nat) (v : Moth) : (mothSet s m v).bstate = s.bstate := rfl
@[simp] theorem mothSet_hreg (m : Nat) (v : Moth) : (mothSet s m v).hreg = s.hreg := rfl
@[simp] theorem mothSet_cnt (m : Nat) (v : Moth) : (mothSet s m v).cnt = s.cnt := rfl
@[simp] theorem mothSet_heldLow (m : Nat) (v : Moth) : (mothSet s m v).heldLow = s.heldLow := rfl
@[simp] theorem mothSet_capHigh (m : Nat) (v : Moth) : (mothSet s m v).capHigh = s.capHigh := rfl
@[simp] theorem mothSet_hostRd (m : Nat) (v : Moth) : (mothSet s m v).hostRd = s.hostRd := rfl
@[simp] theorem mothSet_tick (m : Nat) (v : Moth) : (mothSet s m v).tick = s.tick := rfl
@[simp] theorem mothSet_eng (m : Nat) (v : Moth) : (mothSet s m v).eng = s.eng := rfl
@[simp] theorem mothSet_cells (m : Nat) (v : Moth) : (mothSet s m v).cells = s.cells := rfl
@[simp] theorem mothSet_store (m : Nat) (v : Moth) : (mothSet s m v).store = s.store := rfl
@[simp] theorem mothSet_pub (m : Nat) (v : Moth) : (mothSet s m v).pub = s.pub := rfl
@[simp] theorem mothSet_chain (m : Nat) (v : Moth) : (mothSet s m v).chain = s.chain := rfl
@[simp] theorem mothSet_hub (m : Nat) (v : Moth) : (mothSet s m v).hub = s.hub := rfl
@[simp] theorem mothSet_sett (m : Nat) (v : Moth) : (mothSet s m v).sett = s.sett := rfl
@[simp] theorem mothSet_bat (m : Nat) (v : Moth) : (mothSet s m v).bat = s.bat := rfl
@[simp] theorem mothSet_rel (m : Nat) (v : Moth) : (mothSet s m v).rel = s.rel := rfl
@[simp] theorem mothSet_svc (m : Nat) (v : Moth) : (mothSet s m v).svc = s.svc := rfl
@[simp] theorem mothSet_trc (m : Nat) (v : Moth) : (mothSet s m v).trc = s.trc := rfl
@[simp] theorem mothSet_mbx (m : Nat) (v : Moth) : (mothSet s m v).mbx = s.mbx := rfl
@[simp] theorem mothSet_io (m : Nat) (v : Moth) : (mothSet s m v).io = s.io := rfl
@[simp] theorem mothSet_mem (m : Nat) (v : Moth) : (mothSet s m v).mem = s.mem := rfl
@[simp] theorem mothSet_free (m : Nat) (v : Moth) : (mothSet s m v).free = s.free := rfl
@[simp] theorem mothSet_pending (m : Nat) (v : Moth) : (mothSet s m v).pending = s.pending := rfl

/-! srcSet. -/
@[simp] theorem srcSet_bstate (x : Nat) (v : Src) : (srcSet s x v).bstate = s.bstate := rfl
@[simp] theorem srcSet_hreg (x : Nat) (v : Src) : (srcSet s x v).hreg = s.hreg := rfl
@[simp] theorem srcSet_cnt (x : Nat) (v : Src) : (srcSet s x v).cnt = s.cnt := rfl
@[simp] theorem srcSet_heldLow (x : Nat) (v : Src) : (srcSet s x v).heldLow = s.heldLow := rfl
@[simp] theorem srcSet_capHigh (x : Nat) (v : Src) : (srcSet s x v).capHigh = s.capHigh := rfl
@[simp] theorem srcSet_hostRd (x : Nat) (v : Src) : (srcSet s x v).hostRd = s.hostRd := rfl
@[simp] theorem srcSet_tick (x : Nat) (v : Src) : (srcSet s x v).tick = s.tick := rfl
@[simp] theorem srcSet_eng (x : Nat) (v : Src) : (srcSet s x v).eng = s.eng := rfl
@[simp] theorem srcSet_cells (x : Nat) (v : Src) : (srcSet s x v).cells = s.cells := rfl
@[simp] theorem srcSet_store (x : Nat) (v : Src) : (srcSet s x v).store = s.store := rfl
@[simp] theorem srcSet_pub (x : Nat) (v : Src) : (srcSet s x v).pub = s.pub := rfl
@[simp] theorem srcSet_chain (x : Nat) (v : Src) : (srcSet s x v).chain = s.chain := rfl
@[simp] theorem srcSet_field (x : Nat) (v : Src) : (srcSet s x v).field = s.field := rfl
@[simp] theorem srcSet_sett (x : Nat) (v : Src) : (srcSet s x v).sett = s.sett := rfl
@[simp] theorem srcSet_bat (x : Nat) (v : Src) : (srcSet s x v).bat = s.bat := rfl
@[simp] theorem srcSet_rel (x : Nat) (v : Src) : (srcSet s x v).rel = s.rel := rfl
@[simp] theorem srcSet_svc (x : Nat) (v : Src) : (srcSet s x v).svc = s.svc := rfl
@[simp] theorem srcSet_trc (x : Nat) (v : Src) : (srcSet s x v).trc = s.trc := rfl
@[simp] theorem srcSet_mbx (x : Nat) (v : Src) : (srcSet s x v).mbx = s.mbx := rfl
@[simp] theorem srcSet_io (x : Nat) (v : Src) : (srcSet s x v).io = s.io := rfl
@[simp] theorem srcSet_mem (x : Nat) (v : Src) : (srcSet s x v).mem = s.mem := rfl
@[simp] theorem srcSet_free (x : Nat) (v : Src) : (srcSet s x v).free = s.free := rfl
@[simp] theorem srcSet_pending (x : Nat) (v : Src) : (srcSet s x v).pending = s.pending := rfl

/-! tmrSet. -/
@[simp] theorem tmrSet_bstate (g : Nat) (t : Timer) : (tmrSet s g t).bstate = s.bstate := rfl
@[simp] theorem tmrSet_hreg (g : Nat) (t : Timer) : (tmrSet s g t).hreg = s.hreg := rfl
@[simp] theorem tmrSet_cnt (g : Nat) (t : Timer) : (tmrSet s g t).cnt = s.cnt := rfl
@[simp] theorem tmrSet_heldLow (g : Nat) (t : Timer) : (tmrSet s g t).heldLow = s.heldLow := rfl
@[simp] theorem tmrSet_capHigh (g : Nat) (t : Timer) : (tmrSet s g t).capHigh = s.capHigh := rfl
@[simp] theorem tmrSet_hostRd (g : Nat) (t : Timer) : (tmrSet s g t).hostRd = s.hostRd := rfl
@[simp] theorem tmrSet_tick (g : Nat) (t : Timer) : (tmrSet s g t).tick = s.tick := rfl
@[simp] theorem tmrSet_eng (g : Nat) (t : Timer) : (tmrSet s g t).eng = s.eng := rfl
@[simp] theorem tmrSet_cells (g : Nat) (t : Timer) : (tmrSet s g t).cells = s.cells := rfl
@[simp] theorem tmrSet_store (g : Nat) (t : Timer) : (tmrSet s g t).store = s.store := rfl
@[simp] theorem tmrSet_pub (g : Nat) (t : Timer) : (tmrSet s g t).pub = s.pub := rfl
@[simp] theorem tmrSet_chain (g : Nat) (t : Timer) : (tmrSet s g t).chain = s.chain := rfl
@[simp] theorem tmrSet_field (g : Nat) (t : Timer) : (tmrSet s g t).field = s.field := rfl
@[simp] theorem tmrSet_sett (g : Nat) (t : Timer) : (tmrSet s g t).sett = s.sett := rfl
@[simp] theorem tmrSet_bat (g : Nat) (t : Timer) : (tmrSet s g t).bat = s.bat := rfl
@[simp] theorem tmrSet_rel (g : Nat) (t : Timer) : (tmrSet s g t).rel = s.rel := rfl
@[simp] theorem tmrSet_svc (g : Nat) (t : Timer) : (tmrSet s g t).svc = s.svc := rfl
@[simp] theorem tmrSet_trc (g : Nat) (t : Timer) : (tmrSet s g t).trc = s.trc := rfl
@[simp] theorem tmrSet_mbx (g : Nat) (t : Timer) : (tmrSet s g t).mbx = s.mbx := rfl
@[simp] theorem tmrSet_io (g : Nat) (t : Timer) : (tmrSet s g t).io = s.io := rfl
@[simp] theorem tmrSet_mem (g : Nat) (t : Timer) : (tmrSet s g t).mem = s.mem := rfl
@[simp] theorem tmrSet_free (g : Nat) (t : Timer) : (tmrSet s g t).free = s.free := rfl
@[simp] theorem tmrSet_pending (g : Nat) (t : Timer) : (tmrSet s g t).pending = s.pending := rfl

/-! swPut. -/
@[simp] theorem swPut_bstate (w : Nat) (v : Word) : (swPut s w v).bstate = s.bstate := rfl
@[simp] theorem swPut_hreg (w : Nat) (v : Word) : (swPut s w v).hreg = s.hreg := rfl
@[simp] theorem swPut_cnt (w : Nat) (v : Word) : (swPut s w v).cnt = s.cnt := rfl
@[simp] theorem swPut_heldLow (w : Nat) (v : Word) : (swPut s w v).heldLow = s.heldLow := rfl
@[simp] theorem swPut_capHigh (w : Nat) (v : Word) : (swPut s w v).capHigh = s.capHigh := rfl
@[simp] theorem swPut_hostRd (w : Nat) (v : Word) : (swPut s w v).hostRd = s.hostRd := rfl
@[simp] theorem swPut_tick (w : Nat) (v : Word) : (swPut s w v).tick = s.tick := rfl
@[simp] theorem swPut_eng (w : Nat) (v : Word) : (swPut s w v).eng = s.eng := rfl
@[simp] theorem swPut_cells (w : Nat) (v : Word) : (swPut s w v).cells = s.cells := rfl
@[simp] theorem swPut_store (w : Nat) (v : Word) : (swPut s w v).store = s.store := rfl
@[simp] theorem swPut_pub (w : Nat) (v : Word) : (swPut s w v).pub = s.pub := rfl
@[simp] theorem swPut_chain (w : Nat) (v : Word) : (swPut s w v).chain = s.chain := rfl
@[simp] theorem swPut_field (w : Nat) (v : Word) : (swPut s w v).field = s.field := rfl
@[simp] theorem swPut_sett (w : Nat) (v : Word) : (swPut s w v).sett = s.sett := rfl
@[simp] theorem swPut_bat (w : Nat) (v : Word) : (swPut s w v).bat = s.bat := rfl
@[simp] theorem swPut_rel (w : Nat) (v : Word) : (swPut s w v).rel = s.rel := rfl
@[simp] theorem swPut_svc (w : Nat) (v : Word) : (swPut s w v).svc = s.svc := rfl
@[simp] theorem swPut_trc (w : Nat) (v : Word) : (swPut s w v).trc = s.trc := rfl
@[simp] theorem swPut_mbx (w : Nat) (v : Word) : (swPut s w v).mbx = s.mbx := rfl
@[simp] theorem swPut_io (w : Nat) (v : Word) : (swPut s w v).io = s.io := rfl
@[simp] theorem swPut_mem (w : Nat) (v : Word) : (swPut s w v).mem = s.mem := rfl
@[simp] theorem swPut_free (w : Nat) (v : Word) : (swPut s w v).free = s.free := rfl
@[simp] theorem swPut_pending (w : Nat) (v : Word) : (swPut s w v).pending = s.pending := rfl

/-! Reads after updates. -/

/-- The engine that was written is read. -/
@[simp] theorem engGet_engSet (n : Nat) (e : Engine) : engGet (engSet s n e) n = e := tblGet_tblSet_self _ _ _ _

/-- Another engine is unchanged. -/
theorem engGet_engSet_other {n m : Nat} (h : m ≠ n) (e : Engine) : engGet (engSet s n e) m = engGet s m :=
  tblGet_tblSet_other _ h _ _

/-- The later of two writes of one engine stands alone. -/
@[simp] theorem engSet_engSet (n : Nat) (e f : Engine) : engSet (engSet s n f) n e = engSet s n e := by
  simp [engSet]

/-- The engine that was changed is read. -/
@[simp] theorem engGet_engMap (n : Nat) (f : Engine → Engine) : engGet (engMap s n f) n = f (engGet s n) := by
  simp [engMap]

/-- Another engine is unchanged. -/
theorem engGet_engMap_other {n m : Nat} (h : m ≠ n) (f : Engine → Engine) : engGet (engMap s n f) m = engGet s m :=
  engGet_engSet_other s h _

/-- The counter that was counted holds the saturated sum (R13). -/
@[simp] theorem cntGet_cntAdd (a k : Nat) : cntGet (cntAdd s a k) a = satCount (cntGet s a) k := tblGet_tblSet_self _ _ _ _

/-- Another counter is unchanged. -/
theorem cntGet_cntAdd_other {a b : Nat} (h : b ≠ a) (k : Nat) : cntGet (cntAdd s a k) b = cntGet s b :=
  tblGet_tblSet_other _ h _ _

/-- The stamp that was written is read. -/
@[simp] theorem cntGet_cntPut (a : Nat) (v : Word) : cntGet (cntPut s a v) a = v := tblGet_tblSet_self _ _ _ _

/-- The plain register that was written is read. -/
@[simp] theorem regGet_regPut (a : Nat) (v : Word) : regGet (regPut s a v) a = v := tblGet_tblSet_self _ _ _ _

/-- The default of each plain register is its own, so another register is unchanged. -/
theorem regGet_regPut_other {a b : Nat} (h : b ≠ a) (v : Word) : regGet (regPut s a v) b = regGet s b := by
  unfold regGet regPut tblSet
  split
  · simp [tblGet_tblDel, h]
  · simp [tblGet_tblIns_other _ h, tblGet_tblDel, h]

/-- The domain state that was written is read. -/
@[simp] theorem domStat_domSet (d v : Nat) : domStat (domSet s d v) d = v := tblGet_tblSet_self _ _ _ _

/-- The service record that was changed is read. -/
@[simp] theorem svcEng_svcEngMap (n : Nat) (f : SvcEng → SvcEng) : svcEng (svcEngMap s n f) n = f (svcEng s n) :=
  tblGet_tblSet_self _ _ _ _

/-- The trace unit that was written is read. -/
@[simp] theorem trcGet_trcSet (k : Nat) (t : Trc) : trcGet (trcSet s k t) k = t := tblGet_tblSet_self _ _ _ _

/-- The source that was written is read. -/
@[simp] theorem srcGet_srcSet (x : Nat) (v : Src) : srcGet (srcSet s x v) x = v := tblGet_tblSet_self _ _ _ _

/-- The moth that was written is read. -/
@[simp] theorem mothGet_mothSet (m : Nat) (v : Moth) : mothGet (mothSet s m v) m = v := tblGet_tblSet_self _ _ _ _

/-! What depends on no engine. -/

@[simp] theorem ktb_engSet (n : Nat) (e : Engine) : ktb (engSet s n e) = ktb s := rfl
@[simp] theorem regGet_engSet (n : Nat) (e : Engine) (a : Nat) : regGet (engSet s n e) a = regGet s a := rfl
@[simp] theorem cntGet_engSet (n : Nat) (e : Engine) (a : Nat) : cntGet (engSet s n e) a = cntGet s a := rfl
@[simp] theorem trcGet_engSet (n : Nat) (e : Engine) (k : Nat) : trcGet (engSet s n e) k = trcGet s k := rfl
@[simp] theorem isPaired_engSet (n : Nat) (e : Engine) : isPaired (engSet s n e) = isPaired s := rfl
@[simp] theorem partnerOf_engSet (n m : Nat) (e : Engine) : partnerOf (engSet s n e) m = partnerOf s m := rfl

/-- A tile fails its check exactly where its check word is not the CRC-32C of its bytes as stored (R316). -/
theorem tileBad_eq (cls inst tile : Nat) : tileBad s cls inst tile = !tilePasses s cls inst tile := by
  have h (c d : Word) : c ^^^ (d ||| 1) ≠ c := by
    intro e
    have := congrArg (fun x : Word => x.getLsbD 0) e
    simp at this
  unfold tilePasses tileCheckWord
  cases hb : tileBad s cls inst tile <;> simp [h]

end Sys2Proof.Machine
end

