-- ==== Sys2Proof/Laws/Bundle.lean ====
section
/-! SUPPORT. What the command of an instruction comes to when its bundle holds nothing else: the chain from exec through issue,
fetch, evaluation and retirement, said once. -/

namespace Sys2Proof.Machine

/-- The command of an operation is the issue of the bundle that holds it. -/
theorem exec_commandOf (op : Op) (n : Nat) (s : State) : exec (commandOf op n) s = issueOp op n s := by
  cases op <;> rfl

/-- The engine fields that a register act changes. -/
def regAct (e : Engine) : Act → Engine
  | .g r v => putG e r v
  | .p r v => putP e r v
  | .c r v => putC e r v
  | .lc v => { e with lc := v }
  | .spr k v => sprPut e k v
  | .xpcc k v => xpccPut e k v
  | .twr v => { e with dtx := v, dtxf := true }
  | .trd => { e with drxf := false }
  | _ => e

/-- The acts that change registers of their engine and nothing else. -/
def isRegAct : Act → Bool
  | .g _ _ | .p _ _ | .c _ _ | .lc _ | .spr _ _ | .xpcc _ _ | .twr _ | .trd => true
  | _ => false

theorem applyAct_reg (n back : Nat) (win : Rec) (s : State) (a : Act) (h : isRegAct a = true) :
    applyAct n back win s a = engSet s n (regAct (engGet s n) a) := by
  cases a <;> first | (cases h; done) | rfl

theorem foldl_applyAct_reg (n back : Nat) (win : Rec) (acts : List Act) (s : State) (h : acts.all isRegAct = true) (e : Engine)
    (he : acts ≠ []) :
    acts.foldl (applyAct n back win) (engSet s n e) = engSet s n (acts.foldl regAct e) := by
  induction acts generalizing e with
  | nil => exact absurd rfl he
  | cons a t ih =>
    simp only [List.all_cons, Bool.and_eq_true] at h
    simp only [List.foldl_cons, applyAct_reg _ _ _ _ _ h.1, engGet_engSet, engSet_engSet]
    by_cases ht : t = []
    · subst ht; rfl
    · exact ih h.2 _ ht

theorem foldl_applyAct_reg' (n back : Nat) (win : Rec) (acts : List Act) (s : State) (h : acts.all isRegAct = true) (e : Engine) :
    acts.foldl (applyAct n back win) (engSet s n e) = engSet s n (acts.foldl regAct e) := by
  by_cases he : acts = []
  · subst he; rfl
  · exact foldl_applyAct_reg n back win acts s h e he

/-- What register acts leave alone. -/
structure KeepsFlow (e f : Engine) : Prop where
  xfer : f.xfer = e.xfer
  rep : f.rep = e.rep
  hold : f.hold = e.hold
  pc : f.pc = e.pc
  swap : f.swapPend = e.swapPend
  dbg : f.dbg = e.dbg
  run : f.run = e.run
  u : f.u = e.u
  noEvent : f.noEvent = e.noEvent

theorem saveSet_flow (e : Engine) (t : Nat) (v : Save) : KeepsFlow e (saveSet e t v) := by
  unfold saveSet; split <;> exact ⟨rfl, rfl, rfl, rfl, rfl, rfl, rfl, rfl, rfl⟩

theorem sprPut_flow (e : Engine) (k : Nat) (v : Word) : KeepsFlow e (sprPut e k v) := by
  unfold sprPut
  split
  all_goals try dsimp only
  all_goals try split
  all_goals first
    | exact saveSet_flow _ _ _
    | exact ⟨rfl, rfl, rfl, rfl, rfl, rfl, rfl, rfl, rfl⟩

theorem putG_flow (e : Engine) (r : Nat) (v : Word) : KeepsFlow e (putG e r v) := by
  unfold putG; split <;> exact ⟨rfl, rfl, rfl, rfl, rfl, rfl, rfl, rfl, rfl⟩

theorem putP_flow (e : Engine) (r : Nat) (v : Bool) : KeepsFlow e (putP e r v) := by
  unfold putP; split <;> exact ⟨rfl, rfl, rfl, rfl, rfl, rfl, rfl, rfl, rfl⟩

theorem putC_flow (e : Engine) (r : Nat) (v : W128) : KeepsFlow e (putC e r v) := by
  unfold putC; split <;> exact ⟨rfl, rfl, rfl, rfl, rfl, rfl, rfl, rfl, rfl⟩

theorem regAct_flow (e : Engine) (a : Act) : KeepsFlow e (regAct e a) := by
  cases a
  case g => exact putG_flow _ _ _
  case p => exact putP_flow _ _ _
  case c => exact putC_flow _ _ _
  case spr => exact sprPut_flow _ _ _
  case xpcc => exact saveSet_flow _ _ _
  all_goals exact ⟨rfl, rfl, rfl, rfl, rfl, rfl, rfl, rfl, rfl⟩

theorem KeepsFlow.trans {e f g : Engine} (h : KeepsFlow e f) (k : KeepsFlow f g) : KeepsFlow e g :=
  ⟨k.xfer.trans h.xfer, k.rep.trans h.rep, k.hold.trans h.hold, k.pc.trans h.pc, k.swap.trans h.swap, k.dbg.trans h.dbg,
   k.run.trans h.run, k.u.trans h.u, k.noEvent.trans h.noEvent⟩

theorem foldl_regAct_flow (acts : List Act) (e : Engine) : KeepsFlow e (acts.foldl regAct e) := by
  induction acts generalizing e with
  | nil => constructor <;> rfl
  | cons a t ih => exact (regAct_flow e a).trans (ih _)

theorem isRegAct_not_xfer (acts : List Act) (h : acts.all isRegAct = true) : actXfer acts = none := by
  induction acts with
  | nil => rfl
  | cons a t ih =>
    simp only [List.all_cons, Bool.and_eq_true] at h
    cases a <;> first | (cases h.1; done) | exact ih h.2

theorem isRegAct_not_eret (acts : List Act) (h : acts.all isRegAct = true) : acts.any (fun a => a == .eret) = false := by
  induction acts with
  | nil => rfl
  | cons a t ih =>
    simp only [List.all_cons, Bool.and_eq_true] at h
    rw [List.any_cons, ih h.2, Bool.or_false]
    cases a <;> first | (cases h.1; done) | rfl

theorem isRegAct_not_halt (acts : List Act) (h : acts.all isRegAct = true) : acts.any (fun a => a == .haltReq) = false := by
  induction acts with
  | nil => rfl
  | cons a t ih =>
    simp only [List.all_cons, Bool.and_eq_true] at h
    rw [List.any_cons, ih h.2, Bool.or_false]
    cases a <;> first | (cases h.1; done) | rfl

theorem isRegAct_not_trap (acts : List Act) (h : acts.all isRegAct = true) :
    acts.findSome? (fun a => match a with | .trap t => some t | _ => none) = none := by
  induction acts with
  | nil => rfl
  | cons a t ih =>
    simp only [List.all_cons, Bool.and_eq_true] at h
    cases a <;> first | (cases h.1; done) | exact ih h.2

/-- The engine after the register acts of a bundle, with the rest of its retirement. -/
def afterActs (e : Engine) (acts : List Act) (nx : Nat) : Engine :=
  { acts.foldl regAct (bundleOver e) with pc := BitVec.ofNat 32 nx }

/-- Outside delay slots and repeats a bundle without a transfer goes on at the next address. -/
theorem pcAdvance_plain (s : State) (n here nx : Nat) (acts : List Act) (c : Bool) (hx : (engGet s n).xfer = none)
    (hr : (engGet s n).rep = none) (ha : actXfer acts = none) :
    pcAdvance s n here nx acts c = engMap s n (fun e => { e with pc := BitVec.ofNat 32 nx }) := by
  unfold pcAdvance
  dsimp only
  rw [hx, ha, hr]

theorem afterRetire_plain (s : State) (n : Nat) (acts : List Act)
    (ht : acts.findSome? (fun a => match a with | .trap t => some t | _ => none) = none)
    (hh : acts.any (fun a => a == .haltReq) = false) : afterRetire s n acts = s := by
  unfold afterRetire
  dsimp only
  split
  · rename_i h; exact absurd (ht.symm.trans h) (by simp)
  · rw [hh]; rfl

theorem stepEnd_plain (s : State) (n : Nat) (h : (engGet s n).dbg.stepping = false) : stepEnd s n = s := by
  unfold stepEnd
  dsimp only
  rw [h]; rfl

theorem afterRoutine_plain (s : State) (n : Nat) (h : (engGet s n).swapPend = false) : afterRoutine s n = s := by
  unfold afterRoutine
  rw [h]; rfl

theorem isRegAct_not_close (acts : List Act) (h : acts.all isRegAct = true) :
    acts.any actCloses = false := by
  induction acts with
  | nil => rfl
  | cons a t ih =>
    simp only [List.all_cons, Bool.and_eq_true] at h
    rw [List.any_cons, ih h.2, Bool.or_false]
    cases a <;> first | (cases h.1; done) | rfl

theorem afterClose_plain (s : State) (n : Nat) (acts : List Act)
    (h : acts.any actCloses = false) : afterClose s n acts = s := by
  unfold afterClose
  rw [h]; rfl

/-- Register acts keep their order: none of them closes a context. -/
theorem isRegAct_order (acts : List Act) (h : acts.all isRegAct = true) :
    acts.filter (fun a => !actCloses a) ++ acts.filter actCloses = acts := by
  have hn : ∀ a, a ∈ acts → actCloses a = false := fun a ha =>
    by simpa using (List.any_eq_false.mp (isRegAct_not_close acts h)) a ha
  rw [List.filter_eq_self.mpr (fun a ha => by simp [hn a ha]), List.filter_eq_nil_iff.mpr (fun a ha => by simp [hn a ha]),
    List.append_nil]

/-- The retirement of a bundle of register acts outside delay slots, repeats, steps and bank swaps. -/
theorem retireOne_reg (s : State) (n : Nat) (acts : List Act) (nx : Nat) (c : Bool) (h : acts.all isRegAct = true)
    (hx : (engGet s n).xfer = none) (hr : (engGet s n).rep = none) (hs : (engGet s n).swapPend = false)
    (hd : (engGet s n).dbg.stepping = false) :
    retireOne s n 0 acts nx c = engSet s n (afterActs (engGet s n) acts nx) := by
  have fl := foldl_regAct_flow acts (bundleOver (engGet s n))
  let win := (engGet s n).window
  have h0 : acts.foldl (applyAct n 0 win) (engMap s n bundleOver) = engSet s n (acts.foldl regAct (bundleOver (engGet s n))) :=
    foldl_applyAct_reg' n 0 win acts s h _
  have hp : pcAdvance (engSet s n (acts.foldl regAct (bundleOver (engGet s n)))) n (pcAt (engGet s n).pc) nx acts c =
      engSet s n (afterActs (engGet s n) acts nx) := by
    rw [pcAdvance_plain _ _ _ _ _ _ (by rw [engGet_engSet, fl.xfer]; exact hx) (by rw [engGet_engSet, fl.rep]; exact hr)
      (isRegAct_not_xfer acts h)]
    rw [engMap, engGet_engSet, engSet_engSet]
    rfl
  have hsw : (engGet (engSet s n (afterActs (engGet s n) acts nx)) n).swapPend = false := by
    rw [engGet_engSet]; exact (fl.swap).trans hs
  have hst : (engGet (engSet s n (afterActs (engGet s n) acts nx)) n).dbg.stepping = false := by
    rw [engGet_engSet]; exact (congrArg DbgState.stepping fl.dbg).trans hd
  have key : retireOne s n 0 acts nx c =
      let order := acts.filter (fun a => !actCloses a) ++ acts.filter actCloses
      if acts.any (fun a => a == .eret) then stepEnd (eretTake (order.foldl (applyAct n 0 win) (engMap s n bundleOver)) n) n
      else afterClose (afterRoutine (stepEnd (afterRetire (pcAdvance (order.foldl (applyAct n 0 win) (engMap s n bundleOver)) n
        (pcAt (engGet s n).pc) nx acts c) n acts) n) n) n acts := rfl
  rw [key]
  dsimp only
  rw [isRegAct_order acts h, isRegAct_not_eret acts h, h0, hp, afterRetire_plain _ _ _ (isRegAct_not_trap acts h) (isRegAct_not_halt acts h),
    stepEnd_plain _ _ hst, afterRoutine_plain _ _ hsw, afterClose_plain _ _ _ (isRegAct_not_close acts h)]
  rfl

/-- A command whose bundle stands alone is the one run of that bundle. -/
theorem exec_alone {s : State} {n : Nat} {y : Syl} {op : Op} {nx : Nat} (h : Alone s n y op nx) :
    exec (commandOf op n) s = runBundle s n := by
  rw [exec_commandOf]
  simp [issueOp, h.ready, bundleHas, h.bundle]

/-- One run of a bundle outside lockstep. -/
theorem runOnce_single {s : State} {n : Nat} (h : partnerOf s n = none) : runOnce s n = applyOne s n 0 (bundleRes s n) := by
  simp [runOnce, h]

/-- A bundle that is run once, without a lock wait, a repeat or a dropped trace record, is the whole command. -/
theorem runBundle_once {s t : State} {n : Nat} (hh : (engGet s n).hold = .none) (h : runOnce s n = .next t)
    (hl : (engGet t n).hold ≠ .lock) (hr : inRepBody (engGet t n) = false) (hd : trcDropped s t (cluOf n) = false) :
    runBundle s n = .next t := by
  have h0 : trcStallCount s n ((engGet s n).hold == .trace) = s := by rw [hh]; rfl
  have h1 : runWait s n = .next t := by simp [runWait, h, hl]
  simp [runBundle, h0, runRep, h1, hr, trcHeld, hd]

/-- What the bundle of a hardwired instruction alone comes to. -/
theorem bundleRes_runs {s : State} {n : Nat} {y : Syl} {op : Op} {nx : Nat} (h : Runs s n y op nx) (h1 : op ≠ .rep)
    (h2 : op ≠ .repi) :
    bundleRes s n =
      match evOp s n { here := pcAt (engGet s n).pc, next := nx } y op true with
      | .acts l => .retire l nx (hasCond [y] [op])
      | .trap t => .trap t
      | .recBad i t => .recBad i t
      | .hold x => .hold x
      | .far ld a size => .far ld a size
      | .stuck f => .stuck f
      | .refuse => .refuse
      | .pushPart cs => .pushPart cs
      | .ucode _ => bundleRes s n := by
  have hg : evSyl s n { here := pcAt (engGet s n).pc, next := nx } y op =
      evOp s n { here := pcAt (engGet s n).pc, next := nx } y op true := by
    have hp : (entPriv y.entry && !privOk (engGet s n).compat (engGet s n).ring (engGet s n).pcc) = false := by
      cases hq : entPriv y.entry
      · rfl
      · simp [h.priv hq]
    simp [evSyl, h.guard, hp, h.need, h.hard]
  cases he : evOp s n { here := pcAt (engGet s n).pc, next := nx } y op true with
  | ucode => rfl
  | _ =>
    unfold bundleRes
    simp only [h.bundle]
    split
    · rename_i hq; cases hq; simp_all
    · rename_i hq; cases hq; simp_all
    · simp [evList, hg, he, h.noDonePos, doneActs, h.noDone, hasNat]

/-- A hardwired instruction alone whose evaluation gives register acts: the next state in full. -/
theorem exec_runs_reg {s : State} {n : Nat} {y : Syl} {op : Op} {nx : Nat} (h : Runs s n y op nx) (h1 : op ≠ .rep)
    (h2 : op ≠ .repi) {acts : List Act}
    (he : evOp s n { here := pcAt (engGet s n).pc, next := nx } y op true = .acts acts) (ha : acts.all isRegAct = true) :
    exec (commandOf op n) s = .next (engSet s n (afterActs (engGet s n) acts nx)) := by
  rw [exec_alone h.toAlone]
  have hb := bundleRes_runs h h1 h2
  rw [he] at hb
  have hx : applyOne s n 0 (bundleRes s n) = .next (engSet s n (afterActs (engGet s n) acts nx)) := by
    rw [hb]; simp [applyOne, retireOne_reg s n acts nx _ ha h.noSlot h.noRep h.noSwap h.noStep]
  have fl := foldl_regAct_flow acts (bundleOver (engGet s n))
  apply runBundle_once h.unheld
  · rw [runOnce_single h.single, hx]
  · rw [engGet_engSet]
    have : (afterActs (engGet s n) acts nx).hold = .none := fl.hold
    rw [this]; decide
  · rw [engGet_engSet]
    have : (afterActs (engGet s n) acts nx).rep = none := fl.rep.trans h.noRep
    rw [inRepBody, this]
  · simp [trcDropped]

/-- A decoded bundle of one syllable holds a legal syllable of that operation. -/
theorem decode_single_legal {s : State} {n : Nat} {y : Syl} {op : Op} {nx : Nat} (h : decodeBundle s n = .ok [y] [op] nx) :
    sylLegal y = some op := by
  unfold decodeBundle at h
  simp only at h
  split at h <;> try cases h
  split at h
  · cases h
  · rename_i ys nx' hf ops hb
    split at h
    · cases h
    · cases h
      unfold bundleOps at hb
      dsimp only at hb
      split at hb
      · cases hb
      · split at hb
        · cases hb
          rename_i ho _
          simp only [sylOps] at ho
          split at ho
          · rename_i o os h1 h2; simp_all
          · cases ho
        · cases hb

/-! The next state of an instruction with one result, in the words of the claims. -/

theorem afterActs_g (e : Engine) (r : Nat) (v : Word) (nx : Nat) : afterActs e [.g r v] nx = putG (retired e nx) r v := by
  change { putG (bundleOver e) r v with pc := BitVec.ofNat 32 nx } = putG (retired e nx) r v
  unfold putG
  by_cases h : r = 0
  · rw [if_pos h, if_pos h]; rfl
  · rw [if_neg h, if_neg h]; rfl

theorem afterActs_p (e : Engine) (r : Nat) (v : Bool) (nx : Nat) : afterActs e [.p r v] nx = putP (retired e nx) r v := by
  change { putP (bundleOver e) r v with pc := BitVec.ofNat 32 nx } = putP (retired e nx) r v
  unfold putP
  by_cases h : r = 0
  · rw [if_pos h, if_pos h]; rfl
  · rw [if_neg h, if_neg h]; rfl

theorem afterActs_c (e : Engine) (r : Nat) (v : W128) (nx : Nat) : afterActs e [.c r v] nx = putC (retired e nx) r v := by
  change { putC (bundleOver e) r v with pc := BitVec.ofNat 32 nx } = putC (retired e nx) r v
  unfold putC
  by_cases h : r = 0
  · rw [if_pos h, if_pos h]; rfl
  · rw [if_neg h, if_neg h]; rfl

theorem afterActs_nil (e : Engine) (nx : Nat) : afterActs e [] nx = retired e nx := rfl

/-- What legality says of a syllable: its operation and its fields. -/
theorem sylLegal_parts {y : Syl} {op : Op} (h : sylLegal y = some op) : sylOp y = some op ∧ sylFieldsOk y op = true := by
  unfold sylLegal at h
  split at h
  · split at h
    · split at h
      · cases h; exact ⟨by assumption, by assumption⟩
      · cases h
    · cases h
  · cases h

/-- The minors that each operation with a table of minors is decoded from, over every major and minor. -/
theorem opOf_minor : ∀ j : Fin 256, ∀ m : Fin 16,
    (match opOf j m with
     | some .alu => decide (m.val ≤ 14)
     | some .unary => decide (m.val ≤ 6)
     | some .sat => decide (m.val ≤ 8)
     | some .cmp => decide (m.val ≤ 11) || decide (0x12 ≤ j.val ∧ j.val ≤ 0x19)
     | some .plog => decide (m.val ≤ 7)
     | some .mul => decide (m.val ≤ 6) || decide (j.val = 0x22)
     | some .div => decide (m.val ≤ 3)
     | some .bit => decide (m.val ≤ 8)
     | some .fld => decide (m.val ≤ 4)
     | some .fop => decide (m.val ≤ 11) && decide (m.val ≠ 3) && decide (m.val ≠ 4)
     | some .fcmp => decide (m.val ≤ 6)
     | some .fcvt => decide (m.val ≤ 5)
     | some .crcStep => decide (m.val ≤ 2)
     | some .aluImm => decide (3 ≤ j.val ∧ j.val ≤ 6)
     | some .shiftImm => decide (7 ≤ j.val ∧ j.val ≤ 10)
     | _ => true) = true := by
  decide +kernel

theorem sylMajor_lt (w : Word) : sylMajor w < 256 := Nat.mod_lt _ (by decide)
theorem sylMinor_lt (w : Word) : sylMinor w < 16 := Nat.mod_lt _ (by decide)

/-- The same of a syllable. -/
theorem sylOp_minor {y : Syl} {op : Op} (h : sylOp y = some op) :
    (match op with
     | .alu => decide (sylMinor y.word ≤ 14)
     | .unary => decide (sylMinor y.word ≤ 6)
     | .sat => decide (sylMinor y.word ≤ 8)
     | .cmp => decide (sylMinor y.word ≤ 11) || decide (0x12 ≤ sylMajor y.word ∧ sylMajor y.word ≤ 0x19)
     | .plog => decide (sylMinor y.word ≤ 7)
     | .mul => decide (sylMinor y.word ≤ 6) || decide (sylMajor y.word = 0x22)
     | .div => decide (sylMinor y.word ≤ 3)
     | .bit => decide (sylMinor y.word ≤ 8)
     | .fld => decide (sylMinor y.word ≤ 4)
     | .fop => decide (sylMinor y.word ≤ 11) && decide (sylMinor y.word ≠ 3) && decide (sylMinor y.word ≠ 4)
     | .fcmp => decide (sylMinor y.word ≤ 6)
     | .fcvt => decide (sylMinor y.word ≤ 5)
     | .crcStep => decide (sylMinor y.word ≤ 2)
     | .aluImm => decide (3 ≤ sylMajor y.word ∧ sylMajor y.word ≤ 6)
     | .shiftImm => decide (7 ≤ sylMajor y.word ∧ sylMajor y.word ≤ 10)
     | _ => true) = true := by
    unfold sylOp at h
    split at h
    · cases h; rfl
    have hm := opOf_minor ⟨sylMajor y.word, sylMajor_lt _⟩ ⟨sylMinor y.word, sylMinor_lt _⟩
    dsimp only at hm
    rw [h] at hm
    cases op <;> exact hm

end Sys2Proof.Machine
end

