-- ==== Sys2Proof/Laws/Keeps.lean ====
section
/-! SUPPORT. One lemma per shared operation that turns a state into a state: what the operation never touches.
No operation below reads or writes the queue of waiting commands, nor the boundary outputs of a command's answer. -/

namespace Sys2Proof.Machine

@[simp] theorem forNats_nil (f : State → Nat → State) (s : State) : forNats [] f s = s := rfl
@[simp] theorem forNats_pending (l : List Nat) (f : State → Nat → State) (s : State) (h : ∀ z n, (f z n).pending = z.pending) :
    (forNats l f s).pending = s.pending := by
  unfold forNats
  induction l generalizing s with
  | nil => rfl
  | cons a l ih => simp only [List.foldl_cons]; rw [ih, h]
@[simp] theorem forNats_io (l : List Nat) (f : State → Nat → State) (s : State) (h : ∀ z n, (f z n).io = z.io) :
    (forNats l f s).io = s.io := by
  unfold forNats
  induction l generalizing s with
  | nil => rfl
  | cons a l ih => simp only [List.foldl_cons]; rw [ih, h]
theorem foldl_pending {α : Type} (l : List α) (f : State → α → State) (s : State) (h : ∀ z n, (f z n).pending = z.pending) :
    (l.foldl f s).pending = s.pending := by
  induction l generalizing s with
  | nil => rfl
  | cons a l ih => simp only [List.foldl_cons]; rw [ih, h]
theorem foldl_io {α : Type} (l : List α) (f : State → α → State) (s : State) (h : ∀ z n, (f z n).io = z.io) :
    (l.foldl f s).io = s.io := by
  induction l generalizing s with
  | nil => rfl
  | cons a l ih => simp only [List.foldl_cons]; rw [ih, h]

-- Ops
@[simp] theorem engSet_keeps (s : State) (n : Nat) (e : Engine) :
    (engSet s n e).pending = s.pending ∧ (engSet s n e).io = s.io := by
  unfold engSet
  simp [foldl_pending, foldl_io, apply_ite State.pending, apply_ite State.io]
@[simp] theorem engMap_keeps (s : State) (n : Nat) (f : Engine → Engine) :
    (engMap s n f).pending = s.pending ∧ (engMap s n f).io = s.io := by
  unfold engMap
  simp [foldl_pending, foldl_io, apply_ite State.pending, apply_ite State.io]
@[simp] theorem forNats_engMap (l : List Nat) (s : State) (g : State → Nat → Engine → Engine) :
    (forNats l (fun z n => engMap z n (g z n)) s).pending = s.pending ∧
    (forNats l (fun z n => engMap z n (g z n)) s).io = s.io :=
  ⟨forNats_pending _ _ _ (by simp), forNats_io _ _ _ (by simp)⟩
@[simp] theorem cntAdd_keeps (s : State) (a k : Nat) :
    (cntAdd s a k).pending = s.pending ∧ (cntAdd s a k).io = s.io := by
  unfold cntAdd
  simp [foldl_pending, foldl_io, apply_ite State.pending, apply_ite State.io]
@[simp] theorem cntPut_keeps (s : State) (a : Nat) (v : Word) :
    (cntPut s a v).pending = s.pending ∧ (cntPut s a v).io = s.io := by
  unfold cntPut
  simp [foldl_pending, foldl_io, apply_ite State.pending, apply_ite State.io]
@[simp] theorem regPut_keeps (s : State) (a : Nat) (v : Word) :
    (regPut s a v).pending = s.pending ∧ (regPut s a v).io = s.io := by
  unfold regPut
  simp [foldl_pending, foldl_io, apply_ite State.pending, apply_ite State.io]
@[simp] theorem svcEngMap_keeps (s : State) (n : Nat) (f : SvcEng → SvcEng) :
    (svcEngMap s n f).pending = s.pending ∧ (svcEngMap s n f).io = s.io := by
  unfold svcEngMap
  simp [foldl_pending, foldl_io, apply_ite State.pending, apply_ite State.io]
@[simp] theorem domSet_keeps (s : State) (d v : Nat) :
    (domSet s d v).pending = s.pending ∧ (domSet s d v).io = s.io := by
  unfold domSet
  simp [foldl_pending, foldl_io, apply_ite State.pending, apply_ite State.io]
@[simp] theorem freshCount_keeps (s : State) :
    (freshCount s).2.pending = s.pending ∧ (freshCount s).2.io = s.io := by
  unfold freshCount
  simp [foldl_pending, foldl_io, apply_ite State.pending, apply_ite State.io]

-- Hub
@[simp] theorem srcSet_keeps (s : State) (x : Nat) (v : Src) :
    (srcSet s x v).pending = s.pending ∧ (srcSet s x v).io = s.io := by
  unfold srcSet
  simp [foldl_pending, foldl_io, apply_ite State.pending, apply_ite State.io]
@[simp] theorem tmrSet_keeps (s : State) (g : Nat) (t : Timer) :
    (tmrSet s g t).pending = s.pending ∧ (tmrSet s g t).io = s.io := by
  unfold tmrSet
  simp [foldl_pending, foldl_io, apply_ite State.pending, apply_ite State.io]
@[simp] theorem holdReach_keeps (s : State) (g : Nat) :
    (holdReach s g).pending = s.pending ∧ (holdReach s g).io = s.io := by
  unfold holdReach
  simp [foldl_pending, foldl_io, apply_ite State.pending, apply_ite State.io]
@[simp] theorem holdExpire_keeps (s : State) (g : Nat) :
    (holdExpire s g).pending = s.pending ∧ (holdExpire s g).io = s.io := by
  unfold holdExpire
  simp [foldl_pending, foldl_io, apply_ite State.pending, apply_ite State.io]
@[simp] theorem tmrRebase_keeps (s : State) (base : Nat) (z : State) (q : Nat × Timer) :
    (tmrRebase s base z q).pending = z.pending ∧ (tmrRebase s base z q).io = z.io := by
  unfold tmrRebase
  (repeat' split) <;> simp
@[simp] theorem hubRebase_keeps (s z : State) :
    (hubRebase s z).pending = z.pending ∧ (hubRebase s z).io = z.io := by
  unfold hubRebase
  exact ⟨foldl_pending _ _ _ (by simp), foldl_io _ _ _ (by simp)⟩
@[simp] theorem wakeEng_keeps (s : State) (n : Nat) :
    (wakeEng s n).pending = s.pending ∧ (wakeEng s n).io = s.io := by
  unfold wakeEng
  simp [foldl_pending, foldl_io, apply_ite State.pending, apply_ite State.io]
@[simp] theorem hubWake_keeps (s : State) (x : Nat) :
    (hubWake s x).pending = s.pending ∧ (hubWake s x).io = s.io := by
  unfold hubWake
  simp [foldl_pending, foldl_io, apply_ite State.pending, apply_ite State.io]
@[simp] theorem srcPendNow_keeps (s : State) (x : Nat) :
    (srcPendNow s x).pending = s.pending ∧ (srcPendNow s x).io = s.io := by
  unfold srcPendNow
  simp [foldl_pending, foldl_io, apply_ite State.pending, apply_ite State.io]
@[simp] theorem srcWithdraw_keeps (s : State) (x : Nat) :
    (srcWithdraw s x).pending = s.pending ∧ (srcWithdraw s x).io = s.io := by
  unfold srcWithdraw
  simp [foldl_pending, foldl_io, apply_ite State.pending, apply_ite State.io]
@[simp] theorem srcOff_keeps (s : State) (x : Nat) :
    (srcOff s x).pending = s.pending ∧ (srcOff s x).io = s.io := by
  unfold srcOff
  simp [foldl_pending, foldl_io, apply_ite State.pending, apply_ite State.io]
@[simp] theorem srcSample_keeps (s : State) (x : Nat) (v : Bool) :
    (srcSample s x v).pending = s.pending ∧ (srcSample s x v).io = s.io := by
  unfold srcSample
  simp [foldl_pending, foldl_io, apply_ite State.pending, apply_ite State.io]
@[simp] theorem pulse_keeps (s : State) (x : Nat) :
    (pulse s x).pending = s.pending ∧ (pulse s x).io = s.io := by
  unfold pulse
  simp [foldl_pending, foldl_io, apply_ite State.pending, apply_ite State.io]
@[simp] theorem srcServe_keeps (s : State) (x t : Nat) :
    (srcServe s x t).pending = s.pending ∧ (srcServe s x t).io = s.io := by
  unfold srcServe
  simp [foldl_pending, foldl_io, apply_ite State.pending, apply_ite State.io]
@[simp] theorem holdBegin_keeps (s : State) (g : Nat) :
    (holdBegin s g).pending = s.pending ∧ (holdBegin s g).io = s.io := by
  unfold holdBegin
  try dsimp only
  constructor <;> (repeat' (first | rfl | (apply forNats_pending; intro z q) | (apply forNats_io; intro z q) | (rw [foldl_pending]; rotate_left; intro z q) | (rw [foldl_io]; rotate_left; intro z q) | split | simp)) <;> simp_all
@[simp] theorem srcDeliver_keeps (s : State) (x t : Nat) :
    (srcDeliver s x t).pending = s.pending ∧ (srcDeliver s x t).io = s.io := by
  unfold srcDeliver
  dsimp only
  (repeat' split) <;> simp_all [foldl_pending, foldl_io, apply_ite State.pending, apply_ite State.io]
@[simp] theorem srcComplete_keeps (s : State) (x : Nat) (forced : Bool) :
    (srcComplete s x forced).pending = s.pending ∧ (srcComplete s x forced).io = s.io := by
  unfold srcComplete
  simp [foldl_pending, foldl_io, apply_ite State.pending, apply_ite State.io]
@[simp] theorem tgtForce_keeps (s : State) (t : Nat) :
    (tgtForce s t).pending = s.pending ∧ (tgtForce s t).io = s.io := by
  unfold tgtForce
  simp [foldl_pending, foldl_io, apply_ite State.pending, apply_ite State.io]
@[simp] theorem tgtComplete_keeps (s : State) (t : Nat) :
    (tgtComplete s t).pending = s.pending ∧ (tgtComplete s t).io = s.io := by
  unfold tgtComplete
  simp [foldl_pending, foldl_io, apply_ite State.pending, apply_ite State.io]
@[simp] theorem hubWithdraw_keeps (s : State) :
    (hubWithdraw s).pending = s.pending ∧ (hubWithdraw s).io = s.io := by
  unfold hubWithdraw
  try dsimp only
  constructor <;> (repeat' (first | rfl | (apply forNats_pending; intro z q) | (apply forNats_io; intro z q) | (rw [foldl_pending]; rotate_left; intro z q) | (rw [foldl_io]; rotate_left; intro z q) | split | simp)) <;> simp_all
@[simp] theorem tgtMakeOffer_keeps (s : State) (t : Nat) :
    (tgtMakeOffer s t).pending = s.pending ∧ (tgtMakeOffer s t).io = s.io := by
  unfold tgtMakeOffer
  dsimp only
  (repeat' split) <;> simp_all [foldl_pending, foldl_io, apply_ite State.pending, apply_ite State.io]
@[simp] theorem hubEvaluate_keeps (s : State) :
    (hubEvaluate s).pending = s.pending ∧ (hubEvaluate s).io = s.io := by
  unfold hubEvaluate
  try dsimp only
  (repeat' split) <;> simp_all [foldl_pending, foldl_io, apply_ite State.pending, apply_ite State.io]
@[simp] theorem claimTake_keeps (s : State) (c : Nat) :
    (claimTake s c).pending = s.pending ∧ (claimTake s c).io = s.io := by
  unfold claimTake
  try dsimp only
  (repeat' split) <;> simp_all [foldl_pending, foldl_io, apply_ite State.pending, apply_ite State.io]
@[simp] theorem hubOff_keeps (s : State) :
    (hubOff s).pending = s.pending ∧ (hubOff s).io = s.io := by
  unfold hubOff
  simp [foldl_pending, foldl_io, apply_ite State.pending, apply_ite State.io]
@[simp] theorem hubRotReset_keeps (s : State) :
    (hubRotReset s).pending = s.pending ∧ (hubRotReset s).io = s.io := by
  unfold hubRotReset
  dsimp only
  constructor <;> (repeat' (first | rfl | (apply forNats_pending; intro z q) | (apply forNats_io; intro z q) | (rw [foldl_pending]; rotate_left; intro z q) | (rw [foldl_io]; rotate_left; intro z q) | split | simp)) <;> simp_all
@[simp] theorem fltWrite_keeps (s : State) (cls : Nat) (src arg0 arg1 : Word) :
    (fltWrite s cls src arg0 arg1).pending = s.pending ∧ (fltWrite s cls src arg0 arg1).io = s.io := by
  unfold fltWrite
  dsimp only
  (repeat' split) <;> simp_all [foldl_pending, foldl_io, apply_ite State.pending, apply_ite State.io]
@[simp] theorem setBState_keeps (s : State) (b : BState) :
    (setBState s b).pending = s.pending ∧ (setBState s b).io = s.io := by
  unfold setBState
  simp [foldl_pending, foldl_io, apply_ite State.pending, apply_ite State.io]
@[simp] theorem hmbComplete_keeps (s : State) (tag status : Nat) :
    (hmbComplete s tag status).pending = s.pending ∧ (hmbComplete s tag status).io = s.io := by
  unfold hmbComplete
  simp [foldl_pending, foldl_io, apply_ite State.pending, apply_ite State.io]
@[simp] theorem eoiWrite_keeps (s : State) (c : Nat) (v : Word) :
    (eoiWrite s c v).pending = s.pending ∧ (eoiWrite s c v).io = s.io := by
  unfold eoiWrite
  simp [foldl_pending, foldl_io, apply_ite State.pending, apply_ite State.io]
@[simp] theorem srcClearPend_keeps (s : State) (x : Nat) :
    (srcClearPend s x).pending = s.pending ∧ (srcClearPend s x).io = s.io := by
  unfold srcClearPend
  simp [foldl_pending, foldl_io, apply_ite State.pending, apply_ite State.io]
@[simp] theorem swPut_keeps (s : State) (w : Nat) (v : Word) :
    (swPut s w v).pending = s.pending ∧ (swPut s w v).io = s.io := by
  unfold swPut
  simp [foldl_pending, foldl_io, apply_ite State.pending, apply_ite State.io]
@[simp] theorem filtPut_keeps (s : State) (p : Nat) (v : Bool) :
    (filtPut s p v).pending = s.pending ∧ (filtPut s p v).io = s.io := by
  unfold filtPut
  simp [foldl_pending, foldl_io, apply_ite State.pending, apply_ite State.io]
@[simp] theorem filtFollow_keeps (s : State) (p : Nat) (w : Bool) :
    (filtFollow s p w).pending = s.pending ∧ (filtFollow s p w).io = s.io := by
  unfold filtFollow
  simp [foldl_pending, foldl_io, apply_ite State.pending, apply_ite State.io]
@[simp] theorem srcCfgWrite_keeps (s : State) (x : Nat) (v : Word) :
    (srcCfgWrite s x v).pending = s.pending ∧ (srcCfgWrite s x v).io = s.io := by
  unfold srcCfgWrite
  simp [foldl_pending, foldl_io, apply_ite State.pending, apply_ite State.io]
@[simp] theorem hubCtlWrite_keeps (s : State) (v : Word) :
    (hubCtlWrite s v).pending = s.pending ∧ (hubCtlWrite s v).io = s.io := by
  unfold hubCtlWrite
  simp [foldl_pending, foldl_io, apply_ite State.pending, apply_ite State.io]

-- Trace
@[simp] theorem trcSet_keeps (s : State) (k : Nat) (t : Trc) :
    (trcSet s k t).pending = s.pending ∧ (trcSet s k t).io = s.io := by
  unfold trcSet
  simp [foldl_pending, foldl_io, apply_ite State.pending, apply_ite State.io]
@[simp] theorem trcPut_keeps (s : State) (k typ eng sub : Nat) (w1 w2 w3 : Word) :
    (trcPut s k typ eng sub w1 w2 w3).pending = s.pending ∧ (trcPut s k typ eng sub w1 w2 w3).io = s.io := by
  unfold trcPut
  simp [foldl_pending, foldl_io, apply_ite State.pending, apply_ite State.io]
@[simp] theorem trcAccess_keeps (s : State) (n : Nat) (store : Bool) (a : Word) (size : Nat) (v : W128) :
    (trcAccess s n store a size v).pending = s.pending ∧ (trcAccess s n store a size v).io = s.io := by
  unfold trcAccess
  simp [foldl_pending, foldl_io, apply_ite State.pending, apply_ite State.io]
@[simp] theorem trcCtx_keeps (s : State) (n sub idx : Nat) (cseq w3 : Word) :
    (trcCtx s n sub idx cseq w3).pending = s.pending ∧ (trcCtx s n sub idx cseq w3).io = s.io := by
  unfold trcCtx
  simp [foldl_pending, foldl_io, apply_ite State.pending, apply_ite State.io]
@[simp] theorem trcEngMark_keeps (s : State) (n typ bit sub : Nat) (w1 w2 w3 : Word) :
    (trcEngMark s n typ bit sub w1 w2 w3).pending = s.pending ∧ (trcEngMark s n typ bit sub w1 w2 w3).io = s.io := by
  unfold trcEngMark
  simp [foldl_pending, foldl_io, apply_ite State.pending, apply_ite State.io]
@[simp] theorem trcTick_keeps (s : State) (k sub : Nat) (v : W64) :
    (trcTick s k sub v).pending = s.pending ∧ (trcTick s k sub v).io = s.io := by
  unfold trcTick
  simp [foldl_pending, foldl_io, apply_ite State.pending, apply_ite State.io]
@[simp] theorem trcWake_keeps (s : State) (n : Nat) :
    (trcWake s n).pending = s.pending ∧ (trcWake s n).io = s.io := by
  unfold trcWake
  simp [foldl_pending, foldl_io, apply_ite State.pending, apply_ite State.io]
@[simp] theorem parityRecord_keeps (s : State) (mem idx entry : Nat) :
    (parityRecord s mem idx entry).pending = s.pending ∧ (parityRecord s mem idx entry).io = s.io := by
  unfold parityRecord
  simp [foldl_pending, foldl_io, apply_ite State.pending, apply_ite State.io]
@[simp] theorem sinkTake_keeps (s : State) (k : Nat) (r : W128) (rest : List W128) :
    (sinkTake s k r rest).pending = s.pending ∧ (sinkTake s k r rest).io = s.io := by
  unfold sinkTake
  simp [foldl_pending, foldl_io, apply_ite State.pending, apply_ite State.io]
@[simp] theorem trcAfterDrain_keeps (s : State) (k : Nat) :
    (trcAfterDrain s k).pending = s.pending ∧ (trcAfterDrain s k).io = s.io := by
  unfold trcAfterDrain
  simp [foldl_pending, foldl_io, apply_ite State.pending, apply_ite State.io]
@[simp] theorem trcDrain_keeps (s : State) (k : Nat) (parityFail : Bool) :
    (trcDrain s k parityFail).pending = s.pending ∧ (trcDrain s k parityFail).io = s.io := by
  unfold trcDrain
  dsimp only
  (repeat' split) <;> simp_all [foldl_pending, foldl_io, apply_ite State.pending, apply_ite State.io]
@[simp] theorem trcCtlWrite_keeps (s : State) (k : Nat) (v : Word) :
    (trcCtlWrite s k v).pending = s.pending ∧ (trcCtlWrite s k v).io = s.io := by
  unfold trcCtlWrite
  simp [foldl_pending, foldl_io, apply_ite State.pending, apply_ite State.io]
@[simp] theorem freezeStep_keeps (s z : State) :
    (freezeStep s z).pending = z.pending ∧ (freezeStep s z).io = z.io := by
  unfold freezeStep
  try dsimp only
  (repeat' split) <;> (constructor <;> (repeat' (first | rfl | (rw [forNats_pending]; rotate_left; intro z q; try dsimp only) | (rw [forNats_io]; rotate_left; intro z q; try dsimp only) | (rw [foldl_pending]; rotate_left; intro z q; try dsimp only) | (rw [foldl_io]; rotate_left; intro z q; try dsimp only) | split | simp)))
@[simp] theorem trcFlush_keeps (n k : Nat) (s : State) :
    (trcFlush n k s).pending = s.pending ∧ (trcFlush n k s).io = s.io := by
  induction k generalizing s with
  | zero => exact ⟨rfl, rfl⟩
  | succ k ih => unfold trcFlush; split <;> simp [ih]

-- Store
@[simp] theorem tileSpoil_keeps (s : State) (cls inst tile : Nat) :
    (tileSpoil s cls inst tile).pending = s.pending ∧ (tileSpoil s cls inst tile).io = s.io := by
  unfold tileSpoil
  simp [foldl_pending, foldl_io, apply_ite State.pending, apply_ite State.io]
@[simp] theorem tileCure_keeps (s : State) (cls inst tile : Nat) :
    (tileCure s cls inst tile).pending = s.pending ∧ (tileCure s cls inst tile).io = s.io := by
  unfold tileCure
  simp [foldl_pending, foldl_io, apply_ite State.pending, apply_ite State.io]
@[simp] theorem tileDetect_keeps (s : State) (cls inst tile reader : Nat) :
    (tileDetect s cls inst tile reader).pending = s.pending ∧ (tileDetect s cls inst tile reader).io = s.io := by
  unfold tileDetect
  simp [foldl_pending, foldl_io, apply_ite State.pending, apply_ite State.io]
@[simp] theorem recPut1_keeps (s : State) (i : Nat) (r : Rec) :
    (recPut1 s i r).pending = s.pending ∧ (recPut1 s i r).io = s.io := by
  unfold recPut1
  simp [foldl_pending, foldl_io, apply_ite State.pending, apply_ite State.io]
@[simp] theorem halfPut1_keeps (s : State) (half : Nat) (bs : List Byte) (j : Nat) :
    (halfPut1 s half bs j).pending = s.pending ∧ (halfPut1 s half bs j).io = s.io := by
  unfold halfPut1
  simp [foldl_pending, foldl_io, apply_ite State.pending, apply_ite State.io]
@[simp] theorem halfPut_keeps (s : State) (i half : Nat) (bs : List Byte) :
    (halfPut s i half bs).pending = s.pending ∧ (halfPut s i half bs).io = s.io := by
  unfold halfPut
  simp [foldl_pending, foldl_io, apply_ite State.pending, apply_ite State.io]
@[simp] theorem ctlPut1_keeps (s : State) (i : Nat) (c : Word) :
    (ctlPut1 s i c).pending = s.pending ∧ (ctlPut1 s i c).io = s.io := by
  unfold ctlPut1
  simp [foldl_pending, foldl_io, apply_ite State.pending, apply_ite State.io]
@[simp] theorem ctlPut_keeps (s : State) (i : Nat) (c : Word) :
    (ctlPut s i c).pending = s.pending ∧ (ctlPut s i c).io = s.io := by
  unfold ctlPut
  simp [foldl_pending, foldl_io, apply_ite State.pending, apply_ite State.io]
@[simp] theorem recTileRead_keeps (s : State) (i t reader : Nat) :
    (recTileRead s i t reader).2.pending = s.pending ∧ (recTileRead s i t reader).2.io = s.io := by
  unfold recTileRead
  dsimp only
  (repeat' split) <;> simp_all [foldl_pending, foldl_io, apply_ite State.pending, apply_ite State.io]
@[simp] theorem copyMerge_keeps (s0 : State) (t reader : Nat) (f alt : Rec → Rec) (seen : Nat) (s : State) (j : Nat) :
    (copyMerge s0 t reader f alt seen s j).pending = s.pending ∧ (copyMerge s0 t reader f alt seen s j).io = s.io := by
  unfold copyMerge
  dsimp only
  (repeat' split) <;> simp [recPut1]
@[simp] theorem recMerge_keeps (s : State) (i t reader : Nat) (f alt : Rec → Rec) :
    (recMerge s i t reader f alt).2.pending = s.pending ∧ (recMerge s i t reader f alt).2.io = s.io := by
  unfold recMerge
  dsimp only
  split <;> simp [foldl_pending, foldl_io]
@[simp] theorem recPutPart_keeps (s : State) (i t reader : Nat) (f : Rec → Rec) :
    (recPutPart s i t reader f).pending = s.pending ∧ (recPutPart s i t reader f).io = s.io := by
  unfold recPutPart
  dsimp only
  split <;> simp
@[simp] theorem lockFreeBy_keeps (s : State) (i reader : Nat) (f : Rec → Rec) :
    (lockFreeBy s i reader f).pending = s.pending ∧ (lockFreeBy s i reader f).io = s.io := by
  unfold lockFreeBy
  simp [foldl_pending, foldl_io, apply_ite State.pending, apply_ite State.io]
@[simp] theorem lockFree_keeps (s : State) (i : Nat) :
    (lockFree s i).pending = s.pending ∧ (lockFree s i).io = s.io := by
  unfold lockFree
  simp [foldl_pending, foldl_io, apply_ite State.pending, apply_ite State.io]
@[simp] theorem locksRelease_keeps (s : State) (n : Nat) :
    (locksRelease s n).pending = s.pending ∧ (locksRelease s n).io = s.io := by
  unfold locksRelease
  simp [foldl_pending, foldl_io, apply_ite State.pending, apply_ite State.io]
@[simp] theorem pubMark_keeps (s : State) (i : Nat) :
    (pubMark s i).pending = s.pending ∧ (pubMark s i).io = s.io := by
  unfold pubMark
  simp [foldl_pending, foldl_io, apply_ite State.pending, apply_ite State.io]
@[simp] theorem pubTileWrite_keeps (s : State) (i : Nat) (f : Rec → Rec) :
    (pubTileWrite s i f).pending = s.pending ∧ (pubTileWrite s i f).io = s.io := by
  unfold pubTileWrite
  simp [foldl_pending, foldl_io, apply_ite State.pending, apply_ite State.io]
@[simp] theorem ctxSkip_keeps (s : State) (i : Nat) :
    (ctxSkip s i).pending = s.pending ∧ (ctxSkip s i).io = s.io := by
  unfold ctxSkip
  simp [foldl_pending, foldl_io, apply_ite State.pending, apply_ite State.io]
@[simp] theorem ctlRewrite_keeps (s : State) (i : Nat) :
    (ctlRewrite s i).pending = s.pending ∧ (ctlRewrite s i).io = s.io := by
  unfold ctlRewrite
  simp [foldl_pending, foldl_io, apply_ite State.pending, apply_ite State.io]

-- Cells
@[simp] theorem qCount_keeps (s : State) (n off k : Nat) :
    (qCount s n off k).pending = s.pending ∧ (qCount s n off k).io = s.io := by
  unfold qCount
  simp [foldl_pending, foldl_io, apply_ite State.pending, apply_ite State.io]
@[simp] theorem listMaxNote_keeps (s : State) (n : Nat) :
    (listMaxNote s n).pending = s.pending ∧ (listMaxNote s n).io = s.io := by
  unfold listMaxNote
  simp [foldl_pending, foldl_io, apply_ite State.pending, apply_ite State.io]
@[simp] theorem inqPut_keeps (s : State) (n : Nat) (q : QCell) :
    (inqPut s n q).pending = s.pending ∧ (inqPut s n q).io = s.io := by
  unfold inqPut
  simp [foldl_pending, foldl_io, apply_ite State.pending, apply_ite State.io]
@[simp] theorem flyTo_keeps (s : State) (dest : Nat) (c : OCell) :
    (flyTo s dest c).pending = s.pending ∧ (flyTo s dest c).io = s.io := by
  unfold flyTo
  simp [foldl_pending, foldl_io, apply_ite State.pending, apply_ite State.io]
@[simp] theorem flyOut_keeps (s : State) (dest : Nat) (c : OCell) :
    (flyOut s dest c).pending = s.pending ∧ (flyOut s dest c).io = s.io := by
  unfold flyOut
  simp [foldl_pending, foldl_io, apply_ite State.pending, apply_ite State.io]
@[simp] theorem flyRest_keeps (s : State) (l : List Flight) :
    (flyRest s l).pending = s.pending ∧ (flyRest s l).io = s.io := by
  unfold flyRest
  simp [foldl_pending, foldl_io, apply_ite State.pending, apply_ite State.io]
@[simp] theorem routeLocal_keeps (s : State) (o : OCell) :
    (routeLocal s o).pending = s.pending ∧ (routeLocal s o).io = s.io := by
  unfold routeLocal
  dsimp only
  (repeat' split) <;> simp_all [foldl_pending, foldl_io, apply_ite State.pending, apply_ite State.io]
@[simp] theorem routeCell_keeps (s : State) (o : OCell) :
    (routeCell s o).pending = s.pending ∧ (routeCell s o).io = s.io := by
  unfold routeCell
  simp [foldl_pending, foldl_io, apply_ite State.pending, apply_ite State.io]
@[simp] theorem releaseAll_keeps (s : State) (n : Nat) :
    (releaseAll s n).pending = s.pending ∧ (releaseAll s n).io = s.io := by
  unfold releaseAll
  simp [foldl_pending, foldl_io, apply_ite State.pending, apply_ite State.io]
@[simp] theorem dropPending_keeps (s : State) (n : Nat) :
    (dropPending s n).2.pending = s.pending ∧ (dropPending s n).2.io = s.io := by
  unfold dropPending
  simp [foldl_pending, foldl_io, apply_ite State.pending, apply_ite State.io]
@[simp] theorem outqPass_keeps (s : State) (n : Nat) :
    (outqPass s n).pending = s.pending ∧ (outqPass s n).io = s.io := by
  unfold outqPass
  simp [foldl_pending, foldl_io, apply_ite State.pending, apply_ite State.io]
@[simp] theorem outqTake_keeps (s : State) (n : Nat) :
    (outqTake s n).2.pending = s.pending ∧ (outqTake s n).2.io = s.io := by
  unfold outqTake
  simp [foldl_pending, foldl_io, apply_ite State.pending, apply_ite State.io]
@[simp] theorem rotAfter_keeps (s : State) (k n : Nat) :
    (rotAfter s k n).pending = s.pending ∧ (rotAfter s k n).io = s.io := by
  unfold rotAfter
  simp [foldl_pending, foldl_io, apply_ite State.pending, apply_ite State.io]
@[simp] theorem parityDrop_keeps (s : State) (id pos : Nat) :
    (parityDrop s id pos).pending = s.pending ∧ (parityDrop s id pos).io = s.io := by
  unfold parityDrop
  simp [foldl_pending, foldl_io, apply_ite State.pending, apply_ite State.io]
@[simp] theorem inqParity_keeps (s : State) (n : Nat) :
    (inqParity s n).pending = s.pending ∧ (inqParity s n).io = s.io := by
  unfold inqParity
  simp [foldl_pending, foldl_io, apply_ite State.pending, apply_ite State.io]
@[simp] theorem inqPop_keeps (s : State) (n k : Nat) :
    (inqPop s n k).pending = s.pending ∧ (inqPop s n k).io = s.io := by
  unfold inqPop
  simp [foldl_pending, foldl_io, apply_ite State.pending, apply_ite State.io]
@[simp] theorem listDrop_keeps (s : State) (n pos : Nat) :
    (listDrop s n pos).pending = s.pending ∧ (listDrop s n pos).io = s.io := by
  unfold listDrop
  simp [foldl_pending, foldl_io, apply_ite State.pending, apply_ite State.io]
@[simp] theorem arrParity_keeps (s : State) (n : Nat) :
    (arrParity s n).pending = s.pending ∧ (arrParity s n).io = s.io := by
  unfold arrParity
  simp [foldl_pending, foldl_io, apply_ite State.pending, apply_ite State.io]
@[simp] theorem arrFresh_keeps (s : State) (n : Nat) :
    (arrFresh s n).pending = s.pending ∧ (arrFresh s n).io = s.io := by
  unfold arrFresh
  simp [foldl_pending, foldl_io, apply_ite State.pending, apply_ite State.io]
@[simp] theorem inqWait_keeps (s : State) (n : Nat) :
    (inqWait s n).pending = s.pending ∧ (inqWait s n).io = s.io := by
  unfold inqWait
  simp [foldl_pending, foldl_io, apply_ite State.pending, apply_ite State.io]
theorem nextEntry_keeps {s : State} {n : Nat} {q : Bool × Nat × State} (h : nextEntry s n = some q) :
    q.2.2.pending = s.pending ∧ q.2.2.io = s.io := by
  unfold nextEntry at h
  extract_lets s1 e arrival scan at h
  have h1 : s1.pending = s.pending ∧ s1.io = s.io := by unfold s1; simp
  have ha : ∀ q, arrival = some q → q.2.2.pending = s.pending ∧ q.2.2.io = s.io := by
    intro q hq; unfold arrival at hq; split at hq
    · cases hq
    · cases hq; simpa using h1
  have hs : ∀ q, scan = some q → q.2.2.pending = s.pending ∧ q.2.2.io = s.io := by
    intro q hq; unfold scan at hq; split at hq
    · cases hq
    · cases hq; simpa using h1
  split at h
  · cases h
  · split at h
    · rcases hq : arrival with _ | q'
      · rw [hq] at h; exact hs q h
      · rw [hq] at h; cases h; exact ha _ hq
    · rcases hq : scan with _ | q'
      · rw [hq] at h; exact ha q h
      · rw [hq] at h; cases h; exact hs _ hq
@[simp] theorem engSweep_keeps (s : State) (n : Nat) :
    (engSweep s n).pending = s.pending ∧ (engSweep s n).io = s.io := by
  unfold engSweep
  simp [foldl_pending, foldl_io, apply_ite State.pending, apply_ite State.io]
@[simp] theorem agedAdd_keeps (s : State) (q k : Nat) :
    (agedAdd s q k).pending = s.pending ∧ (agedAdd s q k).io = s.io := by
  unfold agedAdd
  simp [foldl_pending, foldl_io, apply_ite State.pending, apply_ite State.io]
@[simp] theorem gwqFilter_keeps (s : State) (keep : W128 → Bool) :
    (gwqFilter s keep).pending = s.pending ∧ (gwqFilter s keep).io = s.io := by
  unfold gwqFilter
  simp [foldl_pending, foldl_io, apply_ite State.pending, apply_ite State.io]
@[simp] theorem lateFilter_keeps (s : State) (keep : W128 → Bool) :
    (lateFilter s keep).pending = s.pending ∧ (lateFilter s keep).io = s.io := by
  unfold lateFilter
  simp [foldl_pending, foldl_io, apply_ite State.pending, apply_ite State.io]
@[simp] theorem sweepAll_keeps (s : State) :
    (sweepAll s).pending = s.pending ∧ (sweepAll s).io = s.io := by
  unfold sweepAll
  simp [foldl_pending, foldl_io, apply_ite State.pending, apply_ite State.io]
@[simp] theorem emptyQueues_keeps (s : State) :
    (emptyQueues s).pending = s.pending ∧ (emptyQueues s).io = s.io := by
  unfold emptyQueues
  simp [foldl_pending, foldl_io, apply_ite State.pending, apply_ite State.io]
@[simp] theorem hostqPut_keeps (s : State) (c : W128) :
    (hostqPut s c).pending = s.pending ∧ (hostqPut s c).io = s.io := by
  unfold hostqPut
  simp [foldl_pending, foldl_io, apply_ite State.pending, apply_ite State.io]
@[simp] theorem hostqPop_keeps (s : State) :
    (hostqPop s).pending = s.pending ∧ (hostqPop s).io = s.io := by
  unfold hostqPop
  dsimp only
  (repeat' split) <;> simp_all [foldl_pending, foldl_io, apply_ite State.pending, apply_ite State.io]
@[simp] theorem hostqParity_keeps (s : State) :
    (hostqParity s).pending = s.pending ∧ (hostqParity s).io = s.io := by
  unfold hostqParity
  try dsimp only
  (repeat' split) <;> simp_all [foldl_pending, foldl_io, apply_ite State.pending, apply_ite State.io]

-- Publication
@[simp] theorem dramPut_keeps (s : State) (stream a : Nat) (bs : List Byte) :
    (dramPut s stream a bs).pending = s.pending ∧ (dramPut s stream a bs).io = s.io := by
  unfold dramPut
  simp [foldl_pending, foldl_io, apply_ite State.pending, apply_ite State.io]
@[simp] theorem pubClear_keeps (s : State) (b i : Nat) :
    (pubClear s b i).pending = s.pending ∧ (pubClear s b i).io = s.io := by
  unfold pubClear
  simp [foldl_pending, foldl_io, apply_ite State.pending, apply_ite State.io]
@[simp] theorem pubAccept_keeps (s : State) (c : W128) :
    (pubAccept s c).pending = s.pending ∧ (pubAccept s c).io = s.io := by
  unfold pubAccept
  simp [foldl_pending, foldl_io, apply_ite State.pending, apply_ite State.io]
@[simp] theorem pubArrive_keeps (s : State) (o : OCell) :
    (pubArrive s o).pending = s.pending ∧ (pubArrive s o).io = s.io := by
  unfold pubArrive
  simp [foldl_pending, foldl_io, apply_ite State.pending, apply_ite State.io]
@[simp] theorem lateAccept_keeps (s : State) (bad : List Nat) :
    (lateAccept s bad).pending = s.pending ∧ (lateAccept s bad).io = s.io := by
  unfold lateAccept
  try dsimp only
  constructor <;> (repeat' (first | rfl | (apply forNats_pending; intro z q) | (apply forNats_io; intro z q) | (rw [foldl_pending]; rotate_left; intro z q) | (rw [foldl_io]; rotate_left; intro z q) | split | simp)) <;> simp_all
@[simp] theorem pubDone_keeps (s : State) :
    (pubDone s).pending = s.pending ∧ (pubDone s).io = s.io := by
  unfold pubDone
  simp [foldl_pending, foldl_io, apply_ite State.pending, apply_ite State.io]
@[simp] theorem pubEdgeEnd_keeps (s : State) :
    (pubEdgeEnd s).pending = s.pending ∧ (pubEdgeEnd s).io = s.io := by
  unfold pubEdgeEnd
  simp [foldl_pending, foldl_io, apply_ite State.pending, apply_ite State.io]
@[simp] theorem pubEdgeStart_keeps (s : State) (t : W64) :
    (pubEdgeStart s t).pending = s.pending ∧ (pubEdgeStart s t).io = s.io := by
  unfold pubEdgeStart
  simp [foldl_pending, foldl_io, apply_ite State.pending, apply_ite State.io]
@[simp] theorem pubWrite_keeps (s : State) (i : Nat) :
    (pubWrite s i).pending = s.pending ∧ (pubWrite s i).io = s.io := by
  unfold pubWrite
  simp [foldl_pending, foldl_io, apply_ite State.pending, apply_ite State.io]
@[simp] theorem pubMsNote_keeps (s : State) :
    (pubMsNote s).pending = s.pending ∧ (pubMsNote s).io = s.io := by
  unfold pubMsNote
  simp [foldl_pending, foldl_io, apply_ite State.pending, apply_ite State.io]
@[simp] theorem histAccept_keeps (s : State) (c : W128) :
    (histAccept s c).pending = s.pending ∧ (histAccept s c).io = s.io := by
  unfold histAccept
  simp [foldl_pending, foldl_io, apply_ite State.pending, apply_ite State.io]

-- Moths
@[simp] theorem mothSet_keeps (s : State) (m : Nat) (v : Moth) :
    (mothSet s m v).pending = s.pending ∧ (mothSet s m v).io = s.io := by
  unfold mothSet
  simp [foldl_pending, foldl_io, apply_ite State.pending, apply_ite State.io]
@[simp] theorem mothMap_keeps (s : State) (m : Nat) (f : Moth → Moth) :
    (mothMap s m f).pending = s.pending ∧ (mothMap s m f).io = s.io := by
  unfold mothMap
  simp [foldl_pending, foldl_io, apply_ite State.pending, apply_ite State.io]
@[simp] theorem syncPut_keeps (s : State) (p : Nat) (v : Bool) :
    (syncPut s p v).pending = s.pending ∧ (syncPut s p v).io = s.io := by
  unfold syncPut
  simp [foldl_pending, foldl_io, apply_ite State.pending, apply_ite State.io]
@[simp] theorem mothSync_keeps (s : State) (m k : Nat) (v : Bool) :
    (mothSync s m k v).pending = s.pending ∧ (mothSync s m k v).io = s.io := by
  unfold mothSync
  try dsimp only
  (repeat' split) <;> simp_all [foldl_pending, foldl_io, apply_ite State.pending, apply_ite State.io]
@[simp] theorem mothSyncAll_keeps (s : State) (m : Nat) (levels : Byte) :
    (mothSyncAll s m levels).pending = s.pending ∧ (mothSyncAll s m levels).io = s.io := by
  unfold mothSyncAll
  try dsimp only
  (repeat' split) <;> simp_all [foldl_pending, foldl_io, apply_ite State.pending, apply_ite State.io]
@[simp] theorem padsSet_keeps (s : State) (p : Nat) (v : Option Bool) :
    (padsSet s p v).pending = s.pending ∧ (padsSet s p v).io = s.io := by
  unfold padsSet
  simp [foldl_pending, foldl_io, apply_ite State.pending, apply_ite State.io]
@[simp] theorem padNote_keeps (s : State) (p : Nat) :
    (padNote s p).pending = s.pending ∧ (padNote s p).io = s.io := by
  unfold padNote
  try dsimp only
  (repeat' split) <;> simp_all [foldl_pending, foldl_io, apply_ite State.pending, apply_ite State.io]
@[simp] theorem padsNote_keeps (s : State) :
    (padsNote s).pending = s.pending ∧ (padsNote s).io = s.io := by
  unfold padsNote
  simp [foldl_pending, foldl_io, apply_ite State.pending, apply_ite State.io]
@[simp] theorem padCount_keeps (s : State) :
    (padCount s).pending = s.pending ∧ (padCount s).io = s.io := by
  unfold padCount
  simp [foldl_pending, foldl_io, apply_ite State.pending, apply_ite State.io]
@[simp] theorem padGo_keeps (s : State) :
    (padGo s).pending = s.pending ∧ (padGo s).io = s.io := by
  unfold padGo
  simp [foldl_pending, foldl_io, apply_ite State.pending, apply_ite State.io]
@[simp] theorem pinCfgWrite_keeps (s : State) (p : Nat) (v : Word) :
    (pinCfgWrite s p v).pending = s.pending ∧ (pinCfgWrite s p v).io = s.io := by
  unfold pinCfgWrite
  simp [foldl_pending, foldl_io, apply_ite State.pending, apply_ite State.io]
@[simp] theorem gwSet_keeps (s : State) (b : Nat) (q : List OCell) :
    (gwSet s b q).pending = s.pending ∧ (gwSet s b q).io = s.io := by
  unfold gwSet
  simp [foldl_pending, foldl_io, apply_ite State.pending, apply_ite State.io]
@[simp] theorem gwMake_keeps (s : State) (m : Nat) (w : Word) :
    (gwMake s m w).pending = s.pending ∧ (gwMake s m w).io = s.io := by
  unfold gwMake
  simp [foldl_pending, foldl_io, apply_ite State.pending, apply_ite State.io]
@[simp] theorem gwSample_keeps (s : State) (m : Nat) :
    (gwSample s m).pending = s.pending ∧ (gwSample s m).io = s.io := by
  unfold gwSample
  simp [foldl_pending, foldl_io, apply_ite State.pending, apply_ite State.io]
@[simp] theorem gwTakeWord_keeps (s : State) (m : Nat) :
    (gwTakeWord s m).pending = s.pending ∧ (gwTakeWord s m).io = s.io := by
  unfold gwTakeWord
  try dsimp only
  (repeat' split) <;> simp_all [foldl_pending, foldl_io, apply_ite State.pending, apply_ite State.io]
@[simp] theorem gwTakeAll_keeps (s : State) (m : Nat) :
    (gwTakeAll s m).pending = s.pending ∧ (gwTakeAll s m).io = s.io := by
  unfold gwTakeAll
  try dsimp only
  (repeat' split) <;> simp_all [foldl_pending, foldl_io, apply_ite State.pending, apply_ite State.io]
@[simp] theorem gwServe_keeps (s : State) (b : Nat) :
    (gwServe s b).pending = s.pending ∧ (gwServe s b).io = s.io := by
  unfold gwServe
  try dsimp only
  (repeat' split) <;> simp_all [foldl_pending, foldl_io, apply_ite State.pending, apply_ite State.io]
@[simp] theorem gwServeAll_keeps (s : State) (b : Nat) :
    (gwServeAll s b).pending = s.pending ∧ (gwServeAll s b).io = s.io := by
  unfold gwServeAll
  simp [foldl_pending, foldl_io, apply_ite State.pending, apply_ite State.io]
@[simp] theorem gwArrive_keeps (s : State) (b : Nat) (c : W128) :
    (gwArrive s b c).pending = s.pending ∧ (gwArrive s b c).io = s.io := by
  unfold gwArrive
  try dsimp only
  (repeat' split) <;> simp_all [foldl_pending, foldl_io, apply_ite State.pending, apply_ite State.io]
@[simp] theorem mothOut_keeps (s : State) (m k : Nat) (v : Bool) :
    (mothOut s m k v).pending = s.pending ∧ (mothOut s m k v).io = s.io := by
  unfold mothOut
  try dsimp only
  (repeat' split) <;> simp_all [foldl_pending, foldl_io, apply_ite State.pending, apply_ite State.io]
@[simp] theorem mothDriveMask_keeps (s : State) (m : Nat) (mask v : Nat) :
    (mothDriveMask s m mask v).pending = s.pending ∧ (mothDriveMask s m mask v).io = s.io := by
  unfold mothDriveMask
  simp [foldl_pending, foldl_io, apply_ite State.pending, apply_ite State.io]
@[simp] theorem sideDrive_keeps (s : State) (m : Nat) (i : BitVec 24) :
    (sideDrive s m i).pending = s.pending ∧ (sideDrive s m i).io = s.io := by
  unfold sideDrive
  simp [foldl_pending, foldl_io, apply_ite State.pending, apply_ite State.io]
@[simp] theorem shoutBit_keeps (s : State) (m : Nat) :
    (shoutBit s m).pending = s.pending ∧ (shoutBit s m).io = s.io := by
  unfold shoutBit
  simp [foldl_pending, foldl_io, apply_ite State.pending, apply_ite State.io]
@[simp] theorem shinBit_keeps (s : State) (m : Nat) (b : Bool) :
    (shinBit s m b).pending = s.pending ∧ (shinBit s m b).io = s.io := by
  unfold shinBit
  try dsimp only
  (repeat' split) <;> simp_all [foldl_pending, foldl_io, apply_ite State.pending, apply_ite State.io]
@[simp] theorem shiftDone_keeps (s : State) (m left k : Nat) :
    (shiftDone s m left k).pending = s.pending ∧ (shiftDone s m left k).io = s.io := by
  unfold shiftDone
  simp [foldl_pending, foldl_io, apply_ite State.pending, apply_ite State.io]
@[simp] theorem shoutRun_keeps (s : State) (m cyc : Nat) :
    (shoutRun s m cyc).pending = s.pending ∧ (shoutRun s m cyc).io = s.io := by
  unfold shoutRun
  try dsimp only
  (repeat' split) <;> simp_all [foldl_pending, foldl_io, apply_ite State.pending, apply_ite State.io]
@[simp] theorem shinRun_keeps (s : State) (m : Nat) (bits : List Bool) :
    (shinRun s m bits).pending = s.pending ∧ (shinRun s m bits).io = s.io := by
  unfold shinRun
  try dsimp only
  (repeat' split) <;> simp_all [foldl_pending, foldl_io, apply_ite State.pending, apply_ite State.io]
@[simp] theorem edgeMet_keeps (s : State) (m : Nat) :
    (edgeMet s m).pending = s.pending ∧ (edgeMet s m).io = s.io := by
  unfold edgeMet
  simp [foldl_pending, foldl_io, apply_ite State.pending, apply_ite State.io]
@[simp] theorem heldEdgeMet_keeps (s : State) (m : Nat) :
    (heldEdgeMet s m).pending = s.pending ∧ (heldEdgeMet s m).io = s.io := by
  unfold heldEdgeMet
  simp [foldl_pending, foldl_io, apply_ite State.pending, apply_ite State.io]
@[simp] theorem edgeTimeout_keeps (s : State) (m : Nat) :
    (edgeTimeout s m).pending = s.pending ∧ (edgeTimeout s m).io = s.io := by
  unfold edgeTimeout
  simp [foldl_pending, foldl_io, apply_ite State.pending, apply_ite State.io]
@[simp] theorem countEnd_keeps (s : State) (m : Nat) :
    (countEnd s m).pending = s.pending ∧ (countEnd s m).io = s.io := by
  unfold countEnd
  simp [foldl_pending, foldl_io, apply_ite State.pending, apply_ite State.io]
@[simp] theorem heldCountEnd_keeps (s : State) (m : Nat) :
    (heldCountEnd s m).pending = s.pending ∧ (heldCountEnd s m).io = s.io := by
  unfold heldCountEnd
  simp [foldl_pending, foldl_io, apply_ite State.pending, apply_ite State.io]
@[simp] theorem queueServe_keeps (s : State) (m : Nat) :
    (queueServe s m).pending = s.pending ∧ (queueServe s m).io = s.io := by
  unfold queueServe
  try dsimp only
  (repeat' split) <;> simp_all [foldl_pending, foldl_io, apply_ite State.pending, apply_ite State.io]
@[simp] theorem queueStart_keeps (s : State) (m : Nat) :
    (queueStart s m).pending = s.pending ∧ (queueStart s m).io = s.io := by
  unfold queueStart
  dsimp only
  (repeat' split) <;> simp_all [foldl_pending, foldl_io, apply_ite State.pending, apply_ite State.io]
@[simp] theorem edgeStart_keeps (s : State) (m : Nat) (i : BitVec 24) :
    (edgeStart s m i).pending = s.pending ∧ (edgeStart s m i).io = s.io := by
  unfold edgeStart
  simp [foldl_pending, foldl_io, apply_ite State.pending, apply_ite State.io]
@[simp] theorem countStart_keeps (s : State) (m : Nat) (i : BitVec 24) :
    (countStart s m i).pending = s.pending ∧ (countStart s m i).io = s.io := by
  unfold countStart
  simp [foldl_pending, foldl_io, apply_ite State.pending, apply_ite State.io]
@[simp] theorem driveRun_keeps (s : State) (m : Nat) (i : BitVec 24) :
    (driveRun s m i).pending = s.pending ∧ (driveRun s m i).io = s.io := by
  unfold driveRun
  simp [foldl_pending, foldl_io, apply_ite State.pending, apply_ite State.io]
@[simp] theorem toggleRun_keeps (s : State) (m : Nat) (i : BitVec 24) (out : Byte) :
    (toggleRun s m i out).pending = s.pending ∧ (toggleRun s m i out).io = s.io := by
  unfold toggleRun
  simp [foldl_pending, foldl_io, apply_ite State.pending, apply_ite State.io]
@[simp] theorem sampleRun_keeps (s : State) (m : Nat) :
    (sampleRun s m).pending = s.pending ∧ (sampleRun s m).io = s.io := by
  unfold sampleRun
  simp [foldl_pending, foldl_io, apply_ite State.pending, apply_ite State.io]
@[simp] theorem mothStart_keeps (s : State) (m : Nat) (i : BitVec 24) :
    (mothStart s m i).pending = s.pending ∧ (mothStart s m i).io = s.io := by
  unfold mothStart
  dsimp only
  (repeat' split) <;> simp_all [foldl_pending, foldl_io, apply_ite State.pending, apply_ite State.io]
@[simp] theorem mothStop_keeps (s : State) (m : Nat) :
    (mothStop s m).pending = s.pending ∧ (mothStop s m).io = s.io := by
  unfold mothStop
  simp [foldl_pending, foldl_io, apply_ite State.pending, apply_ite State.io]
@[simp] theorem mothTick_keeps (s : State) (m : Nat) :
    (mothTick s m).pending = s.pending ∧ (mothTick s m).io = s.io := by
  unfold mothTick
  simp [foldl_pending, foldl_io, apply_ite State.pending, apply_ite State.io]
@[simp] theorem mothExec_keeps (s : State) (m k : Nat) :
    (mothExec s m k).pending = s.pending ∧ (mothExec s m k).io = s.io := by
  unfold mothExec
  simp [foldl_pending, foldl_io, apply_ite State.pending, apply_ite State.io]
@[simp] theorem mothCtlWrite_keeps (s : State) (m : Nat) (v : Word) :
    (mothCtlWrite s m v).pending = s.pending ∧ (mothCtlWrite s m v).io = s.io := by
  unfold mothCtlWrite
  try dsimp only
  (repeat' split) <;> simp_all [foldl_pending, foldl_io, apply_ite State.pending, apply_ite State.io]
@[simp] theorem mothOffWrite_keeps (s : State) (m : Nat) (f : Moth → Moth) :
    (mothOffWrite s m f).pending = s.pending ∧ (mothOffWrite s m f).io = s.io := by
  unfold mothOffWrite
  simp [foldl_pending, foldl_io, apply_ite State.pending, apply_ite State.io]
@[simp] theorem mothPinsWrite_keeps (s : State) (m : Nat) (v : Word) :
    (mothPinsWrite s m v).pending = s.pending ∧ (mothPinsWrite s m v).io = s.io := by
  unfold mothPinsWrite
  simp [foldl_pending, foldl_io, apply_ite State.pending, apply_ite State.io]
@[simp] theorem mothImemPut_keeps (s : State) (m i : Nat) (v : Word) :
    (mothImemPut s m i v).pending = s.pending ∧ (mothImemPut s m i v).io = s.io := by
  unfold mothImemPut
  simp [foldl_pending, foldl_io, apply_ite State.pending, apply_ite State.io]
@[simp] theorem mothRestartPut_keeps (s : State) (m : Nat) (v : Word) :
    (mothRestartPut s m v).pending = s.pending ∧ (mothRestartPut s m v).io = s.io := by
  unfold mothRestartPut
  simp [foldl_pending, foldl_io, apply_ite State.pending, apply_ite State.io]
@[simp] theorem mothInjPut_keeps (s : State) (m : Nat) (v : Word) :
    (mothInjPut s m v).pending = s.pending ∧ (mothInjPut s m v).io = s.io := by
  unfold mothInjPut
  simp [foldl_pending, foldl_io, apply_ite State.pending, apply_ite State.io]
@[simp] theorem edgeStep3_keeps (s : State) (m : Nat) :
    (edgeStep3 s m).pending = s.pending ∧ (edgeStep3 s m).io = s.io := by
  unfold edgeStep3
  dsimp only
  (repeat' split) <;> simp_all [foldl_pending, foldl_io, apply_ite State.pending, apply_ite State.io]
@[simp] theorem heldWaits_keeps (s : State) (m : Nat) :
    (heldWaits s m).pending = s.pending ∧ (heldWaits s m).io = s.io := by
  unfold heldWaits
  try dsimp only
  (repeat' split) <;> simp_all [foldl_pending, foldl_io, apply_ite State.pending, apply_ite State.io]
@[simp] theorem edgeWaits_keeps (s : State) (m : Nat) :
    (edgeWaits s m).pending = s.pending ∧ (edgeWaits s m).io = s.io := by
  unfold edgeWaits
  simp [foldl_pending, foldl_io, apply_ite State.pending, apply_ite State.io]
@[simp] theorem mothEdge_keeps (s : State) (m : Nat) :
    (mothEdge s m).pending = s.pending ∧ (mothEdge s m).io = s.io := by
  unfold mothEdge
  simp [foldl_pending, foldl_io, apply_ite State.pending, apply_ite State.io]
@[simp] theorem seqFresh_keeps (s : State) (banks : List Nat) :
    (seqFresh s banks).pending = s.pending ∧ (seqFresh s banks).io = s.io := by
  unfold seqFresh
  simp [foldl_pending, foldl_io, apply_ite State.pending, apply_ite State.io]
@[simp] theorem bankEdge_keeps (s : State) (b : Nat) (main : Bool) :
    (bankEdge s b main).pending = s.pending ∧ (bankEdge s b main).io = s.io := by
  unfold bankEdge
  simp [foldl_pending, foldl_io, apply_ite State.pending, apply_ite State.io]
@[simp] theorem mothRemap_keeps (s : State) (a sp : Nat) (fresh : Bool) :
    (mothRemap s a sp fresh).pending = s.pending ∧ (mothRemap s a sp fresh).io = s.io := by
  unfold mothRemap
  simp [foldl_pending, foldl_io, apply_ite State.pending, apply_ite State.io]
@[simp] theorem bankReset_keeps (s : State) (b : Nat) (cfg : Bool) :
    (bankReset s b cfg).pending = s.pending ∧ (bankReset s b cfg).io = s.io := by
  unfold bankReset
  simp [foldl_pending, foldl_io, apply_ite State.pending, apply_ite State.io]
@[simp] theorem extPut_keeps (s : State) (p : Nat) (v : Bool) :
    (extPut s p v).pending = s.pending ∧ (extPut s p v).io = s.io := by
  unfold extPut
  simp [foldl_pending, foldl_io, apply_ite State.pending, apply_ite State.io]
@[simp] theorem edgeSync_keeps (s : State) (m : Nat) (i : BitVec 24) (was : Bool) :
    (edgeSync s m i was).pending = s.pending ∧ (edgeSync s m i was).io = s.io := by
  unfold edgeSync
  simp [foldl_pending, foldl_io, apply_ite State.pending, apply_ite State.io]

-- Sett
@[simp] theorem settMap_keeps (s : State) (f : Sett → Sett) :
    (settMap s f).pending = s.pending ∧ (settMap s f).io = s.io := by
  unfold settMap
  simp [foldl_pending, foldl_io, apply_ite State.pending, apply_ite State.io]
@[simp] theorem batMap_keeps (s : State) (f : Battery → Battery) :
    (batMap s f).pending = s.pending ∧ (batMap s f).io = s.io := by
  unfold batMap
  simp [foldl_pending, foldl_io, apply_ite State.pending, apply_ite State.io]
@[simp] theorem batLost_keeps (s : State) :
    (batLost s).pending = s.pending ∧ (batLost s).io = s.io := by
  unfold batLost
  simp [foldl_pending, foldl_io, apply_ite State.pending, apply_ite State.io]
@[simp] theorem settFlags_keeps (s : State) :
    (settFlags s).pending = s.pending ∧ (settFlags s).io = s.io := by
  unfold settFlags
  simp [foldl_pending, foldl_io, apply_ite State.pending, apply_ite State.io]
@[simp] theorem settFlagsSeen_keeps (s : State) :
    (settFlagsSeen s).pending = s.pending ∧ (settFlagsSeen s).io = s.io := by
  unfold settFlagsSeen
  simp [foldl_pending, foldl_io, apply_ite State.pending, apply_ite State.io]
@[simp] theorem settNotLegal_keeps (s : State) :
    (settNotLegal s).pending = s.pending ∧ (settNotLegal s).io = s.io := by
  unfold settNotLegal
  simp [foldl_pending, foldl_io, apply_ite State.pending, apply_ite State.io]
@[simp] theorem mbxCommit_keeps (s : State) :
    (mbxCommit s).pending = s.pending ∧ (mbxCommit s).io = s.io := by
  unfold mbxCommit
  simp [foldl_pending, foldl_io, apply_ite State.pending, apply_ite State.io]
@[simp] theorem mbxStore_keeps (s : State) (a : Nat) (bs : List Byte) :
    (mbxStore s a bs).pending = s.pending ∧ (mbxStore s a bs).io = s.io := by
  unfold mbxStore
  simp [foldl_pending, foldl_io, apply_ite State.pending, apply_ite State.io]
@[simp] theorem settEvent_keeps (s : State) (type item : Nat) (old new : Word) (f : BatHdr → BatHdr) :
    (settEvent s type item old new f).pending = s.pending ∧ (settEvent s type item old new f).io = s.io := by
  unfold settEvent
  simp [foldl_pending, foldl_io, apply_ite State.pending, apply_ite State.io]
@[simp] theorem settLoss_keeps (s : State) :
    (settLoss s).pending = s.pending ∧ (settLoss s).io = s.io := by
  unfold settLoss
  simp [foldl_pending, foldl_io, apply_ite State.pending, apply_ite State.io]
@[simp] theorem settCheck_keeps (s : State) :
    (settCheck s).pending = s.pending ∧ (settCheck s).io = s.io := by
  unfold settCheck
  simp [foldl_pending, foldl_io, apply_ite State.pending, apply_ite State.io]
@[simp] theorem batCut_keeps (s : State) :
    (batCut s).pending = s.pending ∧ (batCut s).io = s.io := by
  unfold batCut
  try dsimp only
  (repeat' split) <;> simp_all [foldl_pending, foldl_io, apply_ite State.pending, apply_ite State.io]
@[simp] theorem batReinit_keeps (s : State) :
    (batReinit s).pending = s.pending ∧ (batReinit s).io = s.io := by
  unfold batReinit
  simp [foldl_pending, foldl_io, apply_ite State.pending, apply_ite State.io]
@[simp] theorem sealOpen_keeps (s : State) :
    (sealOpen s).pending = s.pending ∧ (sealOpen s).io = s.io := by
  unfold sealOpen
  simp [foldl_pending, foldl_io, apply_ite State.pending, apply_ite State.io]
@[simp] theorem sealClose_keeps (s : State) :
    (sealClose s).pending = s.pending ∧ (sealClose s).io = s.io := by
  unfold sealClose
  dsimp only
  split <;> simp
@[simp] theorem settHalt_keeps (s : State) :
    (settHalt s).pending = s.pending ∧ (settHalt s).io = s.io := by
  unfold settHalt
  try dsimp only
  constructor <;> (repeat' (first | rfl | (apply forNats_pending; intro z q) | (apply forNats_io; intro z q) | (rw [foldl_pending]; rotate_left; intro z q) | (rw [foldl_io]; rotate_left; intro z q) | split | simp)) <;> simp_all
@[simp] theorem settFail_keeps (s : State) (cause : Nat) :
    (settFail s cause).pending = s.pending ∧ (settFail s cause).io = s.io := by
  unfold settFail
  dsimp only
  constructor <;> (repeat' (first | rfl | (apply forNats_pending; intro z q) | (apply forNats_io; intro z q) | (rw [foldl_pending]; rotate_left; intro z q) | (rw [foldl_io]; rotate_left; intro z q) | split | simp)) <;> simp_all
@[simp] theorem settIdle_keeps (s : State) :
    (settIdle s).pending = s.pending ∧ (settIdle s).io = s.io := by
  unfold settIdle
  try dsimp only
  (repeat' split) <;> simp_all [foldl_pending, foldl_io, apply_ite State.pending, apply_ite State.io]
@[simp] theorem settRunCheck_keeps (s : State) :
    (settRunCheck s).pending = s.pending ∧ (settRunCheck s).io = s.io := by
  unfold settRunCheck
  dsimp only
  (repeat' split) <;> simp
@[simp] theorem sealParWrite_keeps (s : State) (v : Word) :
    (sealParWrite s v).pending = s.pending ∧ (sealParWrite s v).io = s.io := by
  unfold sealParWrite
  simp [foldl_pending, foldl_io, apply_ite State.pending, apply_ite State.io]

-- Engine
@[simp] theorem sprSeen_keeps (s : State) (n k : Nat) :
    (sprSeen s n k).pending = s.pending ∧ (sprSeen s n k).io = s.io := by
  unfold sprSeen
  try dsimp only
  (repeat' split) <;> simp_all [foldl_pending, foldl_io, apply_ite State.pending, apply_ite State.io]
@[simp] theorem engTileDetect_keeps (s : State) (n : Nat) (data : Bool) (t reader : Nat) :
    (engTileDetect s n data t reader).pending = s.pending ∧ (engTileDetect s n data t reader).io = s.io := by
  unfold engTileDetect
  simp [foldl_pending, foldl_io, apply_ite State.pending, apply_ite State.io]
@[simp] theorem engCount_keeps (s : State) (n base k : Nat) :
    (engCount s n base k).pending = s.pending ∧ (engCount s n base k).io = s.io := by
  unfold engCount
  simp [foldl_pending, foldl_io, apply_ite State.pending, apply_ite State.io]
@[simp] theorem predUpdate_keeps (s : State) (n a : Nat) (taken : Bool) :
    (predUpdate s n a taken).pending = s.pending ∧ (predUpdate s n a taken).io = s.io := by
  unfold predUpdate
  simp [foldl_pending, foldl_io, apply_ite State.pending, apply_ite State.io]
@[simp] theorem predForm_keeps (s : State) (n : Nat) (tagged : Bool) :
    (predForm s n tagged).pending = s.pending ∧ (predForm s n tagged).io = s.io := by
  unfold predForm
  simp [foldl_pending, foldl_io, apply_ite State.pending, apply_ite State.io]
@[simp] theorem suspectTile_keeps (s : State) (n t : Nat) :
    (suspectTile s n t).pending = s.pending ∧ (suspectTile s n t).io = s.io := by
  unfold suspectTile
  simp [foldl_pending, foldl_io, apply_ite State.pending, apply_ite State.io]
@[simp] theorem suspectNote_keeps (s : State) (n a : Nat) :
    (suspectNote s n a).pending = s.pending ∧ (suspectNote s n a).io = s.io := by
  unfold suspectNote
  simp [foldl_pending, foldl_io, apply_ite State.pending, apply_ite State.io]
@[simp] theorem aheadNote_keeps (s : State) (n a : Nat) :
    (aheadNote s n a).pending = s.pending ∧ (aheadNote s n a).io = s.io := by
  unfold aheadNote
  simp [foldl_pending, foldl_io, apply_ite State.pending, apply_ite State.io]
@[simp] theorem wrongPath_keeps (s : State) (n k a : Nat) :
    (wrongPath s n k a).pending = s.pending ∧ (wrongPath s n k a).io = s.io := by
  induction k generalizing s a with
  | zero => unfold wrongPath; simp
  | succ k ih => unfold wrongPath; simp [ih]
@[simp] theorem predResolve_keeps (s : State) (n a fall target : Nat) (cond taken : Bool) :
    (predResolve s n a fall target cond taken).pending = s.pending ∧ (predResolve s n a fall target cond taken).io = s.io := by
  unfold predResolve
  extract_lets p s1 s2
  have h1 : s1.pending = s.pending ∧ s1.io = s.io := by
    unfold s1; split <;> simp
  have h2 : s2.pending = s.pending ∧ s2.io = s.io := by
    unfold s2; split <;> simp [h1]
  (repeat' split) <;> first | exact h2 | simpa using h2
@[simp] theorem engineStart_keeps (s : State) (n : Nat) (x : EngEntry) :
    (engineStart s n x).pending = s.pending ∧ (engineStart s n x).io = s.io := by
  unfold engineStart
  simp [foldl_pending, foldl_io, apply_ite State.pending, apply_ite State.io]
@[simp] theorem fetchLeft_keeps (s : State) (n : Nat) (inHand : Bool) :
    (fetchLeft s n inHand).pending = s.pending ∧ (fetchLeft s n inHand).io = s.io := by
  unfold fetchLeft
  simp [foldl_pending, foldl_io, apply_ite State.pending, apply_ite State.io]
@[simp] theorem engineStop_keeps (s : State) (n : Nat) :
    (engineStop s n).pending = s.pending ∧ (engineStop s n).io = s.io := by
  unfold engineStop
  simp [foldl_pending, foldl_io, apply_ite State.pending, apply_ite State.io]
@[simp] theorem scanClear_keeps (s : State) (n : Nat) :
    (scanClear s n).pending = s.pending ∧ (scanClear s n).io = s.io := by
  unfold scanClear
  simp [foldl_pending, foldl_io, apply_ite State.pending, apply_ite State.io]

-- Boundary
@[simp] theorem svcEnter_keeps (s : State) :
    (svcEnter s).pending = s.pending ∧ (svcEnter s).io = s.io := by
  unfold svcEnter
  simp [foldl_pending, foldl_io, apply_ite State.pending, apply_ite State.io]
@[simp] theorem svcAdd_keeps (s : State) (tag : Nat) (a : SvcAct) :
    (svcAdd s tag a).pending = s.pending ∧ (svcAdd s tag a).io = s.io := by
  unfold svcAdd
  simp [foldl_pending, foldl_io, apply_ite State.pending, apply_ite State.io]
@[simp] theorem svcActs_keeps (s : State) (l : List SvcPend) :
    (svcActs s l).pending = s.pending ∧ (svcActs s l).io = s.io := by
  unfold svcActs
  simp [foldl_pending, foldl_io, apply_ite State.pending, apply_ite State.io]
@[simp] theorem svcSettle_keeps (s : State) :
    (svcSettle s).pending = s.pending ∧ (svcSettle s).io = s.io := by
  unfold svcSettle
  simp [foldl_pending, foldl_io, apply_ite State.pending, apply_ite State.io]
@[simp] theorem winReset_keeps (s : State) (lo hi : Nat) :
    (winReset s lo hi).pending = s.pending ∧ (winReset s lo hi).io = s.io := by
  unfold winReset
  simp [foldl_pending, foldl_io, apply_ite State.pending, apply_ite State.io]
@[simp] theorem tilesClean_keeps (s : State) (cls inst : Nat) :
    (tilesClean s cls inst).pending = s.pending ∧ (tilesClean s cls inst).io = s.io := by
  unfold tilesClean
  simp [foldl_pending, foldl_io, apply_ite State.pending, apply_ite State.io]
@[simp] theorem queuesClear_keeps (s : State) (n : Nat) :
    (queuesClear s n).pending = s.pending ∧ (queuesClear s n).io = s.io := by
  unfold queuesClear
  simp [foldl_pending, foldl_io, apply_ite State.pending, apply_ite State.io]
@[simp] theorem domClear_keeps (s : State) (d : Nat) :
    (domClear s d).pending = s.pending ∧ (domClear s d).io = s.io := by
  unfold domClear
  simp [foldl_pending, foldl_io, apply_ite State.pending, apply_ite State.io]
@[simp] theorem domOff_keeps (s : State) (d : Nat) :
    (domOff s d).pending = s.pending ∧ (domOff s d).io = s.io := by
  unfold domOff
  simp [foldl_pending, foldl_io, apply_ite State.pending, apply_ite State.io]
@[simp] theorem offKeep_keeps (s : State) (n : Nat) :
    (offKeep s n).pending = s.pending ∧ (offKeep s n).io = s.io := by
  unfold offKeep
  simp [foldl_pending, foldl_io, apply_ite State.pending, apply_ite State.io]
@[simp] theorem domOn_keeps (s : State) (d : Nat) :
    (domOn s d).pending = s.pending ∧ (domOn s d).io = s.io := by
  unfold domOn
  simp [foldl_pending, foldl_io, apply_ite State.pending, apply_ite State.io]
@[simp] theorem engOffNow_keeps (s : State) (n : Nat) :
    (engOffNow s n).pending = s.pending ∧ (engOffNow s n).io = s.io := by
  unfold engOffNow
  simp [foldl_pending, foldl_io, apply_ite State.pending, apply_ite State.io]
@[simp] theorem engDomOff_keeps (s : State) (n : Nat) :
    (engDomOff s n).pending = s.pending ∧ (engDomOff s n).io = s.io := by
  unfold engDomOff
  dsimp only
  (repeat' split) <;> simp
@[simp] theorem engOff_keeps (s : State) (n : Nat) :
    (engOff s n).pending = s.pending ∧ (engOff s n).io = s.io := by
  unfold engOff
  simp [foldl_pending, foldl_io, apply_ite State.pending, apply_ite State.io]
@[simp] theorem cluOffCheck_keeps (s : State) (k : Nat) :
    (cluOffCheck s k).pending = s.pending ∧ (cluOffCheck s k).io = s.io := by
  unfold cluOffCheck
  simp [foldl_pending, foldl_io, apply_ite State.pending, apply_ite State.io]
@[simp] theorem badgerCtl_keeps (s : State) (i : Nat) (c : Word) :
    (badgerCtl s i c).pending = s.pending ∧ (badgerCtl s i c).io = s.io := by
  unfold badgerCtl
  simp [foldl_pending, foldl_io, apply_ite State.pending, apply_ite State.io]
@[simp] theorem giveTo_keeps (s : State) (t i : Nat) :
    (giveTo s t i).pending = s.pending ∧ (giveTo s t i).io = s.io := by
  unfold giveTo
  simp [foldl_pending, foldl_io, apply_ite State.pending, apply_ite State.io]
@[simp] theorem moveCells1_keeps (s : State) (old new : Nat) (mine : W128 → Bool) :
    (moveCells1 s old new mine).pending = s.pending ∧ (moveCells1 s old new mine).io = s.io := by
  unfold moveCells1
  simp [foldl_pending, foldl_io, apply_ite State.pending, apply_ite State.io]
@[simp] theorem moveCells_keeps (s : State) (old new : Nat) (idx : List Nat) :
    (moveCells s old new idx).pending = s.pending ∧ (moveCells s old new idx).io = s.io := by
  unfold moveCells
  simp [foldl_pending, foldl_io, apply_ite State.pending, apply_ite State.io]
@[simp] theorem moveScan1_keeps (s : State) (old new i : Nat) :
    (moveScan1 s old new i).pending = s.pending ∧ (moveScan1 s old new i).io = s.io := by
  unfold moveScan1
  simp [foldl_pending, foldl_io, apply_ite State.pending, apply_ite State.io]
@[simp] theorem moveScan_keeps (s : State) (old new i : Nat) :
    (moveScan s old new i).pending = s.pending ∧ (moveScan s old new i).io = s.io := by
  unfold moveScan
  simp [foldl_pending, foldl_io, apply_ite State.pending, apply_ite State.io]
@[simp] theorem handOver_keeps (s : State) (old t i : Nat) :
    (handOver s old t i).pending = s.pending ∧ (handOver s old t i).io = s.io := by
  unfold handOver
  simp [foldl_pending, foldl_io, apply_ite State.pending, apply_ite State.io]
@[simp] theorem startSpare_keeps (s : State) (n : Nat) :
    (startSpare s n).pending = s.pending ∧ (startSpare s n).io = s.io := by
  unfold startSpare
  simp [foldl_pending, foldl_io, apply_ite State.pending, apply_ite State.io]
@[simp] theorem retireEnd_keeps (s : State) (n : Nat) (off : Bool) (tag : Nat) :
    (retireEnd s n off tag).pending = s.pending ∧ (retireEnd s n off tag).io = s.io := by
  unfold retireEnd
  simp [foldl_pending, foldl_io, apply_ite State.pending, apply_ite State.io]
@[simp] theorem retireNow_keeps (s : State) (n : Nat) (off : Bool) (tag : Nat) (succ : Option Nat) :
    (retireNow s n off tag succ).pending = s.pending ∧ (retireNow s n off tag succ).io = s.io := by
  unfold retireNow
  repeat' (first | (rw [forNats_pending _ _ _ (by intro z q; simp [apply_ite State.pending])]) | (rw [forNats_io _ _ _ (by intro z q; simp [apply_ite State.io])]) | (rw [foldl_pending _ _ _ (by intro z q; simp [apply_ite State.pending])]) | (rw [foldl_io _ _ _ (by intro z q; simp [apply_ite State.io])]) | simp [apply_ite State.pending, apply_ite State.io] | constructor | split)
@[simp] theorem cluSettle_keeps (s : State) :
    (cluSettle s).pending = s.pending ∧ (cluSettle s).io = s.io := by
  unfold cluSettle
  simp [foldl_pending, foldl_io, apply_ite State.pending, apply_ite State.io]
@[simp] theorem cluFailEnd_keeps (s : State) (p : SvcPend) :
    (cluFailEnd s p).pending = s.pending ∧ (cluFailEnd s p).io = s.io := by
  unfold cluFailEnd
  dsimp only
  (repeat' split) <;> simp_all [foldl_pending, foldl_io, apply_ite State.pending, apply_ite State.io]
@[simp] theorem retireAll_keeps (s : State) :
    (retireAll s).pending = s.pending ∧ (retireAll s).io = s.io := by
  unfold retireAll
  simp [foldl_pending, foldl_io, apply_ite State.pending, apply_ite State.io]
@[simp] theorem sliceSeen_keeps (s : State) (k : Nat) :
    (sliceSeen s k).pending = s.pending ∧ (sliceSeen s k).io = s.io := by
  unfold sliceSeen
  simp [foldl_pending, foldl_io, apply_ite State.pending, apply_ite State.io]
@[simp] theorem sliceCopy_keeps (s0 : State) (k : Nat) :
    (sliceCopy s0 k).pending = s0.pending ∧ (sliceCopy s0 k).io = s0.io := by
  unfold sliceCopy
  simp [foldl_pending, foldl_io, apply_ite State.pending, apply_ite State.io]
@[simp] theorem backNow_keeps (s : State) (tag e : Nat) :
    (backNow s tag e).pending = s.pending ∧ (backNow s tag e).io = s.io := by
  unfold backNow
  try dsimp only
  (repeat' split) <;> (constructor <;> (repeat' (first | rfl | (rw [forNats_pending]; rotate_left; intro z q; try dsimp only) | (rw [forNats_io]; rotate_left; intro z q; try dsimp only) | (rw [foldl_pending]; rotate_left; intro z q; try dsimp only) | (rw [foldl_io]; rotate_left; intro z q; try dsimp only) | split | simp)))
@[simp] theorem migrateNow_keeps (s : State) (tag target first count : Nat) :
    (migrateNow s tag target first count).pending = s.pending ∧ (migrateNow s tag target first count).io = s.io := by
  unfold migrateNow
  simp [foldl_pending, foldl_io, apply_ite State.pending, apply_ite State.io]
@[simp] theorem backAll_keeps (s : State) :
    (backAll s).pending = s.pending ∧ (backAll s).io = s.io := by
  unfold backAll
  try dsimp only
  constructor <;> (repeat' (first | rfl | (apply forNats_pending; intro z q) | (apply forNats_io; intro z q) | (rw [foldl_pending]; rotate_left; intro z q) | (rw [foldl_io]; rotate_left; intro z q) | split | simp)) <;> simp_all
@[simp] theorem migrateAll_keeps (s : State) :
    (migrateAll s).pending = s.pending ∧ (migrateAll s).io = s.io := by
  unfold migrateAll
  dsimp only
  constructor <;> (repeat' (first | rfl | (apply forNats_pending; intro z q) | (apply forNats_io; intro z q) | (rw [foldl_pending]; rotate_left; intro z q) | (rw [foldl_io]; rotate_left; intro z q) | split | simp)) <;> simp_all
@[simp] theorem swapOne_keeps (s : State) (n : Nat) :
    (swapOne s n).pending = s.pending ∧ (swapOne s n).io = s.io := by
  unfold swapOne
  simp [foldl_pending, foldl_io, apply_ite State.pending, apply_ite State.io]
@[simp] theorem swapTry_keeps (s : State) (n : Nat) :
    (swapTry s n).pending = s.pending ∧ (swapTry s n).io = s.io := by
  unfold swapTry
  simp [foldl_pending, foldl_io, apply_ite State.pending, apply_ite State.io]
@[simp] theorem swapSettle_keeps (s : State) :
    (swapSettle s).pending = s.pending ∧ (swapSettle s).io = s.io := by
  unfold swapSettle
  simp [foldl_pending, foldl_io, apply_ite State.pending, apply_ite State.io]
@[simp] theorem swapAll_keeps (s : State) :
    (swapAll s).pending = s.pending ∧ (swapAll s).io = s.io := by
  unfold swapAll
  simp [foldl_pending, foldl_io, apply_ite State.pending, apply_ite State.io]
@[simp] theorem ownersChange_keeps (s : State) :
    (ownersChange s).pending = s.pending ∧ (ownersChange s).io = s.io := by
  unfold ownersChange
  simp [foldl_pending, foldl_io, apply_ite State.pending, apply_ite State.io]
@[simp] theorem ctxClosed_keeps (s : State) (n : Nat) :
    (ctxClosed s n).pending = s.pending ∧ (ctxClosed s n).io = s.io := by
  unfold ctxClosed
  dsimp only
  constructor <;> (repeat' (first | rfl | (apply forNats_pending; intro z q) | (apply forNats_io; intro z q) | (rw [foldl_pending]; rotate_left; intro z q) | (rw [foldl_io]; rotate_left; intro z q) | split | simp)) <;> simp_all
@[simp] theorem predEdge_keeps (s : State) (proving : Bool) :
    (predEdge s proving).pending = s.pending ∧ (predEdge s proving).io = s.io := by
  unfold predEdge
  simp [foldl_pending, foldl_io, apply_ite State.pending, apply_ite State.io]
@[simp] theorem ctlZero_keeps (s : State) (pick : Nat → Bool) :
    (ctlZero s pick).pending = s.pending ∧ (ctlZero s pick).io = s.io := by
  unfold ctlZero
  simp [foldl_pending, foldl_io, apply_ite State.pending, apply_ite State.io]
@[simp] theorem mirSet_keeps (s : State) (v : Nat) :
    (mirSet s v).pending = s.pending ∧ (mirSet s v).io = s.io := by
  unfold mirSet
  simp [foldl_pending, foldl_io, apply_ite State.pending, apply_ite State.io]
@[simp] theorem mirChange_keeps (s : State) (mirrored : Bool) :
    (mirChange s mirrored).pending = s.pending ∧ (mirChange s mirrored).io = s.io := by
  unfold mirChange
  simp [foldl_pending, foldl_io, apply_ite State.pending, apply_ite State.io]
@[simp] theorem profileNow_keeps (s : State) (p : Nat) :
    (profileNow s p).pending = s.pending ∧ (profileNow s p).io = s.io := by
  unfold profileNow
  simp [foldl_pending, foldl_io, apply_ite State.pending, apply_ite State.io]
@[simp] theorem reanchor_keeps (s : State) (units subtick : Nat) :
    (reanchor s units subtick).pending = s.pending ∧ (reanchor s units subtick).io = s.io := by
  unfold reanchor
  simp [foldl_pending, foldl_io, apply_ite State.pending, apply_ite State.io]
@[simp] theorem fillDrop_keeps (s : State) :
    (fillDrop s).pending = s.pending ∧ (fillDrop s).io = s.io := by
  unfold fillDrop
  simp [foldl_pending, foldl_io, apply_ite State.pending, apply_ite State.io]
@[simp] theorem changeApply_keeps (s : State) :
    (changeApply s).pending = s.pending ∧ (changeApply s).io = s.io := by
  unfold changeApply
  dsimp only
  (repeat' split) <;> simp_all [foldl_pending, foldl_io, apply_ite State.pending, apply_ite State.io]
@[simp] theorem enginesStop_keeps (s : State) (ns : List Nat) :
    (enginesStop s ns).pending = s.pending ∧ (enginesStop s ns).io = s.io := by
  unfold enginesStop
  simp [foldl_pending, foldl_io, apply_ite State.pending, apply_ite State.io]
@[simp] theorem stopOuter_keeps (s : State) :
    (stopOuter s).pending = s.pending ∧ (stopOuter s).io = s.io := by
  unfold stopOuter
  simp [foldl_pending, foldl_io, apply_ite State.pending, apply_ite State.io]
@[simp] theorem stopAll_keeps (s : State) :
    (stopAll s).pending = s.pending ∧ (stopAll s).io = s.io := by
  unfold stopAll
  try dsimp only
  (repeat' split) <;> simp_all [foldl_pending, foldl_io, apply_ite State.pending, apply_ite State.io]
@[simp] theorem abortRetired_keeps (s : State) (n : Nat) :
    (abortRetired s n).pending = s.pending ∧ (abortRetired s n).io = s.io := by
  unfold abortRetired
  simp [foldl_pending, foldl_io, apply_ite State.pending, apply_ite State.io]
@[simp] theorem actAbort_keeps (s : State) (p : SvcPend) :
    (actAbort s p).pending = s.pending ∧ (actAbort s p).io = s.io := by
  unfold actAbort
  try dsimp only
  constructor <;> (repeat' (first | rfl | (apply forNats_pending; intro z q) | (apply forNats_io; intro z q) | (rw [foldl_pending]; rotate_left; intro z q) | (rw [foldl_io]; rotate_left; intro z q) | split | simp)) <;> simp_all
@[simp] theorem pendAbort_keeps (s : State) :
    (pendAbort s).pending = s.pending ∧ (pendAbort s).io = s.io := by
  unfold pendAbort
  try dsimp only
  (repeat' split) <;> simp_all [foldl_pending, foldl_io, apply_ite State.pending, apply_ite State.io]
@[simp] theorem swapsEnd_keeps (s : State) :
    (swapsEnd s).pending = s.pending ∧ (swapsEnd s).io = s.io := by
  unfold swapsEnd
  repeat' (first | (rw [forNats_pending _ _ _ (by intro z q; simp [apply_ite State.pending])]) | (rw [forNats_io _ _ _ (by intro z q; simp [apply_ite State.io])]) | (rw [foldl_pending _ _ _ (by intro z q; simp [apply_ite State.pending])]) | (rw [foldl_io _ _ _ (by intro z q; simp [apply_ite State.io])]) | simp [apply_ite State.pending, apply_ite State.io] | constructor | split)
@[simp] theorem holdFrom_keeps (s1 : State) :
    (holdFrom s1).pending = s1.pending ∧ (holdFrom s1).io = s1.io := by
  unfold holdFrom
  simp [foldl_pending, foldl_io, apply_ite State.pending, apply_ite State.io]
@[simp] theorem holdEnter_keeps (s : State) :
    (holdEnter s).pending = s.pending ∧ (holdEnter s).io = s.io := by
  unfold holdEnter
  simp [foldl_pending, foldl_io, apply_ite State.pending, apply_ite State.io]
@[simp] theorem relRecord_keeps (s : State) (cause tile : Nat) :
    (relRecord s cause tile).pending = s.pending ∧ (relRecord s cause tile).io = s.io := by
  unfold relRecord
  simp [foldl_pending, foldl_io, apply_ite State.pending, apply_ite State.io]
@[simp] theorem relFail_keeps (s : State) (cause tile status : Nat) :
    (relFail s cause tile status).pending = s.pending ∧ (relFail s cause tile status).io = s.io := by
  unfold relFail
  try dsimp only
  (repeat' split) <;> simp_all [foldl_pending, foldl_io, apply_ite State.pending, apply_ite State.io]
@[simp] theorem settDown_keeps (s : State) (cause : Nat) :
    (settDown s cause).pending = s.pending ∧ (settDown s cause).io = s.io := by
  unfold settDown
  simp [foldl_pending, foldl_io, apply_ite State.pending, apply_ite State.io]
@[simp] theorem relDrop_keeps (s : State) :
    (relDrop s).pending = s.pending ∧ (relDrop s).io = s.io := by
  unfold relDrop
  try dsimp only
  (repeat' split) <;> simp_all [foldl_pending, foldl_io, apply_ite State.pending, apply_ite State.io]
@[simp] theorem relAbandon_keeps (s : State) :
    (relAbandon s).pending = s.pending ∧ (relAbandon s).io = s.io := by
  unfold relAbandon
  try dsimp only
  (repeat' split) <;> simp_all [foldl_pending, foldl_io, apply_ite State.pending, apply_ite State.io]
@[simp] theorem mbxRefuse_keeps (s : State) (st : Nat) :
    (mbxRefuse s st).pending = s.pending ∧ (mbxRefuse s st).io = s.io := by
  unfold mbxRefuse
  simp [foldl_pending, foldl_io, apply_ite State.pending, apply_ite State.io]
@[simp] theorem mbxDead_keeps (s : State) :
    (mbxDead s).pending = s.pending ∧ (mbxDead s).io = s.io := by
  unfold mbxDead
  simp [foldl_pending, foldl_io, apply_ite State.pending, apply_ite State.io]
@[simp] theorem offerAbort_keeps (s : State) :
    (offerAbort s).pending = s.pending ∧ (offerAbort s).io = s.io := by
  unfold offerAbort
  try dsimp only
  (repeat' split) <;> simp_all [foldl_pending, foldl_io, apply_ite State.pending, apply_ite State.io]
@[simp] theorem badgerStops_keeps (s : State) :
    (badgerStops s).pending = s.pending ∧ (badgerStops s).io = s.io := by
  unfold badgerStops
  try dsimp only
  (repeat' split) <;> simp_all [foldl_pending, foldl_io, apply_ite State.pending, apply_ite State.io]

-- Except
@[simp] theorem excEnter_keeps (s : State) (n t c olevel ocause : Nat) (adr : Word) (f : ExcFrame) :
    (excEnter s n t c olevel ocause adr f).pending = s.pending ∧ (excEnter s n t c olevel ocause adr f).io = s.io := by
  unfold excEnter
  simp [foldl_pending, foldl_io, apply_ite State.pending, apply_ite State.io]
@[simp] theorem raiseRetire_keeps (s : State) (n : Nat) :
    (raiseRetire s n).pending = s.pending ∧ (raiseRetire s n).io = s.io := by
  unfold raiseRetire
  simp [foldl_pending, foldl_io, apply_ite State.pending, apply_ite State.io]
@[simp] theorem haltEngine_keeps (s : State) (n : Nat) :
    (haltEngine s n).pending = s.pending ∧ (haltEngine s n).io = s.io := by
  unfold haltEngine
  simp [foldl_pending, foldl_io, apply_ite State.pending, apply_ite State.io]
@[simp] theorem machineCheck_keeps (s : State) (n level cause : Nat) :
    (machineCheck s n level cause).pending = s.pending ∧ (machineCheck s n level cause).io = s.io := by
  unfold machineCheck
  try dsimp only
  (repeat' split) <;> simp_all [foldl_pending, foldl_io, apply_ite State.pending, apply_ite State.io]
@[simp] theorem takeTrap_keeps (s : State) (n : Nat) (tr : Trap) (f : ExcFrame) :
    (takeTrap s n tr f).pending = s.pending ∧ (takeTrap s n tr f).io = s.io := by
  unfold takeTrap
  try dsimp only
  (repeat' split) <;> simp_all [foldl_pending, foldl_io, apply_ite State.pending, apply_ite State.io]
@[simp] theorem pairMismatch_keeps (s : State) (n : Nat) :
    (pairMismatch s n).pending = s.pending ∧ (pairMismatch s n).io = s.io := by
  unfold pairMismatch
  simp [foldl_pending, foldl_io, apply_ite State.pending, apply_ite State.io]
@[simp] theorem microFree_keeps (s : State) (n : Nat) :
    (microFree s n).pending = s.pending ∧ (microFree s n).io = s.io := by
  unfold microFree
  simp [foldl_pending, foldl_io, apply_ite State.pending, apply_ite State.io]
@[simp] theorem microResume_keeps (s : State) (n : Nat) (v : Save) :
    (microResume s n v).pending = s.pending ∧ (microResume s n v).io = s.io := by
  unfold microResume
  dsimp only
  (repeat' split) <;> simp_all [foldl_pending, foldl_io, apply_ite State.pending, apply_ite State.io]
@[simp] theorem eretTake_keeps (s : State) (n : Nat) :
    (eretTake s n).pending = s.pending ∧ (eretTake s n).io = s.io := by
  unfold eretTake
  try dsimp only
  (repeat' split) <;> simp_all [foldl_pending, foldl_io, apply_ite State.pending, apply_ite State.io]
@[simp] theorem eventTake_keeps (s : State) (n : Nat) :
    (eventTake s n).pending = s.pending ∧ (eventTake s n).io = s.io := by
  unfold eventTake
  try dsimp only
  (repeat' split) <;> simp_all [foldl_pending, foldl_io, apply_ite State.pending, apply_ite State.io]

-- MothRegs
@[simp] theorem mothPoke_keeps (s : State) (m o : Nat) (v : Word) :
    (mothPoke s m o v).pending = s.pending ∧ (mothPoke s m o v).io = s.io := by
  unfold mothPoke
  try dsimp only
  (repeat' split) <;> simp_all [foldl_pending, foldl_io, apply_ite State.pending, apply_ite State.io]
@[simp] theorem bankPoke_keeps (s : State) (b o : Nat) (v : Word) :
    (bankPoke s b o v).pending = s.pending ∧ (bankPoke s b o v).io = s.io := by
  unfold bankPoke
  try dsimp only
  (repeat' split) <;> simp_all [foldl_pending, foldl_io, apply_ite State.pending, apply_ite State.io]

-- EngineMem
@[simp] theorem sharedPut_keeps (s : State) (k o : Nat) (v : Word) :
    (sharedPut s k o v).pending = s.pending ∧ (sharedPut s k o v).io = s.io := by
  unfold sharedPut
  simp [foldl_pending, foldl_io, apply_ite State.pending, apply_ite State.io]
@[simp] theorem engStore_keeps (s : State) (n : Nat) (adr : Word) (bs : List Byte) (cap : Bool) :
    (engStore s n adr bs cap).pending = s.pending ∧ (engStore s n adr bs cap).io = s.io := by
  unfold engStore
  try dsimp only
  (repeat' split) <;> simp_all [foldl_pending, foldl_io, apply_ite State.pending, apply_ite State.io]
@[simp] theorem ticketTake_keeps (s : State) (n : Nat) (adr : Word) (size : Nat) :
    (ticketTake s n adr size).pending = s.pending ∧ (ticketTake s n adr size).io = s.io := by
  unfold ticketTake
  simp [foldl_pending, foldl_io, apply_ite State.pending, apply_ite State.io]
@[simp] theorem engRecSeen_keeps (s : State) (n i t : Nat) :
    (engRecSeen s n i t).pending = s.pending ∧ (engRecSeen s n i t).io = s.io := by
  unfold engRecSeen
  simp [foldl_pending, foldl_io, apply_ite State.pending, apply_ite State.io]
@[simp] theorem ctxOpenNow_keeps (s : State) (n i : Nat) :
    (ctxOpenNow s n i).pending = s.pending ∧ (ctxOpenNow s n i).io = s.io := by
  unfold ctxOpenNow
  simp [foldl_pending, foldl_io, apply_ite State.pending, apply_ite State.io]
@[simp] theorem engCommitPut_keeps (s : State) (n i : Nat) (win : Rec) :
    (engCommitPut s n i win).pending = s.pending ∧ (engCommitPut s n i win).io = s.io := by
  unfold engCommitPut
  dsimp only
  split <;> simp [foldl_pending, foldl_io]
@[simp] theorem worstNote_keeps (s : State) (n i : Nat) :
    (worstNote s n i).pending = s.pending ∧ (worstNote s n i).io = s.io := by
  unfold worstNote
  simp [foldl_pending, foldl_io, apply_ite State.pending, apply_ite State.io]
@[simp] theorem ctxCommitNow_keeps (s : State) (n : Nat) (win : Rec) (head : Bool) :
    (ctxCommitNow s n win head).pending = s.pending ∧ (ctxCommitNow s n win head).io = s.io := by
  unfold ctxCommitNow
  try dsimp only
  (repeat' split) <;> simp_all [foldl_pending, foldl_io, apply_ite State.pending, apply_ite State.io]
@[simp] theorem ctxDropNow_keeps (s : State) (n : Nat) :
    (ctxDropNow s n).pending = s.pending ∧ (ctxDropNow s n).io = s.io := by
  unfold ctxDropNow
  dsimp only
  (repeat' split) <;> simp_all [foldl_pending, foldl_io, apply_ite State.pending, apply_ite State.io]
@[simp] theorem engLockPut_keeps (s : State) (n i : Nat) (h : Option Nat) :
    (engLockPut s n i h).pending = s.pending ∧ (engLockPut s n i h).io = s.io := by
  unfold engLockPut
  dsimp only
  split <;> simp [foldl_pending, foldl_io]
@[simp] theorem farOrder_keeps (s : State) (n : Nat) (a : Word) (size : Nat) :
    (farOrder s n a size).pending = s.pending ∧ (farOrder s n a size).io = s.io := by
  unfold farOrder
  simp [foldl_pending, foldl_io, apply_ite State.pending, apply_ite State.io]
@[simp] theorem portServed_keeps (s : State) (n : Nat) :
    (portServed s n).pending = s.pending ∧ (portServed s n).io = s.io := by
  unfold portServed
  simp [foldl_pending, foldl_io, apply_ite State.pending, apply_ite State.io]
@[simp] theorem lockHeldFall_keeps (s : State) (n : Nat) :
    (lockHeldFall s n).pending = s.pending ∧ (lockHeldFall s n).io = s.io := by
  unfold lockHeldFall
  simp [foldl_pending, foldl_io, apply_ite State.pending, apply_ite State.io]
@[simp] theorem ctxLockNow_keeps (s : State) (n i : Nat) (head : Bool) :
    (ctxLockNow s n i head).pending = s.pending ∧ (ctxLockNow s n i head).io = s.io := by
  unfold ctxLockNow
  simp [foldl_pending, foldl_io, apply_ite State.pending, apply_ite State.io]
@[simp] theorem ctxUnlockNow_keeps (s : State) (n i : Nat) (head : Bool) :
    (ctxUnlockNow s n i head).pending = s.pending ∧ (ctxUnlockNow s n i head).io = s.io := by
  unfold ctxUnlockNow
  simp [foldl_pending, foldl_io, apply_ite State.pending, apply_ite State.io]
@[simp] theorem seqNext_keeps (s : State) (n : Nat) (head : Bool) :
    (seqNext s n head).pending = s.pending ∧ (seqNext s n head).io = s.io := by
  unfold seqNext
  dsimp only
  (repeat' split) <;> simp_all [foldl_pending, foldl_io, apply_ite State.pending, apply_ite State.io]
@[simp] theorem pushOne_keeps (s : State) (n : Nat) (head : Bool) (back : Nat) (c : W128) :
    (pushOne s n head back c).2.pending = s.pending ∧ (pushOne s n head back c).2.io = s.io := by
  unfold pushOne
  dsimp only
  (repeat' split) <;> simp_all [foldl_pending, foldl_io, apply_ite State.pending, apply_ite State.io]
@[simp] theorem pushAll_keeps (s : State) (n : Nat) (head : Bool) (back : Nat) (l : List W128) :
    (pushAll s n head back l).2.pending = s.pending ∧ (pushAll s n head back l).2.io = s.io := by
  induction l generalizing s back with
  | nil => exact ⟨rfl, rfl⟩
  | cons b t ih => simp [pushAll, ih]

-- Micro
@[simp] theorem storeTake_keeps (s : State) (n : Nat) (adr : Word) (bs : List Byte) (cap : Bool) :
    (storeTake s n adr bs cap).pending = s.pending ∧ (storeTake s n adr bs cap).io = s.io := by
  unfold storeTake
  try dsimp only
  (repeat' split) <;> simp_all [foldl_pending, foldl_io, apply_ite State.pending, apply_ite State.io]
@[simp] theorem loadSeen_keeps (s : State) (n : Nat) (adr : Word) (size : Nat) :
    (loadSeen s n adr size).pending = s.pending ∧ (loadSeen s n adr size).io = s.io := by
  unfold loadSeen
  simp [foldl_pending, foldl_io, apply_ite State.pending, apply_ite State.io]
@[simp] theorem microTake_keeps (s : State) (k : Nat) :
    (microTake s k).2.pending = s.pending ∧ (microTake s k).2.io = s.io := by
  unfold microTake
  simp [foldl_pending, foldl_io, apply_ite State.pending, apply_ite State.io]
@[simp] theorem microEnd_keeps (s : State) (n : Nat) (acts : List Act) :
    (microEnd s n acts).pending = s.pending ∧ (microEnd s n acts).io = s.io := by
  unfold microEnd
  simp [foldl_pending, foldl_io, apply_ite State.pending, apply_ite State.io]
@[simp] theorem microStart_keeps (s : State) (n pos : Nat) (y : Syl) :
    (microStart s n pos y).pending = s.pending ∧ (microStart s n pos y).io = s.io := by
  unfold microStart
  try dsimp only
  (repeat' split) <;> simp_all [foldl_pending, foldl_io, apply_ite State.pending, apply_ite State.io]

-- Run
@[simp] theorem burstCure_keeps (s : State) (n a len : Nat) :
    (burstCure s n a len).pending = s.pending ∧ (burstCure s n a len).io = s.io := by
  unfold burstCure
  simp [foldl_pending, foldl_io, apply_ite State.pending, apply_ite State.io]
@[simp] theorem traceStore_keeps (s : State) (n : Nat) (a : Word) (bs : List Byte) (burst : Bool) :
    (traceStore s n a bs burst).pending = s.pending ∧ (traceStore s n a bs burst).io = s.io := by
  unfold traceStore
  simp [foldl_pending, foldl_io, apply_ite State.pending, apply_ite State.io]
@[simp] theorem applyAct_keeps (n back : Nat) (win : Rec) (s : State) (a : Act) :
    (applyAct n back win s a).pending = s.pending ∧ (applyAct n back win s a).io = s.io := by
  cases a
  case dispatch =>
    simp only [applyAct]
    split
    · rename_i h
      have := nextEntry_keeps h
      split <;> simp [this]
    · simp
  all_goals simp [applyAct]
@[simp] theorem afterRoutine_keeps (s : State) (n : Nat) :
    (afterRoutine s n).pending = s.pending ∧ (afterRoutine s n).io = s.io := by
  unfold afterRoutine
  simp [foldl_pending, foldl_io, apply_ite State.pending, apply_ite State.io]
@[simp] theorem stepEnd_keeps (s : State) (n : Nat) :
    (stepEnd s n).pending = s.pending ∧ (stepEnd s n).io = s.io := by
  unfold stepEnd
  simp [foldl_pending, foldl_io, apply_ite State.pending, apply_ite State.io]
@[simp] theorem pcAdvance_keeps (s : State) (n here nx : Nat) (acts : List Act) (cond : Bool) :
    (pcAdvance s n here nx acts cond).pending = s.pending ∧ (pcAdvance s n here nx acts cond).io = s.io := by
  unfold pcAdvance
  dsimp only
  (repeat' split) <;> simp
@[simp] theorem afterRetire_keeps (s : State) (n : Nat) (acts : List Act) :
    (afterRetire s n acts).pending = s.pending ∧ (afterRetire s n acts).io = s.io := by
  unfold afterRetire
  try dsimp only
  (repeat' split) <;> simp_all [foldl_pending, foldl_io, apply_ite State.pending, apply_ite State.io]
@[simp] theorem afterClose_keeps (s : State) (n : Nat) (acts : List Act) :
    (afterClose s n acts).pending = s.pending ∧ (afterClose s n acts).io = s.io := by
  unfold afterClose
  simp [foldl_pending, foldl_io, apply_ite State.pending, apply_ite State.io]
@[simp] theorem retireOne_keeps (s : State) (n back : Nat) (acts : List Act) (nx : Nat) (cond : Bool) :
    (retireOne s n back acts nx cond).pending = s.pending ∧ (retireOne s n back acts nx cond).io = s.io := by
  unfold retireOne
  simp [foldl_pending, foldl_io, apply_ite State.pending, apply_ite State.io]
@[simp] theorem trapTile_keeps (s : State) (n : Nat) (t : Trap) :
    (trapTile s n t).pending = s.pending ∧ (trapTile s n t).io = s.io := by
  unfold trapTile
  dsimp only
  (repeat' split) <;> simp_all [foldl_pending, foldl_io, apply_ite State.pending, apply_ite State.io]
@[simp] theorem trapMet_keeps (s : State) (n : Nat) (t : Trap) (f : ExcFrame) :
    (trapMet s n t f).pending = s.pending ∧ (trapMet s n t f).io = s.io := by
  unfold trapMet
  simp [foldl_pending, foldl_io, apply_ite State.pending, apply_ite State.io]
@[simp] theorem trapOne_keeps (s : State) (n : Nat) (t : Trap) (f : ExcFrame) :
    (trapOne s n t f).pending = s.pending ∧ (trapOne s n t f).io = s.io := by
  unfold trapOne
  try dsimp only
  (repeat' split) <;> simp_all [foldl_pending, foldl_io, apply_ite State.pending, apply_ite State.io]
@[simp] theorem holdSet_keeps (s : State) (n : Nat) (h : Hold) :
    (holdSet s n h).pending = s.pending ∧ (holdSet s n h).io = s.io := by
  unfold holdSet
  simp [foldl_pending, foldl_io, apply_ite State.pending, apply_ite State.io]
@[simp] theorem pushSome_keeps (s : State) (n back : Nat) (cs : List W128) :
    (pushSome s n back cs).pending = s.pending ∧ (pushSome s n back cs).io = s.io := by
  unfold pushSome
  simp
@[simp] theorem lockstepFail_keeps (s : State) (n : Nat) :
    (lockstepFail s n).pending = s.pending ∧ (lockstepFail s n).io = s.io := by
  unfold lockstepFail
  simp [foldl_pending, foldl_io, apply_ite State.pending, apply_ite State.io]
@[simp] theorem settTileSeen_keeps (s : State) (n m : Nat) :
    (settTileSeen s n m).pending = s.pending ∧ (settTileSeen s n m).io = s.io := by
  unfold settTileSeen
  try dsimp only
  (repeat' split) <;> simp_all [foldl_pending, foldl_io, apply_ite State.pending, apply_ite State.io]
@[simp] theorem tellBoth_keeps (s : State) (n : Nat) (f : Told → Told) :
    (tellBoth s n f).pending = s.pending ∧ (tellBoth s n f).io = s.io := by
  unfold tellBoth
  try dsimp only
  (repeat' split) <;> simp_all [foldl_pending, foldl_io, apply_ite State.pending, apply_ite State.io]
@[simp] theorem trcStallCount_keeps (s : State) (n : Nat) (held : Bool) :
    (trcStallCount s n held).pending = s.pending ∧ (trcStallCount s n held).io = s.io := by
  unfold trcStallCount
  simp [foldl_pending, foldl_io, apply_ite State.pending, apply_ite State.io]
@[simp] theorem microTrap_keeps (s : State) (n : Nat) (ys : List Syl) (y : Syl) (t : Trap) (point : Bool) :
    (microTrap s n ys y t point).pending = s.pending ∧ (microTrap s n ys y t point).io = s.io := by
  unfold microTrap
  try dsimp only
  (repeat' split) <;> simp_all [foldl_pending, foldl_io, apply_ite State.pending, apply_ite State.io]
@[simp] theorem pointPass_keeps (before s : State) (n : Nat) (y : Syl) :
    (pointPass before s n y).pending = s.pending ∧ (pointPass before s n y).io = s.io := by
  unfold pointPass
  split <;> simp
@[simp] theorem pointNext_keeps (s : State) (n : Nat) (y : Syl) :
    (pointNext s n y).pending = s.pending ∧ (pointNext s n y).io = s.io := by
  unfold pointNext
  simp [foldl_pending, foldl_io, apply_ite State.pending, apply_ite State.io]
@[simp] theorem stepPoint_keeps (s : State) (n : Nat) :
    (stepPoint s n).pending = s.pending ∧ (stepPoint s n).io = s.io := by
  unfold stepPoint
  simp [foldl_pending, foldl_io, apply_ite State.pending, apply_ite State.io]
@[simp] theorem microStall_keeps (s : State) (n : Nat) :
    (microStall s n).pending = s.pending ∧ (microStall s n).io = s.io := by
  unfold microStall
  try dsimp only
  constructor <;> (repeat' (first | rfl | (apply forNats_pending; intro z q) | (apply forNats_io; intro z q) | (rw [foldl_pending]; rotate_left; intro z q) | (rw [foldl_io]; rotate_left; intro z q) | split | simp)) <;> simp_all

-- EngineRows
@[simp] theorem bankSpoil_keeps (s : State) (n : Nat) :
    (bankSpoil s n).pending = s.pending ∧ (bankSpoil s n).io = s.io := by
  unfold bankSpoil
  simp [foldl_pending, foldl_io, apply_ite State.pending, apply_ite State.io]
@[simp] theorem lockStall_keeps (s : State) (n cyc : Nat) :
    (lockStall s n cyc).pending = s.pending ∧ (lockStall s n cyc).io = s.io := by
  unfold lockStall
  simp [foldl_pending, foldl_io, apply_ite State.pending, apply_ite State.io]
@[simp] theorem repairNote_keeps (s : State) (n : Nat) (entry : Bool) (adr : Nat) :
    (repairNote s n entry adr).pending = s.pending ∧ (repairNote s n entry adr).io = s.io := by
  unfold repairNote
  simp [foldl_pending, foldl_io, apply_ite State.pending, apply_ite State.io]
@[simp] theorem parityOutcome_keeps (s : State) (n : Nat) (entry : Bool) (adr : Nat) (ok : Bool) :
    (parityOutcome s n entry adr ok).pending = s.pending ∧ (parityOutcome s n entry adr ok).io = s.io := by
  unfold parityOutcome
  try dsimp only
  (repeat' split) <;> simp_all [foldl_pending, foldl_io, apply_ite State.pending, apply_ite State.io]

-- Chain
@[simp] theorem portSet_keeps (s : State) (p : Nat) (x : Port) :
    (portSet s p x).pending = s.pending ∧ (portSet s p x).io = s.io := by
  unfold portSet
  simp [foldl_pending, foldl_io, apply_ite State.pending, apply_ite State.io]
@[simp] theorem frameSend_keeps (s : State) (p : Nat) (type src hops : Nat) (wrap past : Bool) (bodies : List W128) :
    (frameSend s p type src hops wrap past bodies).pending = s.pending ∧ (frameSend s p type src hops wrap past bodies).io = s.io := by
  unfold frameSend
  simp [foldl_pending, foldl_io, apply_ite State.pending, apply_ite State.io]
@[simp] theorem unicastSend_keeps (s : State) (p src hops : Nat) (wrap : Bool) (bodies : List W128) :
    (unicastSend s p src hops wrap bodies).pending = s.pending ∧ (unicastSend s p src hops wrap bodies).io = s.io := by
  unfold unicastSend
  simp [foldl_pending, foldl_io, apply_ite State.pending, apply_ite State.io]
@[simp] theorem broadcastSend_keeps (s : State) (c : W128) :
    (broadcastSend s c).pending = s.pending ∧ (broadcastSend s c).io = s.io := by
  unfold broadcastSend
  simp [foldl_pending, foldl_io, apply_ite State.pending, apply_ite State.io]
@[simp] theorem chainFlush_keeps (s : State) :
    (chainFlush s).pending = s.pending ∧ (chainFlush s).io = s.io := by
  unfold chainFlush
  simp [foldl_pending, foldl_io, apply_ite State.pending, apply_ite State.io]
@[simp] theorem cellTest_keeps (s : State) (p : Nat) (b : BufCell) :
    (cellTest s p b).2.pending = s.pending ∧ (cellTest s p b).2.io = s.io := by
  unfold cellTest
  try dsimp only
  (repeat' split) <;> simp_all [foldl_pending, foldl_io, apply_ite State.pending, apply_ite State.io]
@[simp] theorem cellsTest_keeps (s : State) (p : Nat) (l : List BufCell) :
    (cellsTest s p l).2.pending = s.pending ∧ (cellsTest s p l).2.io = s.io := by
  induction l generalizing s with
  | nil => exact ⟨rfl, rfl⟩
  | cons b t ih => simp [cellsTest, ih]
@[simp] theorem portDeliver_keeps (s : State) (c : W128) :
    (portDeliver s c).pending = s.pending ∧ (portDeliver s c).io = s.io := by
  unfold portDeliver
  simp [foldl_pending, foldl_io, apply_ite State.pending, apply_ite State.io]
@[simp] theorem frameSeen_keeps (s : State) (p : Nat) (h : W64) :
    (frameSeen s p h).pending = s.pending ∧ (frameSeen s p h).io = s.io := by
  unfold frameSeen
  simp [foldl_pending, foldl_io, apply_ite State.pending, apply_ite State.io]
@[simp] theorem broadcastTake_keeps (s : State) (p : Nat) (b : BufCell) (bodies : List W128) :
    (broadcastTake s p b bodies).pending = s.pending ∧ (broadcastTake s p b bodies).io = s.io := by
  unfold broadcastTake
  simp [foldl_pending, foldl_io, apply_ite State.pending, apply_ite State.io]
@[simp] theorem cellsPass_keeps (s : State) (p : Nat) (l : List BufCell) :
    (cellsPass s p l).pending = s.pending ∧ (cellsPass s p l).io = s.io := by
  unfold cellsPass
  try dsimp only
  (repeat' split) <;> simp_all [foldl_pending, foldl_io, apply_ite State.pending, apply_ite State.io]
@[simp] theorem cellsTake_keeps (s : State) (p : Nat) (h : W64) (bodies : List W128) :
    (cellsTake s p h bodies).pending = s.pending ∧ (cellsTake s p h bodies).io = s.io := by
  unfold cellsTake
  split <;> simp
@[simp] theorem earlyPass_keeps (s : State) (p : Nat) :
    (earlyPass s p).pending = s.pending ∧ (earlyPass s p).io = s.io := by
  unfold earlyPass
  simp [foldl_pending, foldl_io, apply_ite State.pending, apply_ite State.io]
@[simp] theorem portParity_keeps (s : State) (p : Nat) (bad : List Nat) :
    (portParity s p bad).pending = s.pending ∧ (portParity s p bad).io = s.io := by
  unfold portParity
  simp [foldl_pending, foldl_io, apply_ite State.pending, apply_ite State.io]
@[simp] theorem breakPut_keeps (s : State) (valid : Bool) (u : Nat) :
    (breakPut s valid u).pending = s.pending ∧ (breakPut s valid u).io = s.io := by
  unfold breakPut
  simp [foldl_pending, foldl_io, apply_ite State.pending, apply_ite State.io]
@[simp] theorem statusSend_keeps (s : State) (p : Nat) (valid : Bool) (u : Nat) :
    (statusSend s p valid u).pending = s.pending ∧ (statusSend s p valid u).io = s.io := by
  unfold statusSend
  simp [foldl_pending, foldl_io, apply_ite State.pending, apply_ite State.io]
@[simp] theorem portDown_keeps (s : State) (p : Nat) :
    (portDown s p).pending = s.pending ∧ (portDown s p).io = s.io := by
  unfold portDown
  dsimp only
  (repeat' split) <;> simp_all [foldl_pending, foldl_io, apply_ite State.pending, apply_ite State.io]
@[simp] theorem portOff_keeps (s : State) (p : Nat) :
    (portOff s p).pending = s.pending ∧ (portOff s p).io = s.io := by
  unfold portOff
  simp [foldl_pending, foldl_io, apply_ite State.pending, apply_ite State.io]
@[simp] theorem chnCtlWrite_keeps (s : State) (v : Word) :
    (chnCtlWrite s v).pending = s.pending ∧ (chnCtlWrite s v).io = s.io := by
  unfold chnCtlWrite
  simp [foldl_pending, foldl_io, apply_ite State.pending, apply_ite State.io]
@[simp] theorem statusTake_keeps (s : State) (p : Nat) (h : W64) (bodies : List W128) :
    (statusTake s p h bodies).pending = s.pending ∧ (statusTake s p h bodies).io = s.io := by
  unfold statusTake
  dsimp only
  (repeat' split) <;> simp_all [foldl_pending, foldl_io, apply_ite State.pending, apply_ite State.io]
@[simp] theorem ctlForward_keeps (s : State) (type : Nat) (h : W64) (b : W128) :
    (ctlForward s type h b).pending = s.pending ∧ (ctlForward s type h b).io = s.io := by
  unfold ctlForward
  simp [foldl_pending, foldl_io, apply_ite State.pending, apply_ite State.io]
@[simp] theorem enumEnd_keeps (s : State) (tag status : Nat) :
    (enumEnd s tag status).pending = s.pending ∧ (enumEnd s tag status).io = s.io := by
  unfold enumEnd
  simp [foldl_pending, foldl_io, apply_ite State.pending, apply_ite State.io]
@[simp] theorem offerReturned_keeps (s : State) (tag : Nat) (origin : Word) (b : W128) :
    (offerReturned s tag origin b).pending = s.pending ∧ (offerReturned s tag origin b).io = s.io := by
  unfold offerReturned
  simp [foldl_pending, foldl_io, apply_ite State.pending, apply_ite State.io]
@[simp] theorem offerTake_keeps (s : State) (h : W64) (b : W128) :
    (offerTake s h b).pending = s.pending ∧ (offerTake s h b).io = s.io := by
  unfold offerTake
  dsimp only
  (repeat' split) <;> simp_all [foldl_pending, foldl_io, apply_ite State.pending, apply_ite State.io]
@[simp] theorem commitTake_keeps (s : State) (h : W64) (b : W128) :
    (commitTake s h b).pending = s.pending ∧ (commitTake s h b).io = s.io := by
  unfold commitTake
  dsimp only
  (repeat' split) <;> simp_all [foldl_pending, foldl_io, apply_ite State.pending, apply_ite State.io]
@[simp] theorem enumStart_keeps (s : State) (tag : Nat) :
    (enumStart s tag).pending = s.pending ∧ (enumStart s tag).io = s.io := by
  unfold enumStart
  simp [foldl_pending, foldl_io, apply_ite State.pending, apply_ite State.io]
@[simp] theorem portRetrain_keeps (s : State) (p : Nat) :
    (portRetrain s p).pending = s.pending ∧ (portRetrain s p).io = s.io := by
  unfold portRetrain
  simp [foldl_pending, foldl_io, apply_ite State.pending, apply_ite State.io]

-- Router
@[simp] theorem settRecSeen_keeps (s : State) (i : Nat) :
    (settRecSeen s i).pending = s.pending ∧ (settRecSeen s i).io = s.io := by
  unfold settRecSeen
  simp [foldl_pending, foldl_io, apply_ite State.pending, apply_ite State.io]
@[simp] theorem settRoute_keeps (s : State) (o : OCell) :
    (settRoute s o).pending = s.pending ∧ (settRoute s o).io = s.io := by
  unfold settRoute
  simp [foldl_pending, foldl_io, apply_ite State.pending, apply_ite State.io]
@[simp] theorem queueTake_keeps (s : State) (n : Nat) :
    (queueTake s n).2.pending = s.pending ∧ (queueTake s n).2.io = s.io := by
  unfold queueTake
  dsimp only
  (repeat' split) <;> simp_all [foldl_pending, foldl_io, apply_ite State.pending, apply_ite State.io]
@[simp] theorem gwPass_keeps (s : State) (b : Nat) (o : OCell) (parityFail : Bool) :
    (gwPass s b o parityFail).pending = s.pending ∧ (gwPass s b o parityFail).io = s.io := by
  unfold gwPass
  simp [foldl_pending, foldl_io, apply_ite State.pending, apply_ite State.io]

-- Patch
@[simp] theorem bankFill_keeps (s : State) (n : Nat) (blocks : List (List Byte)) :
    (bankFill s n blocks).pending = s.pending ∧ (bankFill s n blocks).io = s.io := by
  unfold bankFill
  simp [foldl_pending, foldl_io, apply_ite State.pending, apply_ite State.io]
@[simp] theorem blockRefuse_keeps (s : State) (bs : List Byte) (status : Nat) :
    (blockRefuse s bs status).pending = s.pending ∧ (blockRefuse s bs status).io = s.io := by
  unfold blockRefuse
  simp [foldl_pending, foldl_io, apply_ite State.pending, apply_ite State.io]
@[simp] theorem vetAccept_keeps (s : State) (blocks : List (List Byte)) :
    (vetAccept s blocks).pending = s.pending ∧ (vetAccept s blocks).io = s.io := by
  unfold vetAccept
  dsimp only
  constructor <;> (repeat' (first | rfl | (apply forNats_pending; intro z q) | (apply forNats_io; intro z q) | (rw [foldl_pending]; rotate_left; intro z q) | (rw [foldl_io]; rotate_left; intro z q) | split | simp)) <;> simp_all
@[simp] theorem vetFill_keeps (s : State) :
    (vetFill s).pending = s.pending ∧ (vetFill s).io = s.io := by
  unfold vetFill
  simp [foldl_pending, foldl_io, apply_ite State.pending, apply_ite State.io]
@[simp] theorem loadBank_keeps (s : State) (blocks : List (List Byte)) (n : Nat) :
    (loadBank s blocks n).pending = s.pending ∧ (loadBank s blocks n).io = s.io := by
  unfold loadBank
  simp [foldl_pending, foldl_io, apply_ite State.pending, apply_ite State.io]

-- Release
@[simp] theorem stageSeen_keeps (s : State) (tiles : List Nat) :
    (stageSeen s tiles).pending = s.pending ∧ (stageSeen s tiles).io = s.io := by
  unfold stageSeen
  simp [foldl_pending, foldl_io, apply_ite State.pending, apply_ite State.io]
@[simp] theorem relRefuse_keeps (s : State) (tag status : Nat) :
    (relRefuse s tag status).pending = s.pending ∧ (relRefuse s tag status).io = s.io := by
  unfold relRefuse
  simp [foldl_pending, foldl_io, apply_ite State.pending, apply_ite State.io]
@[simp] theorem relNoSource_keeps (s : State) (tag : Nat) :
    (relNoSource s tag).pending = s.pending ∧ (relNoSource s tag).io = s.io := by
  unfold relNoSource
  simp [foldl_pending, foldl_io, apply_ite State.pending, apply_ite State.io]
@[simp] theorem relCheck_keeps (s : State) (tag : Nat) (img : Image) (h : List Byte) :
    (relCheck s tag img h).pending = s.pending ∧ (relCheck s tag img h).io = s.io := by
  unfold relCheck
  dsimp only
  (repeat' split) <;> simp_all [foldl_pending, foldl_io, apply_ite State.pending, apply_ite State.io]
@[simp] theorem relChoose_keeps (s : State) (tag src : Nat) (imgA imgB : SrcImage) :
    (relChoose s tag src imgA imgB).pending = s.pending ∧ (relChoose s tag src imgA imgB).io = s.io := by
  unfold relChoose
  dsimp only
  (repeat' split) <;> simp_all [foldl_pending, foldl_io, apply_ite State.pending, apply_ite State.io]
@[simp] theorem bankLoaded_keeps (b tiles o : Nat) (s : State) :
    (bankLoaded b tiles o s).pending = s.pending ∧ (bankLoaded b tiles o s).io = s.io := by
  unfold bankLoaded
  simp [foldl_pending, foldl_io, apply_ite State.pending, apply_ite State.io]
@[simp] theorem mothTile_keeps (s : State) (b pins o : Nat) (bs : List Byte) :
    (mothTile s b pins o bs).pending = s.pending ∧ (mothTile s b pins o bs).io = s.io := by
  unfold mothTile
  try dsimp only
  (repeat' split) <;> simp_all [foldl_pending, foldl_io, apply_ite State.pending, apply_ite State.io]
@[simp] theorem engTilePut_keeps (s : State) (n a : Nat) (bs : List Byte) :
    (engTilePut s n a bs).pending = s.pending ∧ (engTilePut s n a bs).io = s.io := by
  unfold engTilePut
  simp [foldl_pending, foldl_io, apply_ite State.pending, apply_ite State.io]
@[simp] theorem ctxTilePut_keeps (s : State) (i half : Nat) (bs : List Byte) :
    (ctxTilePut s i half bs).pending = s.pending ∧ (ctxTilePut s i half bs).io = s.io := by
  unfold ctxTilePut
  simp [foldl_pending, foldl_io, apply_ite State.pending, apply_ite State.io]
@[simp] theorem settTilePut_keeps (s : State) (img : Image) (o : Nat) (bs : List Byte) :
    (settTilePut s img o bs).pending = s.pending ∧ (settTilePut s img o bs).io = s.io := by
  unfold settTilePut
  try dsimp only
  (repeat' split) <;> simp_all [foldl_pending, foldl_io, apply_ite State.pending, apply_ite State.io]
@[simp] theorem stepWrite_keeps (s : State) (p : PStep) (bs : List Byte) (crc : Word) :
    (stepWrite s p bs crc).pending = s.pending ∧ (stepWrite s p bs crc).io = s.io := by
  unfold stepWrite
  try dsimp only
  (repeat' split) <;> simp_all [foldl_pending, foldl_io, apply_ite State.pending, apply_ite State.io]
@[simp] theorem stepAct_keeps (s : State) (p : PStep) :
    (stepAct s p).pending = s.pending ∧ (stepAct s p).io = s.io := by
  unfold stepAct
  dsimp only
  (repeat' split) <;> simp_all [foldl_pending, foldl_io, apply_ite State.pending, apply_ite State.io]
@[simp] theorem planGo_keeps (l : List PStep) (s : State) :
    (planGo l s).pending = s.pending ∧ (planGo l s).io = s.io := by
  induction l generalizing s with
  | nil => simp [planGo]
  | cons b t ih => unfold planGo; (repeat' split) <;> simp [ih]
@[simp] theorem relLeave_keeps (img : Image) (s : State) :
    (relLeave img s).pending = s.pending ∧ (relLeave img s).io = s.io := by
  unfold relLeave
  simp [foldl_pending, foldl_io, apply_ite State.pending, apply_ite State.io]
@[simp] theorem relEngine_keeps (img : Image) (s : State) (n : Nat) :
    (relEngine img s n).pending = s.pending ∧ (relEngine img s n).io = s.io := by
  unfold relEngine
  dsimp only
  (repeat' split) <;> simp_all [foldl_pending, foldl_io, apply_ite State.pending, apply_ite State.io]
@[simp] theorem relPower_keeps (s : State) (d : Nat) :
    (relPower s d).pending = s.pending ∧ (relPower s d).io = s.io := by
  unfold relPower
  simp [foldl_pending, foldl_io, apply_ite State.pending, apply_ite State.io]
@[simp] theorem relDomains_keeps (img : Image) (s : State) :
    (relDomains img s).pending = s.pending ∧ (relDomains img s).io = s.io := by
  unfold relDomains
  simp [foldl_pending, foldl_io, apply_ite State.pending, apply_ite State.io]
@[simp] theorem tickStart_keeps (s : State) :
    (tickStart s).pending = s.pending ∧ (tickStart s).io = s.io := by
  unfold tickStart
  simp [foldl_pending, foldl_io, apply_ite State.pending, apply_ite State.io]
@[simp] theorem settVerify_keeps (s : State) (img : Image) :
    (settVerify s img).pending = s.pending ∧ (settVerify s img).io = s.io := by
  unfold settVerify
  simp [foldl_pending, foldl_io, apply_ite State.pending, apply_ite State.io]
@[simp] theorem relBegin_keeps (s : State) :
    (relBegin s).pending = s.pending ∧ (relBegin s).io = s.io := by
  unfold relBegin
  try dsimp only
  (repeat' split) <;> simp_all [foldl_pending, foldl_io, apply_ite State.pending, apply_ite State.io]
@[simp] theorem sourceSeen_keeps (s : State) (t : Nat) :
    (sourceSeen s t).pending = s.pending ∧ (sourceSeen s t).io = s.io := by
  unfold sourceSeen
  simp [foldl_pending, foldl_io, apply_ite State.pending, apply_ite State.io]
@[simp] theorem copyTile_keeps (s : State) (p : PStep) (t : Nat) (bytes : List Byte) (tcrc : Word) :
    (copyTile s p t bytes tcrc).pending = s.pending ∧ (copyTile s p t bytes tcrc).io = s.io := by
  unfold copyTile
  split
  · simp
  · split
    · simp
    · extract_lets x
      split
      · simp
      · rw [(planGo_keeps _ _).1, (planGo_keeps _ _).2]
        exact stepWrite_keeps _ _ _ _
@[simp] theorem tilesRead_keeps (l : List (Nat × Nat × Nat)) (s : State) :
    (tilesRead l s).2.pending = s.pending ∧ (tilesRead l s).2.io = s.io := by
  induction l generalizing s with
  | nil => exact ⟨rfl, rfl⟩
  | cons k t ih => unfold tilesRead; (repeat' split) <;> simp [ih]
@[simp] theorem readBack_keeps (s : State) (p : PStep) :
    (readBack s p).2.pending = s.pending ∧ (readBack s p).2.io = s.io := by
  unfold readBack
  simp

-- Tick
@[simp] theorem skipLeft_keeps (s : State) (n : Nat) :
    (skipLeft s n).pending = s.pending ∧ (skipLeft s n).io = s.io := by
  unfold skipLeft
  simp [foldl_pending, foldl_io, apply_ite State.pending, apply_ite State.io]
@[simp] theorem cluReserve_keeps (s : State) (k : Nat) :
    (cluReserve s k).pending = s.pending ∧ (cluReserve s k).io = s.io := by
  unfold cluReserve
  dsimp only
  constructor <;> (repeat' (first | rfl | (apply forNats_pending; intro z q) | (apply forNats_io; intro z q) | (rw [foldl_pending]; rotate_left; intro z q) | (rw [foldl_io]; rotate_left; intro z q) | split | simp)) <;> simp_all
@[simp] theorem reserveStart_keeps (s : State) :
    (reserveStart s).pending = s.pending ∧ (reserveStart s).io = s.io := by
  unfold reserveStart
  simp [foldl_pending, foldl_io, apply_ite State.pending, apply_ite State.io]
@[simp] theorem subReserveStart_keeps (s : State) :
    (subReserveStart s).pending = s.pending ∧ (subReserveStart s).io = s.io := by
  unfold subReserveStart
  simp [foldl_pending, foldl_io, apply_ite State.pending, apply_ite State.io]
@[simp] theorem scanPut_keeps (s : State) (i : Nat) :
    (scanPut s i).pending = s.pending ∧ (scanPut s i).io = s.io := by
  unfold scanPut
  try dsimp only
  constructor <;> (repeat' (first | rfl | (apply forNats_pending; intro z q) | (apply forNats_io; intro z q) | (rw [foldl_pending]; rotate_left; intro z q) | (rw [foldl_io]; rotate_left; intro z q) | split | simp)) <;> simp_all
@[simp] theorem scanLose_keeps (s : State) (n i : Nat) :
    (scanLose s n i).pending = s.pending ∧ (scanLose s n i).io = s.io := by
  unfold scanLose
  simp [foldl_pending, foldl_io, apply_ite State.pending, apply_ite State.io]
@[simp] theorem listsBuild_keeps (s : State) (es : List Nat) (f : EdgeFails) :
    (listsBuild s es f).pending = s.pending ∧ (listsBuild s es f).io = s.io := by
  unfold listsBuild
  try dsimp only
  (repeat' split) <;> simp_all [foldl_pending, foldl_io, apply_ite State.pending, apply_ite State.io]
@[simp] theorem edgeCopies_keeps (s : State) (on : Nat → Bool) (skip : List Nat) :
    (edgeCopies s on skip).pending = s.pending ∧ (edgeCopies s on skip).io = s.io := by
  unfold edgeCopies
  simp [foldl_pending, foldl_io, apply_ite State.pending, apply_ite State.io]
@[simp] theorem ctlsRewrite_keeps (s : State) (l : List Nat) :
    (ctlsRewrite s l).pending = s.pending ∧ (ctlsRewrite s l).io = s.io := by
  unfold ctlsRewrite
  simp [foldl_pending, foldl_io, apply_ite State.pending, apply_ite State.io]
@[simp] theorem cycFresh_keeps (s : State) (es : List Nat) :
    (cycFresh s es).pending = s.pending ∧ (cycFresh s es).io = s.io := by
  unfold cycFresh
  try dsimp only
  constructor <;> (repeat' (first | rfl | (apply forNats_pending; intro z q) | (apply forNats_io; intro z q) | (rw [foldl_pending]; rotate_left; intro z q) | (rw [foldl_io]; rotate_left; intro z q) | split | simp)) <;> simp_all
@[simp] theorem cycKeep_keeps (old s : State) (es : List Nat) :
    (cycKeep old s es).pending = s.pending ∧ (cycKeep old s es).io = s.io := by
  unfold cycKeep
  simp
@[simp] theorem edgeSeen_keeps (s : State) (n : Nat) :
    (edgeSeen s n).pending = s.pending ∧ (edgeSeen s n).io = s.io := by
  unfold edgeSeen
  simp [foldl_pending, foldl_io, apply_ite State.pending, apply_ite State.io]
@[simp] theorem edgeRaise_keeps (s : State) :
    (edgeRaise s).2.pending = s.pending ∧ (edgeRaise s).2.io = s.io := by
  unfold edgeRaise
  dsimp only
  (repeat' split) <;> simp_all [foldl_pending, foldl_io, apply_ite State.pending, apply_ite State.io]
@[simp] theorem enterRun_keeps (s : State) :
    (enterRun s).pending = s.pending ∧ (enterRun s).io = s.io := by
  unfold enterRun
  simp [foldl_pending, foldl_io, apply_ite State.pending, apply_ite State.io]
@[simp] theorem mothsEnable_keeps (s : State) (ms : List Nat) :
    (mothsEnable s ms).pending = s.pending ∧ (mothsEnable s ms).io = s.io := by
  unfold mothsEnable
  simp [foldl_pending, foldl_io, apply_ite State.pending, apply_ite State.io]
@[simp] theorem remapAll_keeps (s : State) (main : Bool) :
    (remapAll s main).pending = s.pending ∧ (remapAll s main).io = s.io := by
  unfold remapAll
  dsimp only
  constructor <;> (repeat' (first | rfl | (apply forNats_pending; intro z q) | (apply forNats_io; intro z q) | (rw [foldl_pending]; rotate_left; intro z q) | (rw [foldl_io]; rotate_left; intro z q) | split | simp)) <;> simp_all
@[simp] theorem tilesFail_keeps (s : State) (l : List (Nat × Nat × Nat)) :
    (tilesFail s l).pending = s.pending ∧ (tilesFail s l).io = s.io := by
  unfold tilesFail
  simp [foldl_pending, foldl_io, apply_ite State.pending, apply_ite State.io]
@[simp] theorem routerStep_keeps (s : State) (k : Nat) :
    (routerStep s k).pending = s.pending ∧ (routerStep s k).io = s.io := by
  unfold routerStep
  split
  · simp
  · rename_i n _
    have hq := queueTake_keeps s n
    split <;> rename_i h <;> rw [h] at hq <;> simpa using hq
@[simp] theorem routerDrain_keeps (es : List Nat) (want : OCell → Bool) (m : Nat) (s : State) :
    (routerDrain es want m s).pending = s.pending ∧ (routerDrain es want m s).io = s.io := by
  induction m generalizing s with
  | zero => exact ⟨rfl, rfl⟩
  | succ m ih =>
    unfold routerDrain
    dsimp only
    split
    · simp
    · constructor <;> simp [ih, forNats_pending, forNats_io]
@[simp] theorem settDrain_keeps (k : Nat) (s : State) :
    (settDrain k s).pending = s.pending ∧ (settDrain k s).io = s.io := by
  induction k generalizing s with
  | zero => exact ⟨rfl, rfl⟩
  | succ k ih =>
    have hq := queueTake_keeps s 64
    unfold settDrain
    split
    · split <;> rename_i h <;> rw [h] at hq <;> simpa [ih] using hq
    · simp
@[simp] theorem gwDeliver_keeps (s : State) (banks : List Nat) :
    (gwDeliver s banks).pending = s.pending ∧ (gwDeliver s banks).io = s.io := by
  unfold gwDeliver
  simp [foldl_pending, foldl_io, apply_ite State.pending, apply_ite State.io]
@[simp] theorem pinsDeliver_keeps (s : State) (es banks : List Nat) :
    (pinsDeliver s es banks).pending = s.pending ∧ (pinsDeliver s es banks).io = s.io := by
  unfold pinsDeliver
  simp
@[simp] theorem outDrain_keeps (s : State) :
    (outDrain s).pending = s.pending ∧ (outDrain s).io = s.io := by
  unfold outDrain
  simp
@[simp] theorem rotsReset_keeps (s : State) :
    (rotsReset s).pending = s.pending ∧ (rotsReset s).io = s.io := by
  unfold rotsReset
  simp [foldl_pending, foldl_io, apply_ite State.pending, apply_ite State.io]
@[simp] theorem banksAct_keeps (s : State) :
    (banksAct s).pending = s.pending ∧ (banksAct s).io = s.io := by
  unfold banksAct
  simp [foldl_pending, foldl_io, apply_ite State.pending, apply_ite State.io]
@[simp] theorem edgeTakes_keeps (s : State) (f : EdgeFails) :
    (edgeTakes s f).pending = s.pending ∧ (edgeTakes s f).io = s.io := by
  unfold edgeTakes
  simp [foldl_pending, foldl_io, apply_ite State.pending, apply_ite State.io]
@[simp] theorem edgeActions_keeps (s : State) (f : EdgeFails) :
    (edgeActions s f).pending = s.pending ∧ (edgeActions s f).io = s.io := by
  unfold edgeActions
  simp [foldl_pending, foldl_io, apply_ite State.pending, apply_ite State.io]
@[simp] theorem engTicks_keeps (s : State) :
    (engTicks s).pending = s.pending ∧ (engTicks s).io = s.io := by
  unfold engTicks
  try dsimp only
  constructor <;> (repeat' (first | rfl | (apply forNats_pending; intro z q) | (apply forNats_io; intro z q) | (rw [foldl_pending]; rotate_left; intro z q) | (rw [foldl_io]; rotate_left; intro z q) | split | simp)) <;> simp_all
@[simp] theorem edgeTraces_keeps (s : State) :
    (edgeTraces s).pending = s.pending ∧ (edgeTraces s).io = s.io := by
  unfold edgeTraces
  simp [foldl_pending, foldl_io, apply_ite State.pending, apply_ite State.io]
@[simp] theorem edgeClusters_keeps (s : State) (f : EdgeFails) :
    (edgeClusters s f).pending = s.pending ∧ (edgeClusters s f).io = s.io := by
  unfold edgeClusters
  try dsimp only
  (repeat' split) <;> (constructor <;> (repeat' (first | rfl | (rw [forNats_pending]; rotate_left; intro z q; try dsimp only) | (rw [forNats_io]; rotate_left; intro z q; try dsimp only) | (rw [foldl_pending]; rotate_left; intro z q; try dsimp only) | (rw [foldl_io]; rotate_left; intro z q; try dsimp only) | split | simp)))
@[simp] theorem edgeBegin_keeps (s : State) :
    (edgeBegin s).pending = s.pending ∧ (edgeBegin s).io = s.io := by
  unfold edgeBegin
  simp [foldl_pending, foldl_io, apply_ite State.pending, apply_ite State.io]
@[simp] theorem subPulse_keeps (s : State) :
    (subPulse s).pending = s.pending ∧ (subPulse s).io = s.io := by
  unfold subPulse
  simp [foldl_pending, foldl_io, apply_ite State.pending, apply_ite State.io]
@[simp] theorem edgeSteps_keeps (s : State) (f : EdgeFails) :
    (edgeSteps s f).pending = s.pending ∧ (edgeSteps s f).io = s.io := by
  unfold edgeSteps
  simp [foldl_pending, foldl_io, apply_ite State.pending, apply_ite State.io]
@[simp] theorem edgeHold_keeps (s : State) (f : EdgeFails) :
    (edgeHold s f).pending = s.pending ∧ (edgeHold s f).io = s.io := by
  unfold edgeHold
  simp [foldl_pending, foldl_io, apply_ite State.pending, apply_ite State.io]
@[simp] theorem mainEdge_keeps (s : State) (f : EdgeFails) :
    (mainEdge s f).pending = s.pending ∧ (mainEdge s f).io = s.io := by
  unfold mainEdge
  extract_lets s0 s1 s2 s3
  have h0 : s0.pending = s.pending ∧ s0.io = s.io := by unfold s0; split <;> simp
  clear_value s0
  have h1 : s1.pending = s0.pending ∧ s1.io = s0.io := by unfold s1; split <;> simp
  clear_value s1
  have h2 : s2.pending = s1.pending ∧ s2.io = s1.io := by unfold s2; simp
  clear_value s2
  have h3 : s3.pending = s2.pending ∧ s3.io = s2.io := by unfold s3; simp
  clear_value s3
  (repeat' split) <;> simp [h0, h1, h2, h3]
@[simp] theorem subEdge_keeps (s : State) (i : Nat) (f : EdgeFails) :
    (subEdge s i f).pending = s.pending ∧ (subEdge s i f).io = s.io := by
  unfold subEdge
  try dsimp only
  (repeat' split) <;> simp_all [foldl_pending, foldl_io, apply_ite State.pending, apply_ite State.io]
@[simp] theorem settSkip_keeps (s : State) (i : Nat) :
    (settSkip s i).pending = s.pending ∧ (settSkip s i).io = s.io := by
  unfold settSkip
  simp [foldl_pending, foldl_io, apply_ite State.pending, apply_ite State.io]
@[simp] theorem settReserveStart_keeps (s : State) :
    (settReserveStart s).pending = s.pending ∧ (settReserveStart s).io = s.io := by
  unfold settReserveStart
  dsimp only
  constructor <;> (repeat' (first | rfl | (apply forNats_pending; intro z q) | (apply forNats_io; intro z q) | (rw [foldl_pending]; rotate_left; intro z q) | (rw [foldl_io]; rotate_left; intro z q) | split | simp)) <;> simp_all
@[simp] theorem settSeen_keeps (s : State) :
    (settSeen s).pending = s.pending ∧ (settSeen s).io = s.io := by
  unfold settSeen
  simp [foldl_pending, foldl_io, apply_ite State.pending, apply_ite State.io]
@[simp] theorem settLose_keeps (s : State) (i : Nat) :
    (settLose s i).pending = s.pending ∧ (settLose s i).io = s.io := by
  unfold settLose
  try dsimp only
  split <;> simp
@[simp] theorem settLists_keeps (s : State) (lost : List Nat) :
    (settLists s lost).pending = s.pending ∧ (settLists s lost).io = s.io := by
  unfold settLists
  try dsimp only
  simp [foldl_pending, foldl_io]
@[simp] theorem settEdge_keeps (s : State) (k : Nat) (lost : List Nat) :
    (settEdge s k lost).pending = s.pending ∧ (settEdge s k lost).io = s.io := by
  unfold settEdge
  extract_lets s0 d s1 t1 s2 s3 s4
  have h0 : s0.pending = s.pending ∧ s0.io = s.io := by unfold s0; split <;> simp
  have h1 : s1.pending = s0.pending ∧ s1.io = s0.io := by unfold s1; simp
  have h2 : s2.pending = s1.pending ∧ s2.io = s1.io := by unfold s2; simp
  have h3 : s3.pending = s2.pending ∧ s3.io = s2.io := by unfold s3; simp
  have h4 : s4.pending = s3.pending ∧ s4.io = s3.io := by unfold s4; simp
  clear_value s0 s1 s2 s3 s4
  (repeat' split) <;> simp_all

-- Service
@[simp] theorem changePend_keeps (s : State) (c : PendChange) :
    (changePend s c).pending = s.pending ∧ (changePend s c).io = s.io := by
  unfold changePend
  simp [foldl_pending, foldl_io, apply_ite State.pending, apply_ite State.io]
@[simp] theorem boundRefuse_keeps (s : State) (tag : Nat) :
    (boundRefuse s tag).pending = s.pending ∧ (boundRefuse s tag).io = s.io := by
  unfold boundRefuse
  simp [foldl_pending, foldl_io, apply_ite State.pending, apply_ite State.io]
@[simp] theorem setTickTake_keeps (s : State) (tag : Nat) (pl : List Word) :
    (setTickTake s tag pl).pending = s.pending ∧ (setTickTake s tag pl).io = s.io := by
  unfold setTickTake
  simp [foldl_pending, foldl_io, apply_ite State.pending, apply_ite State.io]
@[simp] theorem setProfileTake_keeps (s : State) (tag : Nat) (pl : List Word) :
    (setProfileTake s tag pl).pending = s.pending ∧ (setProfileTake s tag pl).io = s.io := by
  unfold setProfileTake
  simp [foldl_pending, foldl_io, apply_ite State.pending, apply_ite State.io]
@[simp] theorem retireTake_keeps (s : State) (tag : Nat) (pl : List Word) :
    (retireTake s tag pl).pending = s.pending ∧ (retireTake s tag pl).io = s.io := by
  unfold retireTake
  simp [foldl_pending, foldl_io, apply_ite State.pending, apply_ite State.io]
@[simp] theorem restorePower_keeps (s : State) (n : Nat) :
    (restorePower s n).pending = s.pending ∧ (restorePower s n).io = s.io := by
  unfold restorePower
  simp [foldl_pending, foldl_io, apply_ite State.pending, apply_ite State.io]
@[simp] theorem restoreTake_keeps (s : State) (tag : Nat) (pl : List Word) :
    (restoreTake s tag pl).pending = s.pending ∧ (restoreTake s tag pl).io = s.io := by
  unfold restoreTake
  simp [foldl_pending, foldl_io, apply_ite State.pending, apply_ite State.io]
@[simp] theorem migrateTake_keeps (s : State) (tag : Nat) (pl : List Word) :
    (migrateTake s tag pl).pending = s.pending ∧ (migrateTake s tag pl).io = s.io := by
  unfold migrateTake
  simp [foldl_pending, foldl_io, apply_ite State.pending, apply_ite State.io]
@[simp] theorem refFail_keeps (s : State) (cls inst tile : Nat) (fails : Bool) :
    (refFail s cls inst tile fails).pending = s.pending ∧ (refFail s cls inst tile fails).io = s.io := by
  unfold refFail
  simp [foldl_pending, foldl_io, apply_ite State.pending, apply_ite State.io]
@[simp] theorem bodySeen_keeps (s : State) (t : Nat) :
    (bodySeen s t).pending = s.pending ∧ (bodySeen s t).io = s.io := by
  unfold bodySeen
  try dsimp only
  (repeat' split) <;> simp_all [foldl_pending, foldl_io, apply_ite State.pending, apply_ite State.io]
@[simp] theorem restoreCopy_keeps (tiles : Tbl (List Byte)) (n : Nat) (l : List (Nat × Nat)) (s : State) :
    (restoreCopy tiles n l s).2.pending = s.pending ∧ (restoreCopy tiles n l s).2.io = s.io := by
  induction l generalizing s with
  | nil => exact ⟨rfl, rfl⟩
  | cons a t ih => unfold restoreCopy; dsimp only; (repeat' split) <;> simp [ih]
@[simp] theorem restoreLoad_keeps (tiles : Tbl (List Byte)) (l : List Nat) (s : State) :
    (restoreLoad tiles l s).2.pending = s.pending ∧ (restoreLoad tiles l s).2.io = s.io := by
  induction l generalizing s with
  | nil => exact ⟨rfl, rfl⟩
  | cons n t ih => unfold restoreLoad; dsimp only; split <;> simp [ih]
@[simp] theorem cluRefill_keeps (s : State) (k : Nat) :
    (cluRefill s k).pending = s.pending ∧ (cluRefill s k).io = s.io := by
  unfold cluRefill
  try dsimp only
  constructor <;> (repeat' (first | rfl | (apply forNats_pending; intro z q) | (apply forNats_io; intro z q) | (rw [foldl_pending]; rotate_left; intro z q) | (rw [foldl_io]; rotate_left; intro z q) | split | simp)) <;> simp_all
@[simp] theorem restoreFail_keeps (s : State) (tag e status : Nat) :
    (restoreFail s tag e status).pending = s.pending ∧ (restoreFail s tag e status).io = s.io := by
  unfold restoreFail
  simp [foldl_pending, foldl_io, apply_ite State.pending, apply_ite State.io]
@[simp] theorem restoreEnd_keeps (s : State) (p : SvcPend) (e : Nat) (back : Bool) (m : W64) (bistOk : Bool) (tiles : Tbl (List Byte)) :
    (restoreEnd s p e back m bistOk tiles).pending = s.pending ∧ (restoreEnd s p e back m bistOk tiles).io = s.io := by
  unfold restoreEnd
  extract_lets s0
  have h0 : s0.pending = s.pending ∧ s0.io = s.io := by unfold s0; simp
  have hr := restoreLoad_keeps tiles (pairOf s e) s0
  split
  · simpa using h0
  · split
    · rename_i h; rw [h] at hr; simpa using And.intro (hr.1.trans h0.1) (hr.2.trans h0.2)
    · rename_i s1 h
      rw [h] at hr
      extract_lets s2
      have h2 : s2.pending = s.pending ∧ s2.io = s.io := by
        unfold s2
        rw [(cluRefill_keeps _ _).1, (cluRefill_keeps _ _).2, forNats_pending _ _ _ (by intro z q; simp), forNats_io _ _ _ (by intro z q; simp)]
        exact ⟨hr.1.trans h0.1, hr.2.trans h0.2⟩
      split <;> simp [h2]
@[simp] theorem loadUbankTake_keeps (s : State) (tag : Nat) (pl : List Word) :
    (loadUbankTake s tag pl).pending = s.pending ∧ (loadUbankTake s tag pl).io = s.io := by
  unfold loadUbankTake
  dsimp only
  (repeat' split) <;> simp_all [foldl_pending, foldl_io, apply_ite State.pending, apply_ite State.io]
@[simp] theorem swapUbankTake_keeps (s : State) (tag : Nat) (pl : List Word) :
    (swapUbankTake s tag pl).pending = s.pending ∧ (swapUbankTake s tag pl).io = s.io := by
  unfold swapUbankTake
  simp [foldl_pending, foldl_io, apply_ite State.pending, apply_ite State.io]
@[simp] theorem tilePut_keeps (s : State) (cls inst tile : Nat) (bs : List Byte) :
    (tilePut s cls inst tile bs).pending = s.pending ∧ (tilePut s cls inst tile bs).io = s.io := by
  unfold tilePut
  simp [foldl_pending, foldl_io, apply_ite State.pending, apply_ite State.io]
@[simp] theorem repairSeen_keeps (s : State) (cls inst tile : Nat) :
    (repairSeen s cls inst tile).pending = s.pending ∧ (repairSeen s cls inst tile).io = s.io := by
  unfold repairSeen
  try dsimp only
  (repeat' split) <;> simp_all [foldl_pending, foldl_io, apply_ite State.pending, apply_ite State.io]
@[simp] theorem twinSeen_keeps (s : State) (inst tile : Nat) :
    (twinSeen s inst tile).pending = s.pending ∧ (twinSeen s inst tile).io = s.io := by
  unfold twinSeen
  simp [foldl_pending, foldl_io, apply_ite State.pending, apply_ite State.io]
@[simp] theorem twinPut_keeps (s : State) (inst tile : Nat) (bs : List Byte) :
    (twinPut s inst tile bs).pending = s.pending ∧ (twinPut s inst tile bs).io = s.io := by
  unfold twinPut
  simp [foldl_pending, foldl_io, apply_ite State.pending, apply_ite State.io]
@[simp] theorem reloadTake_keeps (s : State) (tag : Nat) (pl : List Word) (bytes : List Byte) (refBad : Bool) :
    (reloadTake s tag pl bytes refBad).pending = s.pending ∧ (reloadTake s tag pl bytes refBad).io = s.io := by
  unfold reloadTake
  dsimp only
  (repeat' split) <;> simp_all [foldl_pending, foldl_io, apply_ite State.pending, apply_ite State.io]
@[simp] theorem scrubRead_keeps (s : State) (cls inst tile : Nat) (corrupt : Bool) :
    (scrubRead s cls inst tile corrupt).pending = s.pending ∧ (scrubRead s cls inst tile corrupt).io = s.io := by
  unfold scrubRead
  simp [foldl_pending, foldl_io, apply_ite State.pending, apply_ite State.io]
@[simp] theorem scrubPass_keeps (s : State) :
    (scrubPass s).pending = s.pending ∧ (scrubPass s).io = s.io := by
  unfold scrubPass
  simp [foldl_pending, foldl_io, apply_ite State.pending, apply_ite State.io]
@[simp] theorem scrubMove_keeps (s : State) (cls inst : Nat) :
    (scrubMove s cls inst).pending = s.pending ∧ (scrubMove s cls inst).io = s.io := by
  unfold scrubMove
  simp [foldl_pending, foldl_io, apply_ite State.pending, apply_ite State.io]
@[simp] theorem rebuildFrom_keeps (s : State) (i tile : Nat) (bytes : List Byte) :
    (rebuildFrom s i tile bytes).pending = s.pending ∧ (rebuildFrom s i tile bytes).io = s.io := by
  unfold rebuildFrom
  simp [foldl_pending, foldl_io, apply_ite State.pending, apply_ite State.io]
@[simp] theorem remapTake_keeps (s : State) (tag : Nat) (pl : List Word) :
    (remapTake s tag pl).pending = s.pending ∧ (remapTake s tag pl).io = s.io := by
  unfold remapTake
  simp [foldl_pending, foldl_io, apply_ite State.pending, apply_ite State.io]
@[simp] theorem enumerateTake_keeps (s : State) (tag : Nat) :
    (enumerateTake s tag).pending = s.pending ∧ (enumerateTake s tag).io = s.io := by
  unfold enumerateTake
  simp [foldl_pending, foldl_io, apply_ite State.pending, apply_ite State.io]
@[simp] theorem openSealTake_keeps (s : State) (tag : Nat) :
    (openSealTake s tag).pending = s.pending ∧ (openSealTake s tag).io = s.io := by
  unfold openSealTake
  simp [foldl_pending, foldl_io, apply_ite State.pending, apply_ite State.io]
@[simp] theorem closeSealTake_keeps (s : State) (tag : Nat) :
    (closeSealTake s tag).pending = s.pending ∧ (closeSealTake s tag).io = s.io := by
  unfold closeSealTake
  simp [foldl_pending, foldl_io, apply_ite State.pending, apply_ite State.io]

-- Power
@[simp] theorem hostDomOff_keeps (s : State) (d : Nat) :
    (hostDomOff s d).pending = s.pending ∧ (hostDomOff s d).io = s.io := by
  unfold hostDomOff
  simp [foldl_pending, foldl_io, apply_ite State.pending, apply_ite State.io]
@[simp] theorem powerWrite_keeps (s : State) (d : Nat) (on : Bool) :
    (powerWrite s d on).pending = s.pending ∧ (powerWrite s d on).io = s.io := by
  unfold powerWrite
  simp [foldl_pending, foldl_io, apply_ite State.pending, apply_ite State.io]
@[simp] theorem dozeNow_keeps (s : State) (n : Nat) :
    (dozeNow s n).pending = s.pending ∧ (dozeNow s n).io = s.io := by
  unfold dozeNow
  simp [foldl_pending, foldl_io, apply_ite State.pending, apply_ite State.io]
@[simp] theorem offGo_keeps (s : State) (k : Nat) :
    (offGo s k).pending = s.pending ∧ (offGo s k).io = s.io := by
  unfold offGo
  simp [foldl_pending, foldl_io, apply_ite State.pending, apply_ite State.io]

-- Debug
@[simp] theorem lockRej_keeps (s : State) :
    (lockRej s).pending = s.pending ∧ (lockRej s).io = s.io := by
  unfold lockRej
  simp [foldl_pending, foldl_io, apply_ite State.pending, apply_ite State.io]
@[simp] theorem dbgMap_keeps (s : State) (n : Nat) (f : DbgState → DbgState) :
    (dbgMap s n f).pending = s.pending ∧ (dbgMap s n f).io = s.io := by
  unfold dbgMap
  simp [foldl_pending, foldl_io, apply_ite State.pending, apply_ite State.io]
@[simp] theorem haltRequest_keeps (s : State) (n cause : Nat) :
    (haltRequest s n cause).pending = s.pending ∧ (haltRequest s n cause).io = s.io := by
  unfold haltRequest
  simp [foldl_pending, foldl_io, apply_ite State.pending, apply_ite State.io]
@[simp] theorem haltCmd_keeps (s : State) (n : Nat) :
    (haltCmd s n).pending = s.pending ∧ (haltCmd s n).io = s.io := by
  unfold haltCmd
  simp [foldl_pending, foldl_io, apply_ite State.pending, apply_ite State.io]
@[simp] theorem haltNow_keeps (s : State) (n : Nat) :
    (haltNow s n).pending = s.pending ∧ (haltNow s n).io = s.io := by
  unfold haltNow
  simp [foldl_pending, foldl_io, apply_ite State.pending, apply_ite State.io]
@[simp] theorem groupHalt_keeps (s : State) (n : Nat) :
    (groupHalt s n).pending = s.pending ∧ (groupHalt s n).io = s.io := by
  unfold groupHalt
  simp [foldl_pending, foldl_io, apply_ite State.pending, apply_ite State.io]
@[simp] theorem resumeNow_keeps (s : State) (sub n : Nat) :
    (resumeNow s sub n).pending = s.pending ∧ (resumeNow s sub n).io = s.io := by
  unfold resumeNow
  simp [foldl_pending, foldl_io, apply_ite State.pending, apply_ite State.io]
@[simp] theorem resumeCmd_keeps (s : State) (sub n : Nat) :
    (resumeCmd s sub n).pending = s.pending ∧ (resumeCmd s sub n).io = s.io := by
  unfold resumeCmd
  simp [foldl_pending, foldl_io, apply_ite State.pending, apply_ite State.io]
@[simp] theorem freeOne_keeps (s : State) (i : Nat) :
    (freeOne s i).pending = s.pending ∧ (freeOne s i).io = s.io := by
  unfold freeOne
  simp [foldl_pending, foldl_io, apply_ite State.pending, apply_ite State.io]
@[simp] theorem lockfreeCmd_keeps (s : State) (n : Nat) :
    (lockfreeCmd s n).pending = s.pending ∧ (lockfreeCmd s n).io = s.io := by
  unfold lockfreeCmd
  simp [foldl_pending, foldl_io, apply_ite State.pending, apply_ite State.io]
@[simp] theorem cmdWrite_keeps (s : State) (n : Nat) (v : Word) :
    (cmdWrite s n v).pending = s.pending ∧ (cmdWrite s n v).io = s.io := by
  unfold cmdWrite
  try dsimp only
  (repeat' split) <;> simp_all [foldl_pending, foldl_io, apply_ite State.pending, apply_ite State.io]
@[simp] theorem ttxTake_keeps (s : State) (n : Nat) :
    (ttxTake s n).pending = s.pending ∧ (ttxTake s n).io = s.io := by
  unfold ttxTake
  try dsimp only
  constructor <;> (repeat' (first | rfl | (apply forNats_pending; intro z q) | (apply forNats_io; intro z q) | (rw [foldl_pending]; rotate_left; intro z q) | (rw [foldl_io]; rotate_left; intro z q) | split | simp)) <;> simp_all
@[simp] theorem trxWrite_keeps (s : State) (n : Nat) (v : Word) :
    (trxWrite s n v).pending = s.pending ∧ (trxWrite s n v).io = s.io := by
  unfold trxWrite
  try dsimp only
  constructor <;> (repeat' (first | rfl | (apply forNats_pending; intro z q) | (apply forNats_io; intro z q) | (rw [foldl_pending]; rotate_left; intro z q) | (rw [foldl_io]; rotate_left; intro z q) | split | simp)) <;> simp_all
@[simp] theorem settUnlock_keeps (s : State) (granted : Bool) :
    (settUnlock s granted).pending = s.pending ∧ (settUnlock s granted).io = s.io := by
  unfold settUnlock
  simp [foldl_pending, foldl_io, apply_ite State.pending, apply_ite State.io]
@[simp] theorem engErase_keeps (s : State) (n : Nat) :
    (engErase s n).pending = s.pending ∧ (engErase s n).io = s.io := by
  unfold engErase
  simp [foldl_pending, foldl_io, apply_ite State.pending, apply_ite State.io]
@[simp] theorem badgerLoad_keeps (s : State) :
    (badgerLoad s).pending = s.pending ∧ (badgerLoad s).io = s.io := by
  unfold badgerLoad
  simp [foldl_pending, foldl_io, apply_ite State.pending, apply_ite State.io]
@[simp] theorem settWipe_keeps (s : State) :
    (settWipe s).pending = s.pending ∧ (settWipe s).io = s.io := by
  have h (z : State) (f : Sett → Sett) :
      (settMap (tilesClean (tilesClean (tilesClean z 5 0) 5 1) 5 2) f).pending = z.pending ∧
      (settMap (tilesClean (tilesClean (tilesClean z 5 0) 5 1) 5 2) f).io = z.io := by
    simp only [settMap_keeps, tilesClean_keeps, and_self]
  unfold settWipe
  extract_lets s1 c0 c1 c2 s2 s3
  have e2 : s2.pending = s1.pending ∧ s2.io = s1.io := ⟨rfl, rfl⟩
  have e1 : s1.pending = s.pending ∧ s1.io = s.io := ⟨rfl, rfl⟩
  exact ⟨(h s2 _).1.trans (e2.1.trans e1.1), (h s2 _).2.trans (e2.2.trans e1.2)⟩
@[simp] theorem settErase_keeps (s : State) :
    (settErase s).pending = s.pending ∧ (settErase s).io = s.io := by
  unfold settErase
  simp [foldl_pending, foldl_io, apply_ite State.pending, apply_ite State.io]
@[simp] theorem sramErase_keeps (s : State) :
    (sramErase s).pending = s.pending ∧ (sramErase s).io = s.io := by
  unfold sramErase
  simp [foldl_pending, foldl_io, apply_ite State.pending, apply_ite State.io]

-- Regs
@[simp] theorem winSeen_keeps (s : State) (a reader : Nat) :
    (winSeen s a reader).pending = s.pending ∧ (winSeen s a reader).io = s.io := by
  unfold winSeen
  simp [foldl_pending, foldl_io, apply_ite State.pending, apply_ite State.io]
@[simp] theorem maskPut_keeps (s : State) (a : Nat) (m v : Word) :
    (maskPut s a m v).pending = s.pending ∧ (maskPut s a m v).io = s.io := by
  unfold maskPut
  simp [foldl_pending, foldl_io, apply_ite State.pending, apply_ite State.io]
@[simp] theorem tickWrite_keeps (s : State) (f : Tick → Tick) :
    (tickWrite s f).pending = s.pending ∧ (tickWrite s f).io = s.io := by
  unfold tickWrite
  simp [foldl_pending, foldl_io, apply_ite State.pending, apply_ite State.io]
@[simp] theorem ktckWrite_keeps (s : State) (a : Nat) (v : Word) :
    (ktckWrite s a v).pending = s.pending ∧ (ktckWrite s a v).io = s.io := by
  unfold ktckWrite
  try dsimp only
  (repeat' split) <;> simp_all [foldl_pending, foldl_io, apply_ite State.pending, apply_ite State.io]
@[simp] theorem srcStatWrite_keeps (s : State) (x : Nat) (v : Word) :
    (srcStatWrite s x v).pending = s.pending ∧ (srcStatWrite s x v).io = s.io := by
  unfold srcStatWrite
  simp [foldl_pending, foldl_io, apply_ite State.pending, apply_ite State.io]
@[simp] theorem kevhWrite_keeps (s : State) (a : Nat) (v : Word) :
    (kevhWrite s a v).pending = s.pending ∧ (kevhWrite s a v).io = s.io := by
  unfold kevhWrite
  extract_lets o
  clear_value o
  repeat' split
  all_goals first | exact ⟨rfl, rfl⟩ | exact hubCtlWrite_keeps _ _ | exact srcCfgWrite_keeps _ _ _ | exact srcStatWrite_keeps _ _ _ | exact swPut_keeps _ _ _ | exact eoiWrite_keeps _ _ _ | exact ⟨(hubWithdraw_keeps _).1.trans (maskPut_keeps _ _ _ _).1, (hubWithdraw_keeps _).2.trans (maskPut_keeps _ _ _ _).2⟩ | exact ⟨(hubWithdraw_keeps _).1.trans (regPut_keeps _ _ _).1, (hubWithdraw_keeps _).2.trans (regPut_keeps _ _ _).2⟩
@[simp] theorem kmbxWrite_keeps (s : State) (a : Nat) (v : Word) :
    (kmbxWrite s a v).pending = s.pending ∧ (kmbxWrite s a v).io = s.io := by
  unfold kmbxWrite
  simp [foldl_pending, foldl_io, apply_ite State.pending, apply_ite State.io]
@[simp] theorem kpwrWrite_keeps (s : State) (a : Nat) (v : Word) :
    (kpwrWrite s a v).pending = s.pending ∧ (kpwrWrite s a v).io = s.io := by
  unfold kpwrWrite
  simp [foldl_pending, foldl_io, apply_ite State.pending, apply_ite State.io]
@[simp] theorem dbgCtlWrite_keeps (s : State) (n : Nat) (v : Word) :
    (dbgCtlWrite s n v).pending = s.pending ∧ (dbgCtlWrite s n v).io = s.io := by
  unfold dbgCtlWrite
  simp [foldl_pending, foldl_io, apply_ite State.pending, apply_ite State.io]
@[simp] theorem ktrcWrite_keeps (s : State) (a : Nat) (v : Word) :
    (ktrcWrite s a v).pending = s.pending ∧ (ktrcWrite s a v).io = s.io := by
  unfold ktrcWrite
  dsimp only
  (repeat' split) <;> simp_all [foldl_pending, foldl_io, apply_ite State.pending, apply_ite State.io]
@[simp] theorem stageTile_keeps (s : State) (o : Nat) (bs : List Byte) :
    (stageTile s o bs).pending = s.pending ∧ (stageTile s o bs).io = s.io := by
  unfold stageTile
  simp [foldl_pending, foldl_io, apply_ite State.pending, apply_ite State.io]
@[simp] theorem stageWrite_keeps (s : State) (o : Nat) (bs : List Byte) :
    (stageWrite s o bs).pending = s.pending ∧ (stageWrite s o bs).io = s.io := by
  unfold stageWrite
  simp [foldl_pending, foldl_io, apply_ite State.pending, apply_ite State.io]
@[simp] theorem accessFault_keeps (s : State) (off size : Nat) (write : Bool) :
    (accessFault s off size write).pending = s.pending ∧ (accessFault s off size write).io = s.io := by
  unfold accessFault
  simp [foldl_pending, foldl_io, apply_ite State.pending, apply_ite State.io]
@[simp] theorem viewTile_keeps (s : State) (reader o : Nat) (bs : List Byte) :
    (viewTile s reader o bs).pending = s.pending ∧ (viewTile s reader o bs).io = s.io := by
  unfold viewTile
  simp [foldl_pending, foldl_io, apply_ite State.pending, apply_ite State.io]
@[simp] theorem viewWrite_keeps (s : State) (reader o : Nat) (bs : List Byte) :
    (viewWrite s reader o bs).pending = s.pending ∧ (viewWrite s reader o bs).io = s.io := by
  unfold viewWrite
  simp [foldl_pending, foldl_io, apply_ite State.pending, apply_ite State.io]

-- Mailbox
@[simp] theorem mbxAccept_keeps (s : State) (deferred : Bool) :
    (mbxAccept s deferred).pending = s.pending ∧ (mbxAccept s deferred).io = s.io := by
  unfold mbxAccept
  simp [foldl_pending, foldl_io, apply_ite State.pending, apply_ite State.io]
@[simp] theorem holdTake_keeps (s : State) (tag : Nat) :
    (holdTake s tag).pending = s.pending ∧ (holdTake s tag).io = s.io := by
  unfold holdTake
  try dsimp only
  (repeat' split) <;> simp_all [foldl_pending, foldl_io, apply_ite State.pending, apply_ite State.io]
@[simp] theorem countersClear_keeps (s : State) :
    (countersClear s).pending = s.pending ∧ (countersClear s).io = s.io := by
  unfold countersClear
  simp [foldl_pending, foldl_io, apply_ite State.pending, apply_ite State.io]
@[simp] theorem faultsRead_keeps (s : State) (want : Nat) (bad : List Nat) :
    (faultsRead s want bad).2.pending = s.pending ∧ (faultsRead s want bad).2.io = s.io := by
  unfold faultsRead
  simp [foldl_pending, foldl_io, apply_ite State.pending, apply_ite State.io]

-- BoundaryOps
@[simp] theorem padsEnter_keeps (s : State) :
    (padsEnter s).pending = s.pending ∧ (padsEnter s).io = s.io := by
  unfold padsEnter
  simp [foldl_pending, foldl_io, apply_ite State.pending, apply_ite State.io]
@[simp] theorem cyclesGo_keeps (s : State) :
    (cyclesGo s).pending = s.pending ∧ (cyclesGo s).io = s.io := by
  unfold cyclesGo
  simp [foldl_pending, foldl_io, apply_ite State.pending, apply_ite State.io]
@[simp] theorem momentsBack_keeps (now : W64) (s : State) :
    (momentsBack now s).pending = s.pending ∧ (momentsBack now s).io = s.io := by
  unfold momentsBack
  try dsimp only
  constructor <;> (repeat' (first | rfl | (apply forNats_pending; intro z q) | (apply forNats_io; intro z q) | (rw [foldl_pending]; rotate_left; intro z q) | (rw [foldl_io]; rotate_left; intro z q) | split | simp)) <;> simp_all
@[simp] theorem timersBack_keeps (old s : State) :
    (timersBack old s).pending = s.pending ∧ (timersBack old s).io = s.io := by
  unfold timersBack
  try dsimp only
  constructor <;> (repeat' (first | rfl | (apply forNats_pending; intro z q) | (apply forNats_io; intro z q) | (rw [foldl_pending]; rotate_left; intro z q) | (rw [foldl_io]; rotate_left; intro z q) | split | simp)) <;> simp_all
@[simp] theorem takeBn9_keeps (s : State) (tbi : W64) :
    (takeBn9 s tbi).pending = s.pending ∧ (takeBn9 s tbi).io = s.io := by
  unfold takeBn9
  try dsimp only
  (repeat' split) <;> simp_all [foldl_pending, foldl_io, apply_ite State.pending, apply_ite State.io]
@[simp] theorem rateStep_keeps (s : State) (tbi : W64) (c : Nat) :
    (rateStep s tbi c).pending = s.pending ∧ (rateStep s tbi c).io = s.io := by
  unfold rateStep
  simp [foldl_pending, foldl_io, apply_ite State.pending, apply_ite State.io]
@[simp] theorem forwardStep_keeps (s : State) (tbi z : W64) :
    (forwardStep s tbi z).pending = s.pending ∧ (forwardStep s tbi z).io = s.io := by
  unfold forwardStep
  simp [foldl_pending, foldl_io, apply_ite State.pending, apply_ite State.io]
@[simp] theorem backwardStep_keeps (s : State) (tbi z : W64) :
    (backwardStep s tbi z).pending = s.pending ∧ (backwardStep s tbi z).io = s.io := by
  unfold backwardStep
  simp [foldl_pending, foldl_io, apply_ite State.pending, apply_ite State.io]
@[simp] theorem bn9Step_keeps (s : State) (tbi z : W64) :
    (bn9Step s tbi z).pending = s.pending ∧ (bn9Step s tbi z).io = s.io := by
  unfold bn9Step
  dsimp only
  constructor <;> (repeat' (first | rfl | (apply forNats_pending; intro z q) | (apply forNats_io; intro z q) | (rw [foldl_pending]; rotate_left; intro z q) | (rw [foldl_io]; rotate_left; intro z q) | split | simp)) <;> simp_all
@[simp] theorem tbiTake_keeps (s : State) (tbi : W64) :
    (tbiTake s tbi).pending = s.pending ∧ (tbiTake s tbi).io = s.io := by
  unfold tbiTake
  simp [foldl_pending, foldl_io, apply_ite State.pending, apply_ite State.io]
@[simp] theorem bn9Only_keeps (s : State) (tbi : W64) :
    (bn9Only s tbi).pending = s.pending ∧ (bn9Only s tbi).io = s.io := by
  unfold bn9Only
  simp [foldl_pending, foldl_io, apply_ite State.pending, apply_ite State.io]
@[simp] theorem tbsTake_keeps (s : State) (tbi z : W64) :
    (tbsTake s tbi z).pending = s.pending ∧ (tbsTake s tbi z).io = s.io := by
  unfold tbsTake
  simp [foldl_pending, foldl_io, apply_ite State.pending, apply_ite State.io]

end Sys2Proof.Machine
end

