-- ==== Sys2Proof/WellFormed.lean ====
section
/-! DEFINITION. When a command is well formed: every operand names something that Table 1.1, Table 19.1 or the rule of
the command provides. -/

namespace Sys2Proof

/-- What an edge may report as failing: contexts, engines, entries of the queues, and tiles that Table 11.1 provides. -/
def EdgeFails.wf (f : EdgeFails) : Bool :=
  f.ctl.all (fun i => decide (i < 0x20000)) && f.scan.all (fun q => decide (q.1 < 64) && decide (q.2 < 0x20000)) &&
  f.buf0.all (fun i => decide (i < 512)) && f.buf1.all (fun i => decide (i < 512)) &&
  f.tiles.all (fun q => decide (q.1 < 5) && decide (q.2.1 < 67) && decide (q.2.2 < 32768))

/-- The operand ranges of each command. -/
def Instr.wf : Instr → Bool
  | .powerOn => true
  | .blockReset cause => decide (cause < 3)
  | .kdioLongLow => true
  | .kdioLineError => true
  | .badgerRelease _ _ _ => true
  | .sidebandReady _ _ => true
  | .tbiUpdate _ l => l.all (fun q => decide (q.1 < 64) || q.1 == 66)
  | .timebaseForwardStep _ _ => true
  | .timebaseBackwardStep _ _ => true
  | .batlossRise => true
  | .vlowackChange _ => true
  | .ksealFilterChange _ => true
  | .hostLowWordRead off _ _ => decide (off < 0x4000000)
  | .hostLowWordWrite off _ => decide (off < 0x4000000)
  | .hostHighWordWrite off _ => decide (off < 0x4000000)
  | .misalignedHostAccess off size _ => decide (off < 0x4000000) && decide (size ≤ 32)
  | .unmappedHostAccess off size _ => decide (off < 0x4000000) && decide (size ≤ 32)
  | .registerWrite off _ _ => decide (off < 0x4000000)
  | .ageLimitWrite _ => true
  | .hostqCellPop _ => true
  | .clusterWorstRead k => decide (k < 8)
  | .listmaxRead k => decide (k < 8)
  | .hmbCplRead => true
  | .eventClaim c => decide (c < 8)
  | .eventEoi c _ => decide (c < 8)
  | .sourceInsvcClear src => decide (src < 1024)
  | .sourcePendClear src => decide (src < 1024)
  | .softwareEventSet w _ => decide (w < 16)
  | .softwareEventClear w _ => decide (w < 16)
  | .sourceDisable src _ => decide (src < 1024)
  | .hubDisable => true
  | .powerRequest d _ => decide (d < 86)
  | .domainPowerUpDone d => decide (d < 86)
  | .sealParameterWrite _ => true
  | .batteryWriteDone _ => true
  | .mothEnable m _ => decide (m < 104)
  | .mothDisable m _ => decide (m < 104)
  | .mothPcWrite m _ => decide (m < 104)
  | .mothImemWrite m i _ => decide (m < 104) && decide (i < 32)
  | .mothRestartWrite m _ => decide (m < 104)
  | .mothClockWrite m _ => decide (m < 104)
  | .mothInject m _ => decide (m < 104)
  | .mothInjectedExecute m _ => decide (m < 104)
  | .contextViewWrite off data => decide (off < 0x1000000) && decide (0 < data.length ∧ data.length ≤ 64)
  | .stagingBufferWrite off data => decide (off < 0x200000) && decide (0 < data.length ∧ data.length ≤ 64)
  | .debugUnlock _ => true
  | .debugUnlockDone _ => true
  | .halt n => decide (n < 67)
  | .resume n => decide (n < 67)
  | .step n => decide (n < 67)
  | .lockfree n => decide (n < 67)
  | .debugHaltTaken n => decide (n < 67)
  | .debugDataRead n => decide (n < 67)
  | .debugDataWrite n _ => decide (n < 67)
  | .terminalTxRead n => decide (n < 67)
  | .terminalRxWrite n _ => decide (n < 67)
  | .sarernIdr op _ => decide (op < 16)
  | .sarernRd addr _ _ => decide (addr < 0x1000000)
  | .sarernRdc addr _ _ => decide (addr < 0x1000000)
  | .sarernWr addr _ _ => decide (addr < 0x1000000)
  | .release len _ _ _ => decide (len < 65536)
  | .hold len _ => decide (len < 65536)
  | .setProfile len _ => decide (len < 65536)
  | .setTick len _ => decide (len < 65536)
  | .retireEngine len _ => decide (len < 65536)
  | .restoreEngine len _ => decide (len < 65536)
  | .migrate len _ => decide (len < 65536)
  | .loadUbank len _ => decide (len < 65536)
  | .loadUbankDone => true
  | .swapUbank len _ => decide (len < 65536)
  | .reloadTile len _ bytes _ => decide (len < 65536) && decide (bytes.length = 64)
  | .remapMoth len _ => decide (len < 65536)
  | .enumerateChain len _ => decide (len < 65536)
  | .sealStatus len _ => decide (len < 65536)
  | .openSeal len _ => decide (len < 65536)
  | .closeSeal len _ => decide (len < 65536)
  | .clearCounters len _ => decide (len < 65536)
  | .readFaults len _ bad => decide (len < 65536) && bad.all (fun i => decide (i < 1024))
  | .releasePrecheckPass => true
  | .releaseTileCopy bytes _ => decide (bytes.length = 64)
  | .releaseReadbackDone => true
  | .settIdentReport => true
  | .mainTickEdge fails => fails.wf
  | .publishReserveStart => true
  | .foxSubtickEdge fails => fails.wf
  | .foxSubtickReserve => true
  | .settTickEdge tiles lost => tiles.all (fun q => decide (q.1 < 3) && decide (q.2 < 6144)) && lost.all (fun i => decide (i < 1024))
  | .settPublishReserve => true
  | .queueAgeSweep => true
  | .routerCell k _ _ => decide (k < 9)
  | .inboundCellArrival n _ _ => decide (n < 67)
  | .hostQueueArrival => true
  | .publicationCopyAccept => true
  | .publicationEntryWrite => true
  | .publicationHeaderDone => true
  | .historyCopyAccept => true
  | .historyEntryWrite _ => true
  | .historyEntryComplete => true
  | .gatewayCellArrival b => decide (b < 7)
  | .gatewayCellPass b _ => decide (b < 7)
  | .cellFrameReceive p _ _ _ => decide (p < 2)
  | .enumerationOfferReceive p _ _ _ => decide (p < 2)
  | .enumerationCommitReceive p _ _ _ => decide (p < 2)
  | .ringStatusReceive p _ _ _ => decide (p < 2)
  | .chainPortDown p _ => decide (p < 2)
  | .ringStatusSend p => decide (p < 2)
  | .breakClearSend p => decide (p < 2)
  | .laneRetrainDone p working => decide (p < 2) && decide (working < 16)
  | .enumerationOfferTimeout => true
  | .tentativeAddressDrop => true
  | .alu n => decide (n < 67)
  | .aluImmediate n => decide (n < 67)
  | .shiftImmediate n => decide (n < 67)
  | .unary n => decide (n < 67)
  | .sat n => decide (n < 67)
  | .cmp n => decide (n < 67)
  | .plog n => decide (n < 67)
  | .getp n => decide (n < 67)
  | .setp n => decide (n < 67)
  | .mul n => decide (n < 67)
  | .div n => decide (n < 67)
  | .load n => decide (n < 67)
  | .store n => decide (n < 67)
  | .ldc n => decide (n < 67)
  | .stc n => decide (n < 67)
  | .fence n => decide (n < 67)
  | .farLoadData n _ => decide (n < 67)
  | .farStoreAccept n _ => decide (n < 67)
  | .farStoreComplete n => decide (n < 67)
  | .cmov n => decide (n < 67)
  | .csetb n => decide (n < 67)
  | .csetl n => decide (n < 67)
  | .csetbl n => decide (n < 67)
  | .candp n => decide (n < 67)
  | .cgetb n => decide (n < 67)
  | .cgetl n => decide (n < 67)
  | .cgetp n => decide (n < 67)
  | .cgett n => decide (n < 67)
  | .cseal n => decide (n < 67)
  | .cunseal n => decide (n < 67)
  | .csentry n => decide (n < 67)
  | .br n => decide (n < 67)
  | .blc n => decide (n < 67)
  | .jr n => decide (n < 67)
  | .cj n => decide (n < 67)
  | .cjo n => decide (n < 67)
  | .rep n => decide (n < 67)
  | .repi n => decide (n < 67)
  | .bit n => decide (n < 67)
  | .fld n => decide (n < 67)
  | .crcStep n => decide (n < 67)
  | .crcinit n => decide (n < 67)
  | .crcfin n => decide (n < 67)
  | .crcblk n => decide (n < 67)
  | .fop n => decide (n < 67)
  | .fdiv n => decide (n < 67)
  | .fsqrt n => decide (n < 67)
  | .fcmp n => decide (n < 67)
  | .fcvt n => decide (n < 67)
  | .tpop n => decide (n < 67)
  | .tpeek n => decide (n < 67)
  | .tpush n => decide (n < 67)
  | .tpopr n => decide (n < 67)
  | .tpushr n => decide (n < 67)
  | .ctxopen n => decide (n < 67)
  | .ctxcommit n => decide (n < 67)
  | .ctxlock n => decide (n < 67)
  | .ctxunlock n => decide (n < 67)
  | .ctxdrop n => decide (n < 67)
  | .dispatch n => decide (n < 67)
  | .lockWaitEnd n _ => decide (n < 67)
  | .lockWaitTimeout n => decide (n < 67)
  | .dispatchEntryReady n => decide (n < 67)
  | .tickwait n => decide (n < 67)
  | .tickwaitEdge n => decide (n < 67)
  | .twr n => decide (n < 67)
  | .trd n => decide (n < 67)
  | .mfs n => decide (n < 67)
  | .mts n => decide (n < 67)
  | .cmfs n => decide (n < 67)
  | .cmts n => decide (n < 67)
  | .eret n _ => decide (n < 67)
  | .sysc n => decide (n < 67)
  | .brk n => decide (n < 67)
  | .customInstruction n => decide (n < 67)
  | .microroutineComplete n _ => decide (n < 67)
  | .microwordRepairDone n _ _ _ => decide (n < 67)
  | .eventEntry n => decide (n < 67)
  | .settMailboxCommit => true
  | .eventSourcePending src => decide (src < 1024)
  | .pinFilterChange p _ _ => decide (p < 208)
  | .eventOffer => true
  | .holdoffExpire g => decide (g < 64)
  | .mothNop m => decide (m < 104)
  | .mothShout m _ => decide (m < 104)
  | .mothShin m bits => decide (m < 104) && decide (bits.length ≤ 32)
  | .mothEdge m _ => decide (m < 104)
  | .mothEdgeMet m _ => decide (m < 104)
  | .mothEdgeTimeout m => decide (m < 104)
  | .mothSample m _ => decide (m < 104)
  | .mothDrive m => decide (m < 104)
  | .mothToggle m => decide (m < 104)
  | .mothLoop m => decide (m < 104)
  | .mothCount m => decide (m < 104)
  | .mothCountEnd m => decide (m < 104)
  | .mothPinEdgeCount m _ => decide (m < 104)
  | .mothCapt m => decide (m < 104)
  | .mothFetch m => decide (m < 104)
  | .mothStow m => decide (m < 104)
  | .mothStallEnd m _ => decide (m < 104)
  | .mothJmp m _ => decide (m < 104)
  | .mothSet m => decide (m < 104)
  | .mothDelayEnd m => decide (m < 104)
  | .mothIllegalInstruction m => decide (m < 104)
  | .scrubTileRead cls inst tile _ => decide (cls < 6) && decide (inst < 128) && decide (tile < 0x400000)
  | .suspectTileRead n _ => decide (n < 67)
  | .tileRepair cls inst tile bytes _ => decide (cls < 6) && decide (inst < 128) && decide (tile < 0x400000) && decide (bytes.length = 64)
  | .tileRebuild i tile bytes _ => decide (i < 0x20000) && decide (tile < 2) && decide (bytes.length = 64)
  | .mirrorFillDone => true
  | .restoreDone e _ _ => decide (e < 64)
  | .clusterFailDetect k => decide (k < 8)
  | .engineDoze n => decide (n < 67)
  | .napEntryDone n => decide (n < 67)
  | .engineWake n => decide (n < 67)
  | .timedWakeStart n => decide (n < 67)
  | .traceRecordDrain k _ => decide (k < 8)
  | .blockPowerOff => true
  | .padSupplyChange sup _ => decide (sup < 7)
  | .badcmdSubmission code len => decide (code < 256) && decide (len < 65536)
  | .sarernFrameHighTimeout => true

end Sys2Proof
end

