-- ==== Sys2Proof/Tests/Slice0.lean ====
section
/-! SUPPORT. Small tests, each of one step on a small state. A theorem test_… compares one command with a result worked out by hand
from spec/ (tables, examples and rules, named in its comment); a theorem witness_<Statement>_… shows a state and operands that meet
the hypotheses of a clause of Sys2Proof/Certificates/Slice0/Obligations.lean together. -/

namespace Sys2Proof.Tests

set_option Elab.async false

open Sys2Proof Sys2Proof.Machine

/-- A syllable of format 3R or RL, with STOP, PRED = 0 and NEG = 0 (Tables 5.9 and 5.10). -/
def w3 (major rd ra rb minor : Nat) : Word :=
  BitVec.ofNat 32 (2 ^ 31 + major * 2 ^ 19 + rd * 2 ^ 14 + ra * 2 ^ 9 + rb * 2 ^ 4 + minor)
/-- A syllable of format RI. -/
def wi (major rd ra : Nat) (imm : Int) : Word :=
  BitVec.ofNat 32 (2 ^ 31 + major * 2 ^ 19 + rd * 2 ^ 14 + ra * 2 ^ 9 + (imm % 512).toNat)

/-- A capability over all addresses with every permission and OTYPE 0 (Table 8.1). -/
def capAll : W128 := capMake 0 0xFFFFFFFF 0x3FF 0

/-- An engine that runs the words `ws` from IMEM address 0, with g1 = 7, g2 = 3, g4 = 100, g5 = 0x10000010, g6 = 0x80000000, g8 to g11
the four words of a cell, c1 over everything, c2 over the object type 17, c3 sealed with it, and c4 over the far addresses. -/
def engOf (ws : List Word) : Engine :=
  { pcc := capAll, startPcc := capAll, filled0 := true, run := .running, p := 0x02
    g := [(1, 7), (2, 3), (4, 100), (5, 0x10000010), (6, 0x80000000), (8, 0x00050010), (9, 0x002A4010), (10, 42), (11, 1)]
    c := [(1, capAll), (2, capMake 17 17 0x3FF 0), (3, capMake 0 100 0x3FF 17), (4, capMake 0x80000000 0xFFFFFFFF 0x3FF 0)]
    imem := memPut [] 0 (ws.flatMap (fun w => leBytes 4 w.toNat)) }

/-- The block in RUN with engine 0 as given. -/
def runEng (e : Engine) : State := { State.reset with bstate := .run, eng := [(0, e)] }

/-- The block in RUN with the words `ws` in engine 0. -/
def prog (ws : List Word) : State := runEng (engOf ws)

/-- Sideband keys of zero. -/
def noKeys : SideKeys := { vetKey := 0, custKey := 0, predKey := 0, custHash := 0 }

/-- Whether an outcome is a next state with a property. -/
def nextHas (o : Host.Outcome State Fault Refusal) (p : State → Bool) : Bool :=
  match o with
  | .next t => p t
  | _ => false

/-- The bundle at the pc of engine `n`, where it is a single syllable. -/
def singleAt (s : State) (n : Nat) : Option (Syl × Op × Nat) :=
  match decodeBundle s n with
  | .ok [y] [o] nx => some (y, o, nx)
  | _ => none

theorem singleAt_bundle {s : State} {n : Nat} {y : Syl} {o : Op} {nx : Nat} (h : singleAt s n = some (y, o, nx)) :
    decodeBundle s n = .ok [y] [o] nx := by
  unfold singleAt at h
  split at h
  · rename_i hd
    cases h
    exact hd
  · cases h

theorem singleAt_eq {s : State} {n : Nat} {y : Syl} {o : Op} {nx : Nat} (h : decodeBundle s n = .ok [y] [o] nx) :
    singleAt s n = some (y, o, nx) := by
  unfold singleAt
  rw [h]

/-- The single syllable of the present bundle. -/
def sylNow (s : State) (n : Nat) : Syl := (singleAt s n).elim { addr := 0, word := 0, ext := 0, entry := 0 } (·.1)

/-- The address after the present bundle. -/
def afterOf (s : State) (n : Nat) : Nat := (singleAt s n).elim 0 (·.2.2)

theorem sylNow_eq {s : State} {n : Nat} {y : Syl} {op : Op} {nx : Nat} (h : Issues s n y op nx) : sylNow s n = y := by
  rw [sylNow, singleAt_eq h.bundle]
  rfl

theorem afterOf_eq {s : State} {n : Nat} {y : Syl} {op : Op} {nx : Nat} (h : decodeBundle s n = .ok [y] [op] nx) : afterOf s n = nx := by
  rw [afterOf, singleAt_eq h]
  rfl

/-- The present bundle is the one operation `op`. -/
abbrev IsOp (s : State) (n : Nat) (op : Op) : Prop := (singleAt s n).map (·.2.1) = some op

theorem bundle_of {s : State} {n : Nat} {op : Op} (h : IsOp s n op) : decodeBundle s n = .ok [sylNow s n] [op] (afterOf s n) := by
  unfold IsOp at h
  match hx : singleAt s n, h with
  | some (y, o, nx), h =>
    cases h
    rw [sylNow, afterOf, hx]
    exact singleAt_bundle hx

/-- Nothing of an earlier bundle is open at engine `n`, which runs alone. -/
abbrev Quiet (s : State) (n : Nat) : Prop :=
  partnerOf s n = none ∧ (engGet s n).xfer = none ∧ (engGet s n).rep = none ∧ (engGet s n).swapPend = false ∧
  (engGet s n).dbg.stepping = false ∧ (engGet s n).u.donePos = [] ∧ (engGet s n).u.done = []

/-- The guard of a syllable and what its decode entry asks for allow it. -/
abbrev Allowed (e : Engine) (y : Syl) : Prop :=
  guardOf e y = true ∧ (entPriv y.entry = true → privOk e.compat e.ring e.pcc = true) ∧ needOk e y = true

/-- `Alone` as a decision. -/
def aloneB (s : State) (n : Nat) (op : Op) : Bool :=
  decide (IsOp s n op) &&
    decide (Quiet s n ∧ engReady s n issueHold = true ∧ (engGet s n).hold = .none ∧ (engGet s n).told = {})

theorem alone_of {s : State} {n : Nat} {op : Op} (h : aloneB s n op = true) : Alone s n (sylNow s n) op (afterOf s n) := by
  have ⟨hb, hs⟩ := (Bool.and_eq_true _ _).mp h
  have q := of_decide_eq_true hs
  exact { bundle := bundle_of (of_decide_eq_true hb), ready := q.2.1, unheld := q.2.2.1, untold := q.2.2.2,
          single := q.1.1, noSlot := q.1.2.1, noRep := q.1.2.2.1, noSwap := q.1.2.2.2.1,
          noStep := q.1.2.2.2.2.1, noDonePos := q.1.2.2.2.2.2.1, noDone := q.1.2.2.2.2.2.2 }

/-- `Issues` as a decision. -/
def issuesB (s : State) (n : Nat) (op : Op) : Bool := aloneB s n op && decide (Allowed (engGet s n) (sylNow s n))

theorem issues_of {s : State} {n : Nat} {op : Op} (h : issuesB s n op = true) : Issues s n (sylNow s n) op (afterOf s n) := by
  have ⟨ha, hs⟩ := (Bool.and_eq_true _ _).mp h
  have q := of_decide_eq_true hs
  exact { alone_of ha with guard := q.1, priv := q.2.1, need := q.2.2 }

/-- `Runs` as a decision. -/
def runsB (s : State) (n : Nat) (op : Op) : Bool := issuesB s n op && !sylUcode (sylNow s n)

theorem runs_of {s : State} {n : Nat} {op : Op} (h : runsB s n op = true) : Runs s n (sylNow s n) op (afterOf s n) := by
  have ⟨hi, hu⟩ := (Bool.and_eq_true _ _).mp h
  exact { issues_of hi with hard := (Bool.not_eq_true' _).mp hu }

/-- `Waits` as a decision. -/
def waitsB (s : State) (n : Nat) (op : Op) (w : Hold) : Bool :=
  decide (IsOp s n op) &&
    decide (Quiet s n ∧ Allowed (engGet s n) (sylNow s n) ∧ engReady s n (fun x => x == w) = true ∧ (engGet s n).hold = w ∧
      (engGet s n).told.lockOut = false ∧ sylUcode (sylNow s n) = false)

theorem waits_of {s : State} {n : Nat} {op : Op} {w : Hold} (h : waitsB s n op w = true) :
    Waits s n (sylNow s n) op (afterOf s n) w := by
  have ⟨hb, hs⟩ := (Bool.and_eq_true _ _).mp h
  have q := of_decide_eq_true hs
  exact { bundle := bundle_of (of_decide_eq_true hb), ready := q.2.2.1, held := q.2.2.2.1, waitsOn := q.2.2.2.2.1, hard := q.2.2.2.2.2,
          guard := q.2.1.1, priv := q.2.1.2.1, need := q.2.1.2.2,
          single := q.1.1, noSlot := q.1.2.1, noRep := q.1.2.2.1, noSwap := q.1.2.2.2.1,
          noStep := q.1.2.2.2.2.1, noDonePos := q.1.2.2.2.2.2.1, noDone := q.1.2.2.2.2.2.2 }

/-- Engine 0 issues `op` alone in `s`, and its command leads to a state with the property. -/
def runsTo (op : Op) (s : State) (p : State → Bool) : Bool := runsB s 0 op && nextHas (exec (commandOf op 0) s) p

theorem runsTo_runs {op : Op} {s : State} {p : State → Bool} (h : runsTo op s p = true) :
    ∃ y nx, Runs s 0 y op nx :=
  ⟨_, _, runs_of ((Bool.and_eq_true _ _).mp h).1⟩

theorem flows_runEng (e : Engine) : flows (runEng e) 0 := fun _ => by
  left
  show (decide (cluOf 0 < 8) && bitAt (trcCtl (runEng e) (cluOf 0)) 0 && domStat (runEng e) (64 + cluOf 0) == 1) = false
  have h : bitAt (trcCtl (runEng e) (cluOf 0)) 0 = false := by
    show bitAt (regReset (trcAdr (cluOf 0) 0)) 0 = false
    decide +kernel
  rw [h, Bool.and_false, Bool.false_and]

/-- Register g[r] of engine 0. -/
def g0 (t : State) (r : Nat) : Word := regG (engGet t 0) r
/-- Predicate p[r] of engine 0. -/
def p0 (t : State) (r : Nat) : Bool := regP (engGet t 0) r
/-- c[r] of engine 0. -/
def c0 (t : State) (r : Nat) : W128 := regC (engGet t 0) r
/-- Engine 0 has gone on to address `a`. -/
def at0 (t : State) (a : Nat) : Bool := (engGet t 0).pc == BitVec.ofNat 32 a && (engGet t 0).hold == .none

/-! Integer, predicate and capability instructions: Tables 6.2 to 6.6, 6.11, 7.2, 7.3, 7.5 to 7.11; the words by Tables 5.9 and
5.10. g1 is 7 and g2 is 3 throughout. -/

/-- R177: 7 - 3 = 4. -/
theorem test_alu : runsTo .alu (prog [w3 0x01 3 1 2 1]) (fun t => g0 t 3 == 4 && at0 t 4) = true := by decide +kernel
/-- Table 6.1: ADDI of -8 wraps. -/
theorem test_alu_imm : runsTo .aluImm (prog [wi 0x03 3 1 (-8)]) (fun t => g0 t 3 == 0xFFFFFFFF) = true := by decide +kernel
/-- R178: SRAI keeps the sign. -/
theorem test_shift_imm : runsTo .shiftImm (prog [wi 0x09 3 6 31]) (fun t => g0 t 3 == 0xFFFFFFFF) = true := by decide +kernel
/-- Table 6.2: ABS of -2^31 is 0x8000_0000. -/
theorem test_unary : runsTo .unary (prog [w3 0x0D 3 6 0 6]) (fun t => g0 t 3 == 0x80000000) = true := by decide +kernel
/-- R179: ABSS of -2^31 clamps to 2^31 - 1. -/
theorem test_sat : runsTo .sat (prog [w3 0x0E 3 6 0 5]) (fun t => g0 t 3 == 0x7FFFFFFF) = true := by decide +kernel
/-- R183: MULA adds the product to g[rd]. -/
theorem test_mul : runsTo .mul (prog [w3 0x20 4 1 2 4]) (fun t => g0 t 4 == 121) = true := by decide +kernel
/-- Table 7.2: CLZ of 7. -/
theorem test_bit : runsTo .bit (prog [w3 0x60 3 1 0 1]) (fun t => g0 t 3 == 29) = true := by decide +kernel
/-- R206: the extension 0x0000_1008 is position 8 and width 16: bits 23:8 of g9. -/
theorem test_fld : runsTo .fld (prog [w3 0x63 15 9 0 0, 0x00001008]) (fun t => g0 t 15 == 0x2A40 && at0 t 8) = true := by
  decide +kernel
/-- R212: 7.0 as an integer pattern is a subnormal, so FNEG only inverts bit 31. -/
theorem test_fop : runsTo .fop (prog [w3 0x68 3 1 0 8]) (fun t => g0 t 3 == 0x80000007) = true := by decide +kernel
/-- R215: CVTIF of 7 is 7.0, 0x40E0_0000. -/
theorem test_fcvt : runsTo .fcvt (prog [w3 0x6C 3 1 0 0]) (fun t => g0 t 3 == 0x40E00000) = true := by decide +kernel
/-- R182: p0 reads 1, and p1 is 1. -/
theorem test_getp : runsTo .getp (prog [w3 0x1B 3 0 0 0]) (fun t => g0 t 3 == 3) = true := by decide +kernel
/-- R207: width 0 passes the state through. -/
theorem test_crc_step : runsTo .crcStep (prog [w3 0x64 3 1 2 0]) (fun t => g0 t 3 == 7) = true := by decide +kernel
/-- Table 7.5: CRCINIT with INIT = 1 and WIDTH = 8 gives eight ones at the bottom of a REFIN state. -/
theorem test_crc_init : runsTo .crcInit (runEng { engOf [w3 0x64 3 0 0 3] with crcp := 0x07000000, crci := 0xA0000008 })
    (fun t => g0 t 3 == 0xFF) = true := by decide +kernel
/-- R209: without XOROUT and REFOUT a bottom-aligned final value of width 32 is the state. -/
theorem test_crc_fin : runsTo .crcFin (runEng { engOf [w3 0x64 3 1 0 4] with crcp := 0x1EDC6F41, crci := 0xF0000020 })
    (fun t => g0 t 3 == 0xFFFFFFF8) = true := by decide +kernel

theorem witness_IntegerInstructionsComplete :
    (∃ s y nx, Runs s 0 y .alu nx) ∧ (∃ s y nx, Runs s 0 y .aluImm nx) ∧ (∃ s y nx, Runs s 0 y .shiftImm nx) ∧
    (∃ s y nx, Runs s 0 y .unary nx) ∧ (∃ s y nx, Runs s 0 y .sat nx) ∧ (∃ s y nx, Runs s 0 y .mul nx) ∧
    (∃ s y nx, Runs s 0 y .bit nx) ∧ (∃ s y nx, Runs s 0 y .fld nx) ∧ (∃ s y nx, Runs s 0 y .fop nx) ∧
    (∃ s y nx, Runs s 0 y .fcvt nx) ∧ (∃ s y nx, Runs s 0 y .getp nx) ∧ (∃ s y nx, Runs s 0 y .crcStep nx) ∧
    (∃ s y nx, Runs s 0 y .crcInit nx) ∧ (∃ s y nx, Runs s 0 y .crcFin nx) :=
  ⟨⟨_, runsTo_runs test_alu⟩, ⟨_, runsTo_runs test_alu_imm⟩, ⟨_, runsTo_runs test_shift_imm⟩, ⟨_, runsTo_runs test_unary⟩,
   ⟨_, runsTo_runs test_sat⟩, ⟨_, runsTo_runs test_mul⟩, ⟨_, runsTo_runs test_bit⟩, ⟨_, runsTo_runs test_fld⟩,
   ⟨_, runsTo_runs test_fop⟩, ⟨_, runsTo_runs test_fcvt⟩, ⟨_, runsTo_runs test_getp⟩, ⟨_, runsTo_runs test_crc_step⟩,
   ⟨_, runsTo_runs test_crc_init⟩, ⟨_, runsTo_runs test_crc_fin⟩⟩

/-- Table 6.5: CMPLTI of 3 and 4. -/
theorem test_cmp : runsTo .cmp (prog [wi 0x14 3 2 4]) (fun t => p0 t 3 && at0 t 4) = true := by decide +kernel
/-- R181: p3 := p1 and not p2. -/
theorem test_plog : runsTo .plog (prog [w3 0x1A 3 1 2 3]) (fun t => p0 t 3) = true := by decide +kernel
/-- R182: bits 1 and 2 of 7, and p3 to p7 cleared. -/
theorem test_setp : runsTo .setp (prog [w3 0x1B 0 1 0 1]) (fun t => (engGet t 0).p == 0x06) = true := by decide +kernel
/-- R214: -0 and +0 are equal, so FCMPNE is false. -/
theorem test_fcmp : runsTo .fcmp (prog [w3 0x6A 1 6 0 6]) (fun t => p0 t 1 == false) = true := by decide +kernel

theorem witness_PredicateInstructionsComplete :
    (∃ s y nx, Runs s 0 y .cmp nx) ∧ (∃ s y nx, Runs s 0 y .plog nx) ∧ (∃ s y nx, Runs s 0 y .fcmp nx) ∧
    (∃ s y nx, Runs s 0 y .setp nx) :=
  ⟨⟨_, runsTo_runs test_cmp⟩, ⟨_, runsTo_runs test_plog⟩, ⟨_, runsTo_runs test_fcmp⟩, ⟨_, runsTo_runs test_setp⟩⟩

/-- Table 6.11: a sealed capability is copied whole. -/
theorem test_cmov : runsTo .cmov (prog [w3 0x48 4 3 0 0]) (fun t => c0 t 4 == capMake 0 100 0x3FF 17) = true := by decide +kernel
/-- R194: BASE rises by 100, LIMIT stays. -/
theorem test_csetb : runsTo .csetb (prog [w3 0x48 4 1 4 1]) (fun t => c0 t 4 == capMake 100 0xFFFFFFFF 0x3FF 0) = true := by
  decide +kernel
/-- R194: length 100 gives LIMIT 99. -/
theorem test_csetl : runsTo .csetl (prog [w3 0x48 4 1 4 2]) (fun t => c0 t 4 == capMake 0 99 0x3FF 0) = true := by decide +kernel
/-- R194: BASE 100, length 16. -/
theorem test_csetbl : runsTo .csetbl (prog [w3 0x49 4 1 4 12, 16]) (fun t => c0 t 4 == capMake 100 115 0x3FF 0 && at0 t 8) = true := by
  decide +kernel
/-- Table 6.11: PERM and 7. -/
theorem test_candp : runsTo .candp (prog [w3 0x48 4 1 1 3]) (fun t => c0 t 4 == capMake 0 0xFFFFFFFF 7 0) = true := by decide +kernel
theorem test_cgetb : runsTo .cgetb (prog [w3 0x48 4 2 0 4]) (fun t => g0 t 4 == 17) = true := by decide +kernel
theorem test_cgetl : runsTo .cgetl (prog [w3 0x48 4 3 0 5]) (fun t => g0 t 4 == 100) = true := by decide +kernel
theorem test_cgetp : runsTo .cgetp (prog [w3 0x48 4 3 0 6]) (fun t => g0 t 4 == 0x3FF) = true := by decide +kernel
theorem test_cgett : runsTo .cgett (prog [w3 0x48 4 3 0 7]) (fun t => g0 t 4 == 17) = true := by decide +kernel
/-- R236: sealed with the object type 17. -/
theorem test_cseal : runsTo .cseal (prog [w3 0x48 4 1 2 8]) (fun t => c0 t 4 == capMake 0 0xFFFFFFFF 0x3FF 17) = true := by
  decide +kernel
theorem test_cunseal : runsTo .cunseal (prog [w3 0x48 4 3 2 9]) (fun t => c0 t 4 == capMake 0 100 0x3FF 0) = true := by decide +kernel
/-- R236: a sealed entry has OTYPE 255. -/
theorem test_csentry : runsTo .csentry (prog [w3 0x48 4 2 0 10]) (fun t => c0 t 4 == capMake 17 17 0x3FF 255) = true := by
  decide +kernel

theorem witness_CapabilityInstructionsComplete :
    (∃ s y nx, Runs s 0 y .cmov nx) ∧ (∃ s y nx, Runs s 0 y .csetb nx) ∧ (∃ s y nx, Runs s 0 y .csetl nx) ∧
    (∃ s y nx, Runs s 0 y .csetbl nx) ∧ (∃ s y nx, Runs s 0 y .candp nx) ∧ (∃ s y nx, Runs s 0 y .cgetb nx) ∧
    (∃ s y nx, Runs s 0 y .cgetl nx) ∧ (∃ s y nx, Runs s 0 y .cgetp nx) ∧ (∃ s y nx, Runs s 0 y .cgett nx) ∧
    (∃ s y nx, Runs s 0 y .cseal nx) ∧ (∃ s y nx, Runs s 0 y .cunseal nx) ∧ (∃ s y nx, Runs s 0 y .csentry nx) :=
  ⟨⟨_, runsTo_runs test_cmov⟩, ⟨_, runsTo_runs test_csetb⟩, ⟨_, runsTo_runs test_csetl⟩, ⟨_, runsTo_runs test_csetbl⟩,
   ⟨_, runsTo_runs test_candp⟩, ⟨_, runsTo_runs test_cgetb⟩, ⟨_, runsTo_runs test_cgetl⟩, ⟨_, runsTo_runs test_cgetp⟩,
   ⟨_, runsTo_runs test_cgett⟩, ⟨_, runsTo_runs test_cseal⟩, ⟨_, runsTo_runs test_cunseal⟩, ⟨_, runsTo_runs test_csentry⟩⟩

/-- The derivations of CapabilityInstructionsComplete answer on these operands, in native mode. -/
theorem witness_CapabilityInstructionsComplete_ok :
    (engGet (prog []) 0).compat = false ∧ capSetB false capAll 100 = .ok (capMake 100 0xFFFFFFFF 0x3FF 0) ∧
    capSetL false capAll 100 = .ok (capMake 0 99 0x3FF 0) ∧ capSetBL false capAll 100 16 = .ok (capMake 100 115 0x3FF 0) ∧
    capAndP false capAll 7 = .ok (capMake 0 0xFFFFFFFF 7 0) ∧ capSeal capAll (capMake 17 17 0x3FF 0) = .ok (capMake 0 0xFFFFFFFF 0x3FF 17) ∧
    capUnseal (capMake 0 100 0x3FF 17) (capMake 17 17 0x3FF 0) = .ok (capMake 0 100 0x3FF 0) ∧
    capSentry (capMake 17 17 0x3FF 0) = .ok (capMake 17 17 0x3FF 255) := by decide +kernel

/-! Special registers, terminals and FENCE. -/

/-- Table 5.2: number 9 is the engine's number; 10 is TCYC, zero at the edge. -/
theorem test_mfs : runsTo .mfs (prog [w3 0x7E 3 9 0 0]) (fun t => g0 t 3 == 0 && at0 t 4) = true := by decide +kernel
/-- R141: VBASE ignores bits 11:0. -/
theorem test_mts : runsTo .mts (prog [w3 0x7E 1 9 0 1]) (fun t => (engGet t 0).vbase == 0x002A4000) = true := by decide +kernel
theorem test_cmfs : runsTo .cmfs (prog [w3 0x7E 4 0 0 2]) (fun t => c0 t 4 == capAll) = true := by decide +kernel
theorem test_cmts : runsTo .cmts (prog [w3 0x7E 3 3 0 3]) (fun t => (engGet t 0).save3.xpcc == capMake 0 100 0x3FF 17) = true := by
  decide +kernel
/-- Table 7.12: DTX takes g1, and p2 reads 1. -/
theorem test_twr : runsTo .twr (prog [w3 0x7D 2 1 0 0]) (fun t => (engGet t 0).dtx == 7 && (engGet t 0).dtxf && p0 t 2) = true := by
  decide +kernel
theorem test_twr_full : runsTo .twr (runEng { engOf [w3 0x7D 1 1 0 0] with dtxf := true })
    (fun t => (engGet t 0).dtx == 0 && p0 t 1 == false) = true := by decide +kernel
theorem test_trd : runsTo .trd (runEng { engOf [w3 0x7D 3 0 2 1] with drxf := true, drx := 99 })
    (fun t => g0 t 3 == 99 && p0 t 2 && (engGet t 0).drxf == false) = true := by decide +kernel
theorem test_trd_empty : runsTo .trd (prog [w3 0x7D 3 0 1 1]) (fun t => g0 t 3 == 0 && p0 t 1 == false) = true := by decide +kernel
theorem test_fence : runsTo .fence (prog [w3 0x42 0 0 0 0]) (fun t => at0 t 4) = true := by decide +kernel

theorem witness_SpecialRegisterInstructionsComplete :
    (∃ s y nx, Runs s 0 y .mfs nx ∧ (sprGet s 0 (sylRa y.word)).isSome = true) ∧
    (∃ s y nx, Runs s 0 y .mts nx ∧ sprWritable (sylRd y.word) = true ∧
      privOk (engGet s 0).compat (engGet s 0).ring (engGet s 0).pcc = true) ∧
    (∃ s y nx, Runs s 0 y .cmfs nx ∧ sylRa y.word ≤ 3) ∧
    (∃ s y nx, Runs s 0 y .cmts nx ∧ 1 ≤ sylRd y.word ∧ sylRd y.word ≤ 3 ∧
      privOk (engGet s 0).compat (engGet s 0).ring (engGet s 0).pcc = true) ∧
    (∃ s y nx, Runs s 0 y .twr nx ∧ (engGet s 0).dtxf = false) ∧ (∃ s y nx, Runs s 0 y .twr nx ∧ (engGet s 0).dtxf = true) ∧
    (∃ s y nx, Runs s 0 y .trd nx ∧ (engGet s 0).drxf = true) ∧ (∃ s y nx, Runs s 0 y .trd nx ∧ (engGet s 0).drxf = false) ∧
    (∃ s y nx, Runs s 0 y .fence nx ∧ (engGet s (lockId s 0)).farOut = 0) := by
  have h1 := runs_of (s := prog [w3 0x7E 3 9 0 0]) (n := 0) (op := .mfs) (by decide +kernel)
  have h2 := runs_of (s := prog [w3 0x7E 1 9 0 1]) (n := 0) (op := .mts) (by decide +kernel)
  have h3 := runs_of (s := prog [w3 0x7E 4 0 0 2]) (n := 0) (op := .cmfs) (by decide +kernel)
  have h4 := runs_of (s := prog [w3 0x7E 3 3 0 3]) (n := 0) (op := .cmts) (by decide +kernel)
  have h5 := runs_of (s := prog [w3 0x7D 2 1 0 0]) (n := 0) (op := .twr) (by decide +kernel)
  have h6 := runs_of (s := runEng { engOf [w3 0x7D 1 1 0 0] with dtxf := true }) (n := 0) (op := .twr) (by decide +kernel)
  have h7 := runs_of (s := runEng { engOf [w3 0x7D 3 0 2 1] with drxf := true, drx := 99 }) (n := 0) (op := .trd)
    (by decide +kernel)
  have h8 := runs_of (s := prog [w3 0x7D 3 0 1 1]) (n := 0) (op := .trd) (by decide +kernel)
  have h9 := runs_of (s := prog [w3 0x42 0 0 0 0]) (n := 0) (op := .fence) (by decide +kernel)
  exact ⟨⟨_, _, _, h1, by decide +kernel⟩, ⟨_, _, _, h2, by decide +kernel, by decide +kernel⟩, ⟨_, _, _, h3, by decide +kernel⟩,
    ⟨_, _, _, h4, by decide +kernel, by decide +kernel, by decide +kernel⟩, ⟨_, _, _, h5, by decide +kernel⟩,
    ⟨_, _, _, h6, by decide +kernel⟩, ⟨_, _, _, h7, by decide +kernel⟩, ⟨_, _, _, h8, by decide +kernel⟩,
    ⟨_, _, _, h9, by decide +kernel⟩⟩

/-- A false guard (PRED 3, NEG 0; p3 is 0) before an ALU operation (R160). -/
theorem test_false_guard : nextHas (exec (.alu 0) (prog [w3 0x01 3 1 2 1 ||| 0x30000000])) (fun t => g0 t 3 == 0 && at0 t 4) = true := by
  decide +kernel

theorem witness_FalseGuardChangesNothing : ∃ s y nx, Alone s 0 y .alu nx ∧ opIsTransfer .alu = false ∧
    guardOf (engGet s 0) y = false :=
  ⟨prog [w3 0x01 3 1 2 1 ||| 0x30000000], _, _, alone_of (by decide +kernel), by decide +kernel⟩

/-! Loads and stores: Tables 6.8 and 6.9. c1 reaches every address, and g5 is 0x1000_0010. -/

/-- Engine 0 with the word 0x8899_AABB at DMEM offset 0x10. -/
def dmemEng (ws : List Word) : Engine := { engOf ws with dmem := memPut [] 0x10 (leBytes 16 0xCCDDEEFF8899AABB) }

/-- A segment descriptor that is present, for every ring (Table 8.6). -/
def descOf (base limit : Word) (rights type : Nat) : W128 := capMake base limit rights (16 * type + 15) ||| BitVec.ofNat 128 (2 ^ 88)
/-- Code over every address. -/
def codeDesc : W128 := descOf 0 0xFFFFFFFF 0x11 1
/-- A gate for ring 0 to offset 0x40 of entry 0 of the descriptor table. -/
def gateDesc : W128 := capMake 0x40 0 0 (16 * 4 + 15) ||| BitVec.ofNat 128 (2 ^ 88)
/-- Engine 0 in compatibility mode at ring 0, with code in c1, a gate table of one entry at DMEM 0 in c3, data over every address in c6
and a descriptor table of one entry, which is code, at DMEM 0x20 in c15; the same code descriptor stands at DMEM 0x10. -/
def compatEng (ws : List Word) : Engine :=
  { engOf ws with
    compat := true, pcc := codeDesc, startPcc := codeDesc
    g := [(4, 100), (5, 0x10000010)]
    c := [(1, codeDesc), (3, descOf 0x10000000 0x1000000F 0x01 3), (6, descOf 0 0xFFFFFFFF 0x43 0),
      (15, descOf 0x10000020 0x1000002F 0x01 2)]
    dmem := memPut [] 0 (leBytes 16 gateDesc.toNat ++ leBytes 16 codeDesc.toNat ++ leBytes 16 codeDesc.toNat) }

/-- Table 6.9: LDH sign-extends the half 0xAABB. -/
theorem test_load : runsTo .load (runEng (dmemEng [w3 0x30 3 1 5 2])) (fun t => g0 t 3 == 0xFFFFAABB && at0 t 4) = true := by
  decide +kernel
/-- R189: STH writes two bytes, low byte first, and no other. -/
theorem test_store : runsTo .store (runEng (dmemEng [w3 0x3A 4 1 5 2]))
    (fun t => memBytes (engGet t 0).dmem 0x0F 5 == [0, 0x64, 0, 0x99, 0x88] && at0 t 4) = true := by decide +kernel
/-- R152: LDC of a granule whose validity bit is 1. -/
theorem test_ldc : runsTo .ldc (runEng { engOf [w3 0x30 4 1 5 7] with dmem := memPut [] 0x10 (leBytes 16 capAll.toNat), valid := [1] })
    (fun t => c0 t 4 == capAll) = true := by decide +kernel
/-- R152: STC sets the validity bit of its granule. -/
theorem test_stc : runsTo .stc (prog [w3 0x3A 3 1 5 7])
    (fun t => memBytes (engGet t 0).dmem 0x10 16 == leBytes 16 (capMake 0 100 0x3FF 17).toNat && (engGet t 0).valid == [1]) = true := by
  decide +kernel

theorem witness_LoadsAndStoresComplete :
    (∃ s y nx a v, Runs s 0 y .load nx ∧
      engCheck (engGet s 0) (regC (engGet s 0) (sylRa y.word)) (lsOffset (engGet s 0) y) (lsSize (lsCode y)) (lsSize (lsCode y)) .load =
        .ok a ∧ engLoad s 0 a.toNat (lsSize (lsCode y)) = .val v) ∧
    (∃ s y nx a v, Runs s 0 y .ldc nx ∧
      engCheck (engGet s 0) (regC (engGet s 0) (sylRa y.word)) (lsOffset (engGet s 0) y) 16 16 .loadCap = .ok a ∧
      engLoad s 0 a.toNat 16 = .val v ∧ (engGet s 0).compat = false ∧ regionOf 0 a.toNat = .dmem ∧
      hasNat ((a.toNat - 0x10000000) / 16) (engGet s 0).valid = true) ∧
    (∃ s y nx a v, Runs s 0 y .ldc nx ∧
      engCheck (engGet s 0) (regC (engGet s 0) (sylRa y.word)) (lsOffset (engGet s 0) y) 16 16 .loadCap = .ok a ∧
      engLoad s 0 a.toNat 16 = .val v ∧ (engGet s 0).compat = true ∧ descWf v = true) ∧
    (∃ s y nx a, Runs s 0 y .store nx ∧
      engCheck (engGet s 0) (regC (engGet s 0) (sylRa y.word)) (lsOffset (engGet s 0) y) (lsSize (lsCode y)) (lsSize (lsCode y)) .store =
        .ok a ∧ engStoreCheck s 0 a.toNat = .val 0) ∧
    (∃ s y nx a, Runs s 0 y .stc nx ∧
      engCheck (engGet s 0) (regC (engGet s 0) (sylRa y.word)) (lsOffset (engGet s 0) y) 16 16 .storeCap = .ok a ∧
      engStoreCheck s 0 a.toNat = .val 0) := by
  have h1 := runs_of (s := runEng (dmemEng [w3 0x30 3 1 5 2])) (n := 0) (op := .load) (by decide +kernel)
  have h2 := runs_of (n := 0) (op := .ldc)
    (s := runEng { engOf [w3 0x30 4 1 5 7] with dmem := memPut [] 0x10 (leBytes 16 capAll.toNat), valid := [1] }) (by decide +kernel)
  have h5 := runs_of (s := runEng (compatEng [w3 0x30 4 6 5 7])) (n := 0) (op := .ldc) (by decide +kernel)
  have h3 := runs_of (s := runEng (dmemEng [w3 0x3A 4 1 5 2])) (n := 0) (op := .store) (by decide +kernel)
  have h4 := runs_of (s := prog [w3 0x3A 3 1 5 7]) (n := 0) (op := .stc) (by decide +kernel)
  exact ⟨⟨_, _, _, 0x10000010, 0xAABB, h1, by decide +kernel, by decide +kernel⟩,
    ⟨_, _, _, 0x10000010, capAll, h2, by decide +kernel, by decide +kernel, by decide +kernel, by decide +kernel,
      by decide +kernel⟩,
    ⟨_, _, _, 0x10000010, codeDesc, h5, by decide +kernel, by decide +kernel, by decide +kernel, by decide +kernel⟩,
    ⟨_, _, _, 0x10000010, h3, by decide +kernel, by decide +kernel⟩,
    ⟨_, _, _, 0x10000010, h4, by decide +kernel, by decide +kernel⟩⟩

/-- The first and the last byte of DMEM of engine 0 (Table 5.4: 64 KiB). -/
theorem witness_DmemStoreWritesItsBytesOnly :
    regionOf 0 (0x10000000 : Word).toNat = .dmem ∧ regionOf 0 (0x1000FFFF : Word).toNat = .dmem := by decide +kernel

/-- R191: a word at the lowest far address comes back in g3. -/
theorem test_far_load : nextHas (exec (.farLoadData 0 (some 0x112233445566)) (runEng { engOf [w3 0x30 3 4 0 4] with hold := .farLoad false }))
    (fun t => g0 t 3 == 0x33445566 && at0 t 4) = true := by decide +kernel
/-- R191, R165: an accepted far store is outstanding, and its bytes stand in the DRAM of the cluster. -/
theorem test_far_store : nextHas (exec (.farStoreAccept 0 true) (runEng { engOf [w3 0x3A 1 4 0 4] with hold := .farStore false }))
    (fun t => memBytes t.mem.dram 0 4 == [7, 0, 0, 0] && (engGet t 0).farOut == 1 && at0 t 4) = true := by decide +kernel
theorem test_far_store_complete : nextHas (exec (.farStoreComplete 0) (runEng { engOf [] with farOut := 1 }))
    (fun t => (engGet t 0).farOut == 0) = true := by decide +kernel

theorem witness_FarAccessesComplete :
    (∃ s y nx a, flows s 0 ∧ Waits s 0 y .load nx (.farLoad false) ∧
      engCheck (engGet s 0) (regC (engGet s 0) (sylRa y.word)) (lsOffset (engGet s 0) y) (lsSize (lsCode y)) (lsSize (lsCode y)) .load =
        .ok a ∧ regionOf 0 a.toNat = .far) ∧
    (∃ s y nx a, flows s 0 ∧ Waits s 0 y .store nx (.farStore false) ∧
      engCheck (engGet s 0) (regC (engGet s 0) (sylRa y.word)) (lsOffset (engGet s 0) y) (lsSize (lsCode y)) (lsSize (lsCode y)) .store =
        .ok a ∧ regionOf 0 a.toNat = .far ∧ (engGet s 0).farOut < 8) ∧
    (∃ s, 0 < (engGet s 0).farOut ∧ (engGet s 0).hold ≠ .fence) := by
  have h1 := waits_of (s := runEng { engOf [w3 0x30 3 4 0 4] with hold := .farLoad false }) (n := 0) (op := .load)
    (w := .farLoad false) (by decide +kernel)
  have h2 := waits_of (s := runEng { engOf [w3 0x3A 1 4 0 4] with hold := .farStore false, farOut := 7 }) (n := 0) (op := .store)
    (w := .farStore false) (by decide +kernel)
  exact ⟨⟨_, _, _, 0x80000000, flows_runEng _, h1, by decide +kernel, by decide +kernel⟩,
    ⟨_, _, _, 0x80000000, flows_runEng _, h2, by decide +kernel, by decide +kernel, by decide +kernel⟩,
    ⟨runEng { engOf [] with farOut := 1 }, by decide +kernel⟩⟩

/-! Transfers and repeats. -/

/-- The word of ADDI g0, g0, 0. -/
def nopW : Word := wi 0x03 0 0 0

/-- Whether engine 0 waits in the delay slot at 4 of a transfer to `a`. -/
def slotTo (t : State) (a : Word) : Bool :=
  (engGet t 0).pc == 4 && (match (engGet t 0).xfer with | some x => x.target == a && x.taken | none => false)

/-- R197, R198: BR three words on, with the address after the delay slot in g31. -/
theorem test_br : runsTo .br (prog [wi 0x50 31 0 3, nopW]) (fun t => slotTo t 12 && g0 t 31 == 8) = true := by decide +kernel
/-- R199: LC 2 falls to 1 and the loop goes round. -/
theorem test_blc : runsTo .blc (runEng { engOf [wi 0x52 0 0 3, nopW] with lc := 2 })
    (fun t => slotTo t 12 && (engGet t 0).lc == 1) = true := by decide +kernel
theorem test_jr : runsTo .jr (prog [w3 0x53 0 4 0 0, nopW]) (fun t => slotTo t 100) = true := by decide +kernel
/-- R200: CJ saves PCC in c4 and the return offset in g3. -/
theorem test_cj : runsTo .cj (prog [w3 0x54 4 1 3 0, nopW]) (fun t => slotTo t 0 && c0 t 4 == capAll && g0 t 3 == 8) = true := by
  decide +kernel
theorem test_cjo : runsTo .cjo (prog [w3 0x55 0 1 4 0, nopW]) (fun t => slotTo t 100) = true := by decide +kernel

/-- R259: CJO through the gate goes to offset 0x40 of the code of its ring, with PCC in c14 and the link in g30. -/
theorem test_cjo_gate : runsTo .cjo (runEng (compatEng [w3 0x55 0 3 0 0, nopW]))
    (fun t => slotTo t 0x40 && c0 t 14 == codeDesc && g0 t 30 == 8) = true := by decide +kernel
/-- R160: a transfer with a false guard falls through, here over its annulled slot. -/
theorem test_br_false : nextHas (exec (.br 0) (prog [wi 0x50 31 1 3 ||| 0x08000000, nopW])) (fun t => at0 t 8 && g0 t 31 == 0) = true := by
  decide +kernel

theorem witness_TransfersComplete :
    (∃ s y nx, Runs s 0 y .br nx) ∧ (∃ s y nx, Runs s 0 y .jr nx) ∧ (∃ s y nx, Runs s 0 y .blc nx ∧ 1 < (engGet s 0).lc.toNat) ∧
    (∃ s y nx, Runs s 0 y .blc nx ∧ (engGet s 0).lc.toNat = 1) ∧
    (∃ s y nx, Alone s 0 y .br nx ∧ guardOf (engGet s 0) y = false ∧ annulBit y .br = true) ∧
    (∃ s y nx, Alone s 0 y .jr nx ∧ guardOf (engGet s 0) y = false ∧ annulBit y .jr = false) ∧
    (∃ s y nx, Runs s 0 y .cj nx ∧ (engGet s 0).compat = true ∧ descType (regC (engGet s 0) (sylRa y.word)) ≠ 3 ∧
      descJump (regC (engGet s 0) (sylRa y.word)) (engGet s 0).ring = none) ∧
    (∃ s y nx, Runs s 0 y .cjo nx ∧ (engGet s 0).compat = true ∧ descType (regC (engGet s 0) (sylRa y.word)) ≠ 3 ∧
      descJump (regC (engGet s 0) (sylRa y.word)) (max (engGet s 0).ring (field (regG (engGet s 0) (sylRb y.word)) 1 0)) = none) ∧
    (∃ s y nx g d ta acts, let e := engGet s 0
      let cs := regC e (sylRa y.word)
      let gb := regG e (sylRb y.word)
      Runs s 0 y .cjo nx ∧ e.compat = true ∧ descType cs = 3 ∧
      evGate s 0 { here := pcAt e.pc, next := nx } y cs gb = .acts acts ∧ engLoad s 0 (capBase cs + (gb <<< 4)).toNat 16 = .val g ∧
      engCheck e (regC e 15) (BitVec.ofNat 32 (16 * field g 47 32)) 16 16 .load = .ok ta ∧ engLoad s 0 ta.toNat 16 = .val d) ∧
    (∃ s y nx, Runs s 0 y .cj nx ∧ (engGet s 0).compat = false ∧ capHas (regC (engGet s 0) (sylRa y.word)) pEX = true ∧
      (capOtype (regC (engGet s 0) (sylRa y.word)) = 0 ∨ capOtype (regC (engGet s 0) (sylRa y.word)) = 255)) ∧
    (∃ s y nx, Runs s 0 y .cjo nx ∧ (engGet s 0).compat = false ∧ capHas (regC (engGet s 0) (sylRa y.word)) pEX = true ∧
      capOtype (regC (engGet s 0) (sylRa y.word)) = 0) := by
  have h1 := runs_of (s := runEng { engOf [wi 0x52 0 0 3, nopW] with lc := 2 }) (n := 0) (op := .blc) (by decide +kernel)
  have h2 := runs_of (s := prog [w3 0x54 4 1 3 0, nopW]) (n := 0) (op := .cj) (by decide +kernel)
  have h3 := runs_of (s := prog [w3 0x55 0 1 4 0, nopW]) (n := 0) (op := .cjo) (by decide +kernel)
  have h4 := runs_of (s := runEng { engOf [wi 0x52 0 0 3, nopW] with lc := 1 }) (n := 0) (op := .blc) (by decide +kernel)
  have h5 := runs_of (s := runEng (compatEng [w3 0x54 4 1 3 0, nopW])) (n := 0) (op := .cj) (by decide +kernel)
  have h6 := runs_of (s := runEng (compatEng [w3 0x55 0 1 4 0, nopW])) (n := 0) (op := .cjo) (by decide +kernel)
  have h7 := runs_of (s := runEng (compatEng [w3 0x55 0 3 0 0, nopW])) (n := 0) (op := .cjo) (by decide +kernel)
  have h8 := alone_of (s := prog [wi 0x50 31 1 3 ||| 0x08000000, nopW]) (n := 0) (op := .br) (by decide +kernel)
  have h9 := alone_of (s := prog [w3 0x53 0 4 0 0 ||| 0x08000000, nopW]) (n := 0) (op := .jr) (by decide +kernel)
  refine ⟨⟨_, runsTo_runs test_br⟩, ⟨_, runsTo_runs test_jr⟩, ⟨_, _, _, h1, by decide +kernel⟩, ⟨_, _, _, h4, by decide +kernel⟩,
    ⟨_, _, _, h8, by decide +kernel, by decide +kernel⟩, ⟨_, _, _, h9, by decide +kernel, by decide +kernel⟩,
    ⟨_, _, _, h5, by decide +kernel, by decide +kernel, by decide +kernel⟩,
    ⟨_, _, _, h6, by decide +kernel, by decide +kernel, by decide +kernel⟩,
    ⟨_, _, _, gateDesc, codeDesc, 0x10000020, _, h7, by decide +kernel, by decide +kernel, rfl, by decide +kernel, by decide +kernel,
      by decide +kernel⟩,
    ⟨_, _, _, h2, by decide +kernel, by decide +kernel, by decide +kernel⟩,
    ⟨_, _, _, h3, by decide +kernel, by decide +kernel, by decide +kernel⟩⟩

/-- Engine 0 in the delay slot at 4 of a taken transfer to 0x40. -/
def slotState : State :=
  runEng { engOf [nopW, w3 0x01 3 1 2 0] with
    pc := 4
    xfer := some ⟨0, 0, true, false, 0x40, none, none⟩ }

/-- R167: the slot runs, then the target. -/
theorem test_delay_slot : nextHas (exec (.alu 0) slotState) (fun t => g0 t 3 == 10 && at0 t 0x40 && (engGet t 0).xfer.isNone) = true := by
  decide +kernel

theorem witness_DelaySlotThenTarget : ∃ y nx x, let s := slotState
    let e := engGet s 0
    engReady s 0 issueHold = true ∧ e.hold = .none ∧ partnerOf s 0 = none ∧ decodeBundle s 0 = .ok [y] [.alu] nx ∧
    e.xfer = some x ∧ x.newRing = none ∧ e.swapPend = false ∧ e.dbg.stepping = false ∧ e.rep = none ∧
    e.u.donePos = [] ∧ e.u.done = [] ∧ guardOf e y = true ∧
    (entPriv y.entry = true → privOk e.compat e.ring e.pcc = true) ∧ needOk e y = true ∧ sylUcode y = false :=
  ⟨{ addr := 4, word := w3 0x01 3 1 2 0, ext := 0, entry := 0x80000000 }, 8,
    { src := 0, lcBefore := 0, taken := true, annul := false, target := 0x40, newPcc := none, newRing := none }, by decide +kernel⟩

/-- R170: REP with LC 0 skips its body. -/
theorem test_rep : runsTo .rep (prog [w3 0x56 0 0 0 0, nopW]) (fun t => at0 t 8) = true := by decide +kernel
/-- R170: REPI with LC 1 enters its body. -/
theorem test_repi : runsTo .repi (runEng { engOf [w3 0x57 0 0 0 0, nopW] with lc := 1 })
    (fun t => at0 t 4 && (engGet t 0).repact) = true := by decide +kernel

theorem witness_RepeatPrefixesComplete : ∃ b after,
    entCls b.entry ≠ some .c ∧
    (∃ s y nx, fetchFrom false s 0 8 nx = .bundle [b] after ∧ Runs s 0 y .rep nx ∧ (engGet s 0).lc = 0) ∧
    (∃ s y nx, fetchFrom false s 0 8 nx = .bundle [b] after ∧ Runs s 0 y .repi nx ∧ (engGet s 0).lc = 0) ∧
    (∃ s y nx, fetchFrom false s 0 8 nx = .bundle [b] after ∧ Runs s 0 y .repi nx ∧ (engGet s 0).lc.toNat = 1) ∧
    (∃ s y nx, fetchFrom false s 0 8 nx = .bundle [b] after ∧ Runs s 0 y .repi nx ∧ (engGet s 0).lc.toNat = 65535) ∧
    (∃ s y nx, fetchFrom false s 0 8 nx = .bundle [b] after ∧ Runs s 0 y .rep nx ∧ (engGet s 0).lc.toNat = 257) ∧
    (∃ s y nx, fetchFrom false s 0 8 nx = .bundle [b] after ∧ Runs s 0 y .repi nx ∧ 65535 < (engGet s 0).lc.toNat) := by
  have k (s : State) (op : Op) (h : runsB s 0 op = true) (hn : afterOf s 0 = 4) : ∃ y, Runs s 0 y op 4 := by
    exact ⟨_, hn ▸ runs_of h⟩
  obtain ⟨_, h1⟩ := k (prog [w3 0x56 0 0 0 0, nopW]) .rep (by decide +kernel) (by decide +kernel)
  obtain ⟨_, h2⟩ := k (prog [w3 0x57 0 0 0 0, nopW]) .repi (by decide +kernel) (by decide +kernel)
  obtain ⟨_, h3⟩ := k (runEng { engOf [w3 0x57 0 0 0 0, nopW] with lc := 1 }) .repi (by decide +kernel) (by decide +kernel)
  obtain ⟨_, h4⟩ := k (runEng { engOf [w3 0x57 0 0 0 0, nopW] with lc := 65535 }) .repi (by decide +kernel) (by decide +kernel)
  obtain ⟨_, h5⟩ := k (runEng { engOf [w3 0x56 0 0 0 0, nopW] with lc := 257 }) .rep (by decide +kernel) (by decide +kernel)
  obtain ⟨_, h6⟩ := k (runEng { engOf [w3 0x57 0 0 0 0, nopW] with lc := 65536 }) .repi (by decide +kernel) (by decide +kernel)
  exact ⟨{ addr := 4, word := nopW, ext := 0, entry := 0x81000000 }, 8, by decide +kernel,
    ⟨_, _, _, by decide +kernel, h1, by decide +kernel⟩, ⟨_, _, _, by decide +kernel, h2, by decide +kernel⟩,
    ⟨_, _, _, by decide +kernel, h3, by decide +kernel⟩, ⟨_, _, _, by decide +kernel, h4, by decide +kernel⟩,
    ⟨_, _, _, by decide +kernel, h5, by decide +kernel⟩, ⟨_, _, _, by decide +kernel, h6, by decide +kernel⟩⟩

/-- ADD g3, g3, g1 under a REP or a REPI with LC = k. -/
def repState (major k : Nat) : State := runEng { engOf [w3 major 0 0 0 0, w3 0x01 3 3 1 0] with lc := BitVec.ofNat 32 k }
/-- The second time of a REPI whose body is ADD g3, g3, g1. -/
def repiBody : State := runEng { engOf [w3 0x57 0 0 0 0, w3 0x01 3 3 1 0] with
  lc := 2
  pc := 4
  repact := true
  rep := some { prefixAt := 0, repi := true } }
/-- R171: REP runs its body three times in the one command. -/
theorem test_rep_body : runsTo .rep (repState 0x56 3) (fun t => g0 t 3 == 21 && at0 t 8 && (engGet t 0).lc == 0) = true := by decide +kernel

/-- The hypotheses on an ALU body, for a REP of one, of three and of 256, and for the last time of a REPI and the one before. -/
theorem witness_RepeatPrefixesComplete_body : let b : Syl := { addr := 4, word := w3 0x01 3 3 1 0, ext := 0, entry := 0x80000000 }
    (∀ k, k ∈ [1, 3, 256] → let s := repState 0x56 k
      let e := engGet s 0
      runsB s 0 .rep = true ∧ afterOf s 0 = 4 ∧ 1 ≤ e.lc.toNat ∧ e.lc.toNat ≤ 256 ∧ fetchFrom false s 0 8 4 = .bundle [b] 8 ∧
      decodeBundle (engSet s 0 { e with pc := 4 }) 0 = .ok [b] [.alu] 8 ∧ guardOf e b = true ∧ entPriv b.entry = false ∧
      needOk e b = true ∧ sylUcode b = false ∧ entCls b.entry ≠ some .c) ∧
    (∀ k, k ∈ [1, 2] → let s := engMap repiBody 0 (fun e => { e with lc := BitVec.ofNat 32 k })
      let e := engGet s 0
      engReady s 0 issueHold = true ∧ e.hold = .none ∧ partnerOf s 0 = none ∧ decodeBundle s 0 = .ok [b] [.alu] 8 ∧
      e.rep = some { prefixAt := 0, repi := true } ∧ e.xfer = none ∧ e.swapPend = false ∧ e.dbg.stepping = false ∧ e.u.donePos = [] ∧
      e.u.done = [] ∧ guardOf e b = true ∧ fetchFrom false s 0 8 4 = .bundle [b] 8) := by
  decide +kernel

/-! Cells and contexts: Tables 3.2, 7.12 and 7.13, R63, R70, R82, R111 to R118, R218 to R229. -/

/-- A cell of kind 1 with STAMP 0. -/
def cellA : W128 := 0x0000000100000002002A401000000010

/-- Engine 0 with `ws`, one cell inbound and a buffer of two cells in DMEM. -/
def cellEng (ws : List Word) : Engine :=
  { engOf ws with inq := [{ cell := cellA, arr := false }], dmem := memPut [] 0x10 (leBytes 16 cellA.toNat) }

/-- R218: the cell is in the buffer and gone from the queue, and g3 counts it. -/
theorem test_tpop : runsTo .tpop (runEng { cellEng [w3 0x70 3 1 5 1] with dmem := [] })
    (fun t => memBytes (engGet t 0).dmem 0x10 16 == leBytes 16 cellA.toNat && (engGet t 0).inq == [] && g0 t 3 == 1 && at0 t 4) = true := by
  decide +kernel
/-- R55: a pop that finds no cell young enough drops and counts the old one at the head. -/
theorem test_tpop_old : runsTo .tpop { runEng (cellEng [w3 0x70 3 1 5 1]) with tick := { tickn := 100 } }
    (fun t => (engGet t 0).inq == [] && cntGet t 0x5008 == 1 && g0 t 3 == 0) = true := by decide +kernel
/-- R219: the same with the cell left in place. -/
theorem test_tpeek : runsTo .tpeek (runEng { cellEng [w3 0x71 3 1 5 1] with dmem := [] })
    (fun t => memBytes (engGet t 0).dmem 0x10 16 == leBytes 16 cellA.toNat && (engGet t 0).inq.length == 1 && g0 t 3 == 1) = true := by
  decide +kernel
/-- R220, R63: pushed with no context open the cell is released, with SEQ 0 and STAMP the tick. -/
theorem test_tpush : runsTo .tpush (runEng (cellEng [w3 0x72 3 1 5 1]))
    (fun t => (engGet t 0).outq.map (fun o => (o.cell, o.pend)) == [(cellA, false)] && g0 t 3 == 1) = true := by decide +kernel
/-- R221: an empty queue gives the fill cell; a queue with a cell gives it, lowest word in g12. -/
theorem test_tpopr : runsTo .tpopr (runEng (cellEng [w3 0x73 12 0 0 0]))
    (fun t => g0 t 12 == 0x10 && g0 t 13 == 0x002A4010 && g0 t 14 == 2 && g0 t 15 == 1 && (engGet t 0).inq == []) = true := by
  decide +kernel
theorem test_tpopr_empty : runsTo .tpopr (prog [w3 0x73 12 0 0 0]) (fun t => quad (engGet t 0) 12 == fillCell) = true := by
  decide +kernel
/-- R221, R63: g8 to g11 go out; STAMP becomes the present tick, 0. -/
theorem test_tpushr : runsTo .tpushr (prog [w3 0x74 8 0 0 0])
    (fun t => (engGet t 0).outq.map (·.cell) == [(0x000000010000002A002A401000000010 : W128)]) = true := by decide +kernel

/-- The same with room for one more cell in the outbound queue, which holds 255 released ones. -/
def fullEng (ws : List Word) : Engine := { cellEng ws with outq := List.replicate 255 ⟨cellA, false, 0⟩ }
/-- R71: the first of two cells goes into the queue and the second waits for the router. -/
theorem test_tpush_stall : runsTo .tpush (runEng (fullEng [w3 0x72 3 1 5 2]))
    (fun t => (engGet t 0).outq.length == 256 && (engGet t 0).hold == .push && (engGet t 0).pushDone == 1 && (engGet t 0).pc == 0) = true := by
  decide +kernel

theorem witness_CellInstructionsComplete :
    (∃ s y nx a, Runs s 0 y .tpop nx ∧ 0 < ((availCells s 0).take (sylMinor y.word)).length ∧
      engCheck (engGet s 0) (regC (engGet s 0) (sylRa y.word)) (regG (engGet s 0) (sylRb y.word)) (16 * sylMinor y.word) 16 .store = .ok a ∧
      (∀ i, i < ((availCells s 0).take (sylMinor y.word)).length → engStoreCheck s 0 (a.toNat + 16 * i) = .val 0) ∧
      regionOf 0 a.toNat = .dmem ∧ ∀ t, engTileBad s 0 true t = false) ∧
    (∃ s y nx a, Runs s 0 y .tpeek nx ∧ 0 < ((availCells s 0).take (sylMinor y.word)).length ∧
      engCheck (engGet s 0) (regC (engGet s 0) (sylRa y.word)) (regG (engGet s 0) (sylRb y.word)) (16 * sylMinor y.word) 16 .store = .ok a ∧
      (∀ i, i < ((availCells s 0).take (sylMinor y.word)).length → engStoreCheck s 0 (a.toNat + 16 * i) = .val 0) ∧
      regionOf 0 a.toNat = .dmem ∧ ∀ t, engTileBad s 0 true t = false) ∧
    (∀ stalls, ∃ s y nx a, Runs s 0 y .tpush nx ∧ sylMinor y.word = 2 ∧ (engGet s 0).pushDone = 0 ∧ (engGet s 0).pushPut = 0 ∧
      engCheck (engGet s 0) (regC (engGet s 0) (sylRa y.word)) (regG (engGet s 0) (sylRb y.word)) (16 * 2) 16 .load = .ok a ∧
      engLoad s 0 a.toNat 16 = .val cellA ∧ engLoad s 0 (a + 16).toNat 16 = .val 0 ∧ pushStalls s 0 [cellA, 0] = stalls) ∧
    (∃ s y nx, Runs s 0 y .tpop nx ∧ sylMinor y.word = 0) ∧ (∃ s y nx, Runs s 0 y .tpeek nx ∧ sylMinor y.word = 0) ∧
    (∃ s y nx, Runs s 0 y .tpush nx ∧ sylMinor y.word = 0) ∧
    (∃ s y nx a, Runs s 0 y .tpop nx ∧ 0 < sylMinor y.word ∧ (availCells s 0).take (sylMinor y.word) = [] ∧
      engCheck (engGet s 0) (regC (engGet s 0) (sylRa y.word)) (regG (engGet s 0) (sylRb y.word)) (16 * sylMinor y.word) 16 .store = .ok a) ∧
    (∃ s y nx a, Runs s 0 y .tpeek nx ∧ 0 < sylMinor y.word ∧ (availCells s 0).take (sylMinor y.word) = [] ∧
      engCheck (engGet s 0) (regC (engGet s 0) (sylRa y.word)) (regG (engGet s 0) (sylRb y.word)) (16 * sylMinor y.word) 16 .store = .ok a) ∧
    (∃ s y nx, Runs s 0 y .tpopr nx ∧ availCells s 0 = []) ∧
    (∃ s y nx q rest, Runs s 0 y .tpopr nx ∧ availCells s 0 = q :: rest) ∧
    (∃ s y nx, Runs s 0 y .tpushr nx ∧ (engGet s 0).pushDone = 0 ∧
      pushStalls s 0 [quad (engGet s 0) (sylRd y.word)] = false) := by
  have h1 := runs_of (s := runEng { cellEng [w3 0x70 3 1 5 1] with dmem := [] }) (n := 0) (op := .tpop) (by decide +kernel)
  have h2 := runs_of (s := runEng { cellEng [w3 0x71 3 1 5 1] with dmem := [] }) (n := 0) (op := .tpeek) (by decide +kernel)
  have h3 := runs_of (s := runEng (cellEng [w3 0x72 3 1 5 2])) (n := 0) (op := .tpush) (by decide +kernel)
  have h7 := runs_of (s := runEng (fullEng [w3 0x72 3 1 5 2])) (n := 0) (op := .tpush) (by decide +kernel)
  have h8 := runs_of (s := prog [w3 0x70 3 1 5 0]) (n := 0) (op := .tpop) (by decide +kernel)
  have h9 := runs_of (s := prog [w3 0x71 3 1 5 0]) (n := 0) (op := .tpeek) (by decide +kernel)
  have ha := runs_of (s := prog [w3 0x72 3 1 5 0]) (n := 0) (op := .tpush) (by decide +kernel)
  have hb := runs_of (s := prog [w3 0x70 3 1 5 15]) (n := 0) (op := .tpop) (by decide +kernel)
  have hc := runs_of (s := prog [w3 0x71 3 1 5 15]) (n := 0) (op := .tpeek) (by decide +kernel)
  have h4 := runs_of (s := prog [w3 0x73 12 0 0 0]) (n := 0) (op := .tpopr) (by decide +kernel)
  have h5 := runs_of (s := runEng (cellEng [w3 0x73 12 0 0 0])) (n := 0) (op := .tpopr) (by decide +kernel)
  have h6 := runs_of (s := prog [w3 0x74 8 0 0 0]) (n := 0) (op := .tpushr) (by decide +kernel)
  exact ⟨⟨_, _, _, 0x10000010, h1, by decide +kernel, by decide +kernel, by decide +kernel, by decide +kernel, fun _ => rfl⟩,
    ⟨_, _, _, 0x10000010, h2, by decide +kernel, by decide +kernel, by decide +kernel, by decide +kernel, fun _ => rfl⟩,
    fun stalls => match stalls with
      | false => ⟨_, _, _, 0x10000010, h3, by decide +kernel, by decide +kernel, by decide +kernel, by decide +kernel,
        by decide +kernel, by decide +kernel, by decide +kernel⟩
      | true => ⟨_, _, _, 0x10000010, h7, by decide +kernel, by decide +kernel, by decide +kernel, by decide +kernel,
        by decide +kernel, by decide +kernel, by decide +kernel⟩,
    ⟨_, _, _, h8, by decide +kernel⟩, ⟨_, _, _, h9, by decide +kernel⟩, ⟨_, _, _, ha, by decide +kernel⟩,
    ⟨_, _, _, 0x10000010, hb, by decide +kernel, by decide +kernel, by decide +kernel⟩,
    ⟨_, _, _, 0x10000010, hc, by decide +kernel, by decide +kernel, by decide +kernel⟩,
    ⟨_, _, _, h4, by decide +kernel⟩, ⟨_, _, _, cellA, [], h5, by decide +kernel⟩,
    ⟨_, _, _, h6, by decide +kernel⟩⟩

/-- A record with VALUE 5, ROUTINE.PTR 0x40, INUSE and LOCK as given. -/
def recOf (lock : Nat) : Rec := BitVec.ofNat 1024 (5 + 0x40 * 2 ^ 128 + 0x80000000 * 2 ^ 160 + lock * 2 ^ 192)

/-- Engine 0 as given, with record 7 in the store and its ROUTINE.CTL copy. -/
def ctxState (e : Engine) (lock : Nat) : State :=
  { runEng e with store := { recs := [(7, recOf lock)], ctl := [(7, 0x80000000)], ctlEdge := [(7, 0x80000000)] } }

theorem flows_ctxState (e : Engine) (l : Nat) : flows (ctxState e l) 0 := flows_runEng e

/-- R112: record 7 (g1) is in the window, and p2 reads 1. -/
theorem test_ctxopen : runsTo .ctxOpen (ctxState (engOf [w3 0x78 2 1 0 0]) 0)
    (fun t => (engGet t 0).ctxOpen == some 7 && (engGet t 0).window == recOf 0 && p0 t 2 && at0 t 4) = true := by decide +kernel
/-- R112: VALUE is not written back from the window, the user words are, and the commit count rises. -/
theorem test_ctxcommit : runsTo .ctxCommit
    (ctxState { engOf [w3 0x78 0 0 0 1] with ctxOpen := some 7, window := recPutWord (recPutWord (recOf 0) 0 9) 0x20 0xAB } 0)
    (fun t => recValue (recGet t 7) == 5 && recWord (recGet t 7) 0x20 == 0xAB && recState (recGet t 7) == 1 &&
      (engGet t 0).ctxOpen.isNone) = true := by decide +kernel
/-- R117: the pending cells go with the context. -/
theorem test_ctxdrop : runsTo .ctxDrop
    (ctxState { engOf [w3 0x78 0 0 0 5] with ctxOpen := some 7, outq := [⟨cellA, true, 0⟩, ⟨cellA, false, 0⟩] } 0)
    (fun t => (engGet t 0).outq == [⟨cellA, false, 0⟩] && (engGet t 0).ctxOpen.isNone && recGet t 7 == recOf 0) = true := by decide +kernel
/-- R114: LOCK reads HELD with holder 0, and p2 reads 1. -/
theorem test_ctxlock : runsTo .ctxLock (ctxState (engOf [w3 0x78 2 1 0 2]) 0)
    (fun t => lockHolder (recLock (recGet t 7)) == some 0 && p0 t 2) = true := by decide +kernel
theorem test_ctxunlock : runsTo .ctxUnlock (ctxState (engOf [w3 0x78 0 1 0 3]) 0x80000000)
    (fun t => recLock (recGet t 7) == 0) = true := by decide +kernel
/-- R227: the index and the routine pointer of the scan entry. -/
theorem test_dispatch : runsTo .dispatch (ctxState { engOf [w3 0x78 12 0 0 4] with scan := [7] } 0)
    (fun t => g0 t 12 == 7 && g0 t 13 == 0x40 && (engGet t 0).scan == []) = true := by decide +kernel

theorem witness_ContextInstructionsComplete :
    (∃ s y nx, Runs s 0 y .ctxOpen nx ∧ (engGet s 0).ctxOpen = none ∧ field (regG (engGet s 0) (sylRa y.word)) 16 0 = 7 ∧
      engMayOpen s 0 7 = true ∧ engRecBad s 0 7 0 = false ∧ engRecBad s 0 7 1 = false ∧ lockedByOther s 0 7 = false) ∧
    (∃ s y nx j, Runs s 0 y .ctxCommit nx ∧ (engGet s 0).ctxOpen = some j ∧ engRecBad s 0 j 0 = false ∧ windowBad s 0 = none) ∧
    (∃ s y nx j, Runs s 0 y .ctxDrop nx ∧ (engGet s 0).ctxOpen = some j) ∧
    (∃ s y nx, Runs s 0 y .ctxLock nx ∧ field (regG (engGet s 0) (sylRa y.word)) 16 0 = 7 ∧ engMayOpen s 0 7 = true ∧
      engRecBad s 0 7 0 = false ∧ lockHolder (recLock (engRec s 0 7)) = none ∧ (locksOf s (lockId s 0)).length < 4) ∧
    (∃ s y nx, Runs s 0 y .ctxLock nx ∧ field (regG (engGet s 0) (sylRa y.word)) 16 0 = 7 ∧ engMayOpen s 0 7 = true ∧
      engRecBad s 0 7 0 = false ∧ lockHolder (recLock (engRec s 0 7)) = some (lockId s 0)) ∧
    (∃ s y nx, Runs s 0 y .ctxUnlock nx ∧ field (regG (engGet s 0) (sylRa y.word)) 16 0 = 7 ∧ engMayOpen s 0 7 = true ∧
      engRecBad s 0 7 0 = false) ∧
    (∃ s y nx, Runs s 0 y .dispatch nx ∧ (engGet s 0).ctxOpen = none ∧ (nextEntry s 0).isSome = true ∧
      ∀ q, nextEntry s 0 = some q → engRecBad s 0 q.2.1 0 = false) ∧
    (∃ z : State, z.svc.acts = [] ∧ (engGet z 0).swapPend = false) := by
  have h1 := runs_of (s := ctxState (engOf [w3 0x78 2 1 0 0]) 0) (n := 0) (op := .ctxOpen) (by decide +kernel)
  have h2 := runs_of (s := ctxState { engOf [w3 0x78 0 0 0 1] with ctxOpen := some 7 } 0) (n := 0) (op := .ctxCommit)
    (by decide +kernel)
  have h3 := runs_of (s := ctxState { engOf [w3 0x78 0 0 0 5] with ctxOpen := some 7 } 0) (n := 0) (op := .ctxDrop)
    (by decide +kernel)
  have h4 := runs_of (s := ctxState (engOf [w3 0x78 2 1 0 2]) 0) (n := 0) (op := .ctxLock) (by decide +kernel)
  have h7 := runs_of (s := ctxState (engOf [w3 0x78 2 1 0 2]) 0x80000000) (n := 0) (op := .ctxLock) (by decide +kernel)
  have h5 := runs_of (s := ctxState (engOf [w3 0x78 0 1 0 3]) 0x80000000) (n := 0) (op := .ctxUnlock) (by decide +kernel)
  have h6 := runs_of (s := ctxState { engOf [w3 0x78 12 0 0 4] with scan := [7] } 0) (n := 0) (op := .dispatch) (by decide +kernel)
  exact ⟨⟨_, _, _, h1, by decide +kernel⟩, ⟨_, _, _, 7, h2, by decide +kernel⟩,
    ⟨_, _, _, 7, h3, by decide +kernel⟩, ⟨_, _, _, h4, by decide +kernel⟩, ⟨_, _, _, h7, by decide +kernel⟩,
    ⟨_, _, _, h5, by decide +kernel⟩, ⟨_, _, _, h6, by decide +kernel, by decide +kernel, fun _ _ => rfl⟩, ⟨State.reset, by decide⟩⟩

theorem test_tickwait : runsTo .tickWait (prog [w3 0x7F 3 0 0 3]) (fun t => (engGet t 0).hold == .tick && (engGet t 0).pc == 0) = true := by
  decide +kernel
/-- R229: g3 takes the tick number. -/
theorem test_tickwait_edge : nextHas (exec (.tickwaitEdge 0) { runEng { engOf [w3 0x7F 3 0 0 3] with hold := .tickMet, told := { tick := some 0x1D05 } } with
    tick := { tickn := 0x1D06 } }) (fun t => g0 t 3 == 0x1D05 && at0 t 4) = true := by decide +kernel
theorem test_dispatch_wait : nextHas (exec (.dispatchEntryReady 0)
    (ctxState { engOf [w3 0x78 12 0 0 4] with scan := [7], hold := .dispatch } 0)) (fun t => g0 t 12 == 7 && at0 t 4) = true := by
  decide +kernel
/-- R116: the lock that came free is taken; LOCKWAIT cycles are counted at 0x6104. -/
theorem test_lock_wait_end : nextHas (exec (.lockWaitEnd 0 9) (ctxState { engOf [w3 0x78 2 1 0 2] with hold := .lock } 0))
    (fun t => lockHolder (recLock (recGet t 7)) == some 0 && p0 t 2 && cntGet t 0x6104 == 9 && at0 t 4) = true := by decide +kernel
/-- R116: a wait that ends without the lock writes 0 to p2 and counts at 0x6108; engine 3 keeps the lock. -/
theorem test_lock_wait_timeout : nextHas (exec (.lockWaitTimeout 0) (ctxState { engOf [w3 0x78 1 1 0 2] with hold := .lock } 0x83000000))
    (fun t => lockHolder (recLock (recGet t 7)) == some 3 && p0 t 1 == false && cntGet t 0x6108 == 1 && at0 t 4) = true := by decide +kernel

theorem witness_EngineWaitsEnd :
    (∃ s y nx, Runs s 0 y .tickWait nx ∧ (engGet s 0).ctxOpen = none) ∧
    (∃ s, (engGet s 0).hold = .tick) ∧
    (∃ s y nx v, Waits s 0 y .tickWait nx .tickMet ∧ (engGet s 0).ctxOpen = none ∧ (engGet s 0).told.tick = some v) ∧
    (∃ s y nx, Waits s 0 y .dispatch nx .dispatch ∧ (engGet s 0).ctxOpen = none ∧ (nextEntry s 0).isSome = true ∧
      ∀ q, nextEntry s 0 = some q → engRecBad s 0 q.2.1 0 = false) ∧
    (∃ s y nx, Runs s 0 y .ctxLock nx ∧ (locksOf s (lockId s 0)).length < 4 ∧ field (regG (engGet s 0) (sylRa y.word)) 16 0 = 7 ∧
      engMayOpen s 0 7 = true ∧ engRecBad s 0 7 0 = false ∧ noLockWait s 0 = false ∧
      lockHolder (recLock (engRec s 0 7)) = some 3 ∧ lockId s 0 = 0) ∧
    (∃ s y nx, Runs s 0 y .ctxOpen nx ∧ (engGet s 0).ctxOpen = none ∧ field (regG (engGet s 0) (sylRa y.word)) 16 0 = 7 ∧
      engMayOpen s 0 7 = true ∧ engRecBad s 0 7 0 = false ∧ noLockWait s 0 = false ∧
      lockHolder (recLock (engRec s 0 7)) = some 3 ∧ lockId s 0 = 0) ∧
    (∃ s y nx, flows s 0 ∧ Waits s 0 y .ctxLock nx .lock ∧ field (regG (engGet s 0) (sylRa y.word)) 16 0 = 7 ∧
      engMayOpen s 0 7 = true ∧ engRecBad s 0 7 0 = false ∧ lockHolder (recLock (engRec s 0 7)) = none ∧ (locksOf s (lockId s 0)).length < 4 ∧
      portNext s 0 = some 0 ∧ lockLeft s 0 = 4096) ∧
    (∃ s y nx, Waits s 0 y .ctxLock nx .lock ∧ field (regG (engGet s 0) (sylRa y.word)) 16 0 = 7 ∧
      engMayOpen s 0 7 = true ∧ engRecBad s 0 7 0 = false ∧ (∃ h, lockHolder (recLock (engRec s 0 7)) = some h ∧ h ≠ lockId s 0) ∧
      (locksOf s (lockId s 0)).length < 4) := by
  have h6 := runs_of (s := ctxState (engOf [w3 0x78 2 1 0 2]) 0x83000000) (n := 0) (op := .ctxLock) (by decide +kernel)
  have h7 := runs_of (s := ctxState (engOf [w3 0x78 2 1 0 0]) 0x83000000) (n := 0) (op := .ctxOpen) (by decide +kernel)
  have h1 := runs_of (s := prog [w3 0x7F 3 0 0 3]) (n := 0) (op := .tickWait) (by decide +kernel)
  have h2 := waits_of (s := runEng { engOf [w3 0x7F 3 0 0 3] with hold := .tickMet, told := { tick := some 0x1D05 } }) (n := 0) (op := .tickWait) (w := .tickMet)
    (by decide +kernel)
  have h3 := waits_of (s := ctxState { engOf [w3 0x78 12 0 0 4] with scan := [7], hold := .dispatch } 0) (n := 0) (op := .dispatch)
    (w := .dispatch) (by decide +kernel)
  have h4 := waits_of (s := ctxState { engOf [w3 0x78 2 1 0 2] with hold := .lock } 0) (n := 0) (op := .ctxLock) (w := .lock)
    (by decide +kernel)
  have h5 := waits_of (s := ctxState { engOf [w3 0x78 1 1 0 2] with hold := .lock } 0x83000000) (n := 0) (op := .ctxLock)
    (w := .lock) (by decide +kernel)
  exact ⟨⟨_, _, _, h1, by decide +kernel⟩, ⟨runEng { engOf [] with hold := .tick }, by decide +kernel⟩,
    ⟨_, _, _, _, h2, by decide +kernel, rfl⟩, ⟨_, _, _, h3, by decide +kernel, by decide +kernel, fun _ _ => rfl⟩,
    ⟨_, _, _, h6, by decide +kernel⟩, ⟨_, _, _, h7, by decide +kernel⟩,
    ⟨_, _, _, flows_ctxState _ _, h4, by decide +kernel⟩,
    ⟨_, _, _, h5, by decide +kernel, by decide +kernel, by decide +kernel, ⟨3, by decide +kernel, by decide +kernel⟩, by decide +kernel⟩⟩

/-! Micro-routines, exceptions and faults. The decode entries of the microcoded majors stand in the shadow of bank 0, so that their
micro-addresses are known. -/

/-- Engine 0 with `ws` and the entry of a major. -/
def microEng (ws : List Word) (major : Nat) (entry : Word) : Engine := { engOf ws with dec0 := [(major, some entry)] }
/-- Engine 0 issues `op`, whose routine starts and then completes; the property is of the state at the end. -/
def routineTo (op : Op) (s : State) (p : State → Bool) : Bool :=
  issuesB s 0 op && sylUcode (sylNow s 0) && nextHas (exec (commandOf op 0) s) (fun t =>
    (engGet t 0).hold == .micro && nextHas (exec (.microroutineComplete 0 35) t) p)

theorem routineTo_issues {op : Op} {s : State} {p : State → Bool} (h : routineTo op s p = true) :
    ∃ y nx, Issues s 0 y op nx ∧ sylUcode y = true ∧ sylRom y = sylRom (sylNow s 0) := by
  simp only [routineTo, Bool.and_eq_true] at h
  exact ⟨_, _, issues_of h.1.1, h.1.2, rfl⟩

/-- Table 6.7: 7 divided by 3. -/
theorem test_div : routineTo .div (runEng (microEng [w3 0x23 3 1 2 0] 0x23 0xC0200100)) (fun t => g0 t 3 == 2 && at0 t 4) = true := by
  decide +kernel
/-- R212, R216: 6.0 / 2.0 = 3.0. -/
theorem test_fdiv : routineTo .fdiv (runEng { engOf [w3 0x68 3 1 2 3] with g := [(1, 0x40C00000), (2, 0x40000000)] })
    (fun t => g0 t 3 == 0x40400000 && at0 t 4) = true := by decide +kernel
/-- Table 7.7: the root of -0 is -0. -/
theorem test_fsqrt : routineTo .fsqrt (prog [w3 0x68 3 6 0 4]) (fun t => g0 t 3 == 0x80000000) = true := by decide +kernel
/-- R210: no bytes leave the state as it is. -/
theorem test_crcblk : routineTo .crcBlk (runEng (microEng [w3 0x65 2 1 5 0] 0x65 0xC0800100)) (fun t => g0 t 2 == 3 && at0 t 4) = true := by
  decide +kernel
/-- R281: a customer instruction whose entry names micro-address 0x800 starts there. -/
theorem test_custom : nextHas (exec (.customInstruction 0) (runEng (microEng [w3 0xE0 3 1 2 0] 0xE0 0xC0000800)))
    (fun t => (engGet t 0).hold == .micro && (engGet t 0).u.upc == 0x800 && (engGet t 0).pc == 0) = true := by decide +kernel

/-- No routine of engine 0 keeps a fault or stands behind another. -/
def micro0 (s : State) : Bool := (engGet s 0).u.late.isNone && (engGet s 0).u.park.isEmpty

theorem witness_MicrocodedInstructionsComplete :
    (∃ s y nx, micro0 s ∧ Issues s 0 y .div nx ∧ sylUcode y = true ∧ sylRom y = true) ∧
    (∃ s y nx, micro0 s ∧ Issues s 0 y .fdiv nx ∧ sylUcode y = true ∧ sylRom y = true) ∧
    (∃ s y nx, micro0 s ∧ Issues s 0 y .fsqrt nx ∧ sylUcode y = true ∧ sylRom y = true) ∧
    (∃ s y nx, micro0 s ∧ Issues s 0 y .crcBlk nx ∧ sylUcode y = true ∧ sylRom y = true ∧ regG (engGet s 0) (sylRd y.word + 1) = 0) ∧
    (∃ s y nx, micro0 s ∧ Issues s 0 y .custom nx ∧ sylUcode y = true ∧ sylRom y = false) := by
  obtain ⟨_, _, h1, u1, r1⟩ := routineTo_issues test_div
  obtain ⟨_, _, h2, u2, r2⟩ := routineTo_issues test_fdiv
  obtain ⟨_, _, h3, u3, r3⟩ := routineTo_issues test_fsqrt
  obtain ⟨_, _, h4, u4, r4⟩ := routineTo_issues test_crcblk
  have h5 := issues_of (s := runEng (microEng [w3 0xE0 3 1 2 0] 0xE0 0xC0000800)) (n := 0) (op := .custom) (by decide +kernel)
  have e4 := sylNow_eq h4
  have e5 := sylNow_eq h5
  exact ⟨⟨_, _, _, by decide +kernel, h1, u1, r1.trans (by decide +kernel)⟩, ⟨_, _, _, by decide +kernel, h2, u2, r2.trans (by decide +kernel)⟩,
    ⟨_, _, _, by decide +kernel, h3, u3, r3.trans (by decide +kernel)⟩, ⟨_, _, _, by decide +kernel, h4, u4, r4.trans (by decide +kernel), by rw [← e4]; decide +kernel⟩,
    ⟨_, _, _, by decide +kernel, h5, by rw [← e5]; decide +kernel, by rw [← e5]; decide +kernel⟩⟩

/-- R297: the word is repaired and counted, and the routine goes on. -/
theorem test_microword_repair : nextHas (exec (.microwordRepairDone 0 false 0x800 true) (runEng { engOf [] with hold := .parity false 0x800 }))
    (fun t => (engGet t 0).hold == .micro && cntGet t 0x910C == 1) = true := by decide +kernel

theorem witness_MicrowordRepairResumes :
    (let s := runEng { engOf [] with hold := .parity false 0xBFF }
     (engGet s 0).run = .running ∧ domStat s 0 = 1 ∧ badgerDead s = false ∧ 0xBFF < 0xC00 ∧ (engGet s 0).hold = .parity false 0xBFF) ∧
    (let s := { State.reset with eng := [(63, { engOf [] with hold := .parity true 0xFF })] }
     (engGet s 63).run = .running ∧ domStat s 63 = 1 ∧ badgerDead s = false ∧ (engGet s 63).hold = .parity true 0xFF) := by
  decide +kernel

/-- R241, Table 8.1: SYSC 5 enters level 2 with cause 16 and XADR2 = 5; XPC2 is the next bundle. -/
theorem test_sysc : runsTo .sysc (runEng { engOf [w3 0x7F 0 5 0 1] with vbase := 0x8000 })
    (fun t => let e := engGet t 0
      e.level == 2 && e.save2.xpc == 4 && e.save2.xadr == 5 && e.save2.xcau == 0x5010 && e.pc == 0x8A00) = true := by decide +kernel
/-- R232: without debug, BRK is cause 17. -/
theorem test_brk : runsTo .brk (prog [w3 0x7F 0 31 0 2])
    (fun t => let e := engGet t 0
      e.level == 2 && e.save2.xadr == 31 && e.save2.xcau == 0x5111 && e.pc == 0xA20) = true := by decide +kernel
/-- R246: the return takes back pc, PCC, LC and the level. -/
def eretState : State :=
  runEng { engOf [w3 0x7F 0 0 0 0] with
    level := 1
    save1 := { xpc := 0x40, xlc := 9, xpcc := capAll } }
theorem test_eret : runsTo .eret eretState (fun t => let e := engGet t 0
      e.pc == 0x40 && e.lc == 9 && e.level == 0 && e.pcc == capAll) = true := by decide +kernel
/-- R248: a save bank that fails its parity check as ERET reads it is cause SAVEBANK at level 3, in place of the return. -/
def eretBank : State :=
  runEng { engOf [w3 0x7F 0 0 0 0] with
    level := 1
    save1 := { xpc := 0x40, xst := 0x10000000, bank := { valid := true } } }
theorem test_eret_savebank : nextHas (exec (.eret 0 true) eretBank) (fun t => let e := engGet t 0
      e.level == 3 && e.save3.xpc == 0 && e.save3.xadr == 0x40) = true := by decide +kernel
/-- The block with source 9 of priority 3 offered to engine 0. -/
def eventState : State :=
  { runEng { engOf [nopW] with vbase := 0x1000 } with
    hreg := [(0x20000, 1), (0x21090, 0x80000003), (0x21094, 1), (0x27000, 0x100)]
    svc := { eng := [(0, { st := 1 })] }
    hub := { src := [(9, { raw := true, pend := true, offered := some 0 })] } }
/-- R346, R241: level 1, XADR1 the source and XPC1 the bundle that waits; the handler of priority 3 stands at VBASE + 0x460. -/
theorem test_event_entry : nextHas (exec (.eventEntry 0) eventState)
    (fun t => let e := engGet t 0
      e.level == 1 && e.save1.xadr == 9 && e.save1.xpc == 0 && e.pc == 0x1460 && (srcGet t 9).insvc == some 0) = true := by decide +kernel

theorem witness_ExceptionsEnterAndReturn :
    (∃ s y nx, Runs s 0 y .sysc nx ∧ (engGet s 0).level = 0) ∧
    (∃ s y nx, Runs s 0 y .brk nx ∧ (engGet s 0).level = 0 ∧ dbgEnabled s 0 = false) ∧
    (∃ s y nx, Runs s 0 y .brk nx ∧ dbgEnabled s 0 = true) ∧
    (∃ s, let e := engGet s 0
      eventPoint s 0 = true ∧ hubEn s = true ∧ domStat s 83 = 1 ∧ partnerOf s 0 = none ∧ isPaired s = false ∧ e.hold ≠ .micro ∧
      e.xfer = none ∧ e.rep = none ∧ tgtOffer s 0 = some 9) ∧
    (∃ s y nx, let e := engGet s 0
      isPaired s = false ∧ Runs s 0 y .eret nx ∧ flows s 0 ∧ 1 ≤ e.level ∧ e.level ≤ 2 ∧ privOk e.compat e.ring e.pcc = true ∧
      bitAt (saveGet e e.level).xst 28 = true) ∧
    (∃ s y nx, let e := engGet s 0
      Runs s 0 y .eret nx ∧ 1 ≤ e.level ∧ e.level ≤ 3 ∧ privOk e.compat e.ring e.pcc = true ∧
      bitAt (saveGet e e.level).xst 28 = false) := by
  have h1 := runs_of (s := runEng { engOf [w3 0x7F 0 5 0 1] with vbase := 0x8000 }) (n := 0) (op := .sysc) (by decide +kernel)
  have h2 := runs_of (s := prog [w3 0x7F 0 31 0 2]) (n := 0) (op := .brk) (by decide +kernel)
  have h3 := runs_of (s := { prog [w3 0x7F 0 31 0 2] with hreg := [(0x200000, 1)] }) (n := 0) (op := .brk) (by decide +kernel)
  have h5 := runs_of (s := eretState) (n := 0) (op := .eret) (by decide +kernel)
  have h6 := runs_of (s := eretBank) (n := 0) (op := .eret) (by decide +kernel)
  exact ⟨⟨_, _, _, h1, by decide +kernel⟩, ⟨_, _, _, h2, by decide +kernel, by decide +kernel⟩,
    ⟨_, _, _, h3, by decide +kernel⟩, ⟨eventState, by decide +kernel⟩,
    ⟨_, _, _, by decide, h6, flows_runEng _, by decide +kernel⟩,
    ⟨_, _, _, h5, by decide +kernel⟩⟩

/-- A word of major 0, which no instruction has. -/
def illState : State := runEng { engOf [0x80000000] with vbase := 0x1000 }
/-- R161, R241, Table 8.1: the illegal-instruction fault enters level 2 with the registers as they were. -/
theorem test_illegal : nextHas (exec (.alu 0) illState)
    (fun t => let e := engGet t 0
      e.level == 2 && e.save2.xpc == 0 && e.pc == 0x1000 + 0x800 + BitVec.ofNat 32 (causeCode .illegal * 0x20) && e.g == (engOf []).g) = true := by
  decide +kernel

theorem witness_FaultsAreTakenInPlace : ∃ tr, let s := illState
    let e := engGet s 0
    engReady s 0 issueHold = true ∧ e.hold = .none ∧ partnerOf s 0 = none ∧ bundleHas s 0 .alu = true ∧ e.xfer = none ∧ e.rep = none ∧
    e.swapPend = false ∧ e.dbg.stepping = false ∧ e.level = 0 ∧ bundleRes s 0 = .trap tr ∧ tr.cause ≠ .tileData ∧
    tr.cause ≠ .tileFetch ∧ causeLevel tr.cause = 2 :=
  Exists.intro { cause := .illegal, adr := 0 } (by and_intros <;> decide +kernel)

/-! The queue, reset, power, time and the event hub. -/

/-- The model of a block: the front command runs with the rest of the queue. -/
theorem test_front_command : nextHas (step { State.reset with pending := [.softwareEventSet 0 5, .hmbCplRead] })
    (fun t => tblGet 0 0 t.hub.sw == 5 && t.pending == [.hmbCplRead]) = true := by decide +kernel
/-- A command runs and leaves the queue alone (the hypothesis of CommandsLeaveTheQueue). -/
theorem witness_CommandsLeaveTheQueue : nextHas (exec .hmbCplRead { State.reset with pending := [.powerOn] })
    (fun t => t.pending == [.powerOn]) = true := by decide +kernel
theorem test_empty_queue_idles : step State.reset = .next State.reset := rfl

/-- Every memory of the reset state is in canonical form (nothing listed). -/
theorem test_reset_memories : Memory.wf State.reset.mem.staging = true ∧ Memory.wf State.reset.mem.dram = true ∧
    Memory.wf State.reset.mbx.req = true ∧ Memory.wf State.reset.sett.work = true ∧ tblWf ({} : Engine) State.reset.eng = true := by
  decide +kernel

/-- The block with power off. -/
def offState : State := { State.reset with bstate := .off, io := { fused := true } }
/-- R402, R474: power-on goes to RESET, and a part with a blown fuse comes up locked. -/
theorem test_power_on : nextHas (exec .powerOn offState) (fun t => t.bstate == .reset && t.io.locked) = true := by decide +kernel
theorem test_block_power_off : nextHas (exec .blockPowerOff (prog [])) (fun t => t.bstate == .off && domStat t 0 == 0 && domStat t 85 == 0) = true := by
  decide +kernel
/-- R16: context records outlive a block reset, counters do not. -/
theorem test_block_reset : nextHas (exec (.blockReset 0) { prog [] with store := { recs := [(7, 5)] }, cnt := [(0x4018, 3)] })
    (fun t => t.bstate == .reset && recGet t 7 == 5 && cntGet t 0x4018 == 0 && (engGet t 0).run == .stopped) = true := by decide +kernel
theorem test_kdio_long_low : nextHas (exec .kdioLongLow (prog [])) (fun t => t.bstate == .reset && t.io.kdio) = true := by decide +kernel
/-- R403, R404: the Badger starts in its ROM. -/
theorem test_badger_release : nextHas (exec (.badgerRelease true) State.reset)
    (fun t => t.bstate == .keeperBoot && (engGet t 66).run == .running && (engGet t 66).pc == 0x08000000) = true := by decide +kernel
theorem test_sideband_ready : nextHas (exec (.sidebandReady [] noKeys) { State.reset with bstate := .keeperBoot })
    (fun t => t.bstate == .awaitImage) = true := by decide +kernel

theorem witness_PowerAndResetCommands :
    (∃ w, { prog [] with bat := { queue := [w] } }.bat.queue = w :: []) ∧ (prog []).bat.queue = [] ∧
    offState.bstate = .off ∧ (prog []).bstate ≠ .off ∧ State.reset.bstate = .reset ∧
    (let s := { State.reset with bstate := .keeperBoot }
     s.bstate = .keeperBoot ∧ s.rel.fcause ≠ 7 ∧ badgerDead s = false ∧ ([[]] : List (List Byte)).length ≤ 8) :=
  ⟨⟨{ ent := {}, hdr := {} }, rfl⟩, by decide +kernel⟩

/-- The block in RUN with its tick running at BN9 time 1000, with a slew of `k`. -/
def clockState (k : W64) : State := { prog [] with tick := { running := true, bn9 := 1000, slew := k, units := 40 } }
theorem test_tbi_update : nextHas (exec (.tbiUpdate 1001) (clockState 0)) (fun t => t.tick.bn9 == 1001 && ktb t == 1001) = true := by
  decide +kernel
/-- R28: a step of 5 while the slew is 3 takes 3 off the slew and 2 onto KTB. -/
theorem test_forward_step : nextHas (exec (.timebaseForwardStep 1006 5) (clockState 3))
    (fun t => t.tick.slew == 0 && ktb t == 1006 && cntGet t 0x10080 == 1) = true := by decide +kernel
/-- R29: a step of -5 goes to the slew, and KTB goes on. -/
theorem test_backward_step : nextHas (exec (.timebaseBackwardStep 996 5) (clockState 0))
    (fun t => ktb t == 1001 && cntGet t 0x10084 == 1) = true := by decide +kernel

/-- The least and the greatest step back, and the BN9 time that the step leads to. -/
theorem witness_BackwardStepGoesToSlew : let s := clockState 0
    s.bstate ≠ .off ∧ s.tick.running = true ∧ (-(1 : W64)).msb = true ∧ (-(0x7FFFFFFFFFFFFFFF : W64)).msb = true ∧
    (1000 : W64) = s.tick.bn9 + 1 - 1 := by decide +kernel
/-- The least and the greatest step forward, and both sides of the slew. -/
theorem witness_ForwardStepTakesSlewFirst : let s := clockState 3
    s.bstate ≠ .off ∧ s.tick.running = true ∧ (1 : W64).msb = false ∧ (1 : W64) ≠ 0 ∧ (0x7FFFFFFFFFFFFFFF : W64).msb = false ∧
    (3 : W64).ule (slewShrink s.tick 1).slew = true ∧ (4 : W64).ule (slewShrink s.tick 1).slew = false := by decide +kernel

theorem witness_TimebaseFollowsAndStops :
    (clockState 0).bstate ≠ .off ∧ ((1000 : W64) - (clockState 0).tick.bn9).ule 2 = true ∧
    ((1002 : W64) - (clockState 0).tick.bn9).ule 2 = true ∧
    (State.reset.tick.running = false ∧ (5 : W64) ≠ 0 ∧ (5 : W64).msb = false) ∧ (State.reset.tick.running = false ∧ (-(5 : W64)).msb = true) := by
  decide +kernel

/-- R396: nothing that waits is written once the record is lost. -/
theorem test_batloss : nextHas (exec .batlossRise { prog [] with bat := { queue := [{ ent := {}, hdr := {} }] }, sett := { st := 3 } })
    (fun t => t.sett.loss && t.io.batloss && t.bat.queue.isEmpty) = true := by decide +kernel
theorem test_vlowack : nextHas (exec (.vlowackChange true) (prog [])) (fun t => t.svc.lowv) = true := by decide +kernel
/-- R389: PIN 0, which a high KSEAL_N gives, closes an open seal. -/
theorem test_kseal : nextHas (exec (.ksealFilterChange false) { prog [] with sett := { st := 3, open_ := true, pin := true }, tick := { bn9 := 10000000 } })
    (fun t => !t.sett.open_ && !t.sett.pin) = true := by decide +kernel
theorem test_pad_supply : nextHas (exec (.padSupplyChange 0 false) { prog [] with field := { sync := [3, 40], filt := [3, 40] } })
    (fun t => t.field.filt == [40] && t.field.sync == [40] && hasNat 0 t.field.supAbsent) = true := by decide +kernel
theorem test_pin_filter : nextHas (exec (.pinFilterChange 207 true 0) (prog [])) (fun t => hasNat 207 t.field.filt) = true := by decide +kernel

theorem witness_BoundaryInputs :
    (prog []).io.batloss = false ∧
    (let s := { prog [] with sett := { pin := true }, tick := { bn9 := 10000000 } }
     s.sett.pin = true ∧ pinSoon s = false) ∧
    (let s := { prog [] with tick := { bn9 := 10000000 } }
     s.sett.pin = false ∧ pinSoon s = false) ∧
    (let s := { prog [] with tick := { bn9 := 9999999 } }
     true ≠ s.sett.pin ∧ pinSoon s = true) ∧
    (let s := { prog [] with field := { pcfg := [(207, 0x90)], moth := [(96, { first := 15, npin := 1, oe := 1 })] }, sett := { st := 3 } }
     207 < 208 ∧ hasNat (207 / 32) s.field.supAbsent = false ∧ pinOd s 207 = true ∧ pinDrive s 207 = some false ∧
     s.field.padq.any (fun q => q.1 == 207) = false) ∧
    hasNat 6 { prog [] with field := { supAbsent := [6] } }.field.supAbsent = true ∧
    hasNat (207 / 32) (prog []).field.supAbsent = false ∧ pinOd (prog []) 207 = false ∧
    hasNat (0 / 32) (prog []).field.supAbsent = false ∧ pinDrive (prog []) 0 ≠ some false ∧
    (∃ c, { prog [] with tick := { pend := some ⟨1, 0, 40, 0, some 0, true, false⟩ } }.tick.pend = some c) := by
  and_intros
  all_goals first | decide +kernel | exact Exists.intro _ rfl

/-- The hub enabled, with source `x` configured by `cfg`, in the condition `c`, and bound for every target, of which engine 0 and the
channels 0 and 7 are enabled. -/
def hubState (x : Nat) (cfg : Word) (c : Src) : State :=
  { prog [] with hreg := [
    (0x20000, 1), (0x21000 + x * 0x10, cfg), (0x21004 + x * 0x10, 0xFFFFFFFF), (0x2100C + x * 0x10, 0xFF), (0x27000, 0x100),
    (0x27800, 0x100), (0x278E0, 0x100)], hub := { src := [(x, c)] } }

/-- R338: the claim answers VALID, PRIO and the source, which is in service. -/
theorem test_event_claim : nextHas (exec (.eventClaim 7) (hubState 9 0x80000003 { raw := true, pend := true, offered := some 71 }))
    (fun t => t.hostRd == 0x80030009 && (srcGet t 9).insvc == some 71 && !(srcGet t 9).pend) = true := by decide +kernel
theorem test_event_eoi : nextHas (exec (.eventEoi 0 9) (hubState 9 0x80000003 { insvc := some 64 }))
    (fun t => (srcGet t 9).insvc.isNone) = true := by decide +kernel
theorem test_insvc_clear : nextHas (exec (.sourceInsvcClear 9) (hubState 9 0x80000003 { insvc := some 3 }))
    (fun t => (srcGet t 9).insvc.isNone) = true := by decide +kernel
theorem test_pend_clear : nextHas (exec (.sourcePendClear 9) (hubState 9 0x80000003 { pend := true, offered := some 64 }))
    (fun t => !(srcGet t 9).pend && (srcGet t 9).offered.isNone) = true := by decide +kernel
theorem test_source_disable : nextHas (exec (.sourceDisable 9 3) (hubState 9 0x80000003 { pend := true, offered := some 64 }))
    (fun t => srcCfg t 9 == 3 && !(srcGet t 9).pend) = true := by decide +kernel
theorem test_sw_clear : nextHas (exec (.softwareEventClear 15 6) { prog [] with hub := { sw := [(15, 7)] } })
    (fun t => tblGet 0 15 t.hub.sw == 1) = true := by decide +kernel
theorem test_hub_disable : nextHas (exec .hubDisable (hubState 9 0x80000003 { pend := true, offered := some 64 }))
    (fun t => !hubEn t && (srcGet t 9).offered.isNone && (srcGet t 9).pend) = true := by decide +kernel

theorem witness_HubHostCommands :
    (let s := hubState 9 0x80000003 { raw := true, pend := true, offered := some 71 }
     hubUp s = true ∧ tgtOffer s (64 + 7) = some 9) ∧
    (let s := hubState 9 0x80000003 { raw := true, pend := true, offered := some 64 }
     hubUp s = true ∧ tgtOffer s (64 + 0) = some 9) ∧
    (let s := hubState 9 0x80000003 { insvc := some 71 }
     hubUp s = true ∧ (srcGet s (field (9 : Word) 9 0)).insvc = some (64 + 7)) ∧
    (let s := hubState 1023 0x80000003 { insvc := some 0 }
     hubUp s = true ∧ (srcGet s 1023).insvc.isSome = true) ∧
    bitAt (3 : Word) 31 = false := by decide +kernel

/-- R333: a level source that is high becomes pending; 0 is a field pin. -/
theorem test_source_pending : nextHas (exec (.eventSourcePending 0)
    { hubState 0 0x80000003 {} with field := { filt := [0], sync := [0] } }) (fun t => (srcGet t 0).pend && (srcGet t 0).raw) = true := by
  decide +kernel
/-- R337: the pending source is offered to the engine of target 0. -/
def offerState : State :=
  { hubState 9 0x80000003 { raw := true, pend := true } with
    hreg := [(0x20000, 1), (0x21090, 0x80000003), (0x21094, 1), (0x27000, 0x100)]
    svc := { eng := [(0, { st := 1 })] } }
theorem test_event_offer : nextHas (exec .eventOffer offerState) (fun t => (srcGet t 9).offered == some 0 && (srcGet t 9).rot == 0) = true := by
  decide +kernel
/-- R344: the timer of group 63 stands at its end. -/
def timerState : State := { prog [] with hub := { tmr := [(63, { left := 1, base := 0 })] }, tick := { bn9 := 1000, running := true } }
theorem test_holdoff : nextHas (exec (.holdoffExpire 63) timerState) (fun t => t.hub.tmr == []) = true := by decide +kernel

/-- The same with source 9 on offer and source 10, of a higher priority, pending for the same target. -/
def offerTwo : State :=
  { offerState with
    hreg := [(0x20000, 1), (0x21090, 0x80000003), (0x21094, 1), (0x210A0, 0x80000005), (0x210A4, 1), (0x27000, 0x100)]
    hub := { src := [(9, { raw := true, pend := true, offered := some 0 }), (10, { raw := true, pend := true })] } }
/-- R337, R338: the offer of the higher priority takes the place of the one that stands. -/
theorem test_event_offer_replaces : nextHas (exec .eventOffer offerTwo)
    (fun t => (srcGet t 10).offered == some 0 && (srcGet t 9).offered == none && (srcGet t 9).pend) = true := by decide +kernel

theorem witness_HubSamplesOffersAndTimers :
    (let s := { hubState 0 0x80000003 {} with field := { filt := [0], sync := [0] } }
     domStat s 83 = 1 ∧ srcPulsed 0 = false ∧ srcReserved 0 = false ∧ srcActive s 0 = true ∧ srcMode s 0 = 0 ∧ srcSignal s 0 = true ∧
     (srcGet s 0).insvc = none ∧ (srcGet s 0).pend = false) ∧
    hubEn (prog []) = false ∧ hubEn offerState = true ∧
    ((∀ x, (srcGet offerState x).offered = none) ∧ (∀ z, z ≠ 9 → srcCandidate offerState z 0 = false) ∧ srcCandidate offerState 9 0 = true) ∧
    (let s := offerTwo
     (∀ z, z ≠ 9 → (srcGet s z).offered = none) ∧ (srcGet s 9).offered = some 0 ∧ offerStands s 9 0 = true ∧
     srcPrio s 9 < srcPrio s 10 ∧ srcCandidate s 10 0 = true ∧ (∀ z, z ≠ 10 → srcCandidate s z 0 = false)) ∧
    ((tblGet {} 63 timerState.hub.tmr).left ≠ 0 ∧ holdRemain timerState 63 = 0 ∧ domStat timerState 83 = 1) := by
  have hs : ∀ z, z ≠ 9 → srcGet offerState z = {} := fun z hz => by
    simp only [srcGet, offerState, hubState, tblGet]; rw [if_neg (Ne.symm hz)]
  have ht : ∀ z, z ≠ 9 → z ≠ 10 → srcGet offerTwo z = {} := fun z hz hw => by
    simp only [srcGet, offerTwo, offerState, hubState, tblGet]; rw [if_neg (Ne.symm hz), if_neg (Ne.symm hw)]
  refine ⟨by decide +kernel, by decide +kernel, by decide +kernel, ⟨fun x => ?_, fun z hz => ?_, by decide +kernel⟩,
    ⟨fun z hz => ?_, by decide +kernel, by decide +kernel, by decide +kernel, by decide +kernel, fun z hz => ?_⟩, by decide +kernel⟩
  · by_cases h : x = 9
    · subst h; decide +kernel
    · rw [hs x h]
  · simp only [srcCandidate, hs z hz]; rfl
  · by_cases h : z = 10
    · subst h; decide +kernel
    · rw [ht z hz h]
  · by_cases h : z = 9
    · subst h; decide +kernel
    · simp only [srcCandidate, ht z h hz]; rfl

/-! Mailbox commands: Tables 19.1 to 19.4. A row submits its command, which is accepted, in one step. -/

/-- A state whose engines 0 and 1 are active in service, that runs. -/
def svcState : State := { State.reset with bstate := .run, svc := { eng := [(0, { st := 1 }), (1, { st := 1 })] }, tick := { units := 4000 } }

/-- The entry of the command as a decision. -/
def acceptsB (s : State) (code len : Nat) (pl : List Word) (p : State → Bool) : Bool :=
  match mbxEnter s code len pl with
  | none => false
  | some z => decide (acceptStatus z = 0) && decide (z.mbx.nextTag ≠ 0) && p z

theorem accepts_of {s : State} {code len : Nat} {pl : List Word} {p : State → Bool} (h : acceptsB s code len pl p = true) :
    ∃ z, Accepts s code len pl z ∧ p z = true := by
  unfold acceptsB at h
  split at h
  · cases h
  · rename_i z hz
    simp only [Bool.and_eq_true, decide_eq_true_eq] at h
    exact ⟨z, ⟨hz, h.1.1, h.1.2⟩, h.2⟩

/-- Whether the mailbox is free again with STATUS `st` under TAG 1. -/
def answered (t : State) (st : Nat) : Bool := !t.mbx.busy && t.mbx.status == st && t.mbx.tag == 1

/-- R505, Table 19.2: RELEASE is not allowed in RESET. -/
theorem test_mailbox_state : nextHas (exec (.hold 0 []) State.reset)
    (fun t => t.mbx.status == 2 && t.mbx.tag == 0 && cntGet t 0x40024 == 1) = true := by decide +kernel
theorem test_badcmd : nextHas (exec (.badcmdSubmission 0x12 0) svcState) (fun t => t.mbx.status == 4 && cntGet t 0x40024 == 1) = true := by
  decide +kernel

theorem witness_MailboxRefusesInOrder :
    (submission (.hold 0 []) = some (2, 0, []) ∧ ∃ z, mbxEnter State.reset 2 0 [] = some z ∧ acceptStatus z = 2) ∧
    (submission (.hold 4 [0]) = some (2, 4, [0]) ∧ ∃ z, mbxEnter svcState 2 4 [0] = some z ∧ acceptStatus z = 6) ∧
    (submission (.sealStatus 4097 []) = some (0xD, 4097, []) ∧ ∃ z, mbxEnter svcState 0xD 4097 [] = some z ∧ acceptStatus z = 3) ∧
    (submission (.badcmdSubmission 255 0) = some (255, 0, []) ∧ ∃ z, mbxEnter svcState 255 0 [] = some z ∧ acceptStatus z = 4) ∧
    (let s := { svcState with mbx := { inflight := 16 } }
     submission (.hold 0 []) = some (2, 0, []) ∧ ∃ z, mbxEnter s 2 0 [] = some z ∧ acceptStatus z = 5) ∧ hostUp svcState = true ∧ svcState.mbx.busy = false := by
  exact ⟨⟨rfl, _, rfl, by decide +kernel⟩, ⟨rfl, _, rfl, by decide +kernel⟩, ⟨rfl, _, rfl, by decide +kernel⟩,
    ⟨rfl, _, rfl, by decide +kernel⟩, ⟨rfl, _, rfl, by decide +kernel⟩, by decide +kernel⟩

/-- R390: six words of results. -/
theorem test_seal_status : nextHas (exec (.sealStatus 0 []) { svcState with bat := { hdr := { evcnt := 7, log := 99 } }, sett := { settid := 0xABCD } })
    (fun t => answered t 0 && t.mbx.reslen == 24 && memWord t.mbx.resp 4 == 0xABCD && memWord t.mbx.resp 12 == 7 &&
      memWord t.mbx.resp 20 == 2) = true := by decide +kernel
theorem test_clear_counters : nextHas (exec (.clearCounters 0 []) { svcState with cnt := [(0x4018, 3)] })
    (fun t => answered t 0 && cntGet t 0x4018 == 0) = true := by decide +kernel
/-- R518: the oldest record leaves the log; its 32 bytes follow a head of 32. -/
theorem test_read_faults : nextHas (exec (.readFaults 4 [1]) { svcState with mbx := { log := [⟨0, 0, 8, 0, 0, 0, 0, 0⟩, ⟨0, 1, 8, 0, 0, 0, 0, 1⟩] } })
    (fun t => answered t 0 && t.mbx.reslen == 64 && t.mbx.log.length == 1) = true := by decide +kernel
/-- R315: a record that fails its parity goes too, and the failure is recorded as that of another memory. -/
theorem test_read_faults_bad : nextHas (exec (.readFaults 4 [1] [0, 5]) { svcState with mbx := { log := [⟨0, 0, 8, 0, 0, 0, 0, 0⟩, ⟨0, 1, 8, 0, 0, 0, 0, 1⟩] } })
    (fun t => t.mbx.log.map (fun r => (r.cls, r.source)) == [(8, 0), (3, 0x05002000)] && t.mbx.reslen == 64) = true := by decide +kernel

theorem witness_ImmediateCommandsComplete :
    (∃ z, Accepts svcState 0xD 0 [] z) ∧ (∃ z, Accepts svcState 0x10 0 [] z) ∧ (∃ z, Accepts svcState 0x11 4 [0] z) ∧
    (∃ z, Accepts svcState 0x11 4 [1024] z) := by
  obtain ⟨z1, h1, _⟩ := accepts_of (s := svcState) (code := 0xD) (len := 0) (pl := []) (p := fun _ => true) (by decide +kernel)
  obtain ⟨z2, h2, _⟩ := accepts_of (s := svcState) (code := 0x10) (len := 0) (pl := []) (p := fun _ => true) (by decide +kernel)
  obtain ⟨z3, h3, _⟩ := accepts_of (s := svcState) (code := 0x11) (len := 4) (pl := [0]) (p := fun _ => true) (by decide +kernel)
  obtain ⟨z4, h4, _⟩ := accepts_of (s := svcState) (code := 0x11) (len := 4) (pl := [1024]) (p := fun _ => true) (by decide +kernel)
  exact ⟨⟨z1, h1⟩, ⟨z2, h2⟩, ⟨z3, h3⟩, ⟨z4, h4⟩⟩

/-- R35, R43: the period waits for its tick. -/
theorem test_set_tick : nextHas (exec (.setTick 16 [8000, 0, 500, 0]) svcState)
    (fun t => answered t 1 && t.tick.units == 4000 && t.bstate == .service &&
      (match t.tick.pend with | some c => c.units == 8000 && c.m == 500 && c.tag == 1 | none => false)) = true := by decide +kernel
/-- R438: into MIRRORED the fill is still to come. -/
theorem test_set_profile : nextHas (exec (.setProfile 12 [2, 500, 0]) svcState)
    (fun t => t.svc.profile == 0 && (match t.tick.pend with | some c => c.profile == some 2 && !c.fillOk | none => false)) = true := by
  decide +kernel
/-- R425: in RUN, HOLD waits for the edge. -/
theorem test_hold : nextHas (exec (.hold 0 []) svcState) (fun t => t.svc.acts == [{ tag := 1, act := .hold }] && t.bstate == .run) = true := by
  decide +kernel

/-- R425: during a pre-check begun in HOLD it ends the release. -/
theorem test_hold_precheck : nextHas (exec (.hold 0 []) { svcState with bstate := .hold, rel := { next := some {}, tag := 9, phase := 1 } })
    (fun t => t.mbx.cpl == [(9, 2), (1, 0)] && t.bstate == .hold && t.rel.next.isNone && t.rel.phase == 5 && t.rel.fcause == 6) = true := by
  decide +kernel

theorem witness_TickAndProfileCommandsComplete :
    (∃ z, Accepts svcState 4 16 [40, 0, 0, 0] z ∧ svcState.tick.pend = none ∧ periodFits svcState.svc.profile (field (plWord (payload z) 0) 21 0)
      (field (plWord (payload z) 1) 21 0) = true ∧ admitted svcState svcState.rel.img svcState.svc.profile (field (plWord (payload z) 0) 21 0)
      (field (plWord (payload z) 1) 21 0) (svcActive svcState) = true) ∧
    (∃ z, Accepts svcState 4 16 [4000000, 0, 0, 0] z ∧ periodFits svcState.svc.profile (field (plWord (payload z) 0) 21 0)
      (field (plWord (payload z) 1) 21 0) = true ∧ admitted svcState svcState.rel.img svcState.svc.profile (field (plWord (payload z) 0) 21 0)
      (field (plWord (payload z) 1) 21 0) (svcActive svcState) = true) ∧
    (∃ z, Accepts svcState 3 12 [2, 0, 0] z ∧ svcState.svc.profile ≠ 1 ∧ svcState.svc.profile ≠ 3 ∧ minTick 2 ≤ svcState.tick.units ∧
      field (plWord (payload z) 0) 2 0 = 2 ∧ profileFits svcState 2 = true ∧ (∀ k, k < 8 → cluMir svcState k ≠ 3) ∧
      admitted svcState svcState.rel.img 2 svcState.tick.units svcState.tick.subtick (svcActive svcState) = true) ∧
    (∃ z, Accepts svcState 2 0 [] z ∧ svcState.rel.next = none ∧ svcState.bstate = .run) ∧
    (∃ z, Accepts { svcState with bstate := .hold, rel := { next := some {} } } 2 0 [] z) ∧
    (∃ z, Accepts { svcState with bstate := .awaitImage, rel := { next := some {} } } 2 0 [] z) ∧
    (∃ z, Accepts { svcState with bstate := .verify } 2 0 [] z) := by
  obtain ⟨z1, h1, g1⟩ := accepts_of (s := svcState) (code := 4) (len := 16) (pl := [40, 0, 0, 0])
    (p := fun z => periodFits 0 (field (plWord (payload z) 0) 21 0) (field (plWord (payload z) 1) 21 0) &&
      admitted svcState svcState.rel.img 0 (field (plWord (payload z) 0) 21 0) (field (plWord (payload z) 1) 21 0) (svcActive svcState))
    (by decide +kernel)
  obtain ⟨z2, h2, g2⟩ := accepts_of (s := svcState) (code := 4) (len := 16) (pl := [4000000, 0, 0, 0])
    (p := fun z => periodFits 0 (field (plWord (payload z) 0) 21 0) (field (plWord (payload z) 1) 21 0) &&
      admitted svcState svcState.rel.img 0 (field (plWord (payload z) 0) 21 0) (field (plWord (payload z) 1) 21 0) (svcActive svcState))
    (by decide +kernel)
  obtain ⟨z3, h3, g3⟩ := accepts_of (s := svcState) (code := 3) (len := 12) (pl := [2, 0, 0])
    (p := fun z => field (plWord (payload z) 0) 2 0 == 2) (by decide +kernel)
  obtain ⟨z4, h4, _⟩ := accepts_of (s := svcState) (code := 2) (len := 0) (pl := []) (p := fun _ => true) (by decide +kernel)
  obtain ⟨z5, h5, _⟩ := accepts_of (s := { svcState with bstate := .hold, rel := { next := some {} } }) (code := 2) (len := 0) (pl := []) (p := fun _ => true)
    (by decide +kernel)
  obtain ⟨z6, h6, _⟩ := accepts_of (s := { svcState with bstate := .awaitImage, rel := { next := some {} } }) (code := 2) (len := 0) (pl := []) (p := fun _ => true)
    (by decide +kernel)
  obtain ⟨z7, h7, _⟩ := accepts_of (s := { svcState with bstate := .verify }) (code := 2) (len := 0) (pl := []) (p := fun _ => true)
    (by decide +kernel)
  simp only [Bool.and_eq_true] at g1 g2
  exact ⟨⟨z1, h1, by decide +kernel, g1⟩, ⟨z2, h2, g2⟩,
    ⟨z3, h3, by decide +kernel, by decide +kernel, by decide +kernel, by simpa using g3, by decide +kernel, by decide +kernel, by decide +kernel⟩,
    ⟨z4, h4, by decide +kernel⟩, ⟨z5, h5⟩, ⟨z6, h6⟩, ⟨z7, h7⟩⟩

/-! Service commands. -/

theorem test_retire_engine : nextHas (exec (.retireEngine 4 [0x200]) svcState)
    (fun t => t.svc.acts == [{ tag := 1, act := .retire 0 true false }] && t.bstate == .service) = true := by decide +kernel
/-- R443, R447: the retirement of a cluster completes with the last engine that had a context open. -/
theorem test_cluster_end : (cluSettle { svcState with svc := { acts := [⟨3, .clusterEnd 0⟩] } }).mbx.cpl = [(3, 0)] ∧
    (cluSettle { svcState with svc := { acts := [⟨0, .retireTail 1 255 false⟩, ⟨3, .clusterEnd 0⟩] } }).mbx.cpl = [] := by decide +kernel
/-- A state in which engine 63 is retired. -/
def retiredState : State := { svcState with svc := { eng := [(0, { st := 1 }), (63, { st := 3 })] } }
/-- The same with the restore of engine 56, of the same cluster, in progress. -/
def restoringState : State :=
  { svcState with svc := { eng := [(0, { st := 1 }), (56, { st := 5 }), (63, { st := 3 })], acts := [⟨9, .restore 56 false 0 false⟩] } }
theorem test_restore_engine : nextHas (exec (.restoreEngine 12 [63, 0, 0]) retiredState)
    (fun t => t.svc.acts == [{ tag := 1, act := .restore 63 false 1 false }] && (svcEng t 63).st == 5) = true := by decide +kernel
theorem test_migrate : nextHas (exec (.migrate 20 [1, 0x10, 2, 900, 0]) svcState)
    (fun t => t.svc.acts == [{ tag := 1, act := .migrate 1 0x10 2 900 }]) = true := by decide +kernel
/-- Engine 0 with a loaded inactive bank. -/
def bankState : State := { svcState with eng := [(0, { inact := 2 })] }
theorem test_swap_ubank : nextHas (exec (.swapUbank 16 [1, 0, 900, 0]) bankState)
    (fun t => t.svc.acts == [{ tag := 1, act := .swapUbank 1 900 }] && (engGet t 0).swapPend) = true := by decide +kernel
theorem test_remap_moth : nextHas (exec (.remapMoth 4 [0x80000F00]) svcState)
    (fun t => t.svc.acts == [{ tag := 1, act := .remap 0 15 true }]) = true := by decide +kernel

theorem witness_ServiceCommandsComplete :
    isPaired svcState = false ∧
    (∃ z, Accepts svcState 5 4 [0x200] z ∧ bitAt (plWord (payload z) 0) 8 = false ∧ field (plWord (payload z) 0) 6 0 = 0) ∧
    (svcActive svcState 0 = true ∧ retPending svcState 0 = false) ∧
    (∃ z, Accepts retiredState 6 12 [63, 0, 0] z ∧ field (plWord (payload z) 0) 6 0 = 63 ∧ (svcEng retiredState 63).st = 3) ∧
    (restoreInHand retiredState (cluOf 63) = none) ∧
    (∃ z, Accepts restoringState 6 12 [63, 0, 0] z ∧ field (plWord (payload z) 0) 6 0 = 63) ∧
    ((svcEng restoringState 63).st = 3 ∧ (restoreInHand restoringState (cluOf 63)).isSome = true ∧ isPaired restoringState = false) ∧
    (∃ z, Accepts svcState 7 20 [1, 0x3FFF, 1, 0, 0] z ∧ field (plWord (payload z) 0) 6 0 = 1 ∧ field (plWord (payload z) 1) 16 0 = 0x3FFF ∧
      field (plWord (payload z) 2) 14 0 = 1) ∧ (cluOf 1 = homeOf 0x3FFF ∧ svcActive svcState 1 = true) ∧
    (∃ z, Accepts bankState 9 16 [1, 0, 0, 0] z ∧ plWide (payload z) 0 = 1) ∧ (maskList 1 = [0] ∧ maskPairs bankState 1 = true ∧
      (engGet bankState 0).inact = 2) ∧
    (∃ z, Accepts svcState 0xB 4 [0x5E5F] z ∧ field (plWord (payload z) 0) 6 0 = 95 ∧ field (plWord (payload z) 0) 14 8 = 94) ∧
    (bankOf 95 = bankOf 94 ∧ (mothGet svcState 94).en = false ∧ (mothGet svcState 94).npin = 0) := by
  obtain ⟨z1, h1, g1⟩ := accepts_of (s := svcState) (code := 5) (len := 4) (pl := [0x200])
    (p := fun z => bitAt (plWord (payload z) 0) 8 == false && field (plWord (payload z) 0) 6 0 == 0) (by decide +kernel)
  obtain ⟨z2, h2, g2⟩ := accepts_of (s := retiredState) (code := 6) (len := 12) (pl := [63, 0, 0])
    (p := fun z => field (plWord (payload z) 0) 6 0 == 63) (by decide +kernel)
  obtain ⟨z6, h6, g6⟩ := accepts_of (s := restoringState) (code := 6) (len := 12) (pl := [63, 0, 0])
    (p := fun z => field (plWord (payload z) 0) 6 0 == 63) (by decide +kernel)
  obtain ⟨z3, h3, g3⟩ := accepts_of (s := svcState) (code := 7) (len := 20) (pl := [1, 0x3FFF, 1, 0, 0])
    (p := fun z => field (plWord (payload z) 0) 6 0 == 1 && (field (plWord (payload z) 1) 16 0 == 0x3FFF &&
      field (plWord (payload z) 2) 14 0 == 1)) (by decide +kernel)
  obtain ⟨z4, h4, g4⟩ := accepts_of (s := bankState) (code := 9) (len := 16) (pl := [1, 0, 0, 0])
    (p := fun z => plWide (payload z) 0 == 1) (by decide +kernel)
  obtain ⟨z5, h5, g5⟩ := accepts_of (s := svcState) (code := 0xB) (len := 4) (pl := [0x5E5F])
    (p := fun z => field (plWord (payload z) 0) 6 0 == 95 && field (plWord (payload z) 0) 14 8 == 94) (by decide +kernel)
  simp only [Bool.and_eq_true, beq_iff_eq] at g1 g2 g3 g4 g5 g6
  exact ⟨by decide +kernel, ⟨z1, h1, g1⟩, by decide +kernel, ⟨z2, h2, g2, by decide +kernel⟩, by decide +kernel, ⟨z6, h6, g6⟩, by decide +kernel,
    ⟨z3, h3, g3⟩, by decide +kernel,
    ⟨z4, h4, g4⟩, by decide +kernel, ⟨z5, h5, g5⟩, by decide +kernel⟩

/-! Deferred commands that act on images, the seal, the chain and patch blocks, and the release. -/

section Images

set_option maxRecDepth 1000000

/-- Two body tiles: the record of context 0 of cluster 0, with VALUE 5. -/
def tile0 : List Byte := leBytes 64 5
def tile1 : List Byte := leBytes 64 0
/-- An image in the staging buffer (Tables 15.4 and 15.5), its nonzero bytes: profile 0, generation 3, period 4000, two tiles, and one
section of initial contexts for cluster 0. Its CRC words come from a CRC-32C program outside the model. -/
def stagedMem : Memory :=
  [(0, 75), (1, 83), (2, 67), (3, 73), (4, 1), (8, 3), (12, 2), (16, 1), (20, 64), (21, 3), (24, 160),
    (25, 15), (33, 230), (34, 18), (35, 194), (36, 54), (37, 189), (38, 106), (39, 203), (768, 156), (769, 206), (770, 17),
    (771, 162), (772, 103), (773, 235), (774, 200), (775, 3), (776, 5), (784, 2), (832, 5)]
/-- The same in AWAIT_IMAGE. -/
def stagedState : State := { State.reset with bstate := .awaitImage, mem := { staging := stagedMem } }
/-- The image as Tables 15.4 to 15.6 give its fields. -/
def stagedImage : Image :=
  { src := 2, gen := 3, tiles := 2, period := 4000, bcrc := 0xC212E600, bounds := List.replicate 64 0, roles := List.replicate 64 0
    sects := [⟨5, 0, 0, 2, 0, 0⟩], pre := [(0, tile0), (1, tile1)] }

/-- R412: the header passes. -/
theorem test_image_valid : srcValid 2097152 (stageHead stagedState) = true := by decide +kernel
theorem test_image_fields : imageOf 2 0 (stageHead stagedState) (stagePre stagedState (stageHead stagedState)) = stagedImage := by decide +kernel
/-- The state with engine 0's first IMEM tile in the reference table, from an image whose body tile 0 it is. -/
def reloadState : State :=
  { svcState with
    mem := { staging := stagedMem, refs := [(tileKey 0 0 0, some (0xA211CE9C))], bad := [tileKey 0 0 0] }
    rel := { img := { src := 2, tiles := 2, sects := [⟨1, 0, 0, 1, 0, 0⟩] } } }
/-- The same with engine 0's first DMEM tile. -/
def reloadDmem : State :=
  { reloadState with
    mem := { staging := stagedMem, refs := [(tileKey 1 0 0, some (0xA211CE9C))], bad := [tileKey 1 0 0] }
    rel := { img := { src := 2, tiles := 2, sects := [⟨1, 0, 0, 1, 0x10000000, 0⟩] } } }
theorem test_reload_tile_dmem : nextHas (exec (.reloadTile 8 [0x80000001, 0] tile1 false) reloadDmem)
    (fun t => t.mbx.cpl == [(1, 0)] && memBytes (engGet t 0).dmem 0 64 == tile0 && !tileBad t 1 0 0) = true := by decide +kernel
theorem test_reload_tile : nextHas (exec (.reloadTile 8 [0, 0] tile1 false) reloadState)
    (fun t => t.mbx.cpl == [(1, 0)] && memBytes (engGet t 0).imem 0 64 == tile0 && !tileBad t 0 0 0) = true := by decide +kernel
/-- R315: a reference that fails its parity is dropped, and the command ends with NOSRC. -/
theorem test_reload_tile_ref : nextHas (exec (.reloadTile 8 [0, 0] tile1 true) reloadState)
    (fun t => t.mbx.cpl == [(1, 0xD)] && (refOf t 0 0 0).isNone && tileBad t 0 0 0) = true := by decide +kernel
theorem test_open_seal : nextHas (exec (.openSeal 0 []) { svcState with sett := { st := 3, pin := true } })
    (fun t => t.sett.open_ && t.mbx.cpl == [(1, 0)]) = true := by decide +kernel
theorem test_close_seal : nextHas (exec (.closeSeal 0 []) { svcState with sett := { st := 3, pin := true, open_ := true } })
    (fun t => !t.sett.open_ && t.mbx.cpl == [(1, 0)]) = true := by decide +kernel
/-- R95: the head offers with the low word of KTB as ORIGIN. -/
def headState : State := { State.reset with bstate := .awaitImage, hreg := [(0xC0000, 7)], tick := { bn9 := 0x123456789 } }
theorem test_enumerate : nextHas (exec (.enumerateChain 0 []) headState) (fun t => t.chain.offer == some (0x23456789, 1, 0x123456789)) = true := by
  decide +kernel

/-- A customer block (Tables 10.11 and 10.12) for engine 0 with no records, signed outside the model: its public key is twice the
base point of P-256, and its nonce is 1. -/
def signedBlock : List Byte :=
  [75, 83, 67, 85, 1, 0, 1, 0, 3, 0, 1, 0, 0, 0, 0, 0, 1, 0, 0, 0, 0, 0, 0, 0, 0, 0, 0, 0, 9, 0, 0, 0] ++
  [0, 0, 0, 0, 0, 0, 0, 0, 0, 0, 0, 0, 0, 0, 0, 0, 0, 0, 0, 0, 0, 0, 0, 0, 0, 0, 0, 0, 0, 0, 0, 0] ++
  [124, 242, 123, 24, 141, 3, 79, 126, 138, 82, 56, 3, 4, 181, 26, 195, 192, 137, 105, 226, 119, 242, 27, 53, 166, 11, 72, 252, 71, 102, 153, 120] ++
  [7, 119, 85, 16, 219, 142, 208, 64, 41, 61, 154, 198, 159, 116, 48, 219, 186, 125, 173, 230, 60, 233, 130, 41, 158, 4, 183, 157, 34, 120, 115, 209] ++
  [107, 23, 209, 242, 225, 44, 66, 71, 248, 188, 230, 229, 99, 164, 64, 242, 119, 3, 125, 129, 45, 235, 51, 160, 244, 161, 57, 69, 216, 152, 194, 150] ++
  [68, 111, 54, 247, 84, 33, 167, 118, 7, 103, 12, 0, 171, 48, 58, 248, 122, 27, 213, 192, 120, 113, 79, 140, 37, 150, 0, 82, 7, 30, 29, 35] ++
  List.replicate 64 0
/-- Sideband keys that name the signer of the block, by the SHA-256 of its public key. -/
def signerKeys : SideKeys := { noKeys with custHash := 0xD07AEB134840B15242E12D4A06CE3AB493CBD020EBC3BD5AAECD822F51E0C3D8 }
/-- The nonzero bytes of the block. -/
def signedMem : Memory :=
  [(0, 75), (1, 83), (2, 67), (3, 85), (4, 1), (6, 1), (8, 3), (10, 1), (16, 1), (28, 9), (64, 124), (65, 242), (66, 123), (67, 24), (68, 141)] ++
  [(69, 3), (70, 79), (71, 126), (72, 138), (73, 82), (74, 56), (75, 3), (76, 4), (77, 181), (78, 26), (79, 195), (80, 192), (81, 137), (82, 105), (83, 226)] ++
  [(84, 119), (85, 242), (86, 27), (87, 53), (88, 166), (89, 11), (90, 72), (91, 252), (92, 71), (93, 102), (94, 153), (95, 120), (96, 7), (97, 119), (98, 85)] ++
  [(99, 16), (100, 219), (101, 142), (102, 208), (103, 64), (104, 41), (105, 61), (106, 154), (107, 198), (108, 159), (109, 116), (110, 48), (111, 219), (112, 186), (113, 125)] ++
  [(114, 173), (115, 230), (116, 60), (117, 233), (118, 130), (119, 41), (120, 158), (121, 4), (122, 183), (123, 157), (124, 34), (125, 120), (126, 115), (127, 209), (128, 107)] ++
  [(129, 23), (130, 209), (131, 242), (132, 225), (133, 44), (134, 66), (135, 71), (136, 248), (137, 188), (138, 230), (139, 229), (140, 99), (141, 164), (142, 64), (143, 242)] ++
  [(144, 119), (145, 3), (146, 125), (147, 129), (148, 45), (149, 235), (150, 51), (151, 160), (152, 244), (153, 161), (154, 57), (155, 69), (156, 216), (157, 152), (158, 194)] ++
  [(159, 150), (160, 68), (161, 111), (162, 54), (163, 247), (164, 84), (165, 33), (166, 167), (167, 118), (168, 7), (169, 103), (170, 12), (172, 171), (173, 48), (174, 58)] ++
  [(175, 248), (176, 122), (177, 27), (178, 213), (179, 192), (180, 120), (181, 113), (182, 79), (183, 140), (184, 37), (185, 150), (187, 82), (188, 7), (189, 30), (190, 29)] ++
  [(191, 35)]
/-- The block at the start of the staging buffer. -/
def ubankState : State :=
  { svcState with eng := [(0, { filled0 := true })], mem := { staging := signedMem }, io := { keys := signerKeys } }

/-- R301, FIPS 180-4, FIPS 186-5: the key hash is that of the sideband, and the signature verifies. -/
theorem test_block_signature : pbAuth signerKeys signedBlock = 0 := by decide +kernel
/-- R302: another key hash is refused with 0x11. -/
theorem test_block_wrong_key : pbAuth { signerKeys with custHash := 1 } signedBlock = 0x11 := by decide +kernel
/-- FIPS 197, example C.1. -/
theorem test_aes : aesBlock (beBytes 16 0x000102030405060708090A0B0C0D0E0F) (beBytes 16 0x00112233445566778899AABBCCDDEEFF) =
    beBytes 16 0x69C4E0D86A7B0430D8CDB78070B4C55A := by decide +kernel

/-- R304, trap spacing: a word that goes on through more than 64 words without a trap point breaks the rule, and one before a trap
point does not. -/
theorem test_trap_spacing : spacingRule [(0xB00, 1)] [.word 0xB00 1] = false ∧
    spacingRule [(0xB00, 1), (0xB01, BitVec.twoPow 160 136)] [.word 0xB00 1] = true := by decide +kernel
/-- The checks of Table 10.13 pass for the block. -/
theorem signedBlock_checks (regions : List (Tbl MWord)) (hr : (if regions.isEmpty then [[]] else regions).all (fun r => custRule r []) = true) :
    blockCheck signerKeys 3 regions signedBlock = 0 := by
  have e : pbItems signerKeys signedBlock = some [] := by decide +kernel
  have h1 : pbHeaderOk signedBlock = true := by decide +kernel
  have h2 : pbKind signedBlock = 1 := by decide +kernel
  have h3 : bytesWord signedBlock 8 = romVer := by decide +kernel
  have h4 : pbScopex signedBlock = 0 := by decide +kernel
  unfold blockCheck
  rw [test_block_signature, e, h1, h2, h3, h4]
  simp only [costsGiven, List.foldl_nil, hr]
  simp

/-- LOAD_UBANK meets its hypotheses. -/
theorem witness_OtherDeferredCommandsComplete_loadUbank :
    ∃ z, Accepts ubankState 8 20 [1, 0, 1, 0, 256] z ∧ maskList (plWide (payload z) 0) = [0] ∧ ubankBlocks (payload z) = [(0, 256)] ∧
      maskPairs ubankState (plWide (payload z) 0) = true ∧
      (domStat ubankState 0 = 1 ∧ (engGet ubankState 0).swapPend = false ∧ (engGet ubankState 0).inact ≠ 1) ∧
      blockTilesBad ubankState (0, 256) = [] ∧ memBytes ubankState.mem.staging 0 256 = signedBlock ∧
      blocksCheck ubankState.io.keys 3 [0] (fun n => bankOfEng (engGet ubankState n) (engGet ubankState n).ubank) [] [signedBlock] = none ∧
      pbFor signedBlock 0 = true ∧ costRaised ubankState 0 signedBlock = false ∧
      (goldSet (forNats [0] (fun x n => engMap (loadBank x [signedBlock] n) n (fun e => { e with inact := 1 })) (mbxAccept z true)) []).length ≤ 4 := by
  obtain ⟨z, hz, g⟩ := accepts_of (s := ubankState) (code := 8) (len := 20) (pl := [1, 0, 1, 0, 256])
    (p := fun z => decide (maskList (plWide (payload z) 0) = [0]) && (decide (ubankBlocks (payload z) = [(0, 256)]) &&
      (maskPairs ubankState (plWide (payload z) 0) &&
        decide ((goldSet (forNats [0] (fun x n => engMap (loadBank x [signedBlock] n) n (fun e => { e with inact := 1 })) (mbxAccept z true)) []).length ≤ 4))))
    (by decide +kernel)
  simp only [Bool.and_eq_true, decide_eq_true_eq] at g
  refine ⟨z, hz, g.1, g.2.1, g.2.2.1, by decide +kernel, by decide +kernel, by decide +kernel, ?_, by decide +kernel, by decide +kernel, g.2.2.2⟩
  unfold blocksCheck
  have hp : pbFor signedBlock 0 = true := by decide +kernel
  have hb := signedBlock_checks ((([0] : List Nat).filter (pbFor signedBlock)).map (fun n =>
    (((([] : List (List Byte)).filter (fun x => pbFor x n)).foldl (applyBlock signerKeys)
      (bankOfEng (engGet ubankState n) (engGet ubankState n).ubank))).words)) (by decide +kernel)
  have hk : ubankState.io.keys = signerKeys := rfl
  simp only [hk, hb]
  rfl

theorem witness_OtherDeferredCommandsComplete :
    (∃ z, Accepts reloadState 0xA 8 [0, 0] z ∧ field (plWord (payload z) 0) 2 0 = 0 ∧ field (plWord (payload z) 0) 14 8 = 0 ∧
      field (plWord (payload z) 1) 21 0 = 0) ∧ (domStat reloadState 0 = 1 ∧ 0 < tileCount reloadState 0 0 ∧ (refOf reloadState 0 0 0).isSome = true ∧
      repairBytes reloadState 0 0 0 tile1 = some tile0) ∧
    (∃ z, Accepts reloadDmem 0xA 8 [0x80000001, 0] z ∧ field (plWord (payload z) 0) 2 0 = 1 ∧ bitAt (plWord (payload z) 0) 31 = true ∧
      field (plWord (payload z) 0) 14 8 = 0 ∧ field (plWord (payload z) 1) 21 0 = 0) ∧ (domStat reloadDmem 0 = 1 ∧
      0 < tileCount reloadDmem 1 0 ∧ (refOf reloadDmem 1 0 0).isSome = true ∧ repairBytes reloadDmem 1 0 0 tile1 = some tile0) ∧
    (∃ z, Accepts { svcState with sett := { st := 3, pin := true } } 0xE 0 [] z) ∧ (∃ z, Accepts svcState 0xF 0 [] z) ∧
    (∃ z, Accepts headState 0xC 0 [] z) ∧ (chnHead headState = true ∧ headState.chain.offer = none) ∧
    (∃ z, Accepts stagedState 1 4 [1] z ∧ plWord (payload z) 0 = 1 ∧
      preCheck { mbxAccept z true with rel := { (mbxAccept z true).rel with ambiguous := false } } (stageHead stagedState) stagedImage = 0) ∧
    (srcValid 2097152 (stageHead stagedState) = true ∧
      imageOf 2 0 (stageHead stagedState) (stagePre stagedState (stageHead stagedState)) = stagedImage ∧ blocksOk stagedState.io.keys stagedImage = none ∧
      ∀ k, tileBad stagedState 3 0 k = false) := by
  obtain ⟨z1, h1, g1⟩ := accepts_of (s := reloadState) (code := 0xA) (len := 8) (pl := [0, 0])
    (p := fun z => field (plWord (payload z) 0) 2 0 == 0 && (field (plWord (payload z) 0) 14 8 == 0 && field (plWord (payload z) 1) 21 0 == 0))
    (by decide +kernel)
  obtain ⟨z6, h6, g6⟩ := accepts_of (s := reloadDmem) (code := 0xA) (len := 8) (pl := [0x80000001, 0])
    (p := fun z => field (plWord (payload z) 0) 2 0 == 1 && (bitAt (plWord (payload z) 0) 31 == true &&
      (field (plWord (payload z) 0) 14 8 == 0 && field (plWord (payload z) 1) 21 0 == 0))) (by decide +kernel)
  obtain ⟨z2, h2, _⟩ := accepts_of (s := { svcState with sett := { st := 3, pin := true } }) (code := 0xE) (len := 0) (pl := [])
    (p := fun _ => true) (by decide +kernel)
  obtain ⟨z3, h3, _⟩ := accepts_of (s := svcState) (code := 0xF) (len := 0) (pl := []) (p := fun _ => true) (by decide +kernel)
  obtain ⟨z4, h4, _⟩ := accepts_of (s := headState) (code := 0xC) (len := 0) (pl := []) (p := fun _ => true) (by decide +kernel)
  obtain ⟨z5, h5, g5⟩ := accepts_of (s := stagedState) (code := 1) (len := 4) (pl := [1])
    (p := fun z => plWord (payload z) 0 == 1 &&
      preCheck { mbxAccept z true with rel := { (mbxAccept z true).rel with ambiguous := false } } (stageHead stagedState) stagedImage == 0)
    (by decide +kernel)
  simp only [Bool.and_eq_true, beq_iff_eq] at g1 g5 g6
  exact ⟨⟨z1, h1, g1⟩, by decide +kernel, ⟨z6, h6, g6⟩, by decide +kernel, ⟨z2, h2⟩, ⟨z3, h3⟩, ⟨z4, h4⟩, by decide +kernel, ⟨z5, h5, g5⟩, test_image_valid, test_image_fields, by decide +kernel,
    fun _ => rfl⟩

/-! The release after its pre-check. -/

/-- The pre-check of the staged image runs. -/
def preState : State := { stagedState with rel := { next := some stagedImage, tag := 1, phase := 1 } }
/-- R418: the copy begins. -/
theorem test_precheck_pass : nextHas (exec .releasePrecheckPass preState)
    (fun t => t.bstate == .verify && t.rel.phase == 2 && t.tick.running && t.tick.units == 4000) = true := by decide +kernel
/-- The copy of the staged image runs. -/
def copyState : State := { stagedState with bstate := .verify, rel := { img := stagedImage, tag := 1, phase := 2 } }
/-- R418: the first tile is half of record 0. -/
theorem test_tile_copy : nextHas (exec (.releaseTileCopy [] 0) { copyState with rel := { copyState.rel with step := 0 } })
    (fun t => t.bstate == .verify && t.rel.copied == 1 && recValue (recGet t 0) == 5) = true := by decide +kernel
/-- R420: a tile that fails its check ends the release with FCAUSE 2. -/
theorem test_tile_copy_bad : nextHas (exec (.releaseTileCopy tile1 0) { copyState with rel := { copyState.rel with img := { stagedImage with src := 0 } } })
    (fun t => t.bstate == .hold && t.rel.fcause == 2 && t.rel.phase == 5) = true := by decide +kernel
/-- The copy is complete: record 0 stands in the store, with its reference words. -/
def copiedState : State :=
  { copyState with
    rel := { img := stagedImage, tag := 1, phase := 3, crcs := [(0, 0xA211CE9C), (1, 0x03C8EB67)] }
    store := { recs := [(0, 5)] }
    mem := { copyState.mem with refs := [(tileKey 2 0 0, some (0xA211CE9C)), (tileKey 2 0 1, some (0x03C8EB67))] } }
theorem test_readback : nextHas (exec .releaseReadbackDone copiedState) (fun t => t.rel.readback && t.bstate == .verify) = true := by decide +kernel

theorem witness_ReleaseProceeds :
    badgerDead preState = false ∧ preState.rel.next = some stagedImage ∧ preState.bstate = .awaitImage ∧
    (∃ k bs want p rest, planAt copyState = p :: rest ∧ stepTile p = some k ∧ tileSource copyState k [] 0 = some (bs, want) ∧
      copyState.bstate = .verify ∧ copyState.rel.phase = 2 ∧ settLost copyState = false ∧ bs.length = 64 ∧ crc32c bs = want ∧
      (∀ i o, p = .ctx i 0 o → ctlXown (bytesWord bs 0x14) = false)) ∧
    (copiedState.bstate = .verify ∧ copiedState.rel.phase = 3 ∧ copiedState.rel.readback = false ∧ settLost copiedState = false ∧
      (readAll (copyPlan copiedState.rel.img) copiedState).1 = none ∧
      bodyCrc (readAll (copyPlan copiedState.rel.img) copiedState).2 = copiedState.rel.img.bcrc) ∧
    (∃ k p rest, let s := { copyState with mem := { copyState.mem with bad := [tileKey 3 0 12] } }
      planAt s = p :: rest ∧ stepTile p = some k ∧ tileSource s k [] 0 = none ∧ settLost s = false) ∧
    (readAll (copyPlan stagedImage) { copiedState with mem := { copiedState.mem with bad := [tileKey 2 0 1] } }).1.isSome = true := by
  refine ⟨by decide +kernel, by decide +kernel, by decide +kernel, ⟨0, tile0, 0xA211CE9C, (planAt copyState).headD .settStart,
    (planAt copyState).tail, ?_⟩, by decide +kernel, ⟨0, (planAt copyState).headD .settStart, (planAt copyState).tail, ?_⟩,
    by decide +kernel⟩
  all_goals and_intros
  all_goals first | decide +kernel | exact fun _ _ _ => by decide +kernel

/-- The copy of an image with one tile of engine 0's instruction memory, at that tile; in PAIRED too. -/
def engCopyState (profile : Nat) : State :=
  { copyState with
    rel := {
      img := { stagedImage with profile := profile, roles := 1 :: List.replicate 63 0, sects := [⟨1, 0, 0, 1, 0, 0⟩] }
      tag := 1, phase := 2, step := 1 } }
theorem witness_ReleaseProceeds_engines : ∀ q, q = 0 ∨ q = 1 →
    (planAt (engCopyState q)).head? = some (.eng 0 0 0) ∧ tileSource (engCopyState q) 0 [] 0 = some (tile0, 0xA211CE9C) ∧
    settLost (engCopyState q) = false ∧ crc32c tile0 = 0xA211CE9C := by
  rintro q (rfl | rfl) <;> decide +kernel

end Images

/-! Host registers and buffers, power, debug, the Sarern wire and the Sett. -/

/-- R7, R61: the two halves of PHASE in one 64-bit write. -/
theorem test_phase_write : nextHas (exec (.registerWrite 0x10018 true 0x0000000100000002) State.reset)
    (fun t => t.tick.phase == 0x0000000100000002) = true := by decide +kernel
theorem test_low_write : nextHas (exec (.hostLowWordWrite 0x10018 9) State.reset)
    (fun t => t.tick.phase == 0 && tblGet none 0x10018 t.heldLow == some 9) = true := by decide +kernel
/-- R7: the high word is captured with the low one. -/
theorem test_low_read : nextHas (exec (.hostLowWordRead 0x10018 false) { State.reset with tick := { phase := 0x100000002 } })
    (fun t => t.hostRd == 2 && tblGet none 0x10018 t.capHigh == some 1) = true := by decide +kernel
/-- R7: a 64-bit read reads both words at once. -/
theorem test_wide_read : nextHas (exec (.hostLowWordRead 0x10018 true) { State.reset with tick := { phase := 0x100000002 } })
    (fun t => t.hostRd == 0x100000002 && t.capHigh == []) = true := by decide +kernel
theorem test_high_write : nextHas (exec (.hostHighWordWrite 0x1001C 1) { State.reset with heldLow := [(0x10018, some 9)] })
    (fun t => t.tick.phase == 0x100000009) = true := by decide +kernel

theorem witness_HostWideRegisterAccess :
    (let s := State.reset
     hostUp s = true ∧ isLow64 0x10018 = true ∧ regOn s 0x10018 = true ∧ hostRefused s 0x10018 = false ∧ isLow64 0x10020 = true ∧
     isLow64 0x6008 = true ∧ regOn s 0x6008 = true ∧ hostRefused s 0x6008 = false ∧ isLow64 0x407018 = true ∧ regOn s 0x407018 = true ∧
     hostRefused s 0x407018 = false ∧ s.tick.running = false) ∧
    ((clockState 0).tick.running = true ∧ hostUp (clockState 0) = true ∧ regOn (clockState 0) 0x10018 = true) := by decide +kernel

/-- R10: only bit 0 of DSP[7].CTL is writable. -/
theorem test_register_write : nextHas (exec (.registerWrite 0x41E0 false 0xFFFFFFFE) State.reset) (fun t => regGet t 0x41E0 == 0) = true := by
  decide +kernel
/-- R46: a reserve of 51 percent is reserved. -/
theorem test_reserve_write : nextHas (exec (.registerWrite 0x1002C false 51) State.reset) (fun t => t.tick.reserve == 5) = true := by
  decide +kernel
theorem test_age_limit : nextHas (exec (.ageLimitWrite 12) State.reset) (fun t => t.tick.agePending == some 12 && ageLimit t == 8) = true := by
  decide +kernel
/-- R8, R502: the record of class 1 carries the offset. -/
theorem test_misaligned : nextHas (exec (.misalignedHostAccess 6 4 false) State.reset)
    (fun t => t.hostRd == 0 && cntGet t 0x40204 == 1 && t.mbx.log.map (fun r => (r.cls, r.source)) == [(1, 4)]) = true := by decide +kernel
theorem test_unmapped : nextHas (exec (.unmappedHostAccess 0x118000 4 true) State.reset) (fun t => t.mbx.log.length == 1) = true := by
  decide +kernel

theorem witness_HostRegisterWrites :
    hostUp State.reset = true ∧ State.reset.tick.running = false ∧ State.reset.mbx.log.length < 1024 ∧
    fltMerge State.reset 1 (BitVec.ofNat 32 (6 / 4 * 4)) State.reset.mbx.log = none ∧ (6 % 4 ≠ 0) ∧ winMapped 0x118000 = false ∧
    winMapped 0x3FFFFFF = false := by decide +kernel

/-- R78: the oldest cell is captured and gone. -/
theorem test_hostq_pop : nextHas (exec (.hostqCellPop false) { State.reset with cells := { hostq := [cellA] } })
    (fun t => t.hostRd == 0x10 && t.cells.hostq == [] && t.cells.hostCap == cellA) = true := by decide +kernel
/-- R315: an entry that fails its parity is dropped and counted, and the pop captures the next cell. -/
theorem test_hostq_parity : nextHas (exec (.hostqCellPop true) { State.reset with cells := { hostq := [fillCell, cellA] } })
    (fun t => t.cells.hostq == [] && t.cells.hostCap == cellA && cntGet t 0xA044 == 1) = true := by decide +kernel
theorem test_listmax : nextHas (exec (.listmaxRead 7) { State.reset with cnt := [(0x41E8, 5)] }) (fun t => t.hostRd == 5 && t.cnt == []) = true := by
  decide +kernel
theorem test_worst : nextHas (exec (.clusterWorstRead 0) { State.reset with cnt := [(0x1012C, 5)] }) (fun t => t.hostRd == 5 && t.cnt == []) = true := by
  decide +kernel
/-- R510: VALID, the status and the tag. -/
theorem test_cpl : nextHas (exec .hmbCplRead { State.reset with mbx := { cpl := [(3, 2)], inflight := 1 } })
    (fun t => t.hostRd == 0x80020003 && t.mbx.cpl == [] && t.mbx.inflight == 0) = true := by decide +kernel

theorem witness_HostReadsWithEffects :
    hostUp State.reset = true ∧ { State.reset with cells := { hostq := [fillCell, cellA] } }.cells.hostq = fillCell :: [cellA] ∧
    State.reset.mbx.cpl = [] ∧ { State.reset with mbx := { cpl := [(3, 2)] } }.mbx.cpl = (3, 2) :: [] ∧
    (∀ off, off = 0x41000 ∨ off = 0x42000 ∨ off = 0x42FFC → winMapped off = true ∧ mbxSram off = true ∧
      (off < 0x43000 → State.reset.mbx.busy = false) ∧ off < 0x48000) ∧
    (let s := { State.reset with mbx := { log := [⟨0, 0, 8, 0, 0, 0, 0, 0⟩] } }
     winMapped 0x4801C = true ∧ mbxSram 0x4801C = true ∧ (0x4801C - 0x48000) / 32 < s.mbx.log.length ∧
     s.mbx.log.length ≤ (0x48020 - 0x48000) / 32 ∧ s.mbx.log.length ≤ (0x4FFFC - 0x48000) / 32) ∧
    { State.reset with mbx := { busy := true } }.mbx.busy = true := by
  refine ⟨by decide +kernel, by decide +kernel, by decide +kernel, by decide +kernel, ?_, by decide +kernel⟩
  rintro off (rfl | rfl | rfl) <;> decide +kernel

theorem test_staging_write : nextHas (exec (.stagingBufferWrite 0x1FFFFC [1, 2, 3, 4]) State.reset)
    (fun t => memBytes t.mem.staging 0x1FFFFC 4 == [1, 2, 3, 4]) = true := by decide +kernel
/-- R319: part of a failing tile is not written. -/
theorem test_staging_write_bad : nextHas (exec (.stagingBufferWrite 0 [1, 0, 0, 0]) { State.reset with mem := { bad := [tileKey 3 0 0] } })
    (fun t => t.mem.staging == [] && cntGet t 0xA030 == 1) = true := by decide +kernel
/-- R8: a halfword write is too small and only recorded. -/
theorem test_staging_write_small : nextHas (exec (.stagingBufferWrite 4 [1, 2]) State.reset)
    (fun t => t.mem.staging == [] && t.mbx.log.map (fun r => (r.cls, r.source)) == [(1, 0x1000004)]) = true := by decide +kernel
theorem test_view_write : nextHas (exec (.contextViewWrite 0x384 [9, 8, 0, 0]) State.reset)
    (fun t => recWord (recGet t 7) 4 == 0x0809 && ctlGet t 7 == 0) = true := by decide +kernel
/-- R474: locked, the view is closed. -/
theorem test_view_write_locked : nextHas (exec (.contextViewWrite 0x384 [9, 0, 0, 0]) { State.reset with io := { fused := true, locked := true } })
    (fun t => t.store.recs == [] && cntGet t 0xD01C == 1) = true := by decide +kernel

theorem witness_HostBufferWrites :
    (∀ off, off = 0 ∨ off = 0x1FFFFC →
      let data : List Byte := [1, 2, 3, 4]
      0 < data.length ∧ data.length = 4 ∧ off % data.length = 0 ∧ off + data.length ≤ 0x200000 ∧ stageHeld State.reset off data.length = false ∧
      domStat State.reset 85 = 1 ∧ tileBad State.reset 3 0 (off / 64) = false) ∧
    ((1 : Nat) ≠ 4 ∧ 1 % 1 = 0 ∧ 6 % 4 ≠ 0 ∧ 0xFFFFFE + 2 ≤ 0x1000000) ∧
    (let s := { State.reset with mem := { bad := [tileKey 3 0 0] } }
     hostUp s = true ∧ tileBad s 3 0 (0 / 64) = true ∧ domStat s 85 = 1 ∧ stageHeld s 0 4 = false ∧ stageHeld s 0 64 = false ∧
     (List.replicate 64 (0 : Byte)).length = 64) ∧
    (let s := { State.reset with io := { fused := true, locked := true } }
     hostUp s = true ∧ s.io.locked = true) ∧
    (State.reset.io.locked = false ∧ domStat State.reset (64 + 0xFFFFFC / 0x200000) = 1 ∧ isMirrored State.reset = false ∧
      State.reset.svc.fill = false ∧ recTileBad State.reset (0xFFFFFC / 128) (0xFFFFFC % 128 / 64) = false) := by
  refine ⟨?_, by decide +kernel, by decide +kernel, by decide +kernel, by decide +kernel⟩
  rintro off (rfl | rfl) <;> decide +kernel

/-! Power. -/

/-- Domain `d` in state `v`. -/
def domState (d v : Nat) : State := { State.reset with svc := { dom := [(d, v)] } }
theorem test_power_on_request : nextHas (exec (.powerRequest 72 true) (domState 72 0)) (fun t => domStat t 72 == 2) = true := by decide +kernel
/-- R457: the hub of an enabled hub may not go off. -/
theorem test_power_off_ignored : nextHas (exec (.powerRequest 83 false) { State.reset with hreg := [(0x20000, 1)] })
    (fun t => domStat t 83 == 1 && cntGet t 0x80004 == 1) = true := by decide +kernel
theorem test_power_off : nextHas (exec (.powerRequest 85 false) { State.reset with mem := { staging := [(0, 1)] } })
    (fun t => domStat t 85 == 0 && t.mem.staging == []) = true := by decide +kernel
theorem test_domain_up : nextHas (exec (.domainPowerUpDone 63) (domState 63 2)) (fun t => domStat t 63 == 1) = true := by decide +kernel

theorem witness_PowerDomainRequests :
    (hostUp (domState 72 0) = true ∧ domHost 72 = true ∧ domStat (domState 72 0) 72 = 0 ∧ domHost 85 = true) ∧
    (domHost 83 = true ∧ domOffAllowed { State.reset with hreg := [(0x20000, 1)] } 83 = false) ∧
    (domHost 81 = true ∧ domOffAllowed State.reset 81 = true) ∧
    (domStat State.reset (72 + 5) = 1 ∧ ∀ m, m ∈ mothsOf 5 → (mothGet State.reset m).en = false) ∧
    (hubUp State.reset = true ∧ hubEn State.reset = false) ∧ (domStat State.reset 85 = 1 ∧ domOffAllowed State.reset 85 = true) ∧
    domStat (domState 63 2) 63 = 2 := by decide +kernel

/-- Engine `n` waiting for work, with its doze time passed. -/
def waitEng (n : Nat) : State :=
  { State.reset with eng := [(n, { engOf [] with hold := .dispatch })], tick := { bn9 := 1000000 } }
/-- R459: at 0x10 cycles of waiting the engine dozes; without a running tick it cannot nap. -/
theorem test_doze : nextHas (exec (.engineDoze 0) (waitEng 0)) (fun t => (engGet t 0).pstate == .doze) = true := by decide +kernel
theorem test_nap_entry : nextHas (exec (.napEntryDone 63) { State.reset with eng := [(63, { engOf [] with pstate := .napEntry })] })
    (fun t => (engGet t 63).pstate == .nap && cntGet t 0x80BF8 == 1) = true := by decide +kernel
theorem test_wake : nextHas (exec (.engineWake 0) { State.reset with eng := [(0, { engOf [] with pstate := .waking, wakeReq := true })] })
    (fun t => (engGet t 0).pstate == .run && !(engGet t 0).wakeReq) = true := by decide +kernel
/-- An engine in NAP 2,000 ns before its edge. -/
def napState : State := { clockState 0 with eng := [(0, { engOf [] with pstate := .nap })], tick := { running := true, bn9 := 8000, units := 40, nextK := 1 } }
theorem test_timed_wake : nextHas (exec (.timedWakeStart 0) napState) (fun t => (engGet t 0).pstate == .wakeNap) = true := by decide +kernel

theorem witness_EngineSleepStates :
    mayDoze (waitEng 0) 0 = true ∧ mayDoze (waitEng 66) 66 = true ∧
    mayDoze { State.reset with eng := [(64, { engOf [] with hold := .tick }), (65, { engOf [] with hold := .tick })] } 64 = true ∧
    (let s := { State.reset with eng := [(63, { engOf [] with pstate := .napEntry })] }
     (engGet s 63).pstate = .napEntry ∧ trcFlushed s 63 = true ∧ trcMarkRoom s 63 = true) ∧
    (let s := { State.reset with eng := [(66, { engOf [] with pstate := .waking }), (0, { engOf [] with pstate := .wakeNap })] }
     (engGet s 66).pstate = .waking ∧ trcWakeRoom s 66 = true ∧ (engGet s 0).pstate = .wakeNap ∧ trcWakeRoom s 0 = true) ∧
    (let s := { clockState 0 with eng := [(0, { engOf [] with pstate := .doze })], tick := { running := true, units := 40, nextK := 2 }, hreg := [(0x80800, 0x8000)] }
     (engGet s 0).pstate = .doze ∧ mayNap s 0 = true ∧ trcFlushed s 0 = true ∧ trcMarkRoom s 0 = true) ∧
    ((engGet napState 0).pstate = .nap ∧ napState.tick.running = true ∧ nextEdgeAt napState 0 ≤ (ktb napState).toNat + 2000) := by
  decide +kernel

/-! Debug and the Sarern wire. -/

/-- A locked part in RUN. -/
def lockedState : State := { prog [] with io := { fused := true, locked := true } }
/-- Engine 0 under debug. -/
def dbgState (d : DbgState) : State := { runEng { engOf [nopW] with dbg := d } with hreg := [(0x200000, 1)] }

theorem test_unlock_key : nextHas (exec (.debugUnlock 0x4B434C55) lockedState) (fun t => t.io.unlocking && t.bstate == .hold) = true := by decide +kernel
theorem test_unlock_wrong : nextHas (exec (.debugUnlock 1) lockedState) (fun t => !t.io.unlocking && cntGet t 0xD01C == 1) = true := by decide +kernel
/-- R475: what was there is erased before the part opens. -/
theorem test_unlock_done : nextHas (exec (.debugUnlockDone [])
    { lockedState with bstate := .hold, io := { fused := true, locked := true, unlocking := true }, store := { recs := [(7, 5)] } })
    (fun t => !t.io.locked && t.bstate == .awaitImage && t.store.recs == []) = true := by decide +kernel
theorem test_halt : nextHas (exec (.halt 0) (dbgState {})) (fun t => (engGet t 0).dbg.pending && (engGet t 0).dbg.cause == 1) = true := by decide +kernel
theorem test_halt_taken : nextHas (exec (.debugHaltTaken 0) (dbgState { pending := true, cause := 1 }))
    (fun t => (engGet t 0).dbg.halted && (engGet t 0).dbg.hpc == 0) = true := by decide +kernel
theorem test_resume : nextHas (exec (.resume 0) (dbgState { halted := true, cause := 1 })) (fun t => !(engGet t 0).dbg.halted) = true := by decide +kernel
theorem test_step_command : nextHas (exec (.step 0) (dbgState { halted := true, cause := 1 }))
    (fun t => !(engGet t 0).dbg.halted && (engGet t 0).dbg.stepping) = true := by decide +kernel
/-- An engine halted with the lock of context 7 held. -/
def lockHaltState : State := { dbgState { halted := true, lockheld := true } with store := { recs := [(7, recOf 0x80000000)] } }
theorem test_lockfree : nextHas (exec (.lockfree 0) lockHaltState)
    (fun t => recLock (recGet t 7) == 0 && cntGet t 0xD020 == 1 && !(engGet t 0).dbg.lockheld) = true := by decide +kernel

theorem witness_DebugRunControl :
    (hostUp lockedState = true ∧ lockedState.io.locked = true ∧ lockedState.io.unlocking = false ∧ unlockState lockedState.bstate = true ∧ badgerDead lockedState = false ∧
      (1 : Word) ≠ 0x4B434C55) ∧
    (({ lockedState with io := { fused := true, locked := true, unlocking := true } }).io.unlocking = true ∧ badgerDead lockedState = false) ∧
    (isPaired (dbgState {}) = false ∧ dbgCommand (dbgState {}) 0 = true ∧ dbgRunning (dbgState {}) 0 = true ∧
      (engGet (dbgState {}) 0).dbg.pending = false) ∧
    (dbgCommand (dbgState { halted := true }) 0 = true ∧ (engGet (dbgState { halted := true }) 0).dbg.halted = true) ∧
    (dbgCommand lockHaltState 0 = true ∧ (engGet lockHaltState 0).dbg.halted = true ∧ (engGet lockHaltState 0).dbg.lockheld = true ∧
      isMirrored lockHaltState = false ∧ lockHaltState.svc.fill = false ∧ locksOf lockHaltState 0 = [7] ∧ recTileBad lockHaltState 7 0 = false) ∧
    (let s := dbgState { pending := true, cause := 1 }
     (engGet s 0).run = .running ∧ (engGet s 0).pstate = .run ∧ (engGet s 0).dbg.halted = false ∧ haltDue s 0 = true ∧ haltPoint s 0 = true ∧
      (engGet s 0).xfer = none) ∧
    (dbgCommand lockedState 0 = false ∧ dbgCommand State.reset 66 = false) := by decide +kernel

/-- Window 0 set to read DMEM at offset 0x10 (ACC zero, ADDR). -/
def accState : State := { runEng (dmemEng [nopW]) with hreg := [(0x200014, 0x10000010)] }
theorem test_debug_read : nextHas (exec (.debugDataRead 0) accState) (fun t => t.hostRd == 0x8899AABB) = true := by decide +kernel
theorem test_debug_write : nextHas (exec (.debugDataWrite 0 0x11223344) accState)
    (fun t => memWord (engGet t 0).dmem 0x10 == 0x11223344 && memWord (engGet t 0).dmem 0x14 == 0xCCDDEEFF) = true := by decide +kernel
theorem test_terminal_tx : nextHas (exec (.terminalTxRead 0) (runEng { engOf [] with dtx := 5, dtxf := true }))
    (fun t => t.hostRd == 5 && !(engGet t 0).dtxf) = true := by decide +kernel
theorem test_terminal_rx : nextHas (exec (.terminalRxWrite 66 5) State.reset) (fun t => (engGet t 66).drx == 5 && (engGet t 66).drxf) = true := by
  decide +kernel

/-- Window 0 of a halted engine set to g1 (ACC.SPACE 3, ADDR 4). -/
def regState : State := { runEng { engOf [] with dbg := { halted := true } } with hreg := [(0x200000, 1), (0x200010, 3), (0x200014, 4)] }
/-- R489: a write of the register space takes effect at the next resume. -/
theorem test_debug_register_waits : nextHas (exec (.debugDataWrite 0 9) regState)
    (fun t => regG (engGet t 0) 1 == 7 && nextHas (exec (.resume 0) t) (fun u => regG (engGet u 0) 1 == 9 && !(engGet u 0).dbg.halted)) = true := by
  decide +kernel

theorem witness_DebugAccessesAndTerminals :
    (hostUp accState = true ∧ dbgReach accState 0 = true ∧ accSpace accState 0 = 0 ∧ accTile accState 0 = false ∧ accConsume accState 0 = false ∧
      dbgSpan accState 0 = some (0x10000010, 4, .dmem) ∧ dbgBadTile accState 0 0x10000010 .dmem = none ∧ isPaired accState = false) ∧
    (dbgReach lockedState 0 = false ∧ dbgReach lockedState 66 = false) ∧
    (let s := { prog [] with hreg := [(0x200014, 0x10000001)] }
     dbgReach s 0 = true ∧ accSpace s 0 = 0 ∧ dbgSpan s 0 = none) ∧
    (dbgReach regState 0 = true ∧ accSpace regState 0 = 3 ∧ accTile regState 0 = false ∧ (engGet regState 0).dbg.halted = true ∧
      isPaired regState = false ∧ regWritable false (regGet regState (dbgWin 0 0x14)).toNat = true) ∧
    (isSettEng 66 = false ∧ isSettEng 0 = false ∧ isSettEng 64 = true ∧ settDbg (prog []) = false) := by decide +kernel

/-- R470: the CRC of the four bits 0001 is 07H; the identification is 0B9B_0001H. -/
theorem test_sarern_idr : nextHas (exec (.sarernIdr 1 7) State.reset) (fun t => t.io.ack == 5 && t.io.rdata == 0x0B9B0001) = true := by decide +kernel
/-- R471: the hub's control register at word 0x8000; the request CRC is worked out by hand. -/
theorem test_sarern_rd : nextHas (exec (.sarernRd 0x8000 0x9A true) { State.reset with hreg := [(0x20000, 1)] })
    (fun t => t.io.ack == 5 && t.io.rdata == 1) = true := by decide +kernel
theorem test_sarern_rdc : nextHas (exec (.sarernRdc 0x10004 0x4D true) { State.reset with mbx := { cpl := [(3, 2)] } })
    (fun t => t.io.ack == 5 && t.io.rdata == 0x80020003 && t.mbx.cpl == []) = true := by decide +kernel
theorem test_sarern_wr : nextHas (exec (.sarernWr 0x8000 1 0xA7) State.reset) (fun t => t.io.ack == 5 && hubEn t) = true := by decide +kernel
/-- R472, R478: a write of DBG[66].DATA is denied. -/
theorem test_sarern_wr_denied : nextHas (exec (.sarernWr 0x90806 0 0x7D) State.reset)
    (fun t => t.io.ack == 6 && cntGet t 0xD01C == 1 && tblGet 0 66 t.io.err == 1) = true := by decide +kernel
theorem test_sarern_line_error : nextHas (exec .kdioLineError State.reset) (fun t => t.io.ack == 15 && cntGet t 0xD014 == 1) = true := by
  decide +kernel

theorem witness_SarernWireFrames :
    crc8Bits (bitsOf 4 1) = 7 ∧ crc8Bits (bitsOf 4 1) ≠ 8 ∧ crc8Bits (bitsOf 4 2 ++ bitsOf 24 0x8000) = 0x9A ∧
    wireRefused State.reset (4 * 0x8000) = false ∧ winMapped (4 * 0x8000) = true ∧ wireRefused lockedState (4 * 0x8000) = true ∧
    (4 * 0x10004 = 0x40010 ∧ crc8Bits (bitsOf 4 3 ++ bitsOf 24 0x10004) = 0x4D) ∧
    crc8Bits (bitsOf 4 4 ++ bitsOf 24 0x8000 ++ bitsOf 32 1) = 0xA7 ∧ State.reset.io.locked = false ∧ 0x8000 < 2 ^ 24 ∧
    wireWriteRefused State.reset (4 * 0x8000) 1 = false ∧
    (crc8Bits (bitsOf 4 4 ++ bitsOf 24 0x90806 ++ bitsOf 32 0) = 0x7D ∧ wireRefused State.reset (4 * 0x90806) = false ∧
      wireWriteRefused State.reset (4 * 0x90806) 0 = true ∧ winMapped (4 * 0x90806) = true) := by decide +kernel

/-! The Sett. -/

/-- The Sett open to its parameters. -/
def settState : State := { prog [] with sett := { st := 3, open_ := true, pin := true, paridx := 255 }, io := {} }
/-- R387, R395: the write is recorded as type 3 with the old and the new value, and PARIDX wraps. -/
theorem test_seal_parameter : nextHas (exec (.sealParameterWrite 9) settState)
    (fun t => settPar t 255 == 9 && t.sett.paridx == 0 && t.bat.hdr.evcnt == 0 && (hdrLast t).evcnt == 1 &&
      t.bat.queue.map (fun w => (w.ent.old, w.ent.new)) == [(0, 9)]) = true := by
  decide +kernel
theorem test_seal_parameter_closed : nextHas (exec (.sealParameterWrite 9) { settState with sett := { st := 3 } })
    (fun t => cntGet t 0x181010 == 1 && t.sett.par == []) = true := by decide +kernel
/-- One entry waits, for slot 31; its header has the next index 0 and 32 entries held. -/
def batteryState : State := { prog [] with bat := { queue := [{ ent := { new := 9 }, hdr := { log := 1024 }, full := true }] }, io := { batloss := true } }
/-- R395, R527: the entry goes to its slot, the header follows it, and a record written in full lets BATLOSS fall. -/
theorem test_battery_write : nextHas (exec (.batteryWriteDone true) batteryState)
    (fun t => t.bat.queue == [] && (tblGet {} 31 t.bat.log).new == 9 && hdrNext t.bat.hdr == 0 && hdrHeld t.bat.hdr == 32 && !t.io.batloss) = true := by decide +kernel
/-- The first entry waits with its checks, the entry check changed by `x`; the Sett is present. -/
def sealedState (x : Word) : State :=
  let e := entSealed { new := 9 }
  { prog [] with bat := { queue := [{ ent := { e with ecrc := e.ecrc ^^^ x }, hdr := hdrSealed { log := 0x21 } }] }, sett := { st := 3 } }
/-- R396: the entry is read back after the write; one whose check does not match makes the record lost. -/
theorem test_battery_read_back : nextHas (exec (.batteryWriteDone true) (sealedState 0)) (fun t => !t.sett.loss) = true ∧
    nextHas (exec (.batteryWriteDone true) (sealedState 1)) (fun t => t.sett.loss) = true := by decide +kernel
theorem test_sett_commit : nextHas (exec .settMailboxCommit { settState with sett := { st := 3, work := [(4, 1)] } })
    (fun t => t.sett.gen == 1) = true := by decide +kernel
/-- A release with a Sett image whose identification is still to come. -/
def identState (decl : Word) : State := { prog [] with bstate := .verify, sett := { st := 2, hasImage := true, declared := decl } }
theorem test_ident_wrong : nextHas (exec .settIdentReport (identState (settIdent (identState 0) + 1)))
    (fun t => t.bstate == .hold && t.rel.fcause == 4) = true := by decide +kernel

theorem witness_SettRecordsAndReports :
    (domStat settState 78 = 1 ∧ settState.sett.open_ = true ∧ settPar settState 255 ≠ 9 ∧ settPar settState 255 = 0 ∧ settState.sett.loss = false) ∧
    ({ settState with sett := { st := 3 } }).sett.open_ = false ∧ (∃ e rest, batteryState.bat.queue = e :: rest) ∧
    { batteryState with sett := { st := 3 } }.sett.st ≠ 0 ∧
    (let s := sealedState 0
     s.bat.queue.isEmpty = false ∧ nextHas (exec (.batteryWriteDone true) s) (fun t => batGood t.bat) = true) ∧
    (let s := sealedState 1
     s.sett.st ≠ 0 ∧ nextHas (exec (.batteryWriteDone true) s) (fun t => !batGood t.bat) = true) ∧
    settState.sett.st = 3 ∧
    (let s := identState (settIdent (identState 0))
     s.bstate = .verify ∧ s.sett.st = 2 ∧ s.sett.hasImage = true ∧ s.sett.idReported = none ∧ badgerDead s = false ∧ settIdent s = s.sett.declared) ∧
    (let s := identState (settIdent (identState 0) + 1)
     settIdent s ≠ s.sett.declared) := by
  and_intros
  all_goals first | decide +kernel | exact ⟨_, _, rfl⟩

/-- The Sett runs with period 400 units from KTB 0; its tick 1 is due at 100,000 ns. -/
def settTickState (reserve : Bool) (now : W64) : State :=
  { settState with sett := { st := 3, units := 400, taken := some 0, inReserve := reserve }, tick := { running := true, bn9 := now } }
theorem test_sett_edge : nextHas (exec (.settTickEdge []) (settTickState true 100000)) (fun t => t.sett.taken == some 1 && t.sett.stn == 1) = true := by
  decide +kernel
/-- R315: the entry of a list that fails its parity is skipped. -/
theorem test_sett_edge_lost : nextHas (exec (.settTickEdge [] [0]) { settTickState true 100000 with store := { sett := [(0, recOf 0)] } })
    (fun t => (engGet t 64).scan == [] && settDue t == [0]) = true := by decide +kernel
theorem test_sett_reserve : nextHas (exec .settPublishReserve (settTickState false 95000)) (fun t => t.sett.inReserve) = true := by decide +kernel

theorem witness_SettTickEdgeAndReserve :
    (let s := settTickState true 100000
     (∀ i, tileBad s 5 2 (2 * i) = false) ∧ settTicks s = true ∧ s.sett.inReserve = true ∧ settPoint s (settNext s) ≤ (ktb s).toNat) ∧
    (let s := settTickState false 95000
     settTicks s = true ∧ s.sett.taken = some 0 ∧ s.sett.inReserve = false ∧ settPoint s 0 + windowNs s.sett.units 5 ≤ (ktb s).toNat ∧
      ∀ i, i ∈ (engGet s 64).scan ++ (engGet s 64).scanLost → tileBad s 5 2 (2 * i) = false) :=
  ⟨⟨fun _ => rfl, by decide +kernel⟩, by decide +kernel⟩


/-! Moths. -/

/-- A moth instruction with no side drive and no delay (Table 13.1). -/
def mi (op operand : Nat) : BitVec 24 := BitVec.ofNat 24 (op * 2 ^ 19 + operand)
/-- A running moth with eight pins, ka = 5, SO = 0x81 and SI = 1, on instruction `i` at PC 31. -/
def mothOf (i : BitVec 24) : Moth :=
  { en := true, oe := 0xFF, npin := 8, ka := 5, so := 0x81, si := 1, pc := 31, imem := [(31, i)] }
/-- The block in RUN with moth 0 as given. -/
def mothState (mo : Moth) : State := { prog [] with field := { moth := [(0, mo)] } }
/-- One instruction on moth 0. -/
def mothOn (op operand : Nat) : State := mothState (mothOf (mi op operand))

theorem begins_of {s : State} {m k : Nat} {i : BitVec 24} (h : (mothFetches s m && decide (mothIns s m = i) && decide (mOp i = k) &&
    !mothIllegal (mothGet s m) i && !bitAt i 15) = true) : Begins s m k i := by
  simp only [Bool.and_eq_true, decide_eq_true_eq, Bool.not_eq_true'] at h
  exact ⟨h.1.1.1.1, h.1.1.1.2, h.1.1.2, h.1.2, h.2⟩

/-- Pin 7 of moth 0 is free, and the moth reads there what the outside drives; it has no pin 7 where it has four pins. -/
theorem reads7 (op operand : Nat) (level : Bool) : PinReads (mothOn op operand) 0 7 level level :=
  .inl ⟨rfl, 7, rfl, rfl, .inl (by simp [pinOd, pinCfg, mothOn, mothState, prog, tblGet]; decide +kernel)⟩

/-- R368, R369. -/
theorem test_moth_enable : nextHas (exec (.mothEnable 95 0x90000000) { prog [] with field := { moth := [(95, { ill := true, pc := 3 })] } })
    (fun t => let mo := mothGet t 95; mo.en && mo.edrv && !mo.esamp && !mo.ill && mo.pc == 3) = true := by decide +kernel
theorem test_moth_disable : nextHas (exec (.mothDisable 0 0) (mothOn 0 0)) (fun t => !(mothGet t 0).en && (mothGet t 0).pc == 31) = true := by
  decide +kernel
theorem test_moth_pc : nextHas (exec (.mothPcWrite 0 37) (mothState {})) (fun t => (mothGet t 0).pc == 5) = true := by decide +kernel
theorem test_moth_pc_running : nextHas (exec (.mothPcWrite 0 37) (mothOn 0 0))
    (fun t => (mothGet t 0).pc == 31 && cntGet t (mthAdr 0 0x30) == 1) = true := by decide +kernel
theorem test_moth_imem : nextHas (exec (.mothImemWrite 0 31 0x12345678) (mothState {}))
    (fun t => tblGet 0 31 (mothGet t 0).imem == 0x345678) = true := by decide +kernel
theorem test_moth_restart : nextHas (exec (.mothRestartWrite 0 2) (mothState {})) (fun t => (mothGet t 0).restart == some (false, true)) = true := by
  decide +kernel
theorem test_moth_clock : nextHas (exec (.mothClockWrite 0 0x80000100) (mothState {}))
    (fun t => (mothGet t 0).dNext == some 256 && (mothGet t 0).tsyncNext == some true) = true := by decide +kernel
theorem test_moth_inject : nextHas (exec (.mothInject 0 5) (mothState {})) (fun t => (mothGet t 0).inj == some 5) = true := by decide +kernel

theorem witness_MothHostCommands :
    domStat (mothState {}) (bankDom (bankOf 95)) = 1 ∧
    (bitAt (0x90000000 : Word) 31 = true ∧ (mothGet (mothState {}) 0).en = false ∧
      (∀ q, q ∈ mothsOf (bankOf 0) → (mothGet (mothState {}) q).imode = false) ∧ bitAt (0x90000000 : Word) 26 = false) ∧
    (bitAt (0 : Word) 31 = false ∧ (mothGet (mothOn 0 0) 0).en = true) ∧ (mothGet (mothState {}) 0).inj = none ∧
    (mothGet (mothState { inj := some 0 }) 0).inj.isSome = true := by decide +kernel

/-- SHOUT of eight bits, least significant first, three of them in this command (R356). -/
theorem test_moth_shout : nextHas (exec (.mothShout 0 3) (mothOn 1 (8 * 64 + 4)))
    (fun t => (mothGet t 0).so == 0x10 && (mothGet t 0).wait == .shift 5 && (mothGet t 0).pc == 31) = true := by decide +kernel
/-- SHIN of two bits from pin 7, most significant first; PC wraps. -/
theorem test_moth_shin : nextHas (exec (.mothShin 0 [true, false]) (mothOn 2 (2 * 64 + 7 * 8)))
    (fun t => (mothGet t 0).si == 6 && (mothGet t 0).pc == 0) = true := by decide +kernel
theorem test_moth_edge : nextHas (exec (.mothEdge 0 false) (mothOn 3 0)) (fun t => (mothGet t 0).wait == .edge) = true := by decide +kernel
/-- A time-out of 0 moth cycles ends at once. -/
theorem test_moth_edge_zero : nextHas (exec (.mothEdge 0 false) (mothOn 3 256)) (fun t => (mothGet t 0).tmo && (mothGet t 0).pc == 0) = true := by
  decide +kernel
theorem test_moth_sample : nextHas (exec (.mothSample 0 0xA5) (mothOn 4 0)) (fun t => (mothGet t 0).si == 0x1A5) = true := by decide +kernel
theorem test_moth_drive : nextHas (exec (.mothDrive 0) (mothOn 5 0xF0)) (fun t => (mothGet t 0).out == 0xF0) = true := by decide +kernel
theorem test_moth_toggle : nextHas (exec (.mothToggle 0) (mothOn 6 3)) (fun t => (mothGet t 0).out == 3) = true := by decide +kernel
/-- R359: a COUNT of kb = 0 cycles adds ACC to ka. -/
theorem test_moth_count : nextHas (exec (.mothCount 0) (mothState { mothOf (mi 8 0) with acc := 4 }))
    (fun t => (mothGet t 0).ka == 9 && (mothGet t 0).acc == 0 && (mothGet t 0).pc == 0) = true := by decide +kernel

theorem witness_MothPinInstructionsComplete :
    (Begins (mothOn 1 (32 * 64 + 4)) 0 1 (mi 1 (32 * 64 + 4)) ∧ (mothPin (mothOn 1 (32 * 64 + 4)) 0 0).isSome = true) ∧
    (let s := mothState { mothOf (mi 2 (2 * 64 + 7 * 8)) with npin := 4 }
     Begins s 0 2 (mi 2 (2 * 64 + 7 * 8)) ∧ mothPin s 0 7 = none) ∧
    (Begins (mothOn 2 (2 * 64 + 7 * 8)) 0 2 (mi 2 (2 * 64 + 7 * 8)) ∧ mothPin (mothOn 2 (2 * 64 + 7 * 8)) 0 7 = some 7 ∧
      FreePin (mothOn 2 (2 * 64 + 7 * 8)) 7) ∧
    (∀ c, c ≤ 5 → Begins (mothOn 3 (c * 512 + 56)) 0 3 (mi 3 (c * 512 + 56)) ∧ field (mi 3 (c * 512 + 56)) 11 9 = c ∧
      field (mi 3 (c * 512 + 56)) 5 3 = 7 ∧ bitAt (mi 3 (c * 512 + 56)) 8 = false) ∧
    (∀ op operand level, PinReads (mothOn op operand) 0 7 level level) ∧
    (Begins (mothOn 3 256) 0 3 (mi 3 256) ∧ bitAt (mi 3 256) 8 = true ∧ (mothGet (mothOn 3 256) 0).kb = 0) ∧
    Begins (mothOn 4 0) 0 4 (mi 4 0) ∧ Begins (mothOn 5 0x8F0) 0 5 (mi 5 0x8F0) ∧ Begins (mothOn 6 3) 0 6 (mi 6 3) ∧
    (Begins (mothOn 8 256) 0 8 (mi 8 256) ∧ bitAt (mi 8 256) 8 = true) ∧ (Begins (mothOn 8 0) 0 8 (mi 8 0) ∧ (mothGet (mothOn 8 0) 0).kb = 0) := by
  refine ⟨⟨begins_of ?_, ?_⟩, ⟨begins_of ?_, ?_⟩, ⟨begins_of ?_, ?_, ?_, .inl rfl⟩, ?_, reads7, ⟨begins_of ?_, ?_, ?_⟩, begins_of ?_, begins_of ?_,
    begins_of ?_, ⟨begins_of ?_, ?_⟩, begins_of ?_, ?_⟩
  case refine_8 =>
    intro c hc
    have h : (mothFetches (mothOn 3 (c * 512 + 56)) 0 && decide (mothIns (mothOn 3 (c * 512 + 56)) 0 = mi 3 (c * 512 + 56)) &&
        decide (mOp (mi 3 (c * 512 + 56)) = 3) && !mothIllegal (mothGet (mothOn 3 (c * 512 + 56)) 0) (mi 3 (c * 512 + 56)) &&
        !bitAt (mi 3 (c * 512 + 56)) 15) = true ∧ field (mi 3 (c * 512 + 56)) 11 9 = c ∧ field (mi 3 (c * 512 + 56)) 5 3 = 7 ∧
        bitAt (mi 3 (c * 512 + 56)) 8 = false := by
      revert c; decide +kernel
    exact ⟨begins_of h.1, h.2⟩
  all_goals decide +kernel

theorem test_moth_nop : nextHas (exec (.mothNop 0) (mothOn 0 0)) (fun t => (mothGet t 0).pc == 0) = true := by decide +kernel
theorem test_moth_loop : nextHas (exec (.mothLoop 0) (mothOn 7 9)) (fun t => (mothGet t 0).ka == 4 && (mothGet t 0).pc == 9) = true := by
  decide +kernel
/-- CAPT of the timebase to kb. -/
theorem test_moth_capt : nextHas (exec (.mothCapt 0) { mothOn 9 0x400 with tick := { bn9 := 0x500000007, running := true } })
    (fun t => (mothGet t 0).kb == 7) = true := by decide +kernel
theorem test_moth_fetch : nextHas (exec (.mothFetch 0) (mothState { mothOf (mi 10 0x200) with qout := [8, 9] }))
    (fun t => (mothGet t 0).ka == 8 && (mothGet t 0).qout == [9]) = true := by decide +kernel
theorem test_moth_fetch_stall : nextHas (exec (.mothFetch 0) (mothOn 10 0)) (fun t => (mothGet t 0).wait == .stallF && (mothGet t 0).pc == 31) = true := by
  decide +kernel
/-- STOW of SI with CLR. -/
theorem test_moth_stow : nextHas (exec (.mothStow 0) (mothOn 11 0x100)) (fun t => (mothGet t 0).qin == [1] && (mothGet t 0).si == 0) = true := by
  decide +kernel
/-- JMP on ka not 0. -/
theorem test_moth_jmp : nextHas (exec (.mothJmp 0 false) (mothOn 12 (1 * 512 + 8))) (fun t => (mothGet t 0).pc == 8) = true := by
  decide +kernel
theorem test_moth_jmp_pin : nextHas (exec (.mothJmp 0 true) (mothOn 12 (3 * 512 + 2 * 32 + 8))) (fun t => (mothGet t 0).pc == 8) = true := by
  decide +kernel
theorem test_moth_set : nextHas (exec (.mothSet 0) (mothOn 13 (1 * 1024 + 1023))) (fun t => (mothGet t 0).kb == 1023) = true := by decide +kernel
theorem test_moth_illegal : nextHas (exec (.mothIllegalInstruction 0) (mothOn 14 0))
    (fun t => !(mothGet t 0).en && (mothGet t 0).ill && t.mbx.log.map (fun r => (r.cls, r.arg0)) == [(8, 31)]) = true := by decide +kernel

theorem witness_MothRegisterInstructionsComplete :
    Begins (mothOn 0 0) 0 0 (mi 0 0) ∧ Begins (mothOn 7 0x800) 0 7 (mi 7 0x800) ∧ Begins (mothOn 9 0x400) 0 9 (mi 9 0x400) ∧
    (let s := mothState { mothOf (mi 10 0x200) with qout := [8, 9] }
     Begins s 0 10 (mi 10 0x200) ∧ (mothGet s 0).qout = 8 :: [9]) ∧
    (Begins (mothOn 10 0) 0 10 (mi 10 0) ∧ (mothGet (mothOn 10 0) 0).qout = []) ∧
    (Begins (mothOn 11 0x100) 0 11 (mi 11 0x100) ∧ (mothGet (mothOn 11 0x100) 0).imode = false ∧
      (mothGet (mothOn 11 0x100) 0).qin.length < qinCap (mothGet (mothOn 11 0x100) 0)) ∧
    (∀ c : Bool, let s := mothState { mothOf (mi 11 0x100) with imode := true, ctxValid := c }
     Begins s 0 11 (mi 11 0x100) ∧ (mothGet s 0).imode = true ∧ (mothGet s 0).ctxValid = c ∧ (mothGet s 0).qin = [] ∧
      (gwGet s (bankOf 0)).length < 160 ∧
      ∀ q, q ∈ mothsOf (bankOf 0) → q ≠ 0 → (mothGet s q).imode = true → (mothGet s q).qin = []) ∧
    (let s := mothState { mothOf (mi 11 0) with qin := [1, 2, 3, 4] }
     Begins s 0 11 (mi 11 0) ∧ qinCap (mothGet s 0) ≤ (mothGet s 0).qin.length) ∧
    (Begins (mothOn 12 520) 0 12 (mi 12 520) ∧ field (mi 12 520) 11 9 ≠ 3 ∧ field (mi 12 520) 11 9 ≠ 4) ∧
    (let i := mi 12 (3 * 512 + 2 * 32 + 8)
     Begins (mothOn 12 (3 * 512 + 2 * 32 + 8)) 0 12 i ∧ field i 11 9 = 3 ∧
      ∀ level, PinReads (mothOn 12 (3 * 512 + 2 * 32 + 8)) 0 (field i 7 5) level level) ∧
    (let i := mi 12 (4 * 512 + 7 * 32 + 8)
     let s := mothState { mothOf i with npin := 4 }
     Begins s 0 12 i ∧ field i 11 9 = 4 ∧ PinReads s 0 (field i 7 5) true false) ∧
    Begins (mothOn 13 2047) 0 13 (mi 13 2047) ∧
    (mothFetches (mothOn 14 0) 0 = true ∧ mothIns (mothOn 14 0) 0 = mi 14 0 ∧ mothIllegal (mothGet (mothOn 14 0) 0) (mi 14 0) = true ∧
      fltMerge (mothOn 14 0) 8 (BitVec.ofNat 32 0) (mothOn 14 0).mbx.log = none) := by
  refine ⟨begins_of ?_, begins_of ?_, begins_of ?_, ⟨begins_of ?_, ?_⟩, ⟨begins_of ?_, ?_⟩, ⟨begins_of ?_, ?_, ?_⟩,
    fun c => ⟨begins_of ?_, ?_, ?_, ?_, ?_, ?_⟩, ⟨begins_of ?_, ?_⟩, ⟨begins_of ?_, ?_⟩,
    ⟨begins_of ?_, ?_, fun _ => .inl ⟨rfl, 2, rfl, rfl, .inl rfl⟩⟩, ⟨begins_of ?_, ?_, .inr ⟨rfl, rfl⟩⟩, begins_of ?_, ?_⟩ <;>
    first | decide +kernel | (cases c <;> decide +kernel)

/-- Moth 0 in the wait `w` of instruction `i`. -/
def mothWait (w : MWait) (op operand : Nat) : State := mothState { mothOf 0 with wait := w, cur := mi op operand, acc := 6, cntCond := 2, cntPin := 7 }
theorem mwaits_of {s : State} {m : Nat} {w : MWait} (h : (mothWaits s m && decide ((mothGet s m).wait = w)) = true) : MWaits s m w := by
  simp only [Bool.and_eq_true, decide_eq_true_eq] at h
  exact ⟨h.1, h.2⟩
theorem test_moth_edge_met : nextHas (exec (.mothEdgeMet 0 false) { mothWait .edge 3 0 with tick := { bn9 := 99, running := true } })
    (fun t => (mothGet t 0).edgeTime == 99 && (mothGet t 0).wait == .none && (mothGet t 0).pc == 0) = true := by decide +kernel
/-- R358, R371: an edge seen while an injection waits leaves the instruction to end when the injected one begins. -/
def edgeInj (w : MWait) (iw : Option MWait) : State :=
  mothState { mothOf 0 with wait := w, cur := mi 3 0, acc := 6, ka := 5, inj := some (mi 13 77), injWait := iw, injCur := mi 3 0 }
theorem test_moth_edge_injection : nextHas (exec (.mothEdgeMet 0 false) { edgeInj .edge none with tick := { bn9 := 99, running := true } })
    (fun t => (mothGet t 0).edgeTime == 99 && (mothGet t 0).wait == .ended && (mothGet t 0).pc == 31) = true := by decide +kernel
/-- An injected EDGE whose condition has come. -/
theorem test_moth_held_edge : nextHas (exec (.mothEdgeMet 0 true) { edgeInj .count (some .edge) with tick := { bn9 := 99, running := true } })
    (fun t => (mothGet t 0).edgeTime == 99 && (mothGet t 0).wait == .count && (mothGet t 0).injWait == some .ended) = true := by decide +kernel
/-- R359, R371: a COUNT that is over adds ACC at once, not at the boundary. -/
theorem test_moth_count_injection : nextHas (exec (.mothCountEnd 0) (edgeInj .count none))
    (fun t => (mothGet t 0).ka == 11 && (mothGet t 0).acc == 0 && (mothGet t 0).wait == .ended && (mothGet t 0).pc == 31) = true := by
  decide +kernel
/-- The instruction that had ended is over once the injected one has run. -/
theorem test_moth_injected_ended : nextHas (exec (.mothInjectedExecute 0 0) (edgeInj .ended none))
    (fun t => (mothGet t 0).ka == 77 && (mothGet t 0).pc == 0 && (mothGet t 0).wait == .none) = true := by decide +kernel
theorem test_moth_edge_timeout : nextHas (exec (.mothEdgeTimeout 0) (mothWait .edge 3 256)) (fun t => (mothGet t 0).tmo && (mothGet t 0).pc == 0) = true := by
  decide +kernel
theorem test_moth_count_end : nextHas (exec (.mothCountEnd 0) (mothWait .count 8 0)) (fun t => (mothGet t 0).ka == 11 && (mothGet t 0).acc == 0) = true := by
  decide +kernel
theorem test_moth_pin_edge : nextHas (exec (.mothPinEdgeCount 0 true) (mothWait .count 8 0)) (fun t => (mothGet t 0).acc == 7) = true := by
  decide +kernel
def stallState : State := mothState { mothOf 0 with wait := .stallF, cur := mi 10 0, qout := [44] }
theorem test_moth_stall_end : nextHas (exec (.mothStallEnd 0 12) stallState)
    (fun t => (mothGet t 0).so == 44 && (mothGet t 0).qout == [] && cntGet t (mthAdr 0 0x38) == 12) = true := by decide +kernel
/-- R362: the cycles of a stall count as they pass, served or not. -/
theorem test_moth_stall_cycles : nextHas (exec (.mothStallEnd 0 12) (mothState { mothOf 0 with wait := .stallF, cur := mi 10 0 }))
    (fun t => (mothGet t 0).wait == .stallF && cntGet t (mthAdr 0 0x38) == 12) = true := by decide +kernel
theorem test_moth_delay_end : nextHas (exec (.mothDelayEnd 0) (mothWait (.delay 7) 0 0)) (fun t => (mothGet t 0).wait == .none && (mothGet t 0).pc == 31) = true := by
  decide +kernel
/-- R371: an injected SET of ka between two instructions leaves PC. -/
theorem test_moth_injected : nextHas (exec (.mothInjectedExecute 0 0) (mothState { mothOf 0 with inj := some (mi 13 77) }))
    (fun t => (mothGet t 0).ka == 77 && (mothGet t 0).pc == 31 && (mothGet t 0).inj == none) = true := by decide +kernel

/-- Moth 0 waits at an EDGE of condition `c` on local pin 7, of which it has four; the level at its start was `v`. -/
def lonePin (c : Nat) (v : Bool) : State :=
  mothState { mothOf 0 with wait := .edge, cur := mi 3 (56 + 512 * c), npin := 4, edgeLvl := v }
theorem lone_waits (v : Bool) (c : Nat) (hc : c < 6) : let s := lonePin c v
    MWaits s 0 .edge ∧ mothPin s 0 (field (mothGet s 0).cur 5 3) = none ∧ field (mothGet s 0).cur 11 9 = c ∧
      (mothGet s 0).edgeLvl = v := by
  have h : ∀ v : Bool, ∀ c, c < 6 → let s := lonePin c v
      (mothWaits s 0 && decide ((mothGet s 0).wait = .edge)) = true ∧ mothPin s 0 (field (mothGet s 0).cur 5 3) = none ∧
        field (mothGet s 0).cur 11 9 = c ∧ (mothGet s 0).edgeLvl = v := by decide +kernel
  exact ⟨mwaits_of (h v c hc).1, (h v c hc).2⟩
/-- R349, R358: a pin that does not exist reads 0, so its level is low at once, and never high. -/
theorem test_moth_edge_no_pin : nextHas (exec (.mothEdgeMet 0 false) (lonePin 4 false)) (fun t => (mothGet t 0).wait == .none) = true ∧
    nextHas (exec (.mothEdgeMet 0 false) (lonePin 3 false)) (fun t => (mothGet t 0).wait == .edge) = true := by decide +kernel
/-- R358: the condition is tested before the timeout. -/
theorem test_moth_edge_holds : nextHas (exec (.mothEdgeTimeout 0) (mothWait .edge 3 (256 + 4 * 512)))
    (fun t => !(mothGet t 0).tmo && (mothGet t 0).pc == 0) = true := by decide +kernel

theorem witness_MothWaitsEnd :
    (MWaits (mothWait .edge 3 (4 * 512)) 0 .edge ∧ field (mothGet (mothWait .edge 3 (4 * 512)) 0).cur 11 9 < 5 ∧
      mothPin (mothWait .edge 3 (4 * 512)) 0 0 = some 0 ∧ FreePin (mothWait .edge 3 (4 * 512)) 0) ∧
    (let s := mothState { mothOf 0 with wait := .edge, cur := mi 3 56, npin := 4 }
     MWaits s 0 .edge ∧ mothPin s 0 (field (mothGet s 0).cur 5 3) = none) ∧
    (∀ c, c < 6 → let s := lonePin c false
     MWaits s 0 .edge ∧ mothPin s 0 (field (mothGet s 0).cur 5 3) = none ∧ field (mothGet s 0).cur 11 9 = c ∧
       (mothGet s 0).edgeLvl = false) ∧
    (∀ c, c = 1 ∨ c = 2 → let s := lonePin c true
     MWaits s 0 .edge ∧ mothPin s 0 (field (mothGet s 0).cur 5 3) = none ∧ field (mothGet s 0).cur 11 9 = c ∧
       (mothGet s 0).edgeLvl = true) ∧
    (let s := mothWait .edge 3 (5 * 512)
     MWaits s 0 .edge ∧ field (mothGet s 0).cur 11 9 = 5 ∧ (mothGet s 0).injWait = none) ∧
    (let s := edgeInj .edge none
     mothPin s 0 (field (mothGet s 0).cur 5 3) = some 0 ∧ FreePin s 0 ∧ mothActs s 0 = true ∧ (mothGet s 0).wait = .edge ∧ field (mothGet s 0).cur 11 9 < 5 ∧ (mothGet s 0).inj.isSome = true ∧
      (mothGet s 0).injWait = none) ∧
    (let s := edgeInj .count (some .edge)
     mothPin s 0 (field (mothGet s 0).injCur 5 3) = some 0 ∧ FreePin s 0 ∧ (mothGet s 0).en = true ∧ mothActs s 0 = true ∧
      (mothGet s 0).injWait = some .edge ∧ field (mothGet s 0).injCur 11 9 < 5) ∧
    (let s := edgeInj .count none
     mothActs s 0 = true ∧ (mothGet s 0).wait = .count ∧ bitAt (mothGet s 0).cur 8 = false ∧ (mothGet s 0).inj.isSome = true ∧
      (mothGet s 0).injWait = none) ∧
    (let s := mothState { mothOf 0 with wait := .stallF, cur := mi 10 0 }
     MWaits s 0 .stallF ∧ mOp (mothGet s 0).cur = 10 ∧ (mothGet s 0).qout = []) ∧
    (MWaits (mothWait .edge 3 256) 0 .edge ∧ bitAt (mothGet (mothWait .edge 3 256) 0).cur 8 = true ∧
      edgeHolds (mothWait .edge 3 256) 0 (mothGet (mothWait .edge 3 256) 0).cur (mothGet (mothWait .edge 3 256) 0).edgeLvl = false) ∧
    (let s := mothWait .edge 3 (256 + 4 * 512)
     MWaits s 0 .edge ∧ bitAt (mothGet s 0).cur 8 = true ∧ edgeHolds s 0 (mothGet s 0).cur (mothGet s 0).edgeLvl = true) ∧
    (MWaits (mothWait .count 8 0) 0 .count ∧ bitAt (mothGet (mothWait .count 8 0) 0).cur 8 = false) ∧
    (let s := mothWait .count 8 0
     bankLive s (bankOf 0) = true ∧ (mothGet s 0).en = true ∧ mothPin s 0 (mothGet s 0).cntPin = some 7 ∧ FreePin s 7 ∧ (mothGet s 0).cntCond = 2 ∧
       (pinFilter s 7 = 0 ∧ pinFilter { s with hreg := [(0x21070, 0x30000)] } 7 ≠ 0)) ∧
    (MWaits stallState 0 .stallF ∧ mOp (mothGet stallState 0).cur = 10 ∧ field (mothGet stallState 0).cur 10 9 = 0 ∧
      (mothGet stallState 0).qout = 44 :: []) ∧
    (let s := mothState { mothOf 0 with wait := .stallS, cur := mi 11 0x100 }
     MWaits s 0 .stallS ∧ mOp (mothGet s 0).cur = 11 ∧ (mothGet s 0).imode = false ∧ (mothGet s 0).qin.length < qinCap (mothGet s 0)) ∧
    (let s := mothState { mothOf 0 with wait := .stallS, cur := mi 11 0, qin := [1, 2, 3, 4] }
     MWaits s 0 .stallS ∧ mOp (mothGet s 0).cur = 11 ∧ qinCap (mothGet s 0) ≤ (mothGet s 0).qin.length) ∧
    MWaits (mothWait (.delay 7) 0 0) 0 (.delay 7) ∧
    (let s := mothState { mothOf 0 with inj := some (mi 14 0) }
     (mothGet s 0).inj = some (mi 14 0) ∧ (mothGet s 0).injWait = none ∧ mothIllegal (mothGet s 0) (mi 14 0) = true) ∧
    (let s := mothState { mothOf 0 with inj := some (mi 13 77) }
     (mothGet s 0).inj = some (mi 13 77) ∧ mothIllegal (mothGet s 0) (mi 13 77) = false ∧ mOp (mi 13 77) = 13 ∧
       field (mi 13 77) 11 10 = 0 ∧ field (mi 13 77) 18 16 = 0 ∧ bitAt (mi 13 77) 15 = false) := by
  refine ⟨⟨mwaits_of ?_, ?_, ?_, ?_, .inl ?_⟩, ⟨mwaits_of ?_, ?_⟩, lone_waits false, fun c hc => lone_waits true c (hc.elim (by omega) (by omega)),
    ⟨mwaits_of ?_, ?_⟩, ⟨?_, ⟨?_, .inl ?_⟩, ?_⟩, ⟨?_, ⟨?_, .inl ?_⟩, ?_⟩, ?_,
    ⟨mwaits_of ?_, ?_⟩, ⟨mwaits_of ?_, ?_⟩, ⟨mwaits_of ?_, ?_⟩, ⟨mwaits_of ?_, ?_⟩, ⟨?_, ?_, ?_, ⟨?_, .inl ?_⟩, ?_⟩, ⟨mwaits_of ?_, ?_⟩, ⟨mwaits_of ?_, ?_⟩,
    ⟨mwaits_of ?_, ?_⟩, mwaits_of ?_, ?_⟩ <;> decide +kernel

/-! Cells on their way, publication and history. -/

/-- A value cell for context `i` of unit `u` with ROUTE `r` and payload 9 (Table 3.1). -/
def cellTo (u i kind r : Nat) : W128 := mkCell (mkTag u i kind 0 0 0 r) 9
/-- A released cell. -/
def oc (c : W128) : OCell := { cell := c, pend := false, due := 0 }
/-- The block in RUN with one cell on its way to a destination. -/
def flyState (dest : Nat) (c : W128) : State :=
  { prog [] with
    cells := { flight := [{ dest := dest, cell := oc c }] }
    store := { recs := [(7, recOf 0)], ctl := [(7, 0xE0000000)], ctlEdge := [(7, 0xE0000000)] } }

/-- R81: RUNARR makes an arrival entry. -/
theorem test_inbound : nextHas (exec (.inboundCellArrival 63 false) (flyState 63 (cellTo 0 7 1 0x10)))
    (fun t => (engGet t 63).inq == [{ cell := cellTo 0 7 1 0x10, arr := true, bad := false }] && t.cells.flight == []) = true := by decide +kernel
theorem test_host_queue : nextHas (exec .hostQueueArrival (flyState 100 cellA)) (fun t => t.cells.hostq == [cellA]) = true := by decide +kernel
/-- R55, R76: the old cell is dropped, the next one goes to engine 0, and engine 1 is first in the rotation. -/
def routeState : State :=
  { flyState 63 cellA with
    eng := [(0, { engOf [] with outq := [oc (mkCell (mkTag 0 7 1 0 0 0 0x10) 1), oc (mkCell (mkTag 0 7 1 0 100 0 0x10) 2), ⟨cellA, true, 0⟩] })]
    cells := {}
    tick := { tickn := 100 } }
theorem test_router : nextHas (exec (.routerCell 0 false 0) routeState)
    (fun t => (engGet t 0).outq == [⟨cellA, true, 0⟩] && t.cells.flight.map (fun f => (f.dest, f.cell.cell)) == [(0, mkCell (mkTag 0 7 1 0 100 0 0x10) 2)] &&
      tblGet 0 0 t.cells.rot == 1 && cntGet t 0x5008 == 1) = true := by decide +kernel
/-- R367: the word of an output cell waits in the moth of its context. -/
def gateState : State := { flyState 110 (cellTo 0 7 4 0x18) with field := { moth := [(3, { ctxValid := true, index := 7 })] } }
theorem test_gateway_arrival : nextHas (exec (.gatewayCellArrival 0) gateState) (fun t => (mothGet t 3).held == [9]) = true := by decide +kernel
/-- A gateway queue of bank 5. -/
def gwState : State := { prog [] with field := { gwq := [(5, [oc (cellTo 0 7 4 0x10)])] }, store := { ctl := [(7, 0x80000000)] } }
theorem test_gateway_pass : nextHas (exec (.gatewayCellPass 5 false) gwState)
    (fun t => gwGet t 5 == [] && t.cells.flight.map (·.dest) == [0]) = true := by decide +kernel
/-- R315: a gateway cell that fails its parity is dropped and counted. -/
theorem test_gateway_parity : nextHas (exec (.gatewayCellPass 5 true) gwState)
    (fun t => gwGet t 5 == [] && t.cells.flight == [] && cntGet t 0xA044 == 1) = true := by decide +kernel
/-- R54, R55: 100 ticks after its stamp a cell is past the limit of 8. -/
theorem test_sweep : nextHas (exec .queueAgeSweep { prog [] with
      cells := { hostq := [cellA, mkCell (mkTag 0 7 1 0 99 0 0x20) 0] }
      tick := { tickn := 100 } })
    (fun t => t.cells.hostq == [mkCell (mkTag 0 7 1 0 99 0 0x20) 0] && cntGet t 0x401C == 1) = true := by decide +kernel

/-- A bad inbound entry goes at the sweep, good age or not. -/
theorem test_sweep_bad : nextHas (exec .queueAgeSweep
      { prog [] with eng := [(0, { engOf [] with inq := [⟨cellA, false, true, false⟩, ⟨cellA, false, false, false⟩] })] })
    (fun t => (engGet t 0).inq == [⟨cellA, false, false, false⟩] && cntGet t 0xA044 == 1) = true := by decide +kernel

theorem witness_CellsMoveThroughQueues :
    (let s := flyState 63 (cellTo 0 7 1 0x10)
     flyTake 63 s.cells.flight = some (oc (cellTo 0 7 1 0x10), []) ∧ (engGet s 63).inq.length < 512) ∧
    (let s := { flyState 0 cellA with eng := [(0, { engOf [] with inq := List.replicate 512 ⟨cellA, false, false, false⟩ })] }
     flyTake 0 s.cells.flight = some (oc cellA, []) ∧ 512 ≤ (engGet s 0).inq.length) ∧
    (let s := flyState 100 cellA
     flyTake 100 s.cells.flight = some (oc cellA, []) ∧ s.cells.hostq.length < 256 ∧
     256 ≤ ({ s with cells := { s.cells with hostq := List.replicate 256 cellA } }).cells.hostq.length) ∧
    (domStat routeState 64 = 1 ∧ isPaired routeState = false ∧ (routerOrder routeState 0).find? (routerServes routeState) = some 0 ∧
      (engGet routeState 0).hold ≠ .push) ∧
    (domStat gateState (bankDom 0) = 1 ∧ flyTake 110 gateState.cells.flight = some (oc (cellTo 0 7 4 0x18), []) ∧
      bankMothOfCtx gateState 0 (cellIndex (cellTo 0 7 4 0x18)) = some 3 ∧ cellKind (cellTo 0 7 4 0x18) = 4 ∧ (mothGet gateState 3).held.length < 8) ∧
    (domStat gwState (bankDom 5) = 1 ∧ (∀ m, m ∈ mothsOf 5 → (mothGet gwState m).imode = false) ∧ gwGet gwState 5 = oc (cellTo 0 7 4 0x10) :: [] ∧
      cellOld gwState (cellTo 0 7 4 0x10) = false) := by decide +kernel

/-- R123: the cell is the published word of its context, pending for both buffers. -/
theorem test_pub_accept : nextHas (exec .publicationCopyAccept (flyState 101 (cellTo 0 7 1 0x80)))
    (fun t => recValue (recGet t 7) == 9 && t.pub.pend0 == [7] && t.pub.pend1 == [7]) = true := by decide +kernel
/-- R124: a copy of the next tick waits. -/
theorem test_pub_late : nextHas (exec .publicationCopyAccept { flyState 101 cellA with cells := { flight := [⟨101, ⟨cellA, false, 1⟩⟩] } })
    (fun t => t.pub.late.length == 1 && t.store.recs == [(7, recOf 0)]) = true := by decide +kernel
/-- Publication of tick 1 with context 7 pending. -/
def pubState (pend : List Nat) : State :=
  { flyState 63 cellA with
    cells := {}
    hreg := [(0x6000, 1), (0x6010, 0x200000), (0x6018, 0x2000)]
    tick := { tickn := 1, running := true, inReserve := true }
    pub := { n := 1, writing := true, full := true, pend1 := pend } }
/-- R122, R130: the entry of context 7 in buffer 1. -/
theorem test_pub_entry : nextHas (exec .publicationEntryWrite (pubState [7]))
    (fun t => memBytes t.mem.dram (2 ^ 64 * 9 + 0x200070) 16 == [0, 0, 0, 0, 0, 0, 0, 0, 5, 0, 0, 0, 0, 0, 0, 0] &&
      t.pub.pend1 == [] && t.pub.written == 1) = true := by decide +kernel
/-- R127: the header of buffer 1 reads DONE (2). -/
theorem test_pub_done : nextHas (exec .publicationHeaderDone (pubState []))
    (fun t => !t.pub.writing && memBytes t.mem.dram (2 ^ 64 * 9 + 0x2040) 8 == [1, 0, 0, 0, 0, 0, 0, 0] &&
      memGet t.mem.dram (2 ^ 64 * 9 + 0x2050) == 2) = true := by decide +kernel
/-- The history writer on. -/
def histState (ctl : Word) : State :=
  { flyState 102 (cellTo 0 7 1 0x40) with hreg := [(0x6040, 1), (0x6048, 0x3000)], store := { ctl := [(7, ctl)] } }
theorem test_hist_accept : nextHas (exec .historyCopyAccept (histState 0x90000000)) (fun t => t.pub.histq.length == 1 && t.pub.drops == 0) = true := by
  decide +kernel
theorem test_hist_refused : nextHas (exec .historyCopyAccept (histState 0x80000000))
    (fun t => t.pub.histq == [] && t.pub.drops == 1 && cntGet t 0x6058 == 1) = true := by decide +kernel
/-- One entry in hand, with HSEQ at its last slot. -/
def histqState : State :=
  { histState 0x90000000 with pub := { histq := [⟨cellA, 5, false⟩], hseq := 0xFFFFFF } }
theorem test_hist_write : nextHas (exec (.historyEntryWrite false) histqState)
    (fun t => t.pub.histq == [] && t.pub.histWriting && memBytes t.mem.dram (2 ^ 64 * 9 + 0x3000 + 32 * 0xFFFFFF + 16) 2 == [5, 0]) = true := by
  decide +kernel
/-- R315: an entry that fails its parity is not written. -/
theorem test_hist_parity : nextHas (exec (.historyEntryWrite true) histqState)
    (fun t => t.pub.histq == [] && !t.pub.histWriting && t.mem.dram == [] && cntGet t 0xA044 == 1) = true := by decide +kernel
/-- R134: past the last slot the ring wraps. -/
theorem test_hist_complete : nextHas (exec .historyEntryComplete { histqState with pub := { hseq := 0xFFFFFF, histWriting := true } })
    (fun t => !t.pub.histWriting && t.pub.hseq == 0x1000000 && cntGet t 0x605C == 1) = true := by decide +kernel

theorem witness_PublicationAndHistory :
    (let s := flyState 101 (cellTo 0 7 1 0x80)
     let o := oc (cellTo 0 7 1 0x80)
     flyTake 101 s.cells.flight = some (o, []) ∧ tickAfter s.tick.tickn o.due = false ∧ ctlInuse (ctlGet s 7) = true ∧ ctlPubl (ctlGet s 7) = true ∧
     cellIndex o.cell = 7 ∧ isMirrored s = false ∧ s.svc.fill = false ∧ recTileBad s 7 0 = false) ∧
    (let s := flyState 101 (cellTo 0 8 1 0x80)
     flyTake 101 s.cells.flight = some (oc (cellTo 0 8 1 0x80), []) ∧ ¬(ctlInuse (ctlGet s 8) = true ∧ ctlPubl (ctlGet s 8) = true)) ∧
    (let s := { flyState 101 cellA with cells := { flight := [⟨101, ⟨cellA, false, 1⟩⟩] } }
     flyTake 101 s.cells.flight = some (⟨cellA, false, 1⟩, []) ∧ tickAfter s.tick.tickn 1 = true ∧ s.pub.late.length < 4096) ∧
    (let s := pubState [7]
     s.pub.writing = true ∧ pubOn s = true ∧ pubTodo s = 7 :: [] ∧ isMirrored s = false ∧ recTileBad s 7 0 = false ∧ pubMsCount s < pubMsMax s) ∧
    (let s := { pubState [7] with pub := { msAt := 0, msCount := 1048576 } }
     pubMsMax s ≤ pubMsCount s) ∧
    (let s := pubState []
     s.pub.writing = true ∧ pubOn s = true ∧ s.tick.inReserve = true ∧ pubTodo s = [] ∧ pubInFlight s = false) ∧
    (flyTake 102 (histState 0x90000000).cells.flight = some (oc (cellTo 0 7 1 0x40), []) ∧
      (bitAt (regGet (histState 0x90000000) 0x6040) 0 && ctlInuse (ctlGet (histState 0x90000000) 7) && ctlHistl (ctlGet (histState 0x90000000) 7)) = true ∧
      (histState 0x90000000).pub.histq.length < 4096 ∧ ctlHistl (ctlGet (histState 0x80000000) 7) = false) ∧
    histReady { histqState with pub := { histLast := some 0 }, tick := { bn9 := 249 } } = false ∧
    (histqState.pub.histq = ⟨cellA, 5, false⟩ :: [] ∧ histqState.pub.histWriting = false ∧ histReady histqState = true) ∧
    ({ histqState with pub := { histWriting := true } }).pub.histWriting = true := by decide +kernel
/-- A full history queue. -/
theorem witness_PublicationAndHistory_full :
    4096 ≤ ({ histState 0x90000000 with pub := { histq := List.replicate 4096 ⟨cellA, 5, false⟩ } }).pub.histq.length := by
  rw [show ({ histState 0x90000000 with pub := { histq := List.replicate 4096 ⟨cellA, 5, false⟩ } } : State).pub.histq =
    List.replicate 4096 ⟨cellA, 5, false⟩ from rfl, List.length_replicate]

/-! The chain. -/

/-- Unit 3 of a chain of 5, both ports enabled with four lanes, and up as given (Table 3.14). -/
def chainState (up0 up1 : Bool) : State :=
  { prog [] with
    hreg := [(0xC0000, 3)]
    chain := { unit := 3, units := 5, port0 := { up := up0, lanes := 4 }, port1 := { up := up1, lanes := 4, owesClear := !up1 } } }
/-- A cell frame from unit 2 with one cell. -/
def cellFrame (p : Nat) (c : W128) : Instr :=
  .cellFrameReceive p (fhMake 1 2 1 1 false false 0 0) [c] (frameCrc (fhMake 1 2 1 1 false false 0 0) [c])
/-- R88: a wrong CRC is counted, and the frame does nothing else. -/
theorem test_frame_crc : nextHas (exec (.cellFrameReceive 0 (fhMake 1 2 1 1 false false 0 0) [cellA] 0) (chainState true true))
    (fun t => cntGet t 0xC0108 == 1 && t.chain.out == [] && t.cells.flight == []) = true := by decide +kernel
/-- R90, R93: a cell for unit 4 that came in at port 1 leaves at port 0 with HOPS 2. -/
theorem test_frame_forward : nextHas (exec (cellFrame 1 (cellTo 4 7 1 0x10)) (chainState true true))
    (fun t => t.chain.out.map (fun q => (q.1, fhHops q.2.hdr, fhSrc q.2.hdr)) == [(0, 2, 2)] && t.cells.flight == []) = true := by decide +kernel
/-- R56: a cell one tick early waits in the port. -/
theorem test_frame_early : nextHas (exec (cellFrame 0 (mkCell (mkTag 3 7 1 0 1 0 0x10) 9)) (chainState true true))
    (fun t => (portGet t 0).buf.length == 1 && t.cells.flight == []) = true := by decide +kernel
/-- R97: a unit with no address discards a cell, its own address or not. -/
theorem test_frame_no_address : nextHas (exec (cellFrame 0 (cellTo 0 7 1 0x10)) { chainState true true with
      chain := { port0 := { up := true, lanes := 4 }, port1 := { up := true, lanes := 4 } } })
    (fun t => t.cells.flight == [] && t.chain.out == [] && (portGet t 0).buf == []) = true := by decide +kernel
/-- R95: in AWAIT_IMAGE the unit takes the address of the offer that passes. -/
def enumState : State := { chainState true true with bstate := .awaitImage, chain := { port0 := { up := true, lanes := 4 }, port1 := { up := true, lanes := 4 } } }
def offer (next : Nat) : W128 := offerBody next false false 0xABCD
def ctlHdr (type : Nat) : W64 := fhMake type 1 1 1 false false 0 0
theorem test_offer : nextHas (exec (.enumerationOfferReceive 1 (ctlHdr 2) [offer 126] (frameCrc (ctlHdr 2) [offer 126])) enumState)
    (fun t => t.chain.tent.map (fun q => (q.1, q.2.1)) == some (126, 0xABCD) && t.chain.unit == 0 &&
      t.chain.out.map (fun q => (q.1, q.2.bodies.map (fun b => field b 6 0))) == [(0, [127])]) = true := by decide +kernel
def tentState : State := { enumState with chain := { enumState.chain with tent := some (3, 0xABCD, 0) } }
theorem test_commit : nextHas (exec (.enumerationCommitReceive 1 (ctlHdr 3) [offer 5] (frameCrc (ctlHdr 3) [offer 5])) tentState)
    (fun t => t.chain.unit == 3 && t.chain.units == 5 && t.chain.tent == none) = true := by decide +kernel
theorem test_ring_status : nextHas (exec (.ringStatusReceive 0 (ctlHdr 4) [statusBody true 2] (frameCrc (ctlHdr 4) [statusBody true 2])) (chainState true true))
    (fun t => t.chain.brkValid && t.chain.brkUnit == 2) = true := by decide +kernel

/-- `frameTake` passes the frame on. -/
def takes (s : State) (p type : Nat) (h : W64) (b : W128) : Bool :=
  match frameTake s p type h [b] (frameCrc h [b]) with
  | some (true, _) => true
  | _ => false
theorem takes_of {s : State} {p type : Nat} {h : W64} {b : W128} (q : takes s p type h b = true) :
    ∃ z, frameTake s p type h [b] (frameCrc h [b]) = some (true, z) := by
  unfold takes at q
  split at q
  · exact ⟨_, by assumption⟩
  · cases q

theorem witness_ChainFramesReceived :
    (let s := chainState true true
     portOn s 1 = true ∧ (portGet s 1).training = false ∧ (portGet s 1).lanes ≠ 0 ∧ frameOk (fhMake 1 2 1 1 false false 0 0) [cellA] 0 = false) ∧
    ((∃ z, frameTake (chainState true true) 1 1 (fhMake 1 2 1 1 false false 0 0) [cellTo 4 7 1 0x10]
        (frameCrc (fhMake 1 2 1 1 false false 0 0) [cellTo 4 7 1 0x10]) = some (true, z)) ∧
      cellUnit (cellTo 4 7 1 0x10) ≠ 127 ∧ cellUnit (cellTo 4 7 1 0x10) ≠ (chainState true true).chain.unit ∧ (chainState true true).chain.unit ≠ 0 ∧ (portGet (chainState true true) 0).up = true ∧
      (portGet (chainState true true) 1).buf.length < 512 ∧
      ageOf ((chainState true true).tick.tickn.toNat % 65536) (cellStamp (cellTo 4 7 1 0x10)) < 0x8000 ∧
      cellOld (chainState true true) (cellTo 4 7 1 0x10) = false) ∧
    ((∃ z, frameTake enumState 1 1 (fhMake 1 2 1 1 false false 0 0) [cellTo 4 7 1 0x10]
        (frameCrc (fhMake 1 2 1 1 false false 0 0) [cellTo 4 7 1 0x10]) = some (true, z)) ∧ enumState.chain.unit = 0) ∧
    (let c := mkCell (mkTag 3 7 1 0 1 0 0x10) 9
     (∃ z, frameTake (chainState true true) 0 1 (fhMake 1 2 1 1 false false 0 0) [c] (frameCrc (fhMake 1 2 1 1 false false 0 0) [c]) = some (true, z)) ∧
     (chainState true true).chain.unit ≠ 0 ∧ ageOf ((chainState true true).tick.tickn.toNat % 65536) (cellStamp c) = 0xFFFF ∧ (portGet (chainState true true) 0).buf.length < 512) ∧
    ((∃ z, frameTake enumState 1 2 (ctlHdr 2) [offer 126] (frameCrc (ctlHdr 2) [offer 126]) = some (true, z)) ∧ chnHead enumState = false ∧
      tickingState enumState.bstate = false ∧ field (offer 126) 6 0 ≠ 0 ∧ field (offer 126) 6 0 ≠ 127) ∧
    ((∃ z, frameTake tentState 1 3 (ctlHdr 3) [offer 5] (frameCrc (ctlHdr 3) [offer 5]) = some (true, z)) ∧ chnHead tentState = false ∧
      tickingState tentState.bstate = false ∧ tentState.chain.tent = some (3, bodyOrigin (offer 5), 0)) ∧
    (∃ z, frameTake (chainState true true) 0 4 (ctlHdr 4) [statusBody true 2] (frameCrc (ctlHdr 4) [statusBody true 2]) = some (true, z)) := by
  refine ⟨?_, ⟨takes_of ?_, ?_⟩, ⟨takes_of ?_, ?_⟩, ⟨takes_of ?_, ?_⟩, ⟨takes_of ?_, ?_⟩, ⟨takes_of ?_, ?_⟩,
    takes_of ?_⟩ <;> decide +kernel

/-- R91: the break at port 1 of unit 3 is behind unit 2. -/
theorem test_port_down : nextHas (exec (.chainPortDown 1 false) (chainState true true))
    (fun t => !(portGet t 1).up && t.chain.brkValid && t.chain.brkUnit == 2 && cntGet t 0xC0144 == 1) = true := by decide +kernel
/-- R87: the link goes down for a change of its lane count, and reads TRAINING with no lanes. -/
theorem test_port_retrain : nextHas (exec (.chainPortDown 1 true) (chainState true true))
    (fun t => !(portGet t 1).up && (portGet t 1).training && (portGet t 1).lanes == 0 && cntGet t 0xC0144 == 1) = true := by decide +kernel
theorem test_status_send : nextHas (exec (.ringStatusSend 0) (chainState true false))
    (fun t => t.chain.out.map (fun q => (q.1, q.2.bodies)) == [(0, [statusBody true 2])]) = true := by decide +kernel
/-- R91: a port that is down for want of frames, its lanes locked, sends too. -/
theorem test_status_send_down : nextHas (exec (.ringStatusSend 0) (chainState false true))
    (fun t => t.chain.out.map (·.1) == [0]) = true := by decide +kernel
/-- Port 1 up again for 1 ms. -/
def clearState : State :=
  { chainState true true with
    chain := { unit := 3, units := 5, brkValid := true, brkUnit := 2, port1 := { up := true, lanes := 4, owesClear := true, upSince := some 0 } }
    tick := { bn9 := 1000000 } }
theorem test_break_clear : nextHas (exec (.breakClearSend 1) clearState) (fun t => !t.chain.brkValid && !(portGet t 1).owesClear) = true := by decide +kernel
/-- R87: of three working lanes the two lowest are used. -/
theorem test_retrain : nextHas (exec (.laneRetrainDone 1 0xE) (chainState true false))
    (fun t => (portGet t 1).up && (portGet t 1).lanes == 2 && (portGet t 1).active == [1, 2]) = true := by decide +kernel
/-- An up port whose count changes takes the link down and up. -/
theorem test_retrain_up : nextHas (exec (.laneRetrainDone 1 8) (chainState true true))
    (fun t => (portGet t 1).up && (portGet t 1).lanes == 1 && (portGet t 1).active == [3] && cntGet t 0xC0144 == 1) = true := by decide +kernel
/-- An offer of 10 ms and 1 ns ago, and a tentative address of 20 ms ago. -/
def lateState : State := { headState with tick := { bn9 := 20000000 }, chain := { offer := some (5, 1, 9999999), tent := some (4, 5, 0) } }
theorem test_offer_timeout : nextHas (exec .enumerationOfferTimeout lateState) (fun t => t.chain.offer == none && t.mbx.cpl == [(1, 0x16)]) = true := by
  decide +kernel
theorem test_tentative_drop : nextHas (exec .tentativeAddressDrop lateState) (fun t => t.chain.tent == none) = true := by decide +kernel

theorem witness_ChainPortsAndTimers :
    (portOn (chainState true true) 1 = true ∧ (portGet (chainState true true) 1).up = true) ∧
    (portOn (chainState true false) 0 = true ∧ (portGet (chainState true false) 0).up = true ∧ (portGet (chainState true false) 1).owesClear = true) ∧
    (let s := chainState false true
     portOn s 0 = true ∧ (portGet s 0).up = false ∧ (portGet s 0).lanes ≠ 0 ∧ (portGet s 0).training = false) ∧
    (portOn clearState 1 = true ∧ (portGet clearState 1).up = true ∧ (portGet clearState 1).owesClear = true ∧
      (portGet clearState 1).upSince = some 0 ∧ 1000000 ≤ (ktb clearState).toNat - (0 : W64).toNat) ∧
    (portOn (chainState true false) 1 = true ∧ (portGet (chainState true false) 1).up = false ∧ lanesUsed 0xE = [1, 2]) ∧
    ((portGet (chainState true true) 1).lanes = (lanesUsed 0xF).length ∧ (portGet (chainState true true) 1).lanes ≠ (lanesUsed 8).length ∧
      lanesUsed 8 ≠ [] ∧ lanesUsed 0 = []) ∧
    (lateState.chain.offer = some (5, 1, 9999999) ∧ (1 : Nat) ≠ 0 ∧ 10000000 < (ktb lateState).toNat - (9999999 : W64).toNat) ∧
    (lateState.chain.tent = some (4, 5, 0) ∧ 20000000 ≤ (ktb lateState).toNat - (0 : W64).toNat) := by decide +kernel

/-! The main tick, its reserve, and the Fox sub-tick. -/

/-- A tick of 40 units (10,000 ns) from KTB 0, tick 5 taken at 50,000 ns, now at `now`; engine 0 has entry 7 left on its list. -/
def tickState (st : BState) (now : W64) : State :=
  { ctxState { engOf [] with scan := [7], ctxOpen := some 7 } 0 with
    bstate := st
    tick := { bn9 := now, running := true, units := 40, nextK := 6, edgeAt := some 50000, tickn := 5, inReserve := true, basen := 0 }
    svc := { eng := [(0, { st := 1 })] } }
/-- R32, R33: at 70,010 ns point 7 is taken and point 6 counted as passed over. -/
theorem test_main_edge : nextHas (exec (.mainTickEdge {}) (tickState .run 70010))
    (fun t => t.tick.tickn == 7 && t.tick.nextK == 8 && t.tick.edgeAt == some 70000 && cntGet t 0x10088 == 1 && !t.tick.inReserve &&
      t.bstate == .run && (engGet t 0).scan == [7]) = true := by decide +kernel
/-- R68: a written age limit acts from the edge. -/
def ageState : State := { tickState .run 60000 with tick := { (tickState .run 60000).tick with agePending := some 200 } }
theorem test_edge_age : nextHas (exec (.mainTickEdge {}) ageState) (fun t => ageLimit t == 200 && t.tick.agePending == none) = true := by decide +kernel
/-- R417: HOLD at the edge. -/
def holdState : State := { tickState .run 60000 with svc := { eng := [(0, { st := 1 })], acts := [⟨1, .hold⟩] } }
theorem test_edge_hold : nextHas (exec (.mainTickEdge {}) holdState)
    (fun t => t.bstate == .hold && !t.tick.running && t.tick.tickn == 6 && t.svc.acts == []) = true := by decide +kernel
/-- R424: edge M of a release. -/
def readyState : State :=
  { tickState .verify 0 with
    tick := { running := true, units := 40, firstEdge := true }
    rel := { img := { src := 1, gen := 9 }, tag := 3, phase := 3, readback := true, identOk := true } }
theorem test_edge_run : nextHas (exec (.mainTickEdge {}) readyState)
    (fun t => t.bstate == .run && t.rel.srcForce == 1 && t.rel.genForce == 9 && t.mbx.cpl == [(3, 0)]) = true := by decide +kernel

theorem witness_MainTickEdgeTakesItsPoint :
    (let s := tickState .run 70010
     pointReached s = true ∧ s.bstate = .run ∧ holdDue s = false ∧ s.tick.pend = none ∧ s.tick.agePending = none) ∧
    (pointReached ageState = true ∧ ageState.bstate = .run ∧ holdDue ageState = false ∧ ageState.tick.agePending = some 200) ∧
    (pointReached holdState = true ∧ holdDue holdState = true ∧ holdState.rel.atEdge = false) ∧
    (pointReached readyState = true ∧ readyState.bstate = .verify ∧ runReady readyState = true ∧ settLost readyState = false ∧
      readyState.rel.tag ≠ 0 ∧ readyState.tick.pend = none) := by decide +kernel

/-- The same tick with its reserve not begun. -/
def openState (now : W64) : State := { tickState .run now with tick := { (tickState .run now).tick with inReserve := false } }
/-- R46, R48: engine 0 overruns, and its entry is skipped. -/
theorem test_reserve : nextHas (exec .publishReserveStart (openState 58000))
    (fun t => t.tick.inReserve && (engGet t 0).scan == [] && cntGet t 0x10108 == 1 && (engGet t 0).ctxOpen == some 7 && cntGet t 0x10104 == 1) = true := by
  decide +kernel
/-- FASTLOOP: a tick of 400 units with a sub-tick of 40 (10,000 ns), tick 1 taken at 100,000 ns, engine 56 with an entry. -/
def foxState (subReserve : Bool) (now : W64) : State :=
  { prog [] with
    eng := [(56, { engOf [] with scan := [7] }), (0, { engOf [] with scan := [8] })]
    tick := { bn9 := now, running := true, units := 400, subtick := 40, nextK := 2, edgeAt := some 100000, tickn := 1, subReserve := subReserve }
    svc := { profile := 3, eng := [(0, { st := 1 }), (56, { st := 1 })] } }
theorem test_fox_edge : nextHas (exec (.foxSubtickEdge {}) (foxState true 120000)) (fun t => t.tick.subI == 2 && !t.tick.subReserve && (engGet t 0).scan == [8]) = true := by
  decide +kernel
theorem test_fox_reserve : nextHas (exec .foxSubtickReserve (foxState false 108000))
    (fun t => t.tick.subReserve && (engGet t 56).scan == [] && (engGet t 0).scan == [8] && cntGet t 0x102F0 == 1) = true := by decide +kernel

theorem witness_ReservesAndSubticks :
    ((openState 58000).tick.edgeAt = some 50000 ∧ (openState 58000).tick.running = true ∧ (openState 58000).tick.inReserve = false ∧
      (50000 : W64).toNat + windowNs 40 5 ≤ (ktb (openState 58000)).toNat ∧ freezeOn (openState 58000) = false ∧ isFox (openState 58000) 63 = false ∧
      overruns (openState 58000) 0 = true) ∧
    (let s := foxState true 120000
     s.tick.edgeAt = some 100000 ∧ s.tick.running = true ∧ isFastloop s = true ∧ s.tick.subtick ≠ 0 ∧ s.tick.subI < subReached s 100000 ∧
     s.tick.subReserve = true) ∧
    (let s := foxState false 108000
     s.tick.subReserve = false ∧ isFastloop s = true ∧ freezeOn s = false ∧
     (100000 : W64).toNat + s.tick.subI * (s.tick.subtick * 250) + windowNs s.tick.subtick s.tick.reserve ≤ (ktb s).toNat) := by decide +kernel

/-! Scrubbing and repair, the ends of service actions, the trace, and the debug lock. -/

section Repairs

set_option maxRecDepth 1000000

/-- The scrubber, the repair and the rebuild on (Table 11.6), and the scrubber's positions. -/
def scrubState (pos : Tbl Nat) : State := { svcState with hreg := [(0xA000, 7)], mem := { scrub := pos } }
theorem test_scrub_clean : nextHas (exec (.scrubTileRead 0 63 2046 false) (scrubState [(63, 2046)]))
    (fun t => t.mem.scrub == [(63, 2047)] && t.mem.bad == [] && t.cnt == []) = true := by decide +kernel
theorem test_scrub_bad : nextHas (exec (.scrubTileRead 1 0 4095 true) (scrubState [(128, 4095)]))
    (fun t => tileBad t 1 0 4095 && t.mem.lastadr == 0x20000FFF && cntGet t 0xA014 == 1) = true := by decide +kernel
/-- Every instance read to its end but the last tile of the last one: the numbers of tiles are those of Table 11.1. -/
def scrubEnd : State := scrubState (
  (List.range 64).map (fun n => (n, 2048)) ++ [(66, 1024)] ++ (List.range 64).map (fun n => (128 + n, 4096)) ++ [(194, 2048)] ++
  (List.range 8).map (fun k => (256 + k, 32768)) ++ [(384, 32768)] ++ (List.range 63).map (fun n => (512 + n, 2)) ++ [(575, 1)])
/-- R322: the pass is complete once every instance has been read, and the next one starts from the first tiles. -/
theorem test_scrub_pass : nextHas (exec (.scrubTileRead 4 63 1 false) scrubEnd) (fun t => t.mem.scrub == [] && cntGet t 0xA040 == 1) = true := by
  decide +kernel
theorem test_suspect : nextHas (exec (.suspectTileRead 0 true) (runEng { engOf [] with suspadr := 0x47 }))
    (fun t => tileBad t 0 0 1 && cntGet t 0xA010 == 1) = true := by decide +kernel
/-- R324: engine 0's tile comes back from the image. -/
def repairState : State := { reloadState with hreg := [(0xA000, 7)] }
theorem test_repair : nextHas (exec (.tileRepair 0 0 0 tile1 false) repairState)
    (fun t => memBytes (engGet t 0).imem 0 64 == tile0 && !tileBad t 0 0 0 && cntGet t 0xA034 == 1) = true := by decide +kernel
/-- R315: with its reference failing the repair has no source. -/
theorem test_repair_ref : nextHas (exec (.tileRepair 0 0 0 tile1 true) repairState)
    (fun t => tileBad t 0 0 0 && (refOf t 0 0 0).isNone && cntGet t 0xA038 == 1) = true := by decide +kernel
/-- R325: the tile of context 0 is rebuilt with no source: VALUE is lost and ROUTINE.CTL kept. -/
def rebuildState : State :=
  { svcState with
    hreg := [(0xA000, 7)]
    store := { recs := [(0, recOf 0)], ctl := [(0, 0x80000000)] }
    mem := { bad := [tileKey 2 0 0] } }
theorem test_rebuild : nextHas (exec (.tileRebuild 0 0 tile1 false) rebuildState)
    (fun t => recValue (recGet t 0) == 0 && recCtl (recGet t 0) == 0x80000000 && !tileBad t 2 0 0 && cntGet t 0xA03C == 1) = true := by decide +kernel

theorem witness_ScrubRepairAndRebuild :
    (let s := scrubState [(63, 2046)]
     badgerDead s = false ∧ bitAt (regGet s 0xA000) 0 = true ∧ scrubPos s 0 63 < scrubTiles s 0 63 ∧ tileBad s 0 63 (scrubPos s 0 63) = false ∧
      scrubInsts.all (fun q => decide (scrubTiles s q.1 q.2 ≤ scrubPos s q.1 q.2 + b2n (q == (0, 63)))) = false) ∧
    (badgerDead scrubEnd = false ∧ scrubPos scrubEnd 4 63 < scrubTiles scrubEnd 4 63 ∧ tileBad scrubEnd 4 63 (scrubPos scrubEnd 4 63) = false ∧
      scrubInsts.all (fun q => decide (scrubTiles scrubEnd q.1 q.2 ≤ scrubPos scrubEnd q.1 q.2 + b2n (q == (4, 63)))) = true) ∧
    (let s := scrubState [(128, 4095)]
     badgerDead s = false ∧ bitAt (regGet s 0xA000) 0 = true ∧ scrubPos s 1 0 = 4095 ∧ 4095 < scrubTiles s 1 0) ∧
    (let s := runEng { engOf [] with suspadr := 0x47 }
     badgerDead s = false ∧ (engGet s 0).suspadr.toNat / 64 < scrubTiles s 0 0 ∧ tileBad s 0 0 ((engGet s 0).suspadr.toNat / 64) = false) ∧
    (badgerDead repairState = false ∧ bitAt (regGet repairState 0xA000) 1 = true ∧ tileBad repairState 0 0 0 = true ∧
      repairBytes repairState 0 0 0 tile1 = some tile0) ∧
    (let s := { repairState with mem := { bad := [tileKey 0 0 0] } }
     tileBad s 0 0 0 = true ∧ bitAt (regGet s 0xA000) 1 = true ∧ repairBytes s 0 0 0 tile1 = none) ∧
    (let s := { rebuildState with svc := { profile := 2, mir := [(0, 3)] } }
     badgerDead s = false ∧ sliceGone s (homeOf 0) = true) ∧
    sliceGone rebuildState (homeOf 0) = false ∧
    (badgerDead rebuildState = false ∧ bitAt (regGet rebuildState 0xA000) 2 = true ∧ domStat rebuildState (64 + homeOf 0) = 1 ∧
      tileBad rebuildState 2 (homeOf 0) (2 * (0 % 2 ^ 14) + 0) = true ∧ isMirrored rebuildState = false ∧
      mirroring rebuildState = false ∧ repairBytes rebuildState 2 (homeOf 0) (2 * (0 % 2 ^ 14) + 0) tile1 = none) := by decide +kernel

/-- A change into MIRRORED whose fill runs. -/
def fillState : State := { svcState with tick := { units := 4000, pend := some ⟨1, 0, 4000, 0, some 2, false, true⟩ }, svc := { fill := true } }
theorem test_fill_done : nextHas (exec .mirrorFillDone fillState) (fun t => t.tick.pend.map (·.fillOk) == some true) = true := by decide +kernel
/-- A restore of engine 5 in its test, with the image's tile 0 for its first IMEM tile. -/
def restoreState : State :=
  { reloadState with
    svc := { eng := [(5, { st := 5 })], dom := [], acts := [⟨1, .restore 5 false 0 false⟩] }
    mem := { staging := stagedMem, refs := [(tileKey 0 5 0, some (0xA211CE9C))] }
    rel := { img := { src := 2, tiles := 2, sects := [⟨1, 5, 0, 1, 0, 0⟩] } } }
theorem test_restore_fails : nextHas (exec (.restoreDone 5 false []) restoreState)
    (fun t => (svcEng t 5).st == 4 && domStat t 5 == 0 && t.mbx.cpl == [(1, 0x19)] && t.svc.acts == []) = true := by decide +kernel
theorem test_restore_ends : nextHas (exec (.restoreDone 5 true []) restoreState)
    (fun t => (svcEng t 5).st == 2 && t.mbx.cpl == [(1, 0)] && memBytes (engGet t 5).imem 0 64 == tile0) = true := by decide +kernel
/-- The same with a body that is not what the reference says: CHECK, and the engine stays out. -/
def restoreNoRef : State := { restoreState with mem := { staging := stagedMem, refs := [(tileKey 0 5 0, some 1)] } }
theorem test_restore_check : nextHas (exec (.restoreDone 5 true []) restoreNoRef)
    (fun t => (svcEng t 5).st == 4 && domStat t 5 == 0 && t.mbx.cpl == [(1, 0xB)] && t.svc.acts == []) = true := by decide +kernel
theorem test_cluster_fail : nextHas (exec (.clusterFailDetect 7) { svcState with bstate := .service, svc := { acts := [⟨1, .loadUbank 1 []⟩] } })
    (fun t => t.svc.acts == [⟨1, .loadUbank 1 []⟩, ⟨0, .retireCluster 7 false true⟩] && t.bstate == .service) = true := by decide +kernel
/-- A bank load of engine 0 in hand. -/
def loadState : State :=
  { svcState with eng := [(0, { inact := 1 }), (1, { inact := 1 })], svc := { acts := [⟨1, .loadUbank 1 [(0, 256)]⟩] } }
theorem test_load_done : nextHas (exec .loadUbankDone loadState)
    (fun t => (engGet t 0).inact == 2 && (engGet t 1).inact == 1 && t.mbx.cpl == [(1, 0)] && t.svc.acts == []) = true := by decide +kernel
/-- Trace unit 0 with one record, its buffer at the last slot, or with the DRAM sink at address 0x1000 and 4 KiB. -/
def trcState (ctl : Word) : State :=
  { prog [] with hreg := [(trcAdr 0 0, ctl), (trcAdr 0 0x18, 0x1000), (trcAdr 0 0x20, 0x1000)], trc := [(0, { fifo := [9], wptr := 8191 })] }
theorem test_drain : nextHas (exec (.traceRecordDrain 0 false) (trcState 5))
    (fun t => (trcGet t 0).fifo == [] && (trcGet t 0).wptr == 0 && !(trcGet t 0).full && tblGet 0 8191 (trcGet t 0).buf == 9) = true := by decide +kernel
theorem test_drain_dram : nextHas (exec (.traceRecordDrain 0 false) (trcState 3))
    (fun t => (trcGet t 0).fifo == [] && memGet t.mem.dram 0x1000 == 9) = true := by decide +kernel
theorem test_drain_parity : nextHas (exec (.traceRecordDrain 0 true) (trcState 5))
    (fun t => (trcGet t 0).buf == [] && cntGet t (trcAdr 0 0x10) == 1) = true := by decide +kernel

theorem witness_ServiceEndsAndTrace :
    (badgerDead fillState = false ∧ fillState.tick.pend = some ⟨1, 0, 4000, 0, some 2, false, true⟩) ∧
    (badgerDead restoreState = false ∧ restoreInHand restoreState (cluOf 5) = some ⟨1, .restore 5 false 0 false⟩ ∧ isPaired restoreState = false ∧
      (restoreLoad [] [5] (svcActs restoreState (restoreState.svc.acts.erase ⟨1, .restore 5 false 0 false⟩))).1 = true ∧
      (restoreLoad [] [5] (svcActs restoreNoRef (restoreNoRef.svc.acts.erase ⟨1, .restore 5 false 0 false⟩))).1 = false ∧
      restoreInHand restoreNoRef (cluOf 5) = some ⟨1, .restore 5 false 0 false⟩ ∧
      restoreInHand (svcActs restoreState (restoreState.svc.acts.erase ⟨1, .restore 5 false 0 false⟩)) (cluOf 5) = none ∧
      (trcGet restoreState (cluOf 5)).fifo = []) ∧
    (svcState.bstate = .run ∧ cluMir svcState 0 ≠ 3 ∧ cluRetPending svcState 0 = false ∧ domStat svcState 64 = 1) ∧
    (let s := { svcState with bstate := .service, svc := { acts := [⟨1, .loadUbank 1 []⟩] } }
     badgerDead s = false ∧ s.bstate = .service ∧ cluMir s 7 ≠ 3 ∧ cluRetPending s 7 = false ∧ domStat s 71 = 1) ∧
    (badgerDead loadState = false ∧
      loadState.svc.acts.find? (fun q => match q.act with | .loadUbank _ _ => true | _ => false) = some ⟨1, .loadUbank 1 [(0, 256)]⟩) ∧
    (let s := trcState 5
     badgerDead s = false ∧ domStat s 64 = 1 ∧ (trcGet s 0).fifo = 9 :: [] ∧ (trcGet s 0).lost = 0 ∧ (trcGet s 0).syncDue = false ∧
     sinkFree s 0 = true ∧ bitAt (trcCtl s 0) 1 = false ∧ ∀ n, n ∈ s.svc.offWait → cluOf n ≠ 0) ∧
    (let s := trcState 3
     sinkFree s 0 = true ∧ bitAt (trcCtl s 0) 1 = true) := by decide +kernel

/-- A locked part in the middle of an unlock. -/
def unlockingState : State :=
  { lockedState with
    bstate := .hold
    io := { fused := true, locked := true, unlocking := true }
    pending := [.debugUnlockDone []] }
/-- The invariant holds of a locked part, of one being unlocked, and the step after it goes on and opens it. -/
theorem witness_LockInvariantStep : LockInv lockedState ∧ LockInv unlockingState ∧ LockInv { lockedState with io := { fused := true, settdbg := true } } ∧
    (∃ t, step unlockingState = .next t) := by
  refine ⟨by simp [LockInv, lockedState], by simp [LockInv, unlockingState], by simp [LockInv], ⟨_, rfl⟩⟩
theorem witness_OnlyAnUnlockOpensDebug : LockInv unlockingState ∧
    nextHas (exec (.debugUnlockDone []) unlockingState) (fun t => unlockingState.io.locked && !t.io.locked) = true := by
  exact ⟨by simp [LockInv, unlockingState], by decide +kernel⟩
/-- R475: with no unlock in progress, the end of an erase does nothing. -/
theorem test_locked_stays : nextHas (exec (.debugUnlockDone []) lockedState) (fun t => t.io.locked) = true := by decide +kernel

end Repairs

/-! Well-formedness: an ill-formed command for each check, which it refuses, and the same command at the last value it accepts. -/

/-- One operand out of its range. -/
theorem test_wf_refuses_0 : ([
    .blockReset 3, .hostLowWordRead 0x4000000 false, .hostLowWordWrite 0x4000000 0, .hostHighWordWrite 0x4000000 0,
    .misalignedHostAccess 0x4000000 32 false, .misalignedHostAccess 67108863 33 false, .unmappedHostAccess 0x4000000 32 false,
    .unmappedHostAccess 67108863 33 false, .registerWrite 0x4000000 false 0, .clusterWorstRead 8, .listmaxRead 8, .eventClaim 8,
    .eventEoi 8 0, .sourceInsvcClear 1024, .sourcePendClear 1024, .softwareEventSet 16 0, .softwareEventClear 16 0,
    .sourceDisable 1024 0, .powerRequest 86 false, .domainPowerUpDone 86, .mothEnable 104 0, .mothDisable 104 0,
    .mothPcWrite 104 0, .mothImemWrite 104 31 0] : List Instr).all (fun c => !c.wf) = true := by decide +kernel
/-- One operand out of its range. -/
theorem test_wf_refuses_1 : ([
    .mothImemWrite 103 32 0, .mothRestartWrite 104 0, .mothClockWrite 104 0, .mothInject 104 0, .mothInjectedExecute 104 0,
    .contextViewWrite 0x1000000 (List.replicate 64 0), .contextViewWrite 16777215 [],
    .contextViewWrite 16777215 (List.replicate 65 0), .stagingBufferWrite 0x200000 (List.replicate 64 0),
    .stagingBufferWrite 2097151 [], .stagingBufferWrite 2097151 (List.replicate 65 0), .halt 67, .resume 67, .step 67,
    .lockfree 67, .debugHaltTaken 67, .debugDataRead 67, .debugDataWrite 67 0, .terminalTxRead 67, .terminalRxWrite 67 0,
    .sarernIdr 16 0, .sarernRd 0x1000000 0 false, .sarernRdc 0x1000000 0 false, .sarernWr 0x1000000 0 0] : List Instr).all (fun c => !c.wf) = true := by decide +kernel
/-- One operand out of its range. -/
theorem test_wf_refuses_2 : ([
    .release 65536 [] ⟨[], []⟩ ⟨[], []⟩, .hold 65536 [], .setProfile 65536 [], .setTick 65536 [], .retireEngine 65536 [],
    .restoreEngine 65536 [], .migrate 65536 [], .loadUbank 65536 [], .swapUbank 65536 [],
    .reloadTile 65536 [] (List.replicate 64 0) false, .reloadTile 65535 [] (List.replicate 63 0) false,
    .reloadTile 65535 [] (List.replicate 65 0) false, .remapMoth 65536 [], .enumerateChain 65536 [], .sealStatus 65536 [],
    .openSeal 65536 [], .closeSeal 65536 [], .clearCounters 65536 [], .readFaults 65536 [],
    .releaseTileCopy (List.replicate 63 0) 0, .releaseTileCopy (List.replicate 65 0) 0, .mainTickEdge { ctl := [7, 0x20000] },
    .mainTickEdge { scan := [(64, 0)] }, .mainTickEdge { scan := [(0, 0x20000)] }] : List Instr).all (fun c => !c.wf) = true := by decide +kernel
/-- One operand out of its range. -/
theorem test_wf_refuses_3 : ([
    .mainTickEdge { buf0 := [512] }, .mainTickEdge { buf1 := [512] }, .mainTickEdge { tiles := [(5, 0, 0)] },
    .mainTickEdge { tiles := [(0, 67, 0)] }, .mainTickEdge { tiles := [(0, 0, 32768)] }, .foxSubtickEdge { ctl := [7, 0x20000] },
    .foxSubtickEdge { scan := [(64, 0)] }, .foxSubtickEdge { scan := [(0, 0x20000)] }, .foxSubtickEdge { buf0 := [512] },
    .foxSubtickEdge { buf1 := [512] }, .foxSubtickEdge { tiles := [(5, 0, 0)] }, .foxSubtickEdge { tiles := [(0, 67, 0)] },
    .foxSubtickEdge { tiles := [(0, 0, 32768)] }, .settTickEdge [(3, 0)], .settTickEdge [(0, 0), (0, 6144)],
    .settTickEdge [] [7, 1024], .tbiUpdate 0 [(64, 1)], .readFaults 4 [1] [0, 1024],
    .routerCell 9 false 0, .inboundCellArrival 67 false, .gatewayCellArrival 7, .gatewayCellPass 7 false,
    .cellFrameReceive 2 0 [] 0, .enumerationOfferReceive 2 0 [] 0, .enumerationCommitReceive 2 0 [] 0,
    .ringStatusReceive 2 0 [] 0, .chainPortDown 2 false] : List Instr).all (fun c => !c.wf) = true := by decide +kernel
/-- One operand out of its range. -/
theorem test_wf_refuses_4 : ([
    .ringStatusSend 2, .breakClearSend 2, .laneRetrainDone 2 15, .laneRetrainDone 1 16, .alu 67, .aluImmediate 67,
    .shiftImmediate 67, .unary 67, .sat 67, .cmp 67, .plog 67, .getp 67, .setp 67, .mul 67, .div 67, .load 67, .store 67, .ldc 67,
    .stc 67, .fence 67, .farLoadData 67 none, .farStoreAccept 67 false, .farStoreComplete 67, .cmov 67] : List Instr).all (fun c => !c.wf) = true := by decide +kernel
/-- One operand out of its range. -/
theorem test_wf_refuses_5 : ([
    .csetb 67, .csetl 67, .csetbl 67, .candp 67, .cgetb 67, .cgetl 67, .cgetp 67, .cgett 67, .cseal 67, .cunseal 67, .csentry 67,
    .br 67, .blc 67, .jr 67, .cj 67, .cjo 67, .rep 67, .repi 67, .bit 67, .fld 67, .crcStep 67, .crcinit 67, .crcfin 67,
    .crcblk 67] : List Instr).all (fun c => !c.wf) = true := by decide +kernel
/-- One operand out of its range. -/
theorem test_wf_refuses_6 : ([
    .fop 67, .fdiv 67, .fsqrt 67, .fcmp 67, .fcvt 67, .tpop 67, .tpeek 67, .tpush 67, .tpopr 67, .tpushr 67, .ctxopen 67,
    .ctxcommit 67, .ctxlock 67, .ctxunlock 67, .ctxdrop 67, .dispatch 67, .lockWaitEnd 67 0, .lockWaitTimeout 67,
    .dispatchEntryReady 67, .tickwait 67, .tickwaitEdge 67, .twr 67, .trd 67, .mfs 67] : List Instr).all (fun c => !c.wf) = true := by decide +kernel
/-- One operand out of its range. -/
theorem test_wf_refuses_7 : ([
    .mts 67, .cmfs 67, .cmts 67, .eret 67 false, .sysc 67, .brk 67, .customInstruction 67, .microroutineComplete 67 0,
    .microwordRepairDone 67 false 0 false, .eventEntry 67, .eventSourcePending 1024, .pinFilterChange 208 false 0,
    .holdoffExpire 64, .mothNop 104, .mothShout 104 0, .mothShin 104 (List.replicate 32 false),
    .mothShin 103 (List.replicate 33 false), .mothEdge 104 false, .mothEdgeMet 104 false, .mothEdgeTimeout 104, .mothSample 104 0,
    .mothDrive 104, .mothToggle 104, .mothLoop 104] : List Instr).all (fun c => !c.wf) = true := by decide +kernel
/-- One operand out of its range. -/
theorem test_wf_refuses_8 : ([
    .mothCount 104, .mothCountEnd 104, .mothPinEdgeCount 104 false, .mothCapt 104, .mothFetch 104, .mothStow 104,
    .mothStallEnd 104 0, .mothJmp 104 false, .mothSet 104, .mothDelayEnd 104, .mothIllegalInstruction 104,
    .scrubTileRead 6 127 4194303 false, .scrubTileRead 5 128 4194303 false, .scrubTileRead 5 127 0x400000 false, .suspectTileRead 67 false,
    .tileRepair 6 127 4194303 (List.replicate 64 0) false, .tileRepair 5 128 4194303 (List.replicate 64 0) false,
    .tileRepair 5 127 0x400000 (List.replicate 64 0) false, .tileRepair 5 127 4194303 (List.replicate 63 0) false,
    .tileRepair 5 127 4194303 (List.replicate 65 0) false, .tileRebuild 0x20000 1 (List.replicate 64 0) false,
    .tileRebuild 131071 2 (List.replicate 64 0) false, .tileRebuild 131071 1 (List.replicate 63 0) false,
    .tileRebuild 131071 1 (List.replicate 65 0) false, .restoreDone 64 false []] : List Instr).all (fun c => !c.wf) = true := by decide +kernel
/-- One operand out of its range. -/
theorem test_wf_refuses_9 : ([
    .clusterFailDetect 8, .engineDoze 67, .napEntryDone 67, .engineWake 67, .timedWakeStart 67, .traceRecordDrain 8 false,
    .padSupplyChange 7 false, .badcmdSubmission 256 65535, .badcmdSubmission 255 65536] : List Instr).all (fun c => !c.wf) = true := by decide +kernel
/-- The last value of each range. -/
theorem test_wf_accepts_0 : ([
    .blockReset 2, .hostLowWordRead 67108863 false, .hostLowWordWrite 67108863 0, .hostHighWordWrite 67108863 0,
    .misalignedHostAccess 67108863 32 false, .unmappedHostAccess 67108863 32 false, .registerWrite 67108863 false 0,
    .clusterWorstRead 7, .listmaxRead 7, .eventClaim 7, .eventEoi 7 0, .sourceInsvcClear 1023, .sourcePendClear 1023,
    .softwareEventSet 15 0, .softwareEventClear 15 0, .sourceDisable 1023 0, .powerRequest 85 false, .domainPowerUpDone 85,
    .mothEnable 103 0, .mothDisable 103 0, .mothPcWrite 103 0, .mothImemWrite 103 31 0, .mothRestartWrite 103 0,
    .mothClockWrite 103 0] : List Instr).all (fun c => c.wf) = true := by decide +kernel
/-- The last value of each range. -/
theorem test_wf_accepts_1 : ([
    .mothInject 103 0, .mothInjectedExecute 103 0, .contextViewWrite 16777215 (List.replicate 64 0),
    .stagingBufferWrite 2097151 (List.replicate 64 0), .halt 66, .resume 66, .step 66, .lockfree 66, .debugHaltTaken 66,
    .debugDataRead 66, .debugDataWrite 66 0, .terminalTxRead 66, .terminalRxWrite 66 0, .sarernIdr 15 0,
    .sarernRd 16777215 0 false, .sarernRdc 16777215 0 false, .sarernWr 16777215 0 0, .release 65535 [] ⟨[], []⟩ ⟨[], []⟩,
    .hold 65535 [], .setProfile 65535 [], .setTick 65535 [], .retireEngine 65535 [], .restoreEngine 65535 [], .migrate 65535 []] : List Instr).all (fun c => c.wf) = true := by decide +kernel
/-- The last value of each range. -/
theorem test_wf_accepts_2 : ([
    .loadUbank 65535 [], .swapUbank 65535 [], .reloadTile 65535 [] (List.replicate 64 0) false, .remapMoth 65535 [],
    .enumerateChain 65535 [], .sealStatus 65535 [], .openSeal 65535 [], .closeSeal 65535 [], .clearCounters 65535 [],
    .readFaults 65535 [], .releaseTileCopy (List.replicate 64 0) 0,
    .mainTickEdge { ctl := [0x1FFFF], scan := [(63, 0x1FFFF)], buf0 := [511], buf1 := [511], tiles := [(4, 66, 32767)] },
    .foxSubtickEdge { ctl := [0x1FFFF], scan := [(63, 0x1FFFF)], buf0 := [511], buf1 := [511], tiles := [(4, 66, 32767)] },
    .settTickEdge [(2, 6143)] [1023], .tbiUpdate 0 [(63, 1), (66, 1)], .readFaults 4 [1] [1023], .routerCell 8 false 0, .inboundCellArrival 66 false, .gatewayCellArrival 6,
    .gatewayCellPass 6 false, .cellFrameReceive 1 0 [] 0, .enumerationOfferReceive 1 0 [] 0, .enumerationCommitReceive 1 0 [] 0,
    .ringStatusReceive 1 0 [] 0, .chainPortDown 1 false, .ringStatusSend 1] : List Instr).all (fun c => c.wf) = true := by decide +kernel
/-- The last value of each range. -/
theorem test_wf_accepts_3 : ([
    .breakClearSend 1, .laneRetrainDone 1 15, .alu 66, .aluImmediate 66, .shiftImmediate 66, .unary 66, .sat 66, .cmp 66,
    .plog 66, .getp 66, .setp 66, .mul 66, .div 66, .load 66, .store 66, .ldc 66, .stc 66, .fence 66, .farLoadData 66 none,
    .farStoreAccept 66 false, .farStoreComplete 66, .cmov 66, .csetb 66, .csetl 66] : List Instr).all (fun c => c.wf) = true := by decide +kernel
/-- The last value of each range. -/
theorem test_wf_accepts_4 : ([
    .csetbl 66, .candp 66, .cgetb 66, .cgetl 66, .cgetp 66, .cgett 66, .cseal 66, .cunseal 66, .csentry 66, .br 66, .blc 66,
    .jr 66, .cj 66, .cjo 66, .rep 66, .repi 66, .bit 66, .fld 66, .crcStep 66, .crcinit 66, .crcfin 66, .crcblk 66, .fop 66,
    .fdiv 66] : List Instr).all (fun c => c.wf) = true := by decide +kernel
/-- The last value of each range. -/
theorem test_wf_accepts_5 : ([
    .fsqrt 66, .fcmp 66, .fcvt 66, .tpop 66, .tpeek 66, .tpush 66, .tpopr 66, .tpushr 66, .ctxopen 66, .ctxcommit 66, .ctxlock 66,
    .ctxunlock 66, .ctxdrop 66, .dispatch 66, .lockWaitEnd 66 0, .lockWaitTimeout 66, .dispatchEntryReady 66, .tickwait 66,
    .tickwaitEdge 66, .twr 66, .trd 66, .mfs 66, .mts 66, .cmfs 66] : List Instr).all (fun c => c.wf) = true := by decide +kernel
/-- The last value of each range. -/
theorem test_wf_accepts_6 : ([
    .cmts 66, .eret 66 false, .sysc 66, .brk 66, .customInstruction 66, .microroutineComplete 66 0,
    .microwordRepairDone 66 false 0 false, .eventEntry 66, .eventSourcePending 1023, .pinFilterChange 207 false 0,
    .holdoffExpire 63, .mothNop 103, .mothShout 103 0, .mothShin 103 (List.replicate 32 false), .mothEdge 103 false,
    .mothEdgeMet 103 false, .mothEdgeTimeout 103, .mothSample 103 0, .mothDrive 103, .mothToggle 103, .mothLoop 103,
    .mothCount 103, .mothCountEnd 103, .mothPinEdgeCount 103 false] : List Instr).all (fun c => c.wf) = true := by decide +kernel
/-- The last value of each range. -/
theorem test_wf_accepts_7 : ([
    .mothCapt 103, .mothFetch 103, .mothStow 103, .mothStallEnd 103 0, .mothJmp 103 false, .mothSet 103, .mothDelayEnd 103,
    .mothIllegalInstruction 103, .scrubTileRead 5 127 4194303 false, .suspectTileRead 66 false,
    .tileRepair 5 127 4194303 (List.replicate 64 0) false, .tileRebuild 131071 1 (List.replicate 64 0) false,
    .restoreDone 63 false [], .clusterFailDetect 7, .engineDoze 66, .napEntryDone 66, .engineWake 66, .timedWakeStart 66,
    .traceRecordDrain 7 false, .padSupplyChange 6 false, .badcmdSubmission 255 65535] : List Instr).all (fun c => c.wf) = true := by decide +kernel
end Sys2Proof.Tests
end

/-! The host's commands to a moth (R353, R368 to R371): what each of them leaves of the moth, and that it reaches no other moth. -/

section

namespace Sys2Proof.Machine

/-! Reads of the moths after an update of the state. -/

theorem mothGet_mothSet_other (s : State) {m q : Nat} (h : q ≠ m) (v : Moth) : mothGet (mothSet s m v) q = mothGet s q :=
  tblGet_tblSet_other _ h _ _

@[simp] theorem mothGet_mothMap (s : State) (m : Nat) (f : Moth → Moth) : mothGet (mothMap s m f) m = f (mothGet s m) :=
  mothGet_mothSet s m _

theorem mothGet_mothMap_other (s : State) {m q : Nat} (h : q ≠ m) (f : Moth → Moth) :
    mothGet (mothMap s m f) q = mothGet s q :=
  mothGet_mothSet_other s h _

@[simp] theorem mothGet_cntAdd (s : State) (a k m : Nat) : mothGet (cntAdd s a k) m = mothGet s m := rfl

theorem mothMap_eq_with_field (s : State) (m : Nat) (f : Moth → Moth) :
    mothMap s m f = { s with field := (mothMap s m f).field } := rfl

/-! A gateway with no immediate words (R365). -/

/-- The round robin of a gateway goes over moths of its own bank. -/
theorem round_robin_mem_mothsOf (b r i : Nat) : 16 * b + (r + i) % (mothsOf b).length ∈ mothsOf b := by
  have hpos : 0 < (mothsOf b).length := by
    unfold mothsOf; split <;> simp
  have hlt := Nat.mod_lt (r + i) hpos
  simpa [mothsOf] using hlt

theorem gwServe_eq_self_of_no_imode (s : State) (b : Nat) (h : ∀ q ∈ mothsOf b, (mothGet s q).imode = false) :
    gwServe s b = s := by
  have hfind : (((List.range (mothsOf b).length).map
      (fun i => 16 * b + (tblGet 0 b s.field.gwRot + i) % (mothsOf b).length)).find?
      (fun m => (mothGet s m).imode && !(mothGet s m).qin.isEmpty)) = none := by
    rw [List.find?_eq_none]
    intro q hq
    obtain ⟨i, -, rfl⟩ := List.mem_map.mp hq
    simp [h _ (round_robin_mem_mothsOf b _ i)]
  unfold gwServe
  simp only [hfind]

theorem forNats_gwServe_eq_self_of_no_imode (l : List Nat) (s : State) (b : Nat)
    (h : ∀ q ∈ mothsOf b, (mothGet s q).imode = false) : forNats l (fun z _ => gwServe z b) s = s := by
  unfold forNats
  induction l with
  | nil => rfl
  | cons a l ih => rw [List.foldl_cons, gwServe_eq_self_of_no_imode s b h, ih]

/-! The parts of an enable (R363, R368, R370). -/

/-- A change of the queue modes sets IMODE and touches nothing that an enable applies or keeps. -/
theorem mothModes_sets_imode_keeps (mo : Moth) (v : Word) :
    (mothModes mo v).imode = bitAt v 26 ∧ (mothModes mo v).edrv = mo.edrv ∧ (mothModes mo v).esamp = mo.esamp ∧
    (mothModes mo v).restart = mo.restart ∧ (mothModes mo v).wait = mo.wait ∧ (mothModes mo v).pc = mo.pc := by
  unfold mothModes
  generalize (if field v 30 29 = 3 then mo.qmode else field v 30 29) = q
  dsimp only
  split <;> exact ⟨rfl, rfl, rfl, rfl, rfl, rfl⟩

theorem mothRestart_keeps (mo : Moth) (r : Bool × Bool) :
    (mothRestart mo r).imode = mo.imode ∧ (mothRestart mo r).edrv = mo.edrv ∧ (mothRestart mo r).esamp = mo.esamp := by
  unfold mothRestart
  cases r.1 <;> cases r.2 <;> exact ⟨rfl, rfl, rfl⟩

theorem mothRestart_pc (mo : Moth) (r : Bool × Bool) : (mothRestart mo r).pc = if r.1 then 0 else mo.pc := by
  unfold mothRestart
  cases r.1 <;> cases r.2 <;> rfl

theorem mothRestart_wait (mo : Moth) (r : Bool × Bool) : (mothRestart mo r).wait = if r.1 then .none else mo.wait := by
  unfold mothRestart
  cases r.1 <;> cases r.2 <;> rfl

@[simp] theorem mothEnableNow_en (mo : Moth) : (mothEnableNow mo).en = true := rfl

@[simp] theorem mothEnableNow_ill (mo : Moth) : (mothEnableNow mo).ill = false := rfl

@[simp] theorem mothEnableNow_restart (mo : Moth) : (mothEnableNow mo).restart = none := by
  unfold mothEnableNow
  cases h : mo.restart with
  | none => dsimp only; split <;> exact h
  | some r => dsimp only; split <;> rfl

theorem mothEnableNow_keeps (mo : Moth) :
    (mothEnableNow mo).imode = mo.imode ∧ (mothEnableNow mo).edrv = mo.edrv ∧ (mothEnableNow mo).esamp = mo.esamp := by
  unfold mothEnableNow
  cases mo.restart with
  | none => dsimp only; split <;> exact ⟨rfl, rfl, rfl⟩
  | some r => dsimp only; split <;> exact mothRestart_keeps mo r

/-- PC after an enable: 0 by a pending RESTART, which also ends a wait; else it advances past an EDGE or COUNT that was over. -/
theorem mothEnableNow_pc (mo : Moth) :
    (mothEnableNow mo).pc = if mo.restart.isSome && (mo.restart.getD (false, false)).1 then 0
      else if mo.wait = .ended then (mo.pc + 1) % 32 else mo.pc := by
  unfold mothEnableNow
  cases mo.restart with
  | none => by_cases hw : mo.wait = .ended <;> simp [hw, mothEnd]
  | some r =>
    cases hr : r.1 with
    | true => simp [mothRestart_pc, mothRestart_wait, hr]
    | false => by_cases hw : mo.wait = .ended <;> simp [mothRestart_pc, mothRestart_wait, hr, hw, mothEnd]

/-! A write of CTL (R368). -/

/-- EDRV and ESAMP as every write of CTL leaves them. -/
def mothEdgeBits (mo : Moth) (v : Word) : Moth := { mo with edrv := bitAt v 28, esamp := bitAt v 27 }

/-- What a write of CTL with EN = 1 makes of a disabled moth. -/
def mothEnabledBy (mo : Moth) (v : Word) : Moth := mothEnableNow (mothModes (mothEdgeBits mo v) v)

theorem mothEnabledBy_imode (mo : Moth) (v : Word) : (mothEnabledBy mo v).imode = bitAt v 26 := by
  obtain ⟨himode, -, -⟩ := mothEnableNow_keeps (mothModes (mothEdgeBits mo v) v)
  obtain ⟨hmodes, -⟩ := mothModes_sets_imode_keeps (mothEdgeBits mo v) v
  exact himode.trans hmodes

theorem mothEnabledBy_edge_bits (mo : Moth) (v : Word) :
    (mothEnabledBy mo v).edrv = bitAt v 28 ∧ (mothEnabledBy mo v).esamp = bitAt v 27 := by
  obtain ⟨-, hedrv, hesamp⟩ := mothEnableNow_keeps (mothModes (mothEdgeBits mo v) v)
  obtain ⟨-, hmodesDrv, hmodesSamp, -⟩ := mothModes_sets_imode_keeps (mothEdgeBits mo v) v
  exact ⟨hedrv.trans hmodesDrv, hesamp.trans hmodesSamp⟩

theorem mothEnabledBy_pc (mo : Moth) (v : Word) :
    (mothEnabledBy mo v).pc = if mo.restart.isSome && (mo.restart.getD (false, false)).1 then 0
      else if mo.wait = .ended then (mo.pc + 1) % 32 else mo.pc := by
  obtain ⟨-, -, -, hrestart, hwait, hpc⟩ := mothModes_sets_imode_keeps (mothEdgeBits mo v) v
  rw [mothEnabledBy, mothEnableNow_pc, hrestart, hwait, hpc]
  rfl

/-- With no immediate words in its bank, the enable of a disabled moth writes that moth alone. -/
theorem mothCtlWrite_enable (s : State) (m : Nat) (v : Word) (hv : bitAt v 31 = true) (hen : (mothGet s m).en = false)
    (hbank : ∀ q ∈ mothsOf (bankOf m), (mothGet s q).imode = false) (himode : bitAt v 26 = false) :
    mothCtlWrite s m v = mothSet s m (mothEnabledBy (mothGet s m) v) := by
  have hquiet : ∀ q ∈ mothsOf (bankOf m), (mothGet (mothSet s m (mothEnabledBy (mothGet s m) v)) q).imode = false := by
    intro q hq
    by_cases hqm : q = m
    · subst hqm
      rw [mothGet_mothSet, mothEnabledBy_imode, himode]
    · rw [mothGet_mothSet_other s hqm, hbank q hq]
  have hwrite : mothCtlWrite s m v = forNats (List.range 8) (fun z _ => gwServe z (bankOf m))
      (mothSet s m (mothEnabledBy (mothGet s m) v)) := by
    unfold mothCtlWrite mothEnabledBy mothEdgeBits
    dsimp only
    rw [if_neg (Bool.eq_false_iff.mp hen), if_pos hv]
  exact hwrite.trans (forNats_gwServe_eq_self_of_no_imode _ _ _ hquiet)

/-- A write of CTL to an enabled moth writes EN, EDRV and ESAMP of that moth, and counts an ignored change of a mode. -/
theorem mothCtlWrite_enabled (s : State) (m : Nat) (v : Word) (hen : (mothGet s m).en = true) :
    let t := mothSet s m { mothGet s m with en := bitAt v 31, edrv := bitAt v 28, esamp := bitAt v 27 }
    mothCtlWrite s m v = t ∨ mothCtlWrite s m v = cntAdd t (mthAdr m 0x30) 1 := by
  unfold mothCtlWrite
  simp only [hen, if_true]
  split
  · exact .inr rfl
  · exact .inl rfl

/-! Host writes to a moth's other registers, with EN = 0 and with EN = 1 (R368, R369). -/

theorem mothHostWrite_of_powered (s : State) {m : Nat} (hm : m < 96) (hdom : domStat s (bankDom (bankOf m)) = 1) (t : State) :
    mothHostWrite s m t = t :=
  if_pos ⟨hm, hdom⟩

theorem mothOffWrite_of_enabled (s : State) (m : Nat) (f : Moth → Moth) (hen : (mothGet s m).en = true) :
    mothOffWrite s m f = cntAdd s (mthAdr m 0x30) 1 :=
  if_pos hen

theorem mothOffWrite_of_disabled (s : State) (m : Nat) (f : Moth → Moth) (hen : (mothGet s m).en = false) :
    mothOffWrite s m f = mothMap s m f := by
  simp [mothOffWrite, hen]

theorem mothImemPut_of_enabled (s : State) (m i : Nat) (v : Word) (hen : (mothGet s m).en = true) :
    mothImemPut s m i v = cntAdd s (mthAdr m 0x2C) 1 :=
  if_pos hen

theorem mothImemPut_of_disabled (s : State) (m i : Nat) (v : Word) (hen : (mothGet s m).en = false) :
    mothImemPut s m i v = mothMap s m (fun mo => { mo with imem := tblSet 0 i (v.setWidth 24) mo.imem }) := by
  simp [mothImemPut, hen]

theorem mothPcNew_pc (mo : Moth) (v : Word) : (mothPcNew mo v).pc = field v 4 0 := by
  unfold mothPcNew
  cases mo.injWait <;> rfl

theorem mothPcNew_acc (mo : Moth) (v : Word) : (mothPcNew mo v).acc = mo.acc := by
  unfold mothPcNew
  cases mo.injWait <;> rfl

/-! What each command comes to for a moth of a powered bank of the field. -/

section
variable {s : State} {m : Nat} (hm : m < 96) (hdom : domStat s (bankDom (bankOf m)) = 1)
include hm hdom

theorem exec_mothEnable_of_powered (v : Word) (hv : bitAt v 31 = true) :
    exec (.mothEnable m v) s = .next (mothCtlWrite s m v) :=
  if_pos ⟨hm, hv, hdom⟩

theorem exec_mothDisable_of_powered (v : Word) (hv : bitAt v 31 = false) :
    exec (.mothDisable m v) s = .next (mothCtlWrite s m v) :=
  if_pos ⟨hm, hv, hdom⟩

theorem exec_mothPcWrite_of_powered (v : Word) :
    exec (.mothPcWrite m v) s = .next (mothOffWrite s m (fun mo => mothPcNew mo v)) :=
  congrArg Host.Outcome.next (mothHostWrite_of_powered s hm hdom _)

theorem exec_mothImemWrite_of_powered {i : Nat} (hi : i < 32) (v : Word) :
    exec (.mothImemWrite m i v) s = .next (mothImemPut s m i v) :=
  (if_pos hi).trans (congrArg Host.Outcome.next (mothHostWrite_of_powered s hm hdom _))

theorem exec_mothRestartWrite_of_powered (v : Word) :
    exec (.mothRestartWrite m v) s = .next (mothRestartPut s m v) :=
  congrArg Host.Outcome.next (mothHostWrite_of_powered s hm hdom _)

theorem exec_mothClockWrite_of_powered (v : Word) :
    exec (.mothClockWrite m v) s = .next (mothMap s m (fun mo => mothClkNew mo v)) :=
  congrArg Host.Outcome.next (mothHostWrite_of_powered s hm hdom _)

theorem exec_mothInject_of_powered (v : Word) : exec (.mothInject m v) s = .next (mothInjPut s m v) :=
  congrArg Host.Outcome.next (mothHostWrite_of_powered s hm hdom _)

/-- An ignored change of QMODE or IMODE is counted, so the counters may differ too. -/
theorem exec_mothDisable_of_enabled (v : Word) (hv : bitAt v 31 = false) (hen : (mothGet s m).en = true) :
    ∃ t, exec (.mothDisable m v) s = .next t ∧
      mothGet t m = { mothGet s m with en := false, edrv := bitAt v 28, esamp := bitAt v 27 } ∧
      (∀ q, q ≠ m → mothGet t q = mothGet s q) ∧ t = { s with field := t.field, cnt := t.cnt } := by
  refine ⟨mothCtlWrite s m v, exec_mothDisable_of_powered hm hdom v hv, ?_⟩
  obtain ht | ht := mothCtlWrite_enabled s m v hen <;> rw [ht, hv] <;>
    exact ⟨mothGet_mothSet _ _ _, fun q hq => mothGet_mothSet_other s hq _, rfl⟩

theorem exec_mothPcWrite_of_disabled (v : Word) (hen : (mothGet s m).en = false) :
    ∃ t, exec (.mothPcWrite m v) s = .next t ∧ (mothGet t m).pc = field v 4 0 ∧ (mothGet t m).acc = (mothGet s m).acc ∧
      (∀ q, q ≠ m → mothGet t q = mothGet s q) ∧ t = { s with field := t.field } := by
  refine ⟨mothMap s m (fun mo => mothPcNew mo v), ?_, ?_, ?_, fun q hq => mothGet_mothMap_other s hq _,
    mothMap_eq_with_field s m _⟩
  · rw [exec_mothPcWrite_of_powered hm hdom, mothOffWrite_of_disabled s m _ hen]
  · rw [mothGet_mothMap, mothPcNew_pc]
  · rw [mothGet_mothMap, mothPcNew_acc]

theorem exec_mothImemWrite_of_disabled (v : Word) (hen : (mothGet s m).en = false) {i : Nat} (hi : i < 32) :
    ∃ t, exec (.mothImemWrite m i v) s = .next t ∧ tblGet 0 i (mothGet t m).imem = v.setWidth 24 ∧
      (∀ j, j ≠ i → tblGet 0 j (mothGet t m).imem = tblGet 0 j (mothGet s m).imem) ∧ (mothGet t m).pc = (mothGet s m).pc ∧
      (∀ q, q ≠ m → mothGet t q = mothGet s q) ∧ t = { s with field := t.field } := by
  refine ⟨mothImemPut s m i v, exec_mothImemWrite_of_powered hm hdom hi v, ?_⟩
  rw [mothImemPut_of_disabled s m i v hen, mothGet_mothMap]
  exact ⟨tblGet_tblSet_self _ _ _ _, fun j hj => tblGet_tblSet_other _ hj _ _, rfl,
    fun q hq => mothGet_mothMap_other s hq _, mothMap_eq_with_field s m _⟩

end

/-- Settles O48: with the bank powered each command comes to a write of the one moth, or to one count, as EN says. -/
theorem mothHostCommands : Obligations.MothHostCommands := by
  intro s m v hm hdom
  refine ⟨?enable, exec_mothDisable_of_enabled hm hdom v, ?disabled, ?enabled, ?clock, ?inject, ?injectAgain⟩
  case enable =>
    intro hv hen hbank himode
    refine ⟨mothSet s m (mothEnabledBy (mothGet s m) v), ?_, ?_⟩
    · rw [exec_mothEnable_of_powered hm hdom v hv, mothCtlWrite_enable s m v hv hen hbank himode]
    · rw [mothGet_mothSet]
      obtain ⟨hedrv, hesamp⟩ := mothEnabledBy_edge_bits (mothGet s m) v
      exact ⟨mothEnableNow_en _, mothEnableNow_ill _, mothEnableNow_restart _, hedrv, hesamp, mothEnabledBy_pc _ _,
        fun q hq => mothGet_mothSet_other s hq _⟩
  case disabled =>
    intro hen
    refine ⟨exec_mothPcWrite_of_disabled hm hdom v hen, fun i hi => exec_mothImemWrite_of_disabled hm hdom v hen hi, ?_⟩
    rw [exec_mothRestartWrite_of_powered hm hdom, mothRestartPut, mothOffWrite_of_disabled s m _ hen, mothMap]
  case enabled =>
    intro hen
    refine ⟨?_, fun i hi => ?_, ?_⟩
    · rw [exec_mothPcWrite_of_powered hm hdom, mothOffWrite_of_enabled s m _ hen]
    · rw [exec_mothImemWrite_of_powered hm hdom hi, mothImemPut_of_enabled s m i v hen]
    · rw [exec_mothRestartWrite_of_powered hm hdom, mothRestartPut, mothOffWrite_of_enabled s m _ hen]
  case clock => exact exec_mothClockWrite_of_powered hm hdom v
  case inject =>
    intro hinj
    simp [exec_mothInject_of_powered hm hdom, mothInjPut, hinj, mothMap]
  case injectAgain =>
    intro hinj
    simp [exec_mothInject_of_powered hm hdom, mothInjPut, hinj]

end Sys2Proof.Machine

end

/-! The host's power requests and the end of a power-up (R454, R455, R457): what each leaves of the power domains, and what a domain
holds after it. -/

section

namespace Sys2Proof.Machine

/-! The service record, with the states of the domains in it, is left alone by all that a domain's contents can reach. -/

theorem domStat_congr {s t : State} (h : t.svc = s.svc) (d : Nat) : domStat t d = domStat s d :=
  congrArg (fun v : Svc => tblGet 1 d v.dom) h

theorem forNats_svc (l : List Nat) (f : State → Nat → State) (s : State) (h : ∀ z n, (f z n).svc = z.svc) :
    (forNats l f s).svc = s.svc := by
  unfold forNats
  induction l generalizing s with
  | nil => rfl
  | cons a l ih => rw [List.foldl_cons, ih, h]

theorem forNats_wakeEng_svc (l : List Nat) (s : State) : (forNats l wakeEng s).svc = s.svc :=
  forNats_svc l wakeEng s fun _ _ => rfl

@[simp] theorem hubWake_svc (s : State) (x : Nat) : (hubWake s x).svc = s.svc := by
  unfold hubWake
  split
  · refine forNats_svc _ _ s fun z t => ?_
    split
    · exact forNats_wakeEng_svc _ z
    · rfl
  · rfl

@[simp] theorem srcPendNow_svc (s : State) (x : Nat) : (srcPendNow s x).svc = s.svc := by
  simp [srcPendNow, srcSet, apply_ite State.svc]

@[simp] theorem srcOff_svc (s : State) (x : Nat) : (srcOff s x).svc = s.svc := by
  simp [srcOff, srcWithdraw, srcSet, apply_ite State.svc]

@[simp] theorem srcSample_svc (s : State) (x : Nat) (v : Bool) : (srcSample s x v).svc = s.svc := by
  simp [srcSample, srcSet, apply_ite State.svc]

@[simp] theorem pulse_svc (s : State) (x : Nat) : (pulse s x).svc = s.svc := by
  simp [pulse]

@[simp] theorem portSet_svc (s : State) (p : Nat) (x : Port) : (portSet s p x).svc = s.svc := by
  unfold portSet
  split <;> rfl

@[simp] theorem breakPut_svc (s : State) (valid : Bool) (u : Nat) : (breakPut s valid u).svc = s.svc := by
  simp [breakPut, apply_ite State.svc]

@[simp] theorem statusSend_svc (s : State) (p : Nat) (valid : Bool) (u : Nat) : (statusSend s p valid u).svc = s.svc := by
  simp [statusSend, frameSend, apply_ite State.svc]

@[simp] theorem portDown_svc (s : State) (p : Nat) : (portDown s p).svc = s.svc := by
  unfold portDown
  dsimp only
  split
  · rw [statusSend_svc]
    split <;> simp
  · rfl

@[simp] theorem portOff_svc (s : State) (p : Nat) : (portOff s p).svc = s.svc := by
  simp [portOff]

@[simp] theorem winReset_svc (s : State) (lo hi : Nat) : (winReset s lo hi).svc = s.svc := rfl

@[simp] theorem tilesClean_svc (s : State) (cls inst : Nat) : (tilesClean s cls inst).svc = s.svc := by
  unfold tilesClean
  split <;> rfl

@[simp] theorem tilesClean_eng (s : State) (cls inst : Nat) : (tilesClean s cls inst).eng = s.eng := by
  unfold tilesClean
  split <;> rfl

@[simp] theorem bankReset_svc (s : State) (b : Nat) (cfg : Bool) : (bankReset s b cfg).svc = s.svc := rfl

theorem forNats_queuesClear_svc (l : List Nat) (s : State) : (forNats l queuesClear s).svc = s.svc :=
  forNats_svc l queuesClear s fun _ _ => rfl

/-- The contents of a domain are lost or cleared apart from the states of the domains. -/
@[simp] theorem domClear_svc (s : State) (d : Nat) : (domClear s d).svc = s.svc := by
  unfold domClear
  dsimp only
  split_ifs <;> simp [forNats_queuesClear_svc]

/-! The state of one domain changed. -/

theorem domStat_domSet_other (s : State) {c d : Nat} (h : c ≠ d) (v : Nat) : domStat (domSet s d v) c = domStat s c :=
  tblGet_tblSet_other _ h _ _

@[simp] theorem domStat_domOff (s : State) (d : Nat) : domStat (domOff s d) d = 0 := domStat_domSet _ d 0

theorem domStat_domOff_other (s : State) {c d : Nat} (h : c ≠ d) : domStat (domOff s d) c = domStat s c :=
  (domStat_domSet_other _ h 0).trans (domStat_congr (domClear_svc s d) c)

@[simp] theorem domStat_offKeep (s : State) (n d : Nat) : domStat (offKeep s n) d = domStat s d := rfl

/-- What a power-up does beyond the state of its domain lies with the engines and the Sett. -/
theorem domOn_svc (s : State) (d : Nat) : (domOn s d).svc = (offKeep (domSet (domClear s d) d 1) d).svc := by
  unfold domOn
  generalize offKeep (domSet (domClear s d) d 1) d = z
  dsimp only
  split_ifs <;> rfl

@[simp] theorem domStat_domOn (s : State) (d : Nat) : domStat (domOn s d) d = 1 := by
  rw [domStat_congr (domOn_svc s d), domStat_offKeep, domStat_domSet]

theorem domStat_domOn_other (s : State) {c d : Nat} (h : c ≠ d) : domStat (domOn s d) c = domStat s c := by
  rw [domStat_congr (domOn_svc s d), domStat_offKeep, domStat_domSet_other _ h, domStat_congr (domClear_svc s d)]

theorem domStat_hostDomOff (s : State) (d : Nat) : domStat (hostDomOff s d) d = 0 := by
  unfold hostDomOff
  split_ifs with hoff
  · exact hoff
  · exact domStat_domOff _ d
  · exact domStat_domOff s d
  · exact domStat_domOff s d

theorem domStat_hostDomOff_other (s : State) {c d : Nat} (h : c ≠ d) : domStat (hostDomOff s d) c = domStat s c := by
  unfold hostDomOff
  split_ifs
  · rfl
  · exact (domStat_domOff_other _ h).trans (domStat_congr (portOff_svc s (d - 81)) c)
  · exact domStat_domOff_other s h
  · exact domStat_domOff_other s h

/-- Outside the chain ports and the Sett, a domain that is on only loses its contents. -/
theorem hostDomOff_eq_domOff (s : State) {d : Nat} (hon : domStat s d ≠ 0) (hport : ¬ (d = 81 ∨ d = 82)) (hsett : d ≠ 78) :
    hostDomOff s d = domOff s d := by
  rw [hostDomOff, if_neg hon, if_neg hport, if_neg hsett]

/-! What a domain holds once it is cleared (R455, Table 17.1). -/

theorem tblGet_filter_key {α : Type} (a : α) (p : Nat → Bool) (j : Nat) (t : Tbl α) :
    tblGet a j (t.filter (fun q => p q.1)) = if p j then tblGet a j t else a := by
  induction t with
  | nil => simp [tblGet]
  | cons q t ih =>
    obtain ⟨k, x⟩ := q
    by_cases hk : k = j
    · subst hk
      cases hp : p k <;> simp [hp, tblGet, ih]
    · cases hp : p k <;> simp [hp, tblGet, ih, hk]

theorem gwGet_bankReset (s : State) (b : Nat) (cfg : Bool) : gwGet (bankReset s b cfg) b = [] :=
  tblGet_tblSet_self [] b [] s.field.gwq

theorem bankOf_eq_iff (b m : Nat) : bankOf m = b ↔ 16 * b ≤ m ∧ m < 16 * b + 16 := by
  unfold bankOf; omega

theorem mothGet_bankReset (s : State) {b : Nat} (hb : b < 6) (cfg : Bool) (m : Nat) :
    mothGet (bankReset s b cfg) m = if bankOf m = b then {} else mothGet s m := by
  have hkeep : mothGet (bankReset s b cfg) m = if m < 16 * b ∨ 16 * b + 16 ≤ m then mothGet s m else {} := by
    have := tblGet_filter_key ({} : Moth) (fun k => decide (k < 16 * b ∨ 16 * b + 16 ≤ k)) m s.field.moth
    simpa [mothGet, bankReset, regPut, hb] using this
  rw [hkeep]
  by_cases hm : bankOf m = b
  · have := (bankOf_eq_iff b m).mp hm
    rw [if_pos hm, if_neg (by omega)]
  · have := mt (bankOf_eq_iff b m).mpr hm
    rw [if_neg hm, if_pos (by omega)]

theorem domClear_bank (s : State) {b : Nat} (hb : b < 6) :
    domClear s (72 + b) = winReset (bankReset s b false) (mbkAdr b 0) (mbkAdr b 0x3FFF) := by
  simp [domClear, show ¬ 72 + b < 64 by omega, show 72 + b < 78 by omega]

/-- The frame of a moth bank switched off: the other moths, the engines and the context store are as they were. -/
theorem domOff_bank (s : State) {b : Nat} (hb : b < 6) :
    gwGet (domOff s (72 + b)) b = [] ∧ (domOff s (72 + b)).eng = s.eng ∧ (domOff s (72 + b)).store = s.store ∧
      ∀ m, mothGet (domOff s (72 + b)) m = if bankOf m = b then {} else mothGet s m := by
  rw [domOff, domClear_bank s hb]
  exact ⟨gwGet_bankReset s b false, rfl, rfl, fun m => mothGet_bankReset s hb false m⟩

theorem domOff_hub (s : State) : (domOff s 83).hub = {} ∧ (domOff s 83).eng = s.eng := ⟨rfl, rfl⟩

theorem domOff_staging (s : State) : (domOff s 85).mem.staging = [] ∧ (domOff s 85).eng = s.eng := ⟨rfl, rfl⟩

theorem engGet_domClear_engine (s : State) {n : Nat} (hn : n < 64) :
    (engGet (domClear s n) n).inq = [] ∧ (engGet (domClear s n) n).imem = [] ∧ (engGet (domClear s n) n).run = .stopped := by
  simp [domClear, hn, engGet, engSet]

@[simp] theorem engGet_offKeep (s : State) (n m : Nat) : engGet (offKeep s n) m = engGet s m := rfl

@[simp] theorem engGet_domSet (s : State) (d v m : Nat) : engGet (domSet s d v) m = engGet s m := rfl

theorem engGet_domOn_engine (s : State) {n : Nat} (hn : n < 64) :
    engGet (domOn s n) n = { engGet (domClear s n) n with pstate := .run } := by
  rw [domOn, if_pos hn, engGet_engMap, engGet_offKeep, engGet_domSet]

/-! PWR.DOM[d].REQ (Table 17.6), and what Table 17.2 says of a moth bank. -/

/-- The domains that the host has asked off, as PWR.DOM[d].REQ shows them, replaced. -/
def reqOffSet (s : State) (l : List Nat) : State := { s with svc := { s.svc with reqOff := l } }

@[simp] theorem domStat_reqOffSet (s : State) (l : List Nat) (d : Nat) : domStat (reqOffSet s l) d = domStat s d := rfl

theorem hasNat_addNat_self (k : Nat) (l : List Nat) : hasNat k (addNat k l) = true := by
  induction l with
  | nil => simp [addNat, hasNat]
  | cons a l ih =>
    simp only [addNat]
    split_ifs with heq hlt
    · simp [hasNat, heq]
    · simp [hasNat]
    · simpa [hasNat, Ne.symm heq] using ih

theorem hasNat_delNat_self (k : Nat) (l : List Nat) : hasNat k (delNat k l) = false := by
  simp [hasNat, delNat]

theorem domOff_reqOff (s : State) (d : Nat) : (domOff s d).svc.reqOff = s.svc.reqOff := by
  rw [← domClear_svc s d]
  rfl

/-- A bank with no moth enabled may go off (Table 17.2). -/
theorem domOffAllowed_bank {s : State} {b : Nat} (hb : b < 6) (hen : ∀ m, m ∈ mothsOf b → (mothGet s m).en = false) :
    domOffAllowed s (72 + b) = true := by
  simpa [domOffAllowed, show 72 + b < 78 by omega] using hen

theorem domHost_bank {b : Nat} (hb : b < 6) : domHost (72 + b) = true := by
  simp [domHost, show 72 + b < 80 by omega]

/-! What the two commands come to. -/

theorem powerWrite_on_of_off {s : State} {d : Nat} (hhost : domHost d = true) (hoff : domStat s d = 0) :
    powerWrite s d true = domSet (reqOffSet s (delNat d s.svc.reqOff)) d 2 := by
  rw [powerWrite, hhost]
  exact if_pos hoff

theorem powerWrite_off_of_not_allowed {s : State} {d : Nat} (hhost : domHost d = true) (hno : domOffAllowed s d = false) :
    powerWrite s d false = cntAdd s 0x80004 1 := by
  rw [powerWrite, hhost, hno]
  rfl

theorem powerWrite_off_of_allowed {s : State} {d : Nat} (hhost : domHost d = true) (hyes : domOffAllowed s d = true) :
    powerWrite s d false = hostDomOff (reqOffSet s (addNat d s.svc.reqOff)) d := by
  rw [powerWrite, hhost, hyes]
  rfl

theorem exec_powerRequest_of_up {s : State} {d : Nat} (hup : hostUp s = true) (hd : d < 86) (on : Bool) :
    exec (.powerRequest d on) s = .next (powerWrite s d on) :=
  if_pos ⟨hd, hup⟩

/-- Outside the chain ports and the Sett, a request that Table 17.2 allows is noted and its domain, if it is on, only loses its
contents. -/
theorem exec_powerRequest_off_eq_domOff {s : State} {d : Nat} (hup : hostUp s = true) (hd : d < 86) (hhost : domHost d = true)
    (hyes : domOffAllowed s d = true) (hon : domStat s d = 1) (hport : ¬ (d = 81 ∨ d = 82)) (hsett : d ≠ 78) :
    exec (.powerRequest d false) s = .next (domOff (reqOffSet s (addNat d s.svc.reqOff)) d) := by
  rw [exec_powerRequest_of_up hup hd, powerWrite_off_of_allowed hhost hyes, hostDomOff_eq_domOff _ _ hport hsett]
  simp [hon]

/-- The end of a power-up: beyond the cleared domain that is on, only a chain port begins to train (R87). -/
theorem exec_domainPowerUpDone_of_powering {s : State} {d : Nat} (hd : d < 86) (hup : domStat s d = 2) :
    ∃ t, exec (.domainPowerUpDone d) s = .next t ∧ t.svc = (domOn s d).svc ∧ (d < 64 → t = domOn s d) := by
  have hexec : exec (.domainPowerUpDone d) s = _ := if_pos ⟨hd, hup⟩
  rw [hexec]
  dsimp only
  split_ifs with hport
  · exact ⟨_, rfl, portSet_svc _ _ _, fun hn => by omega⟩
  · exact ⟨_, rfl, rfl, fun _ => rfl⟩

/-- Settles O41: every clause is the one equation for what its command comes to, and then what that operation leaves of the domains
and clears. -/
theorem powerDomainRequests : Obligations.PowerDomainRequests := by
  intro s
  refine ⟨?on, ?ignored, ?off, ?bank, ?hub, ?staging, ?done⟩
  case on =>
    intro d hup hd hhost hoff
    rw [exec_powerRequest_of_up hup hd, powerWrite_on_of_off hhost hoff]
    exact ⟨_, rfl, domStat_domSet _ d 2, hasNat_delNat_self d _, fun c hc => domStat_domSet_other _ hc 2, rfl⟩
  case ignored =>
    intro d hup hd hhost hno
    rw [exec_powerRequest_of_up hup hd, powerWrite_off_of_not_allowed hhost hno]
  case off =>
    intro d hup hd hhost hyes
    rw [exec_powerRequest_of_up hup hd, powerWrite_off_of_allowed hhost hyes]
    exact ⟨_, rfl, domStat_hostDomOff _ d, fun c hc => domStat_hostDomOff_other _ hc⟩
  case bank =>
    intro b hup hb hon hen
    rw [exec_powerRequest_off_eq_domOff hup (by omega) (domHost_bank hb) (domOffAllowed_bank hb hen) hon (by omega) (by omega)]
    refine ⟨_, rfl, domStat_domOff _ _, ?_, fun c hc => domStat_domOff_other _ hc, domOff_bank _ hb⟩
    rw [domOff_reqOff]
    exact hasNat_addNat_self (72 + b) s.svc.reqOff
  case hub =>
    intro hup hon hen
    have hyes : domOffAllowed s 83 = true := by simp [domOffAllowed, hen]
    rw [exec_powerRequest_off_eq_domOff hup (by decide) (by decide) hyes (by simpa [hubUp] using hon) (by decide) (by decide)]
    exact ⟨_, rfl, domStat_domOff _ 83, domOff_hub _⟩
  case staging =>
    intro hup hon hyes
    rw [exec_powerRequest_off_eq_domOff hup (by decide) (by decide) hyes hon (by decide) (by decide)]
    exact ⟨_, rfl, domStat_domOff _ 85, domOff_staging _⟩
  case done =>
    intro d hd hpow
    obtain ⟨t, hexec, hsvc, heng⟩ := exec_domainPowerUpDone_of_powering hd hpow
    refine ⟨t, hexec, (domStat_congr hsvc d).trans (domStat_domOn s d),
      fun c hc => (domStat_congr hsvc c).trans (domStat_domOn_other s hc), fun hn => ?_⟩
    rw [heng hn, engGet_domOn_engine s hn]
    exact ⟨rfl, engGet_domClear_engine s hn⟩

end Sys2Proof.Machine

end

/-! The queue of waiting commands and the debug lock (R474 to R477) across every command: an engine's instruction, a routine and every event leave
both alone; a reset, an unlock begun and an unlock finished move the lock as stated. -/

section

namespace Sys2Proof.Machine

/-- Whatever next state an outcome answers, it has `P`. -/
def Leaves (P : State → Prop) (o : Host.Outcome State Fault Refusal) : Prop := ∀ t, o = .next t → P t

@[simp] theorem leaves_next (P : State → Prop) (t : State) : Leaves P (.next t) ↔ P t :=
  ⟨fun h => h t rfl, fun h _ e => by cases e; exact h⟩

@[simp] theorem leaves_fault (P : State → Prop) (f : Fault) : Leaves P (.fault f) := fun _ h => by injection h

@[simp] theorem leaves_refused (P : State → Prop) (r : Refusal) : Leaves P (.refused r) := fun _ h => by injection h

theorem Leaves.next {P : State → Prop} {t : State} (h : P t) : Leaves P (.next t) := (leaves_next P t).mpr h

theorem Leaves.ite {P : State → Prop} {c : Prop} [Decidable c] {o q : Host.Outcome State Fault Refusal} (ho : Leaves P o)
    (hq : Leaves P q) : Leaves P (if c then o else q) := by
  split
  · exact ho
  · exact hq

theorem Leaves.mono {P Q : State → Prop} {o : Host.Outcome State Fault Refusal} (h : Leaves P o) (f : ∀ t, P t → Q t) : Leaves Q o :=
  fun t e => f t (h t e)

/-- The queue of waiting commands and the boundary stand as they did. -/
def Keeps (s t : State) : Prop := t.pending = s.pending ∧ t.io = s.io

theorem Keeps.refl (s : State) : Keeps s s := ⟨rfl, rfl⟩

theorem Keeps.trans {s t u : State} (h : Keeps s t) (k : Keeps t u) : Keeps s u := ⟨k.1.trans h.1, k.2.trans h.2⟩

theorem Leaves.keeps_after {s z : State} {o : Host.Outcome State Fault Refusal} (h : Leaves (Keeps z) o) (hz : Keeps s z) :
    Leaves (Keeps s) o := h.mono fun _ => hz.trans

/-- The two engines of a pair changed one after the other. -/
theorem pair_engMap_keeps (o : Option Nat) (n : Nat) (f : Engine → Engine) (s : State) :
    Keeps s ((match o with | none => [n] | some m => [n, m]).foldl (fun z m => engMap z m f) s) :=
  ⟨foldl_pending _ _ _ (by simp), foldl_io _ _ _ (by simp)⟩

/-! The run of a bundle. -/

theorem applyOne_leaves (s : State) (n back : Nat) (r : BRes) : Leaves (Keeps s) (applyOne s n back r) := by
  cases r <;> simp only [applyOne, leaves_next, leaves_fault, leaves_refused, Keeps]
  case trap => simp
  case recBad => split <;> simp
  case hold => split <;> simp
  case rep => split <;> simp
  all_goals simp

theorem runOnce_leaves (s : State) (n : Nat) : Leaves (Keeps s) (runOnce s n) := by
  unfold runOnce
  dsimp only
  cases partnerOf s n with
  | none => exact applyOne_leaves s n 0 _
  | some m =>
    dsimp only
    split
    · simp [Keeps]
    split
    · have h := applyOne_leaves s n 0 (bundleRes s n)
      split
      next z hz =>
        have hk : Keeps s z := h z hz
        split
        · exact (applyOne_leaves _ m _ _).keeps_after hk
        · exact .next hk
      next o _ => exact h
    · simp [Keeps]

theorem runWait_leaves (s : State) (n : Nat) : Leaves (Keeps s) (runWait s n) := by
  unfold runWait
  have h := runOnce_leaves s n
  split
  next z hz =>
    split
    · refine (runOnce_leaves _ n).keeps_after (Keeps.trans ?_ (tellBoth_keeps _ _ _))
      simp [Keeps]
    · exact .next (h z hz)
  next o _ => exact h

theorem runRep_leaves (k : Nat) (s : State) (n : Nat) : Leaves (Keeps s) (runRep k s n) := by
  induction k generalizing s with
  | zero => simp [runRep, Keeps]
  | succ k ih =>
    have h := runWait_leaves s n
    unfold runRep
    split
    next z hz =>
      dsimp only
      split
      · exact .next ⟨forNats_pending _ _ _ (by simp), forNats_io _ _ _ (by simp)⟩
      split
      · exact (ih z).keeps_after (h z hz)
      · exact .next (h z hz)
    next o _ => exact h

theorem runBundle_leaves (s : State) (n : Nat) : Leaves (Keeps s) (runBundle s n) :=
  (runRep_leaves 258 _ n).keeps_after (trcStallCount_keeps _ _ _)

theorem issueOp_leaves (op : Op) (n : Nat) (s : State) : Leaves (Keeps s) (issueOp op n s) := by
  unfold issueOp
  split
  · exact runBundle_leaves s n
  · exact .next (Keeps.refl s)

theorem runAgain_leaves (s : State) (n : Nat) : Leaves (Keeps s) (runAgain s n) :=
  (runBundle_leaves _ n).keeps_after (pair_engMap_keeps _ _ _ _)

end Sys2Proof.Machine

end

section

namespace Sys2Proof.Machine

/-! Micro-routines. -/

/-- Whatever state a micro-word goes on with or ends in, it has `P`. -/
def MOut.Leaves (P : State → Prop) (o : MOut) : Prop :=
  match o with
  | .go z => P z
  | .done z => P z
  | _ => True

theorem microRet_leaves (s : State) (n : Nat) : MOut.Leaves (Keeps s) (microRet s n) := by
  unfold microRet
  split <;> simp [MOut.Leaves, Keeps]

theorem microNext_leaves (s : State) (n : Nat) (w : MWord) (a : Word) (c : Bool) : MOut.Leaves (Keeps s) (microNext s n w a c) := by
  unfold microNext
  dsimp only
  split
  case h_5 => exact microRet_leaves s n
  case h_4 => split <;> simp [MOut.Leaves, Keeps]
  all_goals simp [MOut.Leaves, Keeps]

theorem MOut.Leaves.keeps_after {s z : State} {o : MOut} (h : MOut.Leaves (Keeps z) o) (hz : Keeps s z) : MOut.Leaves (Keeps s) o := by
  cases o with
  | go t => exact hz.trans h
  | done t => exact hz.trans h
  | _ => trivial

theorem microAct_leaves (s : State) (n : Nat) (y : Syl) (w : MWord) (c : Bool) (got : Option W128) :
    MOut.Leaves (Keeps s) (microAct s n y w c got) := by
  unfold microAct
  dsimp only
  repeat' split
  all_goals first
    | trivial
    | exact (microNext_leaves _ _ _ _ _).keeps_after (by simp [Keeps])

theorem microLib_leaves (s : State) (n : Nat) (y : Syl) (lib : Nat) : MOut.Leaves (Keeps s) (microLib s n y lib) := by
  unfold microLib
  dsimp only
  repeat' split
  all_goals trivial

theorem microStep_leaves (s : State) (n : Nat) (y : Syl) (got : Option W128) : MOut.Leaves (Keeps s) (microStep s n y got) := by
  unfold microStep
  dsimp only
  split
  · trivial
  split
  · have h := microLib_leaves s n y (engGet s n).u.upc
    split
    next z hz => rw [hz] at h; exact (microRet_leaves z n).keeps_after h
    next => exact h
  split
  · trivial
  split
  · trivial
  split
  · split
    · trivial
    · exact microNext_leaves s n _ _ _
  · exact microAct_leaves s n y _ _ got

theorem microOut_leaves (s : State) (n : Nat) (ys : List Syl) (y : Syl) {o : MOut} (ho : MOut.Leaves (Keeps s) o)
    {k : State → Host.Outcome State Fault Refusal} (hk : ∀ z, Leaves (Keeps z) (k z)) : Leaves (Keeps s) (microOut s n ys y o k) := by
  cases o with
  | go z => exact (hk z).keeps_after ho
  | done z => exact .next (Keeps.trans ho (by simp [Keeps]))
  | internal => exact leaves_refused _ _
  | lost f => exact leaves_fault _ _
  | _ => simp [microOut, Keeps]

theorem romStop_leaves (s : State) (n : Nat) (ys : List Syl) (y : Syl) (g : Got) : Leaves (Keeps s) (romStop s n ys y g) := by
  cases g <;> simp [romStop, Keeps]

/-- A block CRC at its next trap point changes the sequencer of its engine only. -/
theorem blockPoint_keeps {s z : State} {n : Nat} {y : Syl} (h : blockPoint s n y = .ok z) : Keeps s z := by
  have map_ok {α : Type} {o : Except Got α} {f : α → State} (e : o.map f = .ok z) : ∃ v, f v = z := by
    cases o with
    | error => cases e
    | ok v => exact ⟨v, by simpa [Except.map] using e⟩
  unfold blockPoint at h
  dsimp only at h
  split at h
  · split at h
    · obtain ⟨v, rfl⟩ := map_ok h; exact ⟨rfl, rfl⟩
    · cases h; exact Keeps.refl s
  · split at h
    · obtain ⟨v, rfl⟩ := map_ok h; exact ⟨rfl, rfl⟩
    · cases h; exact Keeps.refl s

theorem microOne_leaves (pass : Bool) (s : State) (n : Nat) : Leaves (Keeps s) (microOne pass s n) := by
  unfold microOne
  split
  · exact .next (Keeps.refl s)
  next ys y _ =>
    split
    · split
      · split
        next z hz => exact .next ((blockPoint_keeps hz).trans (by simp [Keeps]))
        next => exact romStop_leaves s n ys y _
      · exact .next (Keeps.refl s)
    split
    · split
      · exact leaves_refused _ _
      · simp [Keeps]
      · exact romStop_leaves s n ys y _
    · exact microOut_leaves s n ys y (microStep_leaves s n y none) (fun z => by simp [Keeps])

theorem microFar_leaves (got : Option W128) (s : State) (n : Nat) : Leaves (Keeps s) (microFar got s n) := by
  unfold microFar
  split
  · exact .next (Keeps.refl s)
  dsimp only
  split
  · refine (microOut_leaves _ n _ _ (microStep_leaves _ n _ _) (fun z => by simp [Keeps])).keeps_after ?_
    split
    · split <;> simp [Keeps]
    · simp [Keeps]
  · split <;> simp [Keeps]

theorem microPair_leaves {f : State → Nat → Host.Outcome State Fault Refusal} (hf : ∀ z m, Leaves (Keeps z) (f z m)) (s : State) (n : Nat) :
    Leaves (Keeps s) (microPair s n f) := by
  have hfree (z : State) (k m : Nat) : Leaves (Keeps z) (f { z with free := k } m) := (hf _ m).keeps_after ⟨rfl, rfl⟩
  unfold microPair
  split
  · exact hf s n
  next m _ =>
    split
    · simp [Keeps]
    split
    next z hz =>
      dsimp only
      have hboth : Leaves (Keeps s)
          (if ((engGet z n).level == (engGet s n).level && (engGet z n).run == .running) = true then
            (match f s m with | .next w => f { w with free := s.free } n | o => o)
           else if (engGet z m).run ≠ .running then .next z else f { z with free := s.free } m) := by
        split
        · have hm := hf s m
          split
          next w hw => exact (hfree w _ n).keeps_after (hm w hw)
          next => exact hm
        · have hz' : Keeps s z := hf s n z hz
          split
          · exact .next hz'
          · exact (hfree z _ m).keeps_after hz'
      split
      next w hw =>
        have hw' : Keeps s w := hboth w hw
        split
        · exact .next (hw'.trans (by simp [Keeps]))
        · exact .next hw'
      next => exact hboth
    next => exact hf s n

theorem microPass_leaves (s : State) (n : Nat) : Leaves (Keeps s) (microPass s n) := by
  have h := microPair_leaves (microOne_leaves true) s n
  unfold microPass
  split
  next z hz => exact .next ((h z hz).trans (by simp [Keeps]))
  next => exact h

theorem microRun_leaves (k : Nat) (s : State) (n : Nat) : Leaves (Keeps s) (microRun k s n) := by
  induction k generalizing s with
  | zero => exact .next (Keeps.refl s)
  | succ k ih =>
    have h := microPair_leaves (microOne_leaves false) s n
    unfold microRun
    split
    · exact microPass_leaves s n
    split
    next z hz =>
      have hz' : Keeps s z := h z hz
      split
      · simp [Keeps]
      split
      · exact (runBundle_leaves z n).keeps_after hz'
      split
      · exact .next hz'
      have hp : Keeps s (stepPoint z n) := hz'.trans (stepPoint_keeps z n)
      dsimp only
      split
      · exact .next hp
      · exact (ih _).keeps_after hp
    next => exact h

theorem microBoth_leaves {f : State → Nat → Host.Outcome State Fault Refusal} (hf : ∀ z m, Leaves (Keeps z) (f z m)) (s : State) (n : Nat) :
    Leaves (Keeps s) (microBoth s n f) := by
  have h := (microPair_leaves hf (trcStallCount s n (engGet s n).u.stall) n).keeps_after (trcStallCount_keeps s n _)
  unfold microBoth
  dsimp only
  split
  next z hz =>
    split
    · simp [Keeps]
    split
    · exact (runBundle_leaves z n).keeps_after (h z hz)
    · exact .next (h z hz)
  next => exact h

end Sys2Proof.Machine

end

section

namespace Sys2Proof.Machine

/-! What an access of the host, of debug or of the wire leaves of the lock. -/

/-- The queue of waiting commands and the debug lock stand as they did. -/
def LockKept (s t : State) : Prop := t.pending = s.pending ∧ lockOf t = lockOf s

theorem Keeps.lockKept {s t : State} (h : Keeps s t) : LockKept s t := ⟨h.1, by simp [lockOf, h.2]⟩

theorem LockKept.refl (s : State) : LockKept s s := ⟨rfl, rfl⟩

theorem LockKept.trans {s t u : State} (h : LockKept s t) (k : LockKept t u) : LockKept s u := ⟨k.1.trans h.1, k.2.trans h.2⟩

theorem foldl_lockKept {α : Type} (l : List α) {f : State → α → State} (s : State) (h : ∀ z a, LockKept z (f z a)) :
    LockKept s (l.foldl f s) := by
  induction l generalizing s with
  | nil => exact LockKept.refl s
  | cons a l ih => exact (h s a).trans (ih _)

theorem errSet_lockKept (s : State) (n v : Nat) : LockKept s (errSet s n v) := ⟨rfl, rfl⟩

theorem bufPut_lockKept (s : State) (n : Nat) (bs : List Byte) : LockKept s (bufPut s n bs) := ⟨rfl, rfl⟩

theorem dbgReadMem_lockKept (s : State) (n : Nat) : LockKept s (dbgReadMem s n).2 := by
  unfold dbgReadMem
  dsimp only
  repeat' split
  all_goals simp [LockKept, lockOf, dbgReadErr, errSet, bufPut]

theorem dbgReadReg_lockKept (s : State) (n : Nat) : LockKept s (dbgReadReg s n).2 := by
  unfold dbgReadReg
  dsimp only
  repeat' split
  all_goals simp [LockKept, lockOf, dbgReadErr, errSet, bufPut]

theorem dbgRead_lockKept (s : State) (n : Nat) : LockKept s (dbgRead s n).2 := by
  unfold dbgRead
  dsimp only
  split
  case h_1 => exact dbgReadMem_lockKept s n
  case h_4 => exact dbgReadReg_lockKept s n
  case h_5 => exact errSet_lockKept s n 1
  all_goals
    split
    · exact LockKept.refl s
    · exact errSet_lockKept s n 1

theorem sharedPut_foldl_keeps (l : List Nat) (p : Nat → Nat × Nat × Word) (s : State) :
    Keeps s (l.foldl (fun y i => sharedPut y (p i).1 (p i).2.1 (p i).2.2) s) :=
  ⟨foldl_pending _ _ _ (by simp), foldl_io _ _ _ (by simp)⟩

theorem dbgWriteMem_lockKept (s : State) (w n : Nat) (v : Word) : LockKept s (dbgWriteMem s w n v) := by
  unfold dbgWriteMem
  split
  · exact errSet_lockKept s w 1
  next a len r _ =>
    extract_lets bs whole put
    have hput (z : State) : LockKept z (put z) := by
      simp only [put]
      cases r
      case shared => exact (sharedPut_foldl_keeps _ (fun i => (_, _, _)) z).lockKept
      case imem => exact ⟨rfl, rfl⟩
      case dmem => exact ⟨rfl, rfl⟩
      case window => exact ⟨rfl, rfl⟩
      all_goals exact errSet_lockKept z w 1
    split
    · exact hput s
    split
    · exact (Keeps.lockKept (tileCure_keeps s _ _ _)).trans (hput _)
    · simp [LockKept, lockOf]

theorem dbgWriteMicro_lockKept (s : State) (w n : Nat) (v : Word) : LockKept s (dbgWriteMicro s w n v) := by
  unfold dbgWriteMicro
  dsimp only
  repeat' split
  all_goals simp [LockKept, lockOf, errSet]

theorem dbgWriteReg_lockKept (s : State) (w n : Nat) (v : Word) : LockKept s (dbgWriteReg s w n v) := by
  unfold dbgWriteReg
  dsimp only
  repeat' split
  all_goals simp [LockKept, lockOf, errSet]

theorem dbgWriteOne_lockKept (s : State) (w n : Nat) (v : Word) : LockKept s (dbgWriteOne s w n v) := by
  unfold dbgWriteOne
  split
  · exact dbgWriteMem_lockKept s w n v
  · exact dbgWriteMicro_lockKept s w n v
  · exact dbgWriteMicro_lockKept s w n v
  · exact dbgWriteReg_lockKept s w n v
  · exact errSet_lockKept s w 1

theorem dbgWrite_lockKept (s : State) (n : Nat) (v : Word) : LockKept s (dbgWrite s n v) := by
  unfold dbgWrite
  split
  · exact Keeps.lockKept (lockRej_keeps s)
  split
  · exact (Keeps.lockKept (lockRej_keeps s)).trans (errSet_lockKept _ n 1)
  split
  · exact errSet_lockKept s n 1
  · exact foldl_lockKept _ s (fun z m => dbgWriteOne_lockKept z n m v)

theorem dbgWinWrite_lockKept (s : State) (n o : Nat) (v : Word) : LockKept s (dbgWinWrite s n o v) := by
  unfold dbgWinWrite
  split
  · exact Keeps.lockKept (cmdWrite_keeps s n v)
  split
  · exact dbgWrite_lockKept s n v
  split
  · exact Keeps.lockKept (trxWrite_keeps s n v)
  split
  · exact LockKept.refl s
  split
  · exact ⟨rfl, rfl⟩
  split
  · exact Keeps.lockKept (dbgCtlWrite_keeps s n v)
  all_goals exact ⟨rfl, rfl⟩

theorem winRead_lockKept (s : State) (a reader : Nat) : LockKept s (winRead s a reader).2 := by
  unfold winRead
  split
  · exact LockKept.refl s
  split
  · simp [LockKept, lockOf]
  split
  · exact ⟨rfl, rfl⟩
  split
  · exact Keeps.lockKept (claimTake_keeps _ _)
  split
  · exact ⟨rfl, rfl⟩
  split
  · exact Keeps.lockKept (ttxTake_keeps _ _)
  split
  · dsimp only
    split
    · exact (dbgRead_lockKept s _).trans (Keeps.lockKept (wakeEng_keeps _ _))
    · exact dbgRead_lockKept s _
  split
  · exact ⟨rfl, rfl⟩
  split
  · split <;> exact LockKept.refl s
  · exact Keeps.lockKept (winSeen_keeps _ _ _)

theorem hostRead_lockKept (s : State) (a : Nat) : LockKept s (hostRead s a).2 := by
  unfold hostRead
  split
  · exact Keeps.lockKept (lockRej_keeps s)
  · exact winRead_lockKept s a 6

theorem hostReadWide_lockKept (s : State) (a : Nat) : LockKept s (hostReadWide s a).2 := by
  unfold hostReadWide
  split
  · split
    · exact Keeps.lockKept (lockRej_keeps s)
    · exact Keeps.lockKept (winSeen_keeps _ _ _)
  · exact (hostRead_lockKept s a).trans (hostRead_lockKept _ (a + 4))

end Sys2Proof.Machine

end

section

namespace Sys2Proof.Machine

/-- A step that adds nothing to the queue, leaves the fuse, keeps the invariant of the lock and opens nothing that was locked. -/
structure LockStep (s t : State) : Prop where
  pending : t.pending = s.pending
  fused : t.io.fused = s.io.fused
  stays : LockInv s → s.io.locked = true → t.io.locked = true
  inv : LockInv s → LockInv t

theorem lockInv_congr {s t : State} (h : lockOf t = lockOf s) (hs : LockInv s) : LockInv t := by
  simp only [lockOf, Lock.mk.injEq] at h
  obtain ⟨hf, hl, hu, hd⟩ := h
  rw [LockInv, hf, hl, hu, hd]
  exact hs

theorem LockKept.step {s t : State} (h : LockKept s t) : LockStep s t where
  pending := h.1
  fused := congrArg Lock.fused h.2
  stays := fun _ hl => (congrArg Lock.locked h.2).trans hl
  inv := lockInv_congr h.2

theorem Keeps.step {s t : State} (h : Keeps s t) : LockStep s t := h.lockKept.step

theorem LockStep.refl (s : State) : LockStep s s := (LockKept.refl s).step

theorem LockStep.trans {s t u : State} (h : LockStep s t) (k : LockStep t u) : LockStep s u where
  pending := k.pending.trans h.pending
  fused := k.fused.trans h.fused
  stays := fun hi hl => k.stays (h.inv hi) (h.stays hi hl)
  inv := fun hi => k.inv (h.inv hi)

/-! The unlock, and the writes that may begin it. -/

/-- Steps 1 and 2 of Table 18.3 leave a locked part locked. -/
theorem unlockStart_lockStep (s : State) (hl : s.io.locked = true) : LockStep s (unlockStart s) := by
  have hk : (unlockStart s).pending = s.pending ∧
      (unlockStart s).io = { s.io with unlocking := true, settdbg := s.io.settdbg || s.sett.open_ } := by
    unfold unlockStart
    dsimp only
    split <;> simp_all
  obtain ⟨hp, hio⟩ := hk
  exact
    { pending := hp
      fused := by rw [hio]
      stays := fun _ _ => by rw [hio]; exact hl
      inv := fun ⟨hf, _, _⟩ => by rw [LockInv, hio]; exact ⟨hf, fun _ => hl, fun _ => hf hl⟩ }

theorem unlockWrite_lockStep (s : State) (v : Word) : LockStep s (unlockWrite s v) := by
  unfold unlockWrite
  split
  · exact LockStep.refl s
  next hl =>
    split
    · exact Keeps.step (lockRej_keeps s)
    split
    · exact LockStep.refl s
    · exact unlockStart_lockStep s (by simpa using hl)

theorem kctlWrite_lockStep (s : State) (a : Nat) (v : Word) : LockStep s (kctlWrite s a v) := by
  unfold kctlWrite
  split
  · exact Keeps.step (by simp [Keeps])
  split
  · exact Keeps.step (by simp [Keeps])
  split
  case h_8 => exact unlockWrite_lockStep s v
  case h_1 => split <;> exact Keeps.step ⟨rfl, rfl⟩
  case h_5 => split <;> exact Keeps.step (by simp [Keeps])
  case h_6 | h_7 =>
    unfold sizeWrite slotWrite
    dsimp only
    repeat' split
    all_goals exact Keeps.step ⟨rfl, rfl⟩
  all_goals exact Keeps.step (by simp [Keeps])

theorem wideWrite_keeps' (s : State) (a : Nat) (v : W64) : Keeps s (wideWrite s a v) := by
  unfold wideWrite wideSet slotWrite
  dsimp only
  repeat' split
  all_goals first
    | exact ⟨rfl, rfl⟩
    | exact Keeps.trans (t := { s with heldLow := _ }) ⟨rfl, rfl⟩ (tickWrite_keeps _ _)

theorem LockStep.ite {s t u : State} {p : Prop} [Decidable p] (ht : LockStep s t) (hu : LockStep s u) : LockStep s (if p then t else u) := by
  split
  · exact ht
  · exact hu

theorem winWrite_lockStep (s : State) (a : Nat) (v : Word) : LockStep s (winWrite s a v) := by
  unfold winWrite
  refine .ite (.refl s) <| .ite (Keeps.step ⟨rfl, rfl⟩) <| .ite (Keeps.step (wideWrite_keeps' s _ _)) <|
    .ite (kctlWrite_lockStep s a v) <| .ite (Keeps.step (ktckWrite_keeps s a v)) <| .ite (Keeps.step (kevhWrite_keeps s a v)) <|
    .ite (Keeps.step (kmbxWrite_keeps s a v)) <| .ite (Keeps.step (kpwrWrite_keeps s a v)) <|
    .ite (Keeps.step (chnCtlWrite_keeps s v)) <| .ite (Keeps.step (bankPoke_keeps s _ _ v)) <| .ite (Keeps.step ⟨rfl, rfl⟩) <|
    .ite (Keeps.step (sealParWrite_keeps s v)) <| .ite (dbgWinWrite_lockKept s _ _ v).step <|
    .ite (Keeps.step (ktrcWrite_keeps s a v)) <| .ite (Keeps.step (stageWrite_keeps s _ _)) <|
    .ite (Keeps.step (viewWrite_keeps s 6 _ _)) (.refl s)

theorem hostWrite_lockStep (s : State) (a : Nat) (v : Word) : LockStep s (hostWrite s a v) := by
  unfold hostWrite
  split
  · exact Keeps.step (lockRej_keeps s)
  · exact winWrite_lockStep s a v

theorem hostWriteTile_keeps (s : State) (a : Nat) (v : W64) : Keeps s (hostWriteTile s a v) := by
  unfold hostWriteTile
  split <;> simp [Keeps]

/-! The wire. -/

theorem wireAnswer_lockKept (s : State) (ack : Nat) (data : Option Word) : LockKept s (wireAnswer s ack data) := ⟨rfl, rfl⟩

theorem lineError_lockKept (s : State) : LockKept s (lineError s) := ⟨rfl, rfl⟩

theorem wireCheck_lockStep {s k : State} (bits : List Bool) (crc : Byte) (hk : LockStep s k) : LockStep s (wireCheck s bits crc k) := by
  unfold wireCheck
  split
  · exact hk
  · exact LockKept.step ⟨rfl, rfl⟩

theorem wireTile_keeps (s : State) (a : Nat) : Keeps s (wireTile s a).2 := by
  unfold wireTile
  split <;> exact winSeen_keeps s a 5

theorem wireRead_lockKept (s : State) (a : Nat) : LockKept s (wireRead s a).2 := by
  unfold wireRead
  dsimp only
  split
  · exact Keeps.lockKept (accessFault_keeps s a 4 false)
  split
  · exact (wireTile_keeps s a).lockKept
  split
  · dsimp only
    split
    · exact (dbgRead_lockKept s _).trans (Keeps.lockKept (wakeEng_keeps _ _))
    · exact dbgRead_lockKept s _
  · exact LockKept.refl s

theorem wireConsume_lockKept (s : State) (a : Nat) : LockKept s (wireConsume s a).2 := by
  unfold wireConsume
  split
  · exact Keeps.lockKept (accessFault_keeps s a 4 false)
  split
  · exact (wireTile_keeps s a).lockKept
  split
  · exact (winRead_lockKept s a 5).trans (Keeps.lockKept ⟨forNats_pending _ _ _ (by simp), forNats_io _ _ _ (by simp)⟩)
  · exact winRead_lockKept s a 5

theorem wireReadFrame_lockStep (s : State) (op addr : Nat) (crc : Byte) (inTime : Bool) {k : State → Nat → Word × State}
    (hk : ∀ z a, LockKept z (k z a).2) : LockStep s (wireReadFrame s op addr crc inTime k) := by
  refine wireCheck_lockStep _ _ (LockKept.step ?_)
  split
  · exact (Keeps.lockKept (lockRej_keeps s)).trans (wireAnswer_lockKept _ _ _)
  split
  · exact (hk s (4 * addr)).trans (wireAnswer_lockKept _ _ _)
  · exact wireAnswer_lockKept s _ _

/-! The mailbox. -/

theorem mbxEnter_keeps {s z : State} {code len : Nat} {pl : List Word} (h : mbxEnter s code len pl = some z) : Keeps s z := by
  unfold mbxEnter at h
  split at h
  · cases h
  split at h
  · split at h
    · cases h; exact Keeps.refl s
    · cases h
  · cases h; exact ⟨rfl, rfl⟩

theorem mbxRow_keeps (s : State) (code len : Nat) (pl : List Word) {take : State → Nat → List Word → State}
    (ht : ∀ z t p, Keeps z (take z t p)) : Keeps s (mbxRow s code len pl take) := by
  unfold mbxRow
  split
  · exact Keeps.refl s
  next z hz =>
    refine (mbxEnter_keeps hz).trans ?_
    unfold mbxDeferred
    split
    · exact Keeps.trans (mbxAccept_keeps z true) (ht _ _ _)
    · exact mbxRefuse_keeps z _

theorem mbxRowNow_keeps (s : State) (code len : Nat) (pl : List Word) {k : State → List Word → List Byte × State}
    (hk : ∀ z p, Keeps z (k z p).2) : Keeps s (mbxRowNow s code len pl k) := by
  unfold mbxRowNow
  split
  · exact Keeps.refl s
  next z hz =>
    refine (mbxEnter_keeps hz).trans ?_
    unfold mbxNow
    split
    · exact (hk z _).trans (mbxAccept_keeps _ false)
    · exact mbxRefuse_keeps z _

theorem faultsParity_keeps (s : State) (bad : List Nat) : Keeps s (faultsParity s bad) := by
  unfold faultsParity
  split
  · exact Keeps.refl s
  · exact Keeps.trans (t := { s with free := _ }) ⟨rfl, rfl⟩ ⟨foldl_pending _ _ _ (by simp), foldl_io _ _ _ (by simp)⟩

/-! Resets: the lock takes the value of the fuse (R403, R474). -/

/-- A reset locks debug exactly on a part with a blown fuse, and ends an unlock. -/
theorem reset_lockStep {s t : State} (hp : t.pending = s.pending)
    (hl : lockOf t = { fused := s.io.fused, locked := s.io.fused, unlocking := false, settdbg := false }) : LockStep s t := by
  simp only [lockOf, Lock.mk.injEq] at hl
  obtain ⟨hf, hk, hu, hd⟩ := hl
  exact
    { pending := hp
      fused := hf
      stays := fun hi h => hk.trans (hi.1 h)
      inv := fun _ => by simp [LockInv, hf, hk, hu, hd] }

theorem powerLoss_lockStep (s : State) : LockStep s (powerLoss s) := reset_lockStep rfl rfl

theorem padsEnter_kept_lockStep (s : State) : LockStep s (padsEnter (kept s)) :=
  reset_lockStep (by simp [kept]) (by simp [lockOf, kept])

theorem blockReset_lockStep (s : State) : LockStep s (blockReset s) :=
  reset_lockStep (by simp [blockReset, kept]) (by simp [lockOf, blockReset, kept])

end Sys2Proof.Machine

end

section

namespace Sys2Proof.Machine

/-! The waits of an engine and its routines. -/

theorem pushGoesOn_leaves (s : State) (n cyc : Nat) : Leaves (Keeps s) (pushGoesOn s n cyc) := by
  unfold pushGoesOn
  split
  · exact (runAgain_leaves _ n).keeps_after ⟨foldl_pending _ _ _ (by simp), foldl_io _ _ _ (by simp)⟩
  · exact .next (Keeps.refl s)

theorem routerTake_leaves (s : State) (n : Nat) (parityFail : Bool) (cyc : Nat) : Leaves (Keeps s) (routerTake s n parityFail cyc) := by
  have hq : Keeps s (queueTake s n).2 := queueTake_keeps s n
  unfold routerTake
  split
  next s1 hs => rw [hs] at hq; exact (pushGoesOn_leaves s1 n cyc).keeps_after hq
  next o s1 hs =>
    rw [hs] at hq
    refine (pushGoesOn_leaves _ n cyc).keeps_after (hq.trans ?_)
    repeat' split
    all_goals simp [Keeps]

theorem lockTimeout_leaves (s : State) (n : Nat) : Leaves (Keeps s) (lockTimeout s n) := by
  refine (runAgain_leaves _ n).keeps_after (Keeps.trans ?_ (tellBoth_keeps _ n _))
  split <;> simp [Keeps]

theorem refusedPair_keeps (s : State) (o : Option Nat) (n : Nat) (a : Word) :
    Keeps s ((match o with | none => [n] | some m => [n, m]).foldl
      (fun z m => trapOne { z with free := s.free } m { cause := .far, adr := a } (faultFrame z m)) s) :=
  ⟨foldl_pending _ _ _ (by simp), foldl_io _ _ _ (by simp)⟩

theorem execFarLoadData_leaves (n : Nat) (data : Option W128) (s : State) : Leaves (Keeps s) (execFarLoadData n data s) := by
  unfold execFarLoadData
  split
  · split
    · split
      · exact (runAgain_leaves _ n).keeps_after
          (Keeps.trans (farOrder_keeps s n _ _) ⟨foldl_pending _ _ _ (by simp), foldl_io _ _ _ (by simp)⟩)
      · exact .next (refusedPair_keeps s _ n _)
    · exact .next (Keeps.refl s)
  split
  · split <;> exact microBoth_leaves (microFar_leaves _) s n
  · exact .next (Keeps.refl s)

theorem execFarStoreAccept_leaves (n : Nat) (ok : Bool) (s : State) : Leaves (Keeps s) (execFarStoreAccept n ok s) := by
  unfold execFarStoreAccept
  split
  · exact .next (Keeps.refl s)
  split
  · split
    · split
      · exact (runAgain_leaves _ n).keeps_after (tellBoth_keeps s n _)
      · exact .next (refusedPair_keeps s _ n _)
    · exact .next (Keeps.refl s)
  split
  · exact microBoth_leaves (microFar_leaves _) s n
  · exact .next (Keeps.refl s)

theorem execFarStoreComplete_leaves (n : Nat) (s : State) : Leaves (Keeps s) (execFarStoreComplete n s) := by
  unfold execFarStoreComplete
  dsimp only
  repeat' split
  · exact .next (Keeps.refl s)
  · exact (runAgain_leaves _ n).keeps_after ⟨rfl, rfl⟩
  · exact .next ⟨rfl, rfl⟩

theorem execLockWaitEnd_leaves (n cyc : Nat) (s : State) : Leaves (Keeps s) (execLockWaitEnd n cyc s) := by
  unfold execLockWaitEnd
  dsimp only
  repeat' split
  · exact lockTimeout_leaves s n
  · exact (runAgain_leaves _ n).keeps_after (lockStall_keeps s n cyc)
  · exact .next (lockStall_keeps s n cyc)
  · exact .next (Keeps.refl s)

theorem execMicroroutineComplete_leaves (n cyc : Nat) (s : State) : Leaves (Keeps s) (execMicroroutineComplete n cyc s) := by
  unfold execMicroroutineComplete
  repeat' split
  · exact microPass_leaves s n
  · exact (microRun_leaves cyc _ n).keeps_after (trcStallCount_keeps s n _)
  · exact .next (Keeps.refl s)

theorem execEret_leaves (n : Nat) (s : State) (bankBad : Bool) : Leaves (Keeps s) (execEret n s bankBad) := by
  refine (issueOp_leaves .eret n _).keeps_after ?_
  split
  · exact ⟨foldl_pending _ _ _ (fun _ _ => rfl), foldl_io _ _ _ (fun _ _ => rfl)⟩
  · exact Keeps.refl s

/-! The router, the chain, the release and the restore. -/

theorem execRouterCell_leaves (k : Nat) (parityFail : Bool) (cyc : Nat) (s : State) :
    Leaves (Keeps s) (execRouterCell k parityFail cyc s) := by
  unfold execRouterCell
  repeat' split
  all_goals first
    | exact .next (Keeps.refl s)
    | exact pushGoesOn_leaves s _ cyc
    | exact (routerTake_leaves _ _ parityFail cyc).keeps_after (by simp [Keeps])

theorem frameTake_keeps {s z : State} {p type : Nat} {h : W64} {bodies : List W128} {crc : Word} {b : Bool}
    (e : frameTake s p type h bodies crc = some (b, z)) : Keeps s z := by
  unfold frameTake at e
  dsimp only at e
  repeat' split at e
  all_goals cases e
  · exact cntAdd_keeps s _ _
  · exact Keeps.trans (frameSeen_keeps s p h) (cntAdd_keeps _ _ _)
  · exact frameSeen_keeps s p h

theorem readAll_keeps (l : List PStep) (s : State) : Keeps s (readAll l s).2 := by
  induction l generalizing s with
  | nil => exact Keeps.refl s
  | cons p t ih =>
    have hp : Keeps s (readBack s p).2 := readBack_keeps s p
    unfold readAll
    dsimp only
    split
    · exact hp.trans (ih _)
    · exact hp

theorem execReleaseReadbackDone_leaves (s : State) : Leaves (Keeps s) (execReleaseReadbackDone s) := by
  have hr := readAll_keeps (copyPlan s.rel.img) s
  unfold execReleaseReadbackDone
  split
  · split
    · simp [Keeps]
    split
    next t z hz => rw [hz] at hr; exact .next (hr.trans (by simp [Keeps]))
    next z hz =>
      rw [hz] at hr
      split
      · exact .next (hr.trans (by simp [Keeps]))
      · exact .next hr
  · exact .next (Keeps.refl s)

theorem restoreNext_keeps (k m : Nat) (s : State) : Keeps s (restoreNext k m s) := by
  induction m generalizing s with
  | zero => exact Keeps.refl s
  | succ m ih =>
    unfold restoreNext
    dsimp only
    repeat' split
    all_goals first
      | exact Keeps.refl s
      | exact ⟨forNats_pending _ _ _ (by simp), forNats_io _ _ _ (by simp)⟩
      | exact Keeps.trans (by simp [Keeps]) (ih _)

theorem execRestoreDone_leaves (e : Nat) (bistOk : Bool) (tiles : Tbl (List Byte)) (s : State) :
    Leaves (Keeps s) (execRestoreDone e bistOk tiles s) := by
  unfold execRestoreDone
  repeat' split
  all_goals first
    | exact .next (Keeps.refl s)
    | exact .next (Keeps.trans (restoreEnd_keeps s _ _ _ _ _ _) (restoreNext_keeps _ _ _))

/-! The host, debug, the wire and the boundary. -/

theorem execHostLowWordRead_leaves (off : Nat) (s : State) (wide parity : Bool) :
    Leaves (LockStep s) (execHostLowWordRead off s wide parity) := by
  have hr : LockStep s { (hostRead s off).2 with hostRd := (hostRead s off).1.setWidth 64 } := LockKept.step (hostRead_lockKept s off)
  have hw : LockStep s { (hostReadWide s off).2 with hostRd := (hostReadWide s off).1 } := LockKept.step (hostReadWide_lockKept s off)
  unfold execHostLowWordRead
  refine .ite (.next (.refl s)) (.ite (.next (Keeps.step (by simp [Keeps, mbxParity]))) (.ite (.next hw) (.next hr)))

theorem execRegisterWrite_leaves (off : Nat) (wide : Bool) (v : W64) (s : State) :
    Leaves (LockStep s) (execRegisterWrite off wide v s) := by
  unfold execRegisterWrite
  exact .ite (.next (.refl s)) <| .ite (.next (Keeps.step (accessFault_keeps s _ _ _))) <|
    .ite (.ite (.next (.ite (Keeps.step (lockRej_keeps s)) (.ite (Keeps.step (wideWrite_keeps' s off v)) (.refl s)))) <|
      .ite (.next (Keeps.step (hostWriteTile_keeps s off v))) (.next ((hostWrite_lockStep s off _).trans (hostWrite_lockStep _ _ _)))) <|
    .next (hostWrite_lockStep s off _)

theorem execDebugDataRead_leaves (n : Nat) (s : State) : Leaves (LockStep s) (execDebugDataRead n s) := by
  have hd : LockStep s { (dbgRead s n).2 with hostRd := (dbgRead s n).1.setWidth 64 } := LockKept.step (dbgRead_lockKept s n)
  unfold execDebugDataRead
  dsimp only
  repeat' split
  · exact .next (.refl s)
  · exact .next (hd.trans (Keeps.step (wakeEng_keeps _ n)))
  · exact .next hd
  · exact .next (Keeps.step (lockRej_keeps s))

theorem execSarernWr_leaves (addr : Nat) (v : Word) (crc : Byte) (s : State) : Leaves (LockStep s) (execSarernWr addr v crc s) := by
  unfold execSarernWr
  dsimp only
  split
  · refine .next (wireCheck_lockStep _ _ ?_)
    repeat' split
    · exact (Keeps.step (lockRej_keeps s)).trans (wireAnswer_lockKept _ _ _).step
    · exact (hostWrite_lockStep s _ v).trans (wireAnswer_lockKept _ _ _).step
    · exact (hostWrite_lockStep s _ v).trans (wireAnswer_lockKept _ _ _).step
    · exact (Keeps.step (accessFault_keeps s _ _ _)).trans (wireAnswer_lockKept _ _ _).step
  · exact .next (.refl s)

theorem execSarernIdr_leaves (op : Nat) (crc : Byte) (s : State) : Leaves (LockStep s) (execSarernIdr op crc s) := by
  unfold execSarernIdr
  split
  · exact .next (.refl s)
  · refine .next (wireCheck_lockStep _ _ ?_)
    split <;> exact (wireAnswer_lockKept s _ _).step

theorem execBatteryWriteDone_leaves (ok : Bool) (s : State) : Leaves (LockStep s) (execBatteryWriteDone ok s) := by
  unfold execBatteryWriteDone
  dsimp only
  repeat' split
  all_goals exact .next (LockKept.step (by simp [LockKept, lockOf]))

theorem execBadgerRelease_leaves (romOk : Bool) (s : State) (krst kdio : Bool) :
    Leaves (LockStep s) (execBadgerRelease romOk s krst kdio) := by
  unfold execBadgerRelease
  dsimp only
  repeat' split
  all_goals exact .next (LockKept.step (by simp [LockKept, lockOf]))

theorem execBlockReset_leaves (cause : Nat) (s : State) : Leaves (LockStep s) (execBlockReset cause s) := by
  have h1 : LockStep s { s with io := { s.io with krst := s.io.krst || cause == 0, kbrel := s.io.kbrel && cause != 2 } } :=
    LockKept.step ⟨rfl, rfl⟩
  unfold execBlockReset
  dsimp only
  repeat' split
  · exact .next (.refl s)
  · exact .next h1
  · exact .next h1
  · exact .next (h1.trans (blockReset_lockStep _))

theorem execTbiUpdate_leaves (tbi : W64) (s : State) (stalls : List (Nat × Nat)) : Leaves (Keeps s) (execTbiUpdate tbi s stalls) := by
  have hh : Keeps s (hazStall s stalls) := ⟨foldl_pending _ _ _ (by simp), foldl_io _ _ _ (by simp)⟩
  unfold execTbiUpdate
  split
  · simp [Keeps]
  · exact .next (hh.trans (by simp [Keeps]))

/-- The end of an unlock: debug is open on a part that stays fused as it was (R475). -/
theorem execDebugUnlockDone_leaves (blocks : List (List Byte)) (s : State) :
    Leaves (fun t => t.pending = s.pending ∧ t.io.fused = s.io.fused ∧ (LockInv s → LockInv t) ∧
      (s.io.locked = true → t.io.locked = false → s.io.unlocking = true)) (execDebugUnlockDone blocks s) := by
  unfold execDebugUnlockDone
  split
  next hu =>
    have hk (z : State) (l : List Nat) : Keeps z (forNats l (fun z n => bankFill z n z.mem.vet) z) :=
      ⟨forNats_pending _ _ _ (by simp), forNats_io _ _ _ (by simp)⟩
    have he : Keeps s (vetAccept (sramErase (if s.io.settdbg then settErase s else s)) blocks) := by
      split <;> simp [Keeps]
    extract_lets s1 s2 s3
    have h3 : Keeps s s3 := (he.trans (hk _ _)).trans (setBState_keeps s2 .awaitImage)
    obtain ⟨hp, hio⟩ := h3
    refine .next ⟨hp, (congrArg Boundary.fused hio :), ?_, fun _ _ => hu.1⟩
    rintro ⟨_, _, hd⟩
    refine ⟨nofun, nofun, ?_⟩
    change s3.io.settdbg = true → s3.io.fused = true
    rw [hio]
    exact hd
  next =>
    exact .next ⟨rfl, rfl, id, fun h h' => by rw [h] at h'; cases h'⟩

end Sys2Proof.Machine

end

section

namespace Sys2Proof.Machine

/-! Every command. -/

/-- Every command but the end of an unlock is a step of the lock. -/
theorem exec_lockStep (c : Instr) (s : State) (hc : ∀ blocks, c ≠ .debugUnlockDone blocks) : Leaves (LockStep s) (exec c s) := by
  have keeps {o : Host.Outcome State Fault Refusal} (h : Leaves (Keeps s) o) : Leaves (LockStep s) o := h.mono fun _ => Keeps.step
  have row (code len : Nat) (pl : List Word) {take : State → Nat → List Word → State} (ht : ∀ z t p, Keeps z (take z t p)) :
      Leaves (LockStep s) (.next (mbxRow s code len pl take)) := .next (mbxRow_keeps s code len pl ht).step
  have rowNow (code len : Nat) (pl : List Word) {k : State → List Word → List Byte × State} (hk : ∀ z p, Keeps z (k z p).2) :
      Leaves (LockStep s) (.next (mbxRowNow s code len pl k)) := .next (mbxRowNow_keeps s code len pl hk).step
  cases c
  -- The instructions of the engines.
  case alu | aluImmediate | shiftImmediate | unary | sat | cmp | plog | getp | setp | mul | div | load | store | ldc | stc | fence | cmov
      | csetb | csetl | csetbl | candp | cgetb | cgetl | cgetp | cgett | cseal | cunseal | csentry | br | blc | jr | cj | cjo | rep | repi
      | bit | fld | crcStep | crcinit | crcfin | crcblk | fop | fdiv | fsqrt | fcmp | fcvt | tpop | tpeek | tpush | tpopr | tpushr | ctxopen
      | ctxcommit | ctxlock | ctxunlock | ctxdrop | dispatch | tickwait | twr | trd | mfs | mts | cmfs | cmts | sysc | brk
      | customInstruction => exact keeps (issueOp_leaves _ _ s)
  case eret n bankBad => exact keeps (execEret_leaves n s bankBad)
  -- The ends of their waits.
  case farLoadData n data => exact keeps (execFarLoadData_leaves n data s)
  case farStoreAccept n ok => exact keeps (execFarStoreAccept_leaves n ok s)
  case farStoreComplete n => exact keeps (execFarStoreComplete_leaves n s)
  case lockWaitEnd n cyc => exact keeps (execLockWaitEnd_leaves n cyc s)
  case lockWaitTimeout n => exact keeps (.ite (lockTimeout_leaves s n) (.next (Keeps.refl s)))
  case dispatchEntryReady n => exact keeps (.ite (runAgain_leaves s n) (.next (Keeps.refl s)))
  case tickwaitEdge n => exact keeps (.ite (runAgain_leaves s n) (.next (Keeps.refl s)))
  case microroutineComplete n cyc => exact keeps (execMicroroutineComplete_leaves n cyc s)
  case routerCell k parityFail cyc => exact keeps (execRouterCell_leaves k parityFail cyc s)
  -- The mailbox.
  case release | hold | setProfile | setTick | retireEngine | restoreEngine | migrate | loadUbank | swapUbank | reloadTile | remapMoth
      | enumerateChain | openSeal | closeSeal => exact row _ _ _ fun _ _ _ => by simp [Keeps]
  case sealStatus | clearCounters => exact rowNow _ _ _ fun _ _ => by simp [Keeps]
  case readFaults => exact rowNow _ _ _ fun _ _ => Keeps.trans (faultsRead_keeps _ _ _) (faultsParity_keeps _ _)
  case badcmdSubmission code len => exact .ite (rowNow code len [] fun z _ => Keeps.refl z) (.next (.refl s))
  -- The chain, the release and the restore.
  case cellFrameReceive | ringStatusReceive | enumerationOfferReceive | enumerationCommitReceive =>
    refine keeps ?_
    simp only [exec, execCellFrameReceive, execRingStatusReceive, execEnumerationOfferReceive, execEnumerationCommitReceive]
    split
    next z hz => exact .next ((frameTake_keeps hz).trans (by simp [Keeps, apply_ite State.pending, apply_ite State.io]))
    next z hz => exact .next (frameTake_keeps hz)
    next => exact .next (Keeps.refl s)
  case releaseReadbackDone => exact keeps (execReleaseReadbackDone_leaves s)
  case restoreDone e bistOk tiles => exact keeps (execRestoreDone_leaves e bistOk tiles s)
  -- The host, debug and the wire.
  case hostLowWordRead off wide parity => exact execHostLowWordRead_leaves off s wide parity
  case hostLowWordWrite off v => exact .ite (.next (hostWrite_lockStep s off v)) (.next (.refl s))
  case hostHighWordWrite off v => exact .ite (.next (hostWrite_lockStep s off v)) (.next (.refl s))
  case registerWrite off wide v => exact execRegisterWrite_leaves off wide v s
  case hmbCplRead => exact .ite (.next (LockKept.step (winRead_lockKept s _ _))) (.next (.refl s))
  case debugUnlock v => exact .ite (.next (unlockWrite_lockStep s v)) (.next (.refl s))
  case debugUnlockDone blocks => exact absurd rfl (hc blocks)
  case debugDataRead n => exact execDebugDataRead_leaves n s
  case debugDataWrite n v => exact .ite (.next (dbgWrite_lockKept s n v).step) (.next (.refl s))
  case sarernIdr op crc => exact execSarernIdr_leaves op crc s
  case sarernRd addr crc inTime => exact .ite (.next (wireReadFrame_lockStep s _ _ _ _ wireRead_lockKept)) (.next (.refl s))
  case sarernRdc addr crc inTime => exact .ite (.next (wireReadFrame_lockStep s _ _ _ _ wireConsume_lockKept)) (.next (.refl s))
  case sarernWr addr v crc => exact execSarernWr_leaves addr v crc s
  case kdioLineError => exact .ite (.next (lineError_lockKept s).step) (.next (.refl s))
  case sarernFrameHighTimeout => exact .ite (.next (lineError_lockKept s).step) (.next (.refl s))
  -- Power, reset and the boundary.
  case powerOn => exact .ite (.next (padsEnter_kept_lockStep s)) (.next (.refl s))
  case blockPowerOff => exact .next (powerLoss_lockStep s)
  case blockReset cause => exact execBlockReset_leaves cause s
  case kdioLongLow =>
    have hk : LockStep s { s with io := { s.io with kdio := true } } := LockKept.step ⟨rfl, rfl⟩
    exact .ite (.next (.refl s)) (.next (hk.trans (blockReset_lockStep _)))
  case badgerRelease romOk krst kdio => exact execBadgerRelease_leaves romOk s krst kdio
  case sidebandReady blocks keys =>
    exact .ite (.next (LockKept.step (by simp [LockKept, lockOf]))) (.next (.refl s))
  case batlossRise => exact .ite (.next (.refl s)) (.next (LockKept.step (by simp [LockKept, lockOf])))
  case batteryWriteDone ok => exact execBatteryWriteDone_leaves ok s
  case tbiUpdate tbi stalls => exact keeps (execTbiUpdate_leaves tbi s stalls)
  -- The host's writes to a moth.
  case mothPcWrite | mothImemWrite | mothRestartWrite | mothClockWrite | mothInject =>
    refine keeps ?_
    simp only [exec, execMothPcWrite, execMothImemWrite, execMothRestartWrite, execMothClockWrite, execMothInject, mothHostWrite]
    (repeat' split) <;> simp [Keeps]
  case mothNop | mothShout | mothShin | mothEdge | mothEdgeMet | mothEdgeTimeout | mothSample | mothDrive | mothToggle | mothLoop
      | mothCount | mothCountEnd | mothPinEdgeCount | mothCapt | mothFetch | mothStow | mothStallEnd | mothJmp | mothSet | mothDelayEnd
      | mothIllegalInstruction | mothEnable | mothDisable | mothInjectedExecute =>
    refine keeps ?_
    simp only [exec, execMothNop, execMothShout, execMothShin, execMothEdge, execMothEdgeMet, execMothEdgeTimeout, execMothSample,
      execMothDrive, execMothToggle, execMothLoop, execMothCount, execMothCountEnd, execMothPinEdgeCount, execMothCapt, execMothFetch,
      execMothStow, execMothStallEnd, execMothJmp, execMothSet, execMothDelayEnd, execMothIllegalInstruction, execMothEnable,
      execMothDisable, execMothInjectedExecute]
    (repeat' split) <;> simp [Keeps]
  -- Events and accesses that reach neither the queue nor the boundary.
  all_goals
    refine keeps ?_
    simp only [exec, execTimebaseForwardStep, execTimebaseBackwardStep, execVlowackChange, execKsealFilterChange,
      execMisalignedHostAccess, execUnmappedHostAccess, execAgeLimitWrite, execHostqCellPop, execClusterWorstRead, execListmaxRead,
      execEventClaim, execEventEoi, execSourceInsvcClear, execSourcePendClear, execSoftwareEventSet, execSoftwareEventClear,
      execSourceDisable, execHubDisable, execPowerRequest, execDomainPowerUpDone, execSealParameterWrite, execContextViewWrite,
      execStagingBufferWrite, execHalt, execResume, execStep, execLockfree, execDebugHaltTaken, execTerminalTxRead, execTerminalRxWrite,
      execLoadUbankDone, execReleasePrecheckPass, execReleaseTileCopy, execSettIdentReport, execMainTickEdge, execPublishReserveStart,
      execFoxSubtickEdge, execFoxSubtickReserve, execSettTickEdge, execSettPublishReserve, execQueueAgeSweep, execInboundCellArrival,
      execHostQueueArrival, execPublicationCopyAccept, execPublicationEntryWrite, execPublicationHeaderDone, execHistoryCopyAccept,
      execHistoryEntryWrite, execHistoryEntryComplete, execGatewayCellArrival, execGatewayCellPass, execChainPortDown,
      execRingStatusSend, execBreakClearSend, execLaneRetrainDone, execEnumerationOfferTimeout, execTentativeAddressDrop,
      execMicrowordRepairDone, execEventEntry, execSettMailboxCommit, execEventSourcePending, execPinFilterChange, execEventOffer,
      execHoldoffExpire, execScrubTileRead, execSuspectTileRead, execTileRepair, execTileRebuild, execMirrorFillDone,
      execClusterFailDetect, execEngineDoze, execNapEntryDone, execEngineWake, execTimedWakeStart, execTraceRecordDrain,
      execPadSupplyChange]
    (repeat' split) <;> simp [Keeps]

/-- Settles O2: by the case split of `exec_lockStep` over the commands, the end of an unlock apart. -/
theorem commandsLeaveTheQueue : Obligations.CommandsLeaveTheQueue := by
  intro c s t h
  by_cases hc : ∃ blocks, c = .debugUnlockDone blocks
  · obtain ⟨blocks, rfl⟩ := hc
    exact (execDebugUnlockDone_leaves blocks s t h).1
  · exact (exec_lockStep c s (fun b hb => hc ⟨b, hb⟩) t h).pending

/-- Every command keeps the fuse and the invariant of the lock. -/
theorem exec_lockInv {c : Instr} {s t : State} (h : exec c s = .next t) : t.io.fused = s.io.fused ∧ (LockInv s → LockInv t) := by
  by_cases hc : ∃ blocks, c = .debugUnlockDone blocks
  · obtain ⟨blocks, rfl⟩ := hc
    obtain ⟨_, hf, hi, _⟩ := execDebugUnlockDone_leaves blocks s t h
    exact ⟨hf, hi⟩
  · have hs := exec_lockStep c s (fun b hb => hc ⟨b, hb⟩) t h
    exact ⟨hs.fused, hs.inv⟩

/-- Settles O3: a step is its front command on the rest of the queue, and every command keeps the invariant. -/
theorem lockInvariantStep : Obligations.LockInvariantStep := by
  intro s t hi h
  unfold step at h
  split at h
  · cases h; exact hi
  · exact (exec_lockInv h).2 hi

/-- Settles O5: every command but the end of an unlock leaves a locked part locked, and that end opens it only where an unlock runs. -/
theorem onlyAnUnlockOpensDebug : Obligations.OnlyAnUnlockOpensDebug := by
  intro c s t hi h
  refine ⟨(exec_lockInv h).1, fun hl ho => ?_⟩
  by_cases hc : ∃ blocks, c = .debugUnlockDone blocks
  · obtain ⟨blocks, rfl⟩ := hc
    obtain ⟨_, _, _, hu⟩ := execDebugUnlockDone_leaves blocks s t h
    exact ⟨⟨blocks, rfl⟩, hu hl ho⟩
  · have hs := exec_lockStep c s (fun b hb => hc ⟨b, hb⟩) t h
    rw [hs.stays hi hl] at ho
    cases ho

/-- Settles O4: at reset nothing is fused, locked or open to debug. -/
theorem lockInvariantReset : Obligations.LockInvariantReset := ⟨nofun, nofun, nofun⟩

end Sys2Proof.Machine

end

/-! Instructions that write registers only (chapters 6 and 7): with a legal minor every operation has a result, and a result in a general
register, a predicate or a capability register is the whole of what the bundle does. -/

section

namespace Sys2Proof.Machine

/-! Each operation has a result at every minor that its decode gives it. -/

theorem aluOp_some {m : Nat} (h : m ≤ 14) (a b : Word) : ∃ v, aluOp m a b = some v := by
  interval_cases m <;> exact ⟨_, rfl⟩

theorem unaryOp_some {m : Nat} (h : m ≤ 6) (a : Word) : ∃ v, unaryOp m a = some v := by
  interval_cases m <;> exact ⟨_, rfl⟩

theorem satOp_some {m : Nat} (h : m ≤ 8) (a b : Word) : ∃ v, satOp m a b = some v := by
  interval_cases m <;> exact ⟨_, rfl⟩

theorem mulOp_some {m : Nat} (h : m ≤ 6) (d a b : Word) : ∃ v, mulOp m d a b = some v := by
  interval_cases m <;> exact ⟨_, rfl⟩

theorem bitOp_some {m : Nat} (h : m ≤ 8) (a : Word) : ∃ v, bitOp m a = some v := by
  interval_cases m <;> exact ⟨_, rfl⟩

theorem fldOp_some {m : Nat} (h : m ≤ 4) (d a b : Word) : ∃ v, fldOp m d a b = some v := by
  interval_cases m <;> exact ⟨_, rfl⟩

theorem fopOp_some {m : Nat} (h : m ≤ 11) (d a b : Word) : ∃ v, fopOp m d a b = some v := by
  interval_cases m <;> exact ⟨_, rfl⟩

theorem fcvtOp_some {m : Nat} (h : m ≤ 5) (a : Word) : ∃ v, fcvtOp m a = some v := by
  interval_cases m <;> exact ⟨_, rfl⟩

theorem cmpOp_some {m : Nat} (h : m ≤ 11) (a b : Word) : ∃ v, cmpOp m a b = some v := by
  interval_cases m <;> exact ⟨_, rfl⟩

theorem plogOp_some {m : Nat} (h : m ≤ 7) (a b : Bool) : ∃ v, plogOp m a b = some v := by
  interval_cases m <;> exact ⟨_, rfl⟩

theorem fcmpOp_some {m : Nat} (h : m ≤ 6) (a b : Word) : ∃ v, fcmpOp m a b = some v := by
  interval_cases m <;> exact ⟨_, rfl⟩

/-! What the bundle of an instruction with one result comes to. -/

/-- The operation of the bundle that an engine issues, by its major and minor. -/
theorem Runs.sylOp {s : State} {n : Nat} {y : Syl} {op : Op} {nx : Nat} (h : Runs s n y op nx) : sylOp y = some op :=
  (sylLegal_parts (decode_single_legal h.bundle)).1

/-- The compares are the majors up to 0x19. -/
theorem opOf_cmp_major : ∀ j : Fin 256, ∀ m : Fin 16, opOf j m = some .cmp → j.val ≤ 0x19 := by
  decide +kernel

theorem Runs.cmp_major {s : State} {n : Nat} {y : Syl} {nx : Nat} (h : Runs s n y .cmp nx) : sylMajor y.word ≤ 0x19 := by
  have hop := h.sylOp
  unfold Machine.sylOp at hop
  split at hop
  · cases hop
  · exact opOf_cmp_major ⟨_, sylMajor_lt y.word⟩ ⟨_, sylMinor_lt y.word⟩ hop

section

variable {s : State} {n : Nat} {y : Syl} {op : Op} {nx : Nat} {z : At}

theorem exec_runs_g (h : Runs s n y op nx) (h1 : op ≠ .rep) (h2 : op ≠ .repi) {r : Nat} {v : Word}
    (he : evOp s n { here := pcAt (engGet s n).pc, next := nx } y op true = .acts [.g r v]) :
    exec (commandOf op n) s = .next (engSet s n (putG (retired (engGet s n) nx) r v)) := by
  rw [exec_runs_reg h h1 h2 he rfl, afterActs_g]

theorem exec_runs_p (h : Runs s n y op nx) (h1 : op ≠ .rep) (h2 : op ≠ .repi) {r : Nat} {v : Bool}
    (he : evOp s n { here := pcAt (engGet s n).pc, next := nx } y op true = .acts [.p r v]) :
    exec (commandOf op n) s = .next (engSet s n (putP (retired (engGet s n) nx) r v)) := by
  rw [exec_runs_reg h h1 h2 he rfl, afterActs_p]

theorem exec_runs_c (h : Runs s n y op nx) (h1 : op ≠ .rep) (h2 : op ≠ .repi) {r : Nat} {v : W128}
    (he : evOp s n { here := pcAt (engGet s n).pc, next := nx } y op true = .acts [.c r v]) :
    exec (commandOf op n) s = .next (engSet s n (putC (retired (engGet s n) nx) r v)) := by
  rw [exec_runs_reg h h1 h2 he rfl, afterActs_c]

/-- An operation whose result is `o`, which is one, writes it to `g[rd]`. -/
theorem exec_runs_evG (h : Runs s n y op nx) (h1 : op ≠ .rep) (h2 : op ≠ .repi) {r : Nat} {o : Option Word}
    (he : evOp s n { here := pcAt (engGet s n).pc, next := nx } y op true = evG z r o) (ho : ∃ v, o = some v) :
    ∃ v, o = some v ∧ exec (commandOf op n) s = .next (engSet s n (putG (retired (engGet s n) nx) r v)) := by
  obtain ⟨v, rfl⟩ := ho
  exact ⟨v, rfl, exec_runs_g h h1 h2 he⟩

/-- The same of a predicate. -/
theorem exec_runs_evP (h : Runs s n y op nx) (h1 : op ≠ .rep) (h2 : op ≠ .repi) {r : Nat} {o : Option Bool}
    (he : evOp s n { here := pcAt (engGet s n).pc, next := nx } y op true = evP z r o) (ho : ∃ v, o = some v) :
    ∃ v, o = some v ∧ exec (commandOf op n) s = .next (engSet s n (putP (retired (engGet s n) nx) r v)) := by
  obtain ⟨v, rfl⟩ := ho
  exact ⟨v, rfl, exec_runs_p h h1 h2 he⟩

/-- The same of a derived capability, where its derivation is allowed. -/
theorem exec_runs_evC (h : Runs s n y op nx) (h1 : op ≠ .rep) (h2 : op ≠ .repi) {r : Nat} {o : Chk W128}
    (he : evOp s n { here := pcAt (engGet s n).pc, next := nx } y op true = evC r o) {v : W128} (ho : o = .ok v) :
    exec (commandOf op n) s = .next (engSet s n (putC (retired (engGet s n) nx) r v)) := by
  subst ho
  exact exec_runs_c h h1 h2 he

end

/-- Settles O14: every operation has a result at a legal minor, and writes it to `g[rd]`. -/
theorem integerInstructionsComplete : Obligations.IntegerInstructionsComplete := by
  intro s n y nx a b d m j out
  refine ⟨fun h => ?alu, fun h => ?aluImm, fun h => ?shiftImm, fun h => ?unary, fun h => ?sat, fun h => ?mul, fun h => ?bit, fun h => ?fld,
    fun h => ?fop, fun h => ?fcvt, fun h => exec_runs_g h (by simp) (by simp) rfl, fun h => exec_runs_g h (by simp) (by simp) rfl,
    fun h => exec_runs_g h (by simp) (by simp) rfl, fun h => exec_runs_g h (by simp) (by simp) rfl⟩
  all_goals have hm := sylOp_minor h.sylOp
  case alu => exact exec_runs_evG h (by simp) (by simp) rfl (aluOp_some (by simpa using hm) a b)
  case unary => exact exec_runs_evG h (by simp) (by simp) rfl (unaryOp_some (by simpa using hm) a)
  case sat => exact exec_runs_evG h (by simp) (by simp) rfl (satOp_some (by simpa using hm) a b)
  case bit => exact exec_runs_evG h (by simp) (by simp) rfl (bitOp_some (by simpa using hm) a)
  case fld => exact exec_runs_evG h (by simp) (by simp) rfl (fldOp_some (by simpa using hm) d a b)
  case fcvt => exact exec_runs_evG h (by simp) (by simp) rfl (fcvtOp_some (by simpa using hm) a)
  case fop =>
    simp only [Bool.and_eq_true, decide_eq_true_eq] at hm
    exact exec_runs_evG h (by simp) (by simp) rfl (fopOp_some hm.1.1 d a b)
  case mul =>
    simp only [Bool.or_eq_true, decide_eq_true_eq] at hm
    exact exec_runs_evG h (by simp) (by simp) rfl (mulOp_some (by simp only [j, m]; split <;> omega) d a b)
  case aluImm =>
    simp only [decide_eq_true_eq] at hm
    obtain hj | hj | hj | hj : j = 3 ∨ j = 4 ∨ j = 5 ∨ j = 6 := by omega
    all_goals
      refine exec_runs_evG (z := { here := pcAt (engGet s n).pc, next := nx }) h (by simp) (by simp) ?_ (aluOp_some (by rw [hj]; decide) a b)
      simp only [evOp, show sylMajor y.word = _ from hj, hj]
      rfl
  case shiftImm =>
    simp only [decide_eq_true_eq] at hm
    obtain hj | hj | hj | hj : j = 7 ∨ j = 8 ∨ j = 9 ∨ j = 10 := by omega
    all_goals
      refine exec_runs_evG (z := { here := pcAt (engGet s n).pc, next := nx }) h (by simp) (by simp) ?_ (aluOp_some (by rw [hj]; decide) a _)
      simp only [evOp, show sylMajor y.word = _ from hj, hj]
      rfl

/-- Writing the predicates one after another leaves everything of the engine but them. -/
theorem foldl_putP (l : List Nat) (f : Nat → Bool) (e : Engine) :
    (l.map (fun i => Act.p (i + 1) (f i))).foldl regAct e =
      { e with p := l.foldl (fun q i => putBit q (i + 1) (f i)) e.p } := by
  induction l generalizing e with
  | nil => rfl
  | cons i l ih => simp only [List.map_cons, List.foldl_cons, ih]; rfl

end Sys2Proof.Machine

end

section

namespace Sys2Proof.Machine

/-! The run of a bundle that stands alone, whatever it does. -/

theorem isHead_of_ready {s : State} {n : Nat} {ok : Hold → Bool} (h : engReady s n ok = true) : isHead s n = true := by
  unfold engReady engLeads at h
  simp only [Bool.and_eq_true] at h
  exact h.1.1.1

/-- An engine that leads and has no partner is a pair by itself. -/
theorem pairOf_single {s : State} {n : Nat} (hh : isHead s n = true) (hp : partnerOf s n = none) : pairOf s n = [n] := by
  unfold pairOf
  unfold isHead lockId at hh
  unfold partnerOf at hp
  split
  next hc =>
    simp only [Bool.and_eq_true, decide_eq_true_eq] at hc
    have hne : n ≠ 64 := by omega
    have hn5 : n ≠ 65 := by omega
    simp only [hne, if_false, hc.1, Bool.true_and, decide_eq_true_eq] at hp
    simp only [hn5, if_false, hc.1, hc.2, decide_true, Bool.and_self, if_true, beq_iff_eq] at hh
    split at hp
    · cases hp
    · omega
  next => rfl

theorem unlessHeld_of_trc {s t : State} (n : Nat) (h : t.trc = s.trc) : unlessHeld s n t = .next t := by
  simp [unlessHeld, trcHeld, trcDropped, trcGet, h]

/-- The command of a bundle that is run once, outside lockstep and repeats, with no lock wait. -/
theorem runBundle_unlessHeld {s t : State} {n : Nat} (hh : (engGet s n).hold = .none) (hp : pairOf s n = [n])
    (hs : partnerOf s n = none) (ht : applyOne s n 0 (bundleRes s n) = .next t) (hl : (engGet t n).hold ≠ .lock)
    (hr : inRepBody (engGet t n) = false) : runBundle s n = unlessHeld s n t := by
  have h0 : trcStallCount s n ((engGet s n).hold == .trace) = s := by rw [hh]; rfl
  have h1 : runWait s n = .next t := by simp [runWait, runOnce, hs, ht, hl]
  rw [runBundle, h0, runRep, h1]
  dsimp only
  rw [hp, hr, unlessHeld]
  split <;> rfl

/-- The bundle of engine `n`, which has no partner in lockstep, is the syllable `y` of operation `op`, whose guard is true and whose checks
pass. -/
structure Lone (s : State) (n : Nat) (y : Syl) (op : Op) (nx : Nat) : Prop where
  single : partnerOf s n = none
  head : isHead s n = true
  bundle : decodeBundle s n = .ok [y] [op] nx
  noSwap : (engGet s n).swapPend = false
  noStep : (engGet s n).dbg.stepping = false
  noDonePos : (engGet s n).u.donePos = []
  noDone : doneActs (engGet s n) = []
  guard : guardOf (engGet s n) y = true
  priv : entPriv y.entry = true → privOk (engGet s n).compat (engGet s n).ring (engGet s n).pcc = true
  need : needOk (engGet s n) y = true
  hard : sylUcode y = false

theorem Lone.own {s : State} {n : Nat} {y : Syl} {op : Op} {nx : Nat} (h : Lone s n y op nx) : pairOf s n = [n] :=
  pairOf_single h.head h.single

/-- Such a bundle that nothing holds: as `Runs`, but for one that is run again once its wait is over. -/
structure Sole (s : State) (n : Nat) (y : Syl) (op : Op) (nx : Nat) : Prop extends Lone s n y op nx where
  unheld : (engGet s n).hold = .none

theorem Runs.sole {s : State} {n : Nat} {y : Syl} {op : Op} {nx : Nat} (h : Runs s n y op nx) : Sole s n y op nx where
  unheld := h.unheld
  single := h.single
  head := isHead_of_ready h.ready
  bundle := h.bundle
  noSwap := h.noSwap
  noStep := h.noStep
  noDonePos := h.noDonePos
  noDone := by rw [doneActs, h.noDone]; rfl
  guard := h.guard
  priv := h.priv
  need := h.need
  hard := h.hard

/-- What an engine is like between bundles outside a delay slot, a repeat, a step and a bank swap. -/
structure Calm (e : Engine) : Prop where
  noSlot : e.xfer = none
  noRep : e.rep = none
  noSwap : e.swapPend = false
  noStep : e.dbg.stepping = false
  unheld : e.hold = .none

theorem Calm.of_flow {e f : Engine} (h : Calm e) (k : KeepsFlow e f) : Calm f :=
  ⟨k.xfer.trans h.noSlot, k.rep.trans h.noRep, k.swap.trans h.noSwap, (congrArg DbgState.stepping k.dbg).trans h.noStep,
    k.hold.trans h.unheld⟩

theorem Sole.calm {s : State} {n : Nat} {y : Syl} {op : Op} {nx : Nat} (h : Sole s n y op nx) (hx : (engGet s n).xfer = none)
    (hr : (engGet s n).rep = none) : Calm (bundleOver (engGet s n)) :=
  ⟨hx, hr, h.noSwap, h.noStep, rfl⟩

theorem Calm.withPc {e : Engine} (h : Calm e) (p : Word) : Calm { e with pc := p } :=
  ⟨h.noSlot, h.noRep, h.noSwap, h.noStep, h.unheld⟩

theorem Runs.calm {s : State} {n : Nat} {y : Syl} {op : Op} {nx : Nat} (h : Runs s n y op nx) : Calm (bundleOver (engGet s n)) :=
  h.sole.calm h.noSlot h.noRep

section

variable {s : State} {n : Nat} {y : Syl} {op : Op} {nx : Nat}

/-- The bundle address and the address after it, of the bundle in hand. -/
def atNow (s : State) (n nx : Nat) : At := { here := pcAt (engGet s n).pc, next := nx }

/-- A bundle of one hardwired syllable comes to what its operation comes to. -/
theorem evList_lone (h : Lone s n y op nx) :
    evList s n (atNow s n nx) (engGet s n).u.donePos 0 [(y, op)] =
      (match evOp s n (atNow s n nx) y op true with
       | .acts l => .acts (l ++ [])
       | .ucode _ => .ucode 1
       | o => o) := by
  have hp : (entPriv y.entry && !privOk (engGet s n).compat (engGet s n).ring (engGet s n).pcc) = false := by
    cases hq : entPriv y.entry
    · rfl
    · simp [h.priv hq]
  have hg : evSyl s n (atNow s n nx) y op = evOp s n (atNow s n nx) y op true := by simp [evSyl, h.guard, hp, h.need, h.hard]
  rw [evList, h.noDonePos]
  simp only [hasNat, List.contains_nil, Bool.false_eq_true, if_false, hg, evList]
  cases evOp s n (atNow s n nx) y op true <;> rfl

/-- What an operation comes to, as what its bundle comes to. -/
def solo (s : State) (n : Nat) (y : Syl) (op : Op) (nx : Nat) : Ev → BRes
  | .acts l => .retire l nx (hasCond [y] [op])
  | .trap t => .trap t
  | .recBad i t => .recBad i t
  | .hold x => .hold x
  | .far ld a size => .far ld a size
  | .stuck f => .stuck f
  | .refuse => .refuse
  | .pushPart cs => .pushPart cs
  | .ucode _ => bundleRes s n

theorem bundleRes_lone (h : Lone s n y op nx) (h1 : op ≠ .rep) (h2 : op ≠ .repi) :
    bundleRes s n = solo s n y op nx (evOp s n (atNow s n nx) y op true) := by
  have he := evList_lone h
  cases hev : evOp s n (atNow s n nx) y op true with
  | ucode => rfl
  | _ =>
    unfold bundleRes
    simp only [h.bundle]
    split
    · rename_i hq; cases hq; exact absurd rfl h1
    · rename_i hq; cases hq; exact absurd rfl h2
    · rw [hev] at he
      simp only [List.zip_cons_cons, List.zip_nil_left, atNow] at he ⊢
      rw [he]
      simp [solo, h.noDone]

/-- Its command, where it retires with the acts `acts`. -/
theorem runBundle_retire (h : Sole s n y op nx) (h1 : op ≠ .rep) (h2 : op ≠ .repi) {acts : List Act}
    (he : evOp s n (atNow s n nx) y op true = .acts acts) {t : State} (ht : retireOne s n 0 acts nx (hasCond [y] [op]) = t)
    (hl : (engGet t n).hold ≠ .lock) (hr : inRepBody (engGet t n) = false) : runBundle s n = unlessHeld s n t := by
  refine runBundle_unlessHeld h.unheld h.own h.single ?_ hl hr
  rw [bundleRes_lone h.toLone h1 h2, he, ← ht]
  rfl

/-! Retirement, by the acts that a bundle leaves. -/

/-- An act after which the engine goes on at the next bundle. -/
def goesOn : Act → Bool
  | .xfer _ | .eret | .trap _ | .haltReq | .ctxCommit | .ctxDrop => false
  | _ => true

/-- The state of an engine's bundle once its acts have been applied in order. -/
def acted (s : State) (n : Nat) (acts : List Act) : State :=
  acts.foldl (applyAct n 0 (engGet s n).window) (engMap s n bundleOver)

theorem acts_any_false {acts : List Act} {p : Act → Bool} (h : acts.all goesOn = true) (hp : ∀ a, goesOn a = true → p a = false) :
    acts.any p = false :=
  List.any_eq_false.mpr fun a ha => by simp [hp a (List.all_eq_true.mp h a ha)]

theorem acts_findSome_none {acts : List Act} {α : Type} {p : Act → Option α} (h : acts.all goesOn = true)
    (hp : ∀ a, goesOn a = true → p a = none) : acts.findSome? p = none :=
  List.findSome?_eq_none_iff.mpr fun a ha => hp a (List.all_eq_true.mp h a ha)

theorem noClose_order {acts : List Act} (h : acts.any actCloses = false) :
    acts.filter (fun a => !actCloses a) ++ acts.filter actCloses = acts := by
  have hn : ∀ a ∈ acts, actCloses a = false := fun a ha => by simpa using List.any_eq_false.mp h a ha
  rw [List.filter_eq_self.mpr (fun a ha => by simp [hn a ha]), List.filter_eq_nil_iff.mpr (fun a ha => by simp [hn a ha]),
    List.append_nil]

/-- A bundle whose acts raise nothing: where it goes on, when no step and no bank swap waits there. -/
theorem retireOne_quiet {acts : List Act} {c : Bool} {t : State}
    (ht : pcAdvance (acted s n acts) n (pcAt (engGet s n).pc) nx acts c = t) (he : acts.any (fun a => a == .eret) = false)
    (htr : acts.findSome? (fun a => match a with | .trap t => some t | _ => none) = none)
    (hh : acts.any (fun a => a == .haltReq) = false) (hc : acts.any actCloses = false)
    (hs : (engGet t n).swapPend = false) (hd : (engGet t n).dbg.stepping = false) : retireOne s n 0 acts nx c = t := by
  have key : retireOne s n 0 acts nx c =
      let s1 := (acts.filter (fun a => !actCloses a) ++ acts.filter actCloses).foldl (applyAct n 0 (engGet s n).window) (engMap s n bundleOver)
      if acts.any (fun a => a == .eret) then stepEnd (eretTake s1 n) n
      else afterClose (afterRoutine (stepEnd (afterRetire (pcAdvance s1 n (pcAt (engGet s n).pc) nx acts c) n acts) n) n) n acts := rfl
  rw [key]
  dsimp only
  rw [noClose_order hc, he, show acts.foldl _ _ = acted s n acts from rfl, ht, afterRetire_plain _ _ _ htr hh, stepEnd_plain _ _ hd,
    afterRoutine_plain _ _ hs, afterClose_plain _ _ _ hc]
  rfl

/-- A bundle of acts that go on. -/
theorem retireOne_goesOn {acts : List Act} {c : Bool} (ha : acts.all goesOn = true) (hz : Calm (engGet (acted s n acts) n)) :
    retireOne s n 0 acts nx c = goOn (acted s n acts) n nx := by
  have hx : actXfer acts = none := acts_findSome_none ha fun a h => by cases a <;> first | rfl | cases h
  have hz' : Calm (engGet (goOn (acted s n acts) n nx) n) := by rw [goOn, engMap, engGet_engSet]; exact hz.withPc _
  exact retireOne_quiet (pcAdvance_plain _ n _ nx acts c hz.noSlot hz.noRep hx)
    (acts_any_false ha fun a h => by cases a <;> first | rfl | cases h)
    (acts_findSome_none ha fun a h => by cases a <;> first | rfl | cases h)
    (acts_any_false ha fun a h => by cases a <;> first | rfl | cases h)
    (acts_any_false ha fun a h => by cases a <;> first | rfl | cases h) hz'.noSwap hz'.noStep

theorem Calm.not_inRepBody {e : Engine} (h : Calm e) : inRepBody e = false := by rw [inRepBody, h.noRep]

/-- The command of a bundle whose acts go on. -/
theorem runBundle_goesOn (h : Sole s n y op nx) (h1 : op ≠ .rep) (h2 : op ≠ .repi) {acts : List Act}
    (he : evOp s n (atNow s n nx) y op true = .acts acts) (ha : acts.all goesOn = true) (hz : Calm (engGet (acted s n acts) n)) :
    runBundle s n = unlessHeld s n (goOn (acted s n acts) n nx) := by
  have hz' : Calm (engGet (goOn (acted s n acts) n nx) n) := by rw [goOn, engMap, engGet_engSet]; exact hz.withPc _
  exact runBundle_retire h h1 h2 he (retireOne_goesOn ha hz) (by rw [hz'.unheld]; nofun) hz'.not_inRepBody

theorem exec_goesOn (h : Runs s n y op nx) (h1 : op ≠ .rep) (h2 : op ≠ .repi) {acts : List Act}
    (he : evOp s n (atNow s n nx) y op true = .acts acts) (ha : acts.all goesOn = true) (hz : Calm (engGet (acted s n acts) n)) :
    exec (commandOf op n) s = unlessHeld s n (goOn (acted s n acts) n nx) := by
  rw [exec_alone h.toAlone, runBundle_goesOn h.sole h1 h2 he ha hz]

end

/-! Predicates and special registers. -/

theorem bitAt_putBit (b : Byte) {k j : Nat} (hk : k < 8) (v : Bool) : bitAt (putBit b k v) j = if j = k then v else bitAt b j := by
  unfold bitAt putBit
  by_cases h : j = k
  · subst h; cases v <;> simp [hk]
  · cases v <;> simp [h, Ne.symm h]
    intro hb
    exact BitVec.lt_of_getLsbD hb

/-- SETP sets p1 to p7 from bits 1 to 7. -/
theorem setp_bits (q : Byte) (f : Nat → Bool) {k : Nat} (h1 : 1 ≤ k) (h7 : k ≤ 7) :
    bitAt ((List.range 7).foldl (fun q i => putBit q (i + 1) (f (i + 1))) q) k = f k := by
  have hr : List.range 7 = [0, 1, 2, 3, 4, 5, 6] := rfl
  rw [hr]
  simp only [List.foldl_cons, List.foldl_nil]
  interval_cases k <;> simp [bitAt_putBit]

/-- Settles O15: the compares and logic operations have a result at a legal minor; SETP writes the seven bits one after another. -/
theorem predicateInstructionsComplete : Obligations.PredicateInstructionsComplete := by
  intro s n y nx e a b m j out
  refine ⟨fun h => ?cmp, fun h => ?plog, fun h => ?fcmp, fun h => ?setp⟩
  all_goals have hm := sylOp_minor h.sylOp
  case cmp =>
    have hj : j ≤ 0x19 := h.cmp_major
    simp only [Bool.or_eq_true, decide_eq_true_eq] at hm
    refine exec_runs_evP h (by simp) (by simp) rfl (cmpOp_some ?_ a b)
    simp only [m, j] at *
    repeat' split
    all_goals omega
  case plog => exact exec_runs_evP h (by simp) (by simp) rfl (plogOp_some (by simpa using hm) _ _)
  case fcmp => exact exec_runs_evP h (by simp) (by simp) rfl (fcmpOp_some (by simpa using hm) a b)
  case setp =>
    refine ⟨_, ?_, fun k h1 h7 => setp_bits e.p (bitAt a) h1 h7⟩
    refine (exec_runs_reg h (by simp) (by simp) (acts := (List.range 7).map (fun i => Act.p (i + 1) (bitAt a (i + 1)))) rfl rfl).trans ?_
    simp only [afterActs, foldl_putP]
    rfl

/-- Settles O16: every derivation that is allowed is the one result of its instruction. -/
theorem capabilityInstructionsComplete : Obligations.CapabilityInstructionsComplete := by
  intro s n y nx e cs ct x outC outG
  exact
    ⟨fun h => exec_runs_c h (by simp) (by simp) rfl,
     fun h v hv => exec_runs_evC h (by simp) (by simp) rfl hv,
     fun h v hv => exec_runs_evC h (by simp) (by simp) rfl hv,
     fun h v hv => exec_runs_evC h (by simp) (by simp) rfl hv,
     fun h v hv => exec_runs_evC h (by simp) (by simp) rfl hv,
     fun h => exec_runs_g h (by simp) (by simp) rfl,
     fun h => exec_runs_g h (by simp) (by simp) rfl,
     fun h => exec_runs_g h (by simp) (by simp) rfl,
     fun h => exec_runs_g h (by simp) (by simp) rfl,
     fun h hc v hv => exec_runs_evC h (by simp) (by simp) (if_neg (by rw [hc]; nofun)) hv,
     fun h hc v hv => exec_runs_evC h (by simp) (by simp) (if_neg (by rw [hc]; nofun)) hv,
     fun h hc v hv => exec_runs_evC h (by simp) (by simp) (if_neg (by rw [hc]; nofun)) hv⟩

end Sys2Proof.Machine

end

section

namespace Sys2Proof.Machine

/-! Register acts and the program counter. -/

theorem saveSet_withPc (e : Engine) (t : Nat) (v : Save) (p : Word) : saveSet { e with pc := p } t v = { saveSet e t v with pc := p } := by
  unfold saveSet; split <;> rfl

theorem sprPut_withPc (e : Engine) (k : Nat) (v p : Word) : sprPut { e with pc := p } k v = { sprPut e k v with pc := p } := by
  unfold sprPut
  split
  case h_8 =>
    split
    · exact saveSet_withPc _ _ _ _
    · rfl
  all_goals rfl

theorem putG_withPc (e : Engine) (r : Nat) (v p : Word) : putG { e with pc := p } r v = { putG e r v with pc := p } := by
  unfold putG; split <;> rfl

theorem putP_withPc (e : Engine) (r : Nat) (v : Bool) (p : Word) : putP { e with pc := p } r v = { putP e r v with pc := p } := by
  unfold putP; split <;> rfl

theorem putC_withPc (e : Engine) (r : Nat) (v : W128) (p : Word) : putC { e with pc := p } r v = { putC e r v with pc := p } := by
  unfold putC; split <;> rfl

theorem regAct_withPc (e : Engine) (a : Act) (p : Word) : regAct { e with pc := p } a = { regAct e a with pc := p } := by
  cases a
  case g => exact putG_withPc _ _ _ _
  case p => exact putP_withPc _ _ _ _
  case c => exact putC_withPc _ _ _ _
  case spr => exact sprPut_withPc _ _ _ _
  case xpcc => exact saveSet_withPc _ _ _ _
  all_goals rfl

theorem foldl_regAct_withPc (acts : List Act) (e : Engine) (p : Word) :
    acts.foldl regAct { e with pc := p } = { acts.foldl regAct e with pc := p } := by
  induction acts generalizing e with
  | nil => rfl
  | cons a t ih => rw [List.foldl_cons, regAct_withPc, ih]; rfl

/-- Register acts write the engine that has already gone on. -/
theorem afterActs_eq (e : Engine) (acts : List Act) (nx : Nat) : afterActs e acts nx = acts.foldl regAct (retired e nx) :=
  (foldl_regAct_withPc acts (bundleOver e) _).symm

section

variable {s : State} {n : Nat} {y : Syl} {op : Op} {nx : Nat}

/-- A hardwired instruction alone whose acts write registers only. -/
theorem exec_runs_regs (h : Runs s n y op nx) (h1 : op ≠ .rep) (h2 : op ≠ .repi) {acts : List Act}
    (he : evOp s n (atNow s n nx) y op true = .acts acts) (ha : acts.all isRegAct = true) :
    exec (commandOf op n) s = .next (engSet s n (acts.foldl regAct (retired (engGet s n) nx))) := by
  rw [exec_runs_reg h h1 h2 he ha, afterActs_eq]

/-- The side effect of reading a special register changes registers of the engine alone. -/
theorem sprSeen_flow (s : State) (n k : Nat) : KeepsFlow (engGet s n) (engGet (sprSeen s n k) n) := by
  unfold sprSeen
  split
  · rw [engMap, engGet_engSet]; exact ⟨rfl, rfl, rfl, rfl, rfl, rfl, rfl, rfl, rfl⟩
  · rw [engMap, engGet_engSet]; exact ⟨rfl, rfl, rfl, rfl, rfl, rfl, rfl, rfl, rfl⟩
  · exact ⟨rfl, rfl, rfl, rfl, rfl, rfl, rfl, rfl, rfl⟩

theorem sprSeen_trc (s : State) (n k : Nat) : (sprSeen s n k).trc = s.trc := by
  unfold sprSeen
  split <;> rfl

theorem exec_mfs (h : Runs s n y .mfs nx) {v : Word} (hv : sprGet s n (sylRa y.word) = some v) :
    exec (.mfs n) s = .next (goOn (sprSeen (engSet s n (putG (bundleOver (engGet s n)) (sylRd y.word) v)) n (sylRa y.word)) n nx) := by
  have he : evOp s n (atNow s n nx) y .mfs true = .acts [.g (sylRd y.word) v, .sprRead (sylRa y.word)] := by simp [evOp, evSpr, hv]
  have hz : acted s n [.g (sylRd y.word) v, .sprRead (sylRa y.word)] =
      sprSeen (engSet s n (putG (bundleOver (engGet s n)) (sylRd y.word) v)) n (sylRa y.word) := by
    simp [acted, applyAct, engMap]
  have hc : Calm (engGet (acted s n [.g (sylRd y.word) v, .sprRead (sylRa y.word)]) n) := by
    rw [hz]
    refine Calm.of_flow ?_ (sprSeen_flow _ n _)
    rw [engGet_engSet]
    exact h.calm.of_flow (putG_flow _ _ _)
  refine (exec_goesOn h (by simp) (by simp) he rfl hc).trans ?_
  rw [hz]
  exact unlessHeld_of_trc n (sprSeen_trc _ _ _)

end

/-- Settles O17: all but MFS write registers only; MFS has the side effect of its read besides. -/
theorem specialRegisterInstructionsComplete : Obligations.SpecialRegisterInstructionsComplete := by
  intro s n y nx e r rd ra out
  refine ⟨fun h v hv => exec_mfs h hv, fun h hw hp => ?mts, fun h hr hp => ?cmfs, fun h h1 h3 hp => ?cmts, fun h hf => ?twr, fun h hf => ?twrFull,
    fun h hf => ?trd, fun h hf => ?trdEmpty, fun h hf => ?fence⟩
  case mts =>
    have hp' : (sprPriv rd && !privOk e.compat e.ring e.pcc) = false := by
      cases hq : sprPriv rd
      · rfl
      · simp [hp hq]
    by_cases h0 : rd = 0
    · refine (exec_runs_regs h (by simp) (by simp) (acts := [.lc (regG e ra)]) ?_ rfl).trans (by rw [h0]; rfl)
      simp only [evOp, evSpr, show sylRd y.word = 0 from h0]
      rfl
    · refine (exec_runs_regs h (by simp) (by simp) (acts := [.spr rd (regG e ra)]) ?_ rfl).trans rfl
      simp only [evOp, evSpr, show sprWritable (sylRd y.word) = true from hw,
        show (sprPriv (sylRd y.word) && !privOk (engGet s n).compat (engGet s n).ring (engGet s n).pcc) = false from hp',
        show sylRd y.word ≠ 0 from h0]
      rfl
  case cmfs =>
    refine exec_runs_c h (by simp) (by simp) ?_
    have hq : (decide (sylRa y.word ≠ 0) && !privOk (engGet s n).compat (engGet s n).ring (engGet s n).pcc) = false := by
      by_cases h0 : sylRa y.word = 0
      · simp [h0]
      · simp [h0, show privOk (engGet s n).compat (engGet s n).ring (engGet s n).pcc = true from hp h0]
    simp only [evOp, evSpr, show ¬ 3 < sylRa y.word by omega, if_false, hq]
    rfl
  case cmts =>
    refine (exec_runs_regs h (by simp) (by simp) (acts := [.xpcc rd (regC e ra)]) ?_ rfl).trans rfl
    simp only [evOp, evSpr, show ¬ (sylRd y.word = 0 ∨ 3 < sylRd y.word) by omega, if_false,
      show privOk (engGet s n).compat (engGet s n).ring (engGet s n).pcc = true from hp]
    rfl
  case twr =>
    exact (exec_runs_regs h (by simp) (by simp) (acts := [.twr (regG e ra), .p rd true]) (if_neg (by rw [hf]; nofun)) rfl).trans rfl
  case twrFull => exact exec_runs_p h (by simp) (by simp) (if_pos hf)
  case trd =>
    exact (exec_runs_regs h (by simp) (by simp) (acts := [.g rd e.drx, .trd, .p (sylRb y.word) true]) (if_pos hf) rfl).trans rfl
  case trdEmpty => exact exec_runs_p h (by simp) (by simp) (if_neg (by rw [hf]; nofun))
  case fence => exact (exec_runs_regs h (by simp) (by simp) (acts := []) (if_pos hf) rfl).trans rfl

/-- A bundle of one syllable with a false guard, no transfer, comes to nothing. -/
theorem bundleRes_falseGuard {s : State} {n : Nat} {y : Syl} {op : Op} {nx : Nat} (h : Alone s n y op nx) (ho : opIsTransfer op = false)
    (hg : guardOf (engGet s n) y = false) : ∃ c, bundleRes s n = .retire [] nx c := by
  have hs : evSyl s n (atNow s n nx) y op = .acts [] := by simp [evSyl, hg, ho]
  have he : evList s n (atNow s n nx) (engGet s n).u.donePos 0 [(y, op)] = .acts [] := by
    rw [evList, h.noDonePos]
    simp [hasNat, hs, evList]
  unfold bundleRes
  simp only [h.bundle]
  split
  · rename_i hy hq; cases hq; cases hy; exact ⟨_, if_neg (by rw [hg]; nofun)⟩
  · rename_i hy hq; cases hq; cases hy; exact ⟨_, if_neg (by rw [hg]; nofun)⟩
  · simp only [List.zip_cons_cons, List.zip_nil_left]
    rw [show evList s n { here := pcAt (engGet s n).pc, next := nx } _ 0 [(y, op)] = _ from he]
    exact ⟨_, by simp only [doneActs, h.noDone]; rfl⟩

/-- Settles O18: the bundle retires without an act. -/
theorem falseGuardChangesNothing : Obligations.FalseGuardChangesNothing := by
  intro op s n y nx h ho hg
  obtain ⟨c, hb⟩ := bundleRes_falseGuard h ho hg
  have ht : applyOne s n 0 (bundleRes s n) = .next (engSet s n (retired (engGet s n) nx)) := by
    rw [hb, applyOne, retireOne_reg s n [] nx c rfl h.noSlot h.noRep h.noSwap h.noStep, afterActs_nil]
  have hget : engGet (engSet s n (retired (engGet s n) nx)) n = retired (engGet s n) nx := engGet_engSet _ _ _
  rw [exec_alone h, runBundle_unlessHeld h.unheld (pairOf_single (isHead_of_ready h.ready) h.single) h.single ht (by rw [hget]; nofun)
    (by rw [hget, inRepBody, show (retired (engGet s n) nx).rep = none from h.noRep])]
  exact unlessHeld_of_trc n rfl

/-- Settles O1: `step` runs the front command by its definition. -/
theorem stepRunsFrontCommand : Obligations.StepRunsFrontCommand := fun _ => ⟨fun _ _ => rfl, rfl⟩

/-- Settles O6: every table of the reset state is empty, so that every read gives the default of its table. -/
theorem resetState : Obligations.ResetState :=
  ⟨rfl, rfl, rfl, rfl, rfl, fun _ => rfl, fun _ => rfl, fun _ => ⟨rfl, rfl, rfl, rfl⟩, fun _ => rfl, rfl, rfl, rfl, rfl, rfl⟩

end Sys2Proof.Machine

end

section

namespace Sys2Proof.Machine

/-! Stores to DMEM (R145, R152). -/

theorem mem_delNat (g k : Nat) (l : List Nat) : g ∈ delNat k l ↔ g ∈ l ∧ g ≠ k := by simp [delNat]

theorem mem_foldl_delNat (ks l : List Nat) (g : Nat) : g ∈ ks.foldl (fun l k => delNat k l) l ↔ g ∈ l ∧ g ∉ ks := by
  induction ks generalizing l with
  | nil => simp
  | cons k ks ih => simp [ih, mem_delNat, and_assoc]

/-- The granules that a store of `len` bytes at offset `o` touches. -/
theorem mem_granules (o len g : Nat) : g ∈ granules o len ↔ 0 < len ∧ o / 16 ≤ g ∧ g ≤ (o + len - 1) / 16 := by
  unfold granules
  split
  · simp; omega
  · simp only [List.mem_map, List.mem_range]
    constructor
    · rintro ⟨i, hi, rfl⟩
      omega
    · rintro ⟨_, hlo, hhi⟩
      exact ⟨g - o / 16, by omega, by omega⟩

theorem engStore_dmem {s : State} {n : Nat} {a : Word} (h : regionOf n a.toNat = .dmem) (bs : List Byte) (cap : Bool) :
    engStore s n a bs cap = engSet s n (dmemPut (engGet s n) (a.toNat - 0x10000000) bs cap) := by
  simp [engStore, h, engMap]

/-- Settles O20: the store is a byte write of DMEM and the removal of the granules that it touches. -/
theorem dmemStoreWritesItsBytesOnly : Obligations.DmemStoreWritesItsBytesOnly := by
  intro s n a bs hr o t
  have ht : t = engSet s n (dmemPut (engGet s n) o bs false) := engStore_dmem hr bs false
  have he : engGet t n = dmemPut (engGet s n) o bs false := by rw [ht, engGet_engSet]
  rw [he]
  refine ⟨ht, fun i hi => memGet_memPut_inside _ _ _ i hi, fun q hq => memGet_memPut_outside _ _ _ q hq, fun g => ?_⟩
  simp only [dmemPut, Bool.false_and, Bool.false_eq_true, if_false]
  rw [mem_foldl_delNat, mem_granules]

/-! What a load or a store of an engine outside the Sett leaves of the engine. -/

section

variable {s : State} {n : Nat}

/-- An engine that issues alone is none of the Sett, whose engines run in lockstep. -/
theorem notSett_of_single (hh : isHead s n = true) (hp : partnerOf s n = none) : n ≠ 64 ∧ n ≠ 65 := by
  constructor
  · rintro rfl
    simp [partnerOf] at hp
  · rintro rfl
    simp [isHead, lockId] at hh

theorem isSettEng_false_of_single (hh : isHead s n = true) (hp : partnerOf s n = none) : isSettEng n = false := by
  obtain ⟨h4, h5⟩ := notSett_of_single hh hp
  simp [isSettEng, h4, h5]

theorem sharedPut_engGet (z : State) (k o : Nat) (v : Word) (m : Nat) : engGet (sharedPut z k o v) m = engGet z m := by
  unfold sharedPut
  split <;> rfl

theorem foldl_engGet {α : Type} (l : List α) {f : State → α → State} (m : Nat) (hf : ∀ z a, engGet (f z a) m = engGet z m) (z : State) :
    engGet (l.foldl f z) m = engGet z m := by
  induction l generalizing z with
  | nil => rfl
  | cons a l ih => rw [List.foldl_cons, ih, hf]

theorem ticketTake_engGet (a : Word) (size m : Nat) : engGet (ticketTake s n a size) m = engGet s m := by
  unfold ticketTake
  dsimp only
  split
  · exact foldl_engGet _ m (fun z o => sharedPut_engGet z _ _ _ m) s
  · rfl

theorem trcPut_eng (k typ eng sub : Nat) (w1 w2 w3 : Word) : (trcPut s k typ eng sub w1 w2 w3).eng = s.eng := by
  unfold trcPut
  dsimp only
  split <;> rfl

theorem trcPut_svc (k typ eng sub : Nat) (w1 w2 w3 : Word) : (trcPut s k typ eng sub w1 w2 w3).svc = s.svc := by
  unfold trcPut
  dsimp only
  split <;> rfl

theorem trcAccess_eng (store : Bool) (a : Word) (size : Nat) (v : W128) : (trcAccess s n store a size v).eng = s.eng := by
  simp only [trcAccess, apply_ite State.eng, trcPut_eng, ite_self]

theorem trcAccess_svc (store : Bool) (a : Word) (size : Nat) (v : W128) : (trcAccess s n store a size v).svc = s.svc := by
  simp only [trcAccess, apply_ite State.svc, trcPut_svc, ite_self]

theorem trcAccess_engGet (store : Bool) (a : Word) (size : Nat) (v : W128) (m : Nat) :
    engGet (trcAccess s n store a size v) m = engGet s m := by
  rw [engGet, engGet, trcAccess_eng]

theorem isHead_congr {t : State} (h : t.svc = s.svc) : isHead t n = isHead s n := by
  unfold isHead lockId isPaired
  rw [h]

theorem dmemPut_flow (e : Engine) (o : Nat) (bs : List Byte) (cap : Bool) : KeepsFlow e (dmemPut e o bs cap) :=
  ⟨rfl, rfl, rfl, rfl, rfl, rfl, rfl, rfl, rfl⟩

theorem KeepsFlow.refl (e : Engine) : KeepsFlow e e := ⟨rfl, rfl, rfl, rfl, rfl, rfl, rfl, rfl, rfl⟩

theorem KeepsFlow.of_eq {e f : Engine} (h : f = e) : KeepsFlow e f := h ▸ KeepsFlow.refl e

theorem dramPut_engGet (z : State) (stream a : Nat) (bs : List Byte) (m : Nat) : engGet (dramPut z stream a bs) m = engGet z m := rfl

/-- A store changes no more of an engine outside the Sett than its memories and its count of far stores. -/
theorem engStore_flow (hn : isSettEng n = false) (a : Word) (bs : List Byte) (cap : Bool) :
    KeepsFlow (engGet s n) (engGet (engStore s n a bs cap) n) := by
  unfold engStore
  dsimp only
  split
  · rw [engMap, engGet_engSet]; exact dmemPut_flow _ _ _ _
  · rw [engMap, engGet_engSet]; exact ⟨rfl, rfl, rfl, rfl, rfl, rfl, rfl, rfl, rfl⟩
  · exact .of_eq (foldl_engGet _ n (fun z q => sharedPut_engGet z _ _ _ n) s)
  · rw [hn]; exact .refl _
  · next hb => simp [regionOf, hn] at hb; split_ifs at hb
  · rw [dramPut_engGet, engMap, engGet_engSet]; exact ⟨rfl, rfl, rfl, rfl, rfl, rfl, rfl, rfl, rfl⟩
  · exact .refl _

/-- A store of fewer bytes than a tile covers no tile whole. -/
theorem burstCure_short (a : Nat) {len : Nat} (h : len < 64) : burstCure s n a len = s := by
  have hw : ∀ l : List Nat, l.filter (fun t => decide (a ≤ 64 * t ∧ 64 * t + 64 ≤ a + len)) = [] :=
    fun l => List.filter_eq_nil_iff.mpr fun t _ => by simp; omega
  unfold burstCure
  dsimp only
  rw [hw]
  split <;> rfl

/-! Loads and stores alone in their bundle. -/

/-- Register acts on any state write the registers of their engine. -/
theorem foldl_applyAct_regs (n : Nat) (win : Rec) {acts : List Act} (h : acts.all isRegAct = true) (ha : acts ≠ []) (z : State) :
    acts.foldl (applyAct n 0 win) z = engSet z n (acts.foldl regAct (engGet z n)) := by
  obtain ⟨a, t, rfl⟩ := List.exists_cons_of_ne_nil ha
  simp only [List.all_cons, Bool.and_eq_true] at h
  rw [List.foldl_cons, applyAct_reg _ _ _ _ _ h.1, foldl_applyAct_reg' _ _ _ _ _ h.2]
  rfl

theorem loadActs_regs (k rd : Nat) (v : W128) : (loadActs k rd v).all isRegAct = true ∧ loadActs k rd v ≠ [] := by
  unfold loadActs
  dsimp only
  split <;> exact ⟨rfl, nofun⟩

theorem foldl_loadActs (k rd : Nat) (v : W128) (e : Engine) : (loadActs k rd v).foldl regAct e = putLoad k rd v e := by
  have h0 : v >>> 0 = v := BitVec.ushiftRight_zero v
  match k with
  | 0 => exact show [Act.g rd ((v.setWidth 8).signExtend 32)].foldl regAct e = _ from rfl
  | 1 => exact show [Act.g rd ((v.setWidth 8).setWidth 32)].foldl regAct e = _ from rfl
  | 2 => exact show [Act.g rd ((v.setWidth 16).signExtend 32)].foldl regAct e = _ from rfl
  | 3 => exact show [Act.g rd ((v.setWidth 16).setWidth 32)].foldl regAct e = _ from rfl
  | 4 => exact show [Act.g rd ((v >>> 0).setWidth 32)].foldl regAct e = _ by rw [h0]; rfl
  | 5 => exact show [Act.g rd ((v >>> 0).setWidth 32), .g (rd + 1) ((v >>> 32).setWidth 32)].foldl regAct e = _ by rw [h0]; rfl
  | k + 6 =>
    exact show [Act.g rd ((v >>> 0).setWidth 32), .g (rd + 1) ((v >>> 32).setWidth 32), .g (rd + 2) ((v >>> 64).setWidth 32),
      .g (rd + 3) ((v >>> 96).setWidth 32)].foldl regAct e = _ by rw [h0]; rfl

theorem isRegAct_goesOn {acts : List Act} (h : acts.all isRegAct = true) : acts.all goesOn = true :=
  List.all_eq_true.mpr fun a ha => by
    have hr := List.all_eq_true.mp h a ha
    cases a <;> first | rfl | cases hr

/-- After an act `b` that leaves the state `z`, register acts write the engine that goes on. -/
theorem goOn_acted_regs {b : Act} {z : State} (hb : applyAct n 0 (engGet s n).window (engMap s n bundleOver) b = z) {acts : List Act}
    (h : acts.all isRegAct = true) (ha : acts ≠ []) (nx : Nat) :
    goOn (acted s n (b :: acts)) n nx = engMap z n (fun f => acts.foldl regAct { f with pc := BitVec.ofNat 32 nx }) := by
  rw [acted, List.foldl_cons, hb, foldl_applyAct_regs n _ h ha, goOn, engMap, engMap, engGet_engSet, engSet_engSet]
  simp only [foldl_regAct_withPc]

theorem calm_acted_regs {b : Act} {z : State} (hb : applyAct n 0 (engGet s n).window (engMap s n bundleOver) b = z) {acts : List Act}
    (h : acts.all isRegAct = true) (ha : acts ≠ []) (hz : Calm (engGet z n)) : Calm (engGet (acted s n (b :: acts)) n) := by
  rw [acted, List.foldl_cons, hb, foldl_applyAct_regs n _ h ha, engGet_engSet]
  exact hz.of_flow (foldl_regAct_flow _ _)

/-- The read that a load makes: its trace record, and the tickets that it takes (R156, R494). -/
theorem applyAct_ld (hh : isHead s n = true) (win : Rec) (a : Word) (size : Nat) (v : W128) :
    applyAct n 0 win (engMap s n bundleOver) (.ld a size v) =
      ticketTake (trcAccess (engMap s n bundleOver) n false a size v) n a size := by
  have h : isHead (trcAccess (engMap s n bundleOver) n false a size v) n = true := by
    rw [isHead_congr (trcAccess_svc _ _ _ _)]
    exact hh
  simp only [applyAct, loadSeen, h, if_true]

/-- The store that a store of fewer bytes than a tile makes, with its trace record. -/
theorem applyAct_st (hh : isHead s n = true) (win : Rec) (a : Word) {bs : List Byte} (hb : bs.length < 64) (cap : Bool) :
    applyAct n 0 win (engMap s n bundleOver) (.st a bs cap false) =
      engStore (trcAccess (engMap s n bundleOver) n true a bs.length (BitVec.ofNat 128 (leNat bs))) n a bs cap := by
  have h : isHead (trcAccess (engMap s n bundleOver) n true a bs.length (BitVec.ofNat 128 (leNat bs))) n = true := by
    rw [isHead_congr (trcAccess_svc _ _ _ _)]
    exact hh
  simp [applyAct, traceStore, storeTake, h, burstCure_short _ hb]

variable {y : Syl} {nx : Nat} {a : Word}

/-- A bundle whose operation comes to one load at `a` and the writes of registers. -/
theorem runBundle_ld {op : Op} (h : Sole s n y op nx) (hz : Calm (bundleOver (engGet s n))) (h1 : op ≠ .rep) (h2 : op ≠ .repi) {size : Nat}
    {v : W128} {acts : List Act} (he : evOp s n (atNow s n nx) y op true = .acts (.ld a size v :: acts)) (ha : acts.all isRegAct = true)
    (hne : acts ≠ []) :
    runBundle s n = unlessHeld s n (engMap (ticketTake (trcAccess (engMap s n bundleOver) n false a size v) n a size) n
      (fun f => acts.foldl regAct { f with pc := BitVec.ofNat 32 nx })) := by
  have hb := applyAct_ld h.head (engGet s n).window a size v
  have hc : Calm (engGet (acted s n (.ld a size v :: acts)) n) := by
    refine calm_acted_regs hb ha hne ?_
    rw [ticketTake_engGet, trcAccess_engGet, engMap, engGet_engSet]
    exact hz
  rw [runBundle_goesOn h h1 h2 he (by rw [List.all_cons, isRegAct_goesOn ha]; rfl) hc, goOn_acted_regs hb ha hne]

/-- A bundle whose operation comes to one store at `a`. -/
theorem runBundle_st {op : Op} (h : Sole s n y op nx) (hz : Calm (bundleOver (engGet s n))) (h1 : op ≠ .rep) (h2 : op ≠ .repi)
    {bs : List Byte} {cap : Bool} (hb : bs.length < 64) (he : evOp s n (atNow s n nx) y op true = .acts [.st a bs cap false]) :
    runBundle s n = unlessHeld s n
      (goOn (engStore (trcAccess (engMap s n bundleOver) n true a bs.length (BitVec.ofNat 128 (leNat bs))) n a bs cap) n nx) := by
  have hst : acted s n [.st a bs cap false] = _ := applyAct_st h.head (engGet s n).window a hb cap
  have hc : Calm (engGet (acted s n [.st a bs cap false]) n) := by
    rw [hst]
    refine Calm.of_flow ?_ (engStore_flow (isSettEng_false_of_single h.head h.single) a bs cap)
    rw [trcAccess_engGet, engMap, engGet_engSet]
    exact hz
  rw [runBundle_goesOn h h1 h2 he rfl hc, hst]

end

theorem leBytes_length (k v : Nat) : (leBytes k v).length = k := by
  induction k generalizing v with
  | zero => rfl
  | succ k ih => rw [leBytes, List.length_cons, ih]

theorem storeBytes_length (e : Engine) (k rd : Nat) : (storeBytes e k rd).length < 64 := by
  unfold storeBytes
  split
  · simp [leBytes_length]
  · simp [leBytes_length]
  · rw [leBytes_length]
    unfold lsSize
    split <;> decide

section

variable {s : State} {n : Nat} {y : Syl} {a : Word}

/-- A load whose check gives `a`, of a local region that answers `v`. -/
theorem evLoad_val (hck : engCheck (engGet s n) (regC (engGet s n) (sylRa y.word)) (lsOffset (engGet s n) y) (lsSize (lsCode y))
    (lsSize (lsCode y)) .load = .ok a) {v : W128} (hv : engLoad s n a.toNat (lsSize (lsCode y)) = .val v) :
    evLoad s n y = .acts (.ld a (lsSize (lsCode y)) v :: loadActs (lsCode y) (sylRd y.word) v) := by
  have hk : (lsSel (sylMajor y.word) (sylMinor y.word)).1 = lsCode y := rfl
  simp only [evLoad, hk, hck, evRead, hv]

/-- A store whose check gives `a`, of a local region that takes it. -/
theorem evStore_val (hck : engCheck (engGet s n) (regC (engGet s n) (sylRa y.word)) (lsOffset (engGet s n) y) (lsSize (lsCode y))
    (lsSize (lsCode y)) .store = .ok a) {v : W128} (hv : engStoreCheck s n a.toNat = .val v) :
    evStore s n y = .acts [.st a (storeBytes (engGet s n) (lsCode y) (sylRd y.word)) false false] := by
  have hk : (lsSel (sylMajor y.word) (sylMinor y.word)).1 = lsCode y := rfl
  simp only [evStore, hk, hck, evWrite, hv]

end

/-- Settles O19: the load's read and the store's write at the checked address are the one act of the bundle beside its register writes. -/
theorem loadsAndStoresComplete : Obligations.LoadsAndStoresComplete := by
  intro s n y nx a e k c rd traced made
  refine ⟨fun h hck v hv => ?load, fun h hck v hv hok => ?ldc, fun h hck hst => ?store, fun h hck hst => ?stc⟩
  case load =>
    have hr := loadActs_regs k rd v
    refine (exec_alone h.toAlone).trans ((runBundle_ld h.sole h.calm (by simp) (by simp) (evLoad_val hck hv) hr.1 hr.2).trans ?_)
    simp only [foldl_loadActs]
    rfl
  case ldc =>
    have he : evOp s n (atNow s n nx) y .ldc true = .acts [.ld a 16 v, .c rd v] := by
      simp only [evOp, evLdc]
      rw [show engCheck (engGet s n) _ _ _ _ _ = _ from hck]
      simp only [evRead, hv]
      by_cases hc : e.compat = true
      · rw [if_pos hc] at hok
        rw [if_pos hc, if_pos hok]
      · rw [if_neg hc] at hok
        rw [if_neg hc, if_pos hok]
    exact (exec_alone h.toAlone).trans (runBundle_ld h.sole h.calm (by simp) (by simp) he rfl nofun)
  case store =>
    exact (exec_alone h.toAlone).trans (runBundle_st h.sole h.calm (by simp) (by simp) (storeBytes_length e k rd) (evStore_val hck hst))
  case stc =>
    refine (exec_alone h.toAlone).trans (runBundle_st h.sole h.calm (by simp) (by simp) (by rw [leBytes_length]; decide) ?_)
    simp only [evOp, evStc]
    rw [show engCheck (engGet s n) _ _ _ _ _ = _ from hck]
    simp only [evWrite, hst]
    rfl

end Sys2Proof.Machine

end

section

namespace Sys2Proof.Machine

/-! A bundle in a delay slot (R167, R201). -/

section

variable {s : State} {n : Nat} {y : Syl} {op : Op} {nx : Nat}

/-- A command of an engine that is ready with a bundle of its operation runs that bundle. -/
theorem exec_ready (hr : engReady s n issueHold = true) (hb : decodeBundle s n = .ok [y] [op] nx) :
    exec (commandOf op n) s = runBundle s n := by
  rw [exec_commandOf]
  simp [issueOp, hr, bundleHas, hb]

/-- A bundle in the slot of a transfer that changes no ring goes on at the target with the new PCC, or past the slot. -/
theorem pcAdvance_slot {x : Xfer} (hx : (engGet s n).xfer = some x) (hr : x.newRing = none) (here : Nat) (acts : List Act) (c : Bool) :
    pcAdvance s n here nx acts c = engSet s n
      { engGet s n with xfer := none, pc := (if x.taken then x.target else BitVec.ofNat 32 nx), pcc := x.newPcc.getD (engGet s n).pcc } := by
  unfold pcAdvance
  dsimp only
  rw [hx]
  dsimp only
  rw [hr]
  rfl

end

/-- Settles O23: the write of `g[rd]` and the end of the slot touch different fields of the engine. -/
theorem delaySlotThenTarget : Obligations.DelaySlotThenTarget := by
  intro s n y nx x e hready hhold hsingle hb hx hring hswap hstep hrep hpos hdone hguard hpriv hneed hhard
  have h : Sole s n y .alu nx := ⟨⟨hsingle, isHead_of_ready hready, hb, hswap, hstep, hpos,
    by rw [doneActs, hdone]; rfl, hguard, hpriv, hneed, hhard⟩, hhold⟩
  have hop : sylOp y = some .alu := (sylLegal_parts (decode_single_legal hb)).1
  obtain ⟨v, hv⟩ := aluOp_some (by simpa using sylOp_minor hop) (opA s n y) (opB s n y)
  refine ⟨v, hv, ?_⟩
  have he : evOp s n (atNow s n nx) y .alu true = .acts [.g (sylRd y.word) v] := by
    simp only [evOp, evG]
    exact hv ▸ rfl
  have ha : acted s n [.g (sylRd y.word) v] = engSet s n (putG (bundleOver e) (sylRd y.word) v) := by
    rw [acted, List.foldl_cons, List.foldl_nil, applyAct_reg _ _ _ _ _ rfl]
    simp only [engMap, engGet_engSet, engSet_engSet]
    rfl
  have fl := putG_flow (bundleOver e) (sylRd y.word) v
  let f := putG (bundleOver e) (sylRd y.word) v
  let f' : Engine := { f with xfer := none, pc := (if x.taken then x.target else BitVec.ofNat 32 nx), pcc := x.newPcc.getD f.pcc }
  have hpc (c : Bool) : pcAdvance (acted s n [.g (sylRd y.word) v]) n (pcAt (engGet s n).pc) nx [.g (sylRd y.word) v] c =
      engSet s n f' := by
    rw [ha, pcAdvance_slot (by rw [engGet_engSet, fl.xfer]; exact hx) hring, engGet_engSet, engSet_engSet]
  have hf : f' = putG { bundleOver e with
      xfer := none, pc := (if x.taken then x.target else BitVec.ofNat 32 nx), pcc := x.newPcc.getD e.pcc } (sylRd y.word) v := by
    simp only [f', f, putG]
    split <;> rfl
  have hg : engGet (engSet s n f') n = f' := engGet_engSet _ _ _
  have hret (c : Bool) : retireOne s n 0 [.g (sylRd y.word) v] nx c = engSet s n f' :=
    retireOne_quiet (hpc c) rfl rfl rfl rfl (by rw [hg]; exact fl.swap.trans hswap)
      (by rw [hg]; exact (congrArg DbgState.stepping fl.dbg).trans hstep)
  rw [show (Instr.alu n) = commandOf .alu n from rfl, exec_ready hready hb, ← hf,
    runBundle_retire h (by simp) (by simp) he (hret _) (by rw [hg, show f'.hold = .none from fl.hold]; nofun)
      (by rw [hg, inRepBody, show f'.rep = none from fl.rep.trans hrep])]
  exact unlessHeld_of_trc n rfl

end Sys2Proof.Machine
end

section

namespace Sys2Proof.Machine

/-! What events, counters and fault records leave unchanged. -/

/-- `f` is `e`, or `e` woken from its sleep. -/
structure Woken (e f : Engine) : Prop where
  alike : f = { e with pstate := f.pstate, wakeReq := f.wakeReq }
  awake : e.pstate = .run → f = e

theorem Woken.refl (e : Engine) : Woken e e := ⟨rfl, fun _ => rfl⟩

theorem Woken.trans {e f g : Engine} (h : Woken e f) (k : Woken f g) : Woken e g where
  alike := by rw [k.alike, h.alike]
  awake hr := by
    have hf := h.awake hr
    exact (k.awake (by rw [hf, hr])).trans hf

theorem Woken.flow {e f : Engine} (h : Woken e f) : KeepsFlow e f := by
  rw [h.alike]
  exact ⟨rfl, rfl, rfl, rfl, rfl, rfl, rfl, rfl, rfl⟩

/-- `t` is `s` but for its counters, its event sources, its mailbox, its engines and the address of the last failing tile. -/
def Framed (s t : State) : Prop :=
  t = { s with cnt := t.cnt, hub := t.hub, mbx := t.mbx, eng := t.eng, mem := { s.mem with lastadr := t.mem.lastadr } }

namespace Framed

variable {s t u : State}

theorem refl (s : State) : Framed s s := rfl

theorem trans (h : Framed s t) (k : Framed t u) : Framed s u := by
  unfold Framed at *
  rw [k, h]

theorem engSet (s : State) (n : Nat) (e : Engine) : Framed s (engSet s n e) := rfl
theorem engMap (s : State) (n : Nat) (f : Engine → Engine) : Framed s (engMap s n f) := rfl

theorem trc (h : Framed s t) : t.trc = s.trc := by rw [h]
theorem svc (h : Framed s t) : t.svc = s.svc := by rw [h]
theorem hreg (h : Framed s t) : t.hreg = s.hreg := by rw [h]
theorem tick (h : Framed s t) : t.tick = s.tick := by rw [h]
theorem bstate (h : Framed s t) : t.bstate = s.bstate := by rw [h]
theorem store (h : Framed s t) : t.store = s.store := by rw [h]
theorem cells (h : Framed s t) : t.cells = s.cells := by rw [h]
theorem field (h : Framed s t) : t.field = s.field := by rw [h]
theorem sett (h : Framed s t) : t.sett = s.sett := by rw [h]
theorem io (h : Framed s t) : t.io = s.io := by rw [h]
theorem pending (h : Framed s t) : t.pending = s.pending := by rw [h]
theorem free (h : Framed s t) : t.free = s.free := by rw [h]
theorem bad (h : Framed s t) : t.mem.bad = s.mem.bad := by rw [h]

end Framed

/-- `t` is such a state, whose engines are as they were but for those that were woken. -/
structure Logged (s t : State) : Prop where
  frame : Framed s t
  woken : ∀ n, Woken (engGet s n) (engGet t n)

namespace Logged

variable {s t u : State}

theorem refl (s : State) : Logged s s := ⟨rfl, fun _ => .refl _⟩

theorem trans (h : Logged s t) (k : Logged t u) : Logged s u :=
  ⟨h.frame.trans k.frame, fun n => (h.woken n).trans (k.woken n)⟩

/-- A change that wakes no engine. -/
theorem of_frame (h : t = { s with cnt := t.cnt, hub := t.hub, mbx := t.mbx, mem := { s.mem with lastadr := t.mem.lastadr } }) :
    Logged s t where
  frame := by unfold Framed; rw [h]
  woken n := by rw [h]; exact .refl _

theorem ite {c : Prop} [Decidable c] (h : Logged s t) (k : Logged s u) : Logged s (if c then t else u) := by
  split
  · exact h
  · exact k

theorem flow (h : Logged s t) (n : Nat) : KeepsFlow (engGet s n) (engGet t n) := (h.woken n).flow

theorem foldl {α : Type} {f : State → α → State} (hf : ∀ z a, Logged z (f z a)) (l : List α) (s : State) : Logged s (l.foldl f s) := by
  induction l generalizing s with
  | nil => exact refl s
  | cons a l ih => exact (hf s a).trans (ih _)

theorem forNats {f : State → Nat → State} (hf : ∀ z k, Logged z (f z k)) (l : List Nat) (s : State) : Logged s (forNats l f s) :=
  foldl hf l s

theorem cntAdd (s : State) (a k : Nat) : Logged s (cntAdd s a k) := of_frame rfl
theorem cntPut (s : State) (a : Nat) (v : Word) : Logged s (cntPut s a v) := of_frame rfl
theorem srcSet (s : State) (x : Nat) (v : Src) : Logged s (srcSet s x v) := of_frame rfl

theorem wakeEng (s : State) (n : Nat) : Logged s (wakeEng s n) := by
  have hw (e : Engine) : Woken e (match e.pstate with
      | .doze => { e with pstate := .waking, wakeReq := true }
      | .nap => { e with pstate := .wakeNap, wakeReq := true }
      | .napEntry => { e with wakeReq := true }
      | _ => e) := by
    cases h : e.pstate <;> refine ⟨rfl, fun hr => ?_⟩
    all_goals first | rfl | exact absurd (h.symm.trans hr) nofun
  refine ⟨rfl, fun m => ?_⟩
  by_cases hm : m = n
  · subst hm
    rw [Machine.wakeEng, engMap, engGet_engSet]
    exact hw _
  · rw [Machine.wakeEng, engMap, engGet_engSet_other _ hm]
    exact .refl _

theorem hubWake (s : State) (x : Nat) : Logged s (hubWake s x) := by
  unfold Machine.hubWake
  exact ite (forNats (fun z t => ite ((forNats wakeEng _ z).trans (cntAdd _ _ _)) (refl z)) _ s) (refl s)

theorem srcPendNow (s : State) (x : Nat) : Logged s (srcPendNow s x) := by
  unfold Machine.srcPendNow
  exact (ite (srcSet s x _) ((srcSet s x _).trans (cntAdd _ _ _))).trans (hubWake _ x)

theorem srcWithdraw (s : State) (x : Nat) : Logged s (srcWithdraw s x) :=
  ite ((srcSet s x _).trans (cntAdd _ _ _)) (refl s)

theorem srcOff (s : State) (x : Nat) : Logged s (srcOff s x) := (srcWithdraw s x).trans (srcSet _ x _)

theorem srcSample (s : State) (x : Nat) (v : Bool) : Logged s (srcSample s x v) := by
  unfold Machine.srcSample
  dsimp only
  have h0 := srcSet s x { srcGet s x with raw := v }
  exact ite (refl s) (ite h0 (ite (ite (ite (h0.trans (cntAdd _ _ _)) (h0.trans (srcPendNow _ x))) h0)
    (ite (h0.trans (srcPendNow _ x)) (ite (h0.trans (srcOff _ x)) h0))))

theorem pulse (s : State) (x : Nat) : Logged s (pulse s x) := (srcSample s x true).trans (srcSample _ x false)

theorem fltWrite (s : State) (cls : Nat) (src a0 a1 : Word) : Logged s (fltWrite s cls src a0 a1) := by
  unfold Machine.fltWrite
  dsimp only
  split
  · exact of_frame rfl
  · exact ite (((cntAdd s _ _).trans (cntAdd _ _ _)).trans (pulse _ _)) (of_frame rfl)

theorem parityDrop (s : State) (id p : Nat) : Logged s (parityDrop s id p) := (cntAdd s _ _).trans (fltWrite _ _ _ _ _)

theorem qCount (s : State) (n off k : Nat) : Logged s (qCount s n off k) := ite (cntAdd s _ _) (refl s)

theorem tileDetect (s : State) (cls inst tile reader : Nat) : Logged s (tileDetect s cls inst tile reader) := by
  unfold Machine.tileDetect
  exact ((of_frame rfl).trans (cntAdd { s with mem := { s.mem with lastadr := BitVec.ofNat 32 (tileKey cls inst tile) } } _ _)).trans
    (fltWrite _ _ _ _ _)

theorem recTileRead (s : State) (i t reader : Nat) : Logged s (recTileRead s i t reader).2 := by
  unfold Machine.recTileRead
  dsimp only
  split
  · split
    · exact (tileDetect s _ _ _ _).trans (cntAdd _ _ _)
    · split
      · exact (tileDetect s _ _ _ _).trans (tileDetect _ _ _ _ _)
      · exact tileDetect s _ _ _ _
  · exact refl s

theorem engRecSeen (s : State) (n i t : Nat) : Logged s (engRecSeen s n i t) :=
  ite (ite (tileDetect s _ _ _ _) (refl s)) (recTileRead s _ _ _)

end Logged

end Sys2Proof.Machine
end

section

namespace Sys2Proof.Machine

/-! Instructions that move cells (R218 to R221). -/

section

variable {s : State} {n : Nat}

theorem acted_append (acts more : List Act) : acted s n (acts ++ more) = more.foldl (applyAct n 0 (engGet s n).window) (acted s n acts) :=
  List.foldl_append ..

/-- Register acts that follow others write the engine that goes on. -/
theorem goOn_acted_append {acts more : List Act} (h : more.all isRegAct = true) (hne : more ≠ []) (nx : Nat) :
    goOn (acted s n (acts ++ more)) n nx = engMap (acted s n acts) n (fun f => more.foldl regAct { f with pc := BitVec.ofNat 32 nx }) := by
  rw [acted_append, foldl_applyAct_regs n _ h hne, goOn, engMap, engMap, engGet_engSet, engSet_engSet]
  simp only [foldl_regAct_withPc]

theorem calm_acted_append {acts more : List Act} (h : more.all isRegAct = true) (hne : more ≠ [])
    (hz : Calm (engGet (acted s n acts) n)) : Calm (engGet (acted s n (acts ++ more)) n) := by
  rw [acted_append, foldl_applyAct_regs n _ h hne, engGet_engSet]
  exact hz.of_flow (foldl_regAct_flow _ _)

variable {y : Syl} {op : Op} {nx : Nat}

/-- A bundle whose operation comes to acts that leave the trace units alone, and then writes of registers. -/
theorem exec_runs_append (h : Runs s n y op nx) (h1 : op ≠ .rep) (h2 : op ≠ .repi) {acts more : List Act}
    (he : evOp s n (atNow s n nx) y op true = .acts (acts ++ more)) (ha : acts.all goesOn = true) (hm : more.all isRegAct = true)
    (hne : more ≠ []) (hf : KeepsFlow (bundleOver (engGet s n)) (engGet (acted s n acts) n)) (ht : (acted s n acts).trc = s.trc) :
    exec (commandOf op n) s =
      .next (engMap (acted s n acts) n (fun f => more.foldl regAct { f with pc := BitVec.ofNat 32 nx })) := by
  have hc := calm_acted_append hm hne (h.calm.of_flow hf)
  rw [exec_goesOn h h1 h2 he (by rw [List.all_append, ha, isRegAct_goesOn hm]; rfl) hc, goOn_acted_append hm hne]
  exact unlessHeld_of_trc n ht

end

section

variable {s : State} {n : Nat}

theorem inqParity_flow : KeepsFlow (engGet s n) (engGet (inqParity s n) n) := by
  unfold inqParity
  dsimp only
  split
  · refine KeepsFlow.trans ?_ ((Logged.forNats (fun z k => Logged.parityDrop z n k) _ _).flow n)
    rw [engMap, engGet_engSet]
    exact ⟨rfl, rfl, rfl, rfl, rfl, rfl, rfl, rfl, rfl⟩
  · exact .refl _

theorem inqParity_trc : (inqParity s n).trc = s.trc := by
  unfold inqParity
  dsimp only
  split
  · exact (Logged.forNats (fun z k => Logged.parityDrop z n k) _ _).frame.trc
  · rfl

theorem inqPop_flow (k : Nat) : KeepsFlow (engGet s n) (engGet (inqPop s n k) n) := by
  refine inqParity_flow.trans ?_
  unfold inqPop
  dsimp only
  refine KeepsFlow.trans ?_ ((Logged.qCount _ n _ _).flow n)
  rw [engMap, engGet_engSet]
  exact ⟨rfl, rfl, rfl, rfl, rfl, rfl, rfl, rfl, rfl⟩

theorem inqPop_trc (k : Nat) : (inqPop s n k).trc = s.trc := by
  unfold inqPop
  dsimp only
  exact (Logged.qCount _ n _ _).frame.trc.trans inqParity_trc

theorem seqNext_flow (head : Bool) : KeepsFlow (engGet s n) (engGet (seqNext s n head) n) := by
  unfold seqNext
  split
  · rw [engMap, engGet_engSet]
    exact ⟨rfl, rfl, rfl, rfl, rfl, rfl, rfl, rfl, rfl⟩
  · cases head <;> exact .refl _

theorem seqNext_trc (head : Bool) : (seqNext s n head).trc = s.trc := by
  unfold seqNext
  split
  · rfl
  · cases head <;> rfl

theorem outq_flow (z : State) (o : List OCell) :
    KeepsFlow (engGet z n) (engGet (engMap z n fun e => { e with outq := e.outq ++ o }) n) := by
  rw [engMap, engGet_engSet]
  exact ⟨rfl, rfl, rfl, rfl, rfl, rfl, rfl, rfl, rfl⟩

theorem pushOne_flow (head : Bool) (back : Nat) (c : W128) : KeepsFlow (engGet s n) (engGet (pushOne s n head back c).2 n) := by
  unfold pushOne
  dsimp only
  split
  · exact .refl _
  · split
    · refine (seqNext_flow head).trans ((Logged.qCount _ n _ _).flow n)
    · refine (seqNext_flow head).trans (KeepsFlow.trans ?_ (outq_flow _ _))
      exact Logged.flow (.ite (.cntAdd _ _ _) (.refl _)) n

theorem pushOne_trc (head : Bool) (back : Nat) (c : W128) : (pushOne s n head back c).2.trc = s.trc := by
  unfold pushOne
  dsimp only
  split
  · rfl
  · split
    · exact (Logged.qCount _ n _ _).frame.trc.trans (seqNext_trc head)
    · rw [engMap_trc, apply_ite State.trc, cntAdd_trc, ite_self, seqNext_trc]

theorem pushAll_flow (head : Bool) (back : Nat) (cs : List W128) : KeepsFlow (engGet s n) (engGet (pushAll s n head back cs).2 n) := by
  induction cs generalizing s back with
  | nil => exact .refl _
  | cons c cs ih => exact (pushOne_flow head back c).trans (ih _)

theorem pushAll_trc (head : Bool) (back : Nat) (cs : List W128) : (pushAll s n head back cs).2.trc = s.trc := by
  induction cs generalizing s back with
  | nil => rfl
  | cons c cs ih => exact (ih _).trans (pushOne_trc head back c)

/-- A good tile is cured without a change. -/
theorem tileCure_good {cls inst tile : Nat} (h : tileBad s cls inst tile = false) (hc : cls ≠ 2) : tileCure s cls inst tile = s := by
  have hd : delNat (tileKey cls inst tile) s.mem.bad = s.mem.bad := by
    refine List.filter_eq_self.mpr fun k hk => ?_
    have hn : tileKey cls inst tile ∉ s.mem.bad := by simpa [tileBad, hasNat] using h
    simpa using fun hk' : k = tileKey cls inst tile => hn (hk' ▸ hk)
  unfold tileCure
  dsimp only
  rw [if_neg (fun hq => hc hq.1), hd]

/-- A burst into DMEM whose tiles are good cures none. -/
theorem burstCure_good (hn : isSettEng n = false) {a len : Nat} (hr : regionOf n a = .dmem) (h : ∀ t, engTileBad s n true t = false) :
    burstCure s n a len = s := by
  have hk : ∀ l : List Nat, l.foldl (fun z t =>
      tileCure z (engTile n true (t - 0x10000000 / 64)).1 (engTile n true (t - 0x10000000 / 64)).2.1
        (engTile n true (t - 0x10000000 / 64)).2.2) s = s := by
    intro l
    induction l with
    | nil => rfl
    | cons t l ih =>
      rw [List.foldl_cons, tileCure_good (h _) (by simp [engTile, hn, b2n])]
      exact ih
  unfold burstCure
  simp only [hr, beq_self_eq_true, Bool.true_or, if_true]
  exact hk _

/-- A burst whose cells may all be stored may be stored. -/
theorem burstCheck_val {a k : Nat} (h : ∀ i, i < k → engStoreCheck s n (a + 16 * i) = .val 0) : burstCheck s n a (16 * k) = .val 0 := by
  unfold burstCheck
  dsimp only
  rw [List.find?_eq_none.mpr]
  intro c hc
  obtain ⟨i, hi, rfl⟩ := List.mem_map.mp hc
  rw [List.mem_range, Nat.mul_div_cancel_left k (by decide : 0 < 16)] at hi
  simp [h i hi]

/-- The store of a burst of cells, which makes no trace record. -/
theorem applyAct_burst (hh : isHead s n = true) (hn : isSettEng n = false) (win : Rec) {a : Word} (hr : regionOf n a.toNat = .dmem)
    (h : ∀ t, engTileBad s n true t = false) (bs : List Byte) (cap : Bool) :
    applyAct n 0 win (engMap s n bundleOver) (.st a bs cap true) = engStore (engMap s n bundleOver) n a bs cap := by
  have hh' : isHead (engMap s n bundleOver) n = true := hh
  have hst : storeTake (engMap s n bundleOver) n a bs cap = engStore (engMap s n bundleOver) n a bs cap := by
    simp only [storeTake, hh', Bool.true_or, if_true]
  have hb : ∀ t, engTileBad (engStore (engMap s n bundleOver) n a bs cap) n true t = false := by
    rw [engStore_dmem hr]
    exact h
  simp only [applyAct, traceStore, if_true, hst]
  exact burstCure_good hn hr hb

/-- The cells that stand one after another from `a`. -/
theorem evCells_val {a : Word} {k : List W128 → Ev} (vs cs : List W128)
    (h : ∀ i, (hi : i < vs.length) → engLoad s n (a + BitVec.ofNat 32 (16 * (cs.length + i))).toNat 16 = .val vs[i]) :
    evCells s n a k vs.length cs = k (cs ++ vs) := by
  induction vs generalizing cs with
  | nil => simp [evCells]
  | cons v vs ih =>
    have h0 := h 0 (Nat.succ_pos _)
    rw [Nat.add_zero] at h0
    rw [List.length_cons, evCells, evRead, h0]
    dsimp only
    refine (ih (cs ++ [v]) ?_).trans (congrArg k (List.append_assoc ..))
    intro i hi
    have hs := h (i + 1) (Nat.succ_lt_succ hi)
    rw [List.length_append, List.length_singleton, Nat.add_assoc, Nat.add_comm 1 i]
    exact hs

variable {y : Syl} {op : Op} {nx : Nat} {rd : Nat} {v : Word}

/-- The state of an engine that goes on with `v` in `g[rd]`. -/
def goPut (z : State) (n nx rd : Nat) (v : Word) : State := engMap z n (fun f => putG { f with pc := BitVec.ofNat 32 nx } rd v)

theorem engGet_started : engGet (engMap s n bundleOver) n = bundleOver (engGet s n) := engGet_engSet s n _

/-- A bundle that only reports a number. -/
theorem exec_reports (h : Runs s n y op nx) (h1 : op ≠ .rep) (h2 : op ≠ .repi)
    (he : evOp s n (atNow s n nx) y op true = .acts [.g rd v]) : exec (commandOf op n) s = .next (goPut (engMap s n bundleOver) n nx rd v) :=
  exec_runs_append h h1 h2 (acts := []) (more := [.g rd v]) he rfl rfl nofun (.of_eq engGet_started) rfl

/-- A bundle that takes cells out of the inbound queue and writes registers. -/
theorem exec_pops (h : Runs s n y op nx) (h1 : op ≠ .rep) (h2 : op ≠ .repi) {k : Nat} {more : List Act}
    (he : evOp s n (atNow s n nx) y op true = .acts (.pop k :: more)) (hm : more.all isRegAct = true) (hne : more ≠ []) :
    exec (commandOf op n) s = .next (engMap (inqPop (engMap s n bundleOver) n k) n
      (fun f => more.foldl regAct { f with pc := BitVec.ofNat 32 nx })) :=
  exec_runs_append h h1 h2 (acts := [.pop k]) he rfl hm hne ((KeepsFlow.of_eq engGet_started).trans (inqPop_flow k)) (inqPop_trc k)

/-- A bundle that stores cells in DMEM, takes cells out of the inbound queue, and reports a number. -/
theorem exec_burst (h : Runs s n y op nx) (h1 : op ≠ .rep) (h2 : op ≠ .repi) {k : Nat} {a : Word} {bs : List Byte}
    (he : evOp s n (atNow s n nx) y op true = .acts [.st a bs false true, .pop k, .g rd v]) (hr : regionOf n a.toNat = .dmem)
    (ht : ∀ t, engTileBad s n true t = false) :
    exec (commandOf op n) s = .next (goPut (inqPop (engStore (engMap s n bundleOver) n a bs false) n k) n nx rd v) := by
  have hn := isSettEng_false_of_single h.sole.head h.single
  have hz : acted s n [.st a bs false true, .pop k] = inqPop (engStore (engMap s n bundleOver) n a bs false) n k := by
    rw [acted, List.foldl_cons, applyAct_burst h.sole.head hn _ hr ht]
    rfl
  have key := exec_runs_append h h1 h2 (acts := [.st a bs false true, .pop k]) (more := [.g rd v]) he rfl rfl nofun
    (by rw [hz]; exact ((KeepsFlow.of_eq engGet_started).trans (engStore_flow hn a bs false)).trans (inqPop_flow k))
    (by rw [hz, inqPop_trc, engStore_dmem hr]; rfl)
  rw [hz] at key
  exact key

theorem acted_push (hh : isHead s n = true) (cs : List W128) : acted s n [.push cs] = (pushAll (engMap s n bundleOver) n true 0 cs).2 := by
  have hh' : isHead (engMap s n bundleOver) n = true := hh
  simp only [acted, List.foldl_cons, List.foldl_nil, applyAct, hh']

theorem acted_push_flow (hh : isHead s n = true) (cs : List W128) :
    KeepsFlow (bundleOver (engGet s n)) (engGet (acted s n [.push cs]) n) := by
  rw [acted_push hh]
  exact (KeepsFlow.of_eq engGet_started).trans (pushAll_flow true 0 cs)

theorem acted_push_trc (hh : isHead s n = true) (cs : List W128) : (acted s n [.push cs]).trc = s.trc := by
  rw [acted_push hh]
  exact pushAll_trc true 0 cs

/-- A push that does not wait. -/
theorem exec_pushes (h : Runs s n y op nx) (h1 : op ≠ .rep) (h2 : op ≠ .repi) {cs : List W128}
    (he : evOp s n (atNow s n nx) y op true = .acts [.push cs]) :
    exec (commandOf op n) s = .next (goOn (pushAll (engMap s n bundleOver) n true 0 cs).2 n nx) := by
  have hh := h.sole.head
  rw [exec_goesOn h h1 h2 he rfl (h.calm.of_flow (acted_push_flow hh cs)), ← acted_push hh]
  exact unlessHeld_of_trc n (acted_push_trc hh cs)

/-- A push that does not wait, and reports a number. -/
theorem exec_pushes_reports (h : Runs s n y op nx) (h1 : op ≠ .rep) (h2 : op ≠ .repi) {cs : List W128}
    (he : evOp s n (atNow s n nx) y op true = .acts [.push cs, .g rd v]) :
    exec (commandOf op n) s = .next (goPut (pushAll (engMap s n bundleOver) n true 0 cs).2 n nx rd v) := by
  have hh := h.sole.head
  have key := exec_runs_append h h1 h2 (acts := [.push cs]) (more := [.g rd v]) he rfl rfl nofun (acted_push_flow hh cs)
    (acted_push_trc hh cs)
  rw [acted_push hh] at key
  exact key

/-- A push that waits for the router with a part of its cells put. -/
theorem exec_pushes_part (h : Runs s n y op nx) (h1 : op ≠ .rep) (h2 : op ≠ .repi) {cs : List W128}
    (he : evOp s n (atNow s n nx) y op true = .pushPart cs) : exec (commandOf op n) s = .next (pushSome s n 0 cs) := by
  have hf := pushAll_flow (s := s) (n := n) (isHead s n) 0 cs
  have hg : engGet (pushSome s n 0 cs) n = _ := engGet_engSet _ n _
  have hh : (engGet (pushSome s n 0 cs) n).hold = .push := by rw [hg]
  have hr : (engGet (pushSome s n 0 cs) n).rep = none := by
    rw [hg, engMap, engGet_engSet]
    exact hf.rep.trans h.noRep
  rw [exec_alone h.toAlone, runBundle_unlessHeld (t := pushSome s n 0 cs) h.unheld h.sole.own h.single
    (by rw [bundleRes_lone h.sole.toLone h1 h2, he]; rfl) (by rw [hh]; nofun) (by rw [inRepBody, hr])]
  exact unlessHeld_of_trc n (pushAll_trc (isHead s n) 0 cs)

/-- What TPOP and TPEEK come to where their check passes and cells are there. -/
theorem evPop_burst {peek : Bool} {a : Word} (hb : 0 < ((availCells s n).take (sylMinor y.word)).length)
    (hck : engCheck (engGet s n) (regC (engGet s n) (sylRa y.word)) (regG (engGet s n) (sylRb y.word)) (16 * sylMinor y.word) 16 .store = .ok a)
    (h : ∀ i, i < ((availCells s n).take (sylMinor y.word)).length → engStoreCheck s n (a.toNat + 16 * i) = .val 0) :
    evPop s n y peek = .acts [.st a (((availCells s n).take (sylMinor y.word)).flatMap (fun c => leBytes 16 c.toNat)) false true,
      .pop (if peek then 0 else ((availCells s n).take (sylMinor y.word)).length),
      .g (sylRd y.word) (BitVec.ofNat 32 ((availCells s n).take (sylMinor y.word)).length)] := by
  have h0 : sylMinor y.word ≠ 0 := by rintro hz; simp [hz] at hb
  simp only [evPop, h0, if_false, hck, Nat.ne_of_gt hb, burstCheck_val h]
  rfl

/-- What they come to where none is there. -/
theorem evPop_empty {peek : Bool} {a : Word} (hb : 0 < sylMinor y.word) (hv : (availCells s n).take (sylMinor y.word) = [])
    (hck : engCheck (engGet s n) (regC (engGet s n) (sylRa y.word)) (regG (engGet s n) (sylRb y.word)) (16 * sylMinor y.word) 16 .store = .ok a) :
    evPop s n y peek = .acts [.pop 0, .g (sylRd y.word) 0] := by
  simp only [evPop, Nat.ne_of_gt hb, if_false, hck, hv, List.length_nil, if_true]

theorem pushRest_all (h : (engGet s n).pushDone = 0) (cs : List W128) : pushRest s n cs = cs := by rw [pushRest, h, List.drop_zero]

/-- What TPUSH comes to where its check passes and its cells can be read. -/
theorem evTpush_val {a : Word} {vs : List W128} (hb : 0 < sylMinor y.word) (hd : (engGet s n).pushDone = 0) (hp : (engGet s n).pushPut = 0)
    (hck : engCheck (engGet s n) (regC (engGet s n) (sylRa y.word)) (regG (engGet s n) (sylRb y.word)) (16 * sylMinor y.word) 16 .load = .ok a)
    (hl : vs.length = sylMinor y.word)
    (h : ∀ i, (hi : i < vs.length) → engLoad s n (a + BitVec.ofNat 32 (16 * i)).toNat 16 = .val vs[i]) :
    evTpush s n y = if pushStalls s n vs then .pushPart (vs.take (pushFits s n vs))
      else .acts [.push vs, .g (sylRd y.word) (BitVec.ofNat 32 (pushPlaced s n vs))] := by
  have h0 (i : Nat) (hi : i < vs.length) :
      engLoad s n (a + BitVec.ofNat 32 (16 * (([] : List W128).length + i))).toNat 16 = .val vs[i] := by
    rw [List.length_nil, Nat.zero_add]
    exact h i hi
  simp only [evTpush, Nat.ne_of_gt hb, if_false, hck]
  rw [← hl, evCells_val vs [] h0]
  simp only [evPush, pushRest_all hd, hp, Nat.zero_add, List.nil_append]

end

/-- Settles O25: the store of a burst, the removal of cells and the push are the acts of these bundles beside one register write. -/
theorem cellInstructionsComplete : Obligations.CellInstructionsComplete := by
  intro s n y nx a e b rd c off s0 have_ bytes count put
  have hb0 (hb : 0 < have_.length) : b ≠ 0 := by rintro h0; simp [have_, h0] at hb
  have zero {peek : Bool} (hb : b = 0) : evPop s n y peek = .acts [.g rd 0] := if_pos hb
  refine ⟨fun h hb => exec_reports h (by simp) (by simp) (zero hb), fun h hb => exec_reports h (by simp) (by simp) (zero hb),
    fun h hb => exec_reports h (by simp) (by simp) (if_pos hb),
    fun h hb hv hck => exec_pops h (by simp) (by simp) (evPop_empty hb hv hck) rfl nofun,
    fun h hb hv hck => exec_pops h (by simp) (by simp) (evPop_empty hb hv hck) rfl nofun,
    fun h hb hck hst hr ht => exec_burst h (by simp) (by simp) (evPop_burst hb hck hst) hr ht,
    fun h hb hck hst hr ht => exec_burst h (by simp) (by simp) (evPop_burst hb hck hst) hr ht,
    fun h hb hd hp hck vs hl hv => ⟨fun hs => ?push, fun hs => ?part⟩, fun h hv => ?popr, fun h q rest hv => ?popr1, fun h hd hs => ?pushr⟩
  case push =>
    exact exec_pushes_reports h (by simp) (by simp) ((evTpush_val hb hd hp hck hl hv).trans (by rw [hs]; rfl))
  case part =>
    exact exec_pushes_part h (by simp) (by simp) ((evTpush_val hb hd hp hck hl hv).trans (by rw [hs]; rfl))
  case popr =>
    have hr := loadActs_regs 6 rd fillCell
    refine (exec_pops h (by simp) (by simp) (k := 0) (more := loadActs 6 rd fillCell) ?_ hr.1 hr.2).trans ?_
    · simp only [evOp, evTpopr, hv]; rfl
    · simp only [foldl_loadActs]; rfl
  case popr1 =>
    have hr := loadActs_regs 6 rd q
    refine (exec_pops h (by simp) (by simp) (k := 1) (more := loadActs 6 rd q) ?_ hr.1 hr.2).trans ?_
    · simp only [evOp, evTpopr, hv]; rfl
    · simp only [foldl_loadActs]; rfl
  case pushr =>
    refine exec_pushes h (by simp) (by simp) ?_
    simp only [evOp, evPush, pushRest_all hd]
    exact if_neg (by rw [hs]; nofun)

end Sys2Proof.Machine
end


/-! O22 and O24 fail in an engine that holds a bundle's bank (R310) with no hold in force: `Runs` decodes under the held bank, and the
retirement gives that bank up before it reads the bundle that follows. -/

section
namespace Sys2Proof.Machine
open Host

/-- Engine 0 running the words `ws` with the active bank 0 empty and the bank 1, whose decode entries are `dec`, held by its bundle. -/
def heldBankEngine (ws : List Word) (dec : Tbl (Option Word)) (lc : Word) : Engine :=
  { pcc := capMake 0 0xFFFFFFFF 0x3FF 0, run := .running, heldBank := some true, dec1 := dec, lc := lc,
    imem := memPut [] 0 (ws.flatMap (fun w => leBytes 4 w.toNat)) }

/-- The block in RUN with engine 0 as given. -/
def blockOf (e : Engine) : State := { State.reset with bstate := .run, eng := [(0, e)] }

/-- A BLC with ANNUL and LC = 0 before a bundle that is long in the held bank and short in the active one. -/
def blcBank : State :=
  blockOf (heldBankEngine [0x82900203, 0x80180000] [(0x52, some 0x81800000), (0x03, some 0x82000000)] 0)

/-- The syllable of the BLC. -/
def blcSyl : Syl := { addr := 0, word := 0x82900203, ext := 0, entry := 0x81800000 }

theorem blcBank_runs : Runs blcBank 0 blcSyl .blc 4 where
  ready := by decide +kernel
  unheld := by decide +kernel
  single := by decide +kernel
  bundle := by decide +kernel
  noSlot := by decide +kernel
  noRep := by decide +kernel
  noSwap := by decide +kernel
  noStep := by decide +kernel
  noDonePos := by decide +kernel
  noDone := by decide +kernel
  untold := by decide +kernel
  guard := by decide +kernel
  priv := by decide +kernel
  need := by decide +kernel
  hard := by decide +kernel

/-- Whether an outcome is a next state with a property. -/
def nextWith (o : Outcome State Fault Refusal) (p : State → Bool) : Bool :=
  match o with
  | .next t => p t
  | _ => false

theorem nextWith_of_next {o : Outcome State Fault Refusal} {p : State → Bool} {t : State} (h : nextWith o p = true)
    (ht : o = .next t) : p t = true := by
  subst ht
  exact h

/-- The untaken BLC goes on at 8, where the statement's bundle after the slot ends at 12. -/
theorem exec_blcBank : nextWith (exec (.blc 0) blcBank) (fun t => (engGet t 0).pc == 8) = true := by decide +kernel

/-- Refutes O22: BLC with ANNUL and LC = 0 goes on after the slot of the active bank, not of the bank that its bundle held. -/
theorem not_transfersComplete : ¬ Obligations.TransfersComplete := by
  unfold Obligations.TransfersComplete
  intro h
  obtain ⟨-, -, -, hblc, -⟩ := h blcBank 0 blcSyl 4
  obtain ⟨t, ht, ⟨-, hpc, -⟩, -⟩ := hblc blcBank_runs (by decide +kernel)
  have h8 : (engGet t 0).pc = 8 := eq_of_beq (nextWith_of_next exec_blcBank ht)
  have h12 : (BitVec.ofNat 32 (afterBundle blcBank 0 4) : Word) = 12 := by decide +kernel
  obtain ⟨hpc, -⟩ := hpc (by decide +kernel)
  rw [h8, h12] at hpc
  exact absurd hpc (by decide)

/-- REP with LC = 1 before an ALU instruction that only the held bank decodes. -/
def repBank : State :=
  blockOf (heldBankEngine [0x82B00000, 0x80080000] [(0x56, some 0x80A00000), (0x01, some 0x80000000)] 1)

/-- The syllable of the REP. -/
def repSyl : Syl := { addr := 0, word := 0x82B00000, ext := 0, entry := 0x80A00000 }

/-- The syllable of its body. -/
def repBody : Syl := { addr := 4, word := 0x80080000, ext := 0, entry := 0x80000000 }

theorem repBank_runs : Runs repBank 0 repSyl .rep 4 where
  ready := by decide +kernel
  unheld := by decide +kernel
  single := by decide +kernel
  bundle := by decide +kernel
  noSlot := by decide +kernel
  noRep := by decide +kernel
  noSwap := by decide +kernel
  noStep := by decide +kernel
  noDonePos := by decide +kernel
  noDone := by decide +kernel
  untold := by decide +kernel
  guard := by decide +kernel
  priv := by decide +kernel
  need := by decide +kernel
  hard := by decide +kernel

/-- The body comes to the illegal-instruction fault: the engine enters level 2. -/
theorem exec_repBank : nextWith (exec (.rep 0) repBank) (fun t => (engGet t 0).level == 2) = true := by decide +kernel

/-- Refutes O24: REP gives up the bank that its bundle held, and its body decodes in the active one. -/
theorem not_repeatPrefixesComplete : ¬ Obligations.RepeatPrefixesComplete := by
  unfold Obligations.RepeatPrefixesComplete
  intro h
  obtain ⟨-, -, -, hbody, -⟩ := h repBank 0 repSyl repBody 4 8 (by decide +kernel) (by decide +kernel)
  obtain ⟨hrep, -⟩ := hbody (by decide +kernel) (by decide +kernel) (by decide +kernel) (by decide +kernel)
  have ht := hrep repBank_runs (by decide +kernel) (by decide +kernel) (by decide +kernel)
  exact absurd (nextWith_of_next exec_repBank ht) (by decide +kernel)

/-! O21 fails where an earlier store meets a later one that the load reads: the order of R165 completes both, and the statement keeps
the earlier one. -/

/-- A far load of the word at 0x80000000 that waits, after a store to 0x80000004 and then one to 0x80000003 and 0x80000004. -/
def farOrderState : State :=
  blockOf { pcc := capMake 0 0xFFFFFFFF 0x3FF 0, run := .running, hold := .farLoad false, dec0 := [(0x36, some 0x81400000)],
            c := [(4, capMake 0x80000000 0xFFFFFFFF 0x3FF 0)], farOut := 2, farSt := [(0x80000004, [0]), (0x80000003, [0, 0])],
            imem := memPut [] 0 (leBytes 4 0x81B04800) }

/-- The syllable of the load. -/
def farLoadSyl : Syl := { addr := 0, word := 0x81B04800, ext := 0, entry := 0x81400000 }

theorem farOrderState_waits : Waits farOrderState 0 farLoadSyl .load 4 (.farLoad false) where
  ready := by decide +kernel
  held := by decide +kernel
  single := by decide +kernel
  bundle := by decide +kernel
  noSlot := by decide +kernel
  noRep := by decide +kernel
  noSwap := by decide +kernel
  noStep := by decide +kernel
  noDonePos := by decide +kernel
  noDone := by decide +kernel
  waitsOn := by decide +kernel
  guard := by decide +kernel
  priv := by decide +kernel
  need := by decide +kernel
  hard := by decide +kernel

theorem farOrderState_flows : flows farOrderState 0 := fun _ => .inl (by decide +kernel)

/-- Refutes O21: the store to 0x80000004 alone meets no byte of the load, but is complete with the later store that meets both. -/
theorem not_farAccessesComplete : ¬ Obligations.FarAccessesComplete := by
  unfold Obligations.FarAccessesComplete
  intro h
  obtain ⟨hload, -, -⟩ := h farOrderState 0 farLoadSyl 4 0x80000000
  obtain ⟨-, hst, -⟩ := hload farOrderState_flows farOrderState_waits (by decide +kernel) (by decide +kernel) 0
  exact absurd hst (by decide +kernel)

end Sys2Proof.Machine
end

section

namespace Sys2Proof.Machine

/-! A bundle that waits, run again once its wait is over. -/

/-- `t` is `s` in all that the bundle of engine `n` is made of: they may differ in the hold of the engine, in what its wait has counted and
been told, and in its save registers. -/
structure Again (s t : State) (n : Nat) : Prop where
  mem : t.mem = s.mem
  svc : t.svc = s.svc
  eng : engGet t n = { engGet s n with
    hold := (engGet t n).hold, told := (engGet t n).told, waitCyc := (engGet t n).waitCyc
    save1 := (engGet t n).save1, save2 := (engGet t n).save2, save3 := (engGet t n).save3 }

/-- `t` is `s` in all that the fetch of engine `n` reads. -/
structure Fetches (s t : State) (n : Nat) : Prop where
  mem : t.mem = s.mem
  svc : t.svc = s.svc
  eng : engGet t n = { engGet s n with
    hold := (engGet t n).hold, told := (engGet t n).told, waitCyc := (engGet t n).waitCyc
    save1 := (engGet t n).save1, save2 := (engGet t n).save2, save3 := (engGet t n).save3
    u := (engGet t n).u, noEvent := (engGet t n).noEvent, waitFrom := (engGet t n).waitFrom }

section

variable {s t : State} {n : Nat}

theorem Again.fetches (h : Again s t n) : Fetches s t n := ⟨h.mem, h.svc, h.eng.trans (by rw [h.eng])⟩

namespace Fetches

theorem fetchWord (h : Fetches s t n) (a : Nat) : fetchWord t n a = fetchWord s n a := by
  unfold Machine.fetchWord
  rw [h.eng]

theorem fetchTileBad (h : Fetches s t n) (a : Nat) : fetchTileBad t n a = fetchTileBad s n a := by
  unfold Machine.fetchTileBad engTileBad tileBad
  rw [h.mem]

theorem activeEntry (h : Fetches s t n) (m : Nat) : activeEntry (engGet t n) m = activeEntry (engGet s n) m := by
  rw [h.eng]
  rfl

theorem fetchOk (h : Fetches s t n) (a : Nat) :
    fetchOk (engGet t n).compat (engGet t n).pcc a = fetchOk (engGet s n).compat (engGet s n).pcc a := by
  rw [h.eng]

theorem fetchFrom (h : Fetches s t n) (look : Bool) (fuel a : Nat) : fetchFrom look t n fuel a = fetchFrom look s n fuel a := by
  induction fuel using Nat.strong_induction_on generalizing a with
  | _ fuel ih =>
    match fuel with
    | 0 => rfl
    | 1 => simp only [Machine.fetchFrom, h.fetchWord, h.fetchTileBad, h.activeEntry, h.fetchOk]
    | k + 2 =>
      conv_lhs => rw [Machine.fetchFrom]
      conv_rhs => rw [Machine.fetchFrom]
      simp only [h.fetchWord, h.fetchTileBad, h.activeEntry, h.fetchOk, ih k (by omega), ih (k + 1) (by omega)]

theorem fetchBundle (h : Fetches s t n) (a : Nat) : fetchBundle t n a = fetchBundle s n a := h.fetchFrom true 8 a

theorem decodeBundle (h : Fetches s t n) : decodeBundle t n = decodeBundle s n := by
  have hpc : (engGet t n).pc = (engGet s n).pc := by rw [h.eng]
  have hx : (engGet t n).xfer = (engGet s n).xfer := by rw [h.eng]
  unfold Machine.decodeBundle
  simp only [h.fetchBundle, hpc, hx]

theorem isHead (h : Fetches s t n) : isHead t n = isHead s n := isHead_congr h.svc

theorem partnerOf (h : Fetches s t n) : partnerOf t n = partnerOf s n := by
  unfold Machine.partnerOf isPaired
  rw [h.svc]

end Fetches

theorem Again.fetchFrom (h : Again s t n) (look : Bool) (fuel a : Nat) : fetchFrom look t n fuel a = fetchFrom look s n fuel a :=
  h.fetches.fetchFrom look fuel a

theorem Again.decodeBundle (h : Again s t n) : decodeBundle t n = decodeBundle s n := h.fetches.decodeBundle

theorem Again.isHead (h : Again s t n) : isHead t n = isHead s n := h.fetches.isHead

theorem Again.partnerOf (h : Again s t n) : partnerOf t n = partnerOf s n := h.fetches.partnerOf

variable {y : Syl} {op : Op} {nx : Nat} {w : Hold}

/-- The bundle that waits, as a bundle that stands alone. -/
theorem Waits.lone (h : Waits s n y op nx w) : Lone s n y op nx where
  single := h.single
  head := isHead_of_ready h.ready
  bundle := h.bundle
  noSwap := h.noSwap
  noStep := h.noStep
  noDonePos := h.noDonePos
  noDone := by rw [doneActs, h.noDone]; rfl
  guard := h.guard
  priv := h.priv
  need := h.need
  hard := h.hard

/-- The bundle that waited, run again. -/
theorem Waits.sole (h : Waits s n y op nx w) (ha : Again s t n) (hu : (engGet t n).hold = .none) : Sole t n y op nx := by
  have he := ha.eng
  exact {
    unheld := hu
    single := ha.partnerOf.trans h.single
    head := ha.isHead.trans h.lone.head
    bundle := ha.decodeBundle.trans h.bundle
    noSwap := by rw [he]; exact h.noSwap
    noStep := by rw [he]; exact h.noStep
    noDonePos := by rw [he]; exact h.noDonePos
    noDone := by rw [he]; exact h.lone.noDone
    guard := by rw [he]; exact h.guard
    priv := by rw [he]; exact h.priv
    need := by rw [he]; exact h.need
    hard := h.hard }

theorem Waits.calm (h : Waits s n y op nx w) (ha : Again s t n) : Calm (bundleOver (engGet t n)) := by
  rw [ha.eng]
  exact ⟨h.noSlot, h.noRep, h.noSwap, h.noStep, rfl⟩

theorem runAgain_single (hp : partnerOf s n = none) : runAgain s n = runBundle (engMap s n (fun e => { e with hold := .none })) n := by
  unfold runAgain
  rw [hp]
  rfl

theorem tellBoth_single (hp : partnerOf s n = none) (f : Told → Told) :
    tellBoth s n f = engMap s n (fun e => { e with told := f e.told }) := by
  unfold tellBoth
  rw [hp]
  rfl

/-- A bundle of register acts, run outside lockstep. -/
theorem runBundle_regs (h : Sole s n y op nx) (hz : Calm (bundleOver (engGet s n))) (h1 : op ≠ .rep) (h2 : op ≠ .repi) {acts : List Act}
    (he : evOp s n (atNow s n nx) y op true = .acts acts) (ha : acts.all isRegAct = true) :
    runBundle s n = .next (engSet s n (afterActs (engGet s n) acts nx)) := by
  have hf := foldl_regAct_flow acts (bundleOver (engGet s n))
  have hz0 : acted s n acts = engSet s n (acts.foldl regAct (bundleOver (engGet s n))) := foldl_applyAct_reg' _ _ _ _ _ ha _
  rw [runBundle_goesOn h h1 h2 he (isRegAct_goesOn ha) (by rw [hz0, engGet_engSet]; exact hz.of_flow hf), hz0, goOn, engMap, engGet_engSet,
    engSet_engSet]
  exact unlessHeld_of_trc n rfl

/-- A bundle that comes to a hold, run outside lockstep. -/
theorem runBundle_holds (h : Sole s n y op nx) (hr : (engGet s n).rep = none) (h1 : op ≠ .rep) (h2 : op ≠ .repi)
    (he : evOp s n (atNow s n nx) y op true = .hold w) (hw : w ≠ .dispatch) (hl : w = .lock → noLockWait s n = false) :
    runBundle s n = .next (holdSet s n w) := by
  have hg : engGet (holdSet s n w) n = _ := engGet_engSet _ n _
  have ha : applyOne s n 0 (bundleRes s n) = .next (holdSet s n w) := by
    rw [bundleRes_lone h.toLone h1 h2, he]
    exact congrArg (fun z => Host.Outcome.next (holdSet z n w)) (if_neg hw)
  have hrun : runOnce s n = .next (holdSet s n w) := by rw [runOnce_single h.single, ha]
  have h0 : trcStallCount s n ((engGet s n).hold == .trace) = s := by rw [h.unheld]; rfl
  have hwait : runWait s n = .next (holdSet s n w) := by
    unfold runWait
    rw [hrun]
    refine if_neg fun hq => ?_
    have hwl : w = .lock := by rw [← hq.1, hg]
    exact absurd ((hl hwl).symm.trans hq.2) nofun
  have hrep : inRepBody (engGet (holdSet s n w) n) = false := by
    rw [inRepBody, show (engGet (holdSet s n w) n).rep = none by rw [hg]; exact hr]
  have hd : trcHeld s (holdSet s n w) n = false := by simp [trcHeld, trcDropped, trcGet, show (holdSet s n w).trc = s.trc from rfl]
  rw [runBundle, h0, runRep, hwait]
  dsimp only
  rw [hrep, hd]
  rfl

end

end Sys2Proof.Machine
end

section

namespace Sys2Proof.Machine

/-! The next entry of an engine (R81 to R85). -/

section

variable {s t : State} {n : Nat}

/-- What the age of a cell at the queue of an engine is measured by. -/
theorem Framed.queueOld (h : Framed s t) : queueOld t n = queueOld s n := by
  funext c
  unfold Machine.queueOld cellOld ageLimit regGet
  rw [h.sett, h.tick, h.hreg]

/-- The inbound queue `l` once its failing entries and the old arrivals at its head are gone. -/
def freshInq (old : W128 → Bool) (l : List QCell) : List QCell :=
  (dropOldArr old ((l.filter (fun q => !q.bad)).map (fun q => if q.arr && q.lost then { q with arr := false } else q))).1

/-- What taking an entry may change of an engine: its queue, its list and their records. -/
structure KeepsEntry (e f : Engine) : Prop extends KeepsFlow e f where
  scan : f.scan = e.scan
  fresh : f.fresh = e.fresh

theorem KeepsEntry.trans {e f g : Engine} (h : KeepsEntry e f) (k : KeepsEntry f g) : KeepsEntry e g :=
  ⟨h.toKeepsFlow.trans k.toKeepsFlow, k.scan.trans h.scan, k.fresh.trans h.fresh⟩

theorem KeepsEntry.refl (e : Engine) : KeepsEntry e e := ⟨.refl e, rfl, rfl⟩

theorem Woken.entry {e f : Engine} (h : Woken e f) : KeepsEntry e f := ⟨h.flow, by rw [h.alike], by rw [h.alike]⟩

theorem Woken.inq {e f : Engine} (h : Woken e f) : f.inq = e.inq := by rw [h.alike]

theorem inqParity_entry : KeepsEntry (engGet s n) (engGet (inqParity s n) n) := by
  unfold inqParity
  dsimp only
  split
  · refine KeepsEntry.trans ?_ ((Logged.forNats (fun z k => Logged.parityDrop z n k) _ _).woken n).entry
    rw [engMap, engGet_engSet]
    exact ⟨⟨rfl, rfl, rfl, rfl, rfl, rfl, rfl, rfl, rfl⟩, rfl, rfl⟩
  · exact .refl _

theorem inqParity_inq : (engGet (inqParity s n) n).inq = (engGet s n).inq.filter (fun q => !q.bad) := by
  unfold inqParity
  dsimp only
  split
  · rw [((Logged.forNats (fun z k => Logged.parityDrop z n k) _ _).woken n).inq, engMap, engGet_engSet]
  · next h =>
    refine (List.filter_eq_self.mpr fun q hq => ?_).symm
    simpa using fun hb => h (List.any_eq_true.mpr ⟨q, hq, hb⟩)

theorem Logged.listDrop (s : State) (n p : Nat) : Logged s (listDrop s n p) :=
  .ite (.refl s) ((Logged.cntAdd s _ _).trans (.fltWrite _ _ _ _ _))

theorem arrParity_entry : KeepsEntry (engGet s n) (engGet (arrParity s n) n) := by
  unfold arrParity
  dsimp only
  split
  · exact .refl _
  · refine KeepsEntry.trans ?_ ((Logged.forNats (fun z k => Logged.listDrop z n k) _ _).woken n).entry
    rw [engMap, engGet_engSet]
    exact ⟨⟨rfl, rfl, rfl, rfl, rfl, rfl, rfl, rfl, rfl⟩, rfl, rfl⟩

theorem arrParity_inq :
    (engGet (arrParity s n) n).inq = (engGet s n).inq.map (fun q => if q.arr && q.lost then { q with arr := false } else q) := by
  unfold arrParity
  dsimp only
  split
  · next h =>
    refine (List.map_congr_left (g := id) fun q hq => if_neg fun hb => ?_).trans (List.map_id _) |>.symm
    simp only [Bool.and_eq_true] at hb
    have hm := List.mem_filter.mpr ⟨List.mem_filter.mpr ⟨hq, hb.1⟩, hb.2⟩
    simp only [List.isEmpty_iff, List.map_eq_nil_iff] at h
    rw [h] at hm
    cases hm
  · rw [((Logged.forNats (fun z k => Logged.listDrop z n k) _ _).woken n).inq, engMap, engGet_engSet]

theorem arrFresh_entry : KeepsEntry (engGet s n) (engGet (arrFresh s n) n) := by
  refine (inqParity_entry.trans arrParity_entry).trans ?_
  unfold arrFresh
  dsimp only
  refine KeepsEntry.trans ?_ ((Logged.qCount _ n _ _).woken n).entry
  rw [engGet_engSet]
  exact ⟨⟨rfl, rfl, rfl, rfl, rfl, rfl, rfl, rfl, rfl⟩, rfl, rfl⟩

theorem inqParity_framed : Framed s (inqParity s n) := by
  unfold inqParity
  dsimp only
  split
  · exact (Framed.engMap s n _).trans (Logged.forNats (fun z k => Logged.parityDrop z n k) _ _).frame
  · exact .refl s

theorem arrParity_framed : Framed s (arrParity s n) := by
  unfold arrParity
  dsimp only
  split
  · exact .refl s
  · exact (Framed.engMap s n _).trans (Logged.forNats (fun z k => Logged.listDrop z n k) _ _).frame

theorem arrFresh_framed : Framed s (arrFresh s n) := by
  unfold arrFresh
  exact (inqParity_framed.trans arrParity_framed).trans ((Framed.engSet _ n _).trans (Logged.qCount _ n _ _).frame)

theorem arrFresh_inq : (engGet (arrFresh s n) n).inq = freshInq (queueOld s n) (engGet s n).inq := by
  unfold arrFresh
  dsimp only
  rw [((Logged.qCount _ n _ _).woken n).inq, engGet_engSet, (inqParity_framed.trans arrParity_framed).queueOld, arrParity_inq,
    inqParity_inq]
  rfl

/-- The entry that an engine takes, with what it leaves of the engine: the first arrival or the first context of the list. -/
def entryOfArrivals (e : Engine) : Option (Bool × Nat × Engine) :=
  match arrToHead e.inq with
  | none => none
  | some (c, rest) => some (true, cellIndex c, { e with
      inq := { cell := c, arr := false } :: rest, scanLost := delNat (cellIndex c) e.scanLost, disp := addNat (cellIndex c) e.disp })

def entryOfList (e : Engine) : Option (Bool × Nat × Engine) :=
  match e.scan with
  | [] => none
  | i :: rest => some (false, i, { e with scan := rest, scanLost := delNat i e.scanLost, disp := addNat i e.disp })

def entryTaken (arrivals : Bool) (e : Engine) : Option (Bool × Nat × Engine) :=
  if arrivals then (entryOfArrivals e).or (entryOfList e) else (entryOfList e).or (entryOfArrivals e)

theorem nextEntry_eq : nextEntry s n = if !windowOpen s n || (engGet s n).fresh then none
    else (entryTaken (arrFirst s n) (engGet (arrFresh s n) n)).map (fun q => (q.1, q.2.1, engSet (arrFresh s n) n q.2.2)) := by
  unfold nextEntry entryTaken entryOfArrivals entryOfList
  dsimp only
  rw [arrFresh_entry.fresh]
  cases arrToHead (engGet (arrFresh s n) n).inq <;> cases (engGet (arrFresh s n) n).scan <;> cases arrFirst s n <;> rfl

/-- The entry taken and what is left of the queue and the list depend on the queue and the list alone. -/
theorem entryTaken_congr {e f : Engine} (hi : f.inq = e.inq) (hs : f.scan = e.scan) (a : Bool) {arr : Bool} {j : Nat} {e' : Engine}
    (h : entryTaken a e = some (arr, j, e')) :
    ∃ f', entryTaken a f = some (arr, j, f') ∧ f'.inq = e'.inq ∧ f'.scan = e'.scan ∧ KeepsFlow f f' := by
  unfold entryTaken entryOfArrivals entryOfList at *
  rw [hi, hs]
  cases ha : arrToHead e.inq <;> cases hc : e.scan <;> cases a <;> simp only [ha, hc] at h <;> cases h
  all_goals exact ⟨_, rfl, by first | rfl | exact hi, by first | rfl | exact hs, rfl, rfl, rfl, rfl, rfl, rfl, rfl, rfl, rfl⟩

end

end Sys2Proof.Machine
end

section

namespace Sys2Proof.Machine

/-! DISPATCH, whether it issues or its wait is over (R222, R223). -/

/-! What a write of a register leaves. -/

theorem regG_putG (e : Engine) (r : Nat) (v : Word) (k : Nat) : regG (putG e r v) k = if k = r ∧ k ≠ 0 then v else regG e k := by
  unfold regG putG
  by_cases hk : k = 0
  · simp [hk]
  · by_cases hr : r = 0
    · simp [hk, hr]
    · by_cases h : k = r
      · subst h; simp [hk, tblGet_tblSet_self]
      · simp [hk, hr, h, tblGet_tblSet_other _ h]

theorem regP_putP (e : Engine) {r : Nat} (h0 : r ≠ 0) (h8 : r < 8) (v : Bool) : regP (putP e r v) r = v := by
  simp [regP, putP, h0, bitAt_putBit _ h8]

theorem putG_inq (e : Engine) (r : Nat) (v : Word) : (putG e r v).inq = e.inq := by unfold putG; split <;> rfl
theorem putG_scan (e : Engine) (r : Nat) (v : Word) : (putG e r v).scan = e.scan := by unfold putG; split <;> rfl

section

variable {s : State} {n : Nat} {y : Syl} {nx : Nat} {arr : Bool} {j : Nat} {z : State}

/-- The entry that an engine takes depends on its queue and its list alone, once the window is open. -/
theorem Framed.nextEntry {t : State} (hft : Framed s t) (hf : (engGet t n).fresh = (engGet s n).fresh)
    (hi : (engGet t n).inq = (engGet s n).inq) (hs : (engGet t n).scan = (engGet s n).scan) (h : nextEntry s n = some (arr, j, z)) :
    ∃ z', nextEntry t n = some (arr, j, z') ∧ (engGet z' n).inq = (engGet z n).inq ∧
      (engGet z' n).scan = (engGet z n).scan ∧ KeepsFlow (engGet t n) (engGet z' n) ∧ z'.trc = t.trc := by
  have hi : (engGet (arrFresh t n) n).inq = (engGet (arrFresh s n) n).inq := by
    rw [arrFresh_inq, arrFresh_inq, hft.queueOld, hi]
  have hs : (engGet (arrFresh t n) n).scan = (engGet (arrFresh s n) n).scan := by rw [arrFresh_entry.scan, arrFresh_entry.scan, hs]
  have hw : windowOpen t n = windowOpen s n := by
    unfold windowOpen isFox isFastloop
    rw [hft.sett, hft.tick, hft.svc]
  have ha : arrFirst t n = arrFirst s n := by
    unfold arrFirst regGet
    rw [hft.hreg]
  rw [nextEntry_eq] at h ⊢
  rw [hw, ha, hf]
  split at h
  · cases h
  next hw =>
    rw [if_neg hw]
    obtain ⟨⟨arr', j', e'⟩, he, hq⟩ := Option.map_eq_some_iff.mp h
    cases hq
    obtain ⟨f', hf', hfi, hfs, hfl⟩ := entryTaken_congr hi hs _ he
    refine ⟨_, by rw [hf']; rfl, ?_, ?_, ?_, ?_⟩
    · rw [engGet_engSet, engGet_engSet, hfi]
    · rw [engGet_engSet, engGet_engSet, hfs]
    · rw [engGet_engSet]
      exact arrFresh_entry.toKeepsFlow.trans hfl
    · exact arrFresh_framed.trc

/-- A DISPATCH that finds an entry with a good record takes it. -/
theorem runBundle_dispatch (h : Sole s n y .dispatch nx) (hz : Calm (bundleOver (engGet s n))) (hc : (engGet s n).ctxOpen = none)
    (he : nextEntry s n = some (arr, j, z)) (hb : engRecBad s n j 0 = false) :
    ∃ t, runBundle s n = .next t ∧ (engGet t n).hold = .none ∧ (engGet t n).pc = BitVec.ofNat 32 nx ∧
      (sylRd y.word ≠ 0 → regG (engGet t n) (sylRd y.word) = BitVec.ofNat 32 (b2n arr * 2 ^ 31 + j)) ∧
      regG (engGet t n) (sylRd y.word + 1) = recPtr (engRec s n j) ∧
      (engGet t n).inq = (engGet z n).inq ∧ (engGet t n).scan = (engGet z n).scan := by
  obtain ⟨z', hz', hi, hs, hf, ht⟩ :=
    (Framed.engMap s n bundleOver).nextEntry (by rw [engGet_started]; rfl) (by rw [engGet_started]; rfl) (by rw [engGet_started]; rfl) he
  replace hf := (KeepsFlow.of_eq engGet_started).trans hf
  let more : List Act := [.g (sylRd y.word) (BitVec.ofNat 32 (b2n arr * 2 ^ 31 + j)), .g (sylRd y.word + 1) (recPtr (engRec s n j))]
  have hev : evOp s n (atNow s n nx) y .dispatch true = .acts ([.dispatch] ++ more) := by
    simp only [evOp, evDispatch, hc, he]
    exact if_neg (by rw [hb]; nofun)
  have hact : acted s n [.dispatch] = engRecSeen z' n j 0 := by
    have hh : isHead (engMap s n bundleOver) n = true := h.head
    simp only [acted, List.foldl_cons, List.foldl_nil, applyAct, hz', hh, if_true]
  have hl : Logged z' (acted s n [.dispatch]) := by rw [hact]; exact .engRecSeen z' n j 0
  have hcalm : Calm (engGet (acted s n [.dispatch]) n) := hz.of_flow (hf.trans (hl.woken n).flow)
  have hm : more.all isRegAct = true := rfl
  have hrun := runBundle_goesOn h (by simp) (by simp) hev rfl (calm_acted_append hm nofun hcalm)
  rw [goOn_acted_append hm nofun] at hrun
  refine ⟨_, hrun.trans (unlessHeld_of_trc n (hl.frame.trc.trans ht)), ?_⟩
  have hg : engGet (engMap (acted s n [.dispatch]) n (fun f => more.foldl regAct { f with pc := BitVec.ofNat 32 nx })) n =
      putG (putG { engGet (acted s n [.dispatch]) n with pc := BitVec.ofNat 32 nx } (sylRd y.word)
        (BitVec.ofNat 32 (b2n arr * 2 ^ 31 + j))) (sylRd y.word + 1) (recPtr (engRec s n j)) := engGet_engSet _ n _
  rw [hg]
  refine ⟨((putG_flow _ _ _).hold.trans (putG_flow _ _ _).hold).trans hcalm.unheld, (putG_flow _ _ _).pc.trans (putG_flow _ _ _).pc, ?_, ?_,
    ?_, ?_⟩
  · intro hrd
    rw [regG_putG, regG_putG]
    simp [hrd]
  · rw [regG_putG]
    simp
  · rw [putG_inq, putG_inq]
    exact (hl.woken n).inq.trans hi
  · rw [putG_scan, putG_scan]
    exact (hl.woken n).entry.scan.trans hs

end

end Sys2Proof.Machine
end

section

namespace Sys2Proof.Machine

/-! What the end of a context's use leaves of the holds and repeats of the engines (R444, R310). -/

/-- `f` holds and repeats as `e` does, or not at all. -/
structure Loose (e f : Engine) : Prop where
  hold : f.hold = e.hold ∨ f.hold = .none
  rep : f.rep = e.rep ∨ f.rep = none

theorem Loose.refl (e : Engine) : Loose e e := ⟨.inl rfl, .inl rfl⟩

theorem Loose.trans {e f g : Engine} (h : Loose e f) (k : Loose f g) : Loose e g where
  hold := k.hold.elim (fun q => h.hold.imp q.trans q.trans) .inr
  rep := k.rep.elim (fun q => h.rep.imp q.trans q.trans) .inr

theorem Woken.loose {e f : Engine} (h : Woken e f) : Loose e f := ⟨.inl h.flow.hold, .inl h.flow.rep⟩

/-- Every engine holds and repeats in `t` as in `s`, or not at all. -/
def Loosens (s t : State) : Prop := ∀ m, Loose (engGet s m) (engGet t m)

namespace Loosens

variable {s t u : State}

theorem refl (s : State) : Loosens s s := fun _ => .refl _
theorem trans (h : Loosens s t) (k : Loosens t u) : Loosens s u := fun m => (h m).trans (k m)

theorem of_eng (h : t.eng = s.eng) : Loosens s t := fun m => by
  unfold engGet
  rw [h]
  exact .refl _

theorem of_logged (h : Logged s t) : Loosens s t := fun m => (h.woken m).loose

theorem ite {c : Prop} [Decidable c] (h : Loosens s t) (k : Loosens s u) : Loosens s (if c then t else u) := by
  split
  · exact h
  · exact k

theorem engSet {n : Nat} {e : Engine} (h : Loose (engGet s n) e) : Loosens s (engSet s n e) := fun m => by
  by_cases hm : m = n
  · subst hm
    rwa [engGet_engSet]
  · rw [engGet_engSet_other _ hm]
    exact .refl _

theorem engMap (s : State) (n : Nat) {f : Engine → Engine} (h : ∀ e, Loose e (f e)) : Loosens s (engMap s n f) := engSet (h _)

theorem foldl {α : Type} {f : State → α → State} (l : List α) (hf : ∀ z a, Loosens z (f z a)) (s : State) : Loosens s (l.foldl f s) := by
  induction l generalizing s with
  | nil => exact refl s
  | cons a l ih => exact (hf s a).trans (ih _)

theorem forNats {f : State → Nat → State} (l : List Nat) (hf : ∀ z a, Loosens z (f z a)) (s : State) : Loosens s (forNats l f s) :=
  foldl l hf s

end Loosens

/-- Every engine is in `t` as in `s`, or woken. -/
def Rested (s t : State) : Prop := ∀ m, Woken (engGet s m) (engGet t m)

namespace Rested

variable {s t u : State}

theorem refl (s : State) : Rested s s := fun _ => .refl _
theorem trans (h : Rested s t) (k : Rested t u) : Rested s u := fun m => (h m).trans (k m)

theorem of_eng (h : t.eng = s.eng) : Rested s t := fun m => by
  unfold engGet
  rw [h]
  exact .refl _

theorem of_logged (h : Logged s t) : Rested s t := h.woken

theorem ite {c : Prop} [Decidable c] (h : Rested s t) (k : Rested s u) : Rested s (if c then t else u) := by
  split
  · exact h
  · exact k

theorem foldl {α : Type} {f : State → α → State} (l : List α) (hf : ∀ z a, Rested z (f z a)) (s : State) : Rested s (l.foldl f s) := by
  induction l generalizing s with
  | nil => exact refl s
  | cons a l ih => exact (hf s a).trans (ih _)

theorem forNats {f : State → Nat → State} (l : List Nat) (hf : ∀ z a, Rested z (f z a)) (s : State) : Rested s (forNats l f s) :=
  foldl l hf s

theorem loosens (h : Rested s t) : Loosens s t := fun m => (h m).loose

theorem flow (h : Rested s t) (n : Nat) : KeepsFlow (engGet s n) (engGet t n) := (h n).flow

/-! Context records. -/

theorem copyMerge (s0 : State) (t reader : Nat) (f alt : Rec → Rec) (seen : Nat) (s : State) (j : Nat) :
    Rested s (copyMerge s0 t reader f alt seen s j) := by
  have hq : Rested s (if j = seen then (true, s) else Machine.recTileRead s j t reader).2 := by
    split
    · exact refl s
    · exact of_logged (.recTileRead s j t reader)
  unfold Machine.copyMerge
  exact ite (hq.trans (of_eng rfl)) (hq.trans (of_eng rfl))

theorem recMerge (s : State) (i t reader : Nat) (f alt : Rec → Rec) : Rested s (recMerge s i t reader f alt).2 := by
  have hq : Rested s (Machine.recTileRead s i t reader).2 := of_logged (.recTileRead s i t reader)
  unfold Machine.recMerge
  dsimp only
  split
  · exact hq.trans (foldl _ (fun z j => copyMerge s t reader f alt _ z j) _)
  · exact hq

theorem recPutPart (s : State) (i t reader : Nat) (f : Rec → Rec) : Rested s (recPutPart s i t reader f) := by
  have hq := recMerge s i t reader f id
  unfold Machine.recPutPart
  exact ite hq (hq.trans (of_eng rfl))

theorem lockFreeBy (s : State) (i reader : Nat) (f : Rec → Rec) : Rested s (lockFreeBy s i reader f) := by
  have hq := recMerge s i 0 reader (fun r => f (recPutWord r 0x18 (lockWord none))) id
  unfold Machine.lockFreeBy
  exact ite hq (hq.trans (of_eng rfl))

theorem ctlPut (s : State) (i : Nat) (c : Word) : Rested s (ctlPut s i c) :=
  foldl (f := fun z j => ctlPut1 z j c) _ (fun _ _ => of_eng rfl) s

theorem badgerCtl (s : State) (i : Nat) (c : Word) : Rested s (badgerCtl s i c) := (recPutPart s i 0 4 _).trans (ctlPut _ i c)

theorem tileCure (s : State) (cls inst tile : Nat) : Rested s (tileCure s cls inst tile) := by
  unfold Machine.tileCure
  exact ite (of_eng rfl) (of_eng rfl)

theorem tilesClean (s : State) (cls inst : Nat) : Rested s (tilesClean s cls inst) := of_eng (tilesClean_eng s cls inst)

theorem engCommitPut (s : State) (n i : Nat) (win : Rec) : Rested s (engCommitPut s n i win) := by
  unfold Machine.engCommitPut
  dsimp only
  split
  · refine trans ?_ (tileCure _ _ _ _)
    exact trans (of_logged (.engRecSeen s n i 0)) (of_eng rfl)
  · exact ((recMerge s _ 0 2 _ _).trans (foldl _ (fun z k => tileCure z _ _ _) _)).trans (ctlPut _ _ _)

theorem engLockPut (s : State) (n i : Nat) (h : Option Nat) : Rested s (engLockPut s n i h) := by
  unfold Machine.engLockPut
  dsimp only
  split
  · exact trans (of_logged (.engRecSeen s n i 0)) (of_eng rfl)
  · exact recMerge s _ 0 2 _ _

theorem worstNote (s : State) (n i : Nat) : Rested s (worstNote s n i) := by
  unfold Machine.worstNote
  exact ite (of_eng rfl) (refl s)

theorem trcCtx (s : State) (n sub idx : Nat) (cseq w3 : Word) : Rested s (trcCtx s n sub idx cseq w3) := by
  unfold Machine.trcCtx
  exact ite (of_eng (trcPut_eng ..)) (refl s)

theorem portServed (s : State) (n : Nat) : Rested s (portServed s n) := ite (of_eng rfl) (refl s)

end Rested

/-! The commands that wait for the close of a context. -/

namespace Loosens

variable {s t : State}

theorem of_rested (h : Rested s t) : Loosens s t := h.loosens

theorem suspectTile (s : State) (n k : Nat) : Loosens s (suspectTile s n k) := by
  unfold Machine.suspectTile
  refine ite (trans (of_eng ?_) (engMap _ _ fun _ => ⟨.inl rfl, .inl rfl⟩)) (refl s)
  unfold engCount
  split <;> rfl

theorem aheadNote (s : State) (n a : Nat) : Loosens s (aheadNote s n a) :=
  ite (refl s) (forNats _ (fun z k => ite (suspectTile z n k) (refl z)) s)

theorem fetchLeft (s : State) (n : Nat) (b : Bool) : Loosens s (fetchLeft s n b) := ite (aheadNote s n _) (refl s)

theorem tmrRebase (old : State) (base : Nat) (s : State) (q : Nat × Timer) : Loosens s (tmrRebase old base s q) := by
  unfold Machine.tmrRebase
  refine ite (of_eng rfl) (ite ?_ (refl s))
  unfold holdReach
  exact ite (of_eng rfl) (of_eng rfl)

theorem freezeStep (s z : State) : Loosens z (freezeStep s z) := by
  unfold Machine.freezeStep
  dsimp only
  have h1 : Loosens z (if frzEvh s = frzEvh z then z else hubRebase s z) := ite (refl z) (foldl _ (fun y q => tmrRebase s _ y q) z)
  have h2 := fun l => h1.trans (forNats (f := fun y n => Machine.engMap y n (fun e => { e with tickn := engTick s n, tickHeld := true })) l
    (fun y n => engMap y n fun _ => ⟨.inl rfl, .inl rfl⟩) _)
  refine ite (refl z) ((h2 _).trans (forNats _ (fun y n => ?_) _))
  exact ite (ite (of_eng (trcPut_eng ..)) (refl y)) (ite (ite (of_eng (trcPut_eng ..)) (refl y)) (refl y))

theorem dropPending (s : State) (n : Nat) : Loosens s (dropPending s n).2 := engSet ⟨.inl rfl, .inl rfl⟩

theorem engineStop (s : State) (n : Nat) : Loosens s (engineStop s n) := by
  unfold Machine.engineStop
  refine Loosens.trans ?_ (freezeStep _ _)
  exact ((fetchLeft s n false).trans (dropPending _ n)).trans (engMap _ _ fun _ => ⟨.inr rfl, .inr rfl⟩)

theorem srcComplete (s : State) (x : Nat) (forced : Bool) : Loosens s (srcComplete s x forced) := by
  unfold Machine.srcComplete
  dsimp only
  have h0 : Logged s (if forced = true then cntAdd (srcSet s x { srcGet s x with insvc := none }) 0x20020 1
      else srcSet s x { srcGet s x with insvc := none }) := .ite (.of_frame rfl) (.of_frame rfl)
  exact ite (ite (of_logged (h0.trans (.srcSample _ x _))) (of_logged h0)) (refl s)

theorem tgtForce (s : State) (n : Nat) : Loosens s (tgtForce s n) := forNats _ (fun z x => srcComplete z x true) s

theorem locksRelease (s : State) (n : Nat) : Loosens s (locksRelease s n) :=
  forNats _ (fun z i => (of_rested (.lockFreeBy z i 4 id)).trans (of_logged (.cntAdd _ _ _))) s

theorem queuesClear (s : State) (n : Nat) : Loosens s (queuesClear s n) := engMap s n fun _ => ⟨.inl rfl, .inl rfl⟩

/-- The engines of a state stand for it. -/
theorem congr (h : Loosens s t) (he : u.eng = t.eng) : Loosens s u := h.trans (of_eng he)

theorem tilesClean (s : State) (c i : Nat) : Loosens s (tilesClean s c i) := of_eng (tilesClean_eng s c i)

theorem domClear (s : State) (d : Nat) : Loosens s (domClear s d) := by
  unfold Machine.domClear
  refine ite ?engine (ite ?cluster (ite (of_eng rfl) (ite ?sett (ite (of_eng rfl) (ite (of_eng rfl) (ite (of_eng rfl) (ite (of_eng rfl)
    (ite ?badger (refl s)))))))))
  case engine =>
    extract_lets e
    refine Loosens.trans (Loosens.trans (Loosens.trans (engSet ?_) (tilesClean _ 0 d)) (tilesClean _ 1 d)) (tilesClean _ 4 d)
    exact ⟨.inr rfl, .inr rfl⟩
  case cluster =>
    extract_lets k out store s1 s2 cells s3
    have h1 : Loosens s s1 := of_eng rfl
    have h2 : Loosens s1 s2 := forNats _ queuesClear s1
    clear_value s2
    have h3 : Loosens s2 s3 := of_eng rfl
    exact ((h1.trans h2).trans h3).trans (tilesClean s3 2 k)
  case sett =>
    extract_lets s1 store cells s2 s3
    have h1 : Loosens s s1 :=
      (engSet (n := 64) (e := { pstate := .off }) ⟨.inr rfl, .inr rfl⟩).trans
        (engSet (n := 65) (e := { pstate := .off }) ⟨.inr rfl, .inr rfl⟩)
    clear_value s1
    have h2 : Loosens s1 s3 := of_eng rfl
    exact (((h1.trans h2).trans (tilesClean s3 5 0)).trans (tilesClean _ 5 1)).trans (tilesClean _ 5 2)
  case badger =>
    have h1 : Loosens s { s with mem := { s.mem with staging := [] } } := of_eng rfl
    exact h1.trans (tilesClean _ 3 0)

theorem domOff (s : State) (d : Nat) : Loosens s (domOff s d) := (domClear s d).trans (of_eng rfl)

theorem trcEngMark (s : State) (n typ bit sub : Nat) (w1 w2 w3 : Word) : Loosens s (trcEngMark s n typ bit sub w1 w2 w3) :=
  ite (of_eng (trcPut_eng ..)) (refl s)

theorem engOffNow (s : State) (n : Nat) : Loosens s (engOffNow s n) := by
  unfold Machine.engOffNow
  refine Loosens.trans ?_ (of_eng rfl)
  refine Loosens.trans ?_ (domOff _ _)
  exact (trcEngMark s n 8 12 3 0 0 0).trans (of_eng rfl)

theorem trcAfterDrain (s : State) (k : Nat) : Loosens s (trcAfterDrain s k) := by
  unfold Machine.trcAfterDrain
  exact ite (of_eng rfl) (ite (of_eng rfl) (refl s))

theorem trcDrain (s : State) (k : Nat) (b : Bool) : Loosens s (trcDrain s k b) := by
  unfold Machine.trcDrain
  split
  · exact refl s
  · refine ite (Loosens.trans ?_ (trcAfterDrain _ _)) (ite (Loosens.trans ?_ (trcAfterDrain _ _)) (refl s))
    · refine Loosens.trans ?_ (of_logged (.fltWrite _ _ _ _ _))
      exact of_eng rfl
    · unfold sinkTake
      exact ite (of_eng rfl) (of_eng rfl)

theorem trcFlush (n m : Nat) (s : State) : Loosens s (trcFlush n m s) := by
  induction m generalizing s with
  | zero => exact refl s
  | succ m ih => exact ite (refl s) ((trcDrain s _ false).trans (ih _))

theorem engDomOff (s : State) (n : Nat) : Loosens s (engDomOff s n) := by
  have h := trcFlush n 64 s
  unfold Machine.engDomOff
  exact ite (ite (h.trans (engOffNow _ n)) (h.trans (of_eng rfl))) (domOff s n)

theorem engOff (s : State) (n : Nat) : Loosens s (engOff s n) := (engDomOff s n).trans (of_eng rfl)

theorem hmbComplete (s : State) (tag status : Nat) : Loosens s (hmbComplete s tag status) := by
  unfold Machine.hmbComplete
  refine ite (refl s) (Loosens.trans ?_ (of_logged (.pulse _ 307)))
  exact (ite (c := status = 2) (of_eng rfl) (refl s) : Loosens s (if status = 2 then cntAdd s 0x40028 1 else s)).trans (of_eng rfl)

theorem cluOffCheck (s : State) (k : Nat) : Loosens s (cluOffCheck s k) := ite (domOff s _) (refl s)

theorem retireEnd (s : State) (n : Nat) (off : Bool) (tag : Nat) : Loosens s (retireEnd s n off tag) := by
  have h (z : State) (m : Nat) : Loosens z (svcEngMap (Machine.engineStop (Machine.tgtForce (Machine.locksRelease z m) m) m) m
      (fun v => { v with st := 3 })) :=
    ((locksRelease z m).trans (tgtForce _ m)).trans ((engineStop _ m).trans (of_eng rfl))
  unfold Machine.retireEnd
  exact (forNats _ (fun z m => ite ((h z m).trans (engOff _ m)) (h z m)) s).trans ((cluOffCheck _ _).trans (hmbComplete _ _ _))

theorem listMaxNote (s : State) (n : Nat) : Loosens s (listMaxNote s n) := ite (of_eng rfl) (refl s)

theorem cellTake (s : State) (n : Nat) (q : QCell) :
    Loosens s (if 512 ≤ (engGet s n).inq.length then Machine.qCount s n 4 1
      else Machine.engSet s n { engGet s n with inq := (engGet s n).inq ++ [q] }) :=
  ite (of_logged (.qCount s n 4 1)) (engSet ⟨.inl rfl, .inl rfl⟩)

theorem moveCells1 (s : State) (old new : Nat) (mine : W128 → Bool) : Loosens s (moveCells1 s old new mine) := by
  unfold Machine.moveCells1
  extract_lets e go s1 s2 fl cells s3
  have h1 : Loosens s s1 := engSet ⟨.inl rfl, .inl rfl⟩
  have h2 : Loosens s1 s2 := foldl go (fun z q => cellTake z new q) s1
  have h3 : Loosens s s3 := (h1.trans h2).trans (of_eng rfl)
  exact ite ((h3.trans (listMaxNote _ new)).trans (of_logged (.wakeEng _ new))) h3

theorem moveScan1 (s : State) (old new i : Nat) : Loosens s (moveScan1 s old new i) := by
  unfold Machine.moveScan1
  refine ite (Loosens.trans (Loosens.trans ?_ (listMaxNote _ new)) (of_logged (.wakeEng _ new))) (refl s)
  refine trans (engMap s old ?_) (engMap _ new ?_)
  all_goals exact fun _ => ⟨.inl rfl, .inl rfl⟩

theorem moveCells (s : State) (old new : Nat) (l : List Nat) : Loosens s (moveCells s old new l) := by
  unfold Machine.moveCells
  exact foldl _ (fun z (q : Nat × Nat) => moveCells1 z q.1 q.2 _) s

theorem moveScan (s : State) (old new i : Nat) : Loosens s (moveScan s old new i) := by
  unfold Machine.moveScan
  exact foldl _ (fun z (q : Nat × Nat) => moveScan1 z q.1 q.2 i) s

theorem handOver (s : State) (old t i : Nat) : Loosens s (handOver s old t i) := by
  unfold Machine.handOver
  exact ite (refl s) (((of_rested (.badgerCtl s i _)).trans (moveCells _ old t [i])).trans (moveScan _ old t i))

theorem completeAll (l : List SvcPend) (s : State) : Loosens s (l.foldl (fun z p => Machine.hmbComplete z p.tag 0) s) :=
  foldl l (fun z p => hmbComplete z p.tag 0) s

theorem svcActs (s : State) (l : List SvcPend) : Loosens s (svcActs s l) := of_eng rfl

theorem cluSettle (s : State) : Loosens s (cluSettle s) := by
  unfold Machine.cluSettle
  exact (svcActs s _).trans (completeAll _ _)

theorem swapSettle (s : State) : Loosens s (swapSettle s) := by
  unfold Machine.swapSettle
  exact (svcActs s _).trans (completeAll _ _)

theorem swapOne (s : State) (n : Nat) : Loosens s (swapOne s n) := by
  unfold Machine.swapOne
  refine Loosens.trans ?_ (engMap _ _ fun _ => ⟨.inl rfl, .inl rfl⟩)
  unfold engCount
  exact ite (of_eng rfl) (of_eng rfl)

theorem swapTry (s : State) (n : Nat) : Loosens s (swapTry s n) :=
  ite (forNats _ (fun z m => forNats _ (fun y _ => swapOne y m) z) s) (refl s)

theorem ctxClosed (s : State) (n : Nat) : Loosens s (ctxClosed s n) := by
  unfold Machine.ctxClosed
  dsimp only
  refine ite (refl s) (ite (refl s) (((Loosens.trans ?_ (cluSettle _)).trans (swapTry _ n)).trans (swapSettle _)))
  refine (svcActs s _).trans (foldl _ (fun z p => ?_) _)
  split
  · exact ite ((forNats _ (fun y i => handOver y _ _ i) z).trans (retireEnd _ _ _ _)) (retireEnd z _ _ _)
  · exact handOver z _ _ _
  · exact refl z

end Loosens

end Sys2Proof.Machine
end

section

namespace Sys2Proof.Machine

/-! The context instructions (R224 to R227). -/

section

variable {s : State} {n : Nat} {y : Syl} {op : Op} {nx : Nat}

theorem trcCtx_eng (n sub idx : Nat) (cseq w3 : Word) : (trcCtx s n sub idx cseq w3).eng = s.eng := by
  simp only [trcCtx, apply_ite State.eng, trcPut_eng, ite_self]

theorem trcCtx_engGet (n sub idx : Nat) (cseq w3 : Word) (m : Nat) : engGet (trcCtx s n sub idx cseq w3) m = engGet s m := by
  rw [engGet, engGet, trcCtx_eng]

theorem portServed_engGet (k m : Nat) : engGet (portServed s k) m = engGet s m := by
  unfold portServed
  split <;> rfl

/-- The retirement of a bundle that closes a context and does nothing else. -/
theorem retireOne_close {a : Act} (ha : actCloses a = true) {c : Bool} (hz : Calm (engGet (acted s n [a]) n)) :
    retireOne s n 0 [a] nx c = ctxClosed (goOn (acted s n [a]) n nx) n := by
  have hg : engGet (goOn (acted s n [a]) n nx) n = { engGet (acted s n [a]) n with pc := BitVec.ofNat 32 nx } := engGet_engSet _ n _
  have hz' : Calm (engGet (goOn (acted s n [a]) n nx) n) := by rw [hg]; exact hz.withPc _
  have hx : actXfer [a] = none := by cases a <;> first | rfl | cases ha
  have hp := pcAdvance_plain (acted s n [a]) n (pcAt (engGet s n).pc) nx [a] c hz.noSlot hz.noRep hx
  have hord : [a].filter (fun b => !actCloses b) ++ [a].filter actCloses = [a] := by simp [ha]
  have key : retireOne s n 0 [a] nx c =
      let s1 := ([a].filter (fun b => !actCloses b) ++ [a].filter actCloses).foldl (applyAct n 0 (engGet s n).window) (engMap s n bundleOver)
      if [a].any (fun b => b == .eret) then stepEnd (eretTake s1 n) n
      else afterClose (afterRoutine (stepEnd (afterRetire (pcAdvance s1 n (pcAt (engGet s n).pc) nx [a] c) n [a]) n) n) n [a] := rfl
  have he : [a].any (fun b => b == .eret) = false := by cases a <;> first | rfl | cases ha
  rw [key]
  dsimp only
  rw [hord, he, show [a].foldl _ _ = acted s n [a] from rfl, hp, show engMap _ n _ = goOn (acted s n [a]) n nx from rfl,
    afterRetire_plain _ _ _ (by cases a <;> first | rfl | cases ha) (by cases a <;> first | rfl | cases ha), stepEnd_plain _ _ hz'.noStep,
    afterRoutine_plain _ _ hz'.noSwap, afterClose, show [a].any actCloses = true by simp [ha]]
  rfl

/-- The command of such a bundle. -/
theorem exec_closes (h : Runs s n y op nx) (h1 : op ≠ .rep) (h2 : op ≠ .repi) {a : Act} (ha : actCloses a = true)
    (he : evOp s n (atNow s n nx) y op true = .acts [a]) (hz : Calm (engGet (acted s n [a]) n)) :
    exec (commandOf op n) s = unlessHeld s n (ctxClosed (goOn (acted s n [a]) n nx) n) := by
  have hg : engGet (goOn (acted s n [a]) n nx) n = { engGet (acted s n [a]) n with pc := BitVec.ofNat 32 nx } := engGet_engSet _ n _
  have hl := Loosens.ctxClosed (goOn (acted s n [a]) n nx) n n
  have hh : (engGet (ctxClosed (goOn (acted s n [a]) n nx) n) n).hold = .none := by
    refine hl.hold.elim (fun q => q.trans ?_) id
    rw [hg]
    exact hz.unheld
  have hr : (engGet (ctxClosed (goOn (acted s n [a]) n nx) n) n).rep = none := by
    refine hl.rep.elim (fun q => q.trans ?_) id
    rw [hg]
    exact hz.noRep
  rw [exec_alone h.toAlone]
  exact runBundle_retire h.sole h1 h2 he (retireOne_close ha hz) (by rw [hh]; nofun) (by rw [inRepBody, hr])

/-- A bundle of an act and the result of it in a predicate. -/
theorem runBundle_then_p (h : Sole s n y op nx) (hz : Calm (bundleOver (engGet s n))) (h1 : op ≠ .rep) (h2 : op ≠ .repi) {a : Act}
    (ha : goesOn a = true) {r : Nat} {v : Bool} (he : evOp s n (atNow s n nx) y op true = .acts [a, .p r v])
    (hf : KeepsFlow (bundleOver (engGet s n)) (engGet (acted s n [a]) n)) :
    runBundle s n = unlessHeld s n (engMap (acted s n [a]) n (fun f => putP { f with pc := BitVec.ofNat 32 nx } r v)) := by
  have hm : ([.p r v] : List Act).all isRegAct = true := rfl
  rw [runBundle_goesOn h h1 h2 he (by rw [List.all_cons, ha]; rfl) (calm_acted_append (acts := [a]) hm nofun (hz.of_flow hf)),
    show [a, .p r v] = [a] ++ [.p r v] from rfl, goOn_acted_append hm nofun]
  rfl

theorem acted_ctxLock (hh : isHead s n = true) (i : Nat) :
    acted s n [.ctxLock i] = portServed (ctxLockNow (engMap s n bundleOver) n i true) n := by
  rw [← show isHead (engMap s n bundleOver) n = true from hh]
  rfl

/-- What the start of a use leaves of the engine: the record in the window. -/
theorem ctxOpenNow_engGet (i : Nat) : ∃ e, Woken (engGet s n) e ∧
    engGet (ctxOpenNow s n i) n = { e with window := engRec s n i, ctxOpen := some i } := by
  let s1 := if isHead s n then engRecSeen (engRecSeen s n i 0) n i 1 else s
  have h1 : Rested s s1 := .ite (.of_logged ((Logged.engRecSeen s n i 0).trans (.engRecSeen _ n i 1))) (.refl s)
  have h2 : Rested s (if n < 64 then tilesClean s1 4 n else s1) := .ite (h1.trans (.tilesClean s1 4 n)) h1
  refine ⟨_, h2 n, ?_⟩
  unfold ctxOpenNow
  dsimp only
  rw [trcCtx_engGet, engMap, engGet_engSet]

/-- What the end of a use by CTXCOMMIT leaves of the engine. -/
theorem ctxCommitNow_engGet {j : Nat} (hj : (engGet s n).ctxOpen = some j) (win : Rec) : ∃ e, Woken (engGet s n) e ∧
    ∃ q, engGet (ctxCommitNow s n win true) n = { e with outq := q, ctxOpen := none } := by
  have h1 : Rested s (worstNote (engCommitPut s n j win) n j) := (Rested.engCommitPut s n j win).trans (.worstNote _ n j)
  refine ⟨_, h1 n, ?_⟩
  unfold ctxCommitNow releaseAll
  simp only [hj, if_true]
  rw [trcCtx_engGet, engMap, engGet_engSet, engMap, engGet_engSet]
  exact ⟨_, rfl⟩

theorem ctxDropNow_engGet {j : Nat} (hj : (engGet s n).ctxOpen = some j) :
    engGet (ctxDropNow s n) n = { engGet s n with ctxOpen := none, outq := (engGet s n).outq.filter (fun o => !o.pend) } := by
  unfold ctxDropNow dropPending
  simp only [hj]
  rw [trcCtx_engGet, engMap, engGet_engSet, engGet_engSet]

theorem trcCtx_store (n sub idx : Nat) (cseq w3 : Word) : (trcCtx s n sub idx cseq w3).store = s.store := by
  unfold trcCtx trcPut
  dsimp only
  repeat' split
  all_goals rfl

theorem ctxLockNow_flow (i : Nat) : KeepsFlow (engGet s n) (engGet (ctxLockNow s n i true) n) := by
  unfold ctxLockNow
  simp only [if_true]
  rw [trcCtx_engGet]
  exact (Rested.engLockPut s n i _).flow n

/-- CTXUNLOCK may end the LOCKHELD of the debug window, and changes no more of the engine. -/
theorem ctxUnlockNow_calm (i : Nat) (hz : Calm (engGet s n)) : Calm (engGet (ctxUnlockNow s n i true) n) := by
  have hfall (z : State) (hc : Calm (engGet z n)) : Calm (engGet (lockHeldFall z n) n) := by
    unfold lockHeldFall
    split
    · rw [engMap, engGet_engSet]
      exact ⟨hc.noSlot, hc.noRep, hc.noSwap, hc.noStep, hc.unheld⟩
    · exact hc
  unfold ctxUnlockNow
  dsimp only
  refine hfall _ ?_
  rw [trcCtx_engGet]
  refine hz.of_flow (Rested.flow ?_ n)
  exact .ite (.refl s) (.ite (.engLockPut s n i none)
    (.ite (.of_logged ((Logged.engRecSeen s n i 0).trans (.cntAdd _ _ _))) (.refl s)))

theorem ctxClosed_quiet (ha : s.svc.acts = []) (hs : (engGet s n).swapPend = false) : ctxClosed s n = s := by
  unfold ctxClosed
  simp [ha, hs]

/-- The predicate that a context instruction reports its result in. -/
theorem Runs.rd_lt_8 (h : Runs s n y op nx) (ho : op = .ctxOpen ∨ op = .ctxLock) : sylRd y.word < 8 := by
  have hf := (sylLegal_parts (decode_single_legal h.bundle)).2
  obtain rfl | rfl := ho <;> simp [sylFieldsOk] at hf <;> exact hf.1

variable {i : Nat}

/-- What CTXOPEN, CTXCOMMIT and CTXLOCK come to where their checks pass. -/
theorem evCtx_open (hi : i = field (regG (engGet s n) (sylRa y.word)) 16 0) (hc : (engGet s n).ctxOpen = none)
    (hm : engMayOpen s n i = true) (h0 : engRecBad s n i 0 = false) (h1 : engRecBad s n i 1 = false) (ht : (engGet s n).told.lockOut = false)
    (hl : lockedByOther s n i = false) : evCtx s n y .ctxOpen = .acts [.ctxOpen i, .p (sylRd y.word) true] := by
  subst hi
  simp [evCtx, hc, hm, h0, h1, ht, hl]

theorem evCtx_commit {j : Nat} (hc : (engGet s n).ctxOpen = some j) (h0 : engRecBad s n j 0 = false) (hw : windowBad s n = none) :
    evCtx s n y .ctxCommit = .acts [.ctxCommit] := by
  simp [evCtx, hc, h0, hw]

theorem evCtx_drop {j : Nat} (hc : (engGet s n).ctxOpen = some j) : evCtx s n y .ctxDrop = .acts [.ctxDrop] := by
  simp [evCtx, hc]

theorem evCtx_lock (hi : i = field (regG (engGet s n) (sylRa y.word)) 16 0) (hm : engMayOpen s n i = true)
    (h0 : engRecBad s n i 0 = false) (ht : (engGet s n).told.lockOut = false) (hl : lockHolder (recLock (engRec s n i)) = none)
    (h4 : (locksOf s (lockId s n)).length < 4) : evCtx s n y .ctxLock = .acts [.ctxLock i, .p (sylRd y.word) true] := by
  subst hi
  simp [evCtx, hm, h0, ht, hl, Nat.not_le.mpr h4]

theorem evCtx_relock (hi : i = field (regG (engGet s n) (sylRa y.word)) 16 0) (hm : engMayOpen s n i = true)
    (h0 : engRecBad s n i 0 = false) (ht : (engGet s n).told.lockOut = false)
    (hl : lockHolder (recLock (engRec s n i)) = some (lockId s n)) : evCtx s n y .ctxLock = .acts [.p (sylRd y.word) true] := by
  subst hi
  simp [evCtx, hm, h0, ht, hl]

theorem evCtx_unlock (hi : i = field (regG (engGet s n) (sylRa y.word)) 16 0) (hm : engMayOpen s n i = true)
    (h0 : engRecBad s n i 0 = false) : evCtx s n y .ctxUnlock = .acts [.ctxUnlock i] := by
  subst hi
  simp [evCtx, hm, h0]

theorem Runs.notLockedOut (h : Runs s n y op nx) : (engGet s n).told.lockOut = false := by rw [h.untold]

theorem acted_ctx {a : Act} {z : State} (h : applyAct n 0 (engGet s n).window (engMap s n bundleOver) a = z) : acted s n [a] = z := h

end

/-- Settles O26: each context instruction is one act, with its result in a register beside it. -/
theorem contextInstructionsComplete : Obligations.ContextInstructionsComplete := by
  intro s n y nx i e rd s0 goes hi
  have hst : engGet s0 n = bundleOver e := engGet_started
  have hhead {op : Op} (h : Runs s n y op nx) : isHead s0 n = true := h.sole.head
  refine ⟨fun h hc hm h0 h1 hl => ?open_, fun h j hc h0 hw => ?commit, fun h j hc => ?drop, fun z ha hs => ctxClosed_quiet ha hs,
    fun h hm h0 hl h4 => ?lock, fun h hm h0 hl => ?relock, fun h hm h0 => ?unlock, fun h hc arr j z he hb => ?dispatch⟩
  case open_ =>
    obtain ⟨f, hf, hg⟩ := ctxOpenNow_engGet (s := s0) (n := n) i
    have ha : engGet (acted s n [.ctxOpen i]) n = { f with window := engRec s n i, ctxOpen := some i } := by
      rw [show acted s n [.ctxOpen i] = portServed (ctxOpenNow s0 n i) n from rfl, portServed_engGet, hg]
      rfl
    have hk : KeepsFlow (bundleOver e) (engGet (acted s n [.ctxOpen i]) n) := by
      rw [ha, ← hst]
      exact hf.flow.trans ⟨rfl, rfl, rfl, rfl, rfl, rfl, rfl, rfl, rfl⟩
    refine ⟨_, (exec_alone h.toAlone).trans (runBundle_then_p h.sole h.calm (by simp) (by simp) rfl (evCtx_open hi hc hm h0 h1 h.notLockedOut hl) hk), ?_⟩
    rw [engMap, engGet_engSet, ha]
    have hp (f : Engine) (r : Nat) (v : Bool) : (putP f r v).ctxOpen = f.ctxOpen ∧ (putP f r v).window = f.window ∧
        (putP f r v).pc = f.pc := by
      unfold putP
      split <;> exact ⟨rfl, rfl, rfl⟩
    exact ⟨(hp _ _ _).1, (hp _ _ _).2.1, fun hr => regP_putP _ hr (h.rd_lt_8 (.inl rfl)) true, (hp _ _ _).2.2⟩
  case commit =>
    have hz : acted s n [.ctxCommit] = portServed (ctxCommitNow s0 n e.window true) n := by
      rw [← hhead h]
      rfl
    obtain ⟨f, hf, q, hg⟩ := ctxCommitNow_engGet (s := s0) (n := n) (j := j) (by rw [hst]; exact hc) e.window
    have ha : engGet (acted s n [.ctxCommit]) n = { f with outq := q, ctxOpen := none } := by rw [hz, portServed_engGet, hg]
    have hk : KeepsFlow (bundleOver e) (engGet (acted s n [.ctxCommit]) n) := by
      rw [ha, ← hst]
      exact hf.flow.trans ⟨rfl, rfl, rfl, rfl, rfl, rfl, rfl, rfl, rfl⟩
    have key := exec_closes h (by simp) (by simp) (a := .ctxCommit) rfl (evCtx_commit (y := y) hc h0 hw) (h.calm.of_flow hk)
    refine ⟨by rw [← hz]; exact key, ?_⟩
    rw [← hz, show goes (acted s n [.ctxCommit]) = goOn (acted s n [.ctxCommit]) n nx from rfl, goOn, engMap, engGet_engSet, ha]
  case drop =>
    have hg := ctxDropNow_engGet (s := s0) (n := n) (j := j) (by rw [hst]; exact hc)
    have hz : acted s n [.ctxDrop] = ctxDropNow s0 n := rfl
    have hk : KeepsFlow (bundleOver e) (engGet (acted s n [.ctxDrop]) n) := by
      rw [hz, hg, hst]
      exact ⟨rfl, rfl, rfl, rfl, rfl, rfl, rfl, rfl, rfl⟩
    refine ⟨exec_closes h (by simp) (by simp) (a := .ctxDrop) rfl (evCtx_drop (y := y) hc) (h.calm.of_flow hk), ?_, ?_⟩
    · rw [show goes (ctxDropNow s0 n) = goOn (ctxDropNow s0 n) n nx from rfl, goOn, engMap, engGet_engSet, hg, hst]
      rfl
    · have hs0 : (ctxDropNow s0 n).store = s.store := by
        unfold ctxDropNow
        split
        · rfl
        · exact trcCtx_store ..
      exact hs0
  case lock =>
    have hz : acted s n [.ctxLock i] = portServed (ctxLockNow s0 n i true) n := acted_ctxLock h.sole.head i
    have hk : KeepsFlow (bundleOver e) (engGet (acted s n [.ctxLock i]) n) := by
      rw [hz, portServed_engGet, ← hst]
      exact ctxLockNow_flow i
    have key := runBundle_then_p h.sole h.calm (by simp) (by simp) (a := .ctxLock i) rfl (evCtx_lock hi hm h0 h.notLockedOut hl h4) hk
    rw [hz] at key
    exact (exec_alone h.toAlone).trans key
  case relock => exact exec_runs_p h (by simp) (by simp) (evCtx_relock hi hm h0 h.notLockedOut hl)
  case unlock =>
    have hz : acted s n [.ctxUnlock i] = portServed (ctxUnlockNow s0 n i true) n := by
      rw [← hhead h]
      rfl
    have hk : Calm (engGet (acted s n [.ctxUnlock i]) n) := by
      rw [hz, portServed_engGet]
      exact ctxUnlockNow_calm i (by rw [hst]; exact h.calm)
    have key := exec_goesOn h (by simp) (by simp) (acts := [.ctxUnlock i]) (evCtx_unlock hi hm h0) rfl hk
    rw [hz] at key
    exact key
  case dispatch =>
    obtain ⟨t, ht, -, hpc, hrd, hrd1, hq, hs⟩ := runBundle_dispatch h.sole h.calm hc he hb
    exact ⟨t, (exec_alone h.toAlone).trans ht, hpc, hrd, hrd1, hq, hs⟩

end Sys2Proof.Machine
end

section

namespace Sys2Proof.Machine

/-! What events, fault records and the context store leave of the counters. -/

/-- The counter at `a` is in `t` as in `s`. -/
def CntKept (a : Nat) (s t : State) : Prop := cntGet t a = cntGet s a

namespace CntKept

variable {a : Nat} {s t u : State}

theorem refl (a : Nat) (s : State) : CntKept a s s := rfl
theorem trans (h : CntKept a s t) (k : CntKept a t u) : CntKept a s u := Eq.trans k h

theorem of_cnt (h : t.cnt = s.cnt) : CntKept a s t := by
  unfold CntKept cntGet
  rw [h]

theorem ite {c : Prop} [Decidable c] (h : CntKept a s t) (k : CntKept a s u) : CntKept a s (if c then t else u) := by
  split
  · exact h
  · exact k

theorem foldl {α : Type} {f : State → α → State} (l : List α) (hf : ∀ z x, CntKept a z (f z x)) (s : State) : CntKept a s (l.foldl f s) := by
  induction l generalizing s with
  | nil => exact refl a s
  | cons x l ih => exact (hf s x).trans (ih _)

theorem forNats {f : State → Nat → State} (l : List Nat) (hf : ∀ z x, CntKept a z (f z x)) (s : State) : CntKept a s (forNats l f s) :=
  foldl l hf s

theorem cntAdd (s : State) {b : Nat} (h : a ≠ b) (k : Nat) : CntKept a s (cntAdd s b k) := cntGet_cntAdd_other s h k

/-! The counters of the hub stand from 0x20000 on. -/

theorem hubWake (ha : a < 0x20000) (s : State) (x : Nat) : CntKept a s (hubWake s x) := by
  unfold Machine.hubWake
  refine ite (forNats _ (fun z t => ite (trans (t := Machine.forNats (tgtEngines z t) wakeEng z) ?_ ?_) (refl a z)) s) (refl a s)
  · exact forNats (f := wakeEng) _ (fun _ _ => of_cnt rfl) z
  · exact cntAdd _ (by omega) _

theorem srcPendNow (ha : a < 0x20000) (s : State) (x : Nat) : CntKept a s (srcPendNow s x) := by
  unfold Machine.srcPendNow
  exact (ite (of_cnt rfl) ((of_cnt rfl).trans (cntAdd (srcSet s x _) (by omega) _))).trans (hubWake ha _ x)

theorem srcWithdraw (ha : a < 0x20000) (s : State) (x : Nat) : CntKept a s (srcWithdraw s x) :=
  ite ((of_cnt rfl).trans (cntAdd (srcSet s x _) (by omega) _)) (refl a s)

theorem srcOff (ha : a < 0x20000) (s : State) (x : Nat) : CntKept a s (srcOff s x) := (srcWithdraw ha s x).trans (of_cnt rfl)

theorem srcSample (ha : a < 0x20000) (s : State) (x : Nat) (v : Bool) : CntKept a s (srcSample s x v) := by
  unfold Machine.srcSample
  dsimp only
  have h0 : CntKept a s (srcSet s x { srcGet s x with raw := v }) := of_cnt rfl
  exact ite (refl a s) (ite h0 (ite (ite (ite (h0.trans (cntAdd _ (by omega) _)) (h0.trans (srcPendNow ha _ x))) h0)
    (ite (h0.trans (srcPendNow ha _ x)) (ite (h0.trans (srcOff ha _ x)) h0))))

theorem pulse (ha : a < 0x20000) (s : State) (x : Nat) : CntKept a s (pulse s x) :=
  (srcSample ha s x true).trans (srcSample ha _ x false)

theorem fltWrite (ha : a < 0x20000) (s : State) (cls : Nat) (src a0 a1 : Word) : CntKept a s (fltWrite s cls src a0 a1) := by
  unfold Machine.fltWrite
  extract_lets s1
  have h1 : CntKept a s s1 := cntAdd s (by omega) 1
  clear_value s1
  split
  · exact h1.trans (of_cnt rfl)
  · exact ite ((h1.trans (cntAdd _ (by omega) 1)).trans (pulse ha _ _)) (h1.trans (of_cnt rfl))

/-! Failing tiles are counted from 0xA010 on, and a mirrored record that fails at 0x6114 in each cluster. -/

theorem tileDetect (ha : a < 0xA010) (s : State) (cls inst tile reader : Nat) : CntKept a s (tileDetect s cls inst tile reader) := by
  have hb : a ≠ 0xA010 + 4 * cls := by omega
  have hm (w : Word) (b : Nat) (hb : a ≠ b) : CntKept a s (Machine.cntAdd { s with mem := { s.mem with lastadr := w } } b 1) :=
    cntAdd { s with mem := { s.mem with lastadr := w } } hb 1
  exact (hm _ _ hb).trans (fltWrite (by omega) _ _ _ _ _)

theorem recTileRead (ha : a < 0xA010) (h14 : a % 0x20 ≠ 0x14) (s : State) (i t reader : Nat) :
    CntKept a s (recTileRead s i t reader).2 := by
  unfold Machine.recTileRead
  dsimp only
  split
  · split
    · exact (tileDetect ha s _ _ _ _).trans (cntAdd _ (by omega) _)
    · split
      · exact (tileDetect ha s _ _ _ _).trans (tileDetect ha _ _ _ _ _)
      · exact tileDetect ha s _ _ _ _
  · exact refl a s

theorem copyMerge (ha : a < 0xA010) (h14 : a % 0x20 ≠ 0x14) (s0 : State) (t reader : Nat) (f alt : Rec → Rec) (seen : Nat) (s : State)
    (j : Nat) : CntKept a s (copyMerge s0 t reader f alt seen s j) := by
  have hq : CntKept a s (if j = seen then (true, s) else Machine.recTileRead s j t reader).2 := by
    split
    · exact refl a s
    · exact recTileRead ha h14 s j t reader
  unfold Machine.copyMerge
  exact ite (hq.trans (of_cnt rfl)) (hq.trans ((of_cnt rfl).trans (cntAdd (recPut1 _ j _) (by omega) 1)))

theorem recMerge (ha : a < 0xA010) (h14 : a % 0x20 ≠ 0x14) (s : State) (i t reader : Nat) (f alt : Rec → Rec) :
    CntKept a s (recMerge s i t reader f alt).2 := by
  have hq : CntKept a s (Machine.recTileRead s i t reader).2 := recTileRead ha h14 s i t reader
  unfold Machine.recMerge
  dsimp only
  split
  · exact hq.trans (foldl _ (fun z j => copyMerge ha h14 s t reader f alt _ z j) _)
  · exact hq

theorem engRecSeen (ha : a < 0xA010) (h14 : a % 0x20 ≠ 0x14) (s : State) (n i t : Nat) : CntKept a s (engRecSeen s n i t) :=
  ite (ite (tileDetect ha s _ _ _ _) (refl a s)) (recTileRead ha h14 s _ _ _)

theorem engLockPut (ha : a < 0xA010) (h14 : a % 0x20 ≠ 0x14) (s : State) (n i : Nat) (h : Option Nat) :
    CntKept a s (engLockPut s n i h) := by
  unfold Machine.engLockPut
  dsimp only
  split
  · exact trans (engRecSeen ha h14 s n i 0) (of_cnt rfl)
  · exact recMerge ha h14 s _ 0 2 _ _

theorem trcPut (ha : a < 0x400000) (s : State) (k typ eng sub : Nat) (w1 w2 w3 : Word) : CntKept a s (trcPut s k typ eng sub w1 w2 w3) := by
  unfold Machine.trcPut
  exact ite (of_cnt rfl) ((of_cnt rfl).trans (cntAdd (trcSet s k _) (by unfold trcAdr; omega) 1))

theorem trcCtx (ha : a < 0x400000) (s : State) (n sub idx : Nat) (cseq w3 : Word) : CntKept a s (trcCtx s n sub idx cseq w3) :=
  ite (trcPut ha ..) (refl a s)

theorem ctxLockNow (ha : a < 0xA010) (h14 : a % 0x20 ≠ 0x14) (s : State) (n i : Nat) (head : Bool) :
    CntKept a s (ctxLockNow s n i head) := by
  unfold Machine.ctxLockNow
  exact trans (ite (engLockPut ha h14 s n i _) (refl a s)) (trcCtx (by omega) _ _ _ _ _ _)

theorem portServed (s : State) (n : Nat) : CntKept a s (portServed s n) := ite (of_cnt rfl) (refl a s)

end CntKept

end Sys2Proof.Machine
end

section

namespace Sys2Proof.Machine

/-! The waits of an engine for a tick, a dispatch entry and a lock (R82, R114 to R116, R119, R229). -/

section

variable {s t : State} {n : Nat} {y : Syl} {op : Op} {nx : Nat} {w : Hold}

/-- An engine whose hold has been taken away. -/
theorem again_unheld (s : State) (n : Nat) : Again s (engMap s n (fun e => { e with hold := .none })) n :=
  ⟨rfl, rfl, by rw [engMap, engGet_engSet]⟩

theorem Again.trans {u : State} (h : Again s t n) (k : Again t u n) : Again s u n :=
  ⟨k.mem.trans h.mem, k.svc.trans h.svc, by rw [k.eng, h.eng]⟩

/-- The engine that a wait is run again in. -/
theorem engGet_unheld (s : State) (n : Nat) : engGet (engMap s n (fun e => { e with hold := .none })) n = { engGet s n with hold := .none } :=
  engGet_engSet s n _

theorem retired_unheld (e : Engine) (told : Told) (c : Nat) : retired { e with hold := .none, told := told, waitCyc := c } nx =
    { retired e nx with waitCyc := c } := rfl

/-- A TICKWAIT that has been told the tick. -/
theorem evTickWait_told {v : Word} (hc : (engGet s n).ctxOpen = none) (hv : (engGet s n).told.tick = some v) :
    evTickWait s n y = .acts [.g (sylRd y.word) v] := by
  simp [evTickWait, hc, hv]

theorem evTickWait_waits (hc : (engGet s n).ctxOpen = none) (hv : (engGet s n).told.tick = none) : evTickWait s n y = .hold .tick := by
  simp [evTickWait, hc, hv]

theorem holdSet_fresh (hu : (engGet s n).hold = .none) (hw : w ≠ .none) :
    holdSet s n w = engSet s n { engGet s n with hold := w, waitFrom := ktb s, waitCyc := 0 } := by
  simp only [holdSet, engMap, hu, if_neg hw.symm]

/-! What the checks of a context instruction read of a state. -/

theorem Framed.engMayOpen (h : Framed s t) (i : Nat) : engMayOpen t n i = engMayOpen s n i := by
  rw [h]
  rfl

theorem Framed.engRecBad (h : Framed s t) (i k : Nat) : engRecBad t n i k = engRecBad s n i k := by
  rw [h]
  rfl

theorem Framed.engRec (h : Framed s t) (i : Nat) : engRec t n i = engRec s n i := by
  rw [h]
  rfl

theorem Framed.locksOf (h : Framed s t) (k : Nat) : locksOf t k = locksOf s k := by
  rw [h]
  rfl

theorem Framed.lockId (h : Framed s t) : lockId t n = lockId s n := by
  rw [h]
  rfl

/-- What CTXLOCK and CTXOPEN come to on a record that another engine has locked. -/
theorem evCtx_waits {i h : Nat} (ho : op = .ctxLock ∧ (locksOf s (lockId s n)).length < 4 ∨ op = .ctxOpen ∧ (engGet s n).ctxOpen = none)
    (hi : i = field (regG (engGet s n) (sylRa y.word)) 16 0) (hm : engMayOpen s n i = true) (h0 : engRecBad s n i 0 = false)
    (ht : (engGet s n).told.lockOut = false) (hl : lockHolder (recLock (engRec s n i)) = some h) (hne : h ≠ lockId s n) :
    evCtx s n y op = .hold .lock := by
  subst hi
  obtain ⟨rfl, h4⟩ | ⟨rfl, hc⟩ := ho
  · simp [evCtx, hm, h0, ht, hl, hne, Nat.not_le.mpr h4]
  · simp [evCtx, hc, hm, h0, ht, lockedByOther, hl, hne]

/-- What a CTXLOCK that is told that its wait is over comes to. -/
theorem evCtx_lockOut {i : Nat} (hi : i = field (regG (engGet s n) (sylRa y.word)) 16 0) (hm : engMayOpen s n i = true)
    (h0 : engRecBad s n i 0 = false) (ht : (engGet s n).told.lockOut = true) :
    evCtx s n y .ctxLock = .acts [.p (sylRd y.word) false] := by
  subst hi
  simp [evCtx, hm, h0, ht, evLockOut]

/-- What a lock leaves of the trace units and their registers. -/
structure TraceKept (s t : State) : Prop where
  hreg : t.hreg = s.hreg
  svc : t.svc = s.svc
  trc : t.trc = s.trc

theorem TraceKept.refl (s : State) : TraceKept s s := ⟨rfl, rfl, rfl⟩

theorem TraceKept.trans {u : State} (h : TraceKept s t) (k : TraceKept t u) : TraceKept s u :=
  ⟨k.hreg.trans h.hreg, k.svc.trans h.svc, k.trc.trans h.trc⟩

theorem TraceKept.ite {u : State} {c : Prop} [Decidable c] (h : TraceKept s t) (k : TraceKept s u) : TraceKept s (if c then t else u) := by
  split
  · exact h
  · exact k

theorem Framed.traceKept (h : Framed s t) : TraceKept s t := ⟨h.hreg, h.svc, h.trc⟩

theorem TraceKept.trcOn (h : TraceKept s t) (k : Nat) : trcOn t k = trcOn s k := by
  unfold Machine.trcOn trcCtl regGet domStat
  rw [h.hreg, h.svc]

theorem copyMerge_traceKept (s0 : State) (t reader : Nat) (f alt : Rec → Rec) (seen : Nat) (s : State) (j : Nat) :
    TraceKept s (copyMerge s0 t reader f alt seen s j) := by
  have hq : TraceKept s (if j = seen then (true, s) else recTileRead s j t reader).2 := by
    split
    · exact .refl s
    · exact (Logged.recTileRead s j t reader).frame.traceKept
  unfold copyMerge
  exact .ite (hq.trans ⟨rfl, rfl, rfl⟩) (hq.trans ⟨rfl, rfl, rfl⟩)

theorem recMerge_traceKept (s : State) (i t reader : Nat) (f alt : Rec → Rec) : TraceKept s (recMerge s i t reader f alt).2 := by
  have hq : TraceKept s (recTileRead s i t reader).2 := (Logged.recTileRead s i t reader).frame.traceKept
  have hf (l : List Nat) (seen : Nat) (z : State) : TraceKept z (l.foldl (copyMerge s t reader f alt seen) z) := by
    induction l generalizing z with
    | nil => exact .refl z
    | cons j l ih => exact (copyMerge_traceKept s t reader f alt seen z j).trans (ih _)
  unfold recMerge
  dsimp only
  split
  · exact hq.trans (hf _ _ _)
  · exact hq

theorem engLockPut_traceKept (s : State) (n i : Nat) (h : Option Nat) : TraceKept s (engLockPut s n i h) := by
  unfold engLockPut
  dsimp only
  split
  · exact (Logged.engRecSeen s n i 0).frame.traceKept.trans ⟨rfl, rfl, rfl⟩
  · exact recMerge_traceKept s _ 0 2 _ _

/-- A lock leaves no trace record where the trace unit is off. -/
theorem ctxLockNow_trc_off (i : Nat) (hoff : trcOn s (cluOf n) = false) : (ctxLockNow s n i true).trc = s.trc := by
  have hk := engLockPut_traceKept s n i (some (lockId s n))
  have hm : trcMark (engLockPut s n i (some (lockId s n))) (cluOf n) 11 = false := by
    rw [trcMark, hk.trcOn, hoff]
    rfl
  unfold ctxLockNow trcCtx
  simp only [if_true, hm, Bool.and_false, Bool.false_and, Bool.false_eq_true, if_false]
  exact hk.trc

theorem unlessHeld_flows (hf : flows s n) (h : trcOn s (cluOf n) = false → t.trc = s.trc) : unlessHeld s n t = .next t := by
  have hh : trcHeld s t n = false := by
    unfold trcHeld
    by_cases hn : n < 64
    · obtain ho | hb := hf hn
      · simp [trcDropped, trcGet, h ho]
      · simp [hb]
    · simp [hn]
  rw [unlessHeld, hh]
  rfl

/-! The run of a lock wait that ends. -/

/-- The state in which a CTXLOCK whose wait has counted `cyc` cycles is run again. -/
def lockAgain (s : State) (n cyc : Nat) : State := engMap (lockStall s n cyc) n (fun e => { e with hold := .none })

theorem lockStall_eq (hn : n < 64) (cyc : Nat) :
    lockStall s n cyc = cntAdd (engMap s n (fun e => { e with waitCyc := e.waitCyc + cyc })) (0x6104 + cluOf n * 0x20) cyc :=
  if_pos hn

theorem lockStall_engGet (cyc : Nat) :
    engGet (lockStall s n cyc) n = { engGet s n with waitCyc := (engGet s n).waitCyc + cyc } := by
  have h : engGet (engMap s n (fun e => { e with waitCyc := e.waitCyc + cyc })) n = _ := engGet_engSet s n _
  unfold lockStall
  dsimp only
  split
  · exact h
  · exact h

theorem again_lockStall (cyc : Nat) : Again s (lockStall s n cyc) n := by
  have h : Again s (engMap s n (fun e => { e with waitCyc := e.waitCyc + cyc })) n := ⟨rfl, rfl, by rw [engMap, engGet_engSet]⟩
  unfold lockStall
  dsimp only
  split
  · exact ⟨h.mem, h.svc, h.eng⟩
  · exact h

theorem cntGet_lockStall (hn : n < 64) (cyc a : Nat) : cntGet (lockStall s n cyc) a =
    if a = 0x6104 + cluOf n * 0x20 then satCount (cntGet s a) cyc else cntGet s a := by
  rw [lockStall_eq hn]
  split
  next h => rw [h, cntGet_cntAdd]; rfl
  next h => rw [cntGet_cntAdd_other _ h]; rfl

/-- The engine that the port serves next is one whose wait can end. -/
theorem portNext_waits {k m : Nat} (h : portNext s k = some m) : lockWaits s m = true := by
  unfold portNext at h
  dsimp only at h
  have hall (l : List Nat) (hx : m ∈ l.filter (lockWaits s)) : lockWaits s m = true := (List.mem_filter.mp hx).2
  obtain h | ⟨-, h⟩ := Option.or_eq_some_iff.mp h
  · exact hall _ (List.mem_of_find?_eq_some h)
  · exact hall _ (List.mem_of_mem_head? h)

variable {i : Nat}

/-- A CTXLOCK whose wait is over takes the lock that is free. -/
theorem lockWaitEnd_takes (hn : n < 64) (hf : flows s n) (h : Waits s n y .ctxLock nx .lock)
    (hi : i = field (regG (engGet s n) (sylRa y.word)) 16 0) (hm : engMayOpen s n i = true) (h0 : engRecBad s n i 0 = false)
    (hl : lockHolder (recLock (engRec s n i)) = none) (h4 : (locksOf s (lockId s n)).length < 4) (cyc : Nat) :
    ∃ t, runBundle (lockAgain s n cyc) n = .next t ∧ (engGet t n).hold = .none ∧ (engGet t n).pc = BitVec.ofNat 32 nx ∧
      (sylRd y.word ≠ 0 → regP (engGet t n) (sylRd y.word) = true) ∧
      cntGet t (0x6104 + cluOf n * 0x20) = satCount (cntGet s (0x6104 + cluOf n * 0x20)) cyc := by
  let z := lockAgain s n cyc
  have ha : Again s z n := (again_lockStall cyc).trans (again_unheld _ n)
  have hu : (engGet z n).hold = .none := by rw [show engGet z n = _ from engGet_unheld _ n]
  have hs := h.sole ha hu
  have hc := h.calm ha
  have hz : z = engMap (cntAdd (engMap s n (fun e => { e with waitCyc := e.waitCyc + cyc })) (0x6104 + cluOf n * 0x20) cyc) n
      (fun e => { e with hold := .none }) := by rw [← lockStall_eq hn]; rfl
  have ht : (engGet z n).told = (engGet s n).told := by
    rw [show engGet z n = _ from engGet_unheld _ n, lockStall_engGet]
  have hev : evOp z n (atNow z n nx) y .ctxLock true = .acts [.ctxLock i, .p (sylRd y.word) true] := by
    refine evCtx_lock (hi.trans ?_) ?_ ?_ (by rw [ht]; exact h.waitsOn) ?_ ?_
    · rw [ha.eng]; rfl
    all_goals rw [hz]
    · exact hm
    · exact h0
    · exact hl
    · exact h4
  have hact := acted_ctxLock hs.head i
  have hk : KeepsFlow (bundleOver (engGet z n)) (engGet (acted z n [.ctxLock i]) n) := by
    rw [hact, portServed_engGet, ← engGet_started]
    exact ctxLockNow_flow i
  have hrun := runBundle_then_p hs hc (by simp) (by simp) (a := .ctxLock i) rfl hev hk
  have hfz : flows z n := by rw [hz]; exact hf
  have htr (hoff : trcOn z (cluOf n) = false) : (acted z n [.ctxLock i]).trc = z.trc := by
    rw [hact]
    refine Eq.trans ?_ (ctxLockNow_trc_off (s := engMap z n bundleOver) i hoff)
    unfold portServed
    split <;> rfl
  have hcl : cluOf n < 8 := by unfold cluOf; omega
  have hcnt : CntKept (0x6104 + cluOf n * 0x20) z (acted z n [.ctxLock i]) := by
    rw [hact]
    exact ((CntKept.of_cnt rfl).trans (CntKept.ctxLockNow (by omega) (by omega) (engMap z n bundleOver) n i true)).trans (.portServed _ n)
  refine ⟨_, hrun.trans (unlessHeld_flows hfz htr), ?_, ?_, ?_, ?_⟩
  · rw [engMap, engGet_engSet]
    exact (putP_flow _ _ _).hold.trans (hk.hold.trans rfl)
  · rw [engMap, engGet_engSet]
    exact (putP_flow _ _ _).pc
  · intro hr
    rw [engMap, engGet_engSet]
    exact regP_putP _ hr (by
      have hfo := (sylLegal_parts (decode_single_legal h.bundle)).2
      simp [sylFieldsOk] at hfo
      exact hfo.1) true
  · exact Eq.trans (show _ = cntGet (acted z n [.ctxLock i]) _ from rfl)
      (Eq.trans hcnt ((cntGet_lockStall hn cyc _).trans (if_pos rfl)))

/-- A CTXLOCK whose wait has reached its limit, or been told so, reports 0. -/
theorem lockTimeout_reports (hn : n < 64) (h : Waits s n y .ctxLock nx .lock)
    (hi : i = field (regG (engGet s n) (sylRa y.word)) 16 0) (hm : engMayOpen s n i = true) (h0 : engRecBad s n i 0 = false) :
    ∃ t, lockTimeout s n = .next t ∧ (engGet t n).hold = .none ∧ (engGet t n).pc = BitVec.ofNat 32 nx ∧
      (sylRd y.word ≠ 0 → regP (engGet t n) (sylRd y.word) = false) ∧
      cntGet t (0x6104 + cluOf n * 0x20) = satCount (cntGet s (0x6104 + cluOf n * 0x20)) (lockLeft s n) ∧
      cntGet t (0x6108 + cluOf n * 0x20) = satCount (cntGet s (0x6108 + cluOf n * 0x20)) 1 := by
  let s1 := cntAdd (lockStall s n (lockLeft s n)) (0x6108 + cluOf n * 0x20) 1
  let s2 := engMap s1 n (fun e => { e with told := { e.told with lockOut := true } })
  let z := engMap s2 n (fun e => { e with hold := .none })
  have h0' : Again s (lockStall s n (lockLeft s n)) n := again_lockStall _
  have h1 : Again s s1 n := ⟨h0'.mem, h0'.svc, h0'.eng⟩
  have h2 : Again s s2 n := h1.trans ⟨rfl, rfl, by rw [show engGet s2 n = _ from engGet_engSet s1 n _]⟩
  have ha : Again s z n := h2.trans (again_unheld s2 n)
  have hg : engGet z n = { engGet s2 n with hold := .none } := engGet_unheld s2 n
  have hu : (engGet z n).hold = .none := by rw [hg]
  have ht : (engGet z n).told.lockOut = true := by rw [hg, show engGet s2 n = _ from engGet_engSet s1 n _]
  have hfr : Framed s z := by
    have hs1 : Framed s s1 := by
      have h0 : Framed s (lockStall s n (lockLeft s n)) := by
        rw [lockStall_eq hn]
        exact rfl
      exact h0.trans (Logged.cntAdd _ _ _).frame
    exact (hs1.trans (.engMap s1 n _)).trans (.engMap s2 n _)
  have hev : evOp z n (atNow z n nx) y .ctxLock true = .acts [.p (sylRd y.word) false] := by
    refine evCtx_lockOut (hi.trans ?_) ((hfr.engMayOpen i).trans hm) ((hfr.engRecBad i 0).trans h0) ht
    rw [ha.eng]
    rfl
  have hrun := runBundle_regs (h.sole ha hu) (h.calm ha) (by simp) (by simp) hev rfl
  have hto : lockTimeout s n = runBundle z n := by
    unfold lockTimeout
    dsimp only
    rw [if_pos hn, tellBoth_single (h1.partnerOf.trans h.single), runAgain_single (h2.partnerOf.trans h.single)]
  have hcl : cluOf n < 8 := by unfold cluOf; omega
  refine ⟨_, hto.trans hrun, ?_, ?_, ?_, ?_, ?_⟩
  · rw [engGet_engSet, afterActs_p]
    exact (putP_flow _ _ _).hold
  · rw [engGet_engSet, afterActs_p]
    exact (putP_flow _ _ _).pc
  · intro hr
    rw [engGet_engSet, afterActs_p]
    exact regP_putP _ hr (by
      have hfo := (sylLegal_parts (decode_single_legal h.bundle)).2
      simp [sylFieldsOk] at hfo
      exact hfo.1) false
  · refine Eq.trans (show _ = cntGet s1 _ from rfl) ((cntGet_cntAdd_other _ (by omega) 1).trans ?_)
    exact (cntGet_lockStall hn _ _).trans (if_pos rfl)
  · refine Eq.trans (show _ = cntGet s1 _ from rfl) ((cntGet_cntAdd _ _ 1).trans (congrArg (satCount · 1) ?_))
    exact (cntGet_lockStall hn _ _).trans (if_neg (by omega))

end

/-- The bundle of a CTXLOCK that waits for the holder of its lock. -/
theorem bundleRes_held {s : State} {n : Nat} {y : Syl} {nx : Nat} (h : Waits s n y .ctxLock nx .lock)
    (hl : ∃ k, lockHolder (recLock (engRec s n (field (regG (engGet s n) (sylRa y.word)) 16 0))) = some k ∧ k ≠ lockId s n)
    (h4 : (locksOf s (lockId s n)).length < 4) (hm : engMayOpen s n (field (regG (engGet s n) (sylRa y.word)) 16 0) = true)
    (h0 : engRecBad s n (field (regG (engGet s n) (sylRa y.word)) 16 0) 0 = false) : bundleRes s n = .hold .lock := by
  obtain ⟨k, hk, hne⟩ := hl
  have hev : evOp s n (atNow s n nx) y .ctxLock true = .hold .lock := evCtx_waits (.inl ⟨rfl, h4⟩) rfl hm h0 h.waitsOn hk hne
  rw [bundleRes_lone h.lone (by simp) (by simp), hev]
  rfl

/-- Settles O27: each wait is a hold of the bundle, which is run again, told what ended it, when the wait is over. -/
theorem engineWaitsEnd : Obligations.EngineWaitsEnd := by
  intro s n y nx e rd i lim
  refine ⟨fun h hc => ?wait, fun hh => ?edge, fun h hc v hv => ?met, fun h hc arr j z hz hb => ?entry, fun op ho h hm h0 hno hl => ?hold,
    fun hn hf h hm h0 hl h4 hp cyc hcyc => ?takes, fun hn h hm h0 hl h4 => ⟨fun cyc hcyc => ?stays, ?out⟩⟩
  case wait =>
    refine (exec_alone h.toAlone).trans ((runBundle_holds h.sole h.noRep (by simp) (by simp)
      (w := .tick) (evTickWait_waits hc (by rw [h.untold])) (by simp) (by simp)).trans ?_)
    rw [holdSet_fresh h.unheld (by simp)]
  case edge =>
    have hw := (Logged.wakeEng (engMap (if decide (n < 64) && (e.pstate == .nap || e.pstate == .napEntry || e.pstate == .wakeNap)
      then cntAdd s (0x8080C + n * 0x10) 1 else s) n
      (fun v => { v with hold := .tickMet, told := { v.told with tick := some (tickReport s n) } })) n).woken n
    unfold edgeSeen
    simp only [show (engGet s n).hold = .tick from hh, if_true]
    rw [hw.alike, engMap, engGet_engSet]
    exact ⟨rfl, rfl⟩
  case met =>
    have ha := again_unheld s n
    have hu : (engGet (engMap s n (fun e => { e with hold := .none })) n).hold = .none := by rw [engGet_unheld]
    have hev : evTickWait (engMap s n (fun e => { e with hold := .none })) n y = .acts [.g rd v] :=
      evTickWait_told (by rw [engGet_unheld]; exact hc) (by rw [engGet_unheld]; exact hv)
    have hrun := runBundle_regs (h.sole ha hu) (h.calm ha) (by simp) (by simp) (by simpa only [evOp] using hev) rfl
    have hex : exec (.tickwaitEdge n) s = runAgain s n := by
      change execTickwaitEdge n s = _
      rw [execTickwaitEdge, h.ready]
      rfl
    rw [hex, runAgain_single h.single, hrun, engGet_unheld, afterActs_g, engMap, engSet_engSet]
    rfl
  case entry =>
    have ha := again_unheld s n
    have hu : (engGet (engMap s n (fun e => { e with hold := .none })) n).hold = .none := by rw [engGet_unheld]
    have hex : exec (.dispatchEntryReady n) s = runAgain s n := by
      change execDispatchEntryReady n s = _
      rw [execDispatchEntryReady, h.ready, hz]
      rfl
    obtain ⟨z', hz', -, -, -, -⟩ := (Framed.engMap s n (fun e => { e with hold := .none })).nextEntry (by rw [engGet_unheld])
      (by rw [engGet_unheld]) (by rw [engGet_unheld]) hz
    obtain ⟨t, ht, hh, hpc, hrd, hrd1, -, -⟩ := runBundle_dispatch (h.sole ha hu) (h.calm ha) (by rw [engGet_unheld]; exact hc) hz' hb
    exact ⟨t, by rw [hex, runAgain_single h.single, ht], hh, hpc, hrd, hrd1⟩
  case hold =>
    obtain ⟨l, hl, hne⟩ := hl
    have hev : evOp s n (atNow s n nx) y op true = .hold .lock := by
      have hc := evCtx_waits ho rfl hm h0 h.notLockedOut hl hne
      obtain ⟨rfl, -⟩ | ⟨rfl, -⟩ := ho <;> exact hc
    have h1 : op ≠ .rep ∧ op ≠ .repi := by obtain ⟨rfl, -⟩ | ⟨rfl, -⟩ := ho <;> simp
    rw [exec_alone h.toAlone, runBundle_holds h.sole h.noRep h1.1 h1.2 hev (by simp) (fun _ => hno), holdSet_fresh h.unheld (by simp)]
  case takes =>
    obtain ⟨t, ht, hh, hpc, hrd, hcnt⟩ := lockWaitEnd_takes hn hf h rfl hm h0 hl h4 cyc
    rw [show 0x6104 + cluOf n * 0x20 = lim + 4 by simp only [lim]; omega] at hcnt
    refine ⟨t, ?_, hh, hpc, hrd, hcnt⟩
    have ha : Again s (lockStall s n cyc) n := again_lockStall cyc
    change execLockWaitEnd n cyc s = _
    rw [execLockWaitEnd, h.ready, if_pos rfl, if_neg (by simp [hn]; omega), portNext_waits hp, hp]
    simp only [beq_self_eq_true, Bool.or_true, Bool.and_true, if_true]
    rw [runAgain_single (ha.partnerOf.trans h.single)]
    exact ht
  case stays =>
    have hnot : lockWaits s n = false := by
      rw [lockWaits, bundleRes_held h hl h4 hm h0]
      simp
    change execLockWaitEnd n cyc s = _
    rw [execLockWaitEnd, h.ready, if_pos rfl, if_neg (by simp [hn]; omega), hnot]
    rfl
  case out =>
    obtain ⟨t, ht, hh, hpc, hrd, h4c, h8c⟩ := lockTimeout_reports hn h rfl hm h0
    rw [show 0x6104 + cluOf n * 0x20 = lim + 4 by simp only [lim]; omega] at h4c
    rw [show 0x6108 + cluOf n * 0x20 = lim + 8 by simp only [lim]; omega] at h8c
    refine ⟨t, ?_, fun cyc hcyc => ?_, hh, hpc, hrd, h4c, h8c⟩
    · change execLockWaitTimeout n s = _
      rw [execLockWaitTimeout, h.ready, bundleRes_held h hl h4 hm h0]
      exact ht
    · change execLockWaitEnd n cyc s = _
      rw [execLockWaitEnd, h.ready, if_pos rfl, if_pos (by simp [hn, hcyc])]
      exact ht

end Sys2Proof.Machine
end

section

namespace Sys2Proof.Machine

/-! Exception entry (R241, R242). -/

/-- `f` is `e` but for its suspicion of a tile. -/
def Suspects (e f : Engine) : Prop := f = { e with suspadr := f.suspadr }

theorem Suspects.refl (e : Engine) : Suspects e e := rfl
theorem Suspects.trans {e f g : Engine} (h : Suspects e f) (k : Suspects f g) : Suspects e g := by
  unfold Suspects at *
  rw [k, h]

section

variable {s : State} {n : Nat}

theorem engCount_engGet (k b c m : Nat) : engGet (engCount s k b c) m = engGet s m := by
  unfold engCount
  split <;> rfl

theorem suspectTile_suspects (k : Nat) : Suspects (engGet s n) (engGet (suspectTile s n k) n) := by
  unfold suspectTile
  split
  · rw [engMap, engGet_engSet, engCount_engGet]
    rfl
  · exact .refl _

theorem forNats_suspects {f : State → Nat → State} (hf : ∀ z k, Suspects (engGet z n) (engGet (f z k) n)) (l : List Nat) (s : State) :
    Suspects (engGet s n) (engGet (forNats l f s) n) := by
  unfold forNats
  induction l generalizing s with
  | nil => exact .refl _
  | cons a l ih => exact (hf s a).trans (ih _)

theorem aheadNote_suspects (a : Nat) : Suspects (engGet s n) (engGet (aheadNote s n a) n) := by
  unfold aheadNote
  split
  · exact .refl _
  · refine forNats_suspects (fun z t => ?_) _ _
    split
    · exact suspectTile_suspects t
    · exact .refl _

theorem fetchLeft_suspects (b : Bool) : Suspects (engGet s n) (engGet (fetchLeft s n b) n) := by
  have h (c : Prop) [Decidable c] (a : Nat) : Suspects (engGet s n) (engGet (if c then aheadNote s n a else s) n) := by
    split
    · exact aheadNote_suspects a
    · exact .refl _
  exact h _ _

theorem trcEngMark_engGet (k typ bit sub : Nat) (w1 w2 w3 : Word) (m : Nat) :
    engGet (trcEngMark s k typ bit sub w1 w2 w3) m = engGet s m := by
  unfold trcEngMark
  split
  · rw [engGet, engGet, trcPut_eng]
  · rfl

/-- An entry leaves the registers of R241 in the engine. -/
theorem excEnter_engGet (t c ol oc : Nat) (adr : Word) (f : ExcFrame) : ∃ e, Suspects (engGet s n) e ∧
    Woken (excRegs e t c ol oc adr f) (engGet (excEnter s n t c ol oc adr f) n) := by
  refine ⟨_, fetchLeft_suspects (!(ol == 1 || (ol == 2 && (oc == 16 || oc == 17)))), ?_⟩
  unfold excEnter
  extract_lets between s1 s2 s3 s4
  have h1 : engGet s1 n = excRegs (engGet (fetchLeft s n (!between)) n) t c ol oc adr f := engGet_engSet _ n _
  have h2 : engGet s2 n = engGet s1 n := engCount_engGet n _ 1 n
  have h3 : engGet s3 n = engGet s2 n := by
    simp only [s3]
    split
    · exact engCount_engGet n _ 1 n
    · rfl
  have h4 : Logged s3 s4 := .ite (.fltWrite _ _ _ _ _) (.refl _)
  rw [trcEngMark_engGet, ← h1, ← h2, ← h3]
  exact h4.woken n

end

/-- What of an entry at level 2 the statements speak of. -/
structure Entered (e f : Engine) (t c ol oc : Nat) (adr : Word) (fr : ExcFrame) : Prop where
  level : f.level = t
  save : saveGet f t = { xpc := fr.xpc, xst := xstWord e fr, xlc := fr.xlc, xcau := xcauWord ol oc c, xadr := adr, xpcc := e.pcc,
                         bank := (saveGet f t).bank }
  ring : f.ring = 0
  compat : f.compat = e.startCompat
  pcc : f.pcc = e.startPcc
  pc : f.pc = e.vbase + BitVec.ofNat 32 (t * 0x400 + c * 0x20)
  xfer : f.xfer = none
  rep : f.rep = none
  hold : f.hold = .none
  swap : f.swapPend = e.swapPend
  dbg : f.dbg = e.dbg
  run : f.run = e.run
  g : f.g = e.g
  p : f.p = e.p
  c : f.c = e.c
  lc : f.lc = e.lc
  dmem : f.dmem = e.dmem

theorem excRegs_entered {e d f : Engine} {t : Nat} (ht : t = 1 ∨ t = 2 ∨ t = 3) (c ol oc : Nat) (adr : Word) (fr : ExcFrame)
    (hd : Suspects e d) (hw : Woken (excRegs d t c ol oc adr fr) f) : Entered e f t c ol oc adr fr := by
  rw [hw.alike, hd]
  obtain rfl | rfl | rfl := ht <;> exact ⟨rfl, rfl, rfl, rfl, rfl, rfl, rfl, rfl, rfl, rfl, rfl, rfl, rfl, rfl, rfl, rfl, rfl⟩

theorem excEnter_entered {s : State} {n t : Nat} (ht : t = 1 ∨ t = 2 ∨ t = 3) (c ol oc : Nat) (adr : Word) (fr : ExcFrame) :
    Entered (engGet s n) (engGet (excEnter s n t c ol oc adr fr) n) t c ol oc adr fr := by
  obtain ⟨d, hd, hw⟩ := excEnter_engGet (s := s) (n := n) t c ol oc adr fr
  exact excRegs_entered ht c ol oc adr fr hd hw

/-- A fault of level 2 taken at level 0. -/
theorem takeTrap_level0 {s : State} {n : Nat} (hl : (engGet s n).level = 0) {tr : Trap} (hc : causeLevel tr.cause = 2) (fr : ExcFrame) :
    takeTrap s n tr fr = excEnter s n 2 (causeCode tr.cause) 2 (causeCode tr.cause) tr.adr fr := by
  simp [takeTrap, hl, hc]

/-- A fault of level 3 taken below level 3. -/
theorem takeTrap_level3 {s : State} {n : Nat} (hl : (engGet s n).level < 3) {tr : Trap} (hc : causeLevel tr.cause = 3) (fr : ExcFrame) :
    takeTrap s n tr fr = excEnter s n 3 (causeCode tr.cause) 3 (causeCode tr.cause) tr.adr fr := by
  simp [takeTrap, Nat.not_le.mpr hl, hc]

/-! Faults taken in place (R161, R242). -/

section

variable {s : State} {n : Nat}

theorem trapTile_other {tr : Trap} (h1 : tr.cause ≠ .tileData) (h2 : tr.cause ≠ .tileFetch) : trapTile s n tr = s := by
  unfold trapTile
  split
  next h => exact absurd h h2
  next h => exact absurd h h1
  next => rfl

/-- The state of an engine outside a step and a bank swap that has entered a level. -/
theorem trapOne_enters {tr : Trap} {fr : ExcFrame} {t c ol oc : Nat} {adr : Word} (ht : t = 1 ∨ t = 2 ∨ t = 3)
    (h1 : tr.cause ≠ .tileData) (h2 : tr.cause ≠ .tileFetch) (hrun : (engGet s n).run ≠ .mcheck) (hswap : (engGet s n).swapPend = false)
    (hstep : (engGet s n).dbg.stepping = false)
    (htake : takeTrap { s with free := s.free + 1 } n tr fr = excEnter { s with free := s.free + 1 } n t c ol oc adr fr) :
    trapOne s n tr fr = excEnter { s with free := s.free + 1 } n t c ol oc adr fr ∧
      Entered (engGet s n) (engGet (trapOne s n tr fr) n) t c ol oc adr fr := by
  have he : Entered (engGet s n) (engGet (excEnter { s with free := s.free + 1 } n t c ol oc adr fr) n) t c ol oc adr fr :=
    excEnter_entered (s := { s with free := s.free + 1 }) ht c ol oc adr fr
  have key : trapOne s n tr fr = excEnter { s with free := s.free + 1 } n t c ol oc adr fr := by
    unfold trapOne trapMet
    rw [trapTile_other h1 h2]
    dsimp only
    rw [if_neg (fun q => q.2.elim h1 h2), if_neg (show (engGet { s with free := s.free + 1 } n).run ≠ .mcheck from hrun), htake, stepEnd_plain _ _ ((congrArg DbgState.stepping he.dbg).trans hstep),
      afterRoutine_plain _ _ (he.swap.trans hswap)]
  exact ⟨key, key ▸ he⟩

theorem running_of_ready {ok : Hold → Bool} (h : engReady s n ok = true) : (engGet s n).run = .running := by
  unfold engReady engRuns at h
  simp only [Bool.and_eq_true, beq_iff_eq] at h
  exact h.1.1.2.1.1.1.1.2

theorem faultFrame_plain (hx : (engGet s n).xfer = none) (hr : (engGet s n).rep = none) :
    (faultFrame s n).xpc = (engGet s n).pc ∧ (faultFrame s n).xlc = (engGet s n).lc := by
  simp [faultFrame, frameOf, hx, hr]

/-- A bundle that comes to a fault runs to the entry of its exception. -/
theorem runBundle_traps {tr : Trap} {t : State} (hu : (engGet s n).hold = .none) (hh : isHead s n = true) (hp : partnerOf s n = none)
    (hb : bundleRes s n = .trap tr) (ht : trapOne s n tr (faultFrame s n) = t) (hl : (engGet t n).hold = .none)
    (hr : (engGet t n).rep = none) : runBundle s n = unlessHeld s n t :=
  runBundle_unlessHeld hu (pairOf_single hh hp) hp (by rw [hb]; exact congrArg _ ht) (by rw [hl]; nofun) (by rw [inRepBody, hr])

end

/-- Settles O31: the fault's entry is the whole effect of its bundle. -/
theorem faultsAreTakenInPlace : Obligations.FaultsAreTakenInPlace := by
  intro op s n tr e hn hready hhold hsingle hhas hx hr hswap hstep hlevel hres hd hf hc
  have hrun := running_of_ready hready
  obtain ⟨hpc, hlc⟩ := faultFrame_plain hx hr
  obtain ⟨-, he⟩ := trapOne_enters (fr := faultFrame s n) (.inr (.inl rfl)) hd hf (by rw [hrun]; nofun) hswap hstep
    (takeTrap_level0 (s := { s with free := s.free + 1 }) hlevel hc _)
  have hsave := he.save
  have hex : exec (commandOf op n) s = runBundle s n := by
    rw [exec_commandOf]
    simp [issueOp, hready, hhas]
  refine ⟨_, hex.trans (runBundle_traps hhold (isHead_of_ready hready) hsingle hres rfl he.hold he.rep), he.level, he.g, he.p, he.c, he.lc,
    ?_, ?_, ?_, ?_, he.pcc, he.dmem, he.pc⟩
  all_goals rw [show (engGet (trapOne s n tr (faultFrame s n)) n).save2 = _ from hsave]
  · exact hpc
  · rfl

end Sys2Proof.Machine
end

section

namespace Sys2Proof.Machine

/-! SYSC, BRK, event entry and ERET (R232, R240, R246). -/

section

variable {s : State} {n : Nat} {y : Syl} {op : Op} {nx : Nat}

theorem engGet_goOn_started : engGet (goOn (engMap s n bundleOver) n nx) n = retired (engGet s n) nx := by
  rw [goOn, engMap, engGet_engSet, engMap, engGet_engSet]
  rfl

/-- The retirement of a bundle that neither returns nor closes a context. -/
theorem retireOne_open {acts : List Act} (he : acts.any (fun a => a == .eret) = false) (hc : acts.any actCloses = false) (c : Bool) :
    retireOne s n 0 acts nx c =
      afterRoutine (stepEnd (afterRetire (pcAdvance (acted s n acts) n (pcAt (engGet s n).pc) nx acts c) n acts) n) n := by
  have key : retireOne s n 0 acts nx c =
      let s1 := (acts.filter (fun a => !actCloses a) ++ acts.filter actCloses).foldl (applyAct n 0 (engGet s n).window) (engMap s n bundleOver)
      if acts.any (fun a => a == .eret) then stepEnd (eretTake s1 n) n
      else afterClose (afterRoutine (stepEnd (afterRetire (pcAdvance s1 n (pcAt (engGet s n).pc) nx acts c) n acts) n) n) n acts := rfl
  rw [key]
  dsimp only
  rw [noClose_order hc, he, afterClose_plain _ _ _ hc]
  rfl

/-- The frame of an exception that a bundle raises as it retires. -/
def nextFrame (e : Engine) (nx : Nat) : ExcFrame := { xpc := BitVec.ofNat 32 nx, xlc := e.lc }

/-- A bundle alone whose one act raises an exception of level 2, at level 0. -/
theorem exec_raises (h : Runs s n y op nx) (h1 : op ≠ .rep) (h2 : op ≠ .repi) {tr : Trap}
    (he : evOp s n (atNow s n nx) y op true = .acts [.trap tr]) (hl : (engGet s n).level = 0) (hc : causeLevel tr.cause = 2) :
    ∃ t, exec (commandOf op n) s = unlessHeld s n t ∧
      Entered (retired (engGet s n) nx) (engGet t n) 2 (causeCode tr.cause) 2 (causeCode tr.cause) tr.adr (nextFrame (engGet s n) nx) := by
  let z := goOn (engMap s n bundleOver) n nx
  have hz : engGet z n = retired (engGet s n) nx := engGet_goOn_started
  let t := excEnter z n 2 (causeCode tr.cause) 2 (causeCode tr.cause) tr.adr (nextFrame (engGet s n) nx)
  have ht : Entered (engGet z n) (engGet t n) 2 _ 2 _ tr.adr (nextFrame (engGet s n) nx) := excEnter_entered (.inr (.inl rfl)) _ _ _ _ _
  have hst : (engGet t n).dbg.stepping = false := (congrArg DbgState.stepping ht.dbg).trans (by rw [hz]; exact h.noStep)
  have hsw : (engGet t n).swapPend = false := ht.swap.trans (by rw [hz]; exact h.noSwap)
  have hret (c : Bool) : retireOne s n 0 [.trap tr] nx c = t := by
    have hx : (engGet (engMap s n bundleOver) n).xfer = none := by rw [engGet_started]; exact h.noSlot
    have hr : (engGet (engMap s n bundleOver) n).rep = none := by rw [engGet_started]; exact h.noRep
    have hafter : afterRetire z n [.trap tr] = t := by
      have hf : takeTrap z n tr { xpc := (engGet z n).pc, xlc := (engGet z n).lc } = t := by
        rw [takeTrap_level0 (by rw [hz]; exact hl) hc, hz]
        rfl
      exact hf
    rw [retireOne_open rfl rfl, show acted s n [.trap tr] = engMap s n bundleOver from rfl, pcAdvance_plain _ n _ nx _ c hx hr rfl,
      show engMap _ n _ = z from rfl, hafter, stepEnd_plain _ _ hst, afterRoutine_plain _ _ hsw]
  refine ⟨t, ?_, hz ▸ ht⟩
  rw [exec_alone h.toAlone]
  exact runBundle_retire h.sole h1 h2 he (hret _) (by rw [ht.hold]; nofun) (by rw [inRepBody, ht.rep])

/-- A BRK that asks for a halt. -/
theorem exec_asks_halt (h : Runs s n y op nx) (h1 : op ≠ .rep) (h2 : op ≠ .repi)
    (he : evOp s n (atNow s n nx) y op true = .acts [.haltReq]) :
    ∃ t, exec (commandOf op n) s = .next t ∧ (engGet t n).dbg.pending = true ∧ (engGet t n).dbg.cause = 3 ∧
      (engGet t n).pc = BitVec.ofNat 32 nx := by
  let z := goOn (engMap s n bundleOver) n nx
  have hz : engGet z n = retired (engGet s n) nx := engGet_goOn_started
  let t := engMap z n (fun e => { e with dbg := { e.dbg with pending := true, cause := 3, since := ktb z } })
  have ht : engGet t n = { retired (engGet s n) nx with
      dbg := { (retired (engGet s n) nx).dbg with pending := true, cause := 3, since := ktb z } } := by
    rw [show t = engMap z n _ from rfl, engMap, engGet_engSet, hz]
  have hret (c : Bool) : retireOne s n 0 [.haltReq] nx c = t := by
    have hx : (engGet (engMap s n bundleOver) n).xfer = none := by rw [engGet_started]; exact h.noSlot
    have hr : (engGet (engMap s n bundleOver) n).rep = none := by rw [engGet_started]; exact h.noRep
    rw [retireOne_open rfl rfl, show acted s n [.haltReq] = engMap s n bundleOver from rfl, pcAdvance_plain _ n _ nx _ c hx hr rfl,
      show engMap _ n _ = z from rfl, show afterRetire z n [.haltReq] = t from rfl, stepEnd_plain _ _ (by rw [ht]; exact h.noStep),
      afterRoutine_plain _ _ (by rw [ht]; exact h.noSwap)]
  refine ⟨t, ?_, by rw [ht], by rw [ht], by rw [ht]; rfl⟩
  rw [exec_alone h.toAlone, runBundle_retire h.sole h1 h2 he (hret _) (by rw [ht]; exact nofun)
    (by rw [inRepBody, show (engGet t n).rep = none by rw [ht]; exact h.noRep])]
  exact unlessHeld_of_trc n rfl

/-! ERET. -/

theorem pstate_of_ready {ok : Hold → Bool} (h : engReady s n ok = true) : (engGet s n).pstate = .run := by
  unfold engReady engRuns at h
  simp only [Bool.and_eq_true, beq_iff_eq] at h
  exact h.1.1.2.1.1.2

/-- What a bank swap, its completion and a woken source leave of an engine. -/
def Swapped (e f : Engine) : Prop :=
  f = { e with ubank := f.ubank, swapPend := f.swapPend, inact := f.inact, heldBank := f.heldBank, pstate := f.pstate, wakeReq := f.wakeReq }

theorem Swapped.refl (e : Engine) : Swapped e e := rfl

theorem Swapped.trans {e f g : Engine} (h : Swapped e f) (k : Swapped f g) : Swapped e g := by
  unfold Swapped at *
  rw [k, h]

theorem Woken.swapped {e f : Engine} (h : Woken e f) : Swapped e f := by
  unfold Swapped
  rw [h.alike]

theorem Logged.hmbComplete (s : State) (tag status : Nat) : Logged s (hmbComplete s tag status) := by
  unfold Machine.hmbComplete
  refine .ite (.refl s) (Logged.trans ?_ (.pulse _ 307))
  exact Logged.trans (.ite (.cntAdd s _ _) (.refl s)) (.of_frame rfl)

theorem completeAll_woken (l : List SvcPend) (z : State) :
    Woken (engGet z n) (engGet (l.foldl (fun z p => hmbComplete z p.tag 0) z) n) := by
  induction l generalizing z with
  | nil => exact .refl _
  | cons p l ih => exact ((Logged.hmbComplete z p.tag 0).woken n).trans (ih _)

theorem swapSettle_woken : Woken (engGet s n) (engGet (swapSettle s) n) := by
  unfold swapSettle
  dsimp only
  refine Woken.trans ?_ (completeAll_woken _ _)
  exact .refl _

theorem forNats_swapped {f : State → Nat → State} (hf : ∀ z k, Swapped (engGet z n) (engGet (f z k) n)) (l : List Nat) (s : State) :
    Swapped (engGet s n) (engGet (forNats l f s) n) := by
  unfold forNats
  induction l generalizing s with
  | nil => exact .refl _
  | cons a l ih => exact (hf s a).trans (ih _)

theorem swapOne_swapped (m : Nat) : Swapped (engGet s n) (engGet (swapOne s m) n) := by
  unfold swapOne
  by_cases hm : n = m
  · subst hm
    rw [engMap, engGet_engSet, engCount_engGet]
    rfl
  · rw [engMap, engGet_engSet_other _ hm, engCount_engGet]
    exact .refl _

theorem swapTry_swapped (m : Nat) : Swapped (engGet s n) (engGet (swapTry s m) n) := by
  unfold swapTry
  split
  · exact forNats_swapped (fun z k => forNats_swapped (fun y _ => swapOne_swapped k) _ z) _ s
  · exact .refl _

theorem swapTry_quiet (h : (engGet s n).swapPend = false) : swapTry s n = s := by simp [swapTry, swapDue, h]

/-- What ERET puts back. -/
structure Returned (e f : Engine) (v : Save) : Prop where
  pc : f.pc = v.xpc
  pcc : f.pcc = v.xpcc
  lc : f.lc = v.xlc
  level : f.level = field v.xst 17 16
  compat : f.compat = bitAt v.xst 31
  hold : f.hold = .none
  rep : f.rep = none
  swap : f.swapPend = e.swapPend
  dbg : f.dbg = e.dbg
  run : f.run = e.run
  pstate : f.pstate = e.pstate

theorem ringSet_returned {e f : Engine} {v : Save} (h : Returned e f v) (r : Nat) : Returned e (ringSet f r) v := by
  obtain ⟨h1, h2, h3, h4, h5, h6, h7, h8, h9, h10, h11⟩ := h
  unfold ringSet ringClear
  dsimp only
  split <;> exact ⟨h1, h2, h3, h4, h5, h6, h7, h8, h9, h10, h11⟩

theorem eretRegs_returned (e : Engine) (t : Nat) : Returned e (eretRegs e t) (saveGet e t) := by
  unfold eretRegs saveSet
  refine ringSet_returned ?_ _
  match t with
  | 0 => exact ⟨rfl, rfl, rfl, rfl, rfl, rfl, rfl, rfl, rfl, rfl, rfl⟩
  | 1 => exact ⟨rfl, rfl, rfl, rfl, rfl, rfl, rfl, rfl, rfl, rfl, rfl⟩
  | 2 => exact ⟨rfl, rfl, rfl, rfl, rfl, rfl, rfl, rfl, rfl, rfl, rfl⟩
  | k + 3 => exact ⟨rfl, rfl, rfl, rfl, rfl, rfl, rfl, rfl, rfl, rfl, rfl⟩

theorem Logged.srcComplete (s : State) (x : Nat) (forced : Bool) : Logged s (srcComplete s x forced) := by
  unfold Machine.srcComplete
  dsimp only
  have h0 : Logged s (if forced = true then Machine.cntAdd (Machine.srcSet s x { srcGet s x with insvc := none }) 0x20020 1
      else Machine.srcSet s x { srcGet s x with insvc := none }) := .ite (.of_frame rfl) (.of_frame rfl)
  exact .ite (.ite (h0.trans (.srcSample _ x _)) h0) (.refl s)

theorem Logged.tgtComplete (s : State) (t : Nat) : Logged s (tgtComplete s t) := .forNats (fun z x => .srcComplete z x false) _ s

/-- The return of a running engine that waits for no bank swap, from a level with no micro-trap. -/
theorem eretTake_returned (hb : bitAt (saveGet (engGet s n) (engGet s n).level).xst 28 = false) (hs : (engGet s n).swapPend = false)
    (hp : (engGet s n).pstate = .run) :
    Returned (engGet s n) (engGet (eretTake s n) n) (saveGet (engGet s n) (engGet s n).level) := by
  let e := engGet s n
  let v := saveGet e e.level
  let s1 := engMap (fetchLeft s n true) n (fun e => eretRegs e e.level)
  obtain hf : engGet (fetchLeft s n true) n = { e with suspadr := (engGet (fetchLeft s n true) n).suspadr } := fetchLeft_suspects true
  have h1 : Returned e (engGet s1 n) v := by
    have hr := eretRegs_returned (engGet (fetchLeft s n true) n) (engGet (fetchLeft s n true) n).level
    rw [hf] at hr
    rw [show engGet s1 n = _ from engGet_engSet _ n _, hf]
    exact ⟨hr.pc, hr.pcc, hr.lc, hr.level, hr.compat, hr.hold, hr.rep, hr.swap, hr.dbg, hr.run, hr.pstate⟩
  let s2 := if n < 64 ∧ e.level = 1 ∧ (engGet s1 n).level = 0 then tgtComplete s1 n else s1
  have h2 : engGet s2 n = engGet s1 n := ((Logged.ite (.tgtComplete s1 n) (.refl s1)).woken n).awake (h1.pstate.trans hp)
  have hq : swapTry s2 n = s2 := swapTry_quiet (by rw [h2, h1.swap]; exact hs)
  have h3 : eretTake s n = swapSettle s2 := by
    unfold eretTake
    dsimp only
    rw [hb]
    simp only [Bool.false_and, Bool.false_eq_true, if_false]
    exact congrArg swapSettle hq
  rw [h3, swapSettle_woken.awake (by rw [h2, h1.pstate]; exact hp), h2]
  exact h1

theorem saveGet_started (e : Engine) (t : Nat) : saveGet (bundleOver e) t = saveGet e t := by
  unfold saveGet
  split <;> rfl

/-- An ERET alone at a privileged level, from a level with no micro-trap. -/
theorem exec_returns (h : Runs s n y .eret nx) (h1 : 1 ≤ (engGet s n).level)
    (hp : privOk (engGet s n).compat (engGet s n).ring (engGet s n).pcc = true)
    (hb : bitAt (saveGet (engGet s n) (engGet s n).level).xst 28 = false) :
    ∃ t, exec (.eret n false) s = unlessHeld s n t ∧
      Returned (bundleOver (engGet s n)) (engGet t n) (saveGet (engGet s n) (engGet s n).level) := by
  have hst : engGet (engMap s n bundleOver) n = bundleOver (engGet s n) := engGet_started
  have hev : evOp s n (atNow s n nx) y .eret true = .acts [.eret] := by
    simp [evOp, evSys, Nat.ne_of_gt h1, hp, hb]
  have hsv : saveGet (bundleOver (engGet s n)) (bundleOver (engGet s n)).level = saveGet (engGet s n) (engGet s n).level := by
    exact saveGet_started _ _
  have hr := eretTake_returned (s := engMap s n bundleOver) (n := n) (by rw [hst, hsv]; exact hb) (by rw [hst]; exact h.noSwap)
    (by rw [hst]; exact pstate_of_ready h.ready)
  rw [hst, hsv] at hr
  have hret (c : Bool) : retireOne s n 0 [.eret] nx c = eretTake (engMap s n bundleOver) n := by
    have key (acts : List Act) (he : acts.any (fun a => a == .eret) = true) (hc : acts.any actCloses = false) :
        retireOne s n 0 acts nx c = stepEnd (eretTake (acted s n acts) n) n := by
      have hk : retireOne s n 0 acts nx c =
        let s1 := (acts.filter (fun a => !actCloses a) ++ acts.filter actCloses).foldl (applyAct n 0 (engGet s n).window) (engMap s n bundleOver)
        if acts.any (fun a => a == .eret) then stepEnd (eretTake s1 n) n
        else afterClose (afterRoutine (stepEnd (afterRetire (pcAdvance s1 n (pcAt (engGet s n).pc) nx acts c) n acts) n) n) n acts := rfl
      rw [hk]
      dsimp only
      rw [noClose_order hc, he]
      rfl
    rw [key _ rfl rfl, show acted s n [.eret] = engMap s n bundleOver from rfl,
      stepEnd_plain _ _ ((congrArg DbgState.stepping hr.dbg).trans h.noStep)]
  refine ⟨_, ?_, hr⟩
  rw [show Instr.eret n false = commandOf .eret n from rfl, exec_alone h.toAlone]
  exact runBundle_retire h.sole (by simp) (by simp) hev (hret _) (by rw [hr.hold]; nofun) (by rw [inRepBody, hr.rep])

/-! Event entry. -/

theorem srcDeliver_logged (x k : Nat) : Logged s (srcDeliver s x k) := by
  have hserve (z : State) : Logged z (srcServe z x k) := .of_frame rfl
  have hreach (z : State) (g : Nat) : Logged z (holdExpire z g) := by
    unfold holdExpire holdReach
    exact .ite (.ite (.of_frame rfl) (.of_frame rfl)) (.refl z)
  have hbegin (z : State) (g : Nat) : Logged z (holdBegin z g) := by
    refine .foldl (fun z q => ?_) _ z
    split
    · exact .refl z
    · exact .ite (.srcWithdraw z _) (.refl z)
  unfold srcDeliver
  dsimp only
  split
  · exact hserve s
  · next g _ =>
    refine Logged.trans ?_ (hbegin _ g)
    exact Logged.trans ((hreach s g).trans (hserve _)) (.ite (.of_frame rfl) (.of_frame rfl))

theorem hubWithdraw_logged : Logged s (hubWithdraw s) := by
  refine .foldl (fun z q => ?_) _ s
  split
  · exact .refl z
  · exact .ite (.refl z) (.srcWithdraw z _)

/-- The entry of an event between bundles of an engine that runs alone. -/
theorem eventTake_enters {x : Nat} (hx : tgtOffer s n = some x) (hn : n < 64) (hp : isPaired s = false) (hm : (engGet s n).hold ≠ .micro)
    (hr : (engGet s n).run = .running) (hs : (engGet s n).pstate = .run) (hslot : (engGet s n).xfer = none)
    (hrep : (engGet s n).rep = none) :
    ∃ f, Entered (engGet s n) f 1 (srcPrio s x) 1 (srcPrio s x) (BitVec.ofNat 32 x) { xpc := (engGet s n).pc, xlc := (engGet s n).lc } ∧
      Swapped f (engGet (eventTake s n) n) := by
  let s1 := srcDeliver s x n
  have h1 : Logged s s1 := srcDeliver_logged x n
  have he : engGet s1 n = engGet s n := (h1.woken n).awake hs
  have hpair : pairOf s1 n = [n] := by
    have h5 : n ≠ 65 := by omega
    unfold pairOf isPaired
    rw [h1.frame.svc]
    simp [show (s.svc.profile == 1) = false from hp, h5]
  have hf : eventFrame s1 n = { xpc := (engGet s n).pc, xlc := (engGet s n).lc } := by
    unfold eventFrame frameOf
    dsimp only
    rw [he, if_neg hm, hslot, hrep]
  let s2 := excEnter s1 n 1 (srcPrio s x) 1 (srcPrio s x) (BitVec.ofNat 32 x) { xpc := (engGet s n).pc, xlc := (engGet s n).lc }
  have hk : eventTake s n = hubWithdraw (swapSettle (swapTry s2 n)) := by
    unfold eventTake
    rw [hx]
    dsimp only
    rw [hpair]
    simp only [forNats, List.foldl_cons, List.foldl_nil]
    rw [show eventFrame (srcDeliver s x n) n = _ from hf]
    rfl
  have hent : Entered (engGet s1 n) (engGet s2 n) 1 (srcPrio s x) 1 (srcPrio s x) (BitVec.ofNat 32 x)
    { xpc := (engGet s n).pc, xlc := (engGet s n).lc } := excEnter_entered (.inl rfl) _ _ _ _ _
  rw [he] at hent
  refine ⟨engGet s2 n, hent, ?_⟩
  rw [hk]
  exact ((swapTry_swapped n).trans swapSettle_woken.swapped).trans (hubWithdraw_logged.woken n).swapped

/-- An entry leaves no trace record where the trace unit is off. -/
theorem fetchLeft_framed (b : Bool) : Framed s (fetchLeft s n b) := by
  have hs (z : State) (k : Nat) : Framed z (suspectTile z n k) := by
    unfold suspectTile engCount
    split
    · split <;> rfl
    · rfl
  have hfold (f : State → Nat → State) (hf : ∀ z k, Framed z (f z k)) (l : List Nat) (z : State) : Framed z (forNats l f z) := by
    unfold forNats
    induction l generalizing z with
    | nil => exact .refl z
    | cons a l ih => exact (hf z a).trans (ih _)
  have hahead (a : Nat) : Framed s (aheadNote s n a) := by
    unfold aheadNote
    split
    · exact .refl s
    · refine hfold _ (fun z t => ?_) _ s
      split
      · exact hs z t
      · exact .refl z
  have hite (c : Prop) [Decidable c] (a : Nat) : Framed s (if c then aheadNote s n a else s) := by
    split
    · exact hahead a
    · exact .refl s
  exact hite _ _

theorem excEnter_trc_off {t c ol oc : Nat} {adr : Word} {f : ExcFrame} (hoff : trcOn s (cluOf n) = false) :
    (excEnter s n t c ol oc adr f).trc = s.trc := by
  unfold excEnter
  extract_lets between s1 s2 s3 s4
  have h1 : Framed s s1 := (fetchLeft_framed (!between)).trans (.engMap _ n _)
  have hc (z : State) (b k : Nat) : Framed z (engCount z n b k) := by
    unfold engCount
    split <;> rfl
  have h3 : Framed s s3 := by
    simp only [s3]
    split
    · exact (h1.trans (hc s1 _ 1)).trans (hc s2 _ 1)
    · exact h1.trans (hc s1 _ 1)
  have h4 : Framed s s4 := h3.trans (Logged.ite (.fltWrite s3 6 _ _ _) (.refl s3)).frame
  have hm : trcMark s4 (cluOf n) 9 = false := by rw [trcMark, h4.traceKept.trcOn, hoff]; rfl
  unfold trcEngMark
  rw [hm]
  simp only [Bool.and_false, Bool.false_and, Bool.false_eq_true, if_false]
  exact h4.trc

/-! A save bank that fails its parity check as ERET reads it (R248). -/

theorem again_bankSpoil : Again s (bankSpoil s n) n := by
  refine ⟨rfl, rfl, ?_⟩
  rw [bankSpoil, engMap, engGet_engSet]
  unfold saveSet
  split <;> rfl

theorem saveGet_saveSet (e : Engine) (t : Nat) (v : Save) : saveGet (saveSet e t v) t = v :=
  match t with
  | 0 => rfl
  | 1 => rfl
  | 2 => rfl
  | _ + 3 => rfl

theorem saveSet_rest (e : Engine) (t : Nat) (v : Save) : saveSet e t v = { e with
    save1 := (saveSet e t v).save1, save2 := (saveSet e t v).save2, save3 := (saveSet e t v).save3 } :=
  match t with
  | 0 => rfl
  | 1 => rfl
  | 2 => rfl
  | _ + 3 => rfl

theorem engGet_bankSpoil : engGet (bankSpoil s n) n = { engGet s n with
    save1 := (engGet (bankSpoil s n) n).save1, save2 := (engGet (bankSpoil s n) n).save2, save3 := (engGet (bankSpoil s n) n).save3 } := by
  rw [bankSpoil, engMap, engGet_engSet]
  exact saveSet_rest _ _ _

theorem haltDue_bankSpoil : haltDue (bankSpoil s n) n = haltDue s n := by
  have hfr : Framed s (bankSpoil s n) := .engMap _ n _
  unfold haltDue
  rw [hfr.locksOf, hfr.lockId, engGet_bankSpoil]
  rfl

theorem haltPoint_bankSpoil : haltPoint (bankSpoil s n) n = haltPoint s n := by
  have ha : Again s (bankSpoil s n) n := again_bankSpoil
  unfold haltPoint atTrapPoint runningSyl fetchBundle
  simp only [ha.fetchFrom]
  rw [engGet_bankSpoil]
  rfl

theorem engReady_bankSpoil (hp : partnerOf s n = none) (ok : Hold → Bool) : engReady (bankSpoil s n) n ok = engReady s n ok := by
  have ha : Again s (bankSpoil s n) n := again_bankSpoil
  unfold engReady engRuns engLeads
  rw [haltDue_bankSpoil, haltPoint_bankSpoil, ha.partnerOf, hp, ha.isHead, engGet_bankSpoil]
  rfl

/-- ERET from a micro-trap whose save bank fails enters level 3. -/
theorem exec_eret_spoilt (hn : n < 64) (h : Runs s n y .eret nx) (hf : flows s n) (h1 : 1 ≤ (engGet s n).level)
    (h2 : (engGet s n).level ≤ 2) (hp : privOk (engGet s n).compat (engGet s n).ring (engGet s n).pcc = true)
    (hb : bitAt (saveGet (engGet s n) (engGet s n).level).xst 28 = true) :
    ∃ t fr, exec (.eret n true) s = .next t ∧ fr.xpc = (engGet s n).pc ∧ Entered (engGet (bankSpoil s n) n) (engGet t n) 3
      (causeCode .saveBank) 3 (causeCode .saveBank) (saveGet (engGet s n) (engGet s n).level).xpc fr := by
  let z := bankSpoil s n
  let v := saveGet (engGet s n) (engGet s n).level
  let tr : Trap := { cause := .saveBank, adr := v.xpc }
  have ha : Again s z n := again_bankSpoil
  have he := engGet_bankSpoil (s := s) (n := n)
  change engGet z n = _ at he
  have hsv : saveGet (engGet z n) (engGet s n).level = { v with bank := { v.bank with bad := true } } := by
    rw [show engGet z n = _ from engGet_engSet s n _, saveGet_saveSet]
  have hlone : Lone z n y .eret nx := {
    single := ha.partnerOf.trans h.single
    head := ha.isHead.trans h.sole.head
    bundle := ha.decodeBundle.trans h.bundle
    noSwap := by rw [he]; exact h.noSwap
    noStep := by rw [he]; exact h.noStep
    noDonePos := by rw [he]; exact h.noDonePos
    noDone := by rw [he]; exact h.sole.noDone
    guard := by rw [he]; exact h.guard
    priv := by rw [he]; exact h.priv
    need := by rw [he]; exact h.need
    hard := h.hard }
  have hlev : (engGet z n).level = (engGet s n).level := by rw [he]
  have hpriv : privOk (engGet z n).compat (engGet z n).ring (engGet z n).pcc = true := by rw [he]; exact hp
  have hev : evOp z n (atNow z n nx) y .eret true = .trap tr := by
    simp only [evOp, evSys, hlev, hsv, hpriv, Nat.ne_of_gt h1, if_false, Bool.not_true, Bool.false_eq_true]
    simp [show bitAt v.xst 28 = true from hb, tr]
  have hres : bundleRes z n = .trap tr := by
    rw [bundleRes_lone hlone (by simp) (by simp), hev]
    rfl
  have hready : engReady z n issueHold = true := (engReady_bankSpoil h.single _).trans h.ready
  have hframe := faultFrame_plain (s := z) (n := n) (by rw [he]; exact h.noSlot) (by rw [he]; exact h.noRep)
  obtain ⟨hkey, hent⟩ := trapOne_enters (s := z) (n := n) (tr := tr) (fr := faultFrame z n) (.inr (.inr rfl)) (by simp [tr]) (by simp [tr])
    (by rw [running_of_ready hready]; nofun) hlone.noSwap hlone.noStep
    (takeTrap_level3 (s := { z with free := z.free + 1 }) (show (engGet z n).level < 3 by rw [hlev]; omega) rfl _)
  have hrun := runBundle_traps (by rw [he]; exact h.unheld) hlone.head hlone.single hres rfl hent.hold hent.rep
  have hex : exec (.eret n true) s = runBundle z n := by
    change execEret n s true = _
    rw [execEret, if_pos rfl, h.sole.own]
    simp [issueOp, show engReady (bankSpoil s n) n issueHold = true from hready, bundleHas,
      show decodeBundle (bankSpoil s n) n = _ from hlone.bundle]
    rfl
  have hfz : flows z n := hf
  refine ⟨_, faultFrame z n, hex.trans (hrun.trans (unlessHeld_flows hfz fun hoff => ?_)), ?_, hent⟩
  · rw [hkey]
    exact excEnter_trc_off hoff
  · rw [hframe.1, he]

theorem eventMay_of_point (h : eventPoint s n = true) : n < 64 ∧ (engGet s n).run = .running ∧ (engGet s n).pstate = .run := by
  unfold eventPoint eventMay at h
  simp only [Bool.and_eq_true, beq_iff_eq, decide_eq_true_eq] at h
  obtain ⟨⟨⟨⟨⟨⟨⟨⟨hn, hr⟩, _⟩, _⟩, _⟩, hp⟩, _⟩, _⟩, _⟩ := h
  exact ⟨hn, hr, hp⟩

/-- What an entry at level 2 leaves, in the words of R241. -/
theorem Entered.atLevel2 {e f : Engine} {c oc : Nat} {adr : Word} {fr : ExcFrame} (h : Entered e f 2 c 2 oc adr fr) :
    f.level = 2 ∧ f.save2.xpc = fr.xpc ∧ f.save2.xlc = fr.xlc ∧ f.save2.xadr = adr ∧ f.save2.xpcc = e.pcc ∧
      f.save2.xcau = BitVec.ofNat 32 (2 * 2 ^ 13 + oc * 2 ^ 8 + c) ∧ f.save2.xst = xstWord e fr ∧ f.ring = 0 ∧
      f.compat = e.startCompat ∧ f.pcc = e.startPcc ∧ f.pc = e.vbase + BitVec.ofNat 32 (0x800 + c * 0x20) := by
  have hs : f.save2 = _ := h.save
  rw [hs]
  exact ⟨h.level, rfl, rfl, rfl, rfl, rfl, rfl, h.ring, h.compat, h.pcc, h.pc⟩

theorem execEventEntry_enters {x : Nat} (hpt : eventPoint s n = true) (hub : hubEn s = true) (hd : domStat s 83 = 1)
    (hp : isPaired s = false) (hm : (engGet s n).hold ≠ .micro) (hslot : (engGet s n).xfer = none) (hrep : (engGet s n).rep = none)
    (hx : tgtOffer s n = some x) :
    ∃ t, exec (.eventEntry n) s = .next t ∧ (engGet t n).level = 1 ∧ (engGet t n).save1.xpc = (engGet s n).pc ∧
      (engGet t n).save1.xadr = BitVec.ofNat 32 x ∧
      (engGet t n).pc = (engGet s n).vbase + BitVec.ofNat 32 (0x400 + srcPrio s x * 0x20) ∧ (engGet t n).pcc = (engGet s n).startPcc := by
  obtain ⟨hn, hr, hs⟩ := eventMay_of_point hpt
  obtain ⟨f, hf, hsw⟩ := eventTake_enters hx hn hp hm hr hs hslot hrep
  have hsave : f.save1 = _ := hf.save
  refine ⟨eventTake s n, ?_, ?_⟩
  · change execEventEntry n s = _
    simp [execEventEntry, hpt, hub, hd]
  · rw [hsw]
    exact ⟨hf.level, congrArg Save.xpc hsave, congrArg Save.xadr hsave, hf.pc, hf.pcc⟩

end

/-- Settles O30: SYSC, BRK and the entries by one `Entered`, ERET by what its save registers put back. -/
theorem exceptionsEnterAndReturn : Obligations.ExceptionsEnterAndReturn := by
  unfold Obligations.ExceptionsEnterAndReturn
  refine fun s n y nx => ⟨fun h hl => ?_, fun h hl hd => ?_, fun h hd => ?_, fun hpt hub hd _ hp hm hslot hrep x hx => ?_,
    fun hn _ h hf h1 h2 hp hb => ?_, fun h h1 _ hp hb => ?_⟩
  · obtain ⟨t, ht, he⟩ := exec_raises h (by simp) (by simp) (tr := { cause := .syscall, adr := BitVec.ofNat 32 (sylRa y.word) })
      (by simp [evOp, evSys]) hl rfl
    exact ⟨t, ht, he.atLevel2⟩
  · obtain ⟨t, ht, he⟩ := exec_raises h (by simp) (by simp) (tr := { cause := .breakpoint, adr := BitVec.ofNat 32 (sylRa y.word) })
      (by simp [evOp, evSys, hd]) hl rfl
    exact ⟨t, ht, he.atLevel2⟩
  · exact exec_asks_halt h (by simp) (by simp) (by simp [evOp, evSys, hd])
  · exact execEventEntry_enters hpt hub hd hp hm hslot hrep hx
  · obtain ⟨t, fr, ht, hxpc, he⟩ := exec_eret_spoilt hn h hf h1 h2 hp hb
    have hsave : (engGet t n).save3 = _ := he.save
    refine ⟨t, ht, he.level, (congrArg Save.xpc hsave).trans hxpc, congrArg Save.xadr hsave, he.pc.trans ?_⟩
    rw [engGet_bankSpoil]
  · obtain ⟨t, ht, he⟩ := exec_returns h h1 hp hb
    exact ⟨t, ht, he.pc, he.pcc, he.lc, he.level, he.compat⟩

end Sys2Proof.Machine
end

section

namespace Sys2Proof.Machine

/-! Time (R26 to R30, R524). -/

section

variable {s : State}

/-! A host cycle at the pads keeps the tick and the counters below those of the hub. -/

/-- `t` is `s` in its tick, and in the counter at `a` where that is none of the hub's. -/
structure Timely (s t : State) : Prop where
  tick : t.tick = s.tick
  cnt : ∀ a, a < 0x20000 → CntKept a s t

namespace Timely

variable {t u : State}

theorem refl (s : State) : Timely s s := ⟨rfl, fun a _ => .refl a s⟩

theorem trans (h : Timely s t) (k : Timely t u) : Timely s u :=
  ⟨k.tick.trans h.tick, fun a ha => (h.cnt a ha).trans (k.cnt a ha)⟩

theorem after (k : Timely t u) (h : Timely s t) : Timely s u := h.trans k

theorem of_eq (ht : t.tick = s.tick) (hc : t.cnt = s.cnt) : Timely s t := ⟨ht, fun _ _ => .of_cnt hc⟩

theorem ite {c : Prop} [Decidable c] (h : Timely s t) (k : Timely s u) : Timely s (if c then t else u) := by
  split
  · exact h
  · exact k

theorem foldl {α : Type} {f : State → α → State} (l : List α) (hf : ∀ z x, Timely z (f z x)) (s : State) : Timely s (l.foldl f s) := by
  induction l generalizing s with
  | nil => exact refl s
  | cons x l ih => exact (hf s x).trans (ih _)

theorem srcSample (s : State) (x : Nat) (v : Bool) : Timely s (srcSample s x v) :=
  ⟨(Logged.srcSample s x v).frame.tick, fun _ ha => .srcSample ha s x v⟩

theorem pulse (s : State) (x : Nat) : Timely s (pulse s x) := (srcSample s x true).trans (srcSample _ x false)

theorem filtFollow (s : State) (p : Nat) (w : Bool) : Timely s (filtFollow s p w) := by
  unfold Machine.filtFollow filtPut
  dsimp only
  exact .ite (.ite (after (srcSample _ p w) (of_eq rfl rfl)) (of_eq rfl rfl)) (refl s)

theorem syncPut (s : State) (p : Nat) (v : Bool) : Timely s (syncPut s p v) := by
  unfold Machine.syncPut
  exact after (filtFollow _ p _) (of_eq rfl rfl)

theorem padCount (s : State) : Timely s (padCount s) := by
  unfold Machine.padCount
  exact .ite (.refl s) (after (foldl _ (fun z (q : Nat × Bool × Nat) => syncPut z q.1 q.2.1) _) (of_eq rfl rfl))

end Timely

/-- What taking up a change at a pad leaves. -/
theorem padNote_rest (p : Nat) : padNote s p = { s with field := (padNote s p).field, free := (padNote s p).free } := by
  unfold padNote
  dsimp only
  split
  · rfl
  · split <;> rfl

/-- `t` is `s` but for the state of the pins and the source of open values. -/
def PinsOnly (s t : State) : Prop := t = { s with field := t.field, free := t.free }

theorem PinsOnly.trans {s t u : State} (h : PinsOnly s t) (k : PinsOnly t u) : PinsOnly s u := by
  unfold PinsOnly at *
  rw [k, h]

theorem padsNote_rest : PinsOnly s (padsNote s) := by
  have key (l : List Nat) (s : State) : PinsOnly s (forNats l padNote s) := by
    unfold forNats
    induction l generalizing s with
    | nil => rfl
    | cons p l ih => exact PinsOnly.trans (padNote_rest p) (ih _)
  exact key _ s

theorem Timely.padGo (s : State) : Timely s (padGo s) := by
  have h (z : State) : Timely z (padsNote z) := by
    rw [padsNote_rest]
    exact .of_eq rfl rfl
  exact (Timely.padCount s).trans (h _)

theorem padGo_still (h : s.field.padq = []) : (padGo s).cnt = s.cnt ∧ (padGo s).eng = s.eng := by
  have hc : padCount s = s := by simp [padCount, h]
  rw [padGo, hc, padsNote_rest]
  exact ⟨rfl, rfl⟩

/-! The slew. -/

/-- Two ticks with the same slew lose the same of it. -/
theorem slewShrink_slew {t u : Tick} (h : u.slew = t.slew) (ha : u.slewAcc = t.slewAcc) (c : Nat) :
    (slewShrink u c).slew = (slewShrink t c).slew := by
  unfold slewShrink
  rw [h, ha]
  split
  · rfl
  · dsimp only
    split <;> rfl

theorem slewShrink_rest (t : Tick) (c : Nat) :
    slewShrink t c = { t with slew := (slewShrink t c).slew, slewAcc := (slewShrink t c).slewAcc } := by
  unfold slewShrink
  split
  · rfl
  · dsimp only
    split <;> rfl

/-- The state in which a host cycle takes its step of the timebase. -/
def cycled (s : State) : State := padGo (cyclesGo s)

theorem cycled_tick : (cycled s).tick = (cyclesGo s).tick := (Timely.padGo (cyclesGo s)).tick

theorem cycled_cnt {a : Nat} (ha : a < 0x20000) : cntGet (cycled s) a = cntGet s a := (Timely.padGo (cyclesGo s)).cnt a ha

theorem cycled_still (h : s.field.padq = []) : (cycled s).cnt = s.cnt ∧ (cycled s).eng = s.eng := padGo_still h

theorem cycled_slew (c : Nat) : (slewShrink (cycled s).tick c).slew = (slewShrink s.tick c).slew := by
  rw [cycled_tick]
  exact slewShrink_slew (t := s.tick) (u := (cyclesGo s).tick) rfl rfl c

theorem cycled_ktb : ktb (cycled s) = ktb s := by
  rw [ktb, cycled_tick]
  rfl

/-! Steps while the generator runs. -/

theorem tbsTake_running {tbi z : W64} (hb : s.bstate ≠ .off) (hr : s.tick.running = true) (hz : z ≠ 0) :
    tbsTake s tbi z = pulse (if z.msb then backwardStep { cycled s with tick := slewShrink (cycled s).tick 1 } tbi (-z)
      else forwardStep { cycled s with tick := slewShrink (cycled s).tick 1 } tbi z) 300 := by
  have hc : (cycled s).tick.running = true := by rw [cycled_tick]; exact hr
  have hk : bn9Step (cycled s) tbi z = if z.msb then backwardStep { cycled s with tick := slewShrink (cycled s).tick 1 } tbi (-z)
      else forwardStep { cycled s with tick := slewShrink (cycled s).tick 1 } tbi z := by
    rw [bn9Step, hc]
    rfl
  rw [← hk]
  simp only [tbsTake, hb, hz, hr, if_false, if_true]
  rfl

/-- Settles O8: the step goes to the slew that the cycle of the step has left. -/
theorem backwardStepGoesToSlew : Obligations.BackwardStepGoesToSlew := by
  unfold Obligations.BackwardStepGoesToSlew
  intro s tbi size hb hr hm slew
  have hz : -size ≠ 0 := fun h => by simp [h] at hm
  let u : State := { cycled s with tick := slewShrink (cycled s).tick 1 }
  have hu : u.tick.slew = slew := cycled_slew 1
  have hx : exec (.timebaseBackwardStep tbi size) s = .next (pulse (backwardStep u tbi size) 300) := by
    change execTimebaseBackwardStep tbi size s = _
    rw [execTimebaseBackwardStep, hm, tbsTake_running hb hr hz, hm, neg_neg]
    rfl
  have hp : Timely (backwardStep u tbi size) (pulse (backwardStep u tbi size) 300) := .pulse _ 300
  have hs : (backwardStep u tbi size).tick.slew = slew + size := congrArg (· + size) hu
  refine ⟨_, hx, ?_, ?_, ?_, fun ht => ?_⟩
  · rw [hp.tick, hs]
  · rw [hp.cnt _ (by decide), ← cycled_cnt (s := s) (a := 0x10084) (by decide)]
    exact cntGet_cntAdd _ _ _
  · rw [hp.tick]
    rfl
  · rw [ktb, hp.tick, hs, show (backwardStep u tbi size).tick.bn9 = tbi from rfl, ht]
    ring

theorem forwardStep_within {tbi z : W64} (h : z.ule s.tick.slew = true) :
    forwardStep s tbi z = { s with tick := { s.tick with bn9 := tbi, slew := s.tick.slew - z } } := by rw [forwardStep, if_pos h]

theorem forwardStep_beyond {tbi z : W64} (h : z.ule s.tick.slew = false) :
    forwardStep s tbi z = cntAdd { s with tick := { s.tick with bn9 := tbi, slew := 0, slewAcc := 0 } } 0x10080 1 := by
  rw [forwardStep, h]
  rfl

/-- Settles O9: the step is taken from the slew that the cycle of the step has left, and what is over from KTB. -/
theorem forwardStepTakesSlewFirst : Obligations.ForwardStepTakesSlewFirst := by
  unfold Obligations.ForwardStepTakesSlewFirst
  intro s size hb hr hm hz slew tbi plain
  let u : State := { cycled s with tick := slewShrink (cycled s).tick 1 }
  have hu : u.tick.slew = slew := cycled_slew 1
  let v := forwardStep u tbi size
  have hx : exec (.timebaseForwardStep tbi size) s = .next (pulse v 300) := by
    change execTimebaseForwardStep tbi size s = _
    rw [execTimebaseForwardStep, hm, tbsTake_running hb hr hz, hm]
    rfl
  have hp : Timely v (pulse v 300) := .pulse v 300
  have hkept : cntGet u 0x10080 = cntGet s 0x10080 := cycled_cnt (by decide)
  have hsum (x : W64) : tbi + x = plain + (size - slew) + x := by
    simp only [tbi, plain]
    ring
  refine ⟨_, hx, ?_, fun hle => ?_, fun hle => ?_⟩
  · rw [hp.tick]
    by_cases h : size.ule u.tick.slew = true
    · rw [show v = _ from forwardStep_within h]
    · rw [show v = _ from forwardStep_beyond (Bool.not_eq_true _ ▸ h)]
      rfl
  · have hv : v = { u with tick := { u.tick with bn9 := tbi, slew := u.tick.slew - size } } := forwardStep_within (by rw [hu]; exact hle)
    have hs : v.tick.slew = slew - size := by rw [hv, ← hu]
    have ht : v.tick.bn9 = tbi := by rw [hv]
    refine ⟨by rw [hp.tick, hs], ?_, ?_⟩
    · rw [ktb, hp.tick, hs, ht, hsum]
      ring
    · rw [hp.cnt _ (by decide), ← hkept, hv]
      rfl
  · have hv : v = _ := forwardStep_beyond (by rw [hu]; exact hle)
    have hs : v.tick.slew = 0 := by rw [hv]; rfl
    have ht : v.tick.bn9 = tbi := by rw [hv]; rfl
    refine ⟨by rw [hp.tick, hs], ?_, ?_⟩
    · rw [ktb, hp.tick, hs, ht, hsum, add_zero]
    · rw [hp.cnt _ (by decide), ← hkept, hv]
      exact cntGet_cntAdd _ _ _

/-! A stopped generator takes the BN9 time. -/

/-- `f` is `e` but for the moments from which its wait and its halt are measured. -/
def Remeasured (e f : Engine) : Prop :=
  { f with waitFrom := 0, dbg := { f.dbg with since := 0 } } = { e with waitFrom := 0, dbg := { e.dbg with since := 0 } }

theorem engGet_of_eng {s t : State} (h : t.eng = s.eng) (n : Nat) : engGet t n = engGet s n := by rw [engGet, h, ← engGet]

theorem engNotAfter_remeasured (now : W64) (e : Engine) : Remeasured e (engNotAfter now e) := rfl

/-- What a step back of KTB leaves of the state. -/
structure Rebased (s t : State) : Prop where
  tick : t.tick = s.tick
  eng : ∀ n, Remeasured (engGet s n) (engGet t n)

namespace Rebased

variable {t u : State}

theorem of_eq (ht : t.tick = s.tick) (he : t.eng = s.eng) : Rebased s t :=
  ⟨ht, fun n => by rw [engGet_of_eng he n]; rfl⟩

theorem refl (s : State) : Rebased s s := of_eq rfl rfl

theorem trans (h : Rebased s t) (k : Rebased t u) : Rebased s u := ⟨k.tick.trans h.tick, fun n => (k.eng n).trans (h.eng n)⟩

theorem foldl {α : Type} {f : State → α → State} (l : List α) (hf : ∀ z x, Rebased z (f z x)) (s : State) : Rebased s (l.foldl f s) := by
  induction l generalizing s with
  | nil => exact refl s
  | cons x l ih => exact (hf s x).trans (ih _)

theorem after (k : Rebased t u) (h : Rebased s t) : Rebased s u := h.trans k

theorem engNotAfter (now : W64) (n : Nat) : Rebased s (engMap s n (engNotAfter now)) where
  tick := rfl
  eng m := by
    by_cases h : m = n
    · subst h
      rw [engGet_engMap]
      exact engNotAfter_remeasured now _
    · rw [engGet_engMap_other _ h]
      rfl

theorem momentsBack (now : W64) (s : State) : Rebased s (momentsBack now s) := by
  unfold Machine.momentsBack
  exact after (foldl _ (fun z n => engNotAfter now n) _) (after (foldl (f := fun z k => trcSet z k _) _ (fun z k => of_eq rfl rfl) _) (of_eq rfl rfl))

theorem tmrRebase (b : Nat) (z : State) (q : Nat × Timer) : Rebased z (tmrRebase s b z q) := by
  unfold Machine.tmrRebase holdReach
  split
  · exact of_eq rfl rfl
  · split
    · dsimp only
      split <;> exact of_eq rfl rfl
    · exact refl z

end Rebased

theorem timersBack_rebased (old : State) : Rebased s (timersBack old s) := by
  unfold timersBack
  split
  · exact .after (.foldl _ (fun z q => .tmrRebase _ z q) _) (.after (.momentsBack _ _) (.of_eq rfl rfl))
  · exact .refl s

theorem timersBack_forth {old : State} (h : (ktb old).ule (ktb s) = true) : timersBack old s = s := by
  have hn : (ktb s).ult (ktb old) = false := by
    simpa [BitVec.ule, BitVec.ult] using h
  rw [timersBack, hn]
  rfl

/-- What a step of the timebase leaves of a block whose generator is stopped. -/
theorem tbsTake_stopped {tbi z : W64} (hb : s.bstate ≠ .off) (hr : s.tick.running = false) (hz : z ≠ 0) :
    ktb (tbsTake s tbi z) = tbi ∧ (tbsTake s tbi z).tick.slew = 0 ∧ (tbsTake s tbi z).tick.tickn = s.tick.tickn ∧
      (s.field.padq = [] → (ktb s).ule tbi = true → (tbsTake s tbi z).cnt = s.cnt ∧ (tbsTake s tbi z).eng = s.eng) ∧
      (s.field.padq = [] → ∀ n, Remeasured (engGet s n) (engGet (tbsTake s tbi z) n)) := by
  let u : State := { cycled s with tick := { (cycled s).tick with bn9 := tbi, slew := 0, slewAcc := 0 } }
  have hk : tbsTake s tbi z = timersBack (cycled s) u := by
    have hc : (cycled s).tick.running = false := by rw [cycled_tick]; exact hr
    simp only [tbsTake, hb, hz, hr, if_false, Bool.false_eq_true]
    rw [show padGo (cyclesGo s) = cycled s from rfl, bn9Step, hc]
    rfl
  have hkt : ktb u = tbi := by
    change tbi + 0 = tbi
    rw [add_zero]
  have ht : Rebased u (tbsTake s tbi z) := hk ▸ timersBack_rebased (cycled s)
  have hn : u.tick.tickn = s.tick.tickn := by
    change (cycled s).tick.tickn = _
    rw [cycled_tick]
    rfl
  refine ⟨?_, by rw [ht.tick], by rw [ht.tick, hn], fun hq hle => ?_, fun hq n => ?_⟩
  · rw [ktb, ht.tick]
    exact hkt
  · rw [hk, timersBack_forth (by rw [cycled_ktb, hkt]; exact hle)]
    exact cycled_still hq
  · have he : engGet u n = engGet s n := engGet_of_eng (cycled_still hq).2 n
    rw [← he]
    exact ht.eng n

theorem tbiTake_next {tbi : W64} (h : (tbi - s.tick.bn9).ule 2 = true) : tbiTake s tbi = rateStep s tbi (tbi - s.tick.bn9).toNat := by
  unfold tbiTake
  exact if_pos h

end

/-- Settles O10: an update at the rate of R26 shrinks the slew, and a stopped generator takes any step as R27 says. -/
theorem timebaseFollowsAndStops : Obligations.TimebaseFollowsAndStops := by
  unfold Obligations.TimebaseFollowsAndStops
  intro s tbi size hb alike
  refine ⟨fun h => ?_, fun hr hz hm => ?_, fun hr hm => ?_⟩
  · have hbn : (cycled s).tick.bn9 = s.tick.bn9 := by rw [cycled_tick]; rfl
    have hx : exec (.tbiUpdate tbi) s = .next (rateStep (cycled s) tbi (tbi - s.tick.bn9).toNat) := by
      have hk : exec (.tbiUpdate tbi) s = .next (tbiTake (cycled s) tbi) := if_neg hb
      rw [hk, tbiTake_next (by rw [hbn]; exact h), hbn]
    have ht : (rateStep (cycled s) tbi (tbi - s.tick.bn9).toNat).tick = _ := slewShrink_rest _ _
    refine ⟨_, hx, by rw [ht], ?_, ?_, fun hq => cycled_still hq⟩
    · rw [← cycled_slew]
      exact slewShrink_slew (t := (cycled s).tick) (u := { (cycled s).tick with bn9 := tbi }) rfl rfl _
    · rw [ht]
      change (cycled s).tick.tickn = _
      rw [cycled_tick]
      rfl
  · refine ⟨_, ?_, tbsTake_stopped hb hr hz⟩
    change execTimebaseForwardStep tbi size s = _
    rw [execTimebaseForwardStep, hm]
    rfl
  · refine ⟨_, ?_, tbsTake_stopped hb hr (z := -size) fun h => by simp [h] at hm⟩
    change execTimebaseBackwardStep tbi size s = _
    rw [execTimebaseBackwardStep, hm]
    rfl

end Sys2Proof.Machine
end

section
namespace Sys2Proof.Machine
open Host

/-! O13 fails where the table of sources has two entries for one source: the first is what a read of the source sees, RUNPRI (R336) counts
both, and an offer of the source leaves one. -/

/-- Source 8 pending with a second entry in service at target 1, source 9 pending; 8 may go to target 0 alone, 9 to the targets 1 and 2. -/
def twiceListed : State :=
  { blockOf {} with
    hub := { src := [(8, { pend := true }), (8, { insvc := some 1 }), (9, { pend := true })] }
    hreg := [(0x20000, 1), (0x21080, 0x80000005), (0x21084, 1), (0x21090, 0x80000003), (0x21094, 6), (0x27000, 0x100), (0x27020, 0x100),
      (0x27040, 0x100)]
    svc := { dom := [(83, 1)], eng := [(0, { st := 1 }), (1, { st := 1 }), (2, { st := 1 })] } }

theorem twiceListed_none {x : Nat} (h8 : x ≠ 8) (h9 : x ≠ 9) : srcGet twiceListed x = {} := by
  simp [srcGet, twiceListed, tblGet, Ne.symm h8, Ne.symm h9]

theorem twiceListed_unoffered (x : Nat) : (srcGet twiceListed x).offered = none := by
  by_cases h8 : x = 8
  · subst h8
    decide +kernel
  by_cases h9 : x = 9
  · subst h9
    decide +kernel
  rw [twiceListed_none h8 h9]

/-- Source 9 is the one candidate at target 2. -/
theorem twiceListed_candidate {x : Nat} (hx : x ≠ 9) : srcCandidate twiceListed x 2 = false := by
  by_cases h8 : x = 8
  · subst h8
    decide +kernel
  simp [srcCandidate, twiceListed_none h8 hx]

theorem exec_twiceListed : nextWith (exec .eventOffer twiceListed) (fun t => (srcGet t 9).offered == some 1) = true := by decide +kernel

/-- Refutes O13: the offer of source 8 drops its second entry, so that target 1 becomes eligible for source 9, which was a candidate at
target 2. -/
theorem not_hubSamplesOffersAndTimers : ¬ Obligations.HubSamplesOffersAndTimers := by
  unfold Obligations.HubSamplesOffersAndTimers
  intro h
  obtain ⟨_, _, _, _, hoffer, _, _⟩ := h twiceListed (by decide +kernel)
  obtain ⟨t, ht, ho, _⟩ := hoffer (by decide +kernel) twiceListed_unoffered 9 2 (by decide) (by decide +kernel)
    (fun y hy hc => by rw [twiceListed_candidate hy] at hc; cases hc)
  have hk := nextWith_of_next exec_twiceListed ht
  rw [ho] at hk
  cases hk

end Sys2Proof.Machine
end

section

namespace Sys2Proof.Machine

/-! The event hub (R330 to R346). -/

section

variable {s t u : State}

theorem srcGet_srcSet_other {x y : Nat} (h : y ≠ x) (v : Src) : srcGet (srcSet s x v) y = srcGet s y := tblGet_tblSet_other _ h _ _

theorem srcGet_of_hub (h : t.hub.src = s.hub.src) (y : Nat) : srcGet t y = srcGet s y := by rw [srcGet, h, ← srcGet]

theorem foldl_keeps {α β : Type} {π : State → β} {f : State → α → State} (hf : ∀ z x, π (f z x) = π z) (l : List α) (s : State) :
    π (l.foldl f s) = π s := by
  induction l generalizing s with
  | nil => rfl
  | cons x l ih => exact (ih _).trans (hf s x)

/-! Offers withdrawn. -/

/-- `t` is `s` but for its counters and offers that were withdrawn. -/
structure Withdrawn (s t : State) : Prop where
  rest : t = { s with cnt := t.cnt, hub := { s.hub with src := t.hub.src } }
  src : ∀ y, srcGet t y = srcGet s y ∨ srcGet t y = { srcGet s y with offered := none }

namespace Withdrawn

theorem refl (s : State) : Withdrawn s s := ⟨rfl, fun _ => .inl rfl⟩

theorem trans (h : Withdrawn s t) (k : Withdrawn t u) : Withdrawn s u where
  rest := by rw [k.rest, h.rest]
  src y := by
    obtain e | e := h.src y <;> obtain f | f := k.src y
    · exact .inl (f.trans e)
    · exact .inr (by rw [f, e])
    · exact .inr (f.trans e)
    · exact .inr (by rw [f, e])

theorem foldl {α : Type} {f : State → α → State} (l : List α) (hf : ∀ z x, Withdrawn z (f z x)) (s : State) : Withdrawn s (l.foldl f s) := by
  induction l generalizing s with
  | nil => exact refl s
  | cons x l ih => exact (hf s x).trans (ih _)

theorem srcWithdraw (s : State) (x : Nat) : Withdrawn s (srcWithdraw s x) := by
  unfold Machine.srcWithdraw
  split
  · refine ⟨rfl, fun y => ?_⟩
    by_cases h : y = x
    · subst h
      exact .inr (srcGet_srcSet ..)
    · exact .inl (srcGet_srcSet_other h _)
  · exact refl s

theorem hubWithdraw (s : State) : Withdrawn s (hubWithdraw s) := by
  refine foldl _ (fun z q => ?_) s
  split
  · exact refl z
  · split
    · exact refl z
    · exact srcWithdraw z _

theorem holdBegin (s : State) (g : Nat) : Withdrawn s (holdBegin s g) := by
  refine foldl _ (fun z q => ?_) s
  split
  · exact refl z
  · split
    · exact srcWithdraw z _
    · exact refl z

theorem hubOff (s : State) : Withdrawn s (hubOff s) := foldl _ (fun z (q : Nat × Src) => srcWithdraw z q.1) s

theorem insvc (h : Withdrawn s t) (y : Nat) : (srcGet t y).insvc = (srcGet s y).insvc := by obtain e | e := h.src y <;> rw [e]
theorem pend (h : Withdrawn s t) (y : Nat) : (srcGet t y).pend = (srcGet s y).pend := by obtain e | e := h.src y <;> rw [e]

theorem offered_none (h : Withdrawn s t) {y : Nat} (hy : (srcGet s y).offered = none) : (srcGet t y).offered = none := by
  obtain e | e := h.src y <;> rw [e]
  exact hy

end Withdrawn

theorem srcWithdraw_offered (x : Nat) : (srcGet (srcWithdraw s x) x).offered = none := by
  unfold srcWithdraw
  split
  · exact congrArg Src.offered (srcGet_srcSet ..)
  next h => simpa using h

theorem srcGet_of_unlisted {y : Nat} (h : y ∉ s.hub.src.map (·.1)) : srcGet s y = {} := by
  unfold srcGet
  revert h
  induction s.hub.src with
  | nil => exact fun _ => rfl
  | cons q l ih =>
    intro h
    rw [List.map_cons, List.mem_cons, not_or] at h
    rw [tblGet, if_neg (Ne.symm h.1), ih h.2]

theorem hubOff_offered (y : Nat) : (srcGet (hubOff s) y).offered = none := by
  have key (l : List (Nat × Src)) (s : State) (h : y ∈ l.map (·.1) ∨ (srcGet s y).offered = none) :
      (srcGet (l.foldl (fun z q => srcWithdraw z q.1) s) y).offered = none := by
    induction l generalizing s with
    | nil => exact h.resolve_left (by simp)
    | cons q l ih =>
      refine ih _ ?_
      by_cases hq : y = q.1
      · exact .inr (hq ▸ srcWithdraw_offered q.1)
      · obtain h | h := h
        · exact .inl ((List.mem_cons.mp h).resolve_left hq)
        · exact .inr ((Withdrawn.srcWithdraw s q.1).offered_none h)
  refine key _ _ ?_
  by_cases h : y ∈ s.hub.src.map (·.1)
  · exact .inl h
  · exact .inr (by rw [srcGet_of_unlisted h])

/-! Deliveries and completions. -/

theorem srcServe_src (x k : Nat) : srcGet (srcServe s x k) x = { srcGet s x with pend := false, offered := none, insvc := some k } :=
  srcGet_srcSet ..

theorem srcDeliver_src (x k : Nat) : (srcGet (srcDeliver s x k) x).insvc = some k ∧ (srcGet (srcDeliver s x k) x).pend = false ∧
    (srcGet (srcDeliver s x k) x).offered = none := by
  unfold srcDeliver
  split
  · rw [srcServe_src]
    exact ⟨rfl, rfl, rfl⟩
  next g _ =>
    extract_lets b s1 s2
    have h1 : srcGet s1 x = { srcGet (holdExpire s g) x with pend := false, offered := none, insvc := some k } := srcServe_src x k
    have h2 (c : Prop) [Decidable c] (a n : Nat) : srcGet (if c then cntAdd s2 a n else s2) x = srcGet s1 x := by split <;> rfl
    have hw := Withdrawn.holdBegin (if b = true then cntAdd s2 (0x27C0C + g * 0x10) 1 else s2) g
    refine ⟨(hw.insvc x).trans ?_, (hw.pend x).trans ?_, hw.offered_none ?_⟩ <;> rw [h2, h1]

theorem hubWake_hub (x : Nat) : (hubWake s x).hub = s.hub := by
  unfold hubWake
  split
  · refine foldl_keeps (π := State.hub) (fun z t => ?_) _ s
    split
    · exact foldl_keeps (π := State.hub) (f := wakeEng) (fun _ _ => rfl) _ z
    · rfl
  · rfl

/-- `t` has the sources in service that `s` has. -/
def ServiceKept (s t : State) : Prop := ∀ y, (srcGet t y).insvc = (srcGet s y).insvc

theorem ServiceKept.of_src (h : t.hub.src = s.hub.src) : ServiceKept s t := fun y => by rw [srcGet_of_hub h]

theorem ServiceKept.trans (h : ServiceKept s t) (k : ServiceKept t u) : ServiceKept s u := fun y => (k y).trans (h y)

theorem ServiceKept.ite {c : Prop} [Decidable c] (h : ServiceKept s t) (k : ServiceKept s u) : ServiceKept s (if c then t else u) := by
  split
  · exact h
  · exact k

theorem ServiceKept.srcSet {x : Nat} {v : Src} (h : v.insvc = (srcGet s x).insvc) : ServiceKept s (srcSet s x v) := fun y => by
  by_cases hy : y = x
  · subst hy
    rw [srcGet_srcSet, h]
  · rw [srcGet_srcSet_other hy]

theorem srcPendNow_src (x : Nat) : (srcPendNow s x).hub.src = (srcSet s x { srcGet s x with pend := true }).hub.src := by
  unfold srcPendNow
  rw [hubWake_hub]
  split <;> rfl

theorem srcPendNow_service (x : Nat) : ServiceKept s (srcPendNow s x) := fun y => by
  rw [srcGet_of_hub (srcPendNow_src x)]
  exact ServiceKept.srcSet (s := s) (v := { srcGet s x with pend := true }) rfl y

theorem srcOff_service (x : Nat) : ServiceKept s (srcOff s x) :=
  ServiceKept.trans (fun y => (Withdrawn.srcWithdraw s x).insvc y) (ServiceKept.srcSet rfl)

theorem srcSample_service (x : Nat) (v : Bool) : ServiceKept s (srcSample s x v) := by
  have h0 : ServiceKept s (srcSet s x { srcGet s x with raw := v }) := .srcSet rfl
  have hp := h0.trans (srcPendNow_service x)
  have ho := h0.trans (srcOff_service x)
  have hs : ServiceKept s s := fun _ => rfl
  unfold srcSample
  dsimp only
  exact .ite hs (.ite h0 (.ite (.ite (.ite (h0.trans (.of_src rfl)) hp) h0) (.ite hp (.ite ho h0))))

theorem srcComplete_insvc (x : Nat) (b : Bool) : (srcGet (srcComplete s x b) x).insvc = none := by
  unfold srcComplete
  split
  · dsimp only
    have h2 : (srcGet (if b = true then cntAdd (srcSet s x { srcGet s x with insvc := none }) 0x20020 1
        else srcSet s x { srcGet s x with insvc := none }) x).insvc = none := by
      split <;> exact congrArg Src.insvc (srcGet_srcSet ..)
    split
    · exact (srcSample_service x _ x).trans h2
    · exact h2
  next h => simpa using h

theorem srcOff_src (x : Nat) : (srcGet (srcOff s x) x).pend = false ∧ (srcGet (srcOff s x) x).offered = none ∧
    (srcGet (srcOff s x) x).insvc = (srcGet s x).insvc := by
  have h : srcGet (srcOff s x) x = { srcGet (srcWithdraw s x) x with pend := false } := srcGet_srcSet ..
  refine ⟨by rw [h], by rw [h]; exact srcWithdraw_offered x, srcOff_service x x⟩

theorem srcOff_rest (x : Nat) : (srcOff s x).eng = s.eng ∧ (srcOff s x).hreg = s.hreg := by
  have h := (Withdrawn.srcWithdraw s x).rest
  change (srcWithdraw s x).eng = s.eng ∧ (srcWithdraw s x).hreg = s.hreg
  rw [h]
  exact ⟨rfl, rfl⟩

/-! A source that is switched off (R338). -/

theorem srcSample_inactive {x : Nat} (h : srcActive s x = false) (v : Bool) :
    (srcSample s x v).eng = s.eng ∧ (srcSample s x v).hreg = s.hreg := by
  unfold srcSample
  dsimp only
  rw [h]
  split <;> exact ⟨rfl, rfl⟩

theorem filtPut_inactive {x : Nat} (h : srcActive s x = false) (v : Bool) : (filtPut s x v).eng = s.eng ∧ (filtPut s x v).hreg = s.hreg := by
  unfold filtPut
  dsimp only
  split
  · have hz (f : Field) := srcSample_inactive (s := { s with field := f }) (x := x) h v
    exact hz _
  · exact ⟨rfl, rfl⟩

theorem filtFollow_inactive {x : Nat} (h : srcActive s x = false) (v : Bool) :
    (filtFollow s x v).eng = s.eng ∧ (filtFollow s x v).hreg = s.hreg := by
  unfold filtFollow
  split
  · exact filtPut_inactive h v
  · exact ⟨rfl, rfl⟩

theorem bitAt_srcCfgNew (old v : Word) (h : bitAt v 31 = false) : bitAt (srcCfgNew old v) 31 = false := by
  unfold bitAt at h
  unfold srcCfgNew bitAt
  dsimp only
  split <;> simp_all

theorem srcCfgWrite_off {x : Nat} {v : Word} (h : bitAt v 31 = false) :
    (srcGet (srcCfgWrite s x v) x).pend = false ∧ (srcGet (srcCfgWrite s x v) x).offered = none ∧
      srcCfg (srcCfgWrite s x v) x = srcCfgNew (srcCfg s x) v ∧ (srcCfgWrite s x v).eng = s.eng := by
  unfold srcCfgWrite
  extract_lets o sr s0 s1
  have he0 : s0.eng = s.eng := by simp only [s0, sr]; split <;> rfl
  have hc0 : srcCfg s0 x = srcCfgNew (srcCfg s x) v := regGet_regPut ..
  have ha0 : srcActive s0 x = false := by rw [srcActive, hc0, bitAt_srcCfgNew _ _ h, Bool.false_and]
  have h1 : s1.eng = s0.eng ∧ s1.hreg = s0.hreg := by
    simp only [s1]
    split
    · exact filtFollow_inactive ha0 _
    · exact ⟨rfl, rfl⟩
  have hc1 : srcCfg s1 x = srcCfg s0 x := by rw [srcCfg, regGet, h1.2]; rfl
  have ha1 : srcActive s1 x = false := by rw [srcActive, srcPrio, hc1]; exact ha0
  rw [ha1]
  obtain ⟨hp, ho, _⟩ := srcOff_src (s := s1) x
  obtain ⟨he, hr⟩ := srcOff_rest (s := s1) x
  refine ⟨hp, ho, ?_, he.trans (h1.1.trans he0)⟩
  rw [← hc0, ← hc1]
  change regGet (srcOff s1 x) _ = _
  rw [regGet, hr]
  rfl

end

/-- Settles O12: each command by what it leaves of its source, and HUB_DISABLE by the offers that it withdraws. -/
theorem hubHostCommands : Obligations.HubHostCommands := by
  unfold Obligations.HubHostCommands
  intro s hup
  refine ⟨fun c x hc hx => ?_, fun c v hc hi => ?_, fun x hx _ => ?_, fun x hx => ?_, fun x v hx hv => ?_, fun w v hw => ?_,
    fun w v hw => ?_, ?_⟩
  · let z : State := { s with hostRd := (claimWord s c).setWidth 64 }
    have hk : exec (.eventClaim c) s = .next (hubWithdraw (srcDeliver z x (64 + c))) := by
      change execEventClaim c s = _
      rw [execEventClaim, if_pos ⟨hc, hup⟩, claimTake, show tgtOffer z (64 + c) = some x from hx]
    obtain ⟨hi, hp, ho⟩ := srcDeliver_src (s := z) x (64 + c)
    have hw := Withdrawn.hubWithdraw (srcDeliver z x (64 + c))
    refine ⟨_, hk, ?_, (hw.insvc x).trans hi, (hw.pend x).trans hp, hw.offered_none ho⟩
    have hl : Logged z (hubWithdraw (srcDeliver z x (64 + c))) := (srcDeliver_logged x (64 + c)).trans hubWithdraw_logged
    rw [hl.frame]
    change (claimWord s c).setWidth 64 = _
    rw [claimWord, hx]
  · refine ⟨srcComplete s (field v 9 0) false, ?_, srcComplete_insvc _ _⟩
    change execEventEoi c v s = _
    rw [execEventEoi, if_pos ⟨hc, hup⟩, eoiWrite, if_pos hi]
  · exact ⟨srcComplete s x true, if_pos ⟨hx, hup⟩, srcComplete_insvc _ _⟩
  · obtain ⟨hp, ho, hi⟩ := srcOff_src (s := s) x
    exact ⟨srcOff s x, if_pos ⟨hx, hup⟩, hp, ho, hi, srcOff_rest x⟩
  · exact ⟨srcCfgWrite s x v, if_pos ⟨hx, hv, hup⟩, srcCfgWrite_off hv⟩
  · exact if_pos ⟨hw, hup⟩
  · exact if_pos ⟨hw, hup⟩
  · let z := regPut s 0x20000 0
    have hk : exec .hubDisable s = .next (hubOff z) := if_pos hup
    have hw : Withdrawn z (hubOff z) := .hubOff z
    refine ⟨_, hk, ?_, ?_, ?_, ?_, fun x => ⟨hw.insvc x, hw.pend x, hubOff_offered x⟩⟩
    · have hr : regGet (hubOff z) 0x20000 = 0 := by
        have hh : (hubOff z).hreg = z.hreg := by rw [hw.rest]
        rw [regGet, hh]
        exact regGet_regPut ..
      rw [hubEn, hr]
      decide
    all_goals rw [hw.rest]; rfl

end Sys2Proof.Machine
end

section

namespace Sys2Proof.Machine

/-! The inputs of the boundary (R332, R350, R376, R396, R527 to R531). -/

section

variable {s t u : State}

theorem hasNat_iff {k : Nat} {l : List Nat} : hasNat k l = true ↔ k ∈ l := by simp [hasNat]

theorem hasNat_delNat (k p : Nat) (l : List Nat) : hasNat p (delNat k l) = (hasNat p l && decide (p ≠ k)) := by
  rw [Bool.eq_iff_iff, hasNat_iff, mem_delNat, Bool.and_eq_true, hasNat_iff, decide_eq_true_eq]

theorem hasNat_filter (p : Nat) (f : Nat → Bool) (l : List Nat) : hasNat p (l.filter f) = (hasNat p l && f p) := by
  rw [Bool.eq_iff_iff, hasNat_iff, List.mem_filter, Bool.and_eq_true, hasNat_iff]

theorem hasNat_put_self (p : Nat) (v : Bool) (l : List Nat) : hasNat p (if v then addNat p l else delNat p l) = v := by
  cases v
  · exact hasNat_delNat_self p l
  · exact hasNat_addNat_self p l

/-! The seal pin. -/

/-- `t` is `s` but for its counters, its event hub, its engines and its trace units. -/
def FreezeFrame (s t : State) : Prop := t = { s with cnt := t.cnt, hub := t.hub, eng := t.eng, trc := t.trc }

namespace FreezeFrame

theorem refl (s : State) : FreezeFrame s s := rfl

theorem trans (h : FreezeFrame s t) (k : FreezeFrame t u) : FreezeFrame s u := by
  unfold FreezeFrame at *
  rw [k, h]

theorem foldl {α : Type} {f : State → α → State} (l : List α) (hf : ∀ z x, FreezeFrame z (f z x)) (s : State) :
    FreezeFrame s (l.foldl f s) := by
  induction l generalizing s with
  | nil => exact refl s
  | cons x l ih => exact (hf s x).trans (ih _)

theorem trcPut (k typ eng sub : Nat) (w1 w2 w3 : Word) : FreezeFrame s (trcPut s k typ eng sub w1 w2 w3) := by
  unfold Machine.trcPut
  dsimp only
  split <;> rfl

theorem hubRebase (z : State) : FreezeFrame z (hubRebase s z) := by
  refine foldl _ (fun z q => ?_) z
  unfold tmrRebase holdReach
  split
  · rfl
  · split
    · dsimp only
      split <;> rfl
    · rfl

theorem freezeStep (z : State) : FreezeFrame z (freezeStep s z) := by
  unfold Machine.freezeStep
  extract_lets z1 z2 tf mark
  have h1 : FreezeFrame z z1 := by
    simp only [z1]
    split
    · rfl
    · exact hubRebase z
  have h2 : FreezeFrame z1 z2 := by
    refine foldl _ ?_ z1
    exact fun _ _ => rfl
  have hm (y : State) (n k : Nat) : FreezeFrame y (mark y n k) := by
    simp only [mark]
    split
    · exact trcPut ..
    · rfl
  split
  · rfl
  · refine (h1.trans h2).trans (foldl _ (fun y n => ?_) z2)
    split
    · exact hm y n 0
    · split
      · exact hm y n 1
      · rfl

theorem sett (h : FreezeFrame s t) : t.sett = s.sett := by rw [h]
theorem bstate (h : FreezeFrame s t) : t.bstate = s.bstate := by rw [h]

end FreezeFrame

theorem settEvent_sett (type item : Nat) (old new : Word) (f : BatHdr → BatHdr) :
    (settEvent s type item old new f).sett.pin = s.sett.pin ∧ (settEvent s type item old new f).sett.open_ = s.sett.open_ := by
  unfold settEvent
  split <;> exact ⟨rfl, rfl⟩

theorem sealClose_sett : (sealClose s).sett.pin = s.sett.pin ∧ (sealClose s).sett.open_ = false := by
  unfold sealClose
  split
  · extract_lets crc id s2 s3
    have h3 : s3.sett = { s.sett with open_ := false, loss := false, idchg := false, parchg := false } := by
      refine (FreezeFrame.freezeStep _).sett.trans (foldl_keeps (π := State.sett) ?_ _ s2)
      exact fun _ _ => rfl
    obtain ⟨hp, ho⟩ := settEvent_sett (s := s3) 2 0 (hdrLast s).parcrc crc (fun h => { h with sealid := id, parcrc := crc, pendid := id, pendpar := crc })
    exact ⟨hp.trans (by rw [h3]), ho.trans (by rw [h3])⟩
  next h => exact ⟨rfl, by simpa using h⟩

/-! The battery record. -/

theorem settFlagsSeen_rest : (settFlagsSeen s).io = s.io ∧ (settFlagsSeen s).eng = s.eng ∧ (settFlagsSeen s).store = s.store ∧
    (settFlagsSeen s).bat.hdr = s.bat.hdr ∧ (settFlagsSeen s).sett.loss = s.sett.loss := by
  unfold settFlagsSeen settFlags settMap
  split <;> exact ⟨rfl, rfl, rfl, rfl, rfl⟩

theorem settLoss_rest : (settLoss s).io = s.io ∧ (settLoss s).eng = s.eng ∧ (settLoss s).store = s.store ∧
    (settLoss s).bat.hdr = s.bat.hdr ∧ (s.sett.st ≠ 0 → (settLoss s).sett.loss = true) := by
  unfold settLoss
  dsimp only
  split
  next h => exact ⟨rfl, rfl, rfl, rfl, fun h0 => absurd h h0⟩
  · let z := batMap (settMap s (fun t => { t with loss := true })) (fun b => { b with queue := [] })
    obtain ⟨h1, h2, h3, h4, h5⟩ := settFlagsSeen_rest (s := z)
    exact ⟨h1, h2, h3, h4, fun _ => h5⟩

/-! The pins. -/

theorem filtPut_rest (p : Nat) (v : Bool) : (filtPut s p v).field = { s.field with filt := if v then addNat p s.field.filt else delNat p s.field.filt } ∧
    (filtPut s p v).hreg = s.hreg := by
  unfold filtPut
  dsimp only
  split
  · exact ⟨(Logged.srcSample _ p v).frame.field, (Logged.srcSample _ p v).frame.hreg⟩
  · exact ⟨rfl, rfl⟩

theorem pinFilter_of_hreg (h : t.hreg = s.hreg) (p : Nat) : pinFilter t p = pinFilter s p := by
  rw [pinFilter, srcCfg, regGet, h]
  rfl

theorem filtFollow_filt (p : Nat) (v : Bool) :
    hasNat p (filtFollow s p v).field.filt = if pinFilter s p = 0 then v else hasNat p s.field.filt := by
  unfold filtFollow
  split
  next h =>
    rw [(filtPut_rest p v).1, if_pos h.1]
    exact hasNat_put_self p v _
  next h =>
    split
    next h0 => simpa [h0] using h
    · rfl

theorem filtFollow_rest (p : Nat) (v : Bool) : (filtFollow s p v).field = { s.field with filt := (filtFollow s p v).field.filt } ∧
    (filtFollow s p v).hreg = s.hreg := by
  unfold filtFollow
  split
  · obtain ⟨hf, hr⟩ := filtPut_rest (s := s) p v
    exact ⟨by rw [hf], hr⟩
  · exact ⟨rfl, rfl⟩

/-- A filtered level of another pin stays where a pin's goes low. -/
theorem filtFollow_low_other {p q : Nat} (h : q ≠ p) : hasNat q (filtFollow s p false).field.filt = hasNat q s.field.filt := by
  unfold filtFollow
  split
  · rw [(filtPut_rest p false).1]
    simp [hasNat_delNat, h]
  · rfl

/-- The pins of a supply that is lost follow it to 0 where they have no filter. -/
theorem forNats_filtFollow (l : List Nat) (q : Nat) :
    hasNat q (forNats l (fun z p => filtFollow z p false) s).field.filt = (hasNat q s.field.filt && !(hasNat q l && decide (pinFilter s q = 0))) ∧
      (forNats l (fun z p => filtFollow z p false) s).field = { s.field with filt := (forNats l (fun z p => filtFollow z p false) s).field.filt } := by
  unfold forNats
  induction l generalizing s with
  | nil => exact ⟨by simp [hasNat], rfl⟩
  | cons p l ih =>
    obtain ⟨hf, hr⟩ := filtFollow_rest (s := s) p false
    obtain ⟨hi, hj⟩ := ih (s := filtFollow s p false)
    rw [List.foldl_cons]
    refine ⟨?_, hj.trans (by rw [hf])⟩
    rw [hi, pinFilter_of_hreg hr]
    by_cases hq : q = p
    · subst hq
      rw [filtFollow_filt]
      by_cases h0 : pinFilter s q = 0 <;> simp [h0, hasNat]
    · rw [filtFollow_low_other hq]
      simp [hasNat, hq]

theorem syncPut_rest (p : Nat) (v : Bool) (w : Bool)
    (hw : (v && !hasNat (p / 32) s.field.supAbsent && !(pinOd s p && pinDrive s p == some false && !s.field.padq.any (fun q => q.1 == p))) = w) :
    hasNat p (syncPut s p v).field.sync = w ∧ (syncPut s p v).field.supAbsent = s.field.supAbsent ∧ (syncPut s p v).hreg = s.hreg ∧
      hasNat p (syncPut s p v).field.filt = if pinFilter s p = 0 then w else hasNat p s.field.filt := by
  unfold syncPut
  dsimp only
  rw [hw]
  let z : State := { s with field := { s.field with sync := if w then addNat p s.field.sync else delNat p s.field.sync } }
  obtain ⟨hf, hr⟩ := filtFollow_rest (s := z) p w
  refine ⟨?_, ?_, hr, filtFollow_filt (s := z) p w⟩
  · rw [hf]
    exact hasNat_put_self p w _
  · rw [hf]

theorem extPut_rest (p : Nat) (v : Bool) : (extPut s p v).field.sync = s.field.sync ∧ (extPut s p v).field.supAbsent = s.field.supAbsent ∧
    (extPut s p v).field.filt = s.field.filt ∧ (extPut s p v).hreg = s.hreg := by
  unfold extPut
  dsimp only
  split <;> exact ⟨rfl, rfl, rfl, rfl⟩

/-- What PIN_FILTER_CHANGE leaves of its pin: the synchronised level `w`, and after the cycles of FILTER the filtered one. -/
theorem execPinFilterChange_levels {p : Nat} {v w : Bool} (hp : p < 208) (ha : hasNat (p / 32) s.field.supAbsent = false) (cyc : Nat)
    (hw : (v && !hasNat (p / 32) s.field.supAbsent && !(pinOd s p && pinDrive s p == some false && !s.field.padq.any (fun q => q.1 == p))) = w) :
    ∃ t, exec (.pinFilterChange p v cyc) s = .next t ∧ hasNat p t.field.sync = w ∧
      hasNat p t.field.filt = if pinFilter s p ≤ cyc then w else hasNat p s.field.filt := by
  obtain ⟨hs, hab, hr, hf⟩ := syncPut_rest p v w hw
  let s1 := extPut (syncPut s p v) p v
  obtain ⟨es, ea, ef, er⟩ := extPut_rest (s := syncPut s p v) p v
  have hl : pinLevel s1 p = w := by rw [pinLevel, es, hs, ea, hab, ha, Bool.not_false, Bool.and_true]
  have h1 : hasNat p s1.field.filt = if pinFilter s p = 0 then w else hasNat p s.field.filt := by rw [ef, hf]
  refine ⟨if pinFilter s p ≤ cyc ∧ hasNat p s1.field.filt ≠ w then filtPut s1 p w else s1, ?_, ?_, ?_⟩
  · change execPinFilterChange p v s cyc = _
    rw [execPinFilterChange, if_pos hp]
    dsimp only
    rw [show pinLevel (extPut (syncPut s p v) p v) p = w from hl]
  · split
    · rw [(filtPut_rest p w).1]
      exact (congrArg (hasNat p) es).trans hs
    · exact (congrArg (hasNat p) es).trans hs
  · by_cases hc : pinFilter s p ≤ cyc
    · rw [if_pos hc]
      split
      · rw [(filtPut_rest p w).1]
        exact hasNat_put_self p w _
      next h => simpa [hc] using h
    · have h0 : pinFilter s p ≠ 0 := by omega
      rw [if_neg hc, if_neg (fun h => hc h.1), h1, if_neg h0]

end

/-- Settles O11: each input by what it sets. -/
theorem boundaryInputs : Obligations.BoundaryInputs := by
  unfold Obligations.BoundaryInputs
  intro s
  refine ⟨fun hb => ?_, fun level => ?_, fun hp => ?_, fun hp hs => ?_, fun h => ?_, fun low hl hs => ?_, fun sup hs => ?_,
    fun sup hs hab => ?_, fun p v cyc hp ha hod hd hq => ?_, fun p v cyc hp ha hod => ?_⟩
  · let z := batLost { s with io := { s.io with batloss := true } }
    obtain ⟨hio, he, hst, hh, hl⟩ := settLoss_rest (s := z)
    refine ⟨settLoss z, ?_, by rw [hio]; rfl, by rw [hh]; rfl, hl, by rw [he]; rfl, by rw [hst]; rfl⟩
    change execBatlossRise s = _
    rw [execBatlossRise, hb]
    rfl
  · change ∃ t, execVlowackChange level s = _ ∧ _
    unfold execVlowackChange
    dsimp only
    split
    next c hc =>
      cases level
      · exact ⟨_, rfl, rfl, rfl, fun c' h' _ => by rw [hc] at h'; injection h' with h'; rw [h']⟩
      · exact ⟨_, rfl, rfl, rfl, fun _ _ h => by cases h⟩
    next hn => exact ⟨_, rfl, rfl, rfl, fun c h => by rw [hn] at h; cases h⟩
  · change execKsealFilterChange true s = _
    have hk (b : Bool) (h : s.sett.pin = b) :
        { s.sett with pin := b, pinAt := if b = s.sett.pin then s.sett.pinAt else ktb s } = s.sett := by
      subst h
      simp
    have hz : settMap s (fun t => { t with pin := true, pinAt := if true = t.pin then t.pinAt else ktb s }) = s :=
      congrArg (fun x => { s with sett := x }) (hk true hp)
    rw [execKsealFilterChange, if_neg (fun h => h.1 hp.symm), hz]
    rfl
  · change execKsealFilterChange true s = _
    simp [execKsealFilterChange, hp, hs, settMap]
  · let z := settMap s (fun t => { t with pin := false, pinAt := if false = t.pin then t.pinAt else ktb s })
    obtain ⟨h1, h2⟩ := sealClose_sett (s := z)
    refine ⟨sealClose z, ?_, h1, h2⟩
    change execKsealFilterChange false s = _
    have hn : ¬ (false ≠ s.sett.pin ∧ pinSoon s = true) := fun ⟨ha, hb⟩ => by
      obtain h | h := h
      · exact ha h.symm
      · rw [h] at hb; cases hb
    rw [execKsealFilterChange, if_neg hn]
    rfl
  · exact if_pos ⟨hl, hs⟩
  · let z : State := { s with field := { s.field with
      supAbsent := addNat sup s.field.supAbsent, supFresh := delNat sup s.field.supFresh,
      sync := s.field.sync.filter (fun p => decide (p / 32 ≠ sup)) } }
    let l := s.field.filt.filter (fun p => decide (p / 32 = sup))
    have hk : exec (.padSupplyChange sup false) s = .next (forNats l (fun z p => filtFollow z p false) z) := by
      change execPadSupplyChange sup false s = _
      rw [execPadSupplyChange, if_pos hs]
      rfl
    refine ⟨_, hk, ?_, fun p hp => ⟨?_, ?_⟩⟩
    · rw [(forNats_filtFollow l 0).2]
      exact hasNat_addNat_self sup _
    · rw [(forNats_filtFollow l p).2]
      simp [z, hasNat_filter, hp]
    · rw [(forNats_filtFollow l p).1, pinFilter_of_hreg (s := s) (t := z) rfl]
      simp only [z, l, hasNat_filter, hp]
      by_cases h0 : pinFilter s p = 0 <;> simp [h0]
  · refine ⟨{ s with field := { s.field with supAbsent := delNat sup s.field.supAbsent, supFresh := addNat sup s.field.supFresh } }, ?_,
      hasNat_delNat_self sup s.field.supAbsent⟩
    change execPadSupplyChange sup true s = _
    rw [execPadSupplyChange, if_pos hs, hab]
    rfl
  · obtain ⟨t, ht, hsync, _⟩ := execPinFilterChange_levels (w := false) hp ha cyc (v := v) (by simp [hod, hd, hq])
    exact ⟨t, ht, hsync⟩
  · refine execPinFilterChange_levels hp ha cyc ?_
    rw [ha]
    obtain h | h := hod
    · simp [h]
    · simp [h]

end Sys2Proof.Machine
end

section

namespace Sys2Proof.Machine

/-! Power, block reset, release and boot (R402 to R405, R428, R526). -/

section

variable {s : State}

theorem blockPowerOff_domains {d : Nat} (h : d < 86) : domStat (powerLoss s) d = 0 := by
  have key (l : List Nat) (t : Tbl Nat) (h : d ∈ l ∨ tblGet 1 d t = 0) : tblGet 1 d (l.foldl (fun t k => tblSet 1 k 0 t) t) = 0 := by
    induction l generalizing t with
    | nil => exact h.resolve_left (by simp)
    | cons k l ih =>
      refine ih _ ?_
      by_cases hk : d = k
      · subst hk
        exact .inr (tblGet_tblSet_self ..)
      · rw [tblGet_tblSet_other _ hk]
        exact h.imp (fun h => (List.mem_cons.mp h).resolve_left hk) id
  have hl : d ∈ List.range 86 := List.mem_range.mpr h
  unfold domStat powerLoss
  dsimp only
  generalize List.range 86 = l at hl ⊢
  exact key l [] (.inl hl)

/-- What the loss of power makes of the battery record: the oldest write may stand whole, with its entry only, or not at all. -/
theorem batCut_landed {w : BatWrite} {rest : List BatWrite} (h : s.bat.queue = w :: rest) :
    let b := (batCut s).bat
    (b.hdr = s.bat.hdr ∨ b.hdr = w.hdr) ∧ (b.hdr = s.bat.hdr ∨ tblGet {} ((hdrNext w.hdr + 31) % 32) b.log = w.ent) ∧
      ∀ i, i ≠ (hdrNext w.hdr + 31) % 32 → tblGet {} i b.log = tblGet {} i s.bat.log := by
  unfold batCut
  rw [h]
  dsimp only
  split
  · exact ⟨.inl rfl, .inl rfl, fun _ _ => rfl⟩
  · split
    · exact ⟨.inl rfl, .inl rfl, fun i hi => tblGet_tblSet_other _ hi _ _⟩
    · exact ⟨.inr rfl, .inr (tblGet_tblSet_self ..), fun i hi => tblGet_tblSet_other _ hi _ _⟩

theorem batCut_none (h : s.bat.queue = []) : batCut s = s := by
  unfold batCut
  rw [h]

theorem batCut_queue : (batCut s).bat.queue = [] := by
  unfold batCut
  split
  next h => exact h
  · rfl

theorem setBState_bstate (b : BState) : (setBState s b).bstate = b := by
  unfold setBState
  split
  next h => exact h
  · exact (Logged.pulse _ 308).frame.bstate

/-! The start of an engine. -/

theorem predForm_rest (n : Nat) (b : Bool) : FreezeFrame s (predForm s n b) := rfl

theorem engineStart_frame (n : Nat) (x : EngEntry) : FreezeFrame s (engineStart s n x) := by
  unfold engineStart
  refine .trans ?_ (FreezeFrame.freezeStep _)
  exact .trans (t := engMap s n _) rfl (predForm_rest n true)

/-- A freeze touches only the engines that it holds the tick for. -/
theorem freezeStep_engGet {n : Nat} (h : 64 ≤ n) (z : State) : engGet (freezeStep s z) n = engGet z n := by
  unfold freezeStep
  extract_lets z1 z2 tf mark
  have h1 : engGet z1 n = engGet z n := by
    simp only [z1]
    split
    · rfl
    · refine foldl_engGet _ n (fun y q => ?_) z
      unfold tmrRebase holdReach
      split
      · rfl
      · split
        · dsimp only
          split <;> rfl
        · rfl
  have hl : ∀ k ∈ (List.range 64).filter (fun n => frzTick z (cluOf n) && !frzTick s (cluOf n)), n ≠ k := fun k hk => by
    have := List.mem_range.mp (List.mem_filter.mp hk).1
    omega
  have h2 : engGet z2 n = engGet z1 n := by
    have key (l : List Nat) (y : State) (hl : ∀ k ∈ l, n ≠ k) : engGet (forNats l (fun y n =>
        engMap y n (fun e => { e with tickn := engTick s n, tickHeld := true })) y) n = engGet y n := by
      unfold forNats
      induction l generalizing y with
      | nil => rfl
      | cons k l ih =>
        refine (ih _ fun j hj => hl j (List.mem_cons_of_mem _ hj)).trans ?_
        exact engGet_engMap_other _ (hl k List.mem_cons_self) _
    exact key _ z1 hl
  have hm (y : State) (k j : Nat) : engGet (mark y k j) n = engGet y n := by
    simp only [mark]
    split
    · rw [engGet, engGet, trcPut_eng]
    · rfl
  split
  · rfl
  · refine (foldl_engGet _ n (fun y k => ?_) z2).trans (h2.trans h1)
    split
    · exact hm y k 0
    · split
      · exact hm y k 1
      · rfl

theorem engineStart_high {n : Nat} (h : 64 ≤ n) (x : EngEntry) :
    (engGet (engineStart s n x) n).run = .running ∧ (engGet (engineStart s n x) n).pc = capBase x.pcc := by
  unfold engineStart
  rw [freezeStep_engGet h]
  unfold predForm
  dsimp only
  rw [engGet_engMap, engGet_engMap]
  exact ⟨rfl, rfl⟩

end

/-- Settles O7: power-on, power loss and reset by what outlives them, the release by the start of the Badger. -/
theorem powerAndResetCommands : Obligations.PowerAndResetCommands := by
  unfold Obligations.PowerAndResetCommands
  intro s
  refine ⟨fun hb => ?_, ?_, fun hb => ?_, fun hb cause hc => ?_, fun hb => ?_, fun hb romOk krst kdio hk => ?_, fun hb => ?_, fun hb => ?_,
    fun hb hf hd keys blocks hl => ?_⟩
  · exact ⟨padsEnter (kept s), if_pos hb, rfl, rfl, rfl, rfl, rfl, rfl, rfl, rfl, rfl⟩
  · refine ⟨powerLoss s, rfl, rfl, fun d hd => blockPowerOff_domains hd, rfl, rfl, rfl, batCut_queue, fun hq => ?_,
      fun w rest hq => batCut_landed hq⟩
    rw [show (powerLoss s).bat = (batCut s).bat from rfl, batCut_none hq]
    exact ⟨rfl, rfl⟩
  · let z : State := { s with io := { s.io with krst := s.io.krst || 0 == 0, kbrel := s.io.kbrel && 0 != 2 } }
    refine ⟨blockReset z, ?_, rfl, ?_, rfl, rfl, rfl, rfl, rfl, rfl, rfl, rfl, rfl, rfl⟩
    · change execBlockReset 0 s = _
      simp [execBlockReset, hb, z]
    · exact Bool.or_true _
  · change execBlockReset cause s = _
    simp [execBlockReset, Nat.not_le.mpr hc, hb]
  · exact ⟨blockReset { s with io := { s.io with kdio := true } }, if_neg hb, rfl, rfl, rfl, rfl, rfl, rfl, rfl⟩
  · exact ⟨_, if_pos ⟨hb, hk⟩, hb, rfl, rfl, rfl, rfl⟩
  · let z := setBState { s with io := { s.io with krst := false, kdio := false, kbrel := true } } .keeperBoot
    let u := engineStart z 66 badgerEntry
    have hio : (badgerLoad u).io = { s.io with krst := false, kdio := false, kbrel := true } := by
      rw [(badgerLoad_keeps u).2, (engineStart_keeps z 66 badgerEntry).2, (setBState_keeps _ _).2]
    obtain ⟨hr, hp⟩ := engineStart_high (s := z) (n := 66) (by decide) badgerEntry
    have he : engGet (badgerLoad u) 66 = _ := engGet_engMap ..
    refine ⟨badgerLoad u, ?_, ?_, ?_, ?_, by rw [hio], by rw [hio]⟩
    · change execBadgerRelease true s = _
      simp [execBadgerRelease, hb, u, z]
    · exact (engineStart_frame (s := z) 66 badgerEntry).bstate.trans (setBState_bstate _)
    · rw [he]
      exact hr
    · rw [he]
      refine hp.trans ?_
      decide +kernel
  · let z := setBState { s with io := { s.io with krst := false, kdio := false, kbrel := true } } .keeperBoot
    refine ⟨{ z with rel := { z.rel with fcause := 7 } }, ?_, setBState_bstate _, rfl⟩
    change execBadgerRelease false s = _
    simp [execBadgerRelease, hb, z]
  · refine ⟨setBState (vetFill (vetAccept { s with io := { s.io with keys := keys } } blocks)) .awaitImage, if_pos ⟨hb, hf, hd, hl⟩,
      setBState_bstate _, ?_⟩
    rw [(setBState_keeps _ _).2, (vetFill_keeps _).2, (vetAccept_keeps _ _).2]

end Sys2Proof.Machine
end

section

namespace Sys2Proof.Machine

/-! Micro-routines (R184, R210, R216, R284, R297). -/

section

variable {s t : State} {n : Nat} {y : Syl} {op : Op} {nx : Nat}

theorem Issues.lawful (h : Issues s n y op nx) : sylLegal y = some op := decode_single_legal h.bundle

theorem slotOf_single (h : (entCls y.entry).isSome = true) : slotOf [y] 0 < 6 := by
  obtain ⟨k, hk⟩ := Option.isSome_iff_exists.mp h
  unfold slotOf
  simp only [List.getElem?_cons_zero, hk]
  cases k
  case a =>
    dsimp only
    split
    · omega
    · split <;> omega
  all_goals simp

/-- The one microcoded syllable of a bundle is the one whose routine is entered. -/
theorem microOrder_single {e : Engine} (hu : sylUcode y = true) (hg : guardOf e y = true) (hc : (entCls y.entry).isSome = true) :
    microOrder e [y] = [0] := by
  have hs := slotOf_single hc
  unfold microOrder
  rw [show List.range [y].length = [0] from rfl, show List.range 6 = [0, 1, 2, 3, 4, 5] from rfl]
  simp only [List.filter_cons, List.getElem?_cons_zero, hu, hg, Bool.and_true, if_true, List.filter_nil]
  generalize slotOf [y] 0 = k at *
  interval_cases k <;> simp

theorem evSyl_ucode (h : Issues s n y op nx) (hu : sylUcode y = true) (z : At) : evSyl s n z y op = .ucode 0 := by
  have hp : (entPriv y.entry && !privOk (engGet s n).compat (engGet s n).ring (engGet s n).pcc) = false := by
    cases hq : entPriv y.entry
    · rfl
    · simp [h.priv hq]
  simp [evSyl, h.guard, hp, h.need, hu]

theorem bundleRes_starts (h : Issues s n y op nx) (hu : sylUcode y = true) (h1 : op ≠ .rep) (h2 : op ≠ .repi)
    (hk : (engGet s n).u.park = []) : bundleRes s n = .start 0 y := by
  have hc : (entCls y.entry).isSome = true := by
    have hl := h.lawful
    unfold sylLegal at hl
    split at hl
    next hq => simp only [Bool.and_eq_true] at hq; exact hq.2
    · cases hl
  unfold bundleRes
  simp only [h.bundle]
  split
  · rename_i hq; cases hq; exact absurd rfl h1
  · rename_i hq; cases hq; exact absurd rfl h2
  · simp [evList, h.noDonePos, hasNat, evSyl_ucode h hu, microOrder_single hu h.guard hc, routineNext, hk]

/-- The engine as its routine is entered. -/
def entered (e : Engine) (y : Syl) : Engine :=
  { e with hold := .micro, u := { e.u with
      upc := entUaddr y.entry, stack := [], sRd := none, sRd1 := none, sPd := none, sLc := none, xadrs := 0, pos := 0,
      rom := sylRom y, pts := 0, prog := none } }

/-- A microcoded instruction alone in its bundle enters its routine. -/
theorem exec_starts (h : Issues s n y op nx) (hu : sylUcode y = true) (h1 : op ≠ .rep) (h2 : op ≠ .repi)
    (hk : (engGet s n).u.park = []) : exec (commandOf op n) s = .next (engSet s n (entered (engGet s n) y)) := by
  have hm : microStart s n 0 y = engSet s n (entered (engGet s n) y) := by
    unfold microStart
    rw [hk]
    rfl
  have hone : runOnce s n = .next (engSet s n (entered (engGet s n) y)) := by
    rw [runOnce, h.single, bundleRes_starts h hu h1 h2 hk, ← hm]
    rfl
  rw [exec_alone h.toAlone]
  refine runBundle_once h.unheld hone ?_ ?_ (by simp [trcDropped])
  · rw [engGet_engSet]
    nofun
  · rw [engGet_engSet, inRepBody, show (entered (engGet s n) y).rep = none from h.noRep]

/-! The end of a routine of the micro-ROM. -/

theorem fetchBundle_of_decode {ys : List Syl} {ops : List Op} (h : decodeBundle s n = .ok ys ops nx) :
    fetchBundle s n (pcAt (engGet s n).pc) = .bundle ys nx := by
  unfold decodeBundle at h
  simp only at h
  split at h <;> try cases h
  next hf =>
    split at h
    · cases h
    · split at h
      · cases h
      · cases h
        exact hf

/-- `t` is `s` while the routine of the bundle of engine `n` runs: but for the micro-state of the engine and what the trace stall
has counted. -/
structure InRoutine (s t : State) (n : Nat) (y : Syl) : Prop where
  trc : t.trc = s.trc
  fetch : Fetches s t n
  hold : (engGet t n).hold = .micro
  pos : (engGet t n).u.pos = 0
  rom : (engGet t n).u.rom = sylRom y
  prog : (engGet t n).u.prog = none
  late : (engGet t n).u.late = (engGet s n).u.late
  done : (engGet t n).u.done = (engGet s n).u.done
  donePos : (engGet t n).u.donePos = (engGet s n).u.donePos

theorem entered_inRoutine : InRoutine s (engSet s n (entered (engGet s n) y)) n y where
  trc := rfl
  fetch := ⟨rfl, rfl, by rw [engGet_engSet]; rfl⟩
  hold := by rw [engGet_engSet]; rfl
  pos := by rw [engGet_engSet]; rfl
  rom := by rw [engGet_engSet]; rfl
  prog := by rw [engGet_engSet]; rfl
  late := by rw [engGet_engSet]; rfl
  done := by rw [engGet_engSet]; rfl
  donePos := by rw [engGet_engSet]; rfl

theorem InRoutine.stallCounted (h : InRoutine s t n y) (b : Bool) : InRoutine s (trcStallCount t n b) n y := by
  unfold trcStallCount
  split
  · let c := cntAdd t (trcAdr (cluOf n) 0x14) (cyclesOf t ((ktb t).toNat - (engGet t n).waitFrom.toNat))
    have he : engGet (engMap c n (fun e => { e with waitFrom := ktb t, u := { e.u with stall := false } })) n =
      { engGet t n with waitFrom := ktb t, u := { (engGet t n).u with stall := false } } := engGet_engMap ..
    constructor
    · exact h.trc
    · refine ⟨h.fetch.mem, h.fetch.svc, ?_⟩
      rw [he, h.fetch.eng]
    all_goals rw [he]
    · exact h.hold
    · exact h.pos
    · exact h.rom
    · exact h.prog
    · exact h.late
    · exact h.done
    · exact h.donePos
  · exact h

theorem InRoutine.running (h : InRoutine s t n y) (hb : decodeBundle s n = .ok [y] [op] nx) : runningSyl t n = some ([y], y) := by
  have hpc : (engGet t n).pc = (engGet s n).pc := by rw [h.fetch.eng]
  unfold runningSyl
  simp [h.fetch.fetchBundle, hpc, fetchBundle_of_decode hb, h.pos]

/-- The state in which the routine has left `acts`. -/
def routineOver (t : State) (n : Nat) (y : Syl) (acts : List Act) : State := microEnd (pointPass t (microFree t n) n y) n acts

theorem pointPass_frame (b s : State) (n : Nat) (y : Syl) :
    (pointPass b s n y).trc = s.trc ∧ (pointPass b s n y).mem = s.mem ∧ (pointPass b s n y).svc = s.svc := by
  unfold pointPass
  split <;> exact ⟨rfl, rfl, rfl⟩

theorem InRoutine.over (h : InRoutine s t n y) (acts : List Act) (hd : (engGet s n).u.done = []) (hp : (engGet s n).u.donePos = [])
    (hl : (engGet s n).u.late = none) : let z := routineOver t n y acts
    z.trc = s.trc ∧ Fetches s z n ∧ (engGet z n).hold = .none ∧ (engGet z n).u.late = none ∧ (engGet z n).u.done = acts ∧
      (engGet z n).u.donePos = [0] := by
  intro z
  let m := microFree t n
  let q := pointPass t m n y
  have hm : engGet m n = { engGet t n with u := { (engGet t n).u with
      ut0 := (engGet m n).u.ut0, ut1 := (engGet m n).u.ut1, ut2 := (engGet m n).u.ut2, ut3 := (engGet m n).u.ut3,
      mar := (engGet m n).u.mar, mdr := (engGet m n).u.mdr, lastY := (engGet m n).u.lastY, flags := (engGet m n).u.flags } } := by
    rw [show engGet m n = _ from engGet_engMap ..]
    rfl
  have hq : engGet q n = { engGet m n with noEvent := (engGet q n).noEvent } := by
    unfold q pointPass
    split
    · rw [engGet_engMap]
    · rfl
  have hz : engGet z n = { engGet q n with hold := .none, u := { (engGet q n).u with
      stack := [], sRd := none, sRd1 := none, sPd := none, sLc := none, rom := false, pts := 0, prog := none,
      done := (engGet q n).u.done ++ acts, donePos := (engGet q n).u.donePos ++ [(engGet q n).u.pos] } } := engGet_engMap ..
  have hrest : z.trc = t.trc ∧ z.mem = t.mem ∧ z.svc = t.svc := pointPass_frame t m n y
  have hu : (engGet q n).u.late = none ∧ (engGet q n).u.done = [] ∧ (engGet q n).u.donePos = [] ∧ (engGet q n).u.pos = 0 := by
    rw [hq, hm]
    exact ⟨h.late.trans hl, h.done.trans hd, h.donePos.trans hp, h.pos⟩
  obtain ⟨hl', hd', hp', hpos⟩ := hu
  refine ⟨hrest.1.trans h.trc, ⟨hrest.2.1.trans h.fetch.mem, hrest.2.2.trans h.fetch.svc, ?_⟩, by rw [hz], by rw [hz]; exact hl', ?_, ?_⟩
  · rw [hz, hq, hm, h.fetch.eng]
  · rw [hz]
    exact (congrArg (· ++ acts) hd').trans rfl
  · rw [hz]
    change (engGet q n).u.donePos ++ [(engGet q n).u.pos] = [0]
    rw [hp', hpos]
    rfl

/-- The bundle whose routine has left register acts retires with them. -/
theorem bundleRes_over {z : State} {acts : List Act} (hb : decodeBundle z n = .ok [y] [op] nx) (h1 : op ≠ .rep) (h2 : op ≠ .repi)
    (hl : (engGet z n).u.late = none) (hd : (engGet z n).u.done = acts) (hp : (engGet z n).u.donePos = [0]) (ha : acts.all isRegAct = true) :
    bundleRes z n = .retire acts nx (hasCond [y] [op]) := by
  have hdone : doneActs (engGet z n) = acts := by
    rw [doneActs, hd]
    exact List.filter_eq_self.mpr fun a hm => by
      have := List.all_eq_true.mp ha a hm
      cases a <;> first | rfl | cases this
  unfold bundleRes
  simp only [hb]
  split
  · rename_i hq; cases hq; exact absurd rfl h1
  · rename_i hq; cases hq; exact absurd rfl h2
  · simp [evList, hl, hp, hasNat, hdone]

/-- The engine whose bundle a routine has completed, without a result or with one register written. -/
theorem retireOne_over {z : State} {acts : List Act} (ha : acts.all isRegAct = true) (hz : Calm (bundleOver (engGet z n))) (c : Bool) :
    retireOne z n 0 acts nx c = engSet z n (afterActs (engGet z n) acts nx) := by
  have hf := foldl_regAct_flow acts (bundleOver (engGet z n))
  have hz0 : acted z n acts = engSet z n (acts.foldl regAct (bundleOver (engGet z n))) := foldl_applyAct_reg' _ _ _ _ _ ha _
  rw [retireOne_goesOn (isRegAct_goesOn ha) (by rw [hz0, engGet_engSet]; exact hz.of_flow hf), hz0, goOn, engMap, engGet_engSet,
    engSet_engSet]
  rfl

theorem runBundle_over {z : State} {acts : List Act} (hb : decodeBundle z n = .ok [y] [op] nx) (h1 : op ≠ .rep) (h2 : op ≠ .repi)
    (hu : (engGet z n).hold = .none) (hh : isHead z n = true) (hs : partnerOf z n = none) (hl : (engGet z n).u.late = none)
    (hd : (engGet z n).u.done = acts) (hp : (engGet z n).u.donePos = [0]) (ha : acts.all isRegAct = true)
    (hz : Calm (bundleOver (engGet z n))) : runBundle z n = .next (engSet z n (afterActs (engGet z n) acts nx)) := by
  have hc : Calm (afterActs (engGet z n) acts nx) := (hz.of_flow (foldl_regAct_flow acts (bundleOver (engGet z n)))).withPc _
  have hrun := runBundle_unlessHeld hu (pairOf_single hh hs) hs
    (t := engSet z n (afterActs (engGet z n) acts nx))
    (by rw [bundleRes_over hb h1 h2 hl hd hp ha, ← retireOne_over ha hz (hasCond [y] [op])]; rfl)
    (by rw [engGet_engSet, hc.unheld]; nofun) (by rw [engGet_engSet]; exact hc.not_inRepBody)
  rw [hrun]
  exact unlessHeld_of_trc n rfl

/-- The engine may run its routine in every state that an engine ready to issue reaches by entering it. -/
theorem entered_ready (h : Issues s n y op nx) (hk : (engGet s n).u.park = []) :
    engReady (engSet s n (entered (engGet s n) y)) n (fun x => x == .micro) = true := by
  let t := engSet s n (entered (engGet s n) y)
  have he : engGet t n = entered (engGet s n) y := engGet_engSet ..
  have hready := h.ready
  have hpt : haltPoint s n = true := by
    simp [haltPoint, betweenBundles, h.unheld, h.noSlot, inRepBody, h.noRep, h.noDonePos, hk]
  unfold engReady engLeads engRuns at hready ⊢
  simp only [hpt, h.single, Bool.and_true, Bool.and_eq_true, Bool.not_eq_true'] at hready
  obtain ⟨⟨hhead, ⟨⟨⟨⟨hn, hr⟩, hh⟩, hps⟩, hdom⟩, hdue⟩, _⟩ := hready
  have hfr : Framed s t := .engSet s n _
  have hdue' : haltDue t n = false := by
    rw [← hdue]
    unfold haltDue
    rw [hfr.locksOf, hfr.lockId, he]
    rfl
  have hp : partnerOf t n = none := (entered_inRoutine (y := y)).fetch.partnerOf.trans h.single
  have hhead' : isHead t n = true := (entered_inRoutine (y := y)).fetch.isHead.trans hhead
  have hdom' : (domStat t (engDom n) == 1) = true := hdom
  simp only [show engSet s n (entered (engGet s n) y) = t from rfl, hhead', hdue', hp, hdom', he, hn]
  simp [entered, hr, hh, hps]

/-- A routine of the micro-ROM runs to its end in the command that completes it, and its bundle goes on. -/
theorem exec_completes (h : Issues s n y op nx) (h1 : op ≠ .rep) (h2 : op ≠ .repi) (hrom : sylRom y = true)
    (hl : (engGet s n).u.late = none) (hk : (engGet s n).u.park = []) {acts : List Act} (ha : acts.all isRegAct = true)
    (hres : ∀ t, InRoutine s t n y → romResult t n y = some (.ok acts)) {cyc : Nat} (hc : 0 < cyc) :
    ∃ z, Fetches s z n ∧ exec (.microroutineComplete n cyc) (engSet s n (entered (engGet s n) y)) =
      .next (engSet z n (afterActs (engGet z n) acts nx)) := by
  obtain ⟨k, rfl⟩ : ∃ k, cyc = k + 1 := ⟨cyc - 1, by omega⟩
  let t := engSet s n (entered (engGet s n) y)
  let t1 := trcStallCount t n (engGet t n).u.stall
  let z := routineOver t1 n y acts
  have ht : InRoutine s t1 n y := (entered_inRoutine (y := y)).stallCounted _
  have hp : partnerOf t1 n = none := ht.fetch.partnerOf.trans h.single
  obtain ⟨htrc, hfz, hhold, hlate, hdone, hdp⟩ := ht.over acts h.noDone h.noDonePos hl
  have hstep : stepsInside t1 n = false := by
    have : (engGet t1 n).dbg = (engGet s n).dbg := by rw [ht.fetch.eng]
    rw [stepsInside, this, h.noStep, Bool.false_and]
  have hone : microPair t1 n (microOne false) = .next z := by
    unfold microPair
    rw [hp]
    unfold microOne
    rw [ht.running h.bundle]
    simp only [Bool.false_eq_true, if_false, ht.rom, hrom, if_true, hres t1 ht]
    rfl
  have hheld : trcHeld t1 z n = false := by simp [trcHeld, trcDropped, trcGet, show z.trc = s.trc from htrc, ht.trc]
  have hrun : (engGet z n).run = .running := by
    rw [hfz.eng]
    exact running_of_ready h.ready
  have hfin : microFinished z n = true := by
    unfold microFinished
    dsimp only
    rw [show (engGet z n).hold = _ from hhold, hrun, show (engGet z n).u.donePos = _ from hdp]
    rfl
  have hz : Calm (bundleOver (engGet z n)) := by
    rw [hfz.eng]
    exact ⟨h.noSlot, h.noRep, h.noSwap, h.noStep, rfl⟩
  refine ⟨z, hfz, ?_⟩
  have hb := runBundle_over (hfz.decodeBundle.trans h.bundle) h1 h2 hhold (hfz.isHead.trans (isHead_of_ready h.ready)) (hfz.partnerOf.trans h.single)
    hlate hdone hdp ha hz
  rw [← hb]
  change execMicroroutineComplete n (k + 1) t = _
  rw [execMicroroutineComplete, if_pos (entered_ready h hk), if_neg (by omega)]
  change microRun (k + 1) t1 n = _
  rw [microRun, hstep, hone]
  simp only [Bool.false_eq_true, if_false, hheld, hfin, if_true]
  rfl

/-- What the operands of the routine are while it runs. -/
theorem InRoutine.regs (h : InRoutine s t n y) (r : Nat) : regG (engGet t n) r = regG (engGet s n) r := by
  rw [h.fetch.eng]
  rfl

/-- A routine that leaves the one result `v`: what its start and its end leave of the engine. -/
theorem exec_result (h : Issues s n y op nx) (hu : sylUcode y = true) (h1 : op ≠ .rep) (h2 : op ≠ .repi) (hrom : sylRom y = true)
    (hl : (engGet s n).u.late = none) (hk : (engGet s n).u.park = []) {acts : List Act} {v : Word} {cyc : Nat} (hc : 0 < cyc)
    (hres : ∀ t, InRoutine s t n y → romResult t n y = some (.ok acts))
    (ha : acts = [.g (sylRd y.word) v] ∨ acts = [] ∧ v = regG (engGet s n) (sylRd y.word)) :
    ∃ t, (exec (commandOf op n) s = .next t ∧ t = engSet s n (engGet t n) ∧ (engGet t n).hold = .micro ∧ (engGet t n).g = (engGet s n).g ∧
        (engGet t n).pc = (engGet s n).pc) ∧
      ∃ u, exec (.microroutineComplete n cyc) t = .next u ∧ (engGet u n).hold = .none ∧ (engGet u n).pc = BitVec.ofNat 32 nx ∧
        ∀ r, regG (engGet u n) r = if r = sylRd y.word ∧ r ≠ 0 then v else regG (engGet s n) r := by
  have hreg : acts.all isRegAct = true := by obtain rfl | ⟨rfl, _⟩ := ha <;> rfl
  obtain ⟨z, hz, hx⟩ := exec_completes h h1 h2 hrom hl hk hreg hres hc
  have hr (r : Nat) : regG (retired (engGet z n) nx) r = regG (engGet s n) r := by rw [hz.eng]; rfl
  refine ⟨_, ⟨exec_starts h hu h1 h2 hk, by rw [engGet_engSet], by rw [engGet_engSet]; rfl, by rw [engGet_engSet]; rfl,
    by rw [engGet_engSet]; rfl⟩, _, hx, ?_, ?_, fun r => ?_⟩ <;> rw [engGet_engSet]
  · exact (foldl_regAct_flow acts (bundleOver (engGet z n))).hold
  · rfl
  · obtain rfl | ⟨rfl, rfl⟩ := ha
    · rw [afterActs_g, regG_putG, hr]
    · rw [afterActs_nil, hr]
      split
      next hq => rw [hq.1]
      · rfl

theorem divOp_some {m : Nat} (h : m ≤ 3) (a b : Word) : ∃ v, divOp m a b = some v := by
  interval_cases m <;> exact ⟨_, rfl⟩

end

/-- Settles O28: the start of a routine, and the end of one of the micro-ROM by what it leaves in the general registers. -/
theorem microcodedInstructionsComplete : Obligations.MicrocodedInstructionsComplete := by
  unfold Obligations.MicrocodedInstructionsComplete
  intro s n y nx cyc e rd m starts ends hu hc hl hk
  refine ⟨fun h hrom => ?_, fun h hrom => ?_, fun h hrom => ?_, fun h hrom hlen => ?_, fun h _ => ?_⟩
  · have hop : sylOp y = some .div := (sylLegal_parts h.lawful).1
    have hm := sylOp_minor hop
    obtain ⟨v, hv⟩ := divOp_some (by simpa using hm) (opA s n y) (opB s n y)
    obtain ⟨t, hs, he⟩ := exec_result h hu (by simp) (by simp) hrom hl hk hc (v := v) (fun t ht => by
      unfold romResult
      simp only [hop, ht.regs]
      exact congrArg (Option.map fun v => Except.ok [Act.g (sylRd y.word) v]) hv) (.inl rfl)
    exact ⟨t, v, hs, hv, he⟩
  · have hop : sylOp y = some .fdiv := (sylLegal_parts h.lawful).1
    exact exec_result h hu (by simp) (by simp) hrom hl hk hc (fun t ht => by
      unfold romResult
      simp only [hop, ht.regs]
      rfl) (.inl rfl)
  · have hop : sylOp y = some .fsqrt := (sylLegal_parts h.lawful).1
    exact exec_result h hu (by simp) (by simp) hrom hl hk hc (fun t ht => by
      unfold romResult
      simp only [hop, ht.regs]
      rfl) (.inl rfl)
  · have hop : sylOp y = some .crcBlk := (sylLegal_parts h.lawful).1
    exact exec_result h hu (by simp) (by simp) hrom hl hk hc (acts := []) (fun t ht => by
      have hleft : (crcLeft (engGet t n) y).2.2 = 0 := by
        rw [crcLeft, ht.prog]
        exact (ht.regs _).trans hlen
      unfold romResult
      simp only [hop, hleft, ht.prog, romBlock]
      rfl) (.inr ⟨rfl, rfl⟩)
  · refine ⟨_, ⟨exec_starts h hu (by simp) (by simp) hk, ?_, ?_, ?_, ?_⟩, ?_, ?_, ?_, ?_⟩ <;> rw [engGet_engSet] <;> rfl

/-! A repaired micro-word (R297). -/

/-- Settles O29: the repair writes its record and its count, and leaves the engine but for the hold. -/
theorem microwordRepairResumes : Obligations.MicrowordRepairResumes := by
  unfold Obligations.MicrowordRepairResumes
  intro s n adr entry hn hr hd hb ha hh
  let c := engCount s n 0x910C 1
  let w : Word := BitVec.ofNat 32 (b2n entry * 2 ^ 17 + b2n (engGet s n).ubank * 2 ^ 16 + adr % 8192)
  let z := fltWrite c 4 (BitVec.ofNat 32 n) w 0
  have hs : isSettEng n = false := by
    simp [isSettEng]
    omega
  have hz : parityOutcome s n entry adr true = z := by
    have hq : (!entry && decide (0xC00 ≤ adr)) = false := by
      cases entry
      · simpa using ha rfl
      · rfl
    rw [parityOutcome, hs, hb, hq]
    rfl
  have hl : Logged c z := .fltWrite c 4 _ _ _
  have hwk : Woken (engGet s n) (engGet z n) := by
    have := hl.woken n
    rwa [engCount_engGet] at this
  have hrun : (engGet z n).run = .running := by
    rw [hwk.alike]
    exact hr
  have hdom : engDom n = n := by
    unfold engDom
    split <;> omega
  refine ⟨engMap z n (fun e => { e with hold := if entry then .none else .micro }), ?_, ?_, ?_, ?_, ?_⟩
  · change execMicrowordRepairDone n entry adr true s = _
    unfold execMicrowordRepairDone
    simp only [hdom, hd, hr, hh, hz, hrun, if_true]
    rw [if_neg]
    simp
    omega
  · rw [engGet_engMap]
  · rw [engGet_engMap, hwk.alike]
  · rw [engGet_engMap, hwk.alike]
  · have ha : n * 0x20 + 0x910C < 0x20000 := by omega
    change cntGet z _ = _
    rw [show cntGet z (0x910C + n * 0x20) = cntGet c (0x910C + n * 0x20) from CntKept.fltWrite (by omega) c 4 _ _ _]
    rw [show c = cntAdd s (0x910C + n * 0x20) 1 from by simp [c, engCount, hs]]
    exact cntGet_cntAdd _ _ _

end Sys2Proof.Machine
end

section

namespace Sys2Proof.Machine

/-! The host mailbox: refusals and the commands that complete at acceptance (R504 to R512, R518, R520). -/

section

variable {s z : State} {code len : Nat} {pl : List Word}

/-! Refusals. -/

theorem mbxRow_refused (he : mbxEnter s code len pl = some z) (h : acceptStatus z ≠ 0) (take : State → Nat → List Word → State) :
    mbxRow s code len pl take = mbxRefuse z (acceptStatus z) := by
  unfold mbxRow mbxDeferred
  rw [he]
  dsimp only
  split
  next h0 => exact absurd h0 h
  · rfl

theorem mbxRowNow_refused (he : mbxEnter s code len pl = some z) (h : acceptStatus z ≠ 0) (k : State → List Word → List Byte × State) :
    mbxRowNow s code len pl k = mbxRefuse z (acceptStatus z) := by
  unfold mbxRowNow mbxNow
  rw [he]
  dsimp only
  split
  next h0 => exact absurd h0 h
  · rfl

/-- Every command submitted that fails a check is refused. -/
theorem exec_refused {i : Instr} (hi : submission i = some (code, len, pl)) (he : mbxEnter s code len pl = some z)
    (h : acceptStatus z ≠ 0) : exec i s = .next (mbxRefuse z (acceptStatus z)) := by
  unfold submission at hi
  split at hi
  case h_18 c l =>
    split at hi
    next hc =>
      cases hi
      exact (if_pos hc).trans (congrArg Host.Outcome.next (mbxRowNow_refused he h _))
    · cases hi
  case h_13 | h_16 | h_17 =>
    cases hi
    exact congrArg Host.Outcome.next (mbxRowNow_refused he h _)
  case h_19 => cases hi
  all_goals
    cases hi
    exact congrArg Host.Outcome.next (mbxRow_refused he h _)

theorem satCount_zero (v : Word) : satCount v 0 = v := by
  rw [satCount, Nat.add_zero, Nat.min_eq_left (by omega), BitVec.ofNat_toNat, BitVec.setWidth_eq]

/-- What a refusal counts. -/
theorem mbxRefuse_counts (st : Nat) : cntGet (mbxRefuse s st) 0x40024 = satCount (cntGet s 0x40024) 1 ∧
    cntGet (mbxRefuse s st) 0x4002C = satCount (cntGet s 0x4002C) (if st = 3 then 1 else 0) ∧
    cntGet (mbxRefuse s st) 0x40028 = satCount (cntGet s 0x40028) (if st = 2 then 1 else 0) := by
  let s1 := cntAdd s 0x40024 1
  have h24 : cntGet s1 0x40024 = satCount (cntGet s 0x40024) 1 := cntGet_cntAdd ..
  have h2C : cntGet s1 0x4002C = cntGet s 0x4002C := cntGet_cntAdd_other s (by decide) 1
  have h28 : cntGet s1 0x40028 = cntGet s 0x40028 := cntGet_cntAdd_other s (by decide) 1
  have hs (a : Nat) : cntGet (mbxRefuse s st) a =
      cntGet (if st = 3 then cntAdd s1 0x4002C 1 else if st = 2 then cntAdd s1 0x40028 1 else s1) a := rfl
  rw [hs, hs, hs]
  by_cases h3 : st = 3
  · rw [if_pos h3, if_pos h3, if_neg (by omega)]
    exact ⟨(cntGet_cntAdd_other s1 (by decide) 1).trans h24, (cntGet_cntAdd s1 _ 1).trans (congrArg (satCount · 1) h2C),
      (cntGet_cntAdd_other s1 (by decide) 1).trans (h28.trans (satCount_zero _).symm)⟩
  · rw [if_neg h3, if_neg h3]
    by_cases h2 : st = 2
    · rw [if_pos h2, if_pos h2]
      exact ⟨(cntGet_cntAdd_other s1 (by decide) 1).trans h24, (cntGet_cntAdd_other s1 (by decide) 1).trans (h2C.trans (satCount_zero _).symm),
        (cntGet_cntAdd s1 _ 1).trans (congrArg (satCount · 1) h28)⟩
    · rw [if_neg h2, if_neg h2]
      exact ⟨h24, h2C.trans (satCount_zero _).symm, h28.trans (satCount_zero _).symm⟩

theorem mbxRefuse_mbx (st : Nat) : (mbxRefuse s st).mbx = { s.mbx with busy := false, status := st, tag := 0 } := by
  unfold mbxRefuse
  dsimp only
  split
  · rfl
  · split <;> rfl

/-- `t` is `s` but for its mailbox and its counters. -/
def MailboxOnly (s t : State) : Prop := t = { s with cnt := t.cnt, mbx := t.mbx }

theorem MailboxOnly.trans {t u : State} (h : MailboxOnly s t) (k : MailboxOnly t u) : MailboxOnly s u := by
  unfold MailboxOnly at *
  rw [k, h]

theorem mbxRefuse_rest (st : Nat) : MailboxOnly s (mbxRefuse s st) := by
  unfold MailboxOnly mbxRefuse
  dsimp only
  split
  · rfl
  · split <;> rfl

/-- A submission changes the mailbox alone, and not the tag that it gives out next. -/
theorem mbxEnter_rest (he : mbxEnter s code len pl = some z) : MailboxOnly s z ∧ z.cnt = s.cnt ∧ z.mbx.nextTag = s.mbx.nextTag ∧
    z.mbx.log = s.mbx.log := by
  unfold mbxEnter at he
  split at he
  · cases he
  · split at he
    · split at he
      · cases he
        exact ⟨rfl, rfl, rfl, rfl⟩
      · cases he
    · cases he
      exact ⟨rfl, rfl, rfl, rfl⟩

theorem field_code (hc : code < 256) : field (cmdOf code len) 7 0 = code := by
  unfold field cmdOf
  rw [BitVec.toNat_ofNat, Nat.shiftRight_zero]
  omega

theorem field_len (hl : len < 65536) : field (cmdOf code len) 31 16 = len := by
  unfold field cmdOf
  rw [BitVec.toNat_ofNat, Nat.shiftRight_eq_div_pow]
  omega

/-- Settles O32: the checks in their order, and what a refusal counts. -/
theorem mailboxRefusesInOrder : Obligations.MailboxRefusesInOrder := by
  unfold Obligations.MailboxRefusesInOrder
  refine ⟨fun z => rfl, fun s z i code len pl hi he h => ?_, fun s code len hup hb hc hout hl => ?_⟩
  · obtain ⟨hz, hcnt, ht, _⟩ := mbxEnter_rest he
    obtain ⟨h24, h2C, h28⟩ := mbxRefuse_counts (s := z) (acceptStatus z)
    have hget (a : Nat) : cntGet z a = cntGet s a := by rw [cntGet, hcnt, ← cntGet]
    rw [hget] at h24 h2C h28
    refine ⟨_, exec_refused hi he h, mbxRefuse_mbx _, ?_, ?_, h24, h2C, h28⟩
    · rw [mbxRefuse_mbx]
      exact ht
    · exact hz.trans (mbxRefuse_rest _)
  · let z : State := { s with mbx := { s.mbx with cmd := cmdOf code len, busy := true, req := memPut s.mbx.req 0 ((plBytes []).take 4096) } }
    have he : mbxEnter s code len [] = some z := by
      have : ¬ (hostUp s = false ∨ 65536 ≤ len) := by
        rw [hup]
        simp
        omega
      rw [mbxEnter, if_neg this, hb]
      rfl
    have hst : acceptStatus z = 4 := by
      have h1 : field z.mbx.cmd 7 0 = code := field_code hc
      have h2 : field z.mbx.cmd 31 16 = len := field_len (by omega)
      unfold acceptStatus
      simp only [h1, h2, if_neg (Nat.not_lt.mpr hl), if_pos hout]
    have hx := exec_refused (i := .badcmdSubmission code len) (if_pos ⟨hout, hc⟩) he (by rw [hst]; decide)
    rw [hst] at hx
    refine ⟨_, hx, ?_, ?_, ?_, ?_, ?_, (mbxRefuse_counts 4).1⟩
    · rw [mbxRefuse_mbx]
    · rw [mbxRefuse_mbx]
    · rw [mbxRefuse_mbx]
    · rw [mbxRefuse_mbx]
    · rw [mbxRefuse_rest]

end

/-! Commands that complete at acceptance. -/

section

variable {s z : State} {code len : Nat} {pl : List Word}

theorem mbxRowNow_accepted (h : Accepts s code len pl z) (k : State → List Word → List Byte × State) :
    mbxRowNow s code len pl k =
      let r := k z (payload z)
      let s1 := mbxAccept r.2 false
      { s1 with mbx := { s1.mbx with resp := memPut s1.mbx.resp 0 r.1, reslen := r.1.length } } := by
  unfold mbxRowNow mbxNow
  rw [h.enters]
  dsimp only
  rw [h.passes]
  rfl

theorem memBytes_memPut_self (m : Memory) (bs : List Byte) : memBytes (memPut m 0 bs) 0 bs.length = bs := by
  have key (k a : Nat) : memBytes (memPut m 0 bs) a k = (List.range k).map (fun i => memGet (memPut m 0 bs) (a + i)) := by
    induction k generalizing a with
    | zero => rfl
    | succ k ih =>
      rw [memBytes, ih, List.range_succ_eq_map, List.map_cons, List.map_map]
      simp [Function.comp_def, Nat.add_assoc, Nat.add_comm 1]
  rw [key]
  refine List.ext_getElem (by simp) fun i h1 h2 => ?_
  have hi : i < bs.length := by simpa using h1
  rw [List.getElem_map, List.getElem_range, memGet_memPut_inside _ _ _ _ hi]

theorem plBytes_length (l : List Word) : (plBytes l).length = 4 * l.length := by
  unfold plBytes
  induction l with
  | nil => rfl
  | cons w l ih =>
    rw [List.flatMap_cons, List.length_append, leBytes_length, ih, List.length_cons]
    omega

theorem faultWords_length (bad : List Nat) (r : FltRec) (i : Nat) : (faultWords s bad r i).length = 32 := by
  unfold faultWords
  split
  · rw [plBytes_length, List.length_map, List.length_range]
  · simp [fltBytes, leBytes_length]

theorem flatMap_length_const {α : Type} (l : List α) (f : α → List Byte) (k : Nat) (h : ∀ a, (f a).length = k) :
    (l.flatMap f).length = k * l.length := by
  induction l with
  | nil => rfl
  | cons a l ih =>
    rw [List.flatMap_cons, List.length_append, h, ih, List.length_cons, Nat.mul_succ, Nat.add_comm]

theorem faultsRead_length (want : Nat) (bad : List Nat) :
    (faultsRead s want bad).1.length = 32 + 32 * min (min want 127) s.mbx.log.length := by
  unfold faultsRead
  dsimp only
  rw [List.length_append, plBytes_length, flatMap_length_const _ _ 32 (fun q => faultWords_length _ _ _), List.length_zipIdx, List.length_take]
  simp

/-! Events change no mailbox, and a fault record its log alone. -/

theorem hubWake_mbx (x : Nat) : (hubWake s x).mbx = s.mbx := by
  unfold hubWake
  split
  · refine foldl_keeps (π := State.mbx) (fun z t => ?_) _ s
    split
    · exact foldl_keeps (π := State.mbx) (f := wakeEng) (fun _ _ => rfl) _ z
    · rfl
  · rfl

theorem srcPendNow_mbx (x : Nat) : (srcPendNow s x).mbx = s.mbx := by
  unfold srcPendNow
  rw [hubWake_mbx]
  split <;> rfl

theorem srcOff_mbx (x : Nat) : (srcOff s x).mbx = s.mbx := by
  have h := (Withdrawn.srcWithdraw s x).rest
  change (srcWithdraw s x).mbx = s.mbx
  rw [h]

theorem srcSample_mbx (x : Nat) (v : Bool) : (srcSample s x v).mbx = s.mbx := by
  have hp := srcPendNow_mbx (s := srcSet s x { srcGet s x with raw := v }) x
  have ho := srcOff_mbx (s := srcSet s x { srcGet s x with raw := v }) x
  have hite (c : Prop) [Decidable c] (t u : State) (ht : t.mbx = s.mbx) (hu : u.mbx = s.mbx) : (if c then t else u).mbx = s.mbx := by
    split
    · exact ht
    · exact hu
  unfold srcSample
  dsimp only
  exact hite _ _ _ rfl (hite _ _ _ rfl (hite _ _ _ (hite _ _ _ (hite _ _ _ rfl hp) rfl) (hite _ _ _ hp (hite _ _ _ ho rfl))))

theorem pulse_mbx (x : Nat) : (pulse s x).mbx = s.mbx := (srcSample_mbx x false).trans (srcSample_mbx x true)

theorem fltWrite_nextTag (cls : Nat) (src a0 a1 : Word) : (fltWrite s cls src a0 a1).mbx.nextTag = s.mbx.nextTag := by
  unfold fltWrite
  extract_lets s1
  split
  · rfl
  · split
    · exact congrArg Mbx.nextTag (pulse_mbx (s := cntAdd s1 0x40104 1) 305)
    · rfl

theorem faultsParity_nextTag (bad : List Nat) : (faultsParity s bad).mbx.nextTag = s.mbx.nextTag := by
  unfold faultsParity
  split
  · rfl
  · exact foldl_keeps (π := fun z => z.mbx.nextTag) (fun z i => fltWrite_nextTag _ _ _ _) bad _

end

/-- An accepted command at once answers over the mailbox alone, where what it does changes no more. -/
theorem mbxAnswered_rest {r : List Byte × State} (h : MailboxOnly s r.2) :
    MailboxOnly s { mbxAccept r.2 false with
      mbx := { (mbxAccept r.2 false).mbx with resp := memPut (mbxAccept r.2 false).mbx.resp 0 r.1, reslen := r.1.length } } :=
  h.trans rfl

theorem faultsRead_rest (want : Nat) (bad : List Nat) : MailboxOnly s (faultsRead s want bad).2 := rfl

theorem faultsRead_parity_rest (want k : Nat) :
    MailboxOnly s (faultsParity (faultsRead s want (([] : List Nat).filter (fun i => decide (i < k)))).2
      (([] : List Nat).filter (fun i => decide (i < k)))) := faultsRead_rest want []

/-- Settles O33: what each command makes of the state, accepted and counted. -/
theorem immediateCommandsComplete : Obligations.ImmediateCommandsComplete := by
  unfold Obligations.ImmediateCommandsComplete
  intro s z len pl done
  refine ⟨fun h => ?_, fun h => ?_, fun h => ?_⟩
  · obtain ⟨hz, hcnt, _⟩ := mbxEnter_rest h.enters
    have hr : sealResult z = sealResult s := by rw [hz]; rfl
    refine ⟨_, congrArg Host.Outcome.next (mbxRowNow_accepted h _), ⟨rfl, rfl, rfl⟩, ?_, ?_, ?_⟩
    · exact plBytes_length _
    · have hl : (sealResult z).length = 24 := plBytes_length _
      rw [← hr]
      conv_lhs => rw [← hl]
      exact memBytes_memPut_self _ _
    · exact hz.trans rfl
  · obtain ⟨hz, hcnt, _⟩ := mbxEnter_rest h.enters
    have hc (a : Nat) : cntGet (countersClear z) a = if isRow 0x10128 0x40 8 a then cntGet s a else 0 := by
      refine (tblGet_filter_key 0 (isRow 0x10128 0x40 8) a z.cnt).trans ?_
      rw [hcnt]
      rfl
    refine ⟨_, congrArg Host.Outcome.next (mbxRowNow_accepted h _), ⟨rfl, rfl, rfl⟩, rfl, fun a hr ha => ?_, ?_, fun k hk => ?_, ?_⟩
    · refine (cntGet_cntAdd_other (countersClear z) ha 1).trans ?_
      rw [hc, hr]
      rfl
    · refine (cntGet_cntAdd (countersClear z) 0x40020 1).trans ?_
      rw [hc, if_neg (by decide)]
      decide
    · refine (cntGet_cntAdd_other (countersClear z) (by omega) 1).trans ?_
      rw [hc, if_pos]
      interval_cases k <;> decide
    · exact hz.trans rfl
  · obtain ⟨hz, _, _, hlog⟩ := mbxEnter_rest h.enters
    intro k
    have hmet (bad : List Nat) : ∃ t, exec (.readFaults len pl bad) s = .next t ∧ done t ∧ t.mbx.reslen = 32 + 32 * k := by
      refine ⟨_, congrArg Host.Outcome.next (mbxRowNow_accepted h _), ⟨rfl, rfl, ?_⟩, ?_⟩
      · exact (faultsParity_nextTag _).trans rfl
      · refine (faultsRead_length _ _).trans ?_
        rw [hlog]
    refine ⟨?_, hmet⟩
    refine ⟨_, congrArg Host.Outcome.next (mbxRowNow_accepted h _), ⟨rfl, rfl, rfl⟩, ?_, ?_, ?_⟩
    · change z.mbx.log.drop (min (min (plWord (payload z) 0).toNat 127) z.mbx.log.length) = _
      rw [hlog]
    · refine (faultsRead_length _ _).trans ?_
      rw [hlog]
    · exact hz.trans (mbxAnswered_rest (faultsRead_parity_rest _ _))

end Sys2Proof.Machine
end

section

namespace Sys2Proof.Machine

/-! SET_TICK, SET_PROFILE and HOLD (R35, R425, R437). -/

section

variable {s z a : State} {code len : Nat} {pl : List Word}

theorem mbxRow_accepted (h : Accepts s code len pl z) (take : State → Nat → List Word → State) :
    mbxRow s code len pl take = take (mbxAccept z true) z.mbx.nextTag (payload z) := by
  unfold mbxRow mbxDeferred
  rw [h.enters]
  dsimp only
  rw [h.passes]
  rfl

/-- The state in which an accepted command is taken up. -/
theorem Accepts.accepted (h : Accepts s code len pl z) : MailboxOnly s (mbxAccept z true) := (mbxEnter_rest h.enters).1.trans rfl

theorem setBState_frame (b : BState) : Framed { s with bstate := b } (setBState s b) := by
  unfold setBState
  split
  next h => rw [← h]; rfl
  · exact (Logged.pulse _ 308).frame

theorem svcEnter_bstate : (svcEnter s).bstate = if s.bstate = .run then .service else s.bstate := by
  unfold svcEnter
  split
  · exact setBState_bstate _
  · rfl

theorem svcEnter_tick : (svcEnter s).tick = s.tick := by
  unfold svcEnter
  split
  · exact (setBState_frame _).tick
  · rfl

theorem svcEnter_svc : (svcEnter s).svc = s.svc := by
  unfold svcEnter
  split
  · exact (setBState_frame _).svc
  · rfl

/-- SET_TICK within the limits and admitted. -/
theorem setTickTake_pend {tag : Nat} {p : List Word} (hn : a.tick.pend = none)
    (hf : periodFits a.svc.profile (field (plWord p 0) 21 0) (field (plWord p 1) 21 0) = true)
    (hb : admitted a a.rel.img a.svc.profile (field (plWord p 0) 21 0) (field (plWord p 1) 21 0) (svcActive a) = true) :
    setTickTake a tag p = changePend a {
      tag := tag, m := plWide p 2, units := field (plWord p 0) 21 0, subtick := field (plWord p 1) 21 0, profile := none, fillOk := true
      voltOk := true } := by
  unfold periodFits at hf
  simp only [Bool.and_eq_true, Bool.or_eq_true, beq_iff_eq] at hf
  obtain ⟨⟨hr, hs⟩, hd⟩ := hf
  have h8 : (!periodRange a.svc.profile (field (plWord p 0) 21 0) || (field (plWord p 1) 21 0 != 0 && a.svc.profile != 3)) = false := by
    rw [hr]
    obtain h | h := hs <;> simp [h]
  unfold setTickTake
  simp only [hn, Option.isSome_none, Bool.false_eq_true, if_false, h8, hd, Bool.not_true, hb, Bool.true_eq_false, and_false]

/-- SET_PROFILE between profiles that may change in service. -/
theorem setProfileTake_pend {tag : Nat} {p : List Word} {q was : Nat} (hq : q = field (plWord p 0) 2 0) (hw : was = a.svc.profile)
    (hn : a.tick.pend = none) (hq1 : q ≠ 1) (hq3 : q ≠ 3) (hw1 : was ≠ 1) (hw3 : was ≠ 3) (hm : minTick q ≤ a.tick.units)
    (hf : profileFits a q = true) (hmir : q = 2 → ∀ k, k < 8 → cluMir a k ≠ 3)
    (hb : admitted a a.rel.img q a.tick.units a.tick.subtick (svcActive a) = true) :
    ∃ v b, setProfileTake a tag p = changePend { a with svc := { a.svc with fill := q == 2 && was != 2, vlowreq := v } }
      { tag := tag, m := plWide p 1, units := a.tick.units, subtick := a.tick.subtick, profile := some q, fillOk := !(q == 2 && was != 2)
        voltOk := b } := by
  have h2 : ¬ (q = 2 ∧ was ≠ 2 ∧ (List.range 8).any (fun k => cluMir a k == 3) = true) := by
    rintro ⟨h2, _, hany⟩
    obtain ⟨k, hk, h3⟩ := List.any_eq_true.mp hany
    exact hmir h2 k (List.mem_range.mp hk) (by simpa using h3)
  refine ⟨if was = 4 ∧ q ≠ 4 then false else a.svc.vlowreq, was != 4 || q == 4 || !a.svc.lowv, ?_⟩
  unfold setProfileTake
  simp only [hn, Option.isSome_none, Bool.false_eq_true, if_false, ← hq, ← hw, beq_eq_false_iff_ne.mpr hq1, beq_eq_false_iff_ne.mpr hq3,
    beq_eq_false_iff_ne.mpr hw1, beq_eq_false_iff_ne.mpr hw3, Bool.or_self, if_neg (Nat.not_lt.mpr hm), hf, Bool.not_true, if_neg h2, hb,
    Bool.and_false]

/-! HOLD. -/

theorem hmbComplete_cpl {tag st : Nat} (h : tag ≠ 0) : (tag, st) ∈ (hmbComplete s tag st).mbx.cpl := by
  unfold hmbComplete
  rw [if_neg h]
  dsimp only
  rw [pulse_mbx]
  exact List.mem_append_right _ (List.mem_singleton_self _)

theorem hmbComplete_frame (tag st : Nat) : Framed s (hmbComplete s tag st) := (Logged.hmbComplete s tag st).frame

theorem Framed.rel {t : State} (h : Framed s t) : t.rel = s.rel := by rw [h]

theorem holdFrom_bstate : (holdFrom s).bstate = .hold := setBState_bstate _

/-- A release that HOLD ends. -/
structure Abandoned (t : State) : Prop where
  next : t.rel.next = none
  phase : t.rel.phase = 5
  cause : t.rel.fcause = 6

theorem relFail_abandoned (tile st : Nat) : (relFail s 6 tile st).bstate = .hold ∧ Abandoned (relFail s 6 tile st) := by
  have hc (x : State) (k : Nat) : (cntAdd x k 1).bstate = x.bstate := rfl
  have h1 : (cntAdd (relRecord (holdEnter s) 6 tile) 0xB034 1).bstate = .hold :=
    (hc _ _).trans ((Logged.fltWrite (holdEnter s) 9 0 _ _).frame.bstate.trans holdFrom_bstate)
  unfold relFail
  dsimp only
  generalize cntAdd (relRecord (holdEnter s) 6 tile) 0xB034 1 = u at *
  have hf (r : Rel) := hmbComplete_frame (s := { u with rel := r }) s.rel.tag st
  exact ⟨(hf _).bstate.trans h1, by rw [(hf _).rel], by rw [(hf _).rel], by rw [(hf _).rel]⟩

theorem relDrop_abandoned {img : Image} (h : a.rel.next = some img) : Abandoned (relDrop a) ∧ (relDrop a).bstate = a.bstate := by
  unfold relDrop
  rw [h]
  dsimp only
  have hf (z : State) := hmbComplete_frame (s := z) a.rel.tag 2
  refine ⟨⟨by rw [(hf _).rel], by rw [(hf _).rel], by rw [(hf _).rel]⟩, (hf _).bstate.trans ?_⟩
  exact (Logged.fltWrite (cntAdd a 0xB034 1) 9 0 _ _).frame.bstate

/-- HOLD of a block that does not tick ends the release in hand and enters HOLD. -/
theorem holdTake_holds {tag : Nat} (ht : tag ≠ 0) (hb : (relAbandon a).bstate ≠ .run ∧ (relAbandon a).bstate ≠ .service)
    (hr : Abandoned (relAbandon a)) : (holdTake a tag).bstate = .hold ∧ (tag, 0) ∈ (holdTake a tag).mbx.cpl ∧ Abandoned (holdTake a tag) := by
  have hk : holdTake a tag = hmbComplete (setBState (relAbandon a) .hold) tag 0 := if_neg (by simp [hb])
  have hf := hmbComplete_frame (s := setBState (relAbandon a) .hold) tag 0
  have hrel : (holdTake a tag).rel = (relAbandon a).rel := by rw [hk, hf.rel, (setBState_frame _).rel]
  refine ⟨?_, ?_, by rw [hrel]; exact hr.next, by rw [hrel]; exact hr.phase, by rw [hrel]; exact hr.cause⟩
  · rw [hk, hf.bstate, setBState_bstate]
  · rw [hk]
    exact hmbComplete_cpl ht

end

/-- Settles O34: the changes wait with their parameters, and HOLD by the release in hand. -/
theorem tickAndProfileCommandsComplete : Obligations.TickAndProfileCommandsComplete := by
  unfold Obligations.TickAndProfileCommandsComplete
  intro s z len pl p a tag
  have ha {code : Nat} (h : Accepts s code len pl z) : MailboxOnly s a := h.accepted
  refine ⟨?_, ?_, fun h hn hb => ?_, fun img h hn hb => ?_, fun h hb => ?_⟩
  · intro h hn u sub hf hb
    have hk := setTickTake_pend (a := a) (tag := tag) (p := p) (by rw [ha h]; exact hn) (by rw [ha h]; exact hf) (by rw [ha h]; exact hb)
    refine ⟨_, congrArg Host.Outcome.next ((mbxRow_accepted h _).trans hk), ?_, ?_, ?_⟩
    · exact congrArg Tick.pend svcEnter_tick
    · refine (congrArg Tick.units svcEnter_tick).trans ?_
      rw [ha h]
    · refine svcEnter_bstate.trans ?_
      rw [ha h]
  · intro h hn q was hq1 hq3 hw1 hw3 hm hf hmir hb
    obtain ⟨v, b, hk⟩ := setProfileTake_pend (a := a) (tag := tag) (p := p) rfl (was := was) (by rw [ha h]) (by rw [ha h]; exact hn) hq1 hq3 hw1 hw3
      (by rw [ha h]; exact hm) (by rw [ha h]; exact hf) (by rw [ha h]; exact hmir) (by rw [ha h]; exact hb)
    refine ⟨_, _, congrArg Host.Outcome.next ((mbxRow_accepted h _).trans hk), congrArg Tick.pend svcEnter_tick, rfl, rfl, rfl, ?_, ?_⟩
    · refine (congrArg Svc.profile svcEnter_svc).trans ?_
      rw [ha h]
    · rw [Bool.not_eq_true', Bool.and_eq_false_iff, beq_eq_false_iff_ne, bne_eq_false_iff_eq]
      tauto
  · refine congrArg Host.Outcome.next ((mbxRow_accepted h _).trans ?_)
    have hd : relAbandon a = a := by
      have h1 : a.bstate = s.bstate := by rw [ha h]
      have h2 : a.rel.next = none := by rw [ha h]; exact hn
      have h3 : relCopying a = false := by
        rw [relCopying, h1]
        obtain hb | hb := hb <;> rw [hb] <;> rfl
      rw [relAbandon, h3, relDrop, h2]
      rfl
    have h1 : a.bstate = .run ∨ a.bstate = .service := by rw [ha h]; exact hb
    have h2 : a.svc.acts = s.svc.acts := by rw [ha h]
    change holdTake a tag = _
    rw [holdTake, hd, if_pos h1, h2]
  · have h3 : relCopying a = false := by
      rw [relCopying, ha h]
      obtain hb | hb := hb <;> simp [hb]
    have hr : relAbandon a = relDrop a := by rw [relAbandon, h3]; rfl
    obtain ⟨hab, hst⟩ := relDrop_abandoned (a := a) (img := img) (by rw [ha h]; exact hn)
    have hbs : a.bstate = s.bstate := by rw [ha h]
    obtain ⟨h1, h2, h4⟩ := holdTake_holds (a := a) h.tagged (by rw [hr, hst, hbs]; obtain hb | hb := hb <;> simp [hb]) (hr ▸ hab)
    exact ⟨_, congrArg Host.Outcome.next (mbxRow_accepted h _), h1, h2, h4.next, h4.phase, h4.cause⟩
  · have h3 : relCopying a = true := by rw [relCopying, ha h]; simp [hb]
    have hr : relAbandon a = relFail a 6 0 2 := by rw [relAbandon, h3]; rfl
    obtain ⟨hst, hab⟩ := relFail_abandoned (s := a) 0 2
    obtain ⟨h1, h2, h4⟩ := holdTake_holds (a := a) h.tagged (by rw [hr, hst]; simp) (hr ▸ hab)
    exact ⟨_, congrArg Host.Outcome.next (mbxRow_accepted h _), h1, h2, h4.phase, h4.cause⟩

end Sys2Proof.Machine
end

section

namespace Sys2Proof.Machine

/-! Service commands (R310, R372, R430, R443, R449, R450). -/

section

variable {s t a z : State} {tag n : Nat} {p : List Word}

theorem forNats_keeps {β : Type} {π : State → β} {f : State → Nat → State} (hf : ∀ z k, π (f z k) = π z) (l : List Nat) (s : State) :
    π (forNats l f s) = π s := foldl_keeps hf l s

/-! An action added under the command's tag. -/

theorem svcAdd_hasAct (x : SvcAct) : hasAct (svcAdd s tag x) tag x := by
  unfold hasAct svcAdd
  rw [svcEnter_svc]
  exact List.mem_append_right _ (List.mem_singleton_self _)

theorem svcAdd_bstate (x : SvcAct) : (svcAdd s tag x).bstate = if s.bstate = .run then .service else s.bstate := svcEnter_bstate

theorem svcAdd_svc (x : SvcAct) : (svcAdd s tag x).svc = { s.svc with acts := s.svc.acts ++ [{ tag := tag, act := x }] } := svcEnter_svc

theorem svcAdd_woken (x : SvcAct) : Woken (engGet s n) (engGet (svcAdd s tag x) n) := by
  have key (u : State) : Woken (engGet u n) (engGet (svcEnter u) n) := by
    unfold svcEnter setBState
    split
    · split
      · exact .refl _
      · exact (Logged.pulse { u with bstate := .service } 308).woken n
    · exact .refl _
  exact key { s with svc := { s.svc with acts := s.svc.acts ++ [{ tag := tag, act := x }] } }

theorem svcAdd_field (x : SvcAct) : (svcAdd s tag x).field = s.field := by
  unfold svcAdd svcEnter
  split
  · exact (setBState_frame _).field
  · rfl

/-- Wakes change neither the service state nor the block state. -/
structure Calls (s t : State) : Prop where
  svc : t.svc = s.svc
  bstate : t.bstate = s.bstate

theorem Calls.forNats {f : State → Nat → State} (hf : ∀ z k, Calls z (f z k)) (l : List Nat) (s : State) : Calls s (forNats l f s) :=
  ⟨forNats_keeps (fun z k => (hf z k).svc) l s, forNats_keeps (fun z k => (hf z k).bstate) l s⟩

theorem Calls.wakeEng (s : State) (k : Nat) : Calls s (wakeEng s k) := ⟨rfl, rfl⟩

theorem Calls.hasAct (h : Calls s t) {x : SvcAct} (hs : hasAct s tag x) : hasAct t tag x := by
  unfold Machine.hasAct
  rw [h.svc]
  exact hs

theorem Calls.svcActive (h : Calls s t) (k : Nat) : svcActive t k = svcActive s k := by
  unfold Machine.svcActive svcEng
  rw [h.svc]

/-! Each command as the Badger takes it up. -/

theorem retireTake_adds (hw : bitAt (plWord p 0) 8 = false) (hn : n = field (plWord p 0) 6 0) (h64 : n < 64) (hp : isPaired a = false)
    (ha : svcActive a n = true) (hr : retPending a n = false) :
    retireTake a tag p = forNats (pairOf a n) wakeEng (svcAdd a tag (.retire n (bitAt (plWord p 0) 9) false)) := by
  unfold retireTake
  simp only [hw, ← hn, Bool.false_eq_true, if_false, hp, false_and, or_false, if_neg (Nat.not_le.mpr h64), ha, hr, Bool.not_true, Bool.or_self]

theorem migrateTake_adds {first count : Nat} (hf : first = field (plWord p 1) 16 0) (hc : count = field (plWord p 2) 14 0)
    (hn : n = field (plWord p 0) 6 0) (h0 : 0 < count) (hle : first % 2 ^ 14 + count ≤ 2 ^ 14) (h64 : n < 64)
    (hh : cluOf n = homeOf first) (hp : isPaired a = false) (ha : svcActive a n = true) :
    ∃ l, migrateTake a tag p = forNats l (fun z n => forNats (pairOf z n) wakeEng z)
      (svcAdd a tag (.migrate n first count (futureTick a (plWide p 3)))) := by
  have h9 : ¬ (64 ≤ n ∨ (cluOf n ≠ homeOf first ∧ (isMirrored a = false ∨ cluOf n ≠ homeOf first ^^^ 1))) := by
    rintro (h | h)
    · omega
    · exact h.1 hh
  refine ⟨n :: (((ctxList a).filter (fun q => decide (first ≤ q.1 ∧ q.1 < first + count))).map (fun q => ownerWith a q.1 q.2)).foldl
    (fun l n => addNat n l) [], ?_⟩
  unfold migrateTake
  simp only [← hf, ← hc, ← hn, if_neg (Nat.pos_iff_ne_zero.mp h0), if_neg (Nat.not_lt.mpr hle), if_neg h9, hp, Bool.false_and,
    Bool.false_eq_true, if_false, ha, Bool.not_true]

theorem remapTake_adds {sp : Nat} (hn : n = field (plWord p 0) 6 0) (hsp : sp = field (plWord p 0) 14 8) (h1 : n < 96) (h2 : sp < 96)
    (hb : bankOf n = bankOf sp) (he : (mothGet a sp).en = false) (hz : (mothGet a sp).npin = 0) :
    remapTake a tag p = svcAdd a tag (.remap n sp (bitAt (plWord p 0) 31)) := by
  have h9 : ¬ (96 ≤ n ∨ 96 ≤ sp ∨ bankOf n ≠ bankOf sp) := by
    rintro (h | h | h)
    · omega
    · omega
    · exact h hb
  unfold remapTake
  simp only [← hn, ← hsp, if_neg h9, he, hz, Bool.false_or, bne_self_eq_false, Bool.false_eq_true, if_false]

/-! SWAP_UBANK marks every named engine. -/

/-- One engine marked for its swap. -/
def swapMark (z : State) (n : Nat) : State := wakeEng (engMap z n (fun e => { e with swapPend := true })) n

theorem swapMark_calls (z : State) (k : Nat) : Calls z (swapMark z k) := ⟨rfl, rfl⟩

theorem swapTake_adds (h0 : maskList (plWide p 0) ≠ []) (hp : maskPairs a (plWide p 0) = true)
    (hi : ∀ e, e ∈ maskList (plWide p 0) → (engGet a e).inact = 2) :
    swapUbankTake a tag p = svcAdd (forNats (maskList (plWide p 0)) swapMark a) tag (.swapUbank (plWide p 0) (futureTick a (plWide p 2))) := by
  have hany : (maskList (plWide p 0)).any (fun n => (engGet a n).inact != 2) = false :=
    List.any_eq_false.mpr fun e he => by simp [hi e he]
  unfold swapUbankTake
  simp only [List.isEmpty_iff, h0, if_false, hp, Bool.not_true, Bool.false_eq_true, hany]
  rfl

theorem wakeEng_woken (m : Nat) : Woken (engGet s n) (engGet (wakeEng s m) n) := (Logged.wakeEng s m).woken n

theorem swapMark_other {k : Nat} (h : n ≠ k) : Woken (engGet s n) (engGet (swapMark s k) n) := by
  have hw := wakeEng_woken (s := engMap s k (fun e => { e with swapPend := true })) (n := n) k
  rwa [engGet_engMap_other _ h] at hw

theorem swapMark_self : (engGet (swapMark s n) n).swapPend = true ∧ (engGet (swapMark s n) n).ubank = (engGet s n).ubank := by
  have hw := wakeEng_woken (s := engMap s n (fun e => { e with swapPend := true })) (n := n) n
  rw [engGet_engMap] at hw
  unfold swapMark
  rw [hw.alike]
  exact ⟨rfl, rfl⟩

theorem forNats_swapMark (l : List Nat) (s : State) (h : n ∈ l ∨ (engGet s n).swapPend = true) :
    (engGet (forNats l swapMark s) n).swapPend = true ∧ (engGet (forNats l swapMark s) n).ubank = (engGet s n).ubank := by
  unfold forNats
  induction l generalizing s with
  | nil => exact ⟨h.resolve_left (by simp), rfl⟩
  | cons k l ih =>
    rw [List.foldl_cons]
    by_cases hk : n = k
    · subst hk
      obtain ⟨h1, h2⟩ := swapMark_self (s := s) (n := n)
      obtain ⟨i1, i2⟩ := ih (swapMark s n) (.inr h1)
      exact ⟨i1, i2.trans h2⟩
    · have hw := swapMark_other (s := s) hk
      have h' : n ∈ l ∨ (engGet (swapMark s k) n).swapPend = true := by
        rw [hw.alike]
        exact h.imp (fun h => (List.mem_cons.mp h).resolve_left hk) id
      obtain ⟨i1, i2⟩ := ih (swapMark s k) h'
      refine ⟨i1, i2.trans ?_⟩
      rw [hw.alike]

/-! RESTORE_ENGINE powers the engine. -/

theorem tilesClean_bstate (cls inst : Nat) : (tilesClean s cls inst).bstate = s.bstate := by
  unfold tilesClean
  split <;> rfl

theorem domClear_bstate (d : Nat) : (domClear s d).bstate = s.bstate := by
  have hq (l : List Nat) (s : State) : (forNats l queuesClear s).bstate = s.bstate :=
    forNats_keeps (π := State.bstate) (f := queuesClear) (fun _ _ => rfl) l s
  have hw (s : State) (lo hi : Nat) : (winReset s lo hi).bstate = s.bstate := rfl
  have hb (s : State) (b : Nat) (c : Bool) : (bankReset s b c).bstate = s.bstate := rfl
  unfold domClear
  dsimp only
  split_ifs <;> simp [hq, hw, hb, tilesClean_bstate]

theorem domOn_bstate (d : Nat) : (domOn s d).bstate = s.bstate := by
  unfold domOn
  rw [← domClear_bstate (s := s) d]
  generalize domClear s d = z
  dsimp only
  split
  · rfl
  · split <;> rfl

theorem domOn_acts (d : Nat) : (domOn s d).svc.acts = s.svc.acts := by
  rw [domOn_svc]
  have h : (domClear s d).svc.acts = s.svc.acts := by rw [domClear_svc]
  exact h

/-- An engine whose restore has begun. -/
theorem restorePower_rest (n : Nat) : (restorePower s n).svc.acts = s.svc.acts ∧ (restorePower s n).bstate = s.bstate ∧
    (svcEng (restorePower s n) n).st = 5 ∧ domStat (restorePower s n) n = 1 := by
  have h1 : (if domStat s (64 + cluOf n) = 1 then s else domOn s (64 + cluOf n)).svc.acts = s.svc.acts ∧
      (if domStat s (64 + cluOf n) = 1 then s else domOn s (64 + cluOf n)).bstate = s.bstate := by
    split
    · exact ⟨rfl, rfl⟩
    · exact ⟨domOn_acts _, domOn_bstate _⟩
  unfold restorePower
  dsimp only
  generalize (if domStat s (64 + cluOf n) = 1 then s else domOn s (64 + cluOf n)) = u at h1 ⊢
  refine ⟨(domOn_acts n).trans h1.1, (domOn_bstate n).trans h1.2, ?_, domStat_domOn u n⟩
  have h : svcEng (svcEngMap (domOn u n) n (fun v => { v with st := 5 })) n = { svcEng (domOn u n) n with st := 5 } := by
    rw [svcEng, svcEngMap, tblGet_tblSet_self]
  rw [h]

theorem restoreTake_adds (hn : n = field (plWord p 0) 6 0) (hp : isPaired a = false) (hs : (svcEng a n).st = 3 ∨ (svcEng a n).st = 4) :
    restoreTake a tag p = svcAdd (if (restoreInHand a (cluOf n)).isSome then a else forNats (pairOf a n) restorePower a) tag
      (.restore n (bitAt (plWord p 0) 8) (futureTick a (plWide p 1)) false) := by
  have h2 : ¬ ((svcEng a n).st ≠ 3 ∧ (svcEng a n).st ≠ 4) := by omega
  unfold restoreTake
  simp only [← hn, hp, Bool.false_and, Bool.false_eq_true, if_false, if_neg h2]

end

/-- Settles O35: each command adds its action under its tag, after what it does at once. -/
theorem serviceCommandsComplete : Obligations.ServiceCommandsComplete := by
  unfold Obligations.ServiceCommandsComplete
  intro s z len pl hp p w n tag moved
  let a := mbxAccept z true
  have ha {code : Nat} (h : Accepts s code len pl z) : MailboxOnly s a := h.accepted
  have hm {code : Nat} (h : Accepts s code len pl z) (u : State) (x : SvcAct) (hu : u.bstate = a.bstate) : moved (svcAdd u tag x) := by
    refine (svcAdd_bstate x).trans ?_
    rw [hu, ha h]
  refine ⟨fun h hw h64 hact hr => ?_, fun h hst => ?_, ?_, ?_, ?_⟩
  · have hk := retireTake_adds (a := a) (tag := tag) (p := p) hw rfl h64 (by rw [ha h]; exact hp) (by rw [ha h]; exact hact)
      (by rw [ha h]; exact hr)
    have hc := Calls.forNats Calls.wakeEng (pairOf a n) (svcAdd a tag (.retire n (bitAt w 9) false))
    refine ⟨_, congrArg Host.Outcome.next ((mbxRow_accepted h _).trans hk), hc.hasAct (svcAdd_hasAct _), hc.bstate.trans (hm h a _ rfl), ?_⟩
    rw [hc.svcActive, svcActive, svcEng, svcAdd_svc, ha h]
    exact hact
  · have hk := restoreTake_adds (a := a) (tag := tag) (p := p) rfl (by rw [ha h]; exact hp) (by rw [ha h]; exact hst)
    have hfut : futureTick a (plWide p 1) = futureTick s (plWide p 1) := by rw [ha h]; rfl
    have hin : restoreInHand a (cluOf n) = restoreInHand s (cluOf n) := by rw [ha h]; rfl
    have hpair : pairOf a n = [n] := by
      rw [pairOf, show isPaired a = false by rw [ha h]; exact hp]
      rfl
    rw [hfut] at hk
    refine ⟨_, congrArg Host.Outcome.next ((mbxRow_accepted h _).trans hk), svcAdd_hasAct _, fun hnone => ?_, fun hsome => ?_, ?_⟩
    · rw [svcEng, domStat, svcAdd_svc, hin, hnone, hpair]
      obtain ⟨_, _, h5, h1⟩ := restorePower_rest (s := a) n
      exact ⟨h5, h1⟩
    · rw [svcEng, domStat, svcAdd_svc, hin, hsome, if_pos rfl, ha h]
      exact ⟨rfl, rfl⟩
    · refine hm h _ _ ?_
      split
      · rfl
      · exact forNats_keeps (π := State.bstate) (fun u k => (restorePower_rest (s := u) k).2.1) _ a
  · intro h first count h0 hle h64 hh hact
    obtain ⟨l, hk⟩ := migrateTake_adds (a := a) (tag := tag) (p := p) rfl rfl rfl h0 hle h64 hh (by rw [ha h]; exact hp) (by rw [ha h]; exact hact)
    have hfut : futureTick a (plWide p 3) = futureTick s (plWide p 3) := by rw [ha h]; rfl
    rw [hfut] at hk
    have hc := Calls.forNats (f := fun z n => forNats (pairOf z n) wakeEng z) (fun u k => Calls.forNats Calls.wakeEng _ u) l
      (svcAdd a tag (.migrate n first count (futureTick s (plWide p 3))))
    exact ⟨_, congrArg Host.Outcome.next ((mbxRow_accepted h _).trans hk), hc.hasAct (svcAdd_hasAct _), hc.bstate.trans (hm h a _ rfl)⟩
  · intro h mask h0 hpairs hi
    have hk := swapTake_adds (a := a) (tag := tag) (p := p) h0 (by rw [ha h]; exact hpairs) (by rw [ha h]; exact hi)
    have hfut : futureTick a (plWide p 2) = futureTick s (plWide p 2) := by rw [ha h]; rfl
    rw [hfut] at hk
    refine ⟨_, congrArg Host.Outcome.next ((mbxRow_accepted h _).trans hk), svcAdd_hasAct _,
      hm h _ _ (Calls.forNats swapMark_calls _ a).bstate, fun e he => ?_⟩
    obtain ⟨h1, h2⟩ := forNats_swapMark (n := e) (maskList mask) a (.inl he)
    rw [(svcAdd_woken (n := e) _).alike]
    refine ⟨h1, h2.trans ?_⟩
    rw [ha h]
    rfl
  · intro h sp h1 h2 hb he hz
    have hk := remapTake_adds (a := a) (tag := tag) (p := p) rfl rfl h1 h2 hb (by rw [ha h]; exact he) (by rw [ha h]; exact hz)
    refine ⟨_, congrArg Host.Outcome.next ((mbxRow_accepted h _).trans hk), svcAdd_hasAct _, hm h a _ rfl, ?_⟩
    rw [svcAdd_field, ha h]

end Sys2Proof.Machine
end

section

namespace Sys2Proof.Machine

/-! The other deferred commands (R95, R307, R326, R388, R389, R412 to R416). -/

section

variable {s t a z : State} {tag n : Nat} {p : List Word}

/-! What events, fault records and completions leave of an engine's memories and of the references. -/

theorem Woken.memories {e f : Engine} (h : Woken e f) : f.imem = e.imem ∧ f.dmem = e.dmem := by
  rw [h.alike]
  exact ⟨rfl, rfl⟩

theorem Framed.refs (h : Framed s t) : t.mem.refs = s.mem.refs := by rw [h]

theorem refOf_of_framed (h : Framed s t) (cls inst tile : Nat) : refOf t cls inst tile = refOf s cls inst tile := by
  unfold refOf srcInst isMirrored
  rw [h.refs, h.svc]

/-! RELOAD_TILE. -/

theorem svcEnter_woken : Woken (engGet s n) (engGet (svcEnter s) n) := by
  unfold svcEnter setBState
  split
  · split
    · exact .refl _
    · exact (Logged.pulse { s with bstate := .service } 308).woken n
  · exact .refl _

/-- The checks of RELOAD_TILE for a tile of engine memory pass. -/
theorem reloadTake_checked {bytes : List Byte} {bad : Bool} {cls inst tile : Nat} (hc : cls = field (plWord p 0) 2 0)
    (hi : inst = field (plWord p 0) 14 8) (ht : tile = field (plWord p 1) 21 0)
    (hcls : cls = 0 ∨ (cls = 1 ∧ bitAt (plWord p 0) 31 = true)) (h64 : inst < 64) (hd : domStat a inst = 1) (hlt : tile < tileCount a cls inst) :
    reloadTake a tag p bytes bad =
      if (refOf (refFail a cls inst tile bad) cls inst tile).isNone then hmbComplete (cntAdd (refFail a cls inst tile bad) 0xA038 1) tag 0xD
      else match repairBytes (refFail a cls inst tile bad) cls inst tile bytes with
        | some bs => hmbComplete (cntAdd (tilePut (svcEnter (refFail a cls inst tile bad)) cls inst tile bs) 0xA034 1) tag 0
        | none => hmbComplete (cntAdd (repairSeen (refFail a cls inst tile bad) cls inst tile) 0xA038 1) tag 0xB := by
  have h2 : cls ≠ 2 := by omega
  have h9 : ¬ (4 ≤ cls ∨ (cls < 2 ∧ 64 ≤ inst) ∨ (cls = 2 ∧ 8 ≤ inst)) := by omega
  have hA : ¬ ((cls = 1 ∨ cls = 2) ∧ bitAt (plWord p 0) 31 = false) := by
    rintro ⟨h | h, hb⟩
    · obtain h0 | ⟨_, h1⟩ := hcls
      · omega
      · rw [h1] at hb; cases hb
    · exact h2 h
  unfold reloadTake
  simp only [← hc, ← hi, ← ht, if_neg h9, if_neg h2, hd, bne_self_eq_false, Bool.false_eq_true, and_false, if_false, if_neg hA,
    if_neg (Nat.not_le.mpr hlt)] <;> rfl

theorem tileCure_rest (cls inst tile : Nat) : (tileCure s cls inst tile).eng = s.eng ∧ (tileCure s cls inst tile).bstate = s.bstate := by
  unfold tileCure
  dsimp only
  split <;> exact ⟨rfl, rfl⟩

theorem engTilePut_memories (n x : Nat) (bs : List Byte)
    (hm : (engGet t n).imem = (engGet s n).imem ∧ (engGet t n).dmem = (engGet s n).dmem) :
    (engGet (engTilePut t n x bs) n).imem = (engGet (engTilePut s n x bs) n).imem ∧
      (engGet (engTilePut t n x bs) n).dmem = (engGet (engTilePut s n x bs) n).dmem := by
  unfold engTilePut
  dsimp only
  rw [engGet_of_eng (tileCure_rest _ _ _).1, engGet_of_eng (tileCure_rest _ _ _).1, engGet_engMap, engGet_engMap]
  split
  · exact ⟨hm.1, by rw [hm.2]⟩
  · exact ⟨by rw [hm.1], hm.2⟩

theorem engTilePut_bstate (n x : Nat) (bs : List Byte) : (engTilePut s n x bs).bstate = s.bstate := (tileCure_rest _ _ _).2

theorem tilePut_engine {cls : Nat} (h : cls ≠ 2) (inst tile : Nat) (bs : List Byte) :
    tilePut s cls inst tile bs = engTilePut s inst (64 * tile + (if cls = 1 then 0x10000000 else 0)) bs := by
  rw [tilePut, if_neg h]

/-- A reference entry that fails its parity as it is read is gone. -/
theorem refFail_gone (cls inst tile : Nat) : refOf (refFail s cls inst tile true) cls inst tile = none := by
  unfold refFail
  dsimp only
  split
  · let s1 := parityRecord s 3 (refAt cls (srcInst s cls inst) tile) (refAt cls (srcInst s cls inst) tile)
    have hf : Framed s s1 := (Logged.fltWrite s 3 _ _ _).frame
    have hk : srcInst s1 cls inst = srcInst s cls inst := by
      unfold srcInst isMirrored
      rw [hf.svc]
    change tblGet none (tileKey cls (srcInst s1 cls inst) tile) (tblSet none (tileKey cls (srcInst s cls inst) tile) none s1.mem.refs) = none
    rw [hk, tblGet_tblSet_self]
  next h => simpa using h

theorem refFail_woken (cls inst tile : Nat) (b : Bool) : Woken (engGet s n) (engGet (refFail s cls inst tile b) n) := by
  unfold refFail
  dsimp only
  split
  · exact (Logged.fltWrite s 3 _ _ _).woken n
  · exact .refl _

/-! The seal. -/

theorem sealOpen_open : (sealOpen s).sett.open_ = true := by
  unfold sealOpen
  exact (settEvent_sett 1 0 0 0 id).2

/-! Enumeration. -/

theorem portSet_rest (k : Nat) (x : Port) : (portSet s k x).chain.offer = s.chain.offer ∧ (portSet s k x).mbx = s.mbx := by
  unfold portSet
  split <;> exact ⟨rfl, rfl⟩

theorem frameSend_rest (k type src hops : Nat) (wrap past : Bool) (bodies : List W128) :
    (frameSend s k type src hops wrap past bodies).chain.offer = s.chain.offer ∧ (frameSend s k type src hops wrap past bodies).mbx = s.mbx :=
  portSet_rest k _

theorem enumStart_rest (tag : Nat) : (enumStart s tag).chain.offer = some ((ktb s).setWidth 32, tag, ktb s) ∧ (enumStart s tag).mbx = s.mbx := by
  unfold enumStart
  dsimp only
  split
  · obtain ⟨h1, h2⟩ := frameSend_rest (s := { s with chain := { s.chain with offer := some ((ktb s).setWidth 32, tag, ktb s) } })
      0 2 s.chain.unit 0 false false [offerBody 2 false false ((ktb s).setWidth 32)]
    exact ⟨h1, h2⟩
  · exact ⟨rfl, rfl⟩

theorem mbxEnter_cpl {code len : Nat} {pl : List Word} (he : mbxEnter s code len pl = some z) : z.mbx.cpl = s.mbx.cpl := by
  unfold mbxEnter at he
  split at he
  · cases he
  · split at he
    · split at he
      · cases he
        rfl
      · cases he
    · cases he
      rfl

/-! The release. -/

theorem stageSeen_good (h : ∀ k, tileBad s 3 0 k = false) (l : List Nat) : stageSeen s l = s := by
  have hf : l.filter (fun t => tileBad s 3 0 t) = [] := List.filter_eq_nil_iff.mpr fun k _ => by simp [h k]
  rw [stageSeen, hf]
  rfl

theorem relChoose_staged {imgA imgB : SrcImage} {src : Nat} (hs : src = 1) (hb : ∀ k, tileBad a 3 0 k = false) (hv : srcValid 2097152 (stageHead a) = true)
    (hp : preCheck { a with rel := { a.rel with ambiguous := false } } (stageHead a) (imageOf 2 0 (stageHead a) (stagePre a (stageHead a))) = 0)
    (hk : blocksOk a.io.keys (imageOf 2 0 (stageHead a) (stagePre a (stageHead a))) = none) :
    relChoose a tag src imgA imgB = { a with rel := { a.rel with
      ambiguous := false, next := some (imageOf 2 0 (stageHead a) (stagePre a (stageHead a))), phaseBefore := a.rel.phase, phase := 1, tag := tag } } := by
  unfold relChoose
  simp only [hs, if_true, stageSeen_good hb, hv]
  unfold relCheck
  simp only [hp, hk]

/-! LOAD_UBANK. -/

theorem loadUbankTake_loads (named : List (Nat × Nat)) (es : List Nat) (hn : named = ubankBlocks p) (he : es = maskList (plWide p 0))
    (hn0 : named ≠ []) (he0 : es ≠ []) (hp : maskPairs a (plWide p 0) = true)
    (hon : ∀ n, n ∈ es → domStat a n = 1 ∧ (engGet a n).swapPend = false ∧ (engGet a n).inact ≠ 1)
    (hgood : ∀ b, b ∈ named → blockTilesBad a b = [])
    (hchk : blocksCheck a.io.keys 3 es (fun n => bankOfEng (engGet a n) (engGet a n).ubank) []
      (named.map (fun b => memBytes a.mem.staging b.1 b.2)) = none)
    (hfor : ∀ n, n ∈ es → ∀ b, b ∈ named.map (fun b => memBytes a.mem.staging b.1 b.2) →
      pbFor b n = true ∧ (pbKind b = 1 → costRaised a n b = false))
    (hgold : (goldSet (forNats es (fun x n => engMap (loadBank x (named.map (fun b => memBytes a.mem.staging b.1 b.2)) n) n
      (fun e => { e with inact := 1 })) a) []).length ≤ 4) :
    loadUbankTake a tag p = svcAdd (forNats es (fun x n => engMap (loadBank x (named.map (fun b => memBytes a.mem.staging b.1 b.2)) n) n
      (fun e => { e with inact := 1 })) a) tag (.loadUbank (plWide p 0) named) := by
  have h1 : (named.isEmpty || es.isEmpty) = false := by simp [List.isEmpty_eq_false_iff, hn0, he0]
  have h2 : es.any (fun n => domStat a n != 1 || (engGet a n).swapPend || (engGet a n).inact == 1) = false :=
    List.any_eq_false.mpr fun n hn => by
      obtain ⟨h1, h2, h3⟩ := hon n hn
      simp [h1, h2, h3]
  have h3 : named.find? (fun b => !(blockTilesBad a b).isEmpty) = none := List.find?_eq_none.mpr fun b hb => by simp [hgood b hb]
  have h4 : es.any (fun n => (named.map (fun b => memBytes a.mem.staging b.1 b.2)).any (fun b => !pbFor b n)) = false :=
    List.any_eq_false.mpr fun n hn => by
      rw [Bool.not_eq_true]
      exact List.any_eq_false.mpr fun b hb => by simp [(hfor n hn b hb).1]
  have h5 : es.any (fun n => (named.map (fun b => memBytes a.mem.staging b.1 b.2)).any (fun b => pbKind b == 1 && costRaised a n b)) = false :=
    List.any_eq_false.mpr fun n hn => by
      rw [Bool.not_eq_true]
      refine List.any_eq_false.mpr fun b hb => ?_
      by_cases hk : pbKind b = 1
      · simp [(hfor n hn b hb).2 hk]
      · simp [hk]
  unfold loadUbankTake
  simp only [← hn, ← he, h1, Bool.false_eq_true, if_false, hp, Bool.not_true, h2, h3, hchk, h4, h5, if_neg (Nat.not_lt.mpr hgold)]

end

/-- Settles O36: each command as the Badger takes it up, by the checks that pass. -/
theorem otherDeferredCommandsComplete : Obligations.OtherDeferredCommandsComplete := by
  unfold Obligations.OtherDeferredCommandsComplete
  intro s z len pl p w a tag
  have ha {code : Nat} (h : Accepts s code len pl z) : MailboxOnly s a := h.accepted
  have hcpl (u : State) {code : Nat} (h : Accepts s code len pl z) (st : Nat) : (tag, st) ∈ (hmbComplete u tag st).mbx.cpl := hmbComplete_cpl h.tagged
  refine ⟨?_, ?_, fun h hp hst => ?_, fun h => ?_, fun h hh ho => ?_, ?_, ?_⟩
  · intro bytes bs h cls inst tile hcls h64 hd hlt href hrep
    have hk := reloadTake_checked (a := a) (tag := tag) (p := p) (bytes := bytes) (bad := false) rfl rfl rfl hcls h64
      (by rw [ha h]; exact hd) (by rw [ha h]; exact hlt)
    have hz : refFail a cls inst tile false = a := rfl
    have hr : refOf a cls inst tile = refOf s cls inst tile := by rw [ha h]; rfl
    have hb : repairBytes a cls inst tile bytes = some bs := by rw [ha h]; exact hrep
    rw [hz, hr, Option.isNone_eq_false_iff.mpr href, hb] at hk
    have h2 : cls ≠ 2 := by omega
    let u := cntAdd (tilePut (svcEnter a) cls inst tile bs) 0xA034 1
    have hw : Woken (engGet u inst) (engGet (hmbComplete u tag 0) inst) := (Logged.hmbComplete u tag 0).woken inst
    have hm := engTilePut_memories (s := s) (t := svcEnter a) inst (64 * tile + (if cls = 1 then 0x10000000 else 0)) bs (by
      have := (svcEnter_woken (s := a) (n := inst)).memories
      rw [ha h] at this
      rw [ha h]
      exact this)
    rw [← tilePut_engine h2, ← tilePut_engine h2] at hm
    refine ⟨hmbComplete u tag 0, congrArg Host.Outcome.next ((mbxRow_accepted h _).trans hk), hcpl u h 0, ?_, ?_, ?_⟩
    · rw [(hmbComplete_frame tag 0).bstate]
      change (tilePut (svcEnter a) cls inst tile bs).bstate = _
      rw [tilePut_engine h2, engTilePut_bstate, svcEnter_bstate, ha h]
    · exact hw.memories.1.trans hm.1
    · exact hw.memories.2.trans hm.2
  · intro bytes h cls inst tile hcls h64 hd hlt
    have hk := reloadTake_checked (a := a) (tag := tag) (p := p) (bytes := bytes) (bad := true) rfl rfl rfl hcls h64
      (by rw [ha h]; exact hd) (by rw [ha h]; exact hlt)
    let v := refFail a cls inst tile true
    have hg : refOf v cls inst tile = none := refFail_gone ..
    rw [show refOf (refFail a cls inst tile true) cls inst tile = none from hg] at hk
    let u := cntAdd v 0xA038 1
    have hw : Woken (engGet u inst) (engGet (hmbComplete u tag 0xD) inst) := (Logged.hmbComplete u tag 0xD).woken inst
    have hm : Woken (engGet s inst) (engGet (hmbComplete u tag 0xD) inst) := by
      have := (refFail_woken (s := a) (n := inst) cls inst tile true).trans hw
      rwa [show engGet a inst = engGet s inst by rw [ha h]; rfl] at this
    refine ⟨hmbComplete u tag 0xD, congrArg Host.Outcome.next ((mbxRow_accepted h _).trans hk), hcpl u h 0xD, ?_, hm.memories⟩
    rw [refOf_of_framed (hmbComplete_frame tag 0xD)]
    exact hg
  · have hk : openSealTake a tag = hmbComplete (if a.sett.open_ then a else sealOpen a) tag 0 := by
      have h1 : a.sett.pin = true := by rw [ha h]; exact hp
      have h2 : a.sett.st = 3 := by rw [ha h]; exact hst
      simp [openSealTake, h1, h2]
    refine ⟨_, congrArg Host.Outcome.next ((mbxRow_accepted h _).trans hk), hcpl _ h 0, ?_⟩
    rw [(hmbComplete_frame tag 0).sett]
    split
    next h => exact h
    · exact sealOpen_open
  · refine ⟨_, congrArg Host.Outcome.next (mbxRow_accepted h _), hcpl (sealClose a) h 0, ?_⟩
    rw [show closeSealTake (mbxAccept z true) z.mbx.nextTag = hmbComplete (sealClose a) tag 0 from rfl, (hmbComplete_frame tag 0).sett]
    exact sealClose_sett.2
  · have hk : enumerateTake a tag = enumStart a tag := by
      have h1 : chnHead a = true := by rw [ha h]; exact hh
      have h2 : a.chain.offer = none := by rw [ha h]; exact ho
      simp [enumerateTake, h1, h2]
    refine ⟨_, congrArg Host.Outcome.next ((mbxRow_accepted h _).trans hk), ?_, ?_⟩
    · rw [(enumStart_rest tag).1, ha h]
      rfl
    · rw [(enumStart_rest tag).2]
      exact (show a.mbx.cpl = z.mbx.cpl from rfl).trans (mbxEnter_cpl h.enters)
  · intro h es named blocks loading hn0 he0 hp hon hgood hchk hfor hgold
    have hk := loadUbankTake_loads (a := a) (tag := tag) (p := p) named es rfl rfl hn0 he0 (by rw [ha h]; exact hp) (by rw [ha h]; exact hon)
      (by rw [ha h]; exact hgood) (by rw [ha h]; exact hchk) (by rw [ha h]; exact hfor)
      (by rw [show a.mem = s.mem by rw [ha h]]; exact hgold)
    refine congrArg Host.Outcome.next ((mbxRow_accepted h _).trans (hk.trans ?_))
    rw [show a.mem = s.mem by rw [ha h]]
  · intro imgA imgB h hw1 hd img hb hv hp hko
    have hw : (plWord p 0).toNat = 1 := by rw [show plWord p 0 = 1 from hw1]; rfl
    have h1 : stageHead a = hd := by rw [ha h]; rfl
    have h2 : stagePre a hd = stagePre s hd := by rw [ha h]; rfl
    have hk := relChoose_staged (a := a) (tag := tag) (imgA := imgA) (imgB := imgB) hw (by rw [ha h]; exact hb) (by rw [h1]; exact hv)
      (by rw [h1, h2]; exact hp) (by rw [h1, h2, ha h]; exact hko)
    refine ⟨_, congrArg Host.Outcome.next ((mbxRow_accepted h _).trans hk), ?_, rfl, rfl, ?_, ?_⟩
    · change some (imageOf 2 0 (stageHead a) (stagePre a (stageHead a))) = _
      rw [h1, h2]
    · change a.bstate = _
      rw [ha h]
    · change a.eng = _
      rw [ha h]

end Sys2Proof.Machine
end

section
/-! The host's registers: which addresses hold a 64-bit register, and what a write or a read of one does. -/

namespace Sys2Proof.Machine

variable {s : State} {a : Nat}

/-- The addresses of the low words of the 64-bit registers. -/
def lowWords : List Nat :=
  [0x6008, 0x6010, 0x6018, 0x6048, 0xB000, 0xB008, 0x10008, 0x10010, 0x10018, 0x10020, 0x10038, 0x10040, 0x180C18,
   0x400018, 0x401018, 0x402018, 0x403018, 0x404018, 0x405018, 0x406018, 0x407018]

/-- A member of a row of registers is one of its places. -/
theorem isRow_iff {base stride count : Nat} (hs : 0 < stride) :
    isRow base stride count a = true ↔ ∃ k, k < count ∧ a = base + stride * k := by
  unfold isRow inRow
  constructor
  · intro h
    split at h
    next c =>
      obtain ⟨hb, hm, hk⟩ := c
      refine ⟨_, hk, ?_⟩
      have := Nat.div_add_mod (a - base) stride
      omega
    next => cases h
  · rintro ⟨k, hk, rfl⟩
    simp [Nat.mul_div_cancel_left _ hs, hk]

theorem isLow64_mem (h : isLow64 a = true) : a ∈ lowWords := by
  unfold isLow64 at h
  rw [Bool.or_eq_true, Bool.or_eq_true, hasNat_iff, beq_iff_eq, isRow_iff (by omega)] at h
  obtain (h | h) | ⟨k, hk, h⟩ := h
  · exact List.mem_append_left [0x180C18, 0x400018, 0x401018, 0x402018, 0x403018, 0x404018, 0x405018, 0x406018, 0x407018] h
  · rw [h]
    decide
  · rw [h]
    interval_cases k <;> decide

/-- The high word of a 64-bit register is no low word, and stands in the same domain and behind the same lock. -/
theorem lowWord_facts : ∀ a ∈ lowWords, a % 8 = 0 ∧ winMapped a = true ∧ isLow64 (a + 4) = false ∧ regDomain (a + 4) = regDomain a ∧
    (a < 0x200000 ∨ 0x400000 ≤ a ∧ a + 4 < 0x408000) ∧ winTiled a = false ∧ a ≠ 0x4020 ∧ a ≠ 0x40010 ∧
    isRow 0x4108 0x20 8 a = false ∧ isRow 0x1012C 0x40 8 a = false ∧ isRow 0x27A00 0x10 8 a = false ∧
    isRow 0x200020 0x1000 67 a = false ∧ isRow 0x200018 0x1000 67 a = false := by decide

theorem hostRefused_low (ha : a < 0x200000) : hostRefused s a = false := by
  unfold hostRefused
  rw [if_neg (by omega), if_neg (by omega)]

theorem hostRefused_trace (hl : 0x400000 ≤ a) (hh : a < 0x408000) : hostRefused s a = !dbgOpen s := by
  unfold hostRefused
  rw [if_neg (by omega), if_pos (Or.inl ⟨hl, hh⟩)]

theorem hostRefused_highWord (h : isLow64 a = true) : hostRefused s (a + 4) = hostRefused s a := by
  obtain ⟨_, _, _, _, hr, hrest⟩ := lowWord_facts a (isLow64_mem h)
  have hd := (lowWord_facts a (isLow64_mem h)).1
  obtain hl | ⟨hl, hh⟩ := hr
  · rw [hostRefused_low hl, hostRefused_low (by omega)]
  · rw [hostRefused_trace hl (by omega), hostRefused_trace (by omega) hh]

theorem regOn_highWord (h : isLow64 a = true) : regOn s (a + 4) = regOn s a := by
  unfold regOn
  rw [(lowWord_facts a (isLow64_mem h)).2.2.2.1]

theorem hostWrite_lowWord (h : isLow64 a = true) (hon : regOn s a = true) (hr : hostRefused s a = false) (v : Word) :
    hostWrite s a v = { s with heldLow := tblSet none a (some v) s.heldLow } := by
  unfold hostWrite winWrite
  rw [hr, hon, h]
  rfl

theorem hostWrite_highWord (h : isLow64 a = true) (hon : regOn s a = true) (hr : hostRefused s a = false) (w : Word) :
    hostWrite s (a + 4) w = highWrite s a w := by
  unfold hostWrite winWrite
  rw [hostRefused_highWord h, hr, regOn_highWord h, hon, (lowWord_facts a (isLow64_mem h)).2.2.1, Nat.add_sub_cancel, h]
  rfl

/-- A high word takes the low word that is held for it, and the register changes once. -/
theorem highWrite_held (v w : Word) :
    highWrite { s with heldLow := tblSet none a (some v) s.heldLow } a w = wideWrite s a (w ++ v) := by
  unfold highWrite wideWrite
  rw [tblGet_tblSet_self (α := Option Word), tblSet_tblSet]
  rfl

theorem tickWrite_heldLow (f : Tick → Tick) : (tickWrite s f).heldLow = s.heldLow := by
  unfold tickWrite
  split <;> rfl

theorem slotWrite_heldLow {t : State} (h : t.heldLow = s.heldLow) : (slotWrite s t).heldLow = s.heldLow := by
  unfold slotWrite
  split
  · rfl
  · exact h

theorem wideSet_heldLow (v : W64) : (wideSet s a v).heldLow = s.heldLow := by
  unfold wideSet
  extract_lets put
  split
  · split <;> rfl
  · split
    · exact slotWrite_heldLow rfl
    · split
      · exact tickWrite_heldLow _
      · split
        · exact tickWrite_heldLow _
        · split
          · split <;> rfl
          · rfl

/-- No word is held for a register after its entry is taken, and the one that is put is read. -/
theorem word_put (l : Tbl (Option Word)) (v : Option Word) : tblGet none a (tblSet none a v l) = v := tblGet_tblSet_self none a v l

theorem wideWrite_heldLow (v : W64) : tblGet none a (wideWrite s a v).heldLow = none := by
  rw [wideWrite, wideSet_heldLow]
  exact word_put s.heldLow none

theorem exec_registerWrite_wide (hup : hostUp s = true) (h : isLow64 a = true) (hon : regOn s a = true) (hr : hostRefused s a = false)
    (v : W64) : exec (.registerWrite a true v) s = .next (wideWrite s a v) := by
  obtain ⟨h8, hm, _⟩ := lowWord_facts a (isLow64_mem h)
  change execRegisterWrite a true v s = _
  unfold execRegisterWrite
  rw [hup, hm, h, hr, hon]
  simp [h8]

theorem exec_hostLowWordWrite (hup : hostUp s = true) (h : isLow64 a = true) (v : Word) :
    exec (.hostLowWordWrite a v) s = .next (hostWrite s a v) := by
  change execHostLowWordWrite a v s = _
  unfold execHostLowWordWrite
  rw [hup, h]
  rfl

theorem exec_hostHighWordWrite (hup : hostUp s = true) (h : isLow64 a = true) (w : Word) :
    exec (.hostHighWordWrite (a + 4) w) s = .next (hostWrite s (a + 4) w) := by
  change execHostHighWordWrite (a + 4) w s = _
  unfold execHostHighWordWrite
  rw [hup, Nat.add_sub_cancel, h]
  simp

theorem exec_hostLowWordRead (hup : hostUp s = true) (wide : Bool) (ha : a % (if wide then 8 else 4) = 0) (hm : winMapped a = true)
    (parity : Bool) (hp : (parity && mbxShown s a) = false) :
    exec (.hostLowWordRead a wide parity) s = .next (if wide then { (hostReadWide s a).2 with hostRd := (hostReadWide s a).1 }
      else { (hostRead s a).2 with hostRd := (hostRead s a).1.setWidth 64 }) := by
  change execHostLowWordRead a s wide parity = _
  unfold execHostLowWordRead
  rw [hup, ha, hm, hp]
  cases wide <;> rfl

theorem winSeen_outside (h : winTiled a = false) (reader : Nat) : winSeen s a reader = s := by
  unfold winTiled at h
  rw [Bool.or_eq_false_iff, decide_eq_false_iff_not, decide_eq_false_iff_not] at h
  unfold winSeen
  rw [if_neg h.1, if_neg h.2, ite_self]

/-- A read of a low word captures the high word with it. -/
theorem winRead_lowWord (h : isLow64 a = true) (hon : regOn s a = true) (reader : Nat) :
    winRead s a reader = (winPeek s a, { s with capHigh := tblSet none a (some (winPeek s (a + 4))) s.capHigh }) := by
  obtain ⟨_, _, _, _, _, _, h1, h2, h3, h4, h5, h6, h7⟩ := lowWord_facts a (isLow64_mem h)
  unfold winRead
  rw [hon, h3, h4, h5, h6, h7, h, if_neg (by decide), if_neg h1, if_neg (by decide), if_neg (by decide), if_neg h2, if_neg (by decide),
    if_neg (by decide), if_pos rfl]

theorem wideWrite_phase (v : W64) :
    wideWrite s 0x10018 v = tickWrite { s with heldLow := tblSet none 0x10018 none s.heldLow } (fun t => { t with phase := v }) := rfl

theorem wideWrite_basen (v : W64) :
    wideWrite s 0x10020 v = tickWrite { s with heldLow := tblSet none 0x10020 none s.heldLow } (fun t => { t with basen := v }) := rfl

theorem tickWrite_stopped (h : s.tick.running = false) (f : Tick → Tick) : tickWrite s f = { s with tick := f s.tick } := by
  unfold tickWrite
  rw [h]
  rfl

theorem tickWrite_running (h : s.tick.running = true) (f : Tick → Tick) : tickWrite s f = cntAdd s 0x1008C 1 := by
  unfold tickWrite
  rw [h]
  rfl

/-- Settles O37: the low word is held, the high word takes it, and the tick's own two follow `tickWrite`. -/
theorem hostWideRegisterAccess : Obligations.HostWideRegisterAccess := by
  unfold Obligations.HostWideRegisterAccess
  intro s a v w hup hl hon hr
  obtain ⟨h8, hm, _, _, _, htile, _⟩ := lowWord_facts a (isLow64_mem hl)
  have hw := exec_registerWrite_wide hup hl hon hr (w ++ v)
  refine ⟨?_, ⟨_, _, exec_hostLowWordWrite hup hl v, ?_, hw, wideWrite_heldLow (w ++ v)⟩, ?_, ?_, ?_, ?_, ?_⟩
  · rw [exec_hostLowWordWrite hup hl, hostWrite_lowWord hl hon hr]
  · rw [hostWrite_lowWord hl hon hr, exec_hostHighWordWrite (s := { s with heldLow := tblSet none a (some v) s.heldLow }) hup hl w,
      hostWrite_highWord (s := { s with heldLow := tblSet none a (some v) s.heldLow }) hl hon hr, highWrite_held]
  · rw [exec_hostLowWordRead hup true h8 hm false rfl, if_pos rfl]
    unfold hostReadWide
    rw [hl, hr, winSeen_outside htile, Bool.true_or, if_pos rfl, if_neg (by decide)]
  · refine ⟨{ s with hostRd := (winPeek s a).setWidth 64, capHigh := tblSet none a (some (winPeek s (a + 4))) s.capHigh },
      ?_, rfl, word_put s.capHigh (some (winPeek s (a + 4))), rfl⟩
    rw [exec_hostLowWordRead hup false (show a % 4 = 0 by omega) hm false rfl, if_neg (by decide)]
    unfold hostRead
    rw [hr, if_neg (by decide), winRead_lowWord hl hon]
  · rintro rfl hs
    refine ⟨_, hw, ?_⟩
    rw [wideWrite_phase, tickWrite_stopped (s := { s with heldLow := tblSet none _ none s.heldLow }) hs]
    exact ⟨rfl, rfl⟩
  · rintro rfl hs
    refine ⟨_, hw, ?_⟩
    rw [wideWrite_basen, tickWrite_stopped (s := { s with heldLow := tblSet none _ none s.heldLow }) hs]
    exact ⟨rfl, rfl⟩
  · have hc (z : State) (hz : z.tick = s.tick ∧ z.cnt = s.cnt ∧ z = { s with heldLow := z.heldLow }) :
        (cntAdd z 0x1008C 1).tick = s.tick ∧ cntGet (cntAdd z 0x1008C 1) 0x1008C = satCount (cntGet s 0x1008C) 1 ∧
          cntAdd z 0x1008C 1 = { s with cnt := (cntAdd z 0x1008C 1).cnt, heldLow := (cntAdd z 0x1008C 1).heldLow } := by
      obtain ⟨ht, hcnt, hz⟩ := hz
      refine ⟨ht, (cntGet_cntAdd ..).trans ?_, ?_⟩
      · rw [cntGet, hcnt, ← cntGet]
      · rw [hz]
        rfl
    rintro (rfl | rfl) hs
    · refine ⟨_, hw, ?_⟩
      rw [wideWrite_phase, tickWrite_running (s := { s with heldLow := tblSet none _ none s.heldLow }) hs]
      exact hc _ ⟨rfl, rfl, rfl⟩
    · refine ⟨_, hw, ?_⟩
      rw [wideWrite_basen, tickWrite_running (s := { s with heldLow := tblSet none _ none s.heldLow }) hs]
      exact hc _ ⟨rfl, rfl, rfl⟩

end Sys2Proof.Machine
end

section
/-! Plain registers that the host writes, and the records of accesses that are refused. -/

namespace Sys2Proof.Machine

variable {s : State} {a : Nat}

theorem exec_registerWrite_word (hup : hostUp s = true) (ha : a % 4 = 0) (hm : winMapped a = true) (v : W64) :
    exec (.registerWrite a false v) s = .next (hostWrite s a (half false v)) := by
  change execRegisterWrite a false v s = _
  unfold execRegisterWrite
  rw [hup, if_neg (by decide), if_neg (by simp [ha, hm]), if_neg (by decide)]

theorem hostWrite_low (ha : a < 0x200000) (v : Word) : hostWrite s a v = winWrite s a v := by
  unfold hostWrite
  rw [hostRefused_low ha, if_neg (by decide)]

/-- A word of CTL space that is no part of a 64-bit register goes to its own rule. -/
theorem winWrite_kctl (ha : a < 0x10000) (hl : isLow64 a = false) (hh : isLow64 (a - 4) = false) (v : Word) :
    winWrite s a v = kctlWrite s a v := by
  have hon : regOn s a = true := by
    unfold regOn regDomain
    rw [if_neg (by omega), if_neg (by omega), if_neg (by omega), if_neg (by omega), if_neg (by omega), if_neg (by omega),
      if_neg (by omega), if_neg (by omega), if_neg (by omega)]
  unfold winWrite
  rw [hon, hl, hh, Bool.false_and, if_neg (by decide), if_neg (by decide), if_neg (by decide), if_pos ha]

theorem hostWrite_clusterCtl {k : Nat} (hk : k < 8) (v : Word) :
    hostWrite s (0x4100 + 0x20 * k) v = regPut s (0x4100 + 0x20 * k) (v &&& 1) := by
  have hrow : isRow 0x4100 0x20 8 (0x4100 + 0x20 * k) = true := (isRow_iff (by omega)).mpr ⟨k, hk, rfl⟩
  have hlow : isLow64 (0x4100 + 0x20 * k) = false ∧ isLow64 (0x4100 + 0x20 * k - 4) = false := by
    interval_cases k <;> decide
  rw [hostWrite_low (by omega), winWrite_kctl (by omega) hlow.1 hlow.2]
  unfold kctlWrite
  rw [hrow, if_pos rfl, maskPut]

theorem winWrite_reserve (v : Word) : winWrite s 0x1002C v =
    tickWrite s (fun t => if field v 5 0 = 0 ∨ 50 < field v 5 0 then t else { t with reserve := field v 5 0 }) := by
  have hon : regOn s 0x1002C = true := rfl
  unfold winWrite
  rw [hon, show isLow64 0x1002C = false by decide, show isLow64 (0x1002C - 4) = false by decide]
  simp only [Bool.not_true, Bool.false_and, Bool.false_eq_true, if_false]
  rw [if_neg (by decide), if_pos (by decide)]
  rfl

/-- Whether a record merges depends on the tick alone. -/
theorem fltMerge_of_tick {t : State} (h : t.tick = s.tick) (cls : Nat) (src : Word) (l : List FltRec) :
    fltMerge t cls src l = fltMerge s cls src l := by
  have hs (r : FltRec) : sameTick t r = sameTick s r := by
    unfold sameTick ktb
    rw [h]
  induction l with
  | nil => rfl
  | cons r l ih => simp only [fltMerge, ih, hs]

/-- A state with one more in a counter, another mailbox, and another word shown to the host. -/
def counted (s : State) (c : Nat) (m : Mbx) (rd : W64) : State := { cntAdd s c 1 with mbx := m, hostRd := rd }

theorem counted_rest (c : Nat) (m : Mbx) (rd : W64) : cntGet (counted s c m rd) c = satCount (cntGet s c) 1 ∧
    (∀ a, a ≠ c → cntGet (counted s c m rd) a = cntGet s a) ∧
    counted s c m rd = { s with cnt := (counted s c m rd).cnt, mbx := m, hostRd := rd } :=
  ⟨cntGet_cntAdd s c 1, fun _ ha => cntGet_cntAdd_other s ha 1, rfl⟩

/-- The log after the record of a bad access. -/
def faultLog (s : State) (off size : Nat) (write : Bool) : Mbx :=
  { s.mbx with fseq := s.mbx.fseq + 1, log := s.mbx.log ++ [{
      time := ktb s, tick := s.tick.tickn.setWidth 32, cls := 1, rep := 0, source := BitVec.ofNat 32 (off / 4 * 4),
      arg0 := BitVec.ofNat 32 (b2n write + size * 16 + off % 4 * 2 ^ 16), arg1 := 0, fseq := s.mbx.fseq }] }

/-- A bad access that finds room in the log leaves its record, counted, and nothing else. -/
theorem accessFault_new {off : Nat} (size : Nat) (write : Bool) (rd : W64) (hl : s.mbx.log.length < 1024)
    (hm : fltMerge s 1 (BitVec.ofNat 32 (off / 4 * 4)) s.mbx.log = none) :
    accessFault { s with hostRd := rd } off size write = counted s 0x40204 (faultLog s off size write) rd := by
  unfold accessFault fltWrite
  rw [fltMerge_of_tick (s := s) (t := { s with hostRd := rd }) rfl, hm]
  dsimp only
  rw [if_neg (by omega)]
  rfl

/-- Settles O38: the plain registers by their own rules, the bad accesses by `accessFault_shown`. -/
theorem hostRegisterWrites : Obligations.HostRegisterWrites := by
  unfold Obligations.HostRegisterWrites
  intro s hup
  refine ⟨fun k v hk => ?_, fun v hs => ?_, fun v => ?_, ?_⟩
  · refine ⟨_, exec_registerWrite_word hup (by omega) (by interval_cases k <;> decide) v, ?_⟩
    rw [hostWrite_clusterCtl hk]
    exact ⟨rfl, regGet_regPut .., fun a ha => regGet_regPut_other s ha _⟩
  · refine (exec_registerWrite_word hup (by decide) (by decide) v).trans (congrArg Host.Outcome.next ?_)
    rw [hostWrite_low (by decide)]
    rw [winWrite_reserve, tickWrite_stopped hs]
    refine congrArg (fun x => { s with tick := x }) ?_
    dsimp only
    split
    next h => rw [if_neg (by omega)]
    next h => rw [if_pos (by omega)]
  · change execAgeLimitWrite v s = _
    unfold execAgeLimitWrite
    rw [hup]
    simp only [Bool.true_eq_false, or_false]
    split <;> rfl
  · intro off size write hl src hm faulted
    have hf : ∃ rd, (if write then s else { s with hostRd := 0 }) = { s with hostRd := rd } ∧
        (write = false → rd = 0) ∧ (write = true → rd = s.hostRd) := by
      cases write
      · exact ⟨0, rfl, fun _ => rfl, nofun⟩
      · exact ⟨s.hostRd, rfl, nofun, fun _ => rfl⟩
    obtain ⟨rd, hrd, hread, hwrite⟩ := hf
    have hshown : faulted (counted s 0x40204 (faultLog s off size write) rd) := by
      obtain ⟨hc, ho, hr⟩ := counted_rest (s := s) 0x40204 (faultLog s off size write) rd
      exact ⟨hread, hwrite, hc, ho, rfl, hr⟩
    have hnew := accessFault_new size write rd hl hm
    refine ⟨fun h => ⟨_, ?_, hshown⟩, fun hw ho => ⟨_, ?_, hshown⟩⟩
    · change execMisalignedHostAccess off size write s = _
      unfold execMisalignedHostAccess
      rw [hup, if_pos (by simpa using h), hrd, hnew]
    · change execUnmappedHostAccess off size write s = _
      unfold execUnmappedHostAccess
      rw [hup, hw, if_pos (by simpa using ho), hrd, hnew]

end Sys2Proof.Machine
end

section
/-! The reads of the host that change something. -/

namespace Sys2Proof.Machine

variable {s : State} {a : Nat}

/-- A state with more in a counter, and other cells. -/
def countedCells (s : State) (a n : Nat) (c : Cells) : State := { cntAdd s a n with cells := c }

theorem countedCells_shown (n : Nat) (c : Cells) (rd : W64) :
    let t := { countedCells s a n c with hostRd := rd }
    cntGet t a = satCount (cntGet s a) n ∧ (∀ b, b ≠ a → cntGet t b = cntGet s b) ∧
      t = { s with cnt := t.cnt, cells := t.cells, hostRd := t.hostRd } :=
  ⟨cntGet_cntAdd s a n, fun _ hb => cntGet_cntAdd_other s hb n, rfl⟩

theorem hostqPop_eq {q : List W128} (hq : s.cells.hostq.dropWhile (cellOld s) = q) : hostqPop s =
    countedCells s 0x401C (s.cells.hostq.length - q.length) { s.cells with hostq := q.tail, hostCap := q.headD fillCell } := by
  unfold hostqPop
  rw [hq]
  cases q <;> rfl

theorem exec_hostqCellPop (hup : hostUp s = true) (parity : Bool) :
    exec (.hostqCellPop parity) s =
      let t := hostqPop (if parity then hostqParity s else s)
      .next { t with hostRd := (t.cells.hostCap.setWidth 32 : Word).setWidth 64 } := by
  change execHostqCellPop s parity = _
  unfold execHostqCellPop
  rw [hup]
  rfl

/-- A head that fails its parity leaves the host queue, counted, before the pop looks at the next. -/
theorem hostqParity_cons {c : W128} {rest : List W128} (h : s.cells.hostq = c :: rest) :
    (hostqParity s).cells = { s.cells with hostq := rest } ∧ cellOld (hostqParity s) = cellOld s ∧
      cntGet (hostqParity s) 0xA044 = satCount (cntGet s 0xA044) 1 := by
  unfold hostqParity
  rw [h]
  dsimp only
  have hf := (Logged.parityDrop { s with cells := { s.cells with hostq := rest } } 0 0).frame
  refine ⟨hf.cells, ?_, ?_⟩
  · funext x
    unfold cellOld ageLimit
    rw [hf.tick, regGet, hf.hreg]
    rfl
  · have hk : CntKept 0xA044 (cntAdd { s with cells := { s.cells with hostq := rest } } 0xA044 1)
        (parityDrop { s with cells := { s.cells with hostq := rest } } 0 0) := CntKept.fltWrite (by decide) ..
    exact Eq.trans hk (cntGet_cntAdd ..)

/-- A pulse or a record leaves both buffers of the mailbox. -/
theorem fltWrite_buffers (cls : Nat) (src a0 a1 : Word) :
    (fltWrite s cls src a0 a1).mbx.req = s.mbx.req ∧ (fltWrite s cls src a0 a1).mbx.resp = s.mbx.resp := by
  unfold fltWrite
  extract_lets s1
  split
  · exact ⟨rfl, rfl⟩
  · split
    · rw [pulse_mbx (s := cntAdd s1 0x40104 1) 305]
      exact ⟨rfl, rfl⟩
    · exact ⟨rfl, rfl⟩

theorem mbxParity_rest (entry : Nat) : ∃ k, (mbxParity s entry).hostRd = (Config.parityWord k).setWidth 64 ∧
    (mbxParity s entry).mbx.req = s.mbx.req ∧ (mbxParity s entry).mbx.resp = s.mbx.resp ∧ (mbxParity s entry).store = s.store := by
  obtain ⟨hreq, hresp⟩ := fltWrite_buffers (s := s) 3 (BitVec.ofNat 32 (5 * 2 ^ 24 + entry % 2 ^ 24)) (BitVec.ofNat 32 entry) 0
  exact ⟨_, rfl, hreq, hresp, (Logged.fltWrite s 3 _ _ _).frame.store⟩

/-- Beyond the entries shown, the buffers of the mailbox read zero with no effect. -/
def Hidden (s : State) (a : Nat) : Prop :=
  0x42000 ≤ a ∧ a < 0x43000 ∧ s.mbx.busy = true ∨ 0x48000 ≤ a ∧ a < 0x50000 ∧ s.mbx.log.length ≤ (a - 0x48000) / 32

theorem Hidden.range (h : Hidden s a) : 0x42000 ≤ a ∧ a < 0x43000 ∨ 0x48000 ≤ a ∧ a < 0x50000 := by
  unfold Hidden at h
  omega

theorem Hidden.shown (h : Hidden s a) : mbxShown s a = false := by
  unfold mbxShown
  obtain ⟨hl, hh, hb⟩ | ⟨hl, hh, hb⟩ := h
  · simp [hb, hl, hh]
  · simp [hb, hl]

theorem Hidden.peek (h : Hidden s a) : winPeek s a = 0 := by
  have hr := h.range
  have hon : regOn s a = true := by
    unfold regOn regDomain
    rw [if_neg (by omega), if_neg (by omega), if_neg (by omega), if_neg (by omega), if_neg (by omega), if_neg (by omega),
      if_neg (by omega), if_neg (by omega), if_neg (by omega)]
  unfold winPeek
  rw [hon, if_neg (by decide), if_neg (by omega), if_neg (by omega), if_neg (by omega), if_neg (by omega), if_pos (by omega)]
  unfold kmbxPeek
  dsimp only
  rw [if_neg (by omega)]
  obtain ⟨hl, hh, hb⟩ | ⟨hl, hh, hb⟩ := h
  · rw [if_pos (by omega), hb]
    rfl
  · have hn : s.mbx.log.length ≤ (a - 0x40000 - 0x8000) / 32 := by
      rw [Nat.sub_sub]
      exact hb
    rw [if_neg (by omega), if_pos (by omega), List.getElem?_eq_none hn]

/-- In the range of the mailbox's buffers no register has a rule of its own. -/
theorem buffers_plain (h : 0x42000 ≤ a ∧ a < 0x43000 ∨ 0x48000 ≤ a ∧ a < 0x50000) : a ≠ 0x4020 ∧ a ≠ 0x40010 ∧
    isRow 0x4108 0x20 8 a = false ∧ isRow 0x1012C 0x40 8 a = false ∧ isRow 0x27A00 0x10 8 a = false ∧
    isRow 0x200020 0x1000 67 a = false ∧ isRow 0x200018 0x1000 67 a = false ∧ isLow64 a = false ∧ isLow64 (a - 4) = false ∧
    winTiled a = false := by
  have hrow {b n c : Nat} (hn : 0 < n) (hb : b + n * c ≤ 0x42000 ∨ 0x50000 ≤ b) : isRow b n c a = false := by
    refine Bool.eq_false_iff.mpr (fun e => ?_)
    obtain ⟨k, hk, e⟩ := (isRow_iff hn).mp e
    have := Nat.mul_lt_mul_of_pos_left hk hn
    omega
  have hlow (x : Nat) (hx : 0x41000 ≤ x ∧ x < 0x50000) : isLow64 x = false := by
    refine Bool.eq_false_iff.mpr (fun e => ?_)
    have hm := isLow64_mem e
    have hout : ∀ y ∈ lowWords, y < 0x41000 ∨ 0x50000 ≤ y := by decide
    have := hout x hm
    omega
  refine ⟨by omega, by omega, hrow (by omega) (by omega), hrow (by omega) (by omega), hrow (by omega) (by omega),
    hrow (by omega) (by omega), hrow (by omega) (by omega), hlow _ (by omega), hlow _ (by omega), ?_⟩
  unfold winTiled
  simp
  omega

theorem Hidden.read (h : Hidden s a) : hostRead s a = (0, s) := by
  obtain ⟨h1, h2, h3, h4, h5, h6, h7, h8, h9, h10⟩ := buffers_plain h.range
  have hr := h.range
  unfold hostRead
  rw [hostRefused_low (by omega), if_neg (by decide)]
  unfold winRead
  rw [winSeen_outside h10, h.peek, h3, h4, h5, h6, h7, h8, h9, if_neg h1, if_neg h2]
  simp

theorem cntPut_rest (v : Word) : cntGet (cntPut s a v) a = v ∧ (∀ b, b ≠ a → cntGet (cntPut s a v) b = cntGet s b) ∧
    cntPut s a v = { s with cnt := (cntPut s a v).cnt } :=
  ⟨cntGet_cntPut .., fun _ hb => tblGet_tblSet_other _ hb .., rfl⟩

/-- A high-water counter is shown and cleared. -/
theorem highWater_read (v : W64) :
    let t := cntPut { s with hostRd := v } a 0
    t.hostRd = v ∧ cntGet t a = 0 ∧ (∀ b, b ≠ a → cntGet t b = cntGet s b) ∧ t = { s with cnt := t.cnt, hostRd := t.hostRd } := by
  obtain ⟨hc, ho, hr⟩ := cntPut_rest (s := { s with hostRd := v }) (a := a) 0
  exact ⟨rfl, hc, ho, hr⟩

theorem mbxTaken_nil {m : Mbx} (h : m.cpl = []) :
    { m with cpl := m.cpl.tail, inflight := m.inflight - min 1 m.cpl.length } = m := by
  cases m
  simp only at h
  subst h
  rfl

theorem winRead_completion (reader : Nat) : winRead s 0x40010 reader =
    (cplWord s, { s with mbx := { s.mbx with cpl := s.mbx.cpl.tail, inflight := s.mbx.inflight - min 1 s.mbx.cpl.length } }) := by
  have hon : regOn s 0x40010 = true := rfl
  unfold winRead
  rw [hon, if_neg (by decide), if_neg (by decide), if_neg (by decide), if_neg (by decide), if_pos rfl]

theorem exec_hmbCplRead (hup : hostUp s = true) : exec .hmbCplRead s = .next { s with
    hostRd := (cplWord s).setWidth 64,
    mbx := { s.mbx with cpl := s.mbx.cpl.tail, inflight := s.mbx.inflight - min 1 s.mbx.cpl.length } } := by
  change execHmbCplRead s = _
  unfold execHmbCplRead
  rw [hup, if_pos rfl, winRead_completion]

/-- Settles O39: each read by the rule of its register. -/
theorem hostReadsWithEffects : Obligations.HostReadsWithEffects := by
  unfold Obligations.HostReadsWithEffects
  intro s hup
  refine ⟨?_, ?_, ?_, ?_, ?_, ?_, ?_, ?_⟩
  · intro q
    refine ⟨_, exec_hostqCellPop hup false, ?_⟩
    rw [if_neg (by decide), hostqPop_eq rfl]
    exact ⟨rfl, rfl, countedCells_shown _ _ _⟩
  · intro c rest h q
    obtain ⟨hcells, hold, hcnt⟩ := hostqParity_cons h
    refine ⟨_, exec_hostqCellPop hup true, ?_⟩
    rw [if_pos rfl, hostqPop_eq (q := q) (by rw [hcells, hold]), hcells]
    exact ⟨rfl, ((countedCells_shown (s := hostqParity s) _ _ _).2.1 _ (by decide)).trans hcnt⟩
  · intro k hk a
    refine ⟨_, ?_, highWater_read (a := a) _⟩
    change execListmaxRead k s = _
    exact if_pos ⟨hk, hup⟩
  · intro k hk a
    refine ⟨_, ?_, highWater_read (a := a) _⟩
    change execClusterWorstRead k s = _
    exact if_pos ⟨hk, hup⟩
  · intro h
    rw [exec_hmbCplRead hup, mbxTaken_nil h, cplWord, h]
    rfl
  · intro tag st rest h
    rw [exec_hmbCplRead hup, cplWord, h]
    simp
  · intro off h4 hm hs hb hl
    obtain ⟨k, hk⟩ := mbxParity_rest (s := s) (off / 4 - 0x10000)
    refine ⟨_, k, ?_, hk⟩
    have hsh : mbxShown s off = true := by
      unfold mbxShown
      rw [hs, Bool.true_and, Bool.and_eq_true, Bool.not_eq_true', Bool.not_eq_true', decide_eq_false_iff_not, not_and, Nat.not_le]
      refine ⟨Bool.eq_false_iff.mpr (fun e => ?_), hl⟩
      rw [Bool.and_eq_true, decide_eq_true_eq] at e
      rw [hb e.2.1 e.2.2] at e
      cases e.1
    change execHostLowWordRead off s false true = _
    unfold execHostLowWordRead
    rw [hup, hm, hsh, if_neg (by simp [h4]), if_pos (by decide)]
  · intro off parity h4 (h : Hidden s off)
    have hm : winMapped off = true := by
      have := h.range
      unfold winMapped
      simp
      omega
    refine ⟨_, exec_hostLowWordRead hup false h4 hm parity (by rw [h.shown, Bool.and_false]), ?_⟩
    rw [if_neg (by decide), h.read]
    exact ⟨rfl, rfl⟩

end Sys2Proof.Machine
end

section
/-! The staging buffer and the context view, as the host writes them. -/

namespace Sys2Proof.Machine

variable {s : State} {off : Nat} {data : List Byte}

theorem memBytes_memPut (m : Memory) (a : Nat) (bs : List Byte) : memBytes (memPut m a bs) a bs.length = bs := by
  induction bs generalizing m a with
  | nil => rfl
  | cons b bs ih =>
    change memGet (memPut (memSet m a b) (a + 1) bs) a :: memBytes (memPut (memSet m a b) (a + 1) bs) (a + 1) bs.length = b :: bs
    rw [ih, memGet_memPut_outside _ _ _ _ (Or.inl (Nat.lt_succ_self a)), memGet_memSet_self]

/-- An access of a length that the port takes, at its own alignment. -/
def Aligned (off n : Nat) : Prop := (n = 4 ∨ n = 8 ∨ n = 16 ∨ n = 32 ∨ n = 64) ∧ off % n = 0

theorem alignedAccess_iff (off n : Nat) : alignedAccess off n = true ↔ Aligned off n := by
  unfold alignedAccess Aligned
  rw [Bool.and_eq_true, hasNat_iff, beq_iff_eq]
  simp

/-- Whether a write of the host reaches a buffer of this size. -/
def Reaches (s : State) (data : List Byte) (off size : Nat) : Prop :=
  hostUp s = true ∧ off + data.length ≤ size ∧ 0 < data.length ∧ data.length ≤ 64

theorem exec_stagingBufferWrite (h : Reaches s data off 0x200000) : exec (.stagingBufferWrite off data) s =
    .next (if alignedAccess off data.length then stageWrite s off data else accessFault s (0x1000000 + off) data.length true) :=
  if_pos h

theorem exec_contextViewWrite (h : Reaches s data off 0x1000000) : exec (.contextViewWrite off data) s =
    .next (if alignedAccess off data.length then viewWrite s 6 off data else accessFault s (0x2000000 + off) data.length true) :=
  if_pos h

theorem stageWrite_tile (hon : domStat s 85 = 1) (hh : stageHeld s off data.length = false) :
    stageWrite s off data = stageTile s off data := by
  unfold stageWrite
  rw [hon, hh]
  rfl

/-- A write that covers its tile cures it. -/
theorem stageTile_whole (h : off % 64 = 0 ∧ data.length = 64) : stageTile s off data =
    { s with mem := { s.mem with staging := memPut s.mem.staging off data, bad := delNat (tileKey 3 0 (off / 64)) s.mem.bad } } := by
  unfold stageTile
  exact (if_pos h).trans (by rw [tileCure, if_neg (fun h => absurd h.1 (by decide))])

theorem stageTile_part (h : ¬ (off % 64 = 0 ∧ data.length = 64)) (hb : tileBad s 3 0 (off / 64) = false) : stageTile s off data =
    { s with mem := { s.mem with staging := memPut s.mem.staging off data } } := by
  unfold stageTile
  dsimp only
  rw [if_neg h, hb]
  rfl

theorem stageTile_failing (h : ¬ (off % 64 = 0 ∧ data.length = 64)) (hb : tileBad s 3 0 (off / 64) = true) :
    stageTile s off data = cntAdd (tileDetect s 3 0 (off / 64) 6) 0xA030 1 := by
  unfold stageTile
  dsimp only
  rw [if_neg h, hb]
  rfl

theorem Framed.staging {t : State} (h : Framed s t) : t.mem.staging = s.mem.staging := by rw [h]

/-- A failing tile is named, and its memories stay as they were. -/
theorem tileDetect_rest (cls inst tile reader : Nat) :
    (tileDetect s cls inst tile reader).mem.staging = s.mem.staging ∧ (tileDetect s cls inst tile reader).mem.bad = s.mem.bad ∧
      ∀ a, a < 0x20000 → a ≠ 0xA010 + 4 * cls → cntGet (tileDetect s cls inst tile reader) a = cntGet s a := by
  have hf := (Logged.tileDetect s cls inst tile reader).frame
  refine ⟨hf.staging, hf.bad, fun a ha hc => ?_⟩
  have hm (w : Word) (b : Nat) (hb : a ≠ b) : CntKept a s (Machine.cntAdd { s with mem := { s.mem with lastadr := w } } b 1) :=
    CntKept.cntAdd { s with mem := { s.mem with lastadr := w } } hb 1
  have hd : CntKept a s (tileDetect s cls inst tile reader) := (hm _ _ hc).trans (CntKept.fltWrite ha _ _ _ _ _)
  exact hd

theorem viewWrite_tile (ho : s.io.locked = false) (hd : domStat s (64 + off / 0x200000) = 1) (reader : Nat) :
    viewWrite s reader off data = viewTile s reader off data := by
  unfold viewWrite dbgOpen
  rw [ho, hd]
  rfl

/-- The records of a unit without mirrors stand in one copy each. -/
theorem tileCopies_one (hm : isMirrored s = false) (hf : s.svc.fill = false) (i : Nat) : tileCopies s i = [i] ∧ liveCopy s i = i := by
  have hg (k : Nat) : sliceGone s k = false := by
    unfold sliceGone
    rw [hm]
    rfl
  unfold tileCopies liveCopy
  rw [hm, hf, hg]
  simp [hg]

/-- The bytes written to a half of a record are bits of the record at the half's place. -/
theorem viewTile_whole (hm : isMirrored s = false) (hf : s.svc.fill = false) (reader : Nat) (h : off % 64 = 0 ∧ data.length = 64) :
    viewTile s reader off data = tileCure (recPut1 s (off / 128) (recPutBits (recGet s (off / 128)) (off % 128) (8 * data.length)
      (leNat data))) 2 (homeOf (off / 128)) (2 * (off / 128 % 2 ^ 14) + off % 128 / 64) := by
  unfold viewTile halfPut
  dsimp only
  rw [if_pos h, (tileCopies_one hm hf _).1, List.foldl_cons, List.foldl_nil, halfPut1, recHalf, h.2,
    show 64 * (off % 128 / 64) = off % 128 by omega]

theorem recMerge_one (hm : isMirrored s = false) (hf : s.svc.fill = false) {i t : Nat} (hb : recTileBad s i t = false) (reader : Nat)
    (f : Rec → Rec) : recMerge s i t reader f = (true, recPut1 s i (f (recGet s i))) := by
  have hread : recTileRead s i t reader = (true, s) := by
    unfold recTileRead
    rw [hb]
    rfl
  have hbase : mergeBase s i t = recGet s i := by
    unfold mergeBase
    rw [hm]
    rfl
  unfold recMerge
  rw [hread, (tileCopies_one hm hf i).1, (tileCopies_one hm hf i).2]
  dsimp only
  rw [if_pos rfl, List.foldl_cons, List.foldl_nil, copyMerge, if_pos rfl]
  dsimp only
  rw [if_pos rfl, hbase]

theorem viewTile_part (hm : isMirrored s = false) (hf : s.svc.fill = false) (reader : Nat) (h : ¬ (off % 64 = 0 ∧ data.length = 64))
    (hb : recTileBad s (off / 128) (off % 128 / 64) = false) : viewTile s reader off data =
    recPut1 s (off / 128) (recPutBits (recGet s (off / 128)) (off % 128) (8 * data.length) (leNat data)) := by
  unfold viewTile recPutPart
  dsimp only
  rw [if_neg h, recMerge_one hm hf hb]
  rfl

theorem recGet_recPut1 (i : Nat) (r : Rec) : recGet (recPut1 s i r) i = r ∧ ∀ j, j ≠ i → recGet (recPut1 s i r) j = recGet s j :=
  ⟨tblGet_tblSet_self .., fun _ hj => tblGet_tblSet_other 0 hj ..⟩

/-- A cure changes no record, no copied word and no engine, and the tile is good. -/
theorem tileCure_records (cls inst tile : Nat) : (tileCure s cls inst tile).store.recs = s.store.recs ∧
    (tileCure s cls inst tile).store.ctl = s.store.ctl ∧ (tileCure s cls inst tile).svc = s.svc ∧
    tileBad (tileCure s cls inst tile) cls inst tile = false := by
  have hb : hasNat (tileKey cls inst tile) (delNat (tileKey cls inst tile) s.mem.bad) = false := hasNat_delNat_self ..
  unfold tileCure
  dsimp only
  split <;> exact ⟨rfl, rfl, rfl, hb⟩

theorem recTileBad_one {t : State} (hm : isMirrored t = false) (hf : t.svc.fill = false) (i h : Nat) :
    recTileBad t i h = tileBad t 2 (homeOf i) (2 * (i % 2 ^ 14) + h) := by
  unfold recTileBad
  rw [(tileCopies_one hm hf i).2]

/-- Settles O40: the bad access by `accessFault`, the tile by whether the write covers it. -/
theorem hostBufferWrites : Obligations.HostBufferWrites := by
  unfold Obligations.HostBufferWrites
  intro s off data hup h0 h64 aligned
  have hal : alignedAccess off data.length = true ↔ aligned := alignedAccess_iff off data.length
  have hpart (h : data.length < 64) : ¬ (off % 64 = 0 ∧ data.length = 64) := fun c => by omega
  refine ⟨fun h hr => ?_, fun h hr => ?_, fun h hr hon hh => ⟨fun hc => ?_, fun hl hb => ?_⟩, fun h hr hk => ?_,
    fun h hr hk hd hm hf hc => ?_⟩
  · rw [exec_stagingBufferWrite ⟨hup, hr, h0, h64⟩, if_neg (hal.not.mpr h)]
  · rw [exec_contextViewWrite ⟨hup, hr, h0, h64⟩, if_neg (hal.not.mpr h)]
  · refine ⟨_, (exec_stagingBufferWrite ⟨hup, hr, h0, h64⟩).trans (congrArg Host.Outcome.next (if_pos (hal.mpr h))), ?_⟩
    rw [stageWrite_tile hon hh]
    by_cases hw : off % 64 = 0 ∧ data.length = 64
    · rw [stageTile_whole hw]
      exact ⟨memBytes_memPut .., fun b hb => memGet_memPut_outside _ _ _ _ hb, hasNat_delNat_self .., rfl, rfl⟩
    · have hb : tileBad s 3 0 (off / 64) = false := hc.resolve_left (fun e => hw ⟨e ▸ h.2, e⟩)
      rw [stageTile_part hw hb]
      exact ⟨memBytes_memPut .., fun b hb => memGet_memPut_outside _ _ _ _ hb, hb, rfl, rfl⟩
  · refine ⟨_, (exec_stagingBufferWrite ⟨hup, hr, h0, h64⟩).trans (congrArg Host.Outcome.next (if_pos (hal.mpr h))), ?_⟩
    rw [stageWrite_tile hon hh, stageTile_failing (hpart hl) hb]
    obtain ⟨hs, hbad, hcnt⟩ := tileDetect_rest (s := s) 3 0 (off / 64) 6
    refine ⟨hs, ?_, ?_⟩
    · unfold tileBad at hb ⊢
      rw [← hb]
      exact congrArg (hasNat _) hbad
    · rw [cntGet_cntAdd, hcnt _ (by decide) (by decide)]
  · rw [exec_contextViewWrite ⟨hup, hr, h0, h64⟩, if_pos (hal.mpr h), viewWrite, dbgOpen, hk]
    rfl
  · refine ⟨_, (exec_contextViewWrite ⟨hup, hr, h0, h64⟩).trans (congrArg Host.Outcome.next (if_pos (hal.mpr h))), ?_⟩
    rw [viewWrite_tile hk hd]
    obtain ⟨hself, hother⟩ := recGet_recPut1 (s := s) (off / 128) (recPutBits (recGet s (off / 128)) (off % 128) (8 * data.length) (leNat data))
    by_cases hw : off % 64 = 0 ∧ data.length = 64
    · rw [viewTile_whole hm hf 6 hw]
      generalize hz : recPut1 s (off / 128) (recPutBits (recGet s (off / 128)) (off % 128) (8 * data.length) (leNat data)) = z at hself hother ⊢
      obtain ⟨hrecs, hctl, hsvc, hb⟩ := tileCure_records (s := z) 2 (homeOf (off / 128)) (2 * (off / 128 % 2 ^ 14) + off % 128 / 64)
      have hzs : z.svc = s.svc ∧ z.store.ctl = s.store.ctl ∧ z.eng = s.eng := by
        rw [← hz]
        exact ⟨rfl, rfl, rfl⟩
      refine ⟨?_, fun i hi => ?_, hctl.trans hzs.2.1, (tileCure_rest ..).1.trans hzs.2.2, ?_⟩
      · rw [← hself, recGet, hrecs, ← recGet, hself]
      · rw [← hother i hi, recGet, hrecs, ← recGet]
      · rw [recTileBad_one _ _, hb]
        · rw [isMirrored, hsvc, hzs.1]
          exact hm
        · rw [hsvc, hzs.1]
          exact hf
    · have hb := hc.resolve_left (fun e => hw ⟨e ▸ h.2, e⟩)
      rw [viewTile_part hm hf 6 hw hb]
      exact ⟨hself, hother, rfl, rfl, hb⟩

end Sys2Proof.Machine
end

section
/-! Engines that doze, nap and wake. -/

namespace Sys2Proof.Machine

variable {s : State} {n : Nat}

/-- A mark of the trace unit changes no engine, no store and no counter below the trace units' own. -/
theorem trcEngMark_rest (n typ bit sub : Nat) (w1 w2 w3 : Word) : (trcEngMark s n typ bit sub w1 w2 w3).eng = s.eng ∧
    (trcEngMark s n typ bit sub w1 w2 w3).store = s.store ∧
    ∀ a, a < 0x400000 → cntGet (trcEngMark s n typ bit sub w1 w2 w3) a = cntGet s a := by
  unfold trcEngMark
  split
  · exact ⟨trcPut_eng .., by rw [FreezeFrame.trcPut (s := s)], fun a ha => CntKept.trcPut ha s _ _ _ _ _ _ _⟩
  · exact ⟨rfl, rfl, fun _ _ => rfl⟩

theorem trcWake_eng : (trcWake s n).eng = s.eng := by
  unfold trcWake
  split
  · exact trcPut_eng ..
  · rfl

/-- A change of one engine of a state with the engines of `s` is that change of it in `s`. -/
theorem engGet_engMap_of_eng {t : State} (h : t.eng = s.eng) (f : Engine → Engine) :
    engGet (engMap t n f) n = f (engGet s n) ∧ ∀ m, m ≠ n → engGet (engMap t n f) m = engGet s m :=
  ⟨by rw [engGet_engMap, engGet_of_eng h], fun m hm => by rw [engGet_engMap_other _ hm, engGet_of_eng h]⟩

/-- The state an engine dozes into. -/
def dozed (nap : Bool) (e : Engine) : Engine := { e with pstate := if nap then .napEntry else .doze, wakeReq := false }

theorem dozeNow_rest (n : Nat) : (dozeNow s n).store = s.store ∧ engGet (dozeNow s n) n = dozed (mayNap s n) (engGet s n) ∧
    ∀ m, m ≠ n → engGet (dozeNow s n) m = engGet s m := by
  obtain ⟨he, hs, _⟩ := trcEngMark_rest (s := s) n 8 12 1 0 0 0
  exact ⟨hs, engGet_engMap_of_eng he (dozed (mayNap s n))⟩

theorem mayNap_high (h : 64 ≤ n) : mayNap s n = false := by
  unfold mayNap
  rw [decide_eq_false (by omega)]
  rfl

/-- Settles O42: the mark of the trace unit leaves the engines, and each change is of one engine. -/
theorem engineSleepStates : Obligations.EngineSleepStates := by
  unfold Obligations.EngineSleepStates
  intro s n
  refine ⟨fun hn h64 h65 hd => ?_, fun hd => ?_, fun hn hp hf hr => ?_, fun hn hp hr => ?_, fun hn hp ht he => ?_⟩
  · refine ⟨dozeNow s n, (if_pos ⟨hn, h65, hd⟩).trans (by rw [if_neg h64]), dozeNow_rest n⟩
  · refine ⟨dozeNow (dozeNow s 64) 65, if_pos ⟨by omega, by omega, hd⟩, ?_⟩
    obtain ⟨_, h0, ho⟩ := dozeNow_rest (s := s) 64
    obtain ⟨_, h1, ho1⟩ := dozeNow_rest (s := dozeNow s 64) 65
    rw [mayNap_high (by omega)] at h0 h1
    refine ⟨?_, ?_, fun m hm hm' => (ho1 m hm').trans (ho m hm)⟩
    · rw [ho1 64 (by decide), h0]
      rfl
    · rw [h1]
      rfl
  · refine ⟨_, if_pos ⟨hn, hp, hf, hr⟩, ?_⟩
    obtain ⟨he, _, hc⟩ := trcEngMark_rest (s := s) n 8 12 2 0 0 0
    obtain ⟨hself, hother⟩ := engGet_engMap_of_eng (n := n) (t := cntAdd (trcEngMark s n 8 12 2 0 0 0) (0x80808 + n * 0x10) 1) he
      (fun e => { e with pstate := if e.wakeReq then .wakeNap else .nap })
    refine ⟨hself, ?_, hother⟩
    refine (cntGet_cntAdd (trcEngMark s n 8 12 2 0 0 0) _ 1).trans ?_
    rw [hc _ (by omega)]
  · exact ⟨_, if_pos ⟨hn, hp, hr⟩, engGet_engMap_of_eng trcWake_eng _⟩
  · exact ⟨_, if_pos ⟨hn, hp, ht, he⟩, rfl, engGet_engMap_of_eng rfl _⟩

end Sys2Proof.Machine
end

section
/-! The debug windows: unlock, halt, resume, and the locks that a debugger frees. -/

namespace Sys2Proof.Machine

variable {s t u : State} {n : Nat}

/-! What a freeze does to an engine. -/

/-- `f` is `e` but for the tick that a freeze holds for it. -/
def Frozen (e f : Engine) : Prop := f = { e with tickn := f.tickn, tickHeld := f.tickHeld }

theorem Frozen.refl (e : Engine) : Frozen e e := rfl

theorem Frozen.trans {e f g : Engine} (h : Frozen e f) (k : Frozen f g) : Frozen e g := by
  unfold Frozen at *
  rw [k, h]

theorem forNats_frozen {f : State → Nat → State} (hf : ∀ z k, Frozen (engGet z n) (engGet (f z k) n)) (l : List Nat) (z : State) :
    Frozen (engGet z n) (engGet (forNats l f z) n) := by
  unfold forNats
  induction l generalizing z with
  | nil => exact .refl _
  | cons a l ih => exact (hf z a).trans (ih _)

theorem tmrRebase_eng (base : Nat) (z : State) (q : Nat × Timer) : (tmrRebase s base z q).eng = z.eng := by
  unfold tmrRebase holdReach
  split
  · rfl
  · split
    · dsimp only
      split <;> rfl
    · rfl

theorem freezeStep_frozen (z : State) (n : Nat) : Frozen (engGet z n) (engGet (freezeStep s z) n) := by
  unfold freezeStep
  extract_lets z1 z2 tf mark
  have h1 : z1.eng = z.eng := by
    simp only [z1]
    split
    · rfl
    · exact foldl_keeps (π := State.eng) (tmrRebase_eng _) s.hub.tmr z
  have h2 : Frozen (engGet z n) (engGet z2 n) := by
    rw [← engGet_of_eng h1]
    refine forNats_frozen (fun y k => ?_) _ z1
    by_cases hk : n = k
    · subst hk
      rw [engGet_engMap]
      rfl
    · rw [engGet_engMap_other _ hk]
      rfl
  have hm (y : State) (k j : Nat) : Frozen (engGet y n) (engGet (mark y k j) n) := by
    simp only [mark]
    split
    · rw [engGet_of_eng (trcPut_eng ..)]
      rfl
    · rfl
  have hite (y : State) (c d : Bool) (k : Nat) :
      Frozen (engGet y n) (engGet (if c then mark y k 0 else if d then mark y k 1 else y) n) := by
    cases c
    · cases d
      · rfl
      · exact hm y k 1
    · exact hm y k 0
  split
  · exact .refl _
  · exact h2.trans (forNats_frozen (fun y k => hite y _ _ k) _ z2)

theorem freezeStep_store (z : State) : (freezeStep s z).store = z.store := by rw [FreezeFrame.freezeStep (s := s) z]

/-! The start of the unlock. -/

theorem settEvent_bstate (type item : Nat) (old new : Word) (f : BatHdr → BatHdr) : (settEvent s type item old new f).bstate = s.bstate := by
  unfold settEvent
  split <;> rfl

theorem unlockStart_hold : (unlockStart s).bstate = .hold := by
  unfold unlockStart
  dsimp only
  split
  · exact holdFrom_bstate
  · unfold settUnlock
    split
    · exact holdFrom_bstate
    · exact (settEvent_bstate ..).trans holdFrom_bstate

theorem unlockStart_io : (unlockStart s).io = { s.io with unlocking := true, settdbg := s.io.settdbg || s.sett.open_ } := by
  unfold unlockStart
  dsimp only
  split <;> simp_all

/-! What the end of the unlock erases. -/

/-- An engine with no byte left in its memories and no cell in its queue. -/
def Erased (e : Engine) : Prop := e.imem = [] ∧ e.dmem = [] ∧ e.inq = []

theorem engErase_rest (k : Nat) : Erased (engGet (engErase s k) k) ∧ ∀ m, m ≠ k → engGet (engErase s k) m = engGet s m := by
  unfold engErase
  rw [engGet_engMap]
  exact ⟨⟨rfl, rfl, rfl⟩, fun m hm => engGet_engMap_other _ hm _⟩

theorem forNats_engErase (l : List Nat) (h : n ∈ l ∨ Erased (engGet s n)) : Erased (engGet (forNats l engErase s) n) := by
  unfold forNats
  induction l generalizing s with
  | nil => exact h.resolve_left List.not_mem_nil
  | cons a l ih =>
    obtain ⟨ha, ho⟩ := engErase_rest (s := s) a
    refine ih (s := engErase s a) ?_
    by_cases hn : n = a
    · exact Or.inr (hn ▸ ha)
    · rw [ho n hn]
      exact h.imp_left (fun hm => (List.mem_cons.mp hm).resolve_left hn)

theorem forNats_engErase_store (l : List Nat) : (forNats l engErase s).store = s.store :=
  forNats_keeps (π := State.store) (f := engErase) (fun _ _ => rfl) l s

/-- An engine that the table does not hold is as after reset. -/
theorem engGet_absent (h : n ∉ s.eng.map (·.1)) : engGet s n = {} := by
  unfold engGet
  generalize s.eng = l at h
  induction l with
  | nil => rfl
  | cons q l ih =>
    rw [List.map_cons, List.mem_cons, not_or] at h
    rw [tblGet, if_neg (Ne.symm h.1)]
    exact ih h.2

/-- What the erase of the SRAM leaves empty, and what stays. -/
structure Wiped (s t : State) : Prop where
  recs : t.store.recs = []
  ctl : t.store.ctl = []
  staging : t.mem.staging = []
  refs : t.mem.refs = []
  req : t.mbx.req = []
  resp : t.mbx.resp = []
  shared : t.store.shared = s.store.shared
  engines : ∀ n, n < 64 → Erased (engGet t n)

theorem sramErase_wiped : Wiped s (sramErase s) where
  recs := rfl
  ctl := rfl
  staging := rfl
  refs := rfl
  req := rfl
  resp := rfl
  shared := by
    have h := congrArg Store.shared (forNats_engErase_store (s := s) ((s.eng.map (·.1)).filter (fun n => decide (n < 64) || n == 66)))
    exact h
  engines n hn := by
    unfold sramErase badgerLoad
    dsimp only
    rw [engGet_engMap_other _ (by omega)]
    refine forNats_engErase ((s.eng.map (·.1)).filter (fun n => decide (n < 64) || n == 66)) ?_
    by_cases hm : n ∈ s.eng.map (·.1)
    · exact Or.inl (List.mem_filter.mpr ⟨hm, by simp [hn]⟩)
    · rw [engGet_absent hm]
      exact Or.inr ⟨rfl, rfl, rfl⟩

/-- Erased memories stay so under what keeps the store, the buffers and the memories of engines. -/
structure Untouched (t u : State) : Prop where
  store : u.store = t.store
  staging : u.mem.staging = t.mem.staging
  refs : u.mem.refs = t.mem.refs
  req : u.mbx.req = t.mbx.req
  resp : u.mbx.resp = t.mbx.resp
  engines : ∀ n, Erased (engGet t n) → Erased (engGet u n)

theorem Untouched.refl (t : State) : Untouched t t := ⟨rfl, rfl, rfl, rfl, rfl, fun _ h => h⟩

theorem Untouched.trans {v : State} (h : Untouched t u) (k : Untouched u v) : Untouched t v :=
  ⟨k.store.trans h.store, k.staging.trans h.staging, k.refs.trans h.refs, k.req.trans h.req, k.resp.trans h.resp,
    fun n e => k.engines n (h.engines n e)⟩

theorem Untouched.foldl {α : Type} {f : State → α → State} (hf : ∀ z x, Untouched z (f z x)) (l : List α) (t : State) :
    Untouched t (l.foldl f t) := by
  induction l generalizing t with
  | nil => exact refl t
  | cons x l ih => exact (hf t x).trans (ih _)

theorem Untouched.of_logged (h : Logged t u) (hreq : u.mbx.req = t.mbx.req) (hresp : u.mbx.resp = t.mbx.resp) : Untouched t u where
  store := h.frame.store
  staging := h.frame.staging
  refs := h.frame.refs
  req := hreq
  resp := hresp
  engines n e := by
    unfold Erased at e ⊢
    rw [(h.woken n).alike]
    exact e

theorem Wiped.untouched (h : Wiped s t) (k : Untouched t u) : Wiped s u where
  recs := by rw [k.store, h.recs]
  ctl := by rw [k.store, h.ctl]
  staging := k.staging.trans h.staging
  refs := k.refs.trans h.refs
  req := k.req.trans h.req
  resp := k.resp.trans h.resp
  shared := by rw [k.store, h.shared]
  engines n hn := k.engines n (h.engines n hn)

theorem blockRefuse_untouched (bs : List Byte) (st : Nat) : Untouched s (blockRefuse s bs st) := by
  unfold blockRefuse
  generalize hz : cntAdd { s with mem := { s.mem with lastst := st } } 0x9008 1 = z
  have h1 : Untouched s z := hz ▸ ⟨rfl, rfl, rfl, rfl, rfl, fun _ h => h⟩
  obtain ⟨hreq, hresp⟩ := fltWrite_buffers (s := z) 5 (pbId bs) (BitVec.ofNat 32 st) 0
  exact h1.trans (.of_logged (Logged.fltWrite z 5 _ _ _) hreq hresp)

theorem vetAccept_untouched (blocks : List (List Byte)) : Untouched s (vetAccept s blocks) := by
  have h0 (v : List (List Byte)) (z : State) : Untouched z { z with mem := { z.mem with vet := v } } :=
    ⟨rfl, rfl, rfl, rfl, rfl, fun _ h => h⟩
  unfold vetAccept
  refine (h0 [] s).trans (Untouched.foldl (fun z b => ?_) blocks _)
  split
  · exact h0 _ z
  · exact blockRefuse_untouched b _

theorem bankPut_erased {e : Engine} (b : Bool) (x : Bank) (h : Erased e) : Erased (bankPut e b x) := by
  unfold bankPut
  split <;> exact h

theorem bankFill_untouched (k : Nat) (blocks : List (List Byte)) : Untouched s (bankFill s k blocks) where
  store := rfl
  staging := rfl
  refs := rfl
  req := rfl
  resp := rfl
  engines n h := by
    unfold bankFill
    by_cases hn : n = k
    · subst hn
      rw [engGet_engMap]
      exact bankPut_erased true {} (bankPut_erased false ((blocks.filter (fun b => pbFor b n)).foldl (applyBlock s.io.keys) freshBank) h)
    · rw [engGet_engMap_other _ hn]
      exact h

theorem setBState_untouched (b : BState) : Untouched s (setBState s b) := by
  unfold setBState
  split
  · exact .refl s
  · have h0 : Untouched s { s with bstate := b } := ⟨rfl, rfl, rfl, rfl, rfl, fun _ h => h⟩
    refine h0.trans (.of_logged (Logged.pulse { s with bstate := b } 308) ?_ ?_) <;> rw [pulse_mbx]

/-! The Sett's own part of it keeps the shared words. -/

theorem settEvent_store (type item : Nat) (old new : Word) (f : BatHdr → BatHdr) : (settEvent s type item old new f).store = s.store := by
  unfold settEvent
  split <;> rfl

theorem settUnlock_store (b : Bool) : (settUnlock s b).store = s.store := by
  unfold settUnlock
  split
  · rfl
  · exact settEvent_store ..

theorem sealClose_store : (sealClose s).store = s.store := by
  unfold sealClose
  split
  · exact (settEvent_store ..).trans (freezeStep_store _)
  · rfl

theorem settHalt_store : (settHalt s).store = s.store := rfl

theorem settIdle_store : (settIdle s).store = s.store := by
  unfold settIdle
  split
  · exact sealClose_store.trans settHalt_store
  · rfl

theorem engineStop_store (k : Nat) : (engineStop s k).store = s.store := by
  unfold engineStop
  exact (freezeStep_store _).trans (fetchLeft_framed false).store

theorem enginesStop_store (l : List Nat) : (enginesStop s l).store = s.store :=
  forNats_keeps (π := State.store) (f := fun z n => scanClear (engineStop z n) n) (fun _ k => engineStop_store k) l s

theorem settWipe_shared : (settWipe s).store.shared = s.store.shared := rfl

theorem settErase_shared : (settErase s).store.shared = s.store.shared := by
  unfold settErase
  rw [settUnlock_store, settIdle_store, enginesStop_store, settWipe_shared]

end Sys2Proof.Machine
end

section
/-! Run control through the debug windows. -/

namespace Sys2Proof.Machine

variable {s t z : State} {n : Nat}

/-! The bits of a context record. -/

theorem getLsbD_recPutBits (r : Rec) (o k v i : Nat) (h : 8 * o + k ≤ 1024) :
    (recPutBits r o k v).getLsbD i = if 8 * o ≤ i ∧ i < 8 * o + k then v.testBit (i - 8 * o) else r.getLsbD i := by
  unfold recPutBits
  rw [BitVec.getLsbD_or, BitVec.getLsbD_and, BitVec.getLsbD_not, BitVec.getLsbD_ofNat, BitVec.getLsbD_ofNat, Nat.testBit_mul_two_pow,
    Nat.testBit_mul_two_pow, Nat.testBit_two_pow_sub_one, Nat.testBit_mod_two_pow]
  by_cases hr : 8 * o ≤ i ∧ i < 8 * o + k
  · have h1 : i - 8 * o < k := by omega
    have h2 : i < 1024 := by omega
    simp [hr, h1, h2]
  · rw [if_neg hr]
    by_cases h2 : i < 1024
    · have h1 : ¬ (8 * o ≤ i ∧ i - 8 * o < k) := by omega
      simp only [not_and] at h1
      by_cases h3 : 8 * o ≤ i
      · simp [h1 h3, h2]
      · simp [h3, h2]
    · rw [BitVec.getLsbD_of_ge r i (by omega)]
      simp [h2]

theorem getLsbD_recWord (r : Rec) (o j : Nat) : (recWord r o).getLsbD j = (decide (j < 32) && r.getLsbD (8 * o + j)) := by
  unfold recWord
  rw [BitVec.getLsbD_setWidth, BitVec.getLsbD_ushiftRight]

/-- A record with its lock free and the tag UNC_UNLOCKED. -/
def freed (r : Rec) : Rec := recPutBits (recPutWord r 0x18 (lockWord none)) 0x0C 4 7

theorem getLsbD_freed (r : Rec) (i : Nat) : (freed r).getLsbD i =
    if 96 ≤ i ∧ i < 100 then (7 : Nat).testBit (i - 96) else if 192 ≤ i ∧ i < 224 then false else r.getLsbD i := by
  unfold freed recPutWord lockWord
  rw [getLsbD_recPutBits _ _ _ _ _ (by omega), getLsbD_recPutBits _ _ _ _ _ (by omega)]
  simp

theorem recLock_freed (r : Rec) : recLock (freed r) = 0 := by
  refine BitVec.eq_of_getLsbD_eq fun j hj => ?_
  rw [recLock, getLsbD_recWord, getLsbD_freed, if_neg (by omega), if_pos (by omega)]
  simp

theorem recPtr_freed (r : Rec) : recPtr (freed r) = recPtr r := by
  refine BitVec.eq_of_getLsbD_eq fun j hj => ?_
  rw [recPtr, recPtr, getLsbD_recWord, getLsbD_recWord, getLsbD_freed, if_neg (by omega), if_neg (by omega)]

theorem recTag_freed (r : Rec) : recWord (freed r) 0xC &&& 0xF = 7 := by
  refine BitVec.eq_of_getLsbD_eq fun j hj => ?_
  rw [BitVec.getLsbD_and, getLsbD_recWord, getLsbD_freed]
  by_cases h4 : j < 4
  · rw [if_pos (by omega), show 8 * 0xC + j - 96 = j by omega]
    interval_cases j <;> decide
  · have h15 : (15 : BitVec 32).getLsbD j = false := by
      rw [show (15 : BitVec 32) = BitVec.ofNat 32 (2 ^ 4 - 1) from rfl, BitVec.getLsbD_ofNat, Nat.testBit_two_pow_sub_one]
      simp [h4]
    have h7 : (7 : BitVec 32).getLsbD j = false := by
      rw [show (7 : BitVec 32) = BitVec.ofNat 32 (2 ^ 3 - 1) from rfl, BitVec.getLsbD_ofNat, Nat.testBit_two_pow_sub_one]
      simp [show ¬ j < 3 by omega]
    rw [h15, h7, Bool.and_false]

/-! The locks that a debugger frees. -/

theorem mem_addNat {j k : Nat} {l : List Nat} : j ∈ addNat k l ↔ j = k ∨ j ∈ l := by
  induction l with
  | nil => simp [addNat]
  | cons a l ih =>
    unfold addNat
    split
    next h =>
      rw [h]
      simp
    · split
      · exact List.mem_cons
      next => rw [List.mem_cons, ih, List.mem_cons, or_left_comm]

/-- `t` is `s` but for its records and the contexts marked for the publication. -/
def RecordsOnly (s t : State) : Prop := t = { s with store := { s.store with recs := t.store.recs }, pub := t.pub }

theorem RecordsOnly.trans (h : RecordsOnly s z) (k : RecordsOnly z t) : RecordsOnly s t := by
  unfold RecordsOnly at *
  rw [k, h]

/-- A state with one copy of each record. -/
def Single (s : State) : Prop := isMirrored s = false ∧ s.svc.fill = false

theorem RecordsOnly.kept (h : RecordsOnly s t) : t.svc = s.svc ∧ t.mem = s.mem ∧ t.store.ctl = s.store.ctl ∧ t.cnt = s.cnt ∧
    t.eng = s.eng := by
  rw [h]
  exact ⟨rfl, rfl, rfl, rfl, rfl⟩

theorem RecordsOnly.single (h : RecordsOnly s t) (hs : Single s) : Single t := by
  unfold Single isMirrored at *
  rw [h.kept.1]
  exact hs

theorem RecordsOnly.tileBad (h : RecordsOnly s t) (hs : Single s) (i k : Nat) : recTileBad t i k = recTileBad s i k := by
  obtain ⟨hm, hf⟩ := hs
  obtain ⟨hm', hf'⟩ := h.single ⟨hm, hf⟩
  rw [recTileBad_one hm hf, recTileBad_one hm' hf', Machine.tileBad, Machine.tileBad, h.kept.2.1]

theorem ctlGet_single (hs : Single s) (i : Nat) : ctlGet s i = tblGet 0 i s.store.ctl := by
  rw [ctlGet, (tileCopies_one hs.1 hs.2 i).2]

theorem freeOne_single (hs : Single s) {i : Nat} (hb : recTileBad s i 0 = false) :
    freeOne s i = if ctlPubl (ctlGet s i) then pubMark (recPut1 s i (freed (recGet s i))) i else recPut1 s i (freed (recGet s i)) := by
  unfold freeOne lockFreeBy
  rw [recMerge_one hs.1 hs.2 hb]
  rfl

/-- The contexts of `l` are freed in `t`, and no other record changes. -/
structure Freed (s t : State) (l : List Nat) : Prop where
  frame : RecordsOnly s t
  freed : ∀ i ∈ l, recLock (recGet t i) = 0 ∧ recPtr (recGet t i) = recPtr (recGet s i) ∧ recWord (recGet t i) 0xC &&& 0xF = 7 ∧
    (ctlPubl (ctlGet s i) = true → i ∈ t.pub.pend0 ∧ i ∈ t.pub.pend1)
  others : ∀ i, i ∉ l → recGet t i = recGet s i

theorem Freed.ptr {l : List Nat} (h : Freed s t l) (i : Nat) : recPtr (recGet t i) = recPtr (recGet s i) := by
  by_cases hi : i ∈ l
  · exact (h.freed i hi).2.1
  · rw [h.others i hi]

/-- What freeing one record does to it, to the others and to the marks. -/
theorem freeOne_facts (hs : Single s) {i : Nat} (hb : recTileBad s i 0 = false) : RecordsOnly s (freeOne s i) ∧
    recGet (freeOne s i) i = freed (recGet s i) ∧ (∀ j, j ≠ i → recGet (freeOne s i) j = recGet s j) ∧
    (∀ j, j ∈ s.pub.pend0 → j ∈ (freeOne s i).pub.pend0) ∧ (∀ j, j ∈ s.pub.pend1 → j ∈ (freeOne s i).pub.pend1) ∧
    (ctlPubl (ctlGet s i) = true → i ∈ (freeOne s i).pub.pend0 ∧ i ∈ (freeOne s i).pub.pend1) := by
  obtain ⟨hself, hother⟩ := recGet_recPut1 (s := s) i (freed (recGet s i))
  rw [freeOne_single hs hb]
  by_cases hc : ctlPubl (ctlGet s i) = true
  · rw [if_pos hc]
    exact ⟨rfl, hself, hother, fun j hj => mem_addNat.mpr (Or.inr hj), fun j hj => mem_addNat.mpr (Or.inr hj),
      fun _ => ⟨mem_addNat.mpr (Or.inl rfl), mem_addNat.mpr (Or.inl rfl)⟩⟩
  · rw [if_neg hc]
    exact ⟨rfl, hself, hother, fun _ h => h, fun _ h => h, fun h => absurd h hc⟩

theorem Freed.step {l : List Nat} (h : Freed s t l) (hs : Single s) {i : Nat} (hb : recTileBad s i 0 = false) :
    Freed s (freeOne t i) (i :: l) := by
  have ht := h.frame.single hs
  obtain ⟨hf, hself, hother, h0, h1, hp⟩ := freeOne_facts ht ((h.frame.tileBad hs i 0).trans hb)
  have hctl (j : Nat) : ctlGet t j = ctlGet s j := by rw [ctlGet_single ht, ctlGet_single hs, h.frame.kept.2.2.1]
  refine ⟨h.frame.trans hf, fun j hj => ?_, fun j hj => ?_⟩
  · by_cases hji : j = i
    · subst hji
      rw [hself]
      exact ⟨recLock_freed _, (recPtr_freed _).trans (h.ptr j), recTag_freed _, fun hc => hp ((hctl j).symm ▸ hc)⟩
    · obtain ⟨hl, hptr, htag, hpub⟩ := h.freed j ((List.mem_cons.mp hj).resolve_left hji)
      rw [hother j hji]
      exact ⟨hl, hptr, htag, fun hc => ⟨h0 j (hpub hc).1, h1 j (hpub hc).2⟩⟩
  · rw [List.mem_cons, not_or] at hj
    rw [hother j hj.1, h.others j hj.2]

theorem forNats_freed (hs : Single s) (l : List Nat) (hb : ∀ i ∈ l, recTileBad s i 0 = false) {d : List Nat} (h : Freed s t d) :
    Freed s (forNats l freeOne t) (l.reverse ++ d) := by
  unfold forNats
  induction l generalizing t d with
  | nil => exact h
  | cons i l ih =>
    rw [List.reverse_cons, List.append_assoc]
    exact ih (fun j hj => hb j (List.mem_cons_of_mem _ hj)) (h.step hs (hb i List.mem_cons_self))

theorem locks_freed (hs : Single s) {l : List Nat} (hb : ∀ i ∈ l, recTileBad s i 0 = false) : Freed s (forNats l freeOne s) l := by
  have h0 : Freed s s [] := ⟨rfl, fun i hi => absurd hi List.not_mem_nil, fun _ _ => rfl⟩
  obtain ⟨hf, hm, ho⟩ := forNats_freed hs l hb h0
  exact ⟨hf, fun i hi => hm i (by simpa using hi), fun i hi => ho i (by simpa using hi)⟩

/-! Halts. -/

/-- In a unit whose engines run alone, a window reaches its own engine. -/
theorem dbgPair_single (hn : n < 64) (hp : isPaired s = false) : dbgPair s n = [n] ∧ lockId s n = n ∧ isHead s n = true := by
  have h64 : isSettEng n = false := by
    unfold isSettEng
    simp
    omega
  have hid : lockId s n = n := by
    unfold lockId
    rw [if_neg (by omega), hp]
    rfl
  refine ⟨?_, hid, ?_⟩
  · unfold dbgPair pairOf
    rw [h64, hp]
    rfl
  · rw [isHead, hid, beq_self_eq_true]

theorem forNats_one (f : State → Nat → State) (n : Nat) (s : State) : forNats [n] f s = f s n := rfl

theorem wakeEng_dbg (n : Nat) : (engGet (wakeEng s n) n).dbg = (engGet s n).dbg ∧ ∀ m, m ≠ n → engGet (wakeEng s n) m = engGet s m := by
  unfold wakeEng
  refine ⟨?_, fun m hm => engGet_engMap_other _ hm _⟩
  rw [engGet_engMap]
  split <;> rfl

theorem haltRequest_pends {cause : Nat} (h : (engGet s n).dbg.pending = false) :
    (engGet (haltRequest s n cause) n).dbg = { (engGet s n).dbg with pending := true, cause := cause, since := ktb s } ∧
      (∀ m, m ≠ n → engGet (haltRequest s n cause) m = engGet s m) ∧ haltRequest s n cause = { s with eng := (haltRequest s n cause).eng } := by
  unfold haltRequest
  dsimp only
  rw [h, if_neg (by decide)]
  generalize hz : dbgMap s n _ = z
  obtain ⟨hd, ho⟩ := wakeEng_dbg (s := z) n
  refine ⟨?_, fun m hm => ?_, ?_⟩
  · rw [hd, ← hz, dbgMap, engGet_engMap]
  · rw [ho m hm, ← hz, dbgMap, engGet_engMap_other _ hm]
  · rw [← hz]
    rfl

theorem saveSet_kept (e : Engine) (k : Nat) (v : Save) : (saveSet e k v).pc = e.pc ∧ (saveSet e k v).dbg = e.dbg := by
  unfold saveSet
  split <;> exact ⟨rfl, rfl⟩

theorem sprPut_kept (e : Engine) (k : Nat) (v : Word) : (sprPut e k v).pc = e.pc ∧ (sprPut e k v).dbg = e.dbg := by
  unfold sprPut
  dsimp only
  split
  case h_8 =>
    split
    · exact saveSet_kept ..
    · exact ⟨rfl, rfl⟩
  all_goals exact ⟨rfl, rfl⟩

/-- A write to a register of a halted engine moves neither its PC nor its halt. -/
theorem regWrite_kept (e : Engine) (w : Bool × Nat × W128) : (regWrite e w).pc = e.pc ∧ (regWrite e w).dbg = e.dbg := by
  unfold regWrite
  dsimp only
  split
  · split
    · unfold putC
      split <;> exact ⟨rfl, rfl⟩
    · exact saveSet_kept ..
  · split
    · unfold putG
      split <;> exact ⟨rfl, rfl⟩
    · split
      · exact ⟨rfl, rfl⟩
      · exact sprPut_kept ..

theorem regWrites_kept (l : List (Bool × Nat × W128)) (e : Engine) : (l.foldl regWrite e).pc = e.pc ∧ (l.foldl regWrite e).dbg = e.dbg := by
  induction l generalizing e with
  | nil => exact ⟨rfl, rfl⟩
  | cons w l ih => exact ⟨(ih _).1.trans (regWrite_kept e w).1, (ih _).2.trans (regWrite_kept e w).2⟩

end Sys2Proof.Machine
end

section
/-! The debugger's commands, from the unlock to the halt that is taken. -/

namespace Sys2Proof.Machine

variable {s t z : State} {n : Nat}

theorem Frozen.kept {e f : Engine} (h : Frozen e f) : f.pc = e.pc ∧ f.dbg = e.dbg ∧ f.g = e.g := by
  rw [h]
  exact ⟨rfl, rfl, rfl⟩

theorem Woken.kept {e f : Engine} (h : Woken e f) : f.pc = e.pc ∧ f.dbg = e.dbg ∧ f.g = e.g := by
  rw [h.alike]
  exact ⟨rfl, rfl, rfl⟩

/-- An engine that leaves its halt, its registers written. -/
def resumed (sub : Nat) (e : Engine) : Engine :=
  { e.dbg.writes.foldl regWrite e with
    dbg := { (e.dbg.writes.foldl regWrite e).dbg with
      halted := false, intrap := false, cause := 0, stepping := sub == 1, writes := [] } }

theorem resumeNow_rest (sub n : Nat) : engGet (resumeNow s sub n) n = resumed sub (engGet s n) ∧ (resumeNow s sub n).store = s.store := by
  unfold resumeNow
  dsimp only
  refine ⟨?_, (trcEngMark_rest ..).2.1⟩
  rw [trcEngMark_engGet, dbgMap, engGet_engMap, engGet_engMap]
  rfl

theorem resumeCmd_rest {sub : Nat} (hn : n < 64) (hp : isPaired s = false) (hd : dbgCommand s n = true)
    (hh : (engGet s n).dbg.halted = true) : let t := resumeCmd s sub n
    (engGet t n).dbg.halted = false ∧ (engGet t n).dbg.stepping = (sub == 1) ∧ (engGet t n).pc = (engGet s n).pc ∧ t.store = s.store ∧
      (engGet t n).dbg.writes = [] ∧ (engGet t n).g = ((engGet s n).dbg.writes.foldl regWrite (engGet s n)).g := by
  unfold resumeCmd
  rw [hd, hh, if_pos (by decide), (dbgPair_single hn hp).1, forNats_one]
  obtain ⟨he, hs⟩ := resumeNow_rest (s := s) sub n
  obtain ⟨hpc, hdbg, hg⟩ := (freezeStep_frozen (s := s) (resumeNow s sub n) n).kept
  rw [he] at hpc hdbg hg
  refine ⟨by rw [hdbg]; rfl, by rw [hdbg]; rfl, ?_, (freezeStep_store _).trans hs, by rw [hdbg]; rfl, hg⟩
  exact hpc.trans (regWrites_kept _ _).1

theorem lockfreeCmd_rest (hn : n < 64) (hp : isPaired s = false) (hd : dbgCommand s n = true) (hh : (engGet s n).dbg.halted = true)
    (hl : (engGet s n).dbg.lockheld = true) (hs : Single s) (hb : ∀ i ∈ locksOf s n, recTileBad s i 0 = false) :
    let t := lockfreeCmd s n
    (engGet t n).dbg.lockheld = false ∧ cntGet t 0xD020 = satCount (cntGet s 0xD020) (locksOf s n).length ∧
      Freed s (forNats (locksOf s n) freeOne s) (locksOf s n) ∧ t.store = (forNats (locksOf s n) freeOne s).store ∧
      t.pub = (forNats (locksOf s n) freeOne s).pub := by
  have hf := locks_freed hs hb
  unfold lockfreeCmd
  dsimp only
  rw [if_pos ⟨hn, hd, hh, hl⟩, (dbgPair_single hn hp).2.1]
  generalize hz : forNats (locksOf s n) freeOne s = z at hf ⊢
  have hpair : dbgPair s n = [n] := (dbgPair_single hn hp).1
  rw [hpair, forNats_one, dbgMap, engGet_engMap]
  refine ⟨rfl, ?_, hf, rfl, rfl⟩
  refine (cntGet_cntAdd z 0xD020 _).trans ?_
  rw [cntGet, hf.frame.kept.2.2.2.1, ← cntGet]

/-- The PC at which an engine halts: that of a wait in a delay slot is its transfer's. -/
theorem haltNow_rest (n : Nat) : (engGet (haltNow s n) n).dbg.halted = true ∧ (engGet (haltNow s n) n).dbg.pending = false ∧
    ((engGet s n).xfer = none → (engGet (haltNow s n) n).pc = (engGet s n).pc ∧ (engGet (haltNow s n) n).dbg.hpc = (engGet s n).pc) ∧
    (haltNow s n).svc = s.svc := by
  unfold haltNow
  extract_lets e trap wait pc lc held s1
  have h1 : engGet (trcEngMark s1 n 6 10 e.dbg.cause pc (estat (engGet s1 n)) 0) n = engGet s1 n := trcEngMark_engGet ..
  have h2 : (trcEngMark s1 n 6 10 e.dbg.cause pc (estat (engGet s1 n)) 0).svc = s1.svc := by
    unfold trcEngMark
    split
    · exact trcPut_svc ..
    · rfl
  rw [h1, h2]
  refine ⟨?_, ?_, fun hx => ?_, (fetchLeft_framed _).svc⟩
  · simp only [s1]
    rw [engGet_engMap]
  · simp only [s1]
    rw [engGet_engMap]
  · have hpc : pc = (engGet s n).pc := by
      simp only [pc, e]
      rw [hx]
    simp only [s1]
    rw [engGet_engMap]
    exact ⟨hpc, hpc⟩

theorem haltRequest_rest (k cause : Nat) : (haltRequest s k cause).svc = s.svc ∧
    ∀ m, m ≠ k → engGet (haltRequest s k cause) m = engGet s m := by
  unfold haltRequest
  dsimp only
  split
  · exact ⟨rfl, fun _ _ => rfl⟩
  · refine ⟨rfl, fun m hm => ?_⟩
    rw [(wakeEng_dbg k).2 m hm, dbgMap, engGet_engMap_other _ hm]

/-- A group halt requests halts of the other engines of the group alone. -/
theorem groupHalt_engGet (hp : isPaired s = false) (n : Nat) : engGet (groupHalt s n) n = engGet s n := by
  have key (l : List Nat) (hl : ∀ m ∈ l, m < 64 ∧ m ≠ n) (z : State) (hz : z.svc = s.svc) :
      engGet (forNats l (fun z m => forNats (dbgPair z m) (fun y k => haltRequest y k 4) z) z) n = engGet z n := by
    unfold forNats
    induction l generalizing z with
    | nil => rfl
    | cons m l ih =>
      obtain ⟨h64, hmn⟩ := hl m List.mem_cons_self
      have hpz : isPaired z = false := by
        unfold isPaired at hp ⊢
        rw [hz]
        exact hp
      obtain ⟨hsvc, hother⟩ := haltRequest_rest (s := z) m 4
      rw [List.foldl_cons, (dbgPair_single h64 hpz).1]
      exact (ih (fun k hk => hl k (List.mem_cons_of_mem _ hk)) _ (hsvc.trans hz)).trans (hother n (Ne.symm hmn))
  unfold groupHalt
  split
  · refine key _ (fun m hm => ?_) s rfl
    obtain ⟨h64, hc⟩ := List.mem_filter.mp hm
    refine ⟨List.mem_range.mp h64, fun e => ?_⟩
    simp [e] at hc
  · rfl

theorem debugHaltTaken_rest (hp : isPaired s = false) (n : Nat) :
    let t := hubWithdraw (freezeStep s (groupHalt (haltNow s n) n))
    (engGet t n).pc = (engGet (haltNow s n) n).pc ∧ (engGet t n).dbg = (engGet (haltNow s n) n).dbg := by
  have hp' : isPaired (haltNow s n) = false := by
    unfold isPaired at hp ⊢
    rw [(haltNow_rest n).2.2.2]
    exact hp
  have hw := (hubWithdraw_logged (s := freezeStep s (groupHalt (haltNow s n) n))).woken n
  have hf := freezeStep_frozen (s := s) (groupHalt (haltNow s n) n) n
  rw [groupHalt_engGet hp'] at hf
  exact ⟨hw.kept.1.trans hf.kept.1, hw.kept.2.1.trans hf.kept.2.1⟩

/-- Settles O43: the unlock by what it erases, each command by what it does to its own engine. -/
theorem debugRunControl : Obligations.DebugRunControl := by
  unfold Obligations.DebugRunControl
  intro s hup
  refine ⟨fun v hl hv => ?_, fun hl hu hb hd => ?_, fun blocks hu hd => ?_, fun n hn hp hd => ⟨fun hr hpend => ?_, fun hh => ⟨?_, ?_⟩,
    fun hh hlh hm hf hb => ?_⟩, fun n hn hp hr hps hh hdue hpt => ?_, fun n hn hd => ?_⟩
  · refine (if_pos hup).trans (congrArg Host.Outcome.next ?_)
    have hv' : (v == 0x4B434C55) = false := beq_eq_false_iff_ne.mpr hv
    unfold unlockWrite unlockRefused
    rw [hl, hv']
    rfl
  · have hw : unlockWrite s 0x4B434C55 = unlockStart s := by
      unfold unlockWrite unlockRefused
      rw [hl, hb, hd, hu]
      rfl
    refine ⟨unlockStart s, (if_pos hup).trans (by rw [hw]), ?_, ?_, unlockStart_hold, ?_⟩ <;> rw [unlockStart_io]
    exact hl
  · let s1 := sramErase (if s.io.settdbg then settErase s else s)
    have hw1 : Wiped s s1 := by
      have hs := sramErase_wiped (s := if s.io.settdbg then settErase s else s)
      refine ⟨hs.recs, hs.ctl, hs.staging, hs.refs, hs.req, hs.resp, hs.shared.trans ?_, hs.engines⟩
      split
      · exact settErase_shared
      · rfl
    have hw := ((hw1.untouched (vetAccept_untouched blocks)).untouched (Untouched.foldl (fun z n => bankFill_untouched n z.mem.vet)
      ((List.range 67).filter (fun n => s.io.settdbg || !isSettEng n)) _)).untouched (setBState_untouched .awaitImage)
    exact ⟨_, if_pos ⟨hu, hd⟩, rfl, rfl, setBState_bstate _, hw.recs, hw.ctl, hw.staging, hw.refs, hw.req, hw.resp, hw.shared, hw.engines⟩
  · obtain ⟨hdbg, hother, hrest⟩ := haltRequest_pends (cause := 1) hpend
    refine ⟨haltRequest s n 1, (if_pos ⟨by omega, hup⟩).trans (congrArg Host.Outcome.next ?_), hdbg, hother, hrest⟩
    unfold haltCmd
    rw [hd, hr, (dbgPair_single hn hp).1]
    rfl
  · obtain ⟨h1, h2, h3, h4, h5, h6⟩ := resumeCmd_rest (sub := 0) hn hp hd hh
    exact ⟨_, if_pos ⟨by omega, hup⟩, h1, h2, h3, h4, h5, h6⟩
  · obtain ⟨h1, h2, h3, h4, _⟩ := resumeCmd_rest (sub := 1) hn hp hd hh
    exact ⟨_, if_pos ⟨by omega, hup⟩, h1, h2, h3, h4⟩
  · obtain ⟨hlk, hcnt, hfr, hst, hpub⟩ := lockfreeCmd_rest hn hp hd hh hlh ⟨hm, hf⟩ hb
    refine ⟨_, if_pos ⟨by omega, hup⟩, hlk, hcnt, fun i => ⟨fun hi => ?_, fun hi => ?_⟩⟩
    · obtain ⟨h1, h2, h3, h4⟩ := hfr.freed i hi
      rw [recGet, hst, hpub, ← recGet]
      exact ⟨h1, h2, h3, h4⟩
    · rw [recGet, hst, ← recGet]
      exact hfr.others i hi
  · obtain ⟨hhalt, hpend, hpc, _⟩ := haltNow_rest (s := s) n
    obtain ⟨htpc, htdbg⟩ := debugHaltTaken_rest hp n
    have hpair := dbgPair_single hn hp
    refine ⟨hubWithdraw (freezeStep s (groupHalt (haltNow s n) n)), ?_, by rw [htdbg, hhalt], by rw [htdbg, hpend], fun hx => ?_⟩
    · change execDebugHaltTaken n s = _
      unfold execDebugHaltTaken
      dsimp only
      rw [if_pos ⟨by omega, hpair.2.2, hr, hps, hh, hdue, hpt⟩, hpair.1, forNats_one]
    · rw [htpc, htdbg]
      exact hpc hx
  · have hrej (c : Prop) [Decidable c] (z : State) (hc : ¬ c) : (if c then z else lockRej s) = lockRej s := if_neg hc
    refine ⟨?_, ?_, ?_, ?_⟩ <;> refine (if_pos ⟨hn, hup⟩).trans (congrArg Host.Outcome.next (hrej _ _ ?_)) <;> rw [hd] <;> simp

end Sys2Proof.Machine
end

section
/-! The access registers of a debug window, and its terminal. -/

namespace Sys2Proof.Machine

variable {s : State} {n : Nat}

theorem dbgRead_mem (hsp : accSpace s n = 0) : dbgRead s n = dbgReadMem s n := by
  unfold dbgRead
  rw [hsp]
  rfl

/-- A read of one word of a good tile changes nothing. -/
theorem dbgReadMem_word {a : Nat} {r : Region} (ht : accTile s n = false) (hc : accConsume s n = false)
    (hspan : dbgSpan s n = some (a, 4, r)) (hbad : dbgBadTile s n a r = none) :
    dbgReadMem s n = (bytesWord (dbgBytes s n a 4 r) 0, s) := by
  unfold dbgReadMem dbgStored
  rw [hspan]
  dsimp only
  rw [hbad, ht, hc]
  rfl

theorem dbgReadMem_none (hspan : dbgSpan s n = none) : dbgReadMem s n = (0, errSet s n 1) := by
  unfold dbgReadMem dbgReadErr
  rw [hspan]

theorem errSet_err (v : Nat) : tblGet 0 n (errSet s n v).io.err = tblGet 0 n s.io.err ||| v := tblGet_tblSet_self ..

/-- A write through the window of an engine that runs alone reaches that engine. -/
theorem dbgWrite_one (hn : n < 64) (hp : isPaired s = false) (hr : dbgReach s n = true) (v : Word) :
    dbgWrite s n v = dbgWriteOne s n n v := by
  unfold dbgWrite dbgReadOnly
  rw [hr, hp, if_neg (by decide), if_neg (by omega), (dbgPair_single hn hp).1]
  rfl

theorem dbgWriteOne_dmem {a : Nat} (hsp : accSpace s n = 0) (ht : accTile s n = false) (hspan : dbgSpan s n = some (a, 4, .dmem))
    (hbad : dbgBadTile s n a .dmem = none) (v : Word) :
    dbgWriteOne s n n v = engMap s n (fun e => dmemPut e (a - 0x10000000) (leBytes 4 v.toNat) false) := by
  unfold dbgWriteOne
  rw [hsp]
  change dbgWriteMem s n n v = _
  unfold dbgWriteMem
  rw [hspan]
  dsimp only
  rw [hbad, ht]
  rfl

theorem dbgWriteOne_reg (hsp : accSpace s n = 3) (ht : accTile s n = false) (hh : (engGet s n).dbg.halted = true)
    (hw : regWritable false (regGet s (dbgWin n 0x14)).toNat = true) (v : Word) : dbgWriteOne s n n v =
      dbgMap s n (fun d => { d with writes := d.writes ++ [(false, (regGet s (dbgWin n 0x14)).toNat, v.setWidth 128)] }) := by
  unfold dbgWriteOne
  rw [hsp]
  change dbgWriteReg s n n v = _
  unfold dbgWriteReg
  dsimp only
  rw [ht, hh, hw]
  rfl

/-- The terminal of an engine outside the Sett is reached by its own window. -/
theorem terminal_single (hn : n < 67) (hs : isSettEng n = false) (hp : isPaired s = false) :
    termReach s n = true ∧ dbgPair s n = [n] ∧ dbgReadOnly s n = false := by
  unfold termReach dbgPair pairOf dbgReadOnly
  rw [hs, hp]
  exact ⟨decide_eq_true hn, rfl, rfl⟩

/-- Settles O44: each access by the space and the region that the window names. -/
theorem debugAccessesAndTerminals : Obligations.DebugAccessesAndTerminals := by
  unfold Obligations.DebugAccessesAndTerminals
  intro s n hup hn
  have hrd : ¬ (67 ≤ n ∨ hostUp s = false) := by
    rw [hup]
    simp
    omega
  have hread (h : dbgReach s n = true) (hsp : accSpace s n = 0) : exec (.debugDataRead n) s = .next (let q := dbgReadMem s n
      if accConsume s n then wakeEng { q.2 with hostRd := q.1.setWidth 64 } n else { q.2 with hostRd := q.1.setWidth 64 }) :=
    (if_neg hrd).trans ((if_pos h).trans (by rw [dbgRead_mem hsp]))
  have hwrite (v : Word) : exec (.debugDataWrite n v) s = .next (dbgWrite s n v) := if_pos ⟨hn, hup⟩
  have hrx (v : Word) : exec (.terminalRxWrite n v) s = .next (trxWrite s n v) := if_pos ⟨hn, hup⟩
  refine ⟨fun a r hr hsp ht hc hspan hbad => ?_, fun hr => (if_neg hrd).trans (if_neg (by simp [hr])), fun hr hsp hspan => ?_,
    fun a v h64 hp hr hsp ht hspan hbad => ?_, ?_, fun v hr => ?_, fun hs hp => ?_, fun v hs hp => ?_,
    fun hs hd => ?_, fun v hs => ?_⟩
  · rw [hread hr hsp, dbgReadMem_word ht hc hspan hbad, hc]
    rfl
  · refine ⟨_, hread hr hsp, fun hc => ?_⟩
    rw [dbgReadMem_none hspan, hc]
    exact ⟨rfl, rfl, errSet_err 1⟩
  · refine ⟨_, (hwrite v).trans (congrArg Host.Outcome.next ((dbgWrite_one h64 hp hr v).trans (dbgWriteOne_dmem hsp ht hspan hbad v))), ?_⟩
    rw [engGet_engMap]
    have hl : (leBytes 4 v.toNat).length = 4 := rfl
    refine ⟨?_, fun b hb => ?_, rfl, fun m hm => engGet_engMap_other _ hm _, rfl⟩
    · conv_lhs => rw [← hl]
      exact memBytes_memPut ..
    · exact memGet_memPut_outside _ _ _ _ (hl ▸ hb)
  · intro v h64 hp hr hsp ht hh a hw
    refine ⟨_, (hwrite v).trans (congrArg Host.Outcome.next ((dbgWrite_one h64 hp hr v).trans (dbgWriteOne_reg hsp ht hh hw v))), ?_⟩
    rw [dbgMap, engGet_engMap]
    exact ⟨rfl, rfl, fun m hm => engGet_engMap_other _ hm _, rfl⟩
  · rw [hwrite, dbgWrite, hr]
    rfl
  · obtain ⟨hr, hpair, _⟩ := terminal_single hn hs hp
    refine (if_neg hrd).trans ((if_pos hr).trans (congrArg Host.Outcome.next ?_))
    rw [ttxTake]
    exact congrArg (fun l => forNats l _ _) hpair
  · obtain ⟨hr, hpair, hro⟩ := terminal_single hn hs hp
    rw [hrx, trxWrite, hr, hs, hro, hpair]
    rfl
  · refine (if_neg hrd).trans (if_neg ?_)
    rw [termReach, hs, hd]
    exact Bool.false_ne_true
  · rw [hrx, trxWrite, hs, Bool.or_true]
    rfl

end Sys2Proof.Machine
end

section
/-! The wire. -/

namespace Sys2Proof.Machine

variable {s : State} {n a : Nat}

/-- An answer changes the answer alone. -/
theorem wireAnswer_rest (ack : Nat) (d : Option Word) : (wireAnswer s ack d).io.ack = ack ∧ (wireAnswer s ack d).io.rdata = d.getD 0 ∧
    wireAnswer s ack d = { s with io := (wireAnswer s ack d).io } := ⟨rfl, rfl, rfl⟩

/-- A denial after a count changes that counter and the answer. -/
theorem wireDenied_counted (c : Nat) : let t := wireDenied (cntAdd s c 1)
    t.io.ack = 6 ∧ t.io.rdata = 0 ∧ cntGet t c = satCount (cntGet s c) 1 ∧ t = { s with cnt := t.cnt, io := t.io } :=
  ⟨rfl, rfl, cntGet_cntAdd s c 1, rfl⟩

theorem lineError_rest : (lineError s).io.ack = 15 ∧ cntGet (lineError s) 0xD014 = satCount (cntGet s 0xD014) 1 ∧
    lineError s = { s with cnt := (lineError s).cnt, io := (lineError s).io } := by
  refine ⟨rfl, ?_, rfl⟩
  exact cntGet_cntAdd s 0xD014 1

theorem wireCheck_right {bits : List Bool} {crc : Byte} (h : crc8Bits bits = crc) (k : State) : wireCheck s bits crc k = k := if_pos h

theorem wireCheck_wrong {bits : List Bool} {crc : Byte} (h : crc8Bits bits ≠ crc) (k : State) :
    wireCheck s bits crc k = wireDenied (cntAdd s 0xD018 1) := if_neg h

/-- A read of a plain register answers its value. -/
theorem wireRead_plain (hm : winMapped a = true) (h : a < 0x200000 ∨ 0x400000 ≤ a ∧ a < 0x1000000) :
    wireRead s a = (winPeek s a, s) := by
  have ht : winTiled a = false := by
    unfold winTiled
    simp
    omega
  have hr : isRow 0x200018 0x1000 67 a = false := by
    refine Bool.eq_false_iff.mpr (fun e => ?_)
    obtain ⟨k, hk, e⟩ := (isRow_iff (by omega)).mp e
    omega
  unfold wireRead
  dsimp only
  rw [hm, ht, hr]
  rfl

theorem wireConsume_completion : wireConsume s 0x40010 =
    (cplWord s, { s with mbx := { s.mbx with cpl := s.mbx.cpl.tail, inflight := s.mbx.inflight - min 1 s.mbx.cpl.length } }) := by
  unfold wireConsume
  rw [show winMapped 0x40010 = true by decide, show winTiled 0x40010 = false by decide,
    show isRow 0x200020 0x1000 67 0x40010 = false by decide]
  exact winRead_completion 5

theorem half_setWidth (v : Word) : half false (v.setWidth 64) = v := by
  unfold half
  rw [if_neg (by decide), BitVec.setWidth_setWidth_of_le v (by omega), BitVec.setWidth_eq]

/-- A write to the windows goes to its own rule. -/
theorem winWrite_window (hl : 0x200000 ≤ a) (hh : a < 0x243000) (v : Word) :
    winWrite s a v = dbgWinWrite s ((a - 0x200000) / 0x1000) (a % 0x1000) v := by
  have hon : regOn s a = true := by
    unfold regOn regDomain
    rw [if_neg (by omega), if_neg (by omega), if_neg (by omega), if_neg (by omega), if_neg (by omega), if_neg (by omega),
      if_neg (by omega), if_neg (by omega), if_neg (by omega)]
  have hlow (x : Nat) (hx : 0x1FF000 ≤ x ∧ x < 0x243000) : isLow64 x = false := by
    refine Bool.eq_false_iff.mpr (fun e => ?_)
    have hout : ∀ y ∈ lowWords, y < 0x1FF000 ∨ 0x243000 ≤ y := by decide
    have := hout x (isLow64_mem e)
    omega
  unfold winWrite
  rw [hon, hlow a (by omega), hlow (a - 4) (by omega), Bool.false_and, if_neg (by decide), if_neg (by decide), if_neg (by decide),
    if_neg (by omega), if_neg (by omega), if_neg (by omega), if_neg (by omega), if_neg (by omega), if_neg (by omega), if_neg (by omega),
    if_neg (by omega), if_neg (by omega), if_pos (by omega)]

theorem hostWrite_unlock (v : Word) (h : unlockRefused s v = true) : hostWrite s 0xD004 v = lockRej s := by
  have hl : s.io.locked = true := by
    unfold unlockRefused at h
    rw [Bool.and_eq_true] at h
    exact h.1
  have hw : winWrite s 0xD004 v = kctlWrite s 0xD004 v := winWrite_kctl (by decide) (by decide) (by decide) v
  have hk : kctlWrite s 0xD004 v = unlockWrite s v := by
    unfold kctlWrite
    rw [show isRow 0x4100 0x20 8 0xD004 = false by decide, show isRow 0x6100 0x20 8 0xD004 = false by decide]
    rfl
  rw [hostWrite_low (by decide), hw, hk, unlockWrite, hl, h]
  rfl

/-- A refused write leaves one LOCKREJ and, for DATA, ERR.ACCERR. -/
def Rejected (s t : State) : Prop := t.cnt = (lockRej s).cnt ∧ t.eng = s.eng

/-- Run control of an engine that the windows do not command is refused. -/
theorem cmdWrite_rejected (hn : 64 ≤ n) {v : Word} (h : field v 3 0 = 8 ∨ n = 66 ∧ field v 3 0 ∈ [1, 2, 4]) :
    cmdWrite s n v = lockRej s := by
  unfold cmdWrite
  obtain h | ⟨rfl, h⟩ := h
  · rw [h]
    exact if_neg (fun c => absurd c.1 (by omega))
  · have hd : dbgCommand s 66 = false := rfl
    simp only [List.mem_cons, List.not_mem_nil, or_false] at h
    obtain h | h | h := h <;> rw [h]
    · change haltCmd s 66 = _
      rw [haltCmd, hd]
      rfl
    · change resumeCmd s 0 66 = _
      rw [resumeCmd, hd]
      rfl
    · change resumeCmd s 1 66 = _
      rw [resumeCmd, hd]
      rfl

/-- A write to DATA, the terminal or CMD of the last three windows that the wire refuses. -/
theorem dbgWinWrite_rejected (hn : 64 ≤ n) {o : Nat} {v : Word} (hreach : o = 0x18 → dbgReach s n = true)
    (h : o = 0x18 ∨ isSettEng n = true ∧ o = 0x24 ∨ o = 0x08 ∧ (field v 3 0 = 8 ∨ n = 66 ∧ field v 3 0 ∈ [1, 2, 4])) :
    Rejected s (dbgWinWrite s n o v) := by
  unfold dbgWinWrite
  obtain rfl | ⟨hs, rfl⟩ | ⟨rfl, hv⟩ := h
  · rw [if_neg (by decide), if_pos rfl, dbgWrite, hreach rfl, if_neg (by decide), if_pos hn]
    exact ⟨rfl, rfl⟩
  · rw [if_neg (by decide), if_neg (by decide), if_pos rfl, trxWrite, hs, Bool.or_true]
    exact ⟨rfl, rfl⟩
  · rw [if_pos rfl, cmdWrite_rejected hn hv]
    exact ⟨rfl, rfl⟩

theorem hostWrite_rejected {v : Word} (hr : wireRefused s a = false) (hw : wireWriteRefused s a v = true) :
    Rejected s (hostWrite s a v) := by
  have hh : hostRefused s a = false := by
    unfold wireRefused at hr
    exact (Bool.or_eq_false_iff.mp hr).2
  unfold wireWriteRefused at hw
  rw [hr] at hw
  simp only [Bool.false_or, Bool.or_eq_true, Bool.and_eq_true, beq_iff_eq, decide_eq_true_eq] at hw
  by_cases hD : a = 0xD004 ∧ unlockRefused s v = true
  · rw [hD.1, hostWrite_unlock v hD.2]
    exact ⟨rfl, rfl⟩
  · have hlate : 0x240000 ≤ a ∧ a < 0x243000 := by
      rcases hw with ((hw | ⟨h, _⟩) | ⟨⟨h, _⟩, _⟩) | ⟨⟨h, _⟩, _⟩
      · exact absurd hw hD
      · exact h
      · exact h
      · exact h
    have hn : 64 ≤ (a - 0x200000) / 0x1000 := by omega
    rw [hostWrite, hh, if_neg (by decide), winWrite_window (by omega) hlate.2]
    refine dbgWinWrite_rejected hn (fun ho => ?_) ?_
    · unfold hostRefused at hh
      rw [if_pos (by omega)] at hh
      dsimp only at hh
      unfold dbgReach
      split at hh
      next hs => rw [if_pos hs]; simpa using hh
      next hs =>
        rw [ho] at hh
        rw [if_neg hs]
        simpa [hasNat] using hh
    · rcases hw with ((hw | ⟨_, h⟩) | ⟨⟨_, h⟩, h'⟩) | ⟨⟨_, h⟩, h'⟩
      · exact absurd hw hD
      · exact Or.inl h
      · exact Or.inr (Or.inl ⟨h, h'⟩)
      · refine Or.inr (Or.inr ⟨h, h'.imp_right (fun h => ⟨h.1, hasNat_iff.mp h.2⟩)⟩)

/-- Settles O45: each frame by its check, and a write by the host's rule for the same register. -/
theorem sarernWireFrames : Obligations.SarernWireFrames := by
  unfold Obligations.SarernWireFrames
  intro s addr v crc hup haddr a rd rdc wr
  have hi (k : State) : (if hostUp s = false ∨ 16 ≤ 1 ∨ (2 ≤ 1 ∧ 1 ≤ 4) then Host.Outcome.next s else .next k :
      Host.Outcome State Fault Refusal) = .next k := if_neg (by rw [hup]; decide)
  have hwr : exec (.sarernWr addr v crc) s = .next (wireCheck s wr crc (if wireRefused s a then wireDenied (lockRej s)
      else if wireWriteRefused s a v then wireDenied (hostWrite s a v)
      else wireDone (if winMapped a then hostWrite s a v else accessFault s a 4 true) none)) := if_pos ⟨hup, haddr⟩
  have hrd (inTime : Bool) : exec (.sarernRd addr crc inTime) s = .next (wireCheck s rd crc (if wireRefused s a then wireDenied (lockRej s)
      else if inTime then wireDone (wireRead s a).2 (some (wireRead s a).1) else wireAgain s)) := if_pos ⟨hup, haddr⟩
  have hreg (hm : winMapped a = true) : exec (.registerWrite a false (v.setWidth 64)) s = .next (hostWrite s a v) := by
    rw [exec_registerWrite_word hup (Nat.mul_mod_right 4 addr) hm, half_setWidth]
  refine ⟨fun hc => ?_, fun hc => ?_, fun b hc => ?_, fun b hc hr => ?_, fun hc hr => ⟨?_, fun hm ha => ?_⟩,
    fun tag st rest ha hl hc hcpl => ?_, fun hc hw hm => ?_, fun hc hr hw hm => ?_, fun hc hr => ?_, ?_⟩
  · exact ⟨_, (hi _).trans (congrArg Host.Outcome.next (wireCheck_right hc _)), rfl, rfl, rfl⟩
  · exact ⟨_, (hi _).trans (congrArg Host.Outcome.next (wireCheck_wrong hc _)), wireDenied_counted _⟩
  · obtain ⟨h1, _, h2⟩ := wireDenied_counted (s := s) 0xD018
    exact ⟨_, (hrd b).trans (congrArg Host.Outcome.next (wireCheck_wrong hc _)), h1, h2⟩
  · obtain ⟨h1, _, h2⟩ := wireDenied_counted (s := s) 0xD01C
    exact ⟨_, (hrd b).trans (congrArg Host.Outcome.next ((wireCheck_right hc _).trans (if_pos hr))), h1, h2⟩
  · refine ⟨wireAgain s, ?_, rfl, rfl⟩
    rw [hrd, wireCheck_right hc, hr]
    rfl
  · refine ⟨wireDone s (some (winPeek s a)), ?_, rfl, rfl, rfl⟩
    rw [hrd, wireCheck_right hc, hr, wireRead_plain hm ha]
    rfl
  · have hr : wireRefused s a = false := by
      rw [ha, wireRefused, hostRefused_low (by decide), dbgOpen, hl]
      rfl
    let t : State := { s with mbx := { s.mbx with cpl := s.mbx.cpl.tail, inflight := s.mbx.inflight - min 1 s.mbx.cpl.length } }
    refine ⟨wireDone t (some (cplWord s)), ?_, rfl, ?_, ?_, rfl⟩
    · change execSarernRdc addr crc true s = _
      unfold execSarernRdc
      rw [if_pos ⟨hup, haddr⟩, wireReadFrame, wireCheck_right hc, hr]
      change Host.Outcome.next (wireDone (wireConsume s a).2 (some (wireConsume s a).1)) = _
      rw [ha, wireConsume_completion]
    · change cplWord s = _
      rw [cplWord, hcpl]
    · change { s.mbx with cpl := s.mbx.cpl.tail, inflight := s.mbx.inflight - min 1 s.mbx.cpl.length } = _
      rw [hcpl]
      simp
  · have hr : wireRefused s a = false := by
      unfold wireWriteRefused at hw
      simp only [Bool.or_eq_false_iff] at hw
      exact hw.1.1.1.1
    refine ⟨_, wireDone (hostWrite s a v) none, hreg hm, ?_, rfl, rfl⟩
    rw [hwr, wireCheck_right hc, hr, hw, hm]
    rfl
  · obtain ⟨hcnt, heng⟩ := hostWrite_rejected hr hw
    refine ⟨_, wireDenied (hostWrite s a v), hreg hm, ?_, rfl, rfl, hcnt, heng⟩
    rw [hwr, wireCheck_right hc, hr, hw]
    rfl
  · refine ⟨wireDenied (lockRej s), ?_, rfl, rfl⟩
    rw [hwr, wireCheck_right hc, hr]
    rfl
  · obtain ⟨hack, hcnt, hrest⟩ := lineError_rest (s := s)
    exact ⟨lineError s, if_pos hup, hack, hcnt, hrest, if_pos hup⟩

end Sys2Proof.Machine
end

section
namespace Sys2Proof.Machine
open Host

/-! O46 fails where the list of service actions holds a RESTORE of number 78, which is the Sett's own domain: the failed release ends that
action by switching the domain off, and the identification that the report has just written is lost with it. -/

/-- A unit in VERIFY whose image declares no identification, with a Sett section of one tile and the RESTORE of 78 in hand. -/
def restoreOfSett : State :=
  { State.reset with
    bstate := .verify
    sett := { State.reset.sett with st := 2, hasImage := true, idReported := none, declared := 0 }
    rel := { State.reset.rel with
      img := { sects := [{ type := 7, target := 0, first := 0, ntiles := 1, dest := 0, param := 0 }], pre := [(0, [1])] } }
    svc := { State.reset.svc with acts := [{ tag := 0, act := .restore 78 false 0 false }], eng := [(78, { st := 5 })] } }

theorem crc32cShift_zero (n : Nat) : crc32cShift n 0 = 0 := by
  induction n with
  | zero => rfl
  | succ n ih =>
    have hb : crcBit crc32cSet 0 false = 0 := by decide +kernel
    rw [crc32cShift, hb, ih]

/-- The identification of a Sett section of which one tile counts, the first. -/
theorem settIdent_one {s : State} {x : Sect} (hx : settSect s.rel.img = some x)
    (hl : (List.range x.ntiles).filter (fun o => decide (o < settParAt s.rel.img ∨ settPatchAt s.rel.img ≤ o)) = [0]) :
    settIdent s = crc32c (tblGet [] (x.first + 0) s.rel.img.pre) := by
  unfold settIdent
  dsimp only
  rw [hx]
  dsimp only
  rw [hl, List.map_cons, List.map_nil, if_neg (fun c => absurd c.1 (by decide)), crc32cOfTiles, List.foldl_cons, List.foldl_nil,
    crc32cAppendTile, crc32cShift_zero]
  exact BitVec.zero_xor

theorem settIdent_restoreOfSett : settIdent restoreOfSett = 2685849682 := by
  have hc : crc32c [1] = 2685849682 := by decide +kernel
  have hx : settSect restoreOfSett.rel.img = some { type := 7, target := 0, first := 0, ntiles := 1, dest := 0, param := 0 } := by
    decide +kernel
  have hb : tblGet [] (0 + 0) restoreOfSett.rel.img.pre = [1] := by decide +kernel
  rw [settIdent_one hx (by decide +kernel), hb, hc]

theorem exec_restoreOfSett : nextWith (exec .settIdentReport restoreOfSett) (fun t => t.sett.settid == 0) = true := by
  change nextWith (execSettIdentReport restoreOfSett) _ = true
  unfold execSettIdentReport
  rw [settIdent_restoreOfSett]
  decide +kernel

/-- Refutes O46: after the report of a wrong identification SETTID reads zero, not what was reported. -/
theorem not_settRecordsAndReports : ¬ Obligations.SettRecordsAndReports := by
  unfold Obligations.SettRecordsAndReports
  intro h
  obtain ⟨_, _, _, _, hident⟩ := h restoreOfSett
  have hd : settIdent restoreOfSett ≠ restoreOfSett.sett.declared := by
    rw [settIdent_restoreOfSett]
    decide
  obtain ⟨t, ht, hid, _⟩ := (hident rfl rfl rfl rfl (by decide +kernel)).2 hd
  have hz : t.sett.settid = 0 := eq_of_beq (nextWith_of_next exec_restoreOfSett ht)
  rw [hid, settIdent_restoreOfSett] at hz
  exact absurd hz (by decide)

end Sys2Proof.Machine
end

section
/-! The pins of the moths: what a change of a synchronised level leaves as it was. -/

namespace Sys2Proof.Machine

variable {s t u z : State}

/-! The event hub. -/

/-- `t` is `s` but for its counters, its event hub and its engines. -/
def HubFrame (s t : State) : Prop := t = { s with cnt := t.cnt, hub := t.hub, eng := t.eng }

theorem HubFrame.refl (s : State) : HubFrame s s := rfl

theorem HubFrame.trans (h : HubFrame s t) (k : HubFrame t u) : HubFrame s u := by
  unfold HubFrame at *
  rw [k, h]

theorem HubFrame.forNats {f : State → Nat → State} (hf : ∀ z x, HubFrame z (f z x)) (l : List Nat) (s : State) :
    HubFrame s (forNats l f s) := by
  unfold Machine.forNats
  induction l generalizing s with
  | nil => exact refl s
  | cons x l ih => exact (hf s x).trans (ih _)

theorem HubFrame.ite {c : Prop} [Decidable c] (h : HubFrame s t) (k : HubFrame s u) : HubFrame s (if c then t else u) := by
  split
  · exact h
  · exact k

theorem HubFrame.cntAdd (s : State) (a k : Nat) : HubFrame s (cntAdd s a k) := rfl

theorem HubFrame.srcSet (s : State) (x : Nat) (v : Src) : HubFrame s (srcSet s x v) := rfl

theorem HubFrame.wakeEng (s : State) (n : Nat) : HubFrame s (wakeEng s n) := rfl

theorem HubFrame.hubWake (s : State) (x : Nat) : HubFrame s (hubWake s x) := by
  unfold Machine.hubWake
  refine ite (forNats (fun z t => ite ?_ (refl z)) _ s) (refl s)
  exact (forNats wakeEng (tgtEngines z t) z).trans (cntAdd _ _ _)

theorem HubFrame.srcPendNow (s : State) (x : Nat) : HubFrame s (srcPendNow s x) := by
  unfold Machine.srcPendNow
  have h0 := srcSet s x { srcGet s x with pend := true }
  exact (ite h0 (h0.trans (cntAdd _ _ _))).trans (hubWake _ x)

theorem HubFrame.srcOff (s : State) (x : Nat) : HubFrame s (srcOff s x) := by
  unfold Machine.srcOff Machine.srcWithdraw
  exact (ite ((srcSet s x _).trans (cntAdd _ _ _)) (refl s)).trans (srcSet _ x _)

theorem HubFrame.srcSample (s : State) (x : Nat) (v : Bool) : HubFrame s (srcSample s x v) := by
  unfold Machine.srcSample
  dsimp only
  have h0 := srcSet s x { srcGet s x with raw := v }
  exact ite (refl s) (ite h0 (ite (ite (ite (h0.trans (cntAdd _ _ _)) (h0.trans (srcPendNow _ x))) h0)
    (ite (h0.trans (srcPendNow _ x)) (ite (h0.trans (srcOff _ x)) h0))))

/-! A freeze that does not hold begins with no wake of an engine: the engines halted in debug stay the same ones. -/

/-- No engine that was running is halted, so that no freeze begins. -/
def Thaws (s t : State) : Prop := t.hreg = s.hreg ∧ (freezeOn s = false → freezeOn t = false)

theorem Thaws.refl (s : State) : Thaws s s := ⟨rfl, fun h => h⟩

theorem Thaws.trans (h : Thaws s t) (k : Thaws t u) : Thaws s u := ⟨k.1.trans h.1, fun e => k.2 (h.2 e)⟩

theorem Thaws.forNats {f : State → Nat → State} (hf : ∀ z x, Thaws z (f z x)) (l : List Nat) (s : State) : Thaws s (forNats l f s) := by
  unfold Machine.forNats
  induction l generalizing s with
  | nil => exact refl s
  | cons x l ih => exact (hf s x).trans (ih _)

theorem Thaws.ite {c : Prop} [Decidable c] (h : Thaws s t) (k : Thaws s u) : Thaws s (if c then t else u) := by
  split
  · exact h
  · exact k

theorem Thaws.of_eng (hr : t.hreg = s.hreg) (h : t.eng = s.eng) : Thaws s t := by
  refine ⟨hr, fun e => ?_⟩
  unfold freezeOn dbgCtl regGet at e ⊢
  rw [h, hr]
  exact e

/-- What an entry of a table is after one is set. -/
theorem mem_tblSet {α : Type} [DecidableEq α] {d : α} {k : Nat} {v : α} {l : Tbl α} {q : Nat × α} (h : q ∈ tblSet d k v l) :
    q = (k, v) ∨ q ∈ l := by
  have hdel (l : Tbl α) : ∀ q ∈ tblDel k l, q ∈ l := by
    induction l with
    | nil => exact fun _ h => h
    | cons a l ih =>
      intro q hq
      unfold tblDel at hq
      split at hq
      · exact List.mem_cons_of_mem _ (ih q hq)
      · exact (List.mem_cons.mp hq).elim (fun e => e ▸ List.mem_cons_self) (fun e => List.mem_cons_of_mem _ (ih q e))
  have hins (l : Tbl α) : q ∈ tblIns k v l → q = (k, v) ∨ q ∈ l := by
    induction l with
    | nil => exact fun h => Or.inl (List.mem_singleton.mp h)
    | cons a l ih =>
      intro hq
      unfold tblIns at hq
      split at hq
      · exact List.mem_cons.mp hq
      · obtain e | e := List.mem_cons.mp hq
        · exact Or.inr (e ▸ List.mem_cons_self)
        · exact (ih e).imp_right (List.mem_cons_of_mem _)
  unfold tblSet at h
  split at h
  · exact Or.inr (hdel l q h)
  · exact (hins _ h).imp_right (hdel l q)

/-- An engine is an entry of the table, or as after reset. -/
theorem engGet_mem (s : State) (n : Nat) : engGet s n = {} ∨ (n, engGet s n) ∈ s.eng := by
  unfold engGet
  induction s.eng with
  | nil => exact Or.inl rfl
  | cons q l ih =>
    unfold tblGet
    split
    next h => exact Or.inr (h ▸ List.mem_cons_self)
    next => exact ih.imp_right (List.mem_cons_of_mem _)

theorem Thaws.engMap (s : State) (n : Nat) {f : Engine → Engine} (hf : ∀ e, (f e).dbg = e.dbg) : Thaws s (engMap s n f) := by
  refine ⟨rfl, fun h => ?_⟩
  unfold freezeOn at h ⊢
  rw [List.any_eq_false] at h ⊢
  intro q hq
  obtain rfl | hq := mem_tblSet hq
  · dsimp only
    rw [hf]
    obtain he | he := engGet_mem s n
    · rw [he]
      simp
    · exact h _ he
  · exact h q hq

theorem Thaws.wakeEng (s : State) (n : Nat) : Thaws s (wakeEng s n) := by
  refine engMap s n (fun e => ?_)
  split <;> rfl

theorem Thaws.hubWake (s : State) (x : Nat) : Thaws s (hubWake s x) := by
  unfold Machine.hubWake
  refine ite (forNats (fun z t => ite ?_ (refl z)) _ s) (refl s)
  exact (forNats wakeEng (tgtEngines z t) z).trans (of_eng rfl rfl)

theorem Thaws.srcSet (s : State) (x : Nat) (v : Src) : Thaws s (srcSet s x v) := of_eng rfl rfl

theorem Thaws.cntAdd (s : State) (a k : Nat) : Thaws s (cntAdd s a k) := of_eng rfl rfl

theorem Thaws.srcPendNow (s : State) (x : Nat) : Thaws s (srcPendNow s x) := by
  unfold Machine.srcPendNow
  have h0 := srcSet s x { srcGet s x with pend := true }
  exact (ite h0 (h0.trans (cntAdd _ _ _))).trans (hubWake _ x)

theorem Thaws.srcOff (s : State) (x : Nat) : Thaws s (srcOff s x) := by
  unfold Machine.srcOff Machine.srcWithdraw
  exact (ite ((srcSet s x _).trans (cntAdd _ _ _)) (refl s)).trans (srcSet _ x _)

theorem Thaws.srcSample (s : State) (x : Nat) (v : Bool) : Thaws s (srcSample s x v) := by
  unfold Machine.srcSample
  dsimp only
  have h0 := srcSet s x { srcGet s x with raw := v }
  exact ite (refl s) (ite h0 (ite (ite (ite (h0.trans (cntAdd _ _ _)) (h0.trans (srcPendNow _ x))) h0)
    (ite (h0.trans (srcPendNow _ x)) (ite (h0.trans (srcOff _ x)) h0))))

theorem Thaws.frzBank (h : Thaws s t) {b : Nat} (hf : frzBank s b = false) : frzBank t b = false := by
  unfold Machine.frzBank at hf ⊢
  rw [regGet, h.1, ← regGet]
  by_cases hb : (decide (b < 6) && bitAt (regGet s 0xD00C) b) = true
  · rw [hb, Bool.true_and] at hf
    rw [h.2 hf, Bool.and_false]
  · rw [Bool.eq_false_iff.mpr hb, Bool.false_and]

/-! A change of a synchronised level. -/

/-- `t` is `s` but for its counters, its event hub, its engines and the levels of its pins. -/
def LedFrame (s t : State) : Prop :=
  t = { s with cnt := t.cnt, hub := t.hub, eng := t.eng, field := { s.field with sync := t.field.sync, filt := t.field.filt } }

theorem LedFrame.trans (h : LedFrame s t) (k : LedFrame t u) : LedFrame s u := by
  unfold LedFrame at *
  rw [k, h]

theorem LedFrame.of_hub (h : HubFrame s t) : LedFrame s t := by
  unfold HubFrame at h
  unfold LedFrame
  rw [h]

/-- `t` is `s` but for levels of pins, and for what the events of pins do to the hub and to engines that sleep. -/
structure Led (s t : State) : Prop where
  frame : LedFrame s t
  thaws : Thaws s t

theorem Led.refl (s : State) : Led s s := ⟨rfl, .refl s⟩

theorem Led.trans (h : Led s t) (k : Led t u) : Led s u := ⟨h.frame.trans k.frame, h.thaws.trans k.thaws⟩

theorem Led.of_hub (h : HubFrame s t) (k : Thaws s t) : Led s t := ⟨.of_hub h, k⟩

theorem Led.filtSet (s : State) (l : List Nat) : Led s { s with field := { s.field with filt := l } } := ⟨rfl, .of_eng rfl rfl⟩

theorem Led.syncSet (s : State) (l : List Nat) : Led s { s with field := { s.field with sync := l } } := ⟨rfl, .of_eng rfl rfl⟩

theorem Led.srcSample (s : State) (x : Nat) (v : Bool) : Led s (srcSample s x v) := .of_hub (.srcSample s x v) (.srcSample s x v)

theorem Led.ite {c : Prop} [Decidable c] (h : Led s t) (k : Led s u) : Led s (if c then t else u) := by
  split
  · exact h
  · exact k

theorem Led.filtPut (s : State) (p : Nat) (v : Bool) : Led s (filtPut s p v) := by
  unfold Machine.filtPut
  exact .ite ((filtSet s _).trans (srcSample _ p v)) (filtSet s _)

theorem Led.filtFollow (s : State) (p : Nat) (v : Bool) : Led s (filtFollow s p v) := .ite (.filtPut s p v) (.refl s)

theorem Led.syncPut (s : State) (p : Nat) (v : Bool) : Led s (syncPut s p v) := by
  unfold Machine.syncPut
  exact (syncSet s _).trans (filtFollow _ p _)

theorem Led.mothSync (s : State) (m k : Nat) (v : Bool) : Led s (mothSync s m k v) := by
  unfold Machine.mothSync
  split
  · exact .refl s
  · exact .syncPut s _ v

theorem Led.mothSyncAll (s : State) (m : Nat) (levels : Byte) : Led s (mothSyncAll s m levels) := by
  have key (l : List Nat) (z : State) : Led z (forNats l (fun z k => Machine.mothSync z m k (bitAt levels k)) z) := by
    unfold forNats
    induction l generalizing z with
    | nil => exact .refl z
    | cons k l ih =>
      have h1 := Led.mothSync z m k (bitAt levels k)
      exact h1.trans (ih _)
  exact key _ s

namespace Led

theorem moth (h : Led s t) : t.field.moth = s.field.moth := by rw [h.frame]
theorem svc (h : Led s t) : t.svc = s.svc := by rw [h.frame]
theorem mem (h : Led s t) : t.mem = s.mem := by rw [h.frame]
theorem store (h : Led s t) : t.store = s.store := by rw [h.frame]
theorem tick (h : Led s t) : t.tick = s.tick := by rw [h.frame]
theorem bstate (h : Led s t) : t.bstate = s.bstate := by rw [h.frame]
theorem sett (h : Led s t) : t.sett = s.sett := by rw [h.frame]
theorem absent (h : Led s t) : t.field.supAbsent = s.field.supAbsent := by rw [h.frame]
theorem fresh (h : Led s t) : t.field.supFresh = s.field.supFresh := by rw [h.frame]
theorem pcfg (h : Led s t) : t.field.pcfg = s.field.pcfg := by rw [h.frame]

theorem mothGet (h : Led s t) (m : Nat) : mothGet t m = mothGet s m := by rw [Machine.mothGet, h.moth, ← Machine.mothGet]

theorem domStat (h : Led s t) (d : Nat) : domStat t d = domStat s d := by rw [Machine.domStat, h.svc, ← Machine.domStat]

theorem pinOwner (h : Led s t) (b q : Nat) : pinOwner t b q = pinOwner s b q := by
  unfold Machine.pinOwner claimsPin
  rw [h.domStat]
  simp only [h.mothGet]

theorem mothPin (h : Led s t) (m k : Nat) : mothPin t m k = mothPin s m k := by
  unfold Machine.mothPin
  dsimp only
  rw [h.mothGet, h.pinOwner]

theorem bankLive (h : Led s t) {b : Nat} (hb : bankLive s b = true) : bankLive t b = true := by
  unfold Machine.bankLive at hb ⊢
  rw [Bool.and_eq_true, Bool.not_eq_true'] at hb
  rw [h.domStat, hb.1, h.thaws.frzBank hb.2]
  rfl

/-- A pin of a bank that is not frozen is driven as before. -/
theorem pinDrive (h : Led s t) {p : Nat} (hb : frzBank s (p / 32) = false) : pinDrive t p = pinDrive s p := by
  have hg : bankGated t (p / 32) = bankGated s (p / 32) := by
    unfold bankGated
    rw [h.bstate, h.thaws.frzBank hb, hb, h.sett, Bool.false_and, Bool.false_and]
  have hs : pinSafe t p = pinSafe s p := by
    unfold pinSafe pinOd pinCfg
    rw [h.pcfg]
  have ho : pinOd t p = pinOd s p := by
    unfold pinOd pinCfg
    rw [h.pcfg]
  unfold Machine.pinDrive
  dsimp only
  rw [h.absent, h.fresh, hg, hs, h.pinOwner, ho]
  simp only [h.mothGet]

theorem freePin (h : Led s t) {p : Nat} (hb : frzBank s (p / 32) = false) (hp : FreePin s p) : FreePin t p := by
  refine ⟨by rw [h.absent]; exact hp.supplied, ?_⟩
  rw [h.pinDrive hb, pinOd, pinCfg, h.pcfg]
  exact hp.released

end Led

/-- A pin of a moth is one of its bank. -/
theorem mothPin_bank {m k p : Nat} (h : mothPin s m k = some p) : p / 32 = bankOf m ∧ p = 32 * bankOf m + ((mothGet s m).first + k) := by
  unfold mothPin at h
  dsimp only at h
  split at h
  next hc =>
    have hp := Option.some.inj h
    have hown := hc.2
    unfold pinOwner at hown
    split at hown
    · have hclaim := List.find?_some hown
      unfold claimsPin lastPin at hclaim
      simp only [Bool.and_eq_true, decide_eq_true_eq] at hclaim
      have hq : (mothGet s m).first + k ≤ 31 := by
        have := hclaim.2
        split at this <;> omega
      omega
    · cases hown
  next => cases h

/-- A free pin takes the level that the outside brings. -/
theorem pinLevel_syncPut {p : Nat} (h : FreePin s p) (v : Bool) : pinLevel (syncPut s p v) p = v := by
  obtain ⟨ha, hr⟩ := h
  have hlow : (v && !hasNat (p / 32) s.field.supAbsent &&
      !(pinOd s p && pinDrive s p == some false && !s.field.padq.any (fun q => q.1 == p))) = v := by
    have hl : (pinOd s p && pinDrive s p == some false) = false := by
      obtain h | h := hr
      · rw [h, Bool.false_and]
      · rw [beq_eq_false_iff_ne.mpr h, Bool.and_false]
    rw [hl, ha]
    simp
  obtain ⟨h1, h2, _⟩ := syncPut_rest p v v hlow
  rw [pinLevel, h1, h2, ha]
  simp

/-- A level of one pin does not move another. -/
theorem pinLevel_syncPut_other {p q : Nat} (h : q ≠ p) (v : Bool) : pinLevel (syncPut s p v) q = pinLevel s q := by
  have hsync : hasNat q (syncPut s p v).field.sync = hasNat q s.field.sync := by
    unfold syncPut
    dsimp only
    rw [(filtFollow_rest p _).1]
    dsimp only
    split
    · rw [Bool.eq_iff_iff, hasNat_iff, hasNat_iff, mem_addNat]
      exact ⟨fun e => e.resolve_left h, Or.inr⟩
    · rw [hasNat_delNat]
      simp [h]
  rw [pinLevel, hsync, (Led.syncPut s p v).absent, ← pinLevel]

/-- What a moth reads at a pin once the level there is known. -/
theorem mothLevel_mothSync {m k : Nat} {level reads : Bool} (h : PinReads s m k level reads) : mothLevel (mothSync s m k level) m k = reads := by
  unfold mothLevel
  rw [(Led.mothSync s m k level).mothPin]
  obtain ⟨rfl, p, hp, hf⟩ | ⟨rfl, hp⟩ := h
  · unfold mothSync
    rw [hp]
    exact pinLevel_syncPut hf _
  · rw [hp]

end Sys2Proof.Machine
end

section
/-! The moths: how an instruction begins, and those that act on registers and queues. -/

namespace Sys2Proof.Machine

variable {s z : State} {m k : Nat} {i : BitVec 24}

theorem mothSet_mothSet (s : State) (m : Nat) (a b : Moth) : mothSet (mothSet s m a) m b = mothSet s m b := by
  unfold mothSet
  dsimp only
  rw [tblSet_tblSet]

theorem mothMap_mothSet (s : State) (m : Nat) (a : Moth) (f : Moth → Moth) : mothMap (mothSet s m a) m f = mothSet s m (f a) := by
  rw [mothMap, mothGet_mothSet, mothSet_mothSet]

theorem mothSet_ownMoth (s : State) (m : Nat) (v : Moth) : OwnMoth s (mothSet s m v) m :=
  ⟨fun _ h => mothGet_mothSet_other s h v, rfl, rfl⟩

theorem OwnMoth.trans {t u : State} (h : OwnMoth s t m) (k : OwnMoth t u m) : OwnMoth s u m :=
  ⟨fun q hq => (k.others q hq).trans (h.others q hq), k.mem.trans h.mem, k.store.trans h.store⟩

theorem Led.own {t : State} (h : Led s t) (m : Nat) : OwnMoth s t m := ⟨fun q _ => h.mothGet q, h.mem, h.store⟩

/-! How an instruction begins. -/

theorem mothExec_begins (h : Begins s m k i) : mothExec s m k = mothStart (mothTick s m) m i := by
  unfold mothExec
  rw [h.word]
  dsimp only
  rw [h.fetches, h.opcode, h.legal, beq_self_eq_true]
  rfl

/-- Without a side drive the first moth cycle finds the moth as `begun` says. -/
theorem sideDrive_begun (hn : bitAt i 15 = false) :
    sideDrive (mothMap (mothTick s m) m (fun mo => { mo with cur := i })) m i = mothSet s m (begun (mothGet s m) i) := by
  unfold sideDrive
  rw [hn, if_neg (by decide), mothTick, mothMap, mothMap, mothGet_mothSet, mothSet_mothSet]
  rfl

theorem mothStart_nop (ho : mOp i = 0) (hn : bitAt i 15 = false) :
    mothStart (mothTick s m) m i = mothSet s m (mothRetire (begun (mothGet s m) i) none) := by
  unfold mothStart
  rw [sideDrive_begun hn, ho]
  exact mothMap_mothSet ..

theorem mothStart_loop (ho : mOp i = 7) (hn : bitAt i 15 = false) :
    mothStart (mothTick s m) m i = mothSet s m (loopRun (begun (mothGet s m) i) i) := by
  unfold mothStart
  rw [sideDrive_begun hn, ho]
  exact mothMap_mothSet ..

theorem mothStart_capt (ho : mOp i = 9) (hn : bitAt i 15 = false) :
    mothStart (mothTick s m) m i = mothSet s m (captRun s (begun (mothGet s m) i) i) := by
  unfold mothStart
  rw [sideDrive_begun hn, ho]
  exact mothMap_mothSet ..

theorem mothStart_queue (ho : mOp i = 10 ∨ mOp i = 11) (hn : bitAt i 15 = false) :
    mothStart (mothTick s m) m i = queueStart (mothSet s m (begun (mothGet s m) i)) m := by
  unfold mothStart
  rw [sideDrive_begun hn]
  obtain ho | ho := ho
  · rw [ho]
    rfl
  · rw [ho]
    rfl

theorem mothStart_jmp (ho : mOp i = 12) (hn : bitAt i 15 = false) : mothStart (mothTick s m) m i =
    mothSet s m (mothRetire (begun (mothGet s m) i)
      (if jmpTaken (mothSet s m (begun (mothGet s m) i)) m i then some (field i 4 0) else none)) := by
  unfold mothStart
  rw [sideDrive_begun hn, ho]
  exact mothMap_mothSet ..

theorem mothStart_set (ho : mOp i = 13) (hn : bitAt i 15 = false) :
    mothStart (mothTick s m) m i = mothSet s m (setRun (begun (mothGet s m) i) i) := by
  unfold mothStart
  rw [sideDrive_begun hn, ho]
  exact mothMap_mothSet ..

/-! Queues. -/

theorem field_two (i : BitVec 24) (h l : Nat) (hw : h + 1 - l = 2) : field i h l < 4 := by
  unfold field
  rw [hw]
  exact Nat.mod_lt _ (by decide)

/-- The moth that a FETCH of word `w` leaves. -/
def fetched (mo : Moth) (w : Word) (rest : List Word) : Moth :=
  let code := field mo.cur 10 9
  mothRetire { mo with
    qout := rest, so := if code = 0 then w else mo.so, ka := if code = 1 then w else mo.ka,
    kb := if code = 0 ∨ code = 1 then mo.kb else w } none

theorem queueServe_fetch (ho : mOp (mothGet s m).cur = 10) {w : Word} {rest : List Word} (hq : (mothGet s m).qout = w :: rest) :
    queueServe s m = mothSet s m (fetched (mothGet s m) w rest) := by
  unfold queueServe fetched
  dsimp only
  rw [if_pos ho, hq]
  dsimp only
  obtain h | h | h : field (mothGet s m).cur 10 9 = 0 ∨ field (mothGet s m).cur 10 9 = 1 ∨ 2 ≤ field (mothGet s m).cur 10 9 := by omega
  · rw [h]
    rfl
  · rw [h]
    rfl
  · obtain ⟨c, hc⟩ := Nat.exists_eq_add_of_le h
    rw [hc, Nat.add_comm 2 c, if_neg (by omega), if_neg (by omega), if_neg (by omega)]
    rfl

/-- The word that a STOW puts, and the moth that it leaves without it. -/
def stowWord (mo : Moth) : Word :=
  let code := field mo.cur 10 9
  if code = 0 then mo.si else if code = 1 then mo.ka else mo.kb

def stowed (mo : Moth) (qin : List Word) : Moth :=
  let code := field mo.cur 10 9
  mothRetire { mo with
    qin := qin, si := if bitAt mo.cur 8 && code = 0 then 0 else mo.si, ka := if bitAt mo.cur 8 && code = 1 then 0 else mo.ka,
    kb := if bitAt mo.cur 8 && decide (1 < code) then 0 else mo.kb } none

theorem queueServe_stow (ho : mOp (mothGet s m).cur = 11) : queueServe s m =
    (let z := mothSet s m (stowed (mothGet s m) ((mothGet s m).qin ++ [stowWord (mothGet s m)]))
     if (mothGet s m).imode then gwServe z (bankOf m) else z) := by
  unfold queueServe stowed stowWord mothSrc
  dsimp only
  rw [if_neg (by omega)]
  obtain h | h | h : field (mothGet s m).cur 10 9 = 0 ∨ field (mothGet s m).cur 10 9 = 1 ∨ 2 ≤ field (mothGet s m).cur 10 9 := by omega
  · rw [h]
    cases bitAt (mothGet s m).cur 8 <;> rfl
  · rw [h]
    cases bitAt (mothGet s m).cur 8 <;> rfl
  · obtain ⟨c, hc⟩ := Nat.exists_eq_add_of_le h
    rw [hc, Nat.add_comm 2 c]
    have h1 : decide (1 < c + 2) = true := decide_eq_true (by omega)
    rw [h1]
    cases bitAt (mothGet s m).cur 8 <;> rfl

theorem canServe_fetch {mo : Moth} (ho : mOp mo.cur = 10) : canServe mo = !mo.qout.isEmpty := if_pos ho

theorem canServe_stow {mo : Moth} (ho : mOp mo.cur = 11) : canServe mo = decide (mo.qin.length < qinCap mo) := if_neg (by omega)

theorem queueStart_serves (h : canServe (mothGet s m) = true) : queueStart s m = queueServe s m := if_pos h

theorem queueStart_stalls (h : canServe (mothGet s m) = false) :
    queueStart s m = mothSet s m { mothGet s m with wait := if mOp (mothGet s m).cur = 10 then .stallF else .stallS } := if_neg (by simp [h])

/-! The gateway takes an immediate word at once. -/

/-- Where one moth of the bank alone has words, the gateway serves that one. -/
theorem gwServe_one (hm : m < 104) (hi : (mothGet s m).imode = true) {w : Word} (hq : (mothGet s m).qin = [w])
    (hl : (gwGet s (bankOf m)).length < 160)
    (ho : ∀ q, q ∈ mothsOf (bankOf m) → q ≠ m → (mothGet s q).imode = true → (mothGet s q).qin = []) :
    ∃ r, gwServe s (bankOf m) =
      { gwMake (mothMap s m (fun mo => { mo with qin := [] })) m w with
        field := { (gwMake (mothMap s m (fun mo => { mo with qin := [] })) m w).field with gwRot := r } } := by
  have hb : bankOf m = m / 16 := rfl
  have hlen : (mothsOf (bankOf m)).length = if bankOf m < 6 then 16 else 8 := by
    unfold mothsOf
    rw [List.length_map, List.length_range]
  have hk : m % 16 < (mothsOf (bankOf m)).length := by
    rw [hlen]
    split <;> omega
  unfold gwServe
  extract_lets r k order
  have hfind : order.find? (fun m => (mothGet s m).imode && !(mothGet s m).qin.isEmpty) = some m := by
    have hin : m ∈ order := by
      refine List.mem_map.mpr ⟨(m % 16 + (k - r % k)) % k, List.mem_range.mpr (Nat.mod_lt _ (by omega)), ?_⟩
      have hr : r % k < k := Nat.mod_lt _ (by omega)
      have hmod : (r + (m % 16 + (k - r % k)) % k) % k = m % 16 := by
        rw [Nat.add_mod, Nat.mod_mod, ← Nat.add_mod, ← Nat.mod_add_mod, show r % k + (m % 16 + (k - r % k)) = m % 16 + k by omega,
          Nat.add_mod_right, Nat.mod_eq_of_lt hk]
      rw [hmod]
      omega
    have hbank : ∀ q ∈ order, q ∈ mothsOf (bankOf m) := by
      intro q hq
      obtain ⟨j, _, rfl⟩ := List.mem_map.mp hq
      refine List.mem_map.mpr ⟨(r + j) % k, List.mem_range.mpr ?_, rfl⟩
      rw [← hlen]
      exact Nat.mod_lt _ (by omega)
    obtain ⟨x, hx⟩ : ∃ x, order.find? (fun m => (mothGet s m).imode && !(mothGet s m).qin.isEmpty) = some x :=
      Option.isSome_iff_exists.mp (List.find?_isSome.mpr ⟨m, hin, by rw [hi, hq]; rfl⟩)
    have hxm : x = m := by
      by_contra hne
      have hp := List.find?_some hx
      rw [Bool.and_eq_true] at hp
      rw [ho x (hbank x (List.mem_of_find?_eq_some hx)) hne hp.1] at hp
      cases hp.2
    rw [hx, hxm]
  rw [hfind]
  dsimp only
  rw [if_pos hl]
  unfold gwTakeWord
  rw [hq]
  dsimp only
  rw [if_pos hl]
  exact ⟨_, rfl⟩

end Sys2Proof.Machine
end

section
/-! The moth instructions that act on registers and queues. -/

namespace Sys2Proof.Machine

variable {s z t : State} {m k : Nat} {i : BitVec 24}

/-- The end of an instruction leaves the moth's registers, queues and pins. -/
structure Ended (mo f : Moth) : Prop where
  frame : f = { mo with pc := f.pc, wait := f.wait, cur := f.cur, edgeLvl := f.edgeLvl, injWait := f.injWait }

theorem mothIdle_ended (mo : Moth) : Ended mo (mothIdle mo) := by
  unfold mothIdle mothEnd
  split <;> exact ⟨rfl⟩

theorem mothRetire_ended (mo : Moth) (j : Option Nat) : Ended mo (mothRetire mo j) := by
  unfold mothRetire
  dsimp only
  split
  · obtain ⟨h⟩ := mothIdle_ended { mo with pc := match j with | some a => a | none => if mo.injWait.isSome then mo.pc else (mo.pc + 1) % 32 }
    exact ⟨h⟩
  · exact ⟨rfl⟩

theorem mothRetire_qin (mo : Moth) (q : List Word) (j : Option Nat) : mothRetire { mo with qin := q } j = { mothRetire mo j with qin := q } := by
  unfold mothRetire mothIdle mothEnd
  dsimp only
  split
  · split <;> rfl
  · rfl

/-- What stands when the next thing that a moth does is to start an instruction. -/
theorem mothFetches_moth (h : mothFetches s m = true) : m < 104 ∧ bankLive s (bankOf m) = true ∧ (mothGet s m).en = true ∧
    (mothGet s m).wait = .none ∧ (mothGet s m).inj = none ∧ (mothGet s m).injWait = none := by
  unfold mothFetches mothActs at h
  simp only [Bool.and_eq_true, decide_eq_true_eq, beq_iff_eq, Option.isNone_iff_eq_none] at h
  obtain ⟨⟨⟨⟨⟨⟨hm, hb⟩, _⟩, he⟩, hw⟩, hi⟩, hj⟩ := h
  exact ⟨hm, hb, he, hw, hi, hj⟩

theorem Led.fetches (h : Led s t) (hf : mothFetches s m = true) : mothFetches t m = true := by
  obtain ⟨hm, hb, he, hw, hi, hj⟩ := mothFetches_moth hf
  unfold mothFetches mothActs
  rw [h.mothGet, h.bankLive hb, he, hw, hi, hj, decide_eq_true hm]
  rfl

/-- A level of a pin that comes with an instruction does not change how it begins. -/
theorem Led.begins (h : Led s t) (hb : Begins s m k i) : Begins t m k i where
  fetches := h.fetches hb.fetches
  word := by rw [mothIns, h.mothGet]; exact hb.word
  opcode := hb.opcode
  legal := by rw [h.mothGet]; exact hb.legal
  noSide := hb.noSide

/-! LOOP, CAPT, SET: what Table 13.2 gives, register by register. -/

theorem loopRun_begun (mo : Moth) : loopRun (begun mo i) i =
    if bitAt i 11 then (if mo.kb = 0 then mothRetire (begun mo i) none else mothRetire { begun mo i with kb := mo.kb - 1 } (some (field i 4 0)))
    else (if mo.ka = 0 then mothRetire (begun mo i) none else mothRetire { begun mo i with ka := mo.ka - 1 } (some (field i 4 0))) := by
  unfold loopRun
  cases bitAt i 11 <;> rfl

/-- A register that code 0, 1 or 2 names takes `v`. -/
theorem captRun_begun (mo : Moth) (hc : field i 10 9 ≠ 3) : captRun s (begun mo i) i =
    (let v := if bitAt i 11 then mo.edgeTime else (ktb s).setWidth 32
     mothRetire { begun mo i with
       si := if field i 10 9 = 0 then v else mo.si, ka := if field i 10 9 = 1 then v else mo.ka,
       kb := if field i 10 9 = 2 then v else mo.kb } none) := by
  have h4 := field_two i 10 9 rfl
  unfold captRun
  obtain h | h | h : field i 10 9 = 0 ∨ field i 10 9 = 1 ∨ field i 10 9 = 2 := by omega
  all_goals
    rw [h]
    rfl

theorem setRun_begun (mo : Moth) (hc : field i 11 10 ≠ 3) : setRun (begun mo i) i =
    (let v : Word := BitVec.ofNat 32 (field i 9 0)
     mothRetire { begun mo i with
       ka := if field i 11 10 = 0 then v else mo.ka, kb := if field i 11 10 = 1 then v else mo.kb,
       so := if field i 11 10 = 2 then v else mo.so } none) := by
  have h4 := field_two i 11 10 rfl
  unfold setRun
  obtain h | h | h : field i 11 10 = 0 ∨ field i 11 10 = 1 ∨ field i 11 10 = 2 := by omega
  all_goals
    rw [h]
    rfl

theorem fetched_begun (mo : Moth) (hc : field i 10 9 ≠ 3) (w : Word) (rest : List Word) : fetched (begun mo i) w rest =
    mothRetire { begun mo i with
      qout := rest, so := if field i 10 9 = 0 then w else mo.so, ka := if field i 10 9 = 1 then w else mo.ka,
      kb := if field i 10 9 = 2 then w else mo.kb } none := by
  have h4 := field_two i 10 9 rfl
  change mothRetire { begun mo i with
      qout := rest, so := if field i 10 9 = 0 then w else mo.so, ka := if field i 10 9 = 1 then w else mo.ka,
      kb := if field i 10 9 = 0 ∨ field i 10 9 = 1 then mo.kb else w } none = _
  obtain h | h | h : field i 10 9 = 0 ∨ field i 10 9 = 1 ∨ field i 10 9 = 2 := by omega
  all_goals
    rw [h]
    rfl

/-- The moth that a STOW leaves but for the word it put. -/
def stowCleared (mo : Moth) (i : BitVec 24) : Moth :=
  { begun mo i with
    si := if bitAt i 8 && field i 10 9 = 0 then 0 else mo.si, ka := if bitAt i 8 && field i 10 9 = 1 then 0 else mo.ka,
    kb := if bitAt i 8 && field i 10 9 = 2 then 0 else mo.kb }

theorem stowed_begun (mo : Moth) (hc : field i 10 9 ≠ 3) (q : List Word) :
    stowed (begun mo i) q = mothRetire { stowCleared mo i with qin := q } none := by
  have h4 := field_two i 10 9 rfl
  have hd : decide (1 < field i 10 9) = decide (field i 10 9 = 2) := decide_eq_decide.mpr (by omega)
  change mothRetire { begun mo i with
    qin := q, si := if bitAt i 8 && field i 10 9 = 0 then 0 else mo.si, ka := if bitAt i 8 && field i 10 9 = 1 then 0 else mo.ka,
    kb := if bitAt i 8 && decide (1 < field i 10 9) then 0 else mo.kb } none = _
  rw [hd]
  rfl

/-! Legal operands. -/

theorem legal_capt {mo : Moth} (ho : mOp i = 9) (h : mothIllegal mo i = false) : field i 10 9 ≠ 3 := by
  unfold mothIllegal at h
  rw [ho] at h
  exact of_decide_eq_false h

theorem legal_fetch {mo : Moth} (ho : mOp i = 10) (h : mothIllegal mo i = false) : field i 10 9 ≠ 3 ∧ qoutCap mo ≠ 0 := by
  unfold mothIllegal at h
  rw [ho] at h
  have h' := Bool.or_eq_false_iff.mp h
  exact ⟨of_decide_eq_false h'.1, of_decide_eq_false h'.2⟩

theorem legal_stow {mo : Moth} (ho : mOp i = 11) (h : mothIllegal mo i = false) : field i 10 9 ≠ 3 ∧ qinCap mo ≠ 0 := by
  unfold mothIllegal at h
  rw [ho] at h
  have h' := Bool.or_eq_false_iff.mp h
  exact ⟨of_decide_eq_false h'.1, of_decide_eq_false h'.2⟩

theorem legal_set {mo : Moth} (ho : mOp i = 13) (h : mothIllegal mo i = false) : field i 11 10 ≠ 3 := by
  unfold mothIllegal at h
  rw [ho] at h
  exact of_decide_eq_false h

/-! A STOW with immediate words. -/

theorem mothCell_of {y : State} (hm : (mothGet y m).index = (mothGet s m).index ∧ (mothGet y m).seq = (mothGet s m).seq ∧
    (mothGet y m).route = (mothGet s m).route) (ht : y.tick = s.tick) (hs : y.sett = s.sett) (w : Word) :
    mothCell y m w = mothCell s m w := by
  obtain ⟨h1, h2, h3⟩ := hm
  unfold mothCell gwTick
  dsimp only
  rw [h1, h2, h3, ht, hs]

/-- What the gateway makes of a word of a moth: its cell, or a count. -/
theorem gwMake_moth {d : Moth} {w : Word} (hd : Ended (stowCleared (mothGet s m) i) d) :
    let y := gwMake (mothSet s m d) m w
    OwnMoth s y m ∧
      ((mothGet s m).ctxValid = true → mothGet y m = { d with seq := ((mothGet s m).seq + 1) % 256 } ∧
        gwGet y (bankOf m) = gwGet s (bankOf m) ++ [{ cell := mothCell s m w, pend := false, due := dueNow s }]) ∧
      ((mothGet s m).ctxValid = false → mothGet y m = d ∧ gwGet y (bankOf m) = gwGet s (bankOf m) ∧
        cntGet y (mthAdr m 0x3C) = satCount (cntGet s (mthAdr m 0x3C)) 1) := by
  have hf : d.ctxValid = (mothGet s m).ctxValid ∧ d.seq = (mothGet s m).seq ∧ d.index = (mothGet s m).index ∧
      d.route = (mothGet s m).route := by
    rw [hd.frame]
    exact ⟨rfl, rfl, rfl, rfl⟩
  obtain ⟨hv, hseq, hidx, hroute⟩ := hf
  have hcell : mothCell (mothSet s m d) m w = mothCell s m w := by
    refine mothCell_of (s := s) (y := mothSet s m d) ?_ rfl rfl w
    rw [mothGet_mothSet]
    exact ⟨hidx, hseq, hroute⟩
  unfold gwMake
  rw [mothGet_mothSet, hcell]
  dsimp only
  cases hc : (mothGet s m).ctxValid
  · rw [if_neg (by rw [hv, hc]; decide)]
    generalize mthAdr m 0x3C = a
    have hown : OwnMoth s (cntAdd (mothSet s m d) a 1) m := ⟨(mothSet_ownMoth s m d).others, rfl, rfl⟩
    have hget : mothGet (cntAdd (mothSet s m d) a 1) m = d := mothGet_mothSet s m d
    have hcnt : cntGet (cntAdd (mothSet s m d) a 1) a = satCount (cntGet s a) 1 := cntGet_cntAdd (mothSet s m d) a 1
    exact ⟨hown, fun e => absurd e (by decide), fun _ => ⟨hget, rfl, hcnt⟩⟩
  · rw [if_pos (hv.trans hc)]
    refine ⟨(mothSet_ownMoth s m d).trans ⟨fun q hq => mothGet_mothMap_other _ hq _, rfl, rfl⟩, fun _ => ⟨?_, ?_⟩, nofun⟩
    · refine (mothGet_mothMap _ m _).trans ?_
      have hg : mothGet (gwSet (mothSet s m d) (bankOf m) (gwGet (mothSet s m d) (bankOf m) ++
          [{ cell := mothCell s m w, pend := false, due := dueNow (mothSet s m d) }])) m = d := mothGet_mothSet ..
      rw [hg, hseq]
    · exact tblGet_tblSet_self ..


/-! The illegal instruction. -/

/-- The counters below the hub's and above them keep their values under its events. -/
theorem hubWake_cntKept {a : Nat} (ha : a < 0x20000 ∨ 0x28000 ≤ a) (s : State) (x : Nat) : CntKept a s (hubWake s x) := by
  have key (l : List Nat) (hl : ∀ t ∈ l, t < 64) (f : State → Nat → Bool) (z : State) : CntKept a z (forNats l (fun z t =>
      if f z t then cntAdd (forNats (tgtEngines z t) wakeEng z) (0x2700C + t * 0x20) 1 else z) z) := by
    unfold forNats
    induction l generalizing z with
    | nil => exact CntKept.refl a z
    | cons t l ih =>
      have ht := hl t List.mem_cons_self
      have hstep : CntKept a z (if f z t then cntAdd (forNats (tgtEngines z t) wakeEng z) (0x2700C + t * 0x20) 1 else z) :=
        .ite ((CntKept.forNats (f := wakeEng) _ (fun _ _ => .of_cnt rfl) z).trans (CntKept.cntAdd _ (by omega) _)) (.refl a z)
      exact hstep.trans (ih (fun q hq => hl q (List.mem_cons_of_mem _ hq)) _)
  unfold Machine.hubWake
  exact CntKept.ite (key _ (fun t ht => List.mem_range.mp ht) (fun z t => tgtInMask z x t && tgtUsable z t && (tgtEngines z t).any (isAsleep z)) s)
    (CntKept.refl a s)

theorem srcPendNow_cntKept {a : Nat} (ha : a < 0x20000 ∨ 0x28000 ≤ a) (s : State) (x : Nat) : CntKept a s (srcPendNow s x) := by
  unfold Machine.srcPendNow
  exact (CntKept.ite (.of_cnt rfl) ((CntKept.of_cnt rfl).trans (.cntAdd (srcSet s x _) (by omega) _))).trans (hubWake_cntKept ha _ x)

theorem srcOff_cntKept {a : Nat} (ha : a < 0x20000 ∨ 0x28000 ≤ a) (s : State) (x : Nat) : CntKept a s (srcOff s x) := by
  unfold Machine.srcOff Machine.srcWithdraw
  exact (CntKept.ite ((CntKept.of_cnt rfl).trans (.cntAdd (srcSet s x _) (by omega) _)) (CntKept.refl a s)).trans (.of_cnt rfl)

theorem srcSample_cntKept {a : Nat} (ha : a < 0x20000 ∨ 0x28000 ≤ a) (s : State) (x : Nat) (v : Bool) :
    CntKept a s (srcSample s x v) := by
  unfold Machine.srcSample
  dsimp only
  have h0 : CntKept a s (srcSet s x { srcGet s x with raw := v }) := .of_cnt rfl
  exact .ite (CntKept.refl a s) (CntKept.ite h0 (CntKept.ite (CntKept.ite (CntKept.ite (h0.trans (.cntAdd _ (by omega) _)) (h0.trans (srcPendNow_cntKept ha _ x))) h0)
    (CntKept.ite (h0.trans (srcPendNow_cntKept ha _ x)) (CntKept.ite (h0.trans (srcOff_cntKept ha _ x)) h0))))

theorem pulse_cntKept {a : Nat} (ha : a < 0x20000 ∨ 0x28000 ≤ a) (s : State) (x : Nat) : CntKept a s (pulse s x) :=
  (srcSample_cntKept ha s x true).trans (srcSample_cntKept ha _ x false)

/-- A record counts once in the counter of its class. -/
theorem fltWrite_counts (c cls : Nat) (hc : c = 0x40200 + 4 * cls) (src a0 a1 : Word) :
    cntGet (fltWrite s cls src a0 a1) c = satCount (cntGet s c) 1 := by
  unfold fltWrite
  rw [← hc]
  have hfar : c < 0x20000 ∨ 0x28000 ≤ c := by omega
  have hne : c ≠ 0x40104 := by omega
  clear hc
  extract_lets s1
  have h1 : cntGet s1 c = satCount (cntGet s c) 1 := cntGet_cntAdd s c 1
  clear_value s1
  split
  · exact h1
  · split
    · have hk : CntKept c s1 (pulse (cntAdd s1 0x40104 1) 305) := (CntKept.cntAdd s1 hne 1).trans (pulse_cntKept hfar _ _)
      exact Eq.trans hk h1
    · exact h1

theorem mothStop_rest (m : Nat) : mothGet (mothStop s m) m = { mothGet s m with en := false, ill := true } ∧
    (∀ q, q ≠ m → mothGet (mothStop s m) q = mothGet s q) ∧ cntGet (mothStop s m) 0x40220 = satCount (cntGet s 0x40220) 1 ∧
    (s.mbx.log.length < 1024 → fltMerge s 8 (BitVec.ofNat 32 m) s.mbx.log = none → (mothStop s m).mbx.log = s.mbx.log ++ [{
      time := ktb s, tick := s.tick.tickn.setWidth 32, cls := 8, rep := 0, source := BitVec.ofNat 32 m,
      arg0 := BitVec.ofNat 32 (mothGet s m).pc, arg1 := 0, fseq := s.mbx.fseq }]) := by
  unfold mothStop
  dsimp only
  generalize hz : mothMap s m (fun mo => { mo with en := false, ill := true }) = z
  have hzr : z.tick = s.tick ∧ z.cnt = s.cnt ∧ z.mbx = s.mbx := hz ▸ ⟨rfl, rfl, rfl⟩
  obtain ⟨htick, hcnt, hmbx⟩ := hzr
  have hf := (Logged.fltWrite z 8 (BitVec.ofNat 32 m) (BitVec.ofNat 32 (mothGet s m).pc) 0).frame
  refine ⟨?_, fun q hq => ?_, ?_, fun hl hm => ?_⟩
  · rw [mothGet, hf.field, ← mothGet, ← hz, mothGet_mothMap]
  · rw [mothGet, hf.field, ← mothGet, ← hz, mothGet_mothMap_other _ hq]
  · rw [fltWrite_counts 0x40220 8 rfl, cntGet, hcnt, ← cntGet]
  · have hm' : fltMerge z 8 (BitVec.ofNat 32 m) z.mbx.log = none := by
      rw [hmbx, fltMerge_of_tick htick]
      exact hm
    unfold fltWrite
    rw [hm']
    dsimp only
    rw [if_neg (by rw [hmbx]; omega), hmbx, ktb, htick, ← ktb]

/-! JMP. -/

theorem exec_jmp_plain (h : Begins s m 12 i) (h3 : field i 11 9 ≠ 3) (h4 : field i 11 9 ≠ 4) {level : Bool} :
    exec (.mothJmp m level) s = .next (mothExec s m 12) := by
  change execMothJmp m level s = _
  unfold execMothJmp
  dsimp only
  rw [h.fetches, h.word, h.opcode, if_pos (by decide), if_neg (by omega)]

/-- Conditions on registers do not depend on the pins. -/
theorem jmpTaken_begun (h3 : field i 11 9 ≠ 3) (h4 : field i 11 9 ≠ 4) :
    jmpTaken (mothSet s m (begun (mothGet s m) i)) m i = jmpTaken s m i := by
  unfold jmpTaken
  rw [mothGet_mothSet]
  generalize field i 11 9 = c at h3 h4
  match c, h3, h4 with
  | 0, _, _ => rfl
  | 1, _, _ => rfl
  | 2, _, _ => rfl
  | 5, _, _ => rfl
  | _ + 6, _, _ => rfl

/-- Whether a JMP on a pin is taken where the pin reads `reads`. -/
def jmpReads (i : BitVec 24) (reads : Bool) : Bool := if field i 11 9 = 3 then reads else !reads

/-- An instruction that begins leaves what the moth names of its bank. -/
theorem mothLevel_begun (k : Nat) : mothLevel (mothSet s m (begun (mothGet s m) i)) m k = mothLevel s m k := by
  have hpin : mothPin (mothSet s m (begun (mothGet s m) i)) m k = mothPin s m k := by
    have hclaim (o q : Nat) : claimsPin (mothSet s m (begun (mothGet s m) i)) o q = claimsPin s o q := by
      unfold claimsPin
      by_cases ho : o = m
      · subst ho
        rw [mothGet_mothSet]
        rfl
      · rw [mothGet_mothSet_other s ho]
    unfold mothPin pinOwner
    simp only [hclaim, mothGet_mothSet]
    rfl
  unfold mothLevel
  rw [hpin]
  rfl

theorem exec_jmp_pin (h : Begins s m 12 i) (hc : field i 11 9 = 3 ∨ field i 11 9 = 4) {level reads : Bool}
    (hp : PinReads s m (field i 7 5) level reads) : ∃ t, exec (.mothJmp m level) s = .next t ∧ OwnMoth s t m ∧
      mothGet t m = mothRetire (begun (mothGet s m) i) (if jmpReads i reads then some (field i 4 0) else none) := by
  have hled := Led.mothSync s m (field i 7 5) level
  have hb := hled.begins h
  have hl := mothLevel_mothSync hp
  generalize hz : mothSync s m (field i 7 5) level = z at hled hb hl
  refine ⟨mothExec z m 12, ?_, ?_, ?_⟩
  · change execMothJmp m level s = _
    unfold execMothJmp
    dsimp only
    rw [h.fetches, h.word, h.opcode, if_pos (by decide), if_pos hc, hz]
  · rw [mothExec_begins hb, mothStart_jmp hb.opcode hb.noSide]
    exact (hled.own m).trans (mothSet_ownMoth ..)
  · have hj : jmpTaken (mothSet z m (begun (mothGet z m) i)) m i = jmpReads i reads := by
      unfold jmpTaken jmpReads
      rw [mothLevel_begun, hl]
      obtain hc | hc := hc <;> rw [hc] <;> rfl
    rw [mothExec_begins hb, mothStart_jmp hb.opcode hb.noSide, mothGet_mothSet, hj, hled.mothGet]

/-- Settles O50: each instruction by what its start leaves of its own moth. -/
theorem mothRegisterInstructionsComplete : Obligations.MothRegisterInstructionsComplete := by
  unfold Obligations.MothRegisterInstructionsComplete
  intro s m i mo b code
  refine ⟨fun h => ?_, fun h => ?_, fun h => ?_, fun w rest h hq => ?_, fun h hq => ?_, fun h hi hl => ?_, fun h hi hq hg ho => ?_,
    fun h hl => ?_, fun level h h3 h4 => ?_, fun level reads h hp => ⟨fun hc => ?_, fun hc => ?_⟩, fun h => ?_, fun hf hw hi => ?_⟩
  · exact congrArg Host.Outcome.next ((mothExec_begins h).trans (mothStart_nop h.opcode h.noSide))
  · exact congrArg Host.Outcome.next ((mothExec_begins h).trans ((mothStart_loop h.opcode h.noSide).trans (by rw [loopRun_begun])))
  · exact congrArg Host.Outcome.next ((mothExec_begins h).trans ((mothStart_capt h.opcode h.noSide).trans
      (by rw [captRun_begun _ (legal_capt h.opcode h.legal)])))
  · refine congrArg Host.Outcome.next ((mothExec_begins h).trans ((mothStart_queue (.inl h.opcode) h.noSide).trans ?_))
    have hcur : mOp (begun mo i).cur = 10 := h.opcode
    rw [queueStart_serves (by rw [mothGet_mothSet, canServe_fetch hcur]; simp [begun, mo, hq]),
      queueServe_fetch (by rw [mothGet_mothSet]; exact hcur) (by rw [mothGet_mothSet]; exact hq), mothGet_mothSet, mothSet_mothSet,
      fetched_begun _ (legal_fetch h.opcode h.legal).1]
  · refine congrArg Host.Outcome.next ((mothExec_begins h).trans ((mothStart_queue (.inl h.opcode) h.noSide).trans ?_))
    have hcur : mOp (begun mo i).cur = 10 := h.opcode
    rw [queueStart_stalls (by rw [mothGet_mothSet, canServe_fetch hcur]; simp [begun, mo, hq]), mothGet_mothSet, mothSet_mothSet, if_pos hcur]
  · refine congrArg Host.Outcome.next ((mothExec_begins h).trans ((mothStart_queue (.inr h.opcode) h.noSide).trans ?_))
    have hcur : mOp (begun mo i).cur = 11 := h.opcode
    have himode : (begun mo i).imode = false := hi
    rw [queueStart_serves (by rw [mothGet_mothSet, canServe_stow hcur]; exact decide_eq_true hl),
      queueServe_stow (by rw [mothGet_mothSet]; exact hcur), mothGet_mothSet]
    dsimp only
    rw [if_neg (by rw [himode]; decide), mothSet_mothSet, stowed_begun _ (legal_stow h.opcode h.legal).1]
    rfl
  · intro w done
    have hcur : mOp (begun mo i).cur = 11 := h.opcode
    obtain ⟨hc3, hcap⟩ := legal_stow h.opcode h.legal
    have hserve : canServe (begun mo i) = true := by
      rw [canServe_stow hcur]
      have hq' : (begun mo i).qin = [] := hq
      rw [hq']
      exact decide_eq_true (Nat.pos_of_ne_zero hcap)
    have hm := (mothFetches_moth h.fetches).1
    let z := mothSet s m { done with qin := [w] }
    have hexec : exec (.mothStow m) s = .next (gwServe z (bankOf m)) := by
      refine congrArg Host.Outcome.next ((mothExec_begins h).trans ((mothStart_queue (.inr h.opcode) h.noSide).trans ?_))
      have himode : (begun mo i).imode = true := hi
      have hq' : (begun mo i).qin = [] := hq
      rw [queueStart_serves (by rw [mothGet_mothSet]; exact hserve),
        queueServe_stow (by rw [mothGet_mothSet]; exact hcur), mothGet_mothSet, mothSet_mothSet, himode, hq',
        stowed_begun _ hc3, mothRetire_qin]
      rfl
    have hd : Ended (stowCleared mo i) done := mothRetire_ended _ _
    have hdi : done.imode = true := by
      rw [hd.frame]
      exact hi
    have hzo (q : Nat) (hq : q ≠ m) : mothGet z q = mothGet s q := mothGet_mothSet_other s hq _
    have hzm : mothGet z m = { done with qin := [w] } := mothGet_mothSet ..
    obtain ⟨r, hr⟩ := gwServe_one (s := z) hm (by rw [hzm]; exact hdi) (by rw [hzm]) hg
      (fun q hb hne => by rw [hzo q hne]; exact ho q hb hne)
    have hdq : { done with qin := [] } = done := by
      have : done.qin = [] := by
        rw [hd.frame]
        exact hq
      rw [← this]
    rw [mothMap_mothSet, hdq] at hr
    obtain ⟨hown, hvalid, hnone⟩ := gwMake_moth (w := w) hd
    rw [hexec, hr]
    generalize gwMake (mothSet s m done) m w = y at hown hvalid hnone
    have hown' : OwnMoth s { y with field := { y.field with gwRot := r } } m := ⟨hown.others, hown.mem, hown.store⟩
    refine ⟨fun hv => ?_, fun hv => ?_⟩
    · obtain ⟨h1, h2⟩ := hvalid hv
      exact ⟨_, rfl, h1, h2, hown'⟩
    · obtain ⟨h1, h2, h3⟩ := hnone hv
      exact ⟨_, rfl, h1, h2, h3, hown'⟩
  · refine congrArg Host.Outcome.next ((mothExec_begins h).trans ((mothStart_queue (.inr h.opcode) h.noSide).trans ?_))
    have hcur : mOp (begun mo i).cur = 11 := h.opcode
    have hne : ¬ mOp (begun mo i).cur = 10 := by omega
    rw [queueStart_stalls (by rw [mothGet_mothSet, canServe_stow hcur]; exact decide_eq_false (Nat.not_lt.mpr hl)), mothGet_mothSet,
      mothSet_mothSet, if_neg hne]
  · refine (exec_jmp_plain h h3 h4).trans (congrArg Host.Outcome.next ?_)
    rw [mothExec_begins h, mothStart_jmp h.opcode h.noSide, jmpTaken_begun h3 h4]
  · obtain ⟨t, ht, hown, hj⟩ := exec_jmp_pin h (.inl hc) hp
    refine ⟨t, ht, hown, hj.trans ?_⟩
    rw [jmpReads, if_pos hc]
  · obtain ⟨t, ht, hown, hj⟩ := exec_jmp_pin h (.inr hc) hp
    refine ⟨t, ht, hown, hj.trans ?_⟩
    have h3 : field i 11 9 ≠ 3 := by
      rw [hc]
      decide
    rw [jmpReads, if_neg h3]
    cases reads
    · rfl
    · rfl
  · exact congrArg Host.Outcome.next ((mothExec_begins h).trans ((mothStart_set h.opcode h.noSide).trans
      (by rw [setRun_begun _ (legal_set h.opcode h.legal)])))
  · exact ⟨mothStop s m, if_pos (by rw [hf, hw, hi]; rfl), mothStop_rest m⟩

end Sys2Proof.Machine
end

section
/-! The moth instructions that act on pins. -/

namespace Sys2Proof.Machine

variable {s t u z : State} {m k : Nat} {i : BitVec 24}

/-! What a moth names of its bank depends on the pins of the moths and the power of the bank. -/

/-- Every moth has the pins and the drive enables that it had. -/
structure PinShape (s t : State) : Prop where
  moth : ∀ q, (mothGet t q).first = (mothGet s q).first ∧ (mothGet t q).npin = (mothGet s q).npin ∧ (mothGet t q).oe = (mothGet s q).oe
  svc : t.svc = s.svc

theorem PinShape.mothSet {v : Moth} (hf : v.first = (mothGet s m).first) (hn : v.npin = (mothGet s m).npin) (ho : v.oe = (mothGet s m).oe) :
    PinShape s (mothSet s m v) := by
  refine ⟨fun q => ?_, rfl⟩
  by_cases hq : q = m
  · rw [hq, mothGet_mothSet]
    exact ⟨hf, hn, ho⟩
  · rw [mothGet_mothSet_other s hq]
    exact ⟨rfl, rfl, rfl⟩

theorem PinShape.begun : PinShape s (Machine.mothSet s m (Machine.begun (mothGet s m) i)) := .mothSet rfl rfl rfl

theorem PinShape.pinOwner (h : PinShape s t) (b q : Nat) : pinOwner t b q = pinOwner s b q := by
  have hclaim (o : Nat) : claimsPin t o q = claimsPin s o q := by
    obtain ⟨hf, hn, _⟩ := h.moth o
    unfold claimsPin
    dsimp only
    rw [hf, hn]
  unfold Machine.pinOwner domStat
  rw [h.svc]
  simp only [hclaim]

theorem PinShape.mothPin (h : PinShape s t) (m k : Nat) : mothPin t m k = mothPin s m k := by
  obtain ⟨hf, hn, _⟩ := h.moth m
  unfold Machine.mothPin
  dsimp only
  rw [hf, hn, h.pinOwner]

theorem PinShape.mothDriven (h : PinShape s t) (m k : Nat) : mothDriven t m k = mothDriven s m k := by
  obtain ⟨_, _, ho⟩ := h.moth m
  unfold Machine.mothDriven
  rw [h.mothPin, ho]

/-! Output registers. -/

/-- `t` is `s` but for the output and shift-out registers of moth `m` and the changes at its pads. -/
structure OutFrame (m : Nat) (s t : State) : Prop where
  own : mothGet t m = { mothGet s m with out := (mothGet t m).out, so := (mothGet t m).so }
  others : ∀ q, q ≠ m → mothGet t q = mothGet s q
  svc : t.svc = s.svc
  eng : t.eng = s.eng

theorem OutFrame.refl (m : Nat) (s : State) : OutFrame m s s := ⟨rfl, fun _ _ => rfl, rfl, rfl⟩

theorem OutFrame.trans (h : OutFrame m s t) (k : OutFrame m t u) : OutFrame m s u :=
  ⟨by rw [k.own, h.own], fun q hq => (k.others q hq).trans (h.others q hq), k.svc.trans h.svc, k.eng.trans h.eng⟩

theorem OutFrame.shape (h : OutFrame m s t) : PinShape s t := by
  refine ⟨fun q => ?_, h.svc⟩
  by_cases hq : q = m
  · rw [hq, h.own]
    exact ⟨rfl, rfl, rfl⟩
  · rw [h.others q hq]
    exact ⟨rfl, rfl, rfl⟩

/-- A change at a pad is noted beside the moths. -/
theorem padNote_moths (p : Nat) : (padNote s p).field.moth = s.field.moth ∧ (padNote s p).svc = s.svc ∧ (padNote s p).eng = s.eng := by
  unfold padNote
  dsimp only
  split
  · exact ⟨rfl, rfl, rfl⟩
  · split <;> exact ⟨rfl, rfl, rfl⟩

/-- The output register of a pin that exists takes the bit. -/
theorem mothOut_rest (m k : Nat) (v : Bool) : OutFrame m s (mothOut s m k v) ∧
    mothGet (mothOut s m k v) m = { mothGet s m with out := if (mothPin s m k).isSome then putBit (mothGet s m).out k v else (mothGet s m).out } := by
  unfold mothOut
  cases hp : mothPin s m k with
  | none => exact ⟨.refl m s, rfl⟩
  | some p =>
    dsimp only
    obtain ⟨hm, hs, he⟩ := padNote_moths (s := mothMap s m (fun mo => { mo with out := putBit mo.out k v })) p
    have hown : mothGet (padNote (mothMap s m (fun mo => { mo with out := putBit mo.out k v })) p) m =
        { mothGet s m with out := putBit (mothGet s m).out k v } := by
      rw [mothGet, hm, ← mothGet, mothGet_mothMap]
    refine ⟨⟨by rw [hown], fun q hq => ?_, hs, he⟩, hown⟩
    rw [mothGet, hm, ← mothGet, mothGet_mothMap_other _ hq]

/-! Shifts: how they start and end. -/

theorem mothRetire_wait (mo : Moth) (w : MWait) (j : Option Nat) : mothRetire { mo with wait := w } j = mothRetire mo j := by
  rfl

/-- The end of an instruction that interrupts none. -/
theorem mothRetire_plain {mo : Moth} (h : mo.injWait = none) : mothRetire mo none =
    { mo with pc := (mo.pc + 1) % 32, wait := if field mo.cur 18 16 = 0 then .none else .delay (field mo.cur 18 16) } := by
  cases mo
  dsimp only at h
  subst h
  unfold mothRetire mothIdle
  dsimp only
  split <;> rfl

theorem mothRetire_noShift {mo : Moth} (h : mo.injWait = none) (n : Nat) : (mothRetire mo none).wait ≠ .shift n := by
  rw [mothRetire_plain h]
  dsimp only
  split <;> exact nofun

/-- The moth whose shift of `n` bits begins. -/
def shifting (mo : Moth) (i : BitVec 24) : Moth := { begun mo i with wait := .shift (field i 11 6) }

theorem mothStart_shift (ho : mOp i = 1 ∨ mOp i = 2) (hn : bitAt i 15 = false) : mothStart (mothTick s m) m i =
    mothSet s m (if field i 11 6 = 0 then mothRetire (begun (mothGet s m) i) none else shifting (mothGet s m) i) := by
  unfold mothStart
  rw [sideDrive_begun hn]
  obtain ho | ho := ho
  · rw [ho]
    exact mothMap_mothSet ..
  · rw [ho]
    exact mothMap_mothSet ..

theorem shiftLeft_of_wait {x : Nat} (h : ∀ n, (mothGet s m).wait ≠ .shift n) : shiftLeft s m x = false := by
  unfold shiftLeft
  cases hw : (mothGet s m).wait <;> simp
  exact absurd hw (h _)

/-- A shift that begins has its bits left. -/
theorem shiftLeft_shifting {x : Nat} (h : Begins s m x i) : shiftLeft (mothSet s m (shifting (mothGet s m) i)) m x = true := by
  obtain ⟨hm, hb, he, hw, hi, hj⟩ := mothFetches_moth h.fetches
  have hb' : bankLive (mothSet s m (shifting (mothGet s m) i)) (bankOf m) = true := hb
  unfold shiftLeft mothWaits mothActs
  rw [mothGet_mothSet, hb', decide_eq_true hm]
  change (true && true && ((mothGet s m).en || _) && ((mothGet s m).inj.isNone || _) && (mOp i == x) && true) = true
  rw [he, hi, h.opcode, beq_self_eq_true]
  rfl

/-- How a SHOUT or SHIN that begins goes on: `run` is its bits, and nothing of it where there are none. -/
theorem shift_begins {x : Nat} (hx : x = 1 ∨ x = 2) (h : Begins s m x i) {run : State → State} {bits : State → State} {c : Nat}
    (hrun : ∀ z, (mothGet z m).wait = .shift (field i 11 6) → run z = shiftDone (bits z) m (field i 11 6) c) (hbits : field i 11 6 = 0 → ∀ z, bits z = z) :
    (if shiftLeft s m x then run s else let s1 := mothExec s m x; if shiftLeft s1 m x then run s1 else s1) =
      shiftDone (bits (mothSet s m (shifting (mothGet s m) i))) m (field i 11 6) c := by
  obtain ⟨_, _, _, hw, _, hj⟩ := mothFetches_moth h.fetches
  have ho : mOp i = 1 ∨ mOp i = 2 := by rw [h.opcode]; exact hx
  rw [if_neg (by rw [shiftLeft_of_wait (fun n => by rw [hw]; exact nofun)]; decide), mothExec_begins h, mothStart_shift ho h.noSide]
  dsimp only
  have hinj : (begun (mothGet s m) i).injWait = none := hj
  by_cases hn : field i 11 6 = 0
  · rw [if_pos hn, if_neg (by
      rw [shiftLeft_of_wait (fun n => by rw [mothGet_mothSet]; exact mothRetire_noShift hinj n)]
      decide), hbits hn, shiftDone, mothMap_mothSet, if_pos (by omega)]
    exact congrArg (mothSet s m) (mothRetire_wait ..).symm
  · rw [if_neg hn, if_pos (shiftLeft_shifting h)]
    exact hrun _ (by rw [mothGet_mothSet]; rfl)

/-- The end of the cycles of a shift: the instruction is over, or bits are left. -/
theorem shiftDone_rest (m n c : Nat) {mo : Moth} (hz : mothGet z m = mo) (hj : mo.injWait = none) :
    let t := shiftDone z m n c
    mothGet t m = { mo with wait := (mothGet t m).wait, pc := (mothGet t m).pc } ∧
    (c < n → (mothGet t m).wait = .shift (n - c) ∧ (mothGet t m).pc = mo.pc) ∧
    (n ≤ c → (mothGet t m).pc = (mo.pc + 1) % 32) ∧ OwnMoth z t m ∧ t.eng = z.eng := by
  intro t
  have ht : mothGet t m = if n ≤ c then mothRetire mo none else { mo with wait := .shift (n - c) } := by
    rw [← hz]
    exact mothGet_mothMap _ m _
  refine ⟨?_, fun h => ?_, fun h => ?_, mothSet_ownMoth .., rfl⟩
  · rw [ht]
    split
    · rw [mothRetire_plain hj]
    · rfl
  · rw [ht, if_neg (Nat.not_le.mpr h)]
    exact ⟨rfl, rfl⟩
  · rw [ht, if_pos h, mothRetire_plain hj]

/-! SHOUT. -/

theorem exec_shout (h : Begins s m 1 i) (c : Nat) : exec (.mothShout m c) s =
    .next (shiftDone (forNats (List.range (min c (field i 11 6))) (fun z _ => shoutBit z m) (mothSet s m (shifting (mothGet s m) i))) m
      (field i 11 6) c) := by
  change execMothShout m c s = _
  unfold execMothShout
  refine (apply_ite Host.Outcome.next ..).symm.trans (congrArg Host.Outcome.next ?_)
  refine shift_begins (run := fun z => shoutRun z m c) (bits := fun z => forNats (List.range (min c (field i 11 6))) (fun z _ => shoutBit z m) z)
    (.inl rfl) h (fun z hz => ?_) (fun hn z => ?_)
  · unfold shoutRun
    rw [hz]
  · rw [hn, Nat.min_zero]
    rfl

theorem shoutBit_rest (s : State) (m : Nat) : let mo := mothGet s m
    OutFrame m s (shoutBit s m) ∧
    (mothGet (shoutBit s m) m).so = (if bitAt mo.cur 2 then mo.so >>> 1 else mo.so <<< 1) ∧
    (mothGet (shoutBit s m) m).out = (if (mothPin s m (field mo.cur 5 3)).isSome then
      putBit mo.out (field mo.cur 5 3) (bitAt mo.so (if bitAt mo.cur 2 then 0 else 31)) else mo.out) := by
  intro mo
  obtain ⟨hf, ho⟩ := mothOut_rest (s := s) m (field mo.cur 5 3) (bitAt mo.so (if bitAt mo.cur 2 then 0 else 31))
  unfold shoutBit
  dsimp only
  rw [mothGet_mothMap, ho]
  refine ⟨hf.trans ⟨by rw [mothGet_mothMap], fun q hq => mothGet_mothMap_other _ hq _, rfl, rfl⟩, rfl, rfl⟩

/-- `c` moth cycles of a SHOUT: its pin shows the last bit that left SO. -/
theorem shoutBits_rest (s : State) (m : Nat) {k c : Nat} (hk : field (mothGet s m).cur 5 3 = k) (hc : c ≤ 32) :
    let z := forNats (List.range c) (fun z _ => shoutBit z m) s
    let lsb := bitAt (mothGet s m).cur 2
    OutFrame m s z ∧ (mothGet z m).so = (if lsb then (mothGet s m).so >>> c else (mothGet s m).so <<< c) ∧
    (∀ j, j < 8 → (j ≠ k ∨ c = 0 ∨ mothPin s m j = none) → bitAt (mothGet z m).out j = bitAt (mothGet s m).out j) ∧
    (0 < c → (mothPin s m k).isSome = true → bitAt (mothGet z m).out k = bitAt (mothGet s m).so (if lsb then c - 1 else 32 - c)) := by
  induction c with
  | zero =>
    refine ⟨.refl m s, ?_, fun _ _ _ => rfl, fun h => absurd h (by decide)⟩
    cases bitAt (mothGet s m).cur 2
    · exact (BitVec.shiftLeft_zero _).symm
    · exact (BitVec.ushiftRight_zero _).symm
  | succ c ih =>
    obtain ⟨hf, hso, hbits, -⟩ := ih (by omega)
    unfold forNats at hf hso hbits ⊢
    rw [List.range_succ, List.foldl_append, List.foldl_cons, List.foldl_nil]
    generalize (List.range c).foldl _ s = z at hf hso hbits ⊢
    intro z' lsb
    have hcur : (mothGet z m).cur = (mothGet s m).cur := by rw [hf.own]
    obtain ⟨hf', hso', hout⟩ := shoutBit_rest z m
    rw [hcur, hk, hf.shape.mothPin] at hout
    rw [hcur, hso] at hso'
    have hk8 : k < 8 := by
      rw [← hk]
      exact Nat.mod_lt _ (by decide)
    refine ⟨hf.trans hf', ?_, fun j hj h => ?_, fun _ hp => ?_⟩
    · rw [hso']
      change _ = if bitAt (mothGet s m).cur 2 = true then _ else _
      cases bitAt (mothGet s m).cur 2
      · exact (BitVec.shiftLeft_add ..).symm
      · exact (BitVec.shiftRight_add ..).symm
    · have hz : bitAt (mothGet z m).out j = bitAt (mothGet s m).out j := by
        by_cases hjk : j = k
        · exact hbits j hj (.inr (.inr ((h.resolve_left (not_not_intro hjk)).resolve_left (by omega))))
        · exact hbits j hj (.inl hjk)
      change bitAt (mothGet (shoutBit z m) m).out j = _
      rw [hout]
      by_cases hp : (mothPin s m k).isSome = true
      · rw [if_pos hp, bitAt_putBit _ hk8, if_neg ?_, hz]
        intro hjk
        obtain h | h | h := h
        · exact h hjk
        · omega
        · rw [← hjk, h] at hp
          cases hp
      · rw [if_neg hp, hz]
    · change bitAt (mothGet (shoutBit z m) m).out k = _
      rw [hout, if_pos hp, bitAt_putBit _ hk8, if_pos rfl, hso]
      change _ = bitAt _ (if bitAt (mothGet s m).cur 2 then _ else _)
      unfold bitAt
      cases BitVec.getLsbD (mothGet s m).cur 2
      · simp only [Bool.false_eq_true, if_false, BitVec.getLsbD_shiftLeft]
        rw [show 31 - c = 32 - (c + 1) by omega, decide_eq_false (show ¬ 31 < c by omega)]
        rfl
      · simp only [if_true, BitVec.getLsbD_ushiftRight, Nat.add_zero, Nat.add_sub_cancel]

/-! SHIN. -/

/-- A pin is as free as before where no moth drives it in another way. -/
theorem FreePin.mothSet {v : Moth} {p : Nat} (hp : FreePin s p) (hf : v.first = (mothGet s m).first) (hn : v.npin = (mothGet s m).npin)
    (ho : v.oe = (mothGet s m).oe) (hout : v.out = (mothGet s m).out) : FreePin (mothSet s m v) p := by
  have hshape : PinShape s (Machine.mothSet s m v) := .mothSet hf hn ho
  have hd : pinDrive (Machine.mothSet s m v) p = pinDrive s p := by
    have hm (q : Nat) : (mothGet (Machine.mothSet s m v) q).out = (mothGet s q).out := by
      by_cases hq : q = m
      · rw [hq, mothGet_mothSet, hout]
      · rw [mothGet_mothSet_other s hq]
    unfold pinDrive
    dsimp only
    rw [hshape.pinOwner]
    cases pinOwner s (p / 32) (p % 32) with
    | none => rfl
    | some q =>
      obtain ⟨h1, _, h3⟩ := hshape.moth q
      dsimp only
      rw [h1, h3, hm]
      rfl
  exact ⟨hp.supplied, by rw [hd]; exact hp.released⟩

/-- SI after a bit came in. -/
def bitIn (lsb : Bool) (a : Word) (b : Bool) : Word :=
  let v : Word := if b then 1 else 0
  if lsb then (a >>> 1) ||| (v <<< 31) else (a <<< 1) ||| v

/-- The state holds what is read at pin `k` of moth `m`. -/
structure ReadsPin (m k p : Nat) (s : State) : Prop where
  pin : mothPin s m k = some p
  free : FreePin s p
  thawed : frzBank s (p / 32) = false

theorem ReadsPin.mothSet {p : Nat} {v : Moth} (h : ReadsPin m k p s) (hf : v.first = (mothGet s m).first)
    (hn : v.npin = (mothGet s m).npin) (ho : v.oe = (mothGet s m).oe) (hout : v.out = (mothGet s m).out) :
    ReadsPin m k p (mothSet s m v) :=
  ⟨((PinShape.mothSet hf hn ho).mothPin m k).trans h.pin, h.free.mothSet hf hn ho hout, h.thawed⟩

theorem ReadsPin.led {p : Nat} (h : ReadsPin m k p s) (hl : Led s t) : ReadsPin m k p t :=
  ⟨(hl.mothPin m k).trans h.pin, hl.freePin h.thawed h.free, hl.thaws.frzBank h.thawed⟩

/-- One bit of a SHIN. -/
theorem shinBit_rest (hk : field (mothGet s m).cur 5 3 = k) (b : Bool) : shinBit s m b = mothSet (mothSync s m k b) m
    { mothGet s m with si := bitIn (bitAt (mothGet s m).cur 2) (mothGet s m).si (mothLevel (mothSync s m k b) m k) } := by
  have hz : mothGet (mothSync s m k b) m = mothGet s m := (Led.mothSync s m k b).mothGet m
  unfold shinBit
  rw [hk]
  dsimp only
  rw [mothMap, hz]
  rfl

/-- The bits of a SHIN, where `J` says what the pin reads: only SI moves. -/
theorem shinBits_rest {J : State → Prop} {r : Bool → Bool} {bits : List Bool} (hk : field (mothGet s m).cur 5 3 = k)
    (hlevel : ∀ z b, J z → mothLevel (mothSync z m k b) m k = r b)
    (hstep : ∀ z b w, J z → J (mothSet (mothSync z m k b) m { mothGet z m with si := w })) (hs : J s) :
    let z := bits.foldl (fun z b => shinBit z m b) s
    mothGet z m = { mothGet s m with si := bits.foldl (fun a b => bitIn (bitAt (mothGet s m).cur 2) a (r b)) (mothGet s m).si } ∧
      OwnMoth s z m := by
  induction bits generalizing s with
  | nil => exact ⟨rfl, fun _ _ => rfl, rfl, rfl⟩
  | cons b bits ih =>
    have h1 := shinBit_rest hk b
    rw [hlevel s b hs] at h1
    have hJ : J (shinBit s m b) := by
      rw [h1]
      exact hstep s b _ hs
    have hget : mothGet (shinBit s m b) m =
        { mothGet s m with si := bitIn (bitAt (mothGet s m).cur 2) (mothGet s m).si (r b) } := by
      rw [h1, mothGet_mothSet]
    have hown : OwnMoth s (shinBit s m b) m := by
      rw [h1]
      exact ((Led.mothSync s m k b).own m).trans (mothSet_ownMoth ..)
    obtain ⟨h2, h3⟩ := ih (s := shinBit s m b) (by rw [hget]; exact hk) hJ
    refine ⟨h2.trans ?_, hown.trans h3⟩
    rw [hget]
    rfl

/-- Zeros that come in only shift. -/
theorem foldl_bitIn_false (lsb : Bool) (bits : List Bool) (w : Word) : bits.foldl (fun a _ => bitIn lsb a false) w =
    if lsb then w >>> bits.length else w <<< bits.length := by
  induction bits generalizing w with
  | nil =>
    cases lsb
    · exact (BitVec.shiftLeft_zero w).symm
    · exact (BitVec.ushiftRight_zero w).symm
  | cons b bits ih =>
    rw [List.foldl_cons, ih, List.length_cons, Nat.add_comm]
    unfold bitIn
    cases lsb
    · simp [BitVec.shiftLeft_add]
    · simp [BitVec.shiftRight_add]

theorem exec_shin (h : Begins s m 2 i) (bits : List Bool) : exec (.mothShin m bits) s =
    .next (shiftDone ((bits.take (field i 11 6)).foldl (fun z b => shinBit z m b) (mothSet s m (shifting (mothGet s m) i))) m
      (field i 11 6) bits.length) := by
  change execMothShin m bits s = _
  unfold execMothShin
  refine (apply_ite Host.Outcome.next ..).symm.trans (congrArg Host.Outcome.next ?_)
  refine shift_begins (run := fun z => shinRun z m bits) (bits := fun z => (bits.take (field i 11 6)).foldl (fun z b => shinBit z m b) z)
    (.inr rfl) h (fun z hz => ?_) (fun hn z => ?_)
  · unfold shinRun
    rw [hz]
  · rw [hn]
    rfl

/-! DRIVE and TOGGLE. -/

/-- The bits of the driven pins of a mask are set, one after another. -/
theorem mothDriveMask_bits (m mask v : Nat) : OutFrame m s (mothDriveMask s m mask v) ∧
    (mothGet (mothDriveMask s m mask v) m).so = (mothGet s m).so ∧
    ∀ k, k < 8 → bitAt (mothGet (mothDriveMask s m mask v) m).out k =
      if mask.testBit k && mothDriven s m k then v.testBit k else bitAt (mothGet s m).out k := by
  have key (c : Nat) (hc : c ≤ 8) : let z := forNats (List.range c) (fun z k =>
        if mask.testBit k && mothDriven z m k then mothOut z m k (v.testBit k) else z) s
      OutFrame m s z ∧ (mothGet z m).so = (mothGet s m).so ∧ ∀ k, k < 8 → bitAt (mothGet z m).out k =
        if decide (k < c) && (mask.testBit k && mothDriven s m k) then v.testBit k else bitAt (mothGet s m).out k := by
    induction c with
    | zero => exact ⟨.refl m s, rfl, fun k _ => rfl⟩
    | succ c ih =>
      obtain ⟨hf, hso, hbits⟩ := ih (by omega)
      unfold forNats at hf hso hbits ⊢
      rw [List.range_succ, List.foldl_append, List.foldl_cons, List.foldl_nil]
      generalize (List.range c).foldl _ s = z at hf hso hbits ⊢
      dsimp only
      rw [hf.shape.mothDriven]
      by_cases hd : (mask.testBit c && mothDriven s m c) = true
      · rw [if_pos hd]
        obtain ⟨hf', hout⟩ := mothOut_rest (s := z) m c (v.testBit c)
        have hp : (mothPin z m c).isSome = true := by
          rw [hf.shape.mothPin]
          unfold mothDriven at hd
          simp only [Bool.and_eq_true] at hd
          exact hd.2.1
        rw [if_pos hp] at hout
        refine ⟨hf.trans hf', by rw [hout, ← hso], fun k hk => ?_⟩
        rw [hout]
        dsimp only
        rw [bitAt_putBit _ (show c < 8 by omega)]
        by_cases hkc : k = c
        · rw [if_pos hkc, hkc, hd, decide_eq_true (Nat.lt_succ_self c)]
          rfl
        · rw [if_neg hkc, hbits k hk, decide_eq_decide.mpr (show k < c ↔ k < c + 1 by omega)]
      · rw [if_neg hd]
        refine ⟨hf, hso, fun k hk => ?_⟩
        rw [hbits k hk]
        by_cases hkc : k = c
        · rw [hkc, Bool.eq_false_iff.mpr hd, Bool.and_false, Bool.and_false]
        · rw [decide_eq_decide.mpr (show k < c ↔ k < c + 1 by omega)]
  obtain ⟨hf, hso, hbits⟩ := key 8 (Nat.le_refl 8)
  refine ⟨hf, hso, fun k hk => ?_⟩
  have h := hbits k hk
  rw [decide_eq_true hk, Bool.true_and] at h
  exact h

theorem testBit_field (i : BitVec 24) {j : Nat} (hj : j < 8) : (field i 7 0).testBit j = bitAt i j := by
  unfold field bitAt
  rw [Nat.shiftRight_zero, show 7 + 1 - 0 = 8 from rfl, Nat.testBit_mod_two_pow, decide_eq_true hj, BitVec.testBit_toNat]
  rfl

theorem testBit_complement (b : Byte) {j : Nat} (hj : j < 8) : (255 - b.toNat).testBit j = !bitAt b j := by
  have h := Nat.testBit_two_pow_sub_succ b.isLt j
  rw [decide_eq_true hj, Bool.true_and, BitVec.testBit_toNat] at h
  rw [show 255 - b.toNat = 2 ^ 8 - (b.toNat + 1) by omega, h]
  rfl

/-- After a DRIVE or TOGGLE has set its pins, the moth is the one that began but for its output register. -/
theorem driven_begun {mask v : Nat} : let y := mothDriveMask (mothSet s m (begun (mothGet s m) i)) m mask v
    mothGet y m = { begun (mothGet s m) i with out := (mothGet y m).out } ∧
    ∀ k, k < 8 → bitAt (mothGet y m).out k = if mask.testBit k && mothDriven s m k then v.testBit k else bitAt (mothGet s m).out k := by
  intro y
  obtain ⟨hf, hso, hbits⟩ := mothDriveMask_bits (s := mothSet s m (begun (mothGet s m) i)) m mask v
  have hown := hf.own
  rw [hso, mothGet_mothSet] at hown
  refine ⟨hown, fun k hk => ?_⟩
  rw [hbits k hk, PinShape.begun.mothDriven, mothGet_mothSet]
  rfl

/-! EDGE, SAMPLE, COUNT. -/

theorem mothStart_edge (ho : mOp i = 3) (hn : bitAt i 15 = false) :
    mothStart (mothTick s m) m i = edgeStart (mothSet s m (begun (mothGet s m) i)) m i := by
  unfold mothStart
  rw [sideDrive_begun hn, ho]
  rfl

theorem mothStart_sample (ho : mOp i = 4) (hn : bitAt i 15 = false) :
    mothStart (mothTick s m) m i = sampleRun (mothSet s m (begun (mothGet s m) i)) m := by
  unfold mothStart
  rw [sideDrive_begun hn, ho]
  rfl

theorem mothStart_drive (ho : mOp i = 5) (hn : bitAt i 15 = false) :
    mothStart (mothTick s m) m i = driveRun (mothSet s m (begun (mothGet s m) i)) m i := by
  unfold mothStart
  rw [sideDrive_begun hn, ho]
  rfl

theorem mothStart_toggle (ho : mOp i = 6) (hn : bitAt i 15 = false) :
    mothStart (mothTick s m) m i = toggleRun (mothSet s m (begun (mothGet s m) i)) m i (mothGet s m).out := by
  unfold mothStart
  rw [sideDrive_begun hn, ho, mothTick, mothMap, mothGet_mothSet]
  rfl

theorem mothStart_count (ho : mOp i = 8) (hn : bitAt i 15 = false) :
    mothStart (mothTick s m) m i = countStart (mothSet s m (begun (mothGet s m) i)) m i := by
  unfold mothStart
  rw [sideDrive_begun hn, ho]
  rfl

theorem waitEnds_plain {mo : Moth} (h : mo.inj = none) : waitEnds mo = mothRetire mo none := by
  unfold waitEnds
  rw [h]
  rfl

/-- A level holds at a pin that reads `reads`. -/
theorem levelHolds_iff {reads : Bool} (h : mothLevel s m (field i 5 3) = reads) :
    levelHolds s m i = true ↔ (field i 11 9 = 3 ∧ reads = true) ∨ (field i 11 9 = 4 ∧ reads = false) := by
  unfold levelHolds
  rw [h]
  simp

theorem exec_edge {level reads : Bool} (h : Begins s m 3 i) (hp : PinReads s m (field i 5 3) level reads) :
    ∃ z, Led s z ∧ Begins z m 3 i ∧ mothLevel (mothSet z m (begun (mothGet z m) i)) m (field i 5 3) = reads ∧
      exec (.mothEdge m level) s = .next (edgeStart (mothSet z m (begun (mothGet z m) i)) m i) := by
  have hled := Led.mothSync s m (field i 5 3) level
  have hb := hled.begins h
  have hl := mothLevel_mothSync hp
  refine ⟨_, hled, hb, (mothLevel_begun _).trans hl, ?_⟩
  change execMothEdge m level s = _
  unfold execMothEdge
  rw [h.fetches, h.word, h.opcode, mothExec_begins hb, mothStart_edge hb.opcode hb.noSide]
  rfl

/-- Levels that come for all pins of a moth: each pin that is read shows its own. -/
theorem mothLevel_mothSyncAll {levels : Byte} {j : Nat} {reads : Bool} (hj : j < 8) (hb : frzBank s (bankOf m) = false)
    (h : PinReads s m j (bitAt levels j) reads) : mothLevel (mothSyncAll s m levels) m j = reads := by
  have key (c : Nat) : let z := forNats (List.range c) (fun z k => mothSync z m k (bitAt levels k)) s
      Led s z ∧ (j < c → mothLevel z m j = reads) := by
    induction c with
    | zero => exact ⟨.refl s, fun h => absurd h (Nat.not_lt_zero j)⟩
    | succ c ih =>
      obtain ⟨hled, hread⟩ := ih
      unfold forNats at hled hread ⊢
      rw [List.range_succ, List.foldl_append, List.foldl_cons, List.foldl_nil]
      generalize (List.range c).foldl _ s = z at hled hread ⊢
      have hled' := Led.mothSync z m c (bitAt levels c)
      refine ⟨hled.trans hled', fun hjc => ?_⟩
      by_cases hjc' : j = c
      · rw [← hjc']
        refine mothLevel_mothSync (level := bitAt levels j) ?_
        obtain ⟨hr, p, hp, hf⟩ | ⟨hr, hp⟩ := h
        · exact .inl ⟨hr, p, (hled.mothPin m j).trans hp, hled.freePin (by rw [(mothPin_bank hp).1]; exact hb) hf⟩
        · exact .inr ⟨hr, (hled.mothPin m j).trans hp⟩
      · rw [← hread (by omega)]
        unfold mothLevel
        rw [hled'.mothPin]
        cases hp : mothPin z m j with
        | none => rfl
        | some p =>
          dsimp only
          unfold mothSync
          cases hq : mothPin z m c with
          | none => rfl
          | some q =>
            refine pinLevel_syncPut_other (fun hpq => ?_) _
            have h1 := (mothPin_bank hp).2
            have h2 := (mothPin_bank hq).2
            omega
  exact (key 8).2 hj

/-! The instructions whole. -/

theorem Begins.uninjected {x : Nat} (h : Begins s m x i) : (mothGet s m).inj = none ∧ (mothGet s m).injWait = none :=
  (mothFetches_moth h.fetches).2.2.2.2

theorem Begins.thawed {x : Nat} (h : Begins s m x i) : frzBank s (bankOf m) = false := by
  obtain ⟨_, hb, _⟩ := mothFetches_moth h.fetches
  unfold bankLive at hb
  rw [Bool.and_eq_true, Bool.not_eq_true'] at hb
  exact hb.2

theorem Begins.shift_legal (h : Begins s m 1 i) : field i 11 6 ≤ 32 := by
  have hl := h.legal
  unfold mothIllegal at hl
  rw [h.opcode] at hl
  exact Nat.not_lt.mp (of_decide_eq_false hl)

/-- What a moth shows while its shift begins. -/
theorem shifting_get : mothGet (mothSet s m (shifting (mothGet s m) i)) m = shifting (mothGet s m) i := mothGet_mothSet ..

theorem shifting_shape : PinShape s (mothSet s m (shifting (mothGet s m) i)) := .mothSet rfl rfl rfl

/-- A SHOUT that begins: its frame, its bits and its end. -/
theorem shout_complete (h : Begins s m 1 i) (cyc : Nat) : ∃ t, exec (.mothShout m cyc) s = .next t ∧
    let mo := mothGet s m
    let n := field i 11 6
    (mothGet t m).so = (if bitAt i 2 then mo.so >>> min cyc n else mo.so <<< min cyc n) ∧
    (cyc < n → (mothGet t m).wait = .shift (n - cyc) ∧ (mothGet t m).pc = mo.pc) ∧
    (n ≤ cyc → (mothGet t m).pc = (mo.pc + 1) % 32) ∧ (mothGet t m).si = mo.si ∧ t.eng = s.eng ∧
    (∀ j, j < 8 → (j ≠ field i 5 3 ∨ min cyc n = 0 ∨ mothPin s m j = none) → bitAt (mothGet t m).out j = bitAt mo.out j) ∧
    (0 < min cyc n → (mothPin s m (field i 5 3)).isSome = true →
      bitAt (mothGet t m).out (field i 5 3) = bitAt mo.so (if bitAt i 2 then min cyc n - 1 else 32 - min cyc n)) := by
  refine ⟨_, exec_shout h cyc, ?_⟩
  intro mo n
  have hk : field (mothGet (mothSet s m (shifting mo i)) m).cur 5 3 = field i 5 3 := by
    rw [shifting_get]
    rfl
  obtain ⟨hf, hso, hbits, hlast⟩ := shoutBits_rest (mothSet s m (shifting mo i)) m hk
    (show min cyc n ≤ 32 from (Nat.min_le_right ..).trans h.shift_legal)
  have hown := hf.own
  have heng := hf.eng
  rw [shifting_get] at hown hso hbits hlast
  have hpin (j : Nat) : mothPin (mothSet s m (shifting mo i)) m j = mothPin s m j := shifting_shape.mothPin m j
  simp only [hpin] at hbits hlast
  generalize hz : forNats (List.range (min cyc n)) (fun z _ => shoutBit z m) (mothSet s m (shifting mo i)) = z at hso hbits hlast hown heng
  have hj : (mothGet z m).injWait = none := by
    rw [hown]
    exact h.uninjected.2
  obtain ⟨ht, hless, hall, -, hte⟩ := shiftDone_rest (mo := mothGet z m) m n cyc rfl hj
  have hpc : (mothGet z m).pc = mo.pc := by rw [hown]; rfl
  have hsi : (mothGet z m).si = mo.si := by rw [hown]; rfl
  rw [hpc] at hless hall
  change _ ∧ _
  rw [show field i 11 6 = n from rfl]
  generalize shiftDone z m n cyc = t at ht hless hall hte ⊢
  have hout : (mothGet t m).out = (mothGet z m).out := by rw [ht]
  refine ⟨?_, hless, hall, ?_, hte.trans heng, ?_, ?_⟩
  · rw [ht]
    exact hso
  · rw [ht]
    exact hsi
  · rw [hout]
    exact hbits
  · rw [hout]
    exact hlast

/-- A SHIN that begins at a pin that its moth does not have: zeros come in. -/
theorem shin_complete_none (h : Begins s m 2 i) (bits : List Bool) (hp : mothPin s m (field i 5 3) = none) :
    ∃ t, exec (.mothShin m bits) s = .next t ∧
      let mo := mothGet s m
      let n := field i 11 6
      (mothGet t m).si = (if bitAt i 2 then mo.si >>> min bits.length n else mo.si <<< min bits.length n) ∧
      (n ≤ bits.length → (mothGet t m).pc = (mo.pc + 1) % 32) ∧ OwnMoth s t m := by
  refine ⟨_, exec_shin h bits, ?_⟩
  have hsync (z : State) (b : Bool) (hz : mothPin z m (field i 5 3) = none) : mothSync z m (field i 5 3) b = z := by
    unfold mothSync
    rw [hz]
  have hx : mothPin (mothSet s m (shifting (mothGet s m) i)) m (field i 5 3) = none := (shifting_shape.mothPin m _).trans hp
  obtain ⟨hz, hown⟩ := shinBits_rest (J := fun z => mothPin z m (field i 5 3) = none) (r := fun _ => false)
    (bits := bits.take (field i 11 6)) (k := field i 5 3) (by rw [shifting_get]; rfl)
    (fun z b hz => by rw [hsync z b hz, mothLevel, hz])
    (fun z b w hz => by rw [hsync z b hz]; exact ((PinShape.mothSet (v := { mothGet z m with si := w }) rfl rfl rfl).mothPin m _).trans hz) hx
  rw [shifting_get, foldl_bitIn_false, List.length_take, Nat.min_comm] at hz
  generalize List.foldl _ _ _ = z at hz hown ⊢
  obtain ⟨ht, -, hall, hdone, -⟩ := shiftDone_rest m (field i 11 6) bits.length hz h.uninjected.2
  refine ⟨?_, hall, ((mothSet_ownMoth ..).trans hown).trans hdone⟩
  rw [ht]
  rfl

/-- A SHIN that begins at a free pin: the levels come in. -/
theorem shin_complete_pin (h : Begins s m 2 i) (bits : List Bool) {p : Nat} (hp : mothPin s m (field i 5 3) = some p) (hf : FreePin s p) :
    ∃ t, exec (.mothShin m bits) s = .next t ∧
      let mo := mothGet s m
      let n := field i 11 6
      (mothGet t m).si = (bits.take n).foldl (bitIn (bitAt i 2)) mo.si ∧
      (bits.length < n → (mothGet t m).wait = .shift (n - bits.length) ∧ (mothGet t m).pc = mo.pc) ∧
      (n ≤ bits.length → (mothGet t m).pc = (mo.pc + 1) % 32) ∧ (mothGet t m).so = mo.so ∧ OwnMoth s t m := by
  refine ⟨_, exec_shin h bits, ?_⟩
  have hreads : ReadsPin m (field i 5 3) p s := ⟨hp, hf, by rw [(mothPin_bank hp).1]; exact h.thawed⟩
  have hx : ReadsPin m (field i 5 3) p (mothSet s m (shifting (mothGet s m) i)) := hreads.mothSet rfl rfl rfl rfl
  obtain ⟨hz, hown⟩ := shinBits_rest (J := ReadsPin m (field i 5 3) p) (r := id)
    (bits := bits.take (field i 11 6)) (k := field i 5 3) (by rw [shifting_get]; rfl)
    (fun z b hz => mothLevel_mothSync (.inl ⟨rfl, p, hz.pin, hz.free⟩))
    (fun z b w hz => by
      have hled := Led.mothSync z m (field i 5 3) b
      have hz' := hled.mothGet m
      exact (hz.led hled).mothSet (by rw [hz']) (by rw [hz']) (by rw [hz']) (by rw [hz'])) hx
  rw [shifting_get] at hz
  generalize List.foldl _ (mothSet s m (shifting (mothGet s m) i)) _ = z at hz hown ⊢
  obtain ⟨ht, hless, hall, hdone, -⟩ := shiftDone_rest m (field i 11 6) bits.length hz h.uninjected.2
  refine ⟨?_, hless, hall, ?_, ((mothSet_ownMoth ..).trans hown).trans hdone⟩
  · rw [ht]
    rfl
  · rw [ht]
    rfl

theorem edge_complete {level reads : Bool} (h : Begins s m 3 i) (hp : PinReads s m (field i 5 3) level reads) :
    let mo := mothGet s m
    let holds := (field i 11 9 = 3 ∧ reads = true) ∨ (field i 11 9 = 4 ∧ reads = false)
    (holds → ∃ t, exec (.mothEdge m level) s = .next t ∧
      mothGet t m = mothRetire { begun mo i with tmo := false, edgeTime := (ktb s).setWidth 32 } none ∧ OwnMoth s t m) ∧
    (¬ holds → bitAt i 8 = false ∨ mo.kb ≠ 0 → ∃ t, exec (.mothEdge m level) s = .next t ∧
      mothGet t m = { begun mo i with wait := .edge, edgeLvl := reads } ∧ OwnMoth s t m) ∧
    (¬ holds → bitAt i 8 = true → mo.kb = 0 → ∃ t, exec (.mothEdge m level) s = .next t ∧
      mothGet t m = mothRetire { begun mo i with tmo := true } none ∧ OwnMoth s t m) := by
  intro mo holds
  obtain ⟨z, hled, hb, hl, hexec⟩ := exec_edge h hp
  have hz : mothGet z m = mo := hled.mothGet m
  have hown (v : Moth) : OwnMoth s (mothSet z m v) m := (hled.own m).trans (mothSet_ownMoth ..)
  have hkb : (begun mo i).kb = mo.kb := rfl
  rw [hexec, edgeStart, hz]
  rw [hz] at hl
  have hneg (hh : ¬ holds) : ¬ levelHolds (mothSet z m (begun mo i)) m i = true := fun e => hh ((levelHolds_iff hl).mp e)
  refine ⟨fun hh => ⟨_, rfl, ?_⟩, fun hh hk => ⟨_, rfl, ?_⟩, fun hh hb8 hk => ⟨_, rfl, ?_⟩⟩
  · have h5 : field i 11 9 ≠ 5 := by
      obtain ⟨e, _⟩ | ⟨e, _⟩ := hh <;> rw [e] <;> decide
    have hktb : ktb (mothSet z m (begun mo i)) = ktb s := by
      rw [ktb, ktb]
      change z.tick.bn9 + z.tick.slew = _
      rw [hled.tick]
    rw [if_pos ((levelHolds_iff hl).mpr hh), edgeMet, mothMap_mothSet, mothGet_mothSet,
      waitEnds_plain (mo := edgeSeenBy _ _ (begun mo i)) h.uninjected.1]
    refine ⟨?_, hown _⟩
    rw [edgeSeenBy, hktb, show (begun mo i).cur = i from rfl, if_neg h5]
    rfl
  · have hw : ¬ (bitAt i 8 && decide (mo.kb = 0)) = true := by
      rw [Bool.and_eq_true, decide_eq_true_eq]
      exact fun e => hk.elim (fun h8 => absurd (h8 ▸ e.1) (by decide)) (fun hkb => hkb e.2)
    rw [if_neg (hneg hh), mothGet_mothSet, hkb, if_neg hw, hl, mothMap_mothSet]
    exact ⟨mothGet_mothSet .., hown _⟩
  · rw [if_neg (hneg hh), mothGet_mothSet, hkb, hk, hb8, if_pos (by decide), edgeTimeout, mothMap_mothSet]
    exact ⟨mothGet_mothSet .., hown _⟩

theorem sample_complete (h : Begins s m 4 i) (levels : Byte) : ∃ t, exec (.mothSample m levels) s = .next t ∧
    mothGet t m = mothRetire { begun (mothGet s m) i with
      si := ((mothGet s m).si <<< (mothGet s m).npin) ||| BitVec.ofNat 32 (mothLevels t m % 2 ^ (mothGet s m).npin) } none ∧
    OwnMoth s t m ∧ (∀ j reads, j < 8 → PinReads s m j (bitAt levels j) reads → mothLevel t m j = reads) := by
  have hled := Led.mothSyncAll s m levels
  have hread (j reads) (hj : j < 8) (hp : PinReads s m j (bitAt levels j) reads) := mothLevel_mothSyncAll hj h.thawed hp
  have hb := hled.begins h
  have hx : exec (.mothSample m levels) s = .next (mothExec (mothSyncAll s m levels) m 4) := by
    change execMothSample m levels s = _
    unfold execMothSample
    rw [h.fetches, h.word, h.opcode]
    rfl
  rw [hx, mothExec_begins hb, mothStart_sample hb.opcode hb.noSide]
  generalize mothSyncAll s m levels = z at hled hread
  have hz := hled.mothGet m
  have hlevel (v : Moth) (hf : v.first = (mothGet z m).first) (hn : v.npin = (mothGet z m).npin) (ho : v.oe = (mothGet z m).oe) (j : Nat) :
      mothLevel (mothSet z m v) m j = mothLevel z m j := by
    unfold mothLevel
    rw [(PinShape.mothSet hf hn ho).mothPin]
    rfl
  have hlevels (v : Moth) (hf : v.first = (mothGet z m).first) (hn : v.npin = (mothGet z m).npin) (ho : v.oe = (mothGet z m).oe) :
      mothLevels (mothSet z m v) m = mothLevels z m := by
    unfold mothLevels
    simp only [hlevel v hf hn ho]
  have hret (w : Word) : let v := mothRetire { begun (mothGet z m) i with si := w } none
      v.first = (mothGet z m).first ∧ v.npin = (mothGet z m).npin ∧ v.oe = (mothGet z m).oe := by
    intro v
    have hv := (mothRetire_ended { begun (mothGet z m) i with si := w } none).frame
    dsimp only at hv
    have h1 := congrArg Moth.first hv
    have h2 := congrArg Moth.npin hv
    have h3 := congrArg Moth.oe hv
    exact ⟨h1, h2, h3⟩
  refine ⟨_, rfl, ?_⟩
  rw [sampleRun, mothMap_mothSet, hlevels (begun (mothGet z m) i) rfl rfl rfl]
  obtain ⟨hf, hn, ho⟩ := hret (((mothGet z m).si <<< (mothGet z m).npin) ||| BitVec.ofNat 32 (mothLevels z m % 2 ^ (mothGet z m).npin))
  refine ⟨?_, (hled.own m).trans (mothSet_ownMoth ..), fun j reads hj hp => (hlevel _ hf hn ho j).trans (hread j reads hj hp)⟩
  rw [mothGet_mothSet]
  have hl := hlevels _ hf hn ho
  rw [hz] at hl
  rw [hz]
  refine congrArg (fun n => mothRetire { begun (mothGet s m) i with
    si := ((mothGet s m).si <<< (mothGet s m).npin) ||| BitVec.ofNat 32 (n % 2 ^ (mothGet s m).npin) } none) hl.symm

theorem drive_complete (h : Begins s m 5 i) : ∃ t, exec (.mothDrive m) s = .next t ∧
    let mo := mothGet s m
    let v := if field i 11 10 = 0 then field i 7 0 else mo.so.toNat
    mothGet t m = mothRetire { begun mo i with
      so := if field i 11 10 = 2 then mo.so >>> mo.npin else mo.so, out := (mothGet t m).out } none ∧
    ∀ k, k < 8 → bitAt (mothGet t m).out k = if mothDriven s m k then v.testBit k else bitAt mo.out k := by
  refine ⟨_, congrArg Host.Outcome.next ((mothExec_begins h).trans (mothStart_drive h.opcode h.noSide)), ?_⟩
  intro mo v
  obtain ⟨hy, hbits⟩ := driven_begun (s := s) (m := m) (i := i) (mask := 255) (v := v)
  unfold driveRun
  dsimp only
  rw [mothGet_mothSet, show (if field i 11 10 = 0 then field i 7 0 else (begun (mothGet s m) i).so.toNat) = v from rfl]
  generalize mothDriveMask _ m 255 v = y at hy hbits ⊢
  rw [mothGet_mothMap, hy, mothRetire_plain (mo := { begun (mothGet s m) i with so := _, out := _ }) h.uninjected.2]
  refine ⟨?_, fun k hk => ?_⟩
  · rw [mothRetire_plain (mo := { begun mo i with so := _, out := _ }) h.uninjected.2]
    rfl
  · refine (hbits k hk).trans ?_
    rw [show 255 = 2 ^ 8 - 1 from rfl, Nat.testBit_two_pow_sub_one, decide_eq_true hk, Bool.true_and]

theorem toggle_complete (h : Begins s m 6 i) : ∃ t, exec (.mothToggle m) s = .next t ∧
    mothGet t m = mothRetire { begun (mothGet s m) i with out := (mothGet t m).out } none ∧
    ∀ k, k < 8 → bitAt (mothGet t m).out k = (bitAt (mothGet s m).out k ^^ (bitAt i k && mothDriven s m k)) := by
  refine ⟨_, congrArg Host.Outcome.next ((mothExec_begins h).trans (mothStart_toggle h.opcode h.noSide)), ?_⟩
  obtain ⟨hy, hbits⟩ := driven_begun (s := s) (m := m) (i := i) (mask := field i 7 0) (v := 255 - (mothGet s m).out.toNat)
  unfold toggleRun
  generalize mothDriveMask _ m _ _ = y at hy hbits ⊢
  rw [mothGet_mothMap, hy, mothRetire_plain (mo := { begun (mothGet s m) i with out := _ }) h.uninjected.2]
  refine ⟨?_, fun k hk => ?_⟩
  · rw [mothRetire_plain (mo := { begun (mothGet s m) i with out := _ }) h.uninjected.2]
  · refine (hbits k hk).trans ?_
    rw [testBit_field i hk, testBit_complement _ hk]
    cases bitAt i k && mothDriven s m k
    · exact (Bool.xor_false _).symm
    · exact (Bool.xor_true _).symm

theorem count_complete (h : Begins s m 8 i) :
    let c := { begun (mothGet s m) i with cntCond := field i 11 9, cntPin := field i 5 3 }
    (bitAt i 8 = true ∨ (mothGet s m).kb ≠ 0 → exec (.mothCount m) s = .next (mothSet s m { c with wait := .count })) ∧
    (bitAt i 8 = false → (mothGet s m).kb = 0 →
      exec (.mothCount m) s = .next (mothSet s m (mothRetire { c with ka := (mothGet s m).ka + (mothGet s m).acc, acc := 0 } none))) := by
  intro c
  have hx : exec (.mothCount m) s = .next (countStart (mothSet s m (begun (mothGet s m) i)) m i) :=
    congrArg Host.Outcome.next ((mothExec_begins h).trans (mothStart_count h.opcode h.noSide))
  rw [hx, countStart, mothMap_mothSet, mothGet_mothSet, show (begun (mothGet s m) i).kb = (mothGet s m).kb from rfl]
  refine ⟨fun hk => ?_, fun h8 hk => ?_⟩
  · have hw : ¬ (!bitAt i 8 && decide ((mothGet s m).kb = 0)) = true := by
      rw [Bool.and_eq_true, decide_eq_true_eq]
      exact fun e => hk.elim (fun h8 => absurd (h8 ▸ e.1) (by decide)) (fun hkb => hkb e.2)
    rw [if_neg hw, mothMap_mothSet]
  · have hw : (!bitAt i 8 && decide ((mothGet s m).kb = 0)) = true := by
      rw [h8, hk]
      rfl
    rw [if_pos hw, countEnd, mothMap_mothSet]
    exact congrArg (fun v => Host.Outcome.next (mothSet s m v)) (waitEnds_plain (mo := countMoves c) h.uninjected.1)

/-- Settles O49: each instruction by the bits, levels and registers that it moves. -/
theorem mothPinInstructionsComplete : Obligations.MothPinInstructionsComplete := by
  unfold Obligations.MothPinInstructionsComplete
  exact fun s m i => ⟨fun cyc h => shout_complete h cyc, fun bits h hp => shin_complete_none h bits hp,
    fun bits p h hp hf => shin_complete_pin h bits hp hf, fun level reads h hp => edge_complete h hp,
    fun levels h => sample_complete h levels, drive_complete, toggle_complete, count_complete⟩

end Sys2Proof.Machine
end

section
/-! The waits of the moths. -/

namespace Sys2Proof.Machine

variable {s t u z : State} {m k : Nat} {i : BitVec 24}

theorem MWaits.acts {w : MWait} (h : MWaits s m w) : mothActs s m = true := by
  have hg := h.goes
  unfold mothWaits at hg
  exact (Bool.and_eq_true_iff.mp hg).1

/-- The wait of an instruction that no injection stands before ends with the instruction. -/
theorem MWaits.ends {w : MWait} (h : MWaits s m w) {v : Moth} (hi : v.inj = (mothGet s m).inj) (hj : v.injWait = (mothGet s m).injWait) :
    waitEnds v = mothRetire v none := by
  have hg := h.goes
  unfold mothWaits at hg
  obtain ⟨-, hg⟩ := Bool.and_eq_true_iff.mp hg
  unfold waitEnds
  refine if_neg ?_
  rw [hi, hj]
  cases hx : (mothGet s m).inj
  · simp
  · rw [hx] at hg
    cases hy : (mothGet s m).injWait
    · rw [hy] at hg
      cases hg
    · simp

/-- An injection before the boundary holds the end of a wait. -/
theorem waitEnds_held {v : Moth} (hi : v.inj.isSome = true) (hj : v.injWait = none) : waitEnds v = { v with wait := .ended } := by
  unfold waitEnds
  rw [hi, hj]
  rfl

theorem edgeSeenBy_timed (i : BitVec 24) (mo : Moth) (h : field i 11 9 ≠ 5) :
    edgeSeenBy s i mo = { mo with tmo := false, edgeTime := (ktb s).setWidth 32 } := by
  rw [edgeSeenBy, if_neg h]

theorem edgeSeenBy_tick (i : BitVec 24) (mo : Moth) (h : field i 11 9 = 5) : edgeSeenBy s i mo = { mo with tmo := false } := by
  rw [edgeSeenBy, if_pos h]

theorem Led.ktb (h : Led s t) : ktb t = ktb s := by
  unfold Machine.ktb
  rw [h.tick]

/-- What can end an EDGE at a free pin: the level that its condition asks for. -/
theorem edgeCan_free {p : Nat} {was : Bool} (hc : field i 11 9 < 5) (hp : mothPin s m (field i 5 3) = some p) (hf : FreePin s p) :
    edgeCan s m i was = true := by
  have hl : mothLevel (edgeSync s m i was) m (field i 5 3) = edgeLevel i was := mothLevel_mothSync (.inl ⟨rfl, p, hp, hf⟩)
  unfold edgeCan
  rw [hp]
  dsimp only
  rw [hl, beq_self_eq_true, Bool.and_true, bne_iff_ne]
  omega

theorem edgeCan_none {was : Bool} (hp : mothPin s m (field i 5 3) = none) :
    edgeCan s m i was = (match field i 11 9 with | 1 => was | 2 => was | 4 => true | _ => false) := by
  have hl : mothLevel s m (field i 5 3) = false := by
    unfold mothLevel
    rw [hp]
  unfold edgeCan edgeHolds
  rw [hp, hl]
  generalize field i 11 9 = c
  match c with
  | 0 => cases was <;> rfl
  | 1 => cases was <;> rfl
  | 2 => cases was <;> rfl
  | 3 => rfl
  | 4 => rfl
  | _ + 5 => rfl

/-- An EDGE at a free pin that is seen: the moth as the condition leaves it. -/
theorem edgeMet_free (hc : field (mothGet s m).cur 11 9 < 5) :
    let z := edgeSync s m (mothGet s m).cur (mothGet s m).edgeLvl
    mothGet (edgeMet z m) m = waitEnds { mothGet s m with tmo := false, edgeTime := (ktb s).setWidth 32 } ∧ OwnMoth s (edgeMet z m) m := by
  intro z
  have hled : Led s z := .mothSync ..
  refine ⟨?_, (hled.own m).trans (mothSet_ownMoth ..)⟩
  rw [edgeMet, mothGet_mothMap, edgeSeenBy_timed _ _ (by rw [hled.mothGet]; omega), hled.mothGet, hled.ktb]

theorem exec_edgeMet {p : Nat} (ha : mothActs s m = true) (hw : (mothGet s m).wait = .edge) (hc : field (mothGet s m).cur 11 9 < 5)
    (hp : mothPin s m (field (mothGet s m).cur 5 3) = some p) (hf : FreePin s p) : ∃ t, exec (.mothEdgeMet m false) s = .next t ∧
      OwnMoth s t m ∧ mothGet t m = waitEnds { mothGet s m with tmo := false, edgeTime := (ktb s).setWidth 32 } := by
  obtain ⟨hget, hown⟩ := edgeMet_free (s := s) hc
  refine ⟨_, ?_, hown, hget⟩
  change execMothEdgeMet m s false = _
  unfold execMothEdgeMet
  dsimp only
  rw [ha, hw, edgeCan_free hc hp hf]
  rfl

theorem exec_edgeMet_none (h : MWaits s m .edge) (hp : mothPin s m (field (mothGet s m).cur 5 3) = none) :
    exec (.mothEdgeMet m false) s = .next
      (if edgeCan s m (mothGet s m).cur (mothGet s m).edgeLvl then edgeMet s m else s) := by
  have hs : edgeSync s m (mothGet s m).cur (mothGet s m).edgeLvl = s := by
    unfold edgeSync mothSync
    rw [hp]
  change execMothEdgeMet m s false = _
  unfold execMothEdgeMet
  dsimp only
  rw [h.acts, h.waits, hs]
  cases edgeCan s m (mothGet s m).cur (mothGet s m).edgeLvl <;> rfl

/-- The condition of an EDGE in hand, which no injection stands before, ends it. -/
theorem edgeMet_waits (h : MWaits s m .edge) (hc : field (mothGet s m).cur 11 9 ≠ 5) :
    edgeMet s m = mothSet s m (mothRetire { mothGet s m with tmo := false, edgeTime := (ktb s).setWidth 32 } none) := by
  rw [edgeMet, mothMap, edgeSeenBy_timed _ _ hc]
  exact congrArg (mothSet s m) (h.ends rfl rfl)

theorem exec_edgeMet_held {p : Nat} (ha : mothActs s m = true) (he : (mothGet s m).en = true) (hw : (mothGet s m).injWait = some .edge)
    (hc : field (mothGet s m).injCur 11 9 < 5) (hp : mothPin s m (field (mothGet s m).injCur 5 3) = some p) (hf : FreePin s p) :
    ∃ t, exec (.mothEdgeMet m true) s = .next t ∧ OwnMoth s t m ∧
      mothGet t m = { mothGet s m with tmo := false, edgeTime := (ktb s).setWidth 32, injWait := some .ended } := by
  have hled : Led s (edgeSync s m (mothGet s m).injCur (mothGet s m).injLvl) := .mothSync ..
  refine ⟨heldEdgeMet (edgeSync s m (mothGet s m).injCur (mothGet s m).injLvl) m, ?_, (hled.own m).trans (mothSet_ownMoth ..), ?_⟩
  · change execMothEdgeMet m s true = _
    unfold execMothEdgeMet
    dsimp only
    rw [ha, he, hw, edgeCan_free hc hp hf]
    rfl
  · rw [heldEdgeMet, mothGet_mothMap, edgeSeenBy_timed _ _ (by rw [hled.mothGet]; omega), hled.mothGet, hled.ktb]

theorem edgeWaits_tick (h : MWaits s m .edge) (hc : field (mothGet s m).cur 11 9 = 5) (hj : (mothGet s m).injWait = none) :
    edgeWaits s m = mothSet s m (mothRetire { mothGet s m with tmo := false } none) := by
  have hheld : heldWaits s m = s := by
    unfold heldWaits
    dsimp only
    rw [hj]
    exact ite_self s
  unfold edgeWaits
  rw [if_pos h.acts, hheld]
  dsimp only
  rw [h.waits, hc, if_pos (by decide), edgeMet, mothMap, edgeSeenBy_tick _ _ hc]
  exact congrArg (mothSet s m) (h.ends rfl rfl)

/-! Counted pulses. -/

theorem exec_pinEdgeCount {rising : Bool} {p : Nat} (hm : m < 104) (hb : bankLive s (bankOf m) = true) (he : (mothGet s m).en = true)
    (hp : mothPin s m (mothGet s m).cntPin = some p) (hf : FreePin s p)
    (hc : (mothGet s m).cntCond = 2 ∨ ((mothGet s m).cntCond = 0 ∧ rising = true) ∨ ((mothGet s m).cntCond = 1 ∧ rising = false)) :
    ∃ t, exec (.mothPinEdgeCount m rising) s = .next t ∧ mothGet t m = { mothGet s m with acc := (mothGet s m).acc + 1 } ∧
      hasNat p t.field.sync = rising ∧ OwnMoth s t m ∧ (pinFilter s p ≠ 0 → t = { s with field := t.field }) := by
  have hled := Led.mothSync s m (mothGet s m).cntPin rising
  have hl := mothLevel_mothSync (.inl ⟨rfl, p, hp, hf⟩ : PinReads s m (mothGet s m).cntPin rising rising)
  have hs : mothSync s m (mothGet s m).cntPin rising = syncPut s p rising := by
    unfold mothSync
    rw [hp]
  have hhit : ((mothGet s m).cntCond == 2 || ((mothGet s m).cntCond == 0 && rising) || ((mothGet s m).cntCond == 1 && !rising)) = true := by
    obtain hc | ⟨hc, hr⟩ | ⟨hc, hr⟩ := hc
    · rw [hc]
      rfl
    · rw [hc, hr]
      rfl
    · rw [hc, hr]
      rfl
  refine ⟨mothMap (mothSync s m (mothGet s m).cntPin rising) m (fun mo => { mo with acc := mo.acc + 1 }), ?_, ?_, ?_,
    (hled.own m).trans (mothSet_ownMoth ..), fun hfil => ?_⟩
  · change execMothPinEdgeCount m rising s = _
    unfold execMothPinEdgeCount
    dsimp only
    rw [hhit, hl, hp, hb, he, decide_eq_true hm]
    cases rising <;> rfl
  · rw [mothGet_mothMap, hled.mothGet]
  · have h := pinLevel_syncPut hf rising
    have ha := (Led.syncPut s p rising).absent
    rw [pinLevel, ha, hf.supplied, Bool.not_false, Bool.and_true] at h
    rw [hs]
    exact h
  · have hfield : syncPut s p rising = { s with field := (syncPut s p rising).field } := by
      unfold syncPut filtFollow
      dsimp only
      rw [if_neg (fun h => hfil h.1)]
    rw [hs, hfield]
    rfl

/-! Timeouts, and the end of a COUNT. -/

theorem exec_edgeTimeout (h : MWaits s m .edge) (h8 : bitAt (mothGet s m).cur 8 = true) : exec (.mothEdgeTimeout m) s =
    .next (if edgeHolds s m (mothGet s m).cur (mothGet s m).edgeLvl then edgeMet s m else edgeTimeout s m) := by
  change execMothEdgeTimeout m s = _
  unfold execMothEdgeTimeout
  dsimp only
  rw [h.goes, h.waits, h8]
  rfl

theorem exec_countEnd (ha : mothActs s m = true) (hw : (mothGet s m).wait = .count) (h8 : bitAt (mothGet s m).cur 8 = false) :
    exec (.mothCountEnd m) s = .next (countEnd s m) := by
  change execMothCountEnd m s = _
  unfold execMothCountEnd
  rw [ha, hw, h8]
  rfl

/-! The end of a stall. -/

/-- A stall that ends: its cycles are counted, and the queue serves where it can. -/
theorem exec_stallEnd {w : MWait} (h : MWaits s m w) (hw : w = .stallF ∨ w = .stallS) (cyc : Nat) : exec (.mothStallEnd m cyc) s = .next
    (if canServe (mothGet s m) then queueServe (cntAdd s (mthAdr m 0x38) cyc) m else cntAdd s (mthAdr m 0x38) cyc) := by
  change execMothStallEnd m cyc s = _
  unfold execMothStallEnd
  dsimp only
  have hs : ((mothGet s m).wait == .stallF || (mothGet s m).wait == .stallS) = true := by
    rw [h.waits]
    obtain rfl | rfl := hw <;> rfl
  rw [h.acts, hs, h.goes, Bool.true_and, Bool.true_and, if_pos rfl]

/-! An injected instruction. -/

/-- An injected instruction that ends without a delay: what it interrupted goes on as it stood, or ends where it was over. -/
theorem mothIdle_interrupted {v : Moth} (hj : v.injWait = none) (hcur : v.injCur = v.cur) (hlvl : v.injLvl = v.edgeLvl) (i : BitVec 24) :
    mothIdle { v with injWait := some v.wait, wait := .none, cur := i } = if v.wait = .ended then mothEnd v else v := by
  cases v
  dsimp only at hj hcur hlvl ⊢
  subst hj hcur hlvl
  unfold mothIdle
  dsimp only
  split
  · cases ‹_ = none›
  next h =>
    rw [if_pos (Option.some.inj h)]
    rfl
  next hne h =>
    obtain rfl := Option.some.inj h
    rw [if_neg hne]

theorem mothRetire_interrupted {v : Moth} (hj : v.injWait = none) (hcur : v.injCur = v.cur) (hlvl : v.injLvl = v.edgeLvl)
    (hd : field i 18 16 = 0) :
    mothRetire { v with injWait := some v.wait, wait := .none, cur := i } none = if v.wait = .ended then mothEnd v else v := by
  unfold mothRetire
  dsimp only
  rw [if_pos hd]
  exact mothIdle_interrupted hj hcur hlvl i

theorem mothStart_injectedSet (ho : mOp i = 13) (hc : field i 11 10 = 0) (hd : field i 18 16 = 0) (hn : bitAt i 15 = false) {v : Moth}
    (hv : mothGet s m = { v with injWait := some v.wait, wait := .none }) (hj : v.injWait = none) (hcur : v.injCur = v.cur)
    (hlvl : v.injLvl = v.edgeLvl) :
    mothGet (mothStart s m i) m = (let done := { v with ka := BitVec.ofNat 32 (field i 9 0) }; if v.wait = .ended then mothEnd done else done) := by
  unfold mothStart sideDrive
  rw [hn, if_neg (by decide), ho]
  change mothGet (mothMap (mothMap s m (fun mo => { mo with cur := i })) m (fun mo => setRun mo i)) m = _
  rw [mothGet_mothMap, mothGet_mothMap, hv]
  unfold setRun
  rw [hc]
  exact mothRetire_interrupted (v := { v with ka := BitVec.ofNat 32 (field i 9 0) }) hj hcur hlvl hd

theorem exec_injected (hm : m < 104) (hb : bankLive s (bankOf m) = true) (hi : (mothGet s m).inj = some i) (hj : (mothGet s m).injWait = none)
    (levels : Byte) : ∃ y, mothGet y m = { mothGet s m with inj := none, d := (mothGet s m).dNext.getD (mothGet s m).d, dNext := none } ∧
      exec (.mothInjectedExecute m levels) s = .next (if mothIllegal (mothGet s m) i then mothStop y m
        else mothStart (mothMap y m (fun mo =>
          { mo with injWait := some (mothGet s m).wait, injCur := (mothGet s m).cur, injLvl := (mothGet s m).edgeLvl, wait := .none })) m i) := by
  let y := mothTick (mothSyncAll (mothMap s m (fun mo => { mo with inj := none })) m levels) m
  have hy : mothGet y m = { mothGet s m with inj := none, d := (mothGet s m).dNext.getD (mothGet s m).d, dNext := none } := by
    have hled := Led.mothSyncAll (mothMap s m (fun mo => { mo with inj := none })) m levels
    change mothGet (mothTick _ m) m = _
    rw [mothTick, mothGet_mothMap, hled.mothGet, mothGet_mothMap]
  refine ⟨y, hy, ?_⟩
  have hmap : mothMap y m (fun mo => { mo with injWait := some mo.wait, injCur := mo.cur, injLvl := mo.edgeLvl, wait := .none }) =
      mothMap y m (fun mo =>
        { mo with injWait := some (mothGet s m).wait, injCur := (mothGet s m).cur, injLvl := (mothGet s m).edgeLvl, wait := .none }) := by
    rw [mothMap, mothMap, hy]
  have hg : (decide (m < 104) && bankLive s (bankOf m) && (mothGet s m).injWait.isNone) = true := by
    rw [hb, hj, decide_eq_true hm]
    rfl
  change execMothInjectedExecute m levels s = _
  unfold execMothInjectedExecute
  dsimp only
  rw [hi]
  dsimp only
  rw [if_pos hg, ← hmap]
  exact (apply_ite Host.Outcome.next ..).symm

/-- Settles O51: each wait by its end, and an injected instruction by what it interrupted. -/
theorem mothWaitsEnd : Obligations.MothWaitsEnd := by
  unfold Obligations.MothWaitsEnd
  intro s m mo code cond met
  refine ⟨fun p h hc hp hf => ?_, fun h hp => ⟨fun hc => ?_, fun hc => ?_⟩, fun h hc hj => edgeWaits_tick h hc hj,
    fun p ha hw hc hp hf hi hj => ?_, fun p ha he hw hc hp hf => exec_edgeMet_held ha he hw hc hp hf, fun h h8 => ⟨fun hh => ?_, fun hh => ?_⟩,
    fun h h8 => ?_, fun ha hw h8 hi hj => ?_, fun rising p hm hb he hp hf hc => exec_pinEdgeCount hm hb he hp hf hc,
    fun cyc w rest h ho hq => ?_, fun cyc h ho himode hl => ?_, fun cyc h ho hl => ?_, fun cyc h ho hq => ?_, fun k h => ?_,
    fun i levels hm hb hi hj => ⟨fun hill => ?_, fun hill ho hc hd hn => ?_⟩⟩
  · obtain ⟨t, ht, hown, hget⟩ := exec_edgeMet h.acts h.waits hc hp hf
    exact ⟨t, ht, hown, hget.trans (h.ends rfl rfl)⟩
  · rw [exec_edgeMet_none h hp, edgeCan_none hp, if_neg]
    obtain hc | hc | hc | ⟨hc | hc, hl⟩ := hc
    all_goals
      change field (mothGet s m).cur 11 9 = _ at hc
      rw [hc]
    · exact Bool.false_ne_true
    · exact Bool.false_ne_true
    · exact Bool.false_ne_true
    · exact ne_true_of_eq_false hl
    · exact ne_true_of_eq_false hl
  · have h5 : field (mothGet s m).cur 11 9 ≠ 5 := by
      change cond ≠ 5
      omega
    rw [exec_edgeMet_none h hp, edgeCan_none hp, edgeMet_waits h h5]
    refine congrArg Host.Outcome.next (if_pos ?_)
    obtain hc | ⟨hc | hc, hl⟩ := hc
    all_goals
      change field (mothGet s m).cur 11 9 = _ at hc
      rw [hc]
    · rfl
    · exact hl
    · exact hl
  · obtain ⟨t, ht, hown, hget⟩ := exec_edgeMet ha hw hc hp hf
    exact ⟨t, ht, hown, hget.trans (waitEnds_held hi hj)⟩
  · rw [exec_edgeTimeout h h8, if_neg (ne_true_of_eq_false hh)]
    rfl
  · have h5 : field (mothGet s m).cur 11 9 ≠ 5 := by
      intro e
      change edgeHolds s m (mothGet s m).cur (mothGet s m).edgeLvl = true at hh
      unfold edgeHolds at hh
      rw [e] at hh
      cases hh
    rw [exec_edgeTimeout h h8, if_pos hh, edgeMet_waits h h5]
  · rw [exec_countEnd h.acts h.waits h8, countEnd, mothMap]
    exact congrArg (fun v => Host.Outcome.next (mothSet s m v)) (h.ends rfl rfl)
  · rw [exec_countEnd ha hw h8, countEnd, mothMap]
    exact congrArg (fun v => Host.Outcome.next (mothSet s m v)) (waitEnds_held hi hj)
  · have hserve : canServe (mothGet s m) = true := by
      rw [canServe_fetch ho, show (mothGet s m).qout = w :: rest from hq]
      rfl
    rw [exec_stallEnd h (.inl rfl), if_pos hserve]
    generalize mthAdr m 0x38 = a
    have hz : mothGet (cntAdd s a cyc) m = mothGet s m := rfl
    rw [queueServe_fetch (s := cntAdd s a cyc) ho hq, hz]
    exact ⟨_, rfl, mothGet_mothSet .., cntGet_cntAdd s a cyc, rfl⟩
  · have hserve : canServe (mothGet s m) = true := by
      rw [canServe_stow ho]
      exact decide_eq_true hl
    rw [exec_stallEnd h (.inr rfl), if_pos hserve]
    generalize mthAdr m 0x38 = a
    have hz : mothGet (cntAdd s a cyc) m = mothGet s m := rfl
    rw [queueServe_stow (s := cntAdd s a cyc) ho, hz]
    dsimp only
    rw [if_neg (ne_true_of_eq_false himode)]
    exact ⟨_, rfl, mothGet_mothSet .., cntGet_cntAdd s a cyc, rfl⟩
  · have hserve : ¬ canServe (mothGet s m) = true := by
      rw [canServe_stow ho, decide_eq_true_eq]
      exact Nat.not_lt.mpr hl
    rw [exec_stallEnd h (.inr rfl), if_neg hserve]
  · have hserve : ¬ canServe (mothGet s m) = true := by
      rw [canServe_fetch ho, show (mothGet s m).qout = [] from hq]
      decide
    rw [exec_stallEnd h (.inl rfl), if_neg hserve]
  · change execMothDelayEnd m s = _
    unfold execMothDelayEnd
    rw [h.waits]
    exact if_pos h.goes
  · obtain ⟨y, hy, hx⟩ := exec_injected hm hb hi hj levels
    obtain ⟨hget, -⟩ := mothStop_rest (s := y) m
    rw [hx, if_pos hill]
    refine ⟨_, rfl, ?_⟩
    rw [hget, hy]
    exact ⟨rfl, rfl, rfl, rfl⟩
  · obtain ⟨y, hy, hx⟩ := exec_injected hm hb hi hj levels
    rw [hx, if_neg (ne_true_of_eq_false hill)]
    refine ⟨_, rfl, ?_⟩
    exact mothStart_injectedSet (v := { mo with
      d := mo.dNext.getD mo.d, dNext := none, inj := none, injCur := mo.cur, injLvl := mo.edgeLvl }) ho hc hd hn
      (by rw [mothGet_mothMap, hy]) hj rfl rfl

end Sys2Proof.Machine
end

section
/-! The cell queues. -/

namespace Sys2Proof.Machine

variable {s t u z : State} {n m b : Nat}

/-! An arrival at an inbound queue. -/

/-- A dispatcher that an arrival wakes keeps its queues and registers. -/
theorem inqPut_room (q : QCell) (hn : n < 64) (h : (engGet s n).inq.length < 512) :
    (engGet (inqPut s n q) n).inq = (engGet s n).inq ++ [q] ∧ (engGet (inqPut s n q) n).g = (engGet s n).g ∧
      (∀ m, m ≠ n → engGet (inqPut s n q) m = engGet s m) ∧ Framed s (inqPut s n q) := by
  unfold inqPut
  dsimp only
  rw [if_neg (Nat.not_le.mpr h), if_pos hn]
  generalize hs1 : engSet s n { engGet s n with inq := (engGet s n).inq ++ [q] } = s1
  have hown : engGet s1 n = { engGet s n with inq := (engGet s n).inq ++ [q] } := by rw [← hs1, engGet_engSet]
  have ho (m : Nat) (hm : m ≠ n) : engGet s1 m = engGet s m := by rw [← hs1, engGet_engSet_other s hm]
  have hf : Framed s s1 := hs1 ▸ .engSet ..
  split
  · have hl : Logged s1 (listMaxNote (cntAdd s1 (0x4104 + cluOf n * 0x20) 1) n) := by
      unfold listMaxNote
      exact (Logged.cntAdd _ _ _).trans (.ite (.cntPut ..) (.refl _))
    have he : (listMaxNote (cntAdd s1 (0x4104 + cluOf n * 0x20) 1) n).eng = s1.eng := by
      unfold listMaxNote
      dsimp only
      split <;> rfl
    generalize listMaxNote (cntAdd s1 (0x4104 + cluOf n * 0x20) 1) n = s2 at hl he
    have hw := (Logged.wakeEng s2 n).woken n
    have heng (m : Nat) : engGet s2 m = engGet s1 m := by rw [engGet, he, ← engGet]
    rw [heng, hown] at hw
    refine ⟨by rw [hw.alike], by rw [hw.alike], fun m hm => ?_, (hf.trans hl.frame).trans (Logged.wakeEng s2 n).frame⟩
    rw [wakeEng, engGet_engMap_other _ hm, heng, ho m hm]
  · rw [hown]
    exact ⟨rfl, rfl, ho, hf⟩

theorem inqPut_full (q : QCell) (hn : n < 64) (h : 512 ≤ (engGet s n).inq.length) :
    inqPut s n q = cntAdd s (0x5000 + n * 0x20 + 4) 1 := by
  unfold inqPut qCount
  dsimp only
  rw [if_pos h, if_pos hn]

/-! Routed cells: they fly on the crossbar or leave by a chain port. -/

/-- `t` is `s` but for its counters, the chain ports and the cells on the crossbar. -/
def Routed (s t : State) : Prop := t = { s with cnt := t.cnt, chain := t.chain, cells := { s.cells with flight := t.cells.flight } }

namespace Routed

theorem refl (s : State) : Routed s s := rfl

theorem trans (h : Routed s t) (k : Routed t u) : Routed s u := by
  unfold Routed at *
  rw [k, h]

theorem ite {c : Prop} [Decidable c] (h : Routed s t) (k : Routed s u) : Routed s (if c then t else u) := by
  split
  · exact h
  · exact k

theorem foldl {α : Type} {f : State → α → State} (hf : ∀ z x, Routed z (f z x)) (l : List α) (s : State) : Routed s (l.foldl f s) := by
  induction l generalizing s with
  | nil => exact refl s
  | cons x l ih => exact (hf s x).trans (ih _)

theorem cntAdd (s : State) (a k : Nat) : Routed s (cntAdd s a k) := rfl

theorem flyTo (s : State) (d : Nat) (c : OCell) : Routed s (flyTo s d c) := rfl

theorem flyRest (s : State) (l : List Flight) : Routed s (flyRest s l) := rfl

theorem flyOut (s : State) (d : Nat) (c : OCell) : Routed s (flyOut s d c) := ite (cntAdd ..) (flyTo ..)

theorem routeLocal (s : State) (o : OCell) : Routed s (routeLocal s o) := by
  unfold Machine.routeLocal
  extract_lets c i s1 s2 s3
  refine ite (cntAdd ..) ?_
  have h1 : Routed s s1 := ite (flyTo ..) (refl s)
  have h2 : Routed s s2 := h1.trans (ite (flyOut ..) (refl s1))
  have h3 : Routed s s3 := h2.trans (ite (flyOut ..) (refl s2))
  refine h3.trans (ite (ite ?_ (ite (cntAdd ..) (foldl (fun z d => flyTo z d o) _ s3))) (refl s3))
  cases mothOfCtx s i with
  | none => exact cntAdd ..
  | some m => exact flyOut ..

theorem routeCell (s : State) (o : OCell) : Routed s (routeCell s o) := by
  unfold Machine.routeCell
  extract_lets k c d o1 s1
  refine ite (refl s) (ite (cntAdd ..) (ite (ite (cntAdd ..) (flyOut ..)) ?_))
  have h1 : Routed s s1 := ite (flyOut ..) (refl s)
  exact h1.trans (routeLocal s1 o1)

theorem frameSend (s : State) (p type src hops : Nat) (wrap past : Bool) (bodies : List W128) :
    Routed s (frameSend s p type src hops wrap past bodies) := by
  unfold Machine.frameSend portSet
  split <;> rfl

theorem unicastSend (s : State) (p src hops : Nat) (wrap : Bool) (bodies : List W128) :
    Routed s (unicastSend s p src hops wrap bodies) := by
  unfold Machine.unicastSend
  have h1 := cntAdd s (chnAdr p 0x1C) 1
  exact ite (frameSend ..) (ite (cntAdd ..) (ite (h1.trans (frameSend ..)) (h1.trans (cntAdd ..))))

theorem broadcastSend (s : State) (c : W128) : Routed s (broadcastSend s c) := ite (frameSend ..) (ite (frameSend ..) (refl s))

theorem chainFlush (s : State) : Routed s (chainFlush s) := by
  unfold Machine.chainFlush
  extract_lets mine go s1
  have h1 : Routed s s1 := flyRest ..
  exact ite h1 (h1.trans (foldl (fun z f => ite (broadcastSend ..) (unicastSend ..)) go s1))

theorem eng (h : Routed s t) : t.eng = s.eng := by rw [h]
theorem field (h : Routed s t) : t.field = s.field := by rw [h]
theorem store (h : Routed s t) : t.store = s.store := by rw [h]
theorem rot (h : Routed s t) : t.cells.rot = s.cells.rot := by rw [h]

end Routed

/-! Immediate words that wait for a gateway. -/

/-- `t` is `s` but for its counters, the moths and the gateway queues. -/
def Gated (s t : State) : Prop := t = { s with cnt := t.cnt, field := t.field }

theorem Gated.refl (s : State) : Gated s s := rfl

theorem Gated.trans (h : Gated s t) (k : Gated t u) : Gated s u := by
  unfold Gated at *
  rw [k, h]

theorem Gated.forNats {f : State → Nat → State} (hf : ∀ z x, Gated z (f z x)) (l : List Nat) (s : State) : Gated s (forNats l f s) := by
  unfold Machine.forNats
  induction l generalizing s with
  | nil => exact refl s
  | cons x l ih => exact (hf s x).trans (ih _)

theorem Gated.gwMake (s : State) (m : Nat) (w : Word) : Gated s (gwMake s m w) := by
  unfold Machine.gwMake
  dsimp only
  split <;> rfl

theorem Gated.mothMap (s : State) (m : Nat) (f : Moth → Moth) : Gated s (mothMap s m f) := rfl

theorem Gated.gwTakeWord (s : State) (m : Nat) : Gated s (gwTakeWord s m) := by
  unfold Machine.gwTakeWord
  split
  · exact refl s
  · split
    · exact (mothMap s m _).trans (gwMake ..)
    · exact refl s

theorem Gated.gwServe (s : State) (b : Nat) : Gated s (gwServe s b) := by
  unfold Machine.gwServe
  extract_lets r k order
  split
  · exact refl s
  next m _ =>
    split
    · have h1 := gwTakeWord s m
      exact h1.trans rfl
    · exact refl s

theorem Gated.gwServeAll (s : State) (b : Nat) : Gated s (gwServeAll s b) := Gated.forNats (fun z _ => gwServe z b) _ s

/-- Where no moth of the bank has an immediate word, the gateway takes none. -/
theorem gwServeAll_idle (h : ∀ m ∈ mothsOf b, (mothGet s m).imode = true → (mothGet s m).qin = []) : gwServeAll s b = s := by
  unfold gwServeAll
  extract_lets words
  have hw : words = 0 := by
    have key (l : List Nat) (hl : ∀ m ∈ l, (mothGet s m).imode = true → (mothGet s m).qin = []) :
        (l.map (fun m => if (mothGet s m).imode then (mothGet s m).qin.length else 0)).foldl (· + ·) 0 = 0 := by
      induction l with
      | nil => rfl
      | cons m l ih =>
        have hm : (if (mothGet s m).imode then (mothGet s m).qin.length else 0) = 0 := by
          split
          next hi => rw [hl m List.mem_cons_self hi, List.length_nil]
          · rfl
        rw [List.map_cons, List.foldl_cons, hm]
        exact ih (fun q hq => hl q (List.mem_cons_of_mem _ hq))
    exact key _ h
  rw [hw]
  rfl

/-! The sweep of one engine, and of all. -/

theorem queueOld_engine (hn : n < 64) (c : W128) : queueOld s n c = cellOld s c := if_neg (by omega)

/-- What the sweep leaves of the queues of an engine. -/
structure Swept (old : W128 → Bool) (e f : Engine) : Prop where
  inq : f.inq = e.inq.filter (fun q => !q.bad && !old q.cell)
  outq : f.outq = e.outq.filter (fun o => o.pend || !old o.cell)
  scan : f.scan = e.scan

/-- The queues of an engine are what they were. -/
structure Unswept (e f : Engine) : Prop where
  inq : f.inq = e.inq
  outq : f.outq = e.outq
  scan : f.scan = e.scan

theorem Woken.unswept {e f : Engine} (h : Woken e f) : Unswept e f := by
  rw [h.alike]
  exact ⟨rfl, rfl, rfl⟩

theorem Swept.again {old : W128 → Bool} {e f g : Engine} (h : Swept old e f) (k : Swept old f g) : Swept old e g where
  inq := by rw [k.inq, h.inq, List.filter_filter]; simp only [Bool.and_self]
  outq := by rw [k.outq, h.outq, List.filter_filter]; simp only [Bool.and_self]
  scan := k.scan.trans h.scan

theorem Swept.kept {old : W128 → Bool} {e f g : Engine} (h : Swept old e f) (k : Unswept f g) : Swept old e g :=
  ⟨k.inq.trans h.inq, k.outq.trans h.outq, k.scan.trans h.scan⟩

theorem Unswept.swept {old : W128 → Bool} {e f g : Engine} (h : Unswept e f) (k : Swept old f g) : Swept old e g :=
  ⟨by rw [k.inq, h.inq], by rw [k.outq, h.outq], k.scan.trans h.scan⟩

theorem Unswept.trans {e f g : Engine} (h : Unswept e f) (k : Unswept f g) : Unswept e g :=
  ⟨k.inq.trans h.inq, k.outq.trans h.outq, k.scan.trans h.scan⟩

theorem inqParity_engine : Woken { engGet s n with inq := (engGet s n).inq.filter (fun q => !q.bad) } (engGet (inqParity s n) n) := by
  have hinq := inqParity_inq (s := s) (n := n)
  unfold inqParity at hinq ⊢
  dsimp only at hinq ⊢
  split
  · have hw := (Logged.forNats (fun z k => Logged.parityDrop z n k)
      ((List.range (engGet s n).inq.length).filter (fun p => ((engGet s n).inq[p]?.map (·.bad)).getD false))
      (engMap s n (fun e => { e with inq := (engGet s n).inq.filter (fun q => !q.bad) }))).woken n
    rw [engMap, engGet_engSet] at hw
    exact hw
  next h =>
    rw [if_neg h] at hinq
    rw [← hinq]
    exact .refl _

theorem inqParity_others (hm : m ≠ n) : Woken (engGet s m) (engGet (inqParity s n) m) := by
  unfold inqParity
  dsimp only
  split
  · have hw := (Logged.forNats (fun z k => Logged.parityDrop z n k)
      ((List.range (engGet s n).inq.length).filter (fun p => ((engGet s n).inq[p]?.map (·.bad)).getD false))
      (engMap s n (fun e => { e with inq := (engGet s n).inq.filter (fun q => !q.bad) }))).woken m
    rw [engGet_engMap_other _ hm] at hw
    exact hw
  · exact .refl _

theorem Framed.cellOld (h : Framed s t) (c : W128) : cellOld t c = cellOld s c := by
  unfold Machine.cellOld ageLimit regGet
  rw [h.hreg, h.tick]

theorem engSweep_framed : Framed s (engSweep s n) := by
  unfold engSweep
  exact (inqParity_framed.trans (.engSet ..)).trans (Logged.qCount _ n _ _).frame

theorem engSweep_swept (hn : n < 64) : Swept (cellOld s) (engGet s n) (engGet (engSweep s n) n) := by
  have hp := inqParity_engine (s := s) (n := n)
  have hf := inqParity_framed (s := s) (n := n)
  unfold engSweep
  extract_lets s1 e inq outq
  have hw := ((Logged.qCount (engSet s1 n { e with inq := inq, outq := outq }) n 8
    (e.inq.length - inq.length + (e.outq.length - outq.length))).woken n).unswept
  rw [engGet_engSet] at hw
  have he : Unswept { engGet s n with inq := (engGet s n).inq.filter (fun q => !q.bad) } e := hp.unswept
  have hold (c : W128) : queueOld s1 n c = cellOld s c := (queueOld_engine hn c).trans (hf.cellOld c)
  refine Swept.kept (f := { e with inq := inq, outq := outq }) ⟨?_, ?_, he.scan⟩ hw
  · change e.inq.filter (fun q => !queueOld s1 n q.cell) = _
    rw [he.inq, List.filter_filter]
    simp only [hold, Bool.and_comm]
  · change e.outq.filter (fun o => o.pend || !queueOld s1 n o.cell) = _
    rw [he.outq]
    simp only [hold]

theorem engSweep_others (hm : m ≠ n) : Unswept (engGet s m) (engGet (engSweep s n) m) := by
  unfold engSweep
  extract_lets s1 e inq outq
  have hw := ((Logged.qCount (engSet s1 n { e with inq := inq, outq := outq }) n 8
    (e.inq.length - inq.length + (e.outq.length - outq.length))).woken m).unswept
  rw [engGet_engSet_other _ hm] at hw
  exact (inqParity_others hm).unswept.trans hw

/-- The sweep of a list of engines: each that it names is swept, however often. -/
theorem engSweeps_rest (l : List Nat) (hl : ∀ n ∈ l, n < 64) : Framed s (forNats l engSweep s) ∧
    (∀ n ∈ l, Swept (cellOld s) (engGet s n) (engGet (forNats l engSweep s) n)) ∧
    ∀ n, n ∉ l → Unswept (engGet s n) (engGet (forNats l engSweep s) n) := by
  unfold forNats
  induction l generalizing s with
  | nil => exact ⟨rfl, fun _ h => absurd h List.not_mem_nil, fun _ _ => ⟨rfl, rfl, rfl⟩⟩
  | cons x l ih =>
    have hx := hl x List.mem_cons_self
    have hf : Framed s (engSweep s x) := engSweep_framed
    obtain ⟨h1, h2, h3⟩ := ih (s := engSweep s x) (fun n hn => hl n (List.mem_cons_of_mem _ hn))
    have hold : cellOld (engSweep s x) = cellOld s := funext hf.cellOld
    rw [hold] at h2
    refine ⟨hf.trans h1, fun n hn => ?_, fun n hn => ?_⟩
    · by_cases hnx : n = x
      · subst hnx
        by_cases hnl : n ∈ l
        · exact (engSweep_swept hx).again (h2 n hnl)
        · exact (engSweep_swept hx).kept (h3 n hnl)
      · exact (engSweep_others hnx).swept (h2 n ((List.mem_cons.mp hn).resolve_left hnx))
    · rw [List.mem_cons, not_or] at hn
      exact (engSweep_others hn.1).trans (h3 n hn.2)

theorem agedAdds_rest {α : Type} (f : α → Nat) (d : α → Nat) (l : List α) (z : State) :
    ∃ a, l.foldl (fun z q => agedAdd z (f q) (d q)) z = { z with cells := { z.cells with aged := a } } := by
  induction l generalizing z with
  | nil => exact ⟨z.cells.aged, rfl⟩
  | cons q l ih =>
    obtain ⟨a, ha⟩ := ih (agedAdd z (f q) (d q))
    exact ⟨a, ha⟩

theorem gwqFilter_rest (keep : W128 → Bool) : ∃ a g,
    gwqFilter s keep = { s with cells := { s.cells with aged := a }, field := { s.field with gwq := g } } := by
  unfold gwqFilter
  dsimp only
  generalize List.filter _ _ = g
  obtain ⟨a, ha⟩ := agedAdds_rest (fun q : Nat × List OCell => 110 + q.1)
    (fun q => if q.1 < 6 then (q.2.filter (fun o => !keep o.cell)).length else 0) s.field.gwq { s with field := { s.field with gwq := g } }
  exact ⟨a, g, ha⟩

/-- The sweep beside the engines: the host queue, the late queue of the publication path, and nothing of the moths. -/
theorem sweepAll_rest : let z := forNats ((s.eng.map (·.1)).filter (· < 64)) engSweep s
    (sweepAll s).cells.hostq = s.cells.hostq.filter (fun c => !cellOld s c) ∧ (sweepAll s).eng = z.eng ∧
    (sweepAll s).pub.late = z.pub.late.filter (fun o => !cellOld s o.cell) ∧ (sweepAll s).store = z.store ∧
    (sweepAll s).field.moth = z.field.moth := by
  intro z
  have hcells : z.cells = s.cells :=
    (engSweeps_rest _ (fun n hn => of_decide_eq_true (List.mem_filter.mp hn).2)).1.cells
  have hs2 : ∀ k, let s2 := cntAdd { z with cells := { z.cells with hostq := z.cells.hostq.filter (fun c => !cellOld s c) } } 0x401C k
      s2.cells.hostq = z.cells.hostq.filter (fun c => !cellOld s c) ∧ s2.eng = z.eng ∧ s2.pub.late = z.pub.late ∧ s2.store = z.store ∧
        s2.field.moth = z.field.moth := fun k => ⟨rfl, rfl, rfl, rfl, rfl⟩
  replace hs2 := hs2 (z.cells.hostq.length - (z.cells.hostq.filter (fun c => !cellOld s c)).length)
  dsimp only at hs2
  unfold sweepAll
  dsimp only
  rw [show forNats ((s.eng.map (·.1)).filter (· < 64)) engSweep s = z from rfl]
  generalize cntAdd { z with cells := { z.cells with hostq := z.cells.hostq.filter (fun c => !cellOld s c) } } 0x401C
    (z.cells.hostq.length - (z.cells.hostq.filter (fun c => !cellOld s c)).length) = s2 at hs2
  obtain ⟨a, g, hg⟩ := gwqFilter_rest (s := s2) (fun c => !cellOld s c)
  obtain ⟨h1, h2, h3, h4, h5⟩ := hs2
  rw [hg]
  exact ⟨h1.trans (by rw [hcells]), h2, congrArg (List.filter _) h3, h4, h5⟩

theorem Framed.pub (h : Framed s t) : t.pub = s.pub := by rw [h]

theorem mem_engines (s : State) (n : Nat) (hn : n < 64) : n ∈ (s.eng.map (·.1)).filter (· < 64) ∨ engGet s n = {} := by
  obtain h | h := engGet_mem s n
  · exact .inr h
  · exact .inl (List.mem_filter.mpr ⟨List.mem_map.mpr ⟨_, h, rfl⟩, decide_eq_true hn⟩)

theorem queueAgeSweep_complete : ∃ t, exec .queueAgeSweep s = .next t ∧ t.cells.hostq = s.cells.hostq.filter (fun c => !cellOld s c) ∧
    (∀ n, n < 64 → (engGet t n).inq = (engGet s n).inq.filter (fun q => !q.bad && !cellOld s q.cell) ∧
      (engGet t n).outq = (engGet s n).outq.filter (fun o => o.pend || !cellOld s o.cell) ∧
      (engGet t n).scan = (engGet s n).scan) ∧ t.pub.late = s.pub.late.filter (fun o => !cellOld s o.cell) ∧ t.store = s.store ∧
    ((∀ m, (mothGet s m).imode = true → (mothGet s m).qin = []) → t.field.moth = s.field.moth) := by
  obtain ⟨hhost, heng, hlate, hstore, hmoth⟩ := sweepAll_rest (s := s)
  obtain ⟨hf, hswept, hkept⟩ := engSweeps_rest (s := s) ((s.eng.map (·.1)).filter (· < 64))
    (fun n hn => of_decide_eq_true (List.mem_filter.mp hn).2)
  have hg : Gated (sweepAll s) (forNats (List.range 6) gwServeAll (sweepAll s)) := .forNats (fun z b => .gwServeAll z b) _ _
  refine ⟨_, rfl, ?_, fun n hn => ?_, ?_, ?_, fun hidle => ?_⟩
  · rw [hg]
    exact hhost
  · have he : engGet (forNats (List.range 6) gwServeAll (sweepAll s)) n =
        engGet (forNats ((s.eng.map (·.1)).filter (· < 64)) engSweep s) n := by
      rw [engGet, hg]
      exact congrArg (tblGet {} n) heng
    have hsw : Swept (cellOld s) (engGet s n) (engGet (forNats ((s.eng.map (·.1)).filter (· < 64)) engSweep s) n) := by
      by_cases hmem : n ∈ (s.eng.map (·.1)).filter (· < 64)
      · exact hswept n hmem
      · have h0 := (mem_engines s n hn).resolve_left hmem
        have hk := hkept n hmem
        rw [h0] at hk ⊢
        exact ⟨hk.inq, hk.outq, hk.scan⟩
    rw [he]
    exact ⟨hsw.inq, hsw.outq, hsw.scan⟩
  · rw [hg]
    exact hlate.trans (by rw [hf.pub])
  · rw [hg]
    exact hstore.trans hf.store
  · have hm : (sweepAll s).field.moth = s.field.moth := hmoth.trans (by rw [hf.field])
    have hid (z : State) (hz : z.field.moth = s.field.moth) (b : Nat) : gwServeAll z b = z := by
      refine gwServeAll_idle (fun m _ => ?_)
      rw [mothGet, hz]
      exact hidle m
    have key (l : List Nat) (z : State) (hz : z.field.moth = s.field.moth) : forNats l gwServeAll z = z := by
      unfold forNats
      induction l with
      | nil => rfl
      | cons b l ih => rw [List.foldl_cons, hid z hz, ih]
    rw [key _ _ hm, hm]

/-! The router. -/

theorem routerCell_complete {k n cyc : Nat} (hk : k < 8) (hd : domStat s (64 + k) = 1) (hp : isPaired s = false)
    (hn : (routerOrder s k).find? (routerServes s) = some n) (hh : (engGet s n).hold ≠ .push) :
    ∃ t, exec (.routerCell k false cyc) s = .next t ∧
      (engGet t n).outq = (takeReleased (cellOld s) (engGet s n).outq).2.1 ∧ tblGet 0 k t.cells.rot = (n % 8 + 1) % 8 ∧
      (∀ m, m ≠ n → engGet t m = engGet s m) ∧ t.store = s.store := by
  have hn64 : n < 64 := by
    obtain ⟨i, _, hi⟩ := List.mem_map.mp (List.mem_of_find?_eq_some hn)
    omega
  have hx : exec (.routerCell k false cyc) s = routerTake (rotAfter s k n) n false cyc := by
    change execRouterCell k false cyc s = _
    unfold execRouterCell
    rw [if_pos ⟨hk, hd⟩, hn]
  generalize hq : takeReleased (cellOld s) (engGet s n).outq = q
  let z := qCount (engMap (rotAfter s k n) n (fun e => { e with outq := q.2.1 })) n 8 q.2.2
  have htake : queueTake (rotAfter s k n) n = (q.1, z) := by
    have hpass : outqPass (rotAfter s k n) n = z := by
      have hq' : takeReleased (cellOld (rotAfter s k n)) (engGet (rotAfter s k n) n).outq = q := hq
      unfold outqPass
      dsimp only
      rw [hq']
    have hp' : isPaired (rotAfter s k n) = false := hp
    have hq' : takeReleased (cellOld (rotAfter s k n)) (engGet (rotAfter s k n) n).outq = q := hq
    unfold queueTake outqTake
    rw [if_neg (by omega), hp', hpass, hq']
    rfl
  have hz : Routed (engMap (rotAfter s k n) n (fun e => { e with outq := q.2.1 })) z := .ite (.cntAdd ..) (.refl _)
  have hend (y : State) (hy : Routed z y) : pushGoesOn y n cyc = .next y ∧ (engGet y n).outq = q.2.1 ∧
      tblGet 0 k y.cells.rot = (n % 8 + 1) % 8 ∧ (∀ m, m ≠ n → engGet y m = engGet s m) ∧ y.store = s.store := by
    have hall := hz.trans hy
    have hown : engGet y n = { engGet s n with outq := q.2.1 } := by
      rw [engGet, hall.eng]
      exact engGet_engMap ..
    refine ⟨?_, by rw [hown], ?_, fun m hm => ?_, hall.store⟩
    · have hr : engReady y n (fun h => h == .push) = false := by
        unfold engReady
        rw [hown]
        have : ((engGet s n).hold == Hold.push) = false := beq_eq_false_iff_ne.mpr hh
        simp [this]
      unfold pushGoesOn
      rw [hr]
      rfl
    · rw [hall.rot]
      exact tblGet_tblSet_self ..
    · rw [engGet, hall.eng]
      exact engGet_engMap_other _ hm _
  rw [hx, routerTake, htake]
  cases ho : q.1 with
  | none =>
    obtain ⟨h1, h2⟩ := hend z (.refl z)
    exact ⟨z, h1, h2⟩
  | some o =>
    dsimp only
    rw [if_neg Bool.false_ne_true, if_neg (by omega)]
    obtain ⟨h1, h2⟩ := hend (chainFlush (routeCell z o)) ((Routed.routeCell z o).trans (.chainFlush _))
    exact ⟨_, h1, h2⟩

/-! The gateway. -/

theorem gatewayPass_complete {b : Nat} {o : OCell} {rest : List OCell} (pf : Bool) (hb : b < 6) (hd : domStat s (bankDom b) = 1)
    (hi : ∀ m, m ∈ mothsOf b → (mothGet s m).imode = false) (hq : gwGet s b = o :: rest) (ho : cellOld s o.cell = false) :
    ∃ t, exec (.gatewayCellPass b pf) s = .next t ∧ gwGet t b = rest ∧ t.field.moth = s.field.moth ∧
      t.store = s.store ∧ (pf = false → t.eng = s.eng) ∧
      (pf = true → cntGet t 0xA044 = satCount (cntGet s 0xA044) 1 ∧ t.cells.flight = s.cells.flight) := by
  let z := agedAdd (gwSet s b rest) (110 + b) 0
  have hx : exec (.gatewayCellPass b pf) s = .next (gwServeAll (gwPass z b o pf) b) := by
    have hdrop : (gwGet s b).dropWhile (fun o => gwOld s b o.cell) = o :: rest := by
      have : gwOld s b o.cell = false := (if_pos hb).trans ho
      rw [hq, List.dropWhile_cons_of_neg (by rw [this]; decide)]
    change execGatewayCellPass b s pf = _
    unfold execGatewayCellPass
    dsimp only
    rw [if_pos ⟨by omega, hd⟩, hdrop, hq, Nat.sub_self]
    rfl
  have hgw : gwGet z b = rest := tblGet_tblSet_self ..
  have hidle (y : State) (hy : y.field.moth = s.field.moth) : gwServeAll y b = y := by
    refine gwServeAll_idle (fun m hm h => ?_)
    rw [mothGet, hy, ← mothGet, hi m hm] at h
    cases h
  rw [hx]
  cases pf with
  | false =>
    have hr : Routed z (gwPass z b o false) := by
      unfold gwPass
      rw [if_neg Bool.false_ne_true, if_pos hb]
      exact (Routed.routeCell z o).trans (.chainFlush _)
    generalize gwPass z b o false = y at hr
    have hm : y.field.moth = s.field.moth := by rw [hr.field]; rfl
    rw [hidle y hm]
    refine ⟨y, rfl, ?_, hm, hr.store, fun _ => hr.eng, nofun⟩
    rw [gwGet, hr.field]
    exact hgw
  | true =>
    have hl : Logged z (gwPass z b o true) := .parityDrop ..
    have hcnt : cntGet (gwPass z b o true) 0xA044 = satCount (cntGet s 0xA044) 1 := by
      have hk : CntKept 0xA044 (cntAdd z 0xA044 1) (gwPass z b o true) := CntKept.fltWrite (by decide) ..
      exact Eq.trans hk (cntGet_cntAdd z 0xA044 1)
    generalize gwPass z b o true = y at hl hcnt
    have hm : y.field.moth = s.field.moth := by rw [hl.frame.field]; rfl
    rw [hidle y hm]
    refine ⟨y, rfl, ?_, hm, hl.frame.store, nofun, fun _ => ⟨hcnt, by rw [hl.frame.cells]; rfl⟩⟩
    rw [gwGet, hl.frame.field]
    exact hgw

/-- Settles O52: each queue by what arrives there, leaves it and is too old for it. -/
theorem cellsMoveThroughQueues : Obligations.CellsMoveThroughQueues := by
  unfold Obligations.CellsMoveThroughQueues
  intro s
  refine ⟨fun n o rest bad lost hn hfly => ?_, fun o rest hfly => ?_, fun k n cyc hk hd hp hn hh => routerCell_complete hk hd hp hn hh,
    fun b o rest m hb hd hfly hm hkind hl => ?_, fun b o rest pf hb hd hi hq ho => gatewayPass_complete pf hb hd hi hq ho,
    queueAgeSweep_complete⟩
  · have hx : exec (.inboundCellArrival n bad lost) s =
        .next (inqPut (flyRest s rest) n { cell := o.cell, arr := arrEntry s o.cell, bad := bad, lost := lost }) := by
      change execInboundCellArrival n s bad lost = _
      unfold execInboundCellArrival
      rw [hfly]
      exact if_pos hn
    rw [hx]
    refine ⟨fun hl => ?_, fun hl => ?_⟩
    · obtain ⟨hinq, hg, hothers, hf⟩ := inqPut_room (s := flyRest s rest) { cell := o.cell, arr := arrEntry s o.cell, bad := bad, lost := lost } hn hl
      exact ⟨_, rfl, hf.cells, hinq, hg, hothers, hf.store⟩
    · rw [inqPut_full (s := flyRest s rest) _ hn hl]
      generalize 0x5000 + n * 0x20 + 4 = a
      exact ⟨_, rfl, rfl, rfl, cntGet_cntAdd (flyRest s rest) a 1⟩
  · have hx : exec .hostQueueArrival s = .next (hostqPut (flyRest s rest) o.cell) := by
      change execHostQueueArrival s = _
      unfold execHostQueueArrival
      rw [hfly]
    rw [hx, hostqPut]
    refine ⟨fun hl => ?_, fun hl => ?_⟩
    · exact congrArg Host.Outcome.next (if_neg (Nat.not_le.mpr hl))
    · have hl' : 256 ≤ (flyRest s rest).cells.hostq.length := hl
      rw [if_pos hl']
      exact ⟨_, rfl, rfl, cntGet_cntAdd (flyRest s rest) 0x4018 1, rfl⟩
  · change execGatewayCellArrival b s = _
    unfold execGatewayCellArrival
    rw [hfly]
    dsimp only
    have hm' : bankMothOfCtx (flyRest s rest) b (cellIndex o.cell) = some m := hm
    rw [if_pos ⟨by omega, hd⟩, gwArrive, hm']
    dsimp only
    have hl' : ¬ 8 ≤ (mothGet (flyRest s rest) m).held.length := Nat.not_le.mpr hl
    rw [if_neg (not_not_intro hkind), if_neg hl']
    rfl

end Sys2Proof.Machine
end

section
/-! The publication path and the history writer. -/

namespace Sys2Proof.Machine

variable {s t z : State} {i n : Nat}

theorem HubFrame.pulse (s : State) (x : Nat) : HubFrame s (pulse s x) := (HubFrame.srcSample s x true).trans (.srcSample _ x false)

theorem HubFrame.pub (h : HubFrame s t) : t.pub = s.pub := by rw [h]
theorem HubFrame.mem (h : HubFrame s t) : t.mem = s.mem := by rw [h]
theorem HubFrame.store (h : HubFrame s t) : t.store = s.store := by rw [h]

/-- A fault record leaves the memories. -/
theorem fltWrite_mem (cls : Nat) (src a0 a1 : Word) : (fltWrite s cls src a0 a1).mem = s.mem := by
  unfold fltWrite
  dsimp only
  split
  · rfl
  · split
    · exact (HubFrame.pulse _ 305).mem
    · rfl

theorem parityDrop_mem (id p : Nat) : (parityDrop s id p).mem = s.mem := fltWrite_mem ..

/-! Records of a unit without mirrors. -/

theorem liveCopy_one (hm : isMirrored s = false) (i : Nat) : liveCopy s i = i := by
  unfold liveCopy sliceGone
  rw [hm]
  rfl

theorem recRead_one (hm : isMirrored s = false) (i : Nat) : recRead s i = recGet s i := by
  have hlt := (recGet s i).isLt
  unfold recRead
  dsimp only
  rw [hm]
  simp only [Bool.false_and, Bool.false_eq_true, if_false, liveCopy_one hm]
  refine BitVec.eq_of_toNat_eq ?_
  rw [BitVec.toNat_ofNat, Nat.shiftRight_eq_div_pow, Nat.shiftRight_eq_div_pow, Nat.mul_zero, Nat.pow_zero, Nat.div_one, Nat.mul_one]
  have h2 : (recGet s i).toNat / 2 ^ 512 < 2 ^ 512 := Nat.div_lt_of_lt_mul (by rw [← Nat.pow_add]; exact hlt)
  rw [Nat.mod_eq_of_lt h2, Nat.mod_add_div, Nat.mod_eq_of_lt hlt]

theorem recTileRead_good {h : Nat} (hb : recTileBad s i h = false) (reader : Nat) : recTileRead s i h reader = (true, s) := by
  unfold recTileRead
  rw [hb]
  rfl

/-- The record of a copy that is published: its value and its tag. -/
def published (r : Rec) (c : W128) : Rec := recPutBits r 0 128 ((c.setWidth 64 ++ (c >>> 64).setWidth 64 : W128)).toNat

theorem getLsbD_published (r : Rec) (c : W128) (j : Nat) : (published r c).getLsbD j =
    if j < 64 then c.getLsbD (64 + j) else if j < 128 then c.getLsbD (j - 64) else r.getLsbD j := by
  unfold published
  rw [getLsbD_recPutBits _ _ _ _ _ (by omega), BitVec.testBit_toNat, Nat.mul_zero, Nat.sub_zero, BitVec.getLsbD_append]
  simp only [Nat.zero_le, true_and, Nat.zero_add]
  by_cases h1 : j < 64
  · rw [if_pos (by omega), if_pos h1]
    simp [h1, BitVec.getLsbD_ushiftRight]
  · by_cases h2 : j < 128
    · rw [if_pos (by omega), if_neg h1, if_pos h2]
      have h3 : j - 64 < 64 := by omega
      simp [h1, h3]
    · rw [if_neg (by omega), if_neg h1, if_neg h2]

theorem getLsbD_recDouble (r : Rec) (o j : Nat) : (recDouble r o).getLsbD j = (decide (j < 64) && r.getLsbD (8 * o + j)) := by
  unfold recDouble
  rw [BitVec.getLsbD_setWidth, BitVec.getLsbD_ushiftRight]

theorem published_rest (r : Rec) (c : W128) : recValue (published r c) = (c >>> 64).setWidth 64 ∧
    recTag (published r c) = c.setWidth 64 ∧ recCtl (published r c) = recCtl r := by
  refine ⟨BitVec.eq_of_getLsbD_eq fun j hj => ?_, BitVec.eq_of_getLsbD_eq fun j hj => ?_, BitVec.eq_of_getLsbD_eq fun j hj => ?_⟩
  · rw [recValue, getLsbD_recDouble, getLsbD_published, if_pos (by omega), BitVec.getLsbD_setWidth, BitVec.getLsbD_ushiftRight,
      Nat.mul_zero, Nat.zero_add]
  · rw [recTag, getLsbD_recDouble, getLsbD_published, if_neg (by omega), if_pos (by omega), BitVec.getLsbD_setWidth,
      show 8 * 8 + j - 64 = j by omega]
  · rw [recCtl, recCtl, getLsbD_recWord, getLsbD_recWord, getLsbD_published, if_neg (by omega), if_neg (by omega)]

theorem pubAccept_published {c : W128} (hu : ctlInuse (ctlGet s (cellIndex c)) = true) (hp : ctlPubl (ctlGet s (cellIndex c)) = true)
    (hm : isMirrored s = false) (hf : s.svc.fill = false) (hb : recTileBad s (cellIndex c) 0 = false) :
    pubAccept s c = pubMark (recPut1 s (cellIndex c) (published (recGet s (cellIndex c)) c)) (cellIndex c) := by
  unfold pubAccept pubTileWrite recPutPart
  dsimp only
  rw [hu, hp, recMerge_one hm hf hb]
  rfl

/-! The history writer. -/

/-- A discard of the history writer is counted and told. -/
theorem histDrop_rest (z : State) (a : Nat) (ha : a < 0x20000) : let y := pulse { cntAdd z a 1 with pub := { z.pub with drops := min (z.pub.drops + 1) 65535 } } 313
    y.pub = { z.pub with drops := min (z.pub.drops + 1) 65535 } ∧ cntGet y a = satCount (cntGet z a) 1 ∧ y.store = z.store := by
  intro y
  have h : HubFrame { cntAdd z a 1 with pub := { z.pub with drops := min (z.pub.drops + 1) 65535 } } y := .pulse ..
  have hk : CntKept a { cntAdd z a 1 with pub := { z.pub with drops := min (z.pub.drops + 1) 65535 } } y := .pulse ha ..
  exact ⟨h.pub, Eq.trans hk (cntGet_cntAdd z a 1), h.store⟩

theorem exec_historyEntryWrite {e : HistEnt} {rest : List HistEnt} (hq : s.pub.histq = e :: rest) (hw : s.pub.histWriting = false)
    (hr : histReady s = true) (pf : Bool) : exec (.historyEntryWrite pf) s = .next
      (if pf then parityDrop { s with pub := { s.pub with histq := rest } } 102 0
       else let s1 := dramPut s 9 ((regGet64 s 0x6048).toNat + 32 * field s.pub.hseq 23 0) (histBytes s e)
        { s1 with pub := { s1.pub with histq := rest, histWriting := true, drops := 0, histLast := some (ktb s) } }) := by
  change execHistoryEntryWrite s pf = _
  unfold execHistoryEntryWrite
  rw [hq]
  dsimp only
  rw [if_neg (by rw [hw, hr]; decide)]
  exact (apply_ite Host.Outcome.next ..).symm

/-- What stands in the DRAM after bytes are put there. -/
theorem dram_written {a : Nat} {bs : List Byte} (h : t.mem.dram = memPut s.mem.dram a bs) : memBytes t.mem.dram a bs.length = bs ∧
    ∀ b, b < a ∨ a + bs.length ≤ b → memGet t.mem.dram b = memGet s.mem.dram b := by
  rw [h]
  exact ⟨memBytes_memPut .., fun b hb => memGet_memPut_outside _ _ _ _ hb⟩

/-- The bytes stand at place `k` of the DRAM, and nothing else changes. -/
theorem dramPut_rest {stream a k : Nat} (hk : 2 ^ 64 * stream + a = k) (bs : List Byte) :
    dramPut s stream a bs = { s with mem := { s.mem with dram := memPut s.mem.dram k bs } } := by
  rw [dramPut, hk]

/-- An entry of the buffer in hand that is written with the cell `c`. -/
def pubWritten (s : State) (i : Nat) (c : W128) : State :=
  let b := pubBuf s
  let s3 := pubClear (dramPut s 9 ((regGet64 s (0x6008 + 8 * b)).toNat + 16 * i) (leBytes 16 c.toNat)) b i
  { s3 with pub := { s3.pub with written := s3.pub.written + 1, stale := s3.pub.stale + b2n (cellQual c == 0xC) } }

theorem pubClear_rest (b i : Nat) : hasNat i (pubPend (pubClear s b i) b) = false ∧ (pubClear s b i).mem = s.mem ∧
    (pubClear s b i).store = s.store ∧ (pubClear s b i).eng = s.eng ∧ (pubClear s b i).pub.written = s.pub.written ∧
    (pubClear s b i).pub.n = s.pub.n := by
  unfold pubPend pubClear
  split
  · exact ⟨hasNat_delNat_self .., rfl, rfl, rfl, rfl, rfl⟩
  · exact ⟨hasNat_delNat_self .., rfl, rfl, rfl, rfl, rfl⟩

theorem pubWritten_rest {s : State} {i k : Nat} (hk : 2 ^ 64 * 9 + ((regGet64 s (0x6008 + 8 * pubBuf s)).toNat + 16 * i) = k) (c : W128) :
    let t := pubMsNote (pubWritten s i c)
    memBytes t.mem.dram k 16 = leBytes 16 c.toNat ∧ (∀ b, b < k ∨ k + 16 ≤ b → memGet t.mem.dram b = memGet s.mem.dram b) ∧
    hasNat i (pubPend t (pubBuf t)) = false ∧ t.pub.written = s.pub.written + 1 ∧ t.store = s.store ∧ t.eng = s.eng := by
  unfold pubWritten
  dsimp only
  rw [dramPut_rest hk]
  clear hk
  obtain ⟨hpend, hmem, hstore, heng, hwritten, hn⟩ := pubClear_rest
    (s := { s with mem := { s.mem with dram := memPut s.mem.dram k (leBytes 16 c.toNat) } }) (pubBuf s) i
  generalize pubClear _ _ _ = y at hpend hmem hstore heng hwritten hn ⊢
  obtain ⟨hin, hout⟩ := dram_written (s := s) (t := y) (a := k) (bs := leBytes 16 c.toNat) (congrArg Mem.dram hmem)
  rw [leBytes_length] at hin hout
  have hbuf : y.pub.n.toNat % 2 = pubBuf s := congrArg (fun n : W64 => n.toNat % 2) hn
  refine ⟨hin, hout, ?_, congrArg (· + 1) hwritten, hstore, heng⟩
  unfold pubMsNote pubBuf
  dsimp only
  rw [hbuf]
  exact hpend

theorem length_pubHeader (st left : Nat) : (pubHeader s st left).length = 64 := by
  unfold pubHeader
  simp only [List.length_append, leBytes_length]

theorem pubDone_rest {k : Nat} (hk : 2 ^ 64 * 9 + pubHdrAdr s (pubBuf s) = k) : (pubDone s).pub = { s.pub with writing := false } ∧
    memBytes (pubDone s).mem.dram k 64 = pubHeader s 2 0 ∧ (pubDone s).store = s.store := by
  unfold pubDone
  rw [dramPut_rest hk]
  clear hk
  have hlen := length_pubHeader (s := s) 2 0
  generalize pubHeader s 2 0 = bs at hlen ⊢
  have h := HubFrame.pulse { s with mem := { s.mem with dram := memPut s.mem.dram k bs }, pub := { s.pub with writing := false } } 312
  have hb := memBytes_memPut s.mem.dram k bs
  rw [hlen] at hb
  exact ⟨h.pub, (congrArg (fun m : Mem => memBytes m.dram k 64) h.mem).trans hb, h.store⟩

theorem length_histBytes (e : HistEnt) : (histBytes s e).length = 32 := by
  unfold histBytes
  simp only [List.length_append, leBytes_length]

theorem historyComplete (hw : s.pub.histWriting = true) : ∃ t, exec .historyEntryComplete s = .next t ∧
    t.pub = { s.pub with histWriting := false, hseq := s.pub.hseq + 1 } ∧
    cntGet t 0x605C = satCount (cntGet s 0x605C) (b2n (decide (field (s.pub.hseq + 1) 23 0 = 0))) ∧
    t = { s with pub := t.pub, cnt := t.cnt } := by
  refine ⟨_, if_pos hw, ?_⟩
  by_cases h : field (s.pub.hseq + 1) 23 0 = 0
  · have h' : field { s with pub := { s.pub with histWriting := false, hseq := s.pub.hseq + 1 } }.pub.hseq 23 0 = 0 := h
    rw [if_pos h', decide_eq_true h]
    exact ⟨rfl, cntGet_cntAdd { s with pub := { s.pub with histWriting := false, hseq := s.pub.hseq + 1 } } 0x605C 1, rfl⟩
  · have h' : ¬ field { s with pub := { s.pub with histWriting := false, hseq := s.pub.hseq + 1 } }.pub.hseq 23 0 = 0 := h
    rw [if_neg h', decide_eq_false h]
    exact ⟨rfl, (satCount_zero _).symm, rfl⟩

theorem entryWrite_complete {l : List Nat} (hw : s.pub.writing = true) (hon : pubOn s = true) (ht : pubTodo s = i :: l)
    (hm : isMirrored s = false) (hb : recTileBad s i 0 = false) (hms : pubMsCount s < pubMsMax s) {a : Nat}
    (ha : 2 ^ 64 * 9 + ((regGet64 s (0x6008 + 8 * pubBuf s)).toNat + 16 * i) = a) : ∃ t, exec .publicationEntryWrite s = .next t ∧
      memBytes t.mem.dram a 16 = leBytes 16 (mkCell (recTag (recGet s i)) (recValue (recGet s i))).toNat ∧
      (∀ b, b < a ∨ a + 16 ≤ b → memGet t.mem.dram b = memGet s.mem.dram b) ∧ hasNat i (pubPend t (pubBuf t)) = false ∧
      t.pub.written = s.pub.written + 1 ∧ t.store = s.store ∧ t.eng = s.eng := by
  have hx : exec .publicationEntryWrite s = .next (pubMsNote (pubWrite s i)) := by
    change execPublicationEntryWrite s = _
    unfold execPublicationEntryWrite
    rw [hw, hon, decide_eq_true hms, ht]
    rfl
  have hc : pubWrite s i = pubWritten s i (mkCell (recTag (recGet s i)) (recValue (recGet s i))) := by
    unfold pubWrite pubWritten
    rw [recTileRead_good hb, recRead_one hm]
    rfl
  rw [hx, hc]
  exact ⟨_, rfl, pubWritten_rest ha _⟩

theorem headerDone_complete (hw : s.pub.writing = true) (hon : pubOn s = true) (hr : s.tick.inReserve = true) (ht : pubTodo s = [])
    (hfl : pubInFlight s = false) {a : Nat} (ha : 2 ^ 64 * 9 + pubHdrAdr s (pubBuf s) = a) :
    ∃ t, exec .publicationHeaderDone s = .next t ∧ t.pub = { s.pub with writing := false } ∧
      memBytes t.mem.dram a 64 = pubHeader s 2 0 ∧ t.store = s.store := by
  have hx : exec .publicationHeaderDone s = .next (pubDone s) := by
    change execPublicationHeaderDone s = _
    unfold execPublicationHeaderDone
    rw [hw, hon, hr, ht, hfl]
    rfl
  rw [hx]
  exact ⟨_, rfl, pubDone_rest ha⟩

theorem historyWrite_complete {e : HistEnt} {rest : List HistEnt} (hq : s.pub.histq = e :: rest) (hw : s.pub.histWriting = false)
    (hr : histReady s = true) {a : Nat} (ha : 2 ^ 64 * 9 + ((regGet64 s 0x6048).toNat + 32 * field s.pub.hseq 23 0) = a) :
    ∃ t, exec (.historyEntryWrite false) s = .next t ∧ memBytes t.mem.dram a 32 = histBytes s e ∧
      (∀ b, b < a ∨ a + 32 ≤ b → memGet t.mem.dram b = memGet s.mem.dram b) ∧
      t.pub = { s.pub with histq := rest, histWriting := true, drops := 0, histLast := some (ktb s) } ∧
      t = { s with pub := t.pub, mem := t.mem } := by
  have hb := memBytes_memPut s.mem.dram a (histBytes s e)
  rw [length_histBytes] at hb
  have ho (b : Nat) (h : b < a ∨ a + 32 ≤ b) : memGet (memPut s.mem.dram a (histBytes s e)) b = memGet s.mem.dram b :=
    memGet_memPut_outside _ _ _ _ (by rw [length_histBytes]; exact h)
  rw [exec_historyEntryWrite hq hw hr, if_neg Bool.false_ne_true, dramPut_rest ha]
  clear ha
  generalize histBytes s e = bs at hb ho ⊢
  exact ⟨_, rfl, hb, ho, rfl, rfl⟩

/-- Settles O53: each copy by where it is written, each entry by its bytes. -/
theorem publicationAndHistory : Obligations.PublicationAndHistory := by
  unfold Obligations.PublicationAndHistory
  intro s
  refine ⟨fun o rest hfly => ?_, fun i l hw hon ht hm hb hms => ?_, fun h => ?_, fun hw hon hr ht hfl => ?_, fun o rest hfly => ?_,
    fun pf hr => ?_, fun e rest hq hw hr => ?_, fun e rest hq hw hr => ?_, fun hw => ?_⟩
  · intro i ctl
    have hx : exec .publicationCopyAccept s = .next (pubArrive (flyRest s rest) o) := by
      change execPublicationCopyAccept s = _
      unfold execPublicationCopyAccept
      rw [hfly]
    rw [hx, pubArrive]
    refine ⟨fun ha hu hp hm hf hb => ?_, fun ha hn => ?_, fun ha hl => ?_⟩
    · have ha' : ¬ tickAfter (flyRest s rest).tick.tickn o.due = true := ne_true_of_eq_false ha
      rw [if_neg ha', pubAccept_published (s := flyRest s rest) hu hp hm hf hb]
      obtain ⟨hself, hother⟩ := recGet_recPut1 (s := flyRest s rest) (cellIndex o.cell) (published (recGet s (cellIndex o.cell)) o.cell)
      obtain ⟨hv, htag, hc⟩ := published_rest (recGet s (cellIndex o.cell)) o.cell
      refine ⟨_, rfl, (congrArg recValue hself).trans hv, (congrArg recTag hself).trans htag, (congrArg recCtl hself).trans hc,
        hother, hasNat_addNat_self .., hasNat_addNat_self .., rfl, rfl⟩
    · have ha' : ¬ tickAfter (flyRest s rest).tick.tickn o.due = true := ne_true_of_eq_false ha
      have hn' : ¬ (ctlInuse (ctlGet (flyRest s rest) (cellIndex o.cell)) && ctlPubl (ctlGet (flyRest s rest) (cellIndex o.cell))) = true := by
        rw [Bool.and_eq_true]
        exact hn
      rw [if_neg ha', pubAccept, if_neg hn']
      exact ⟨_, rfl, rfl, rfl, cntGet_cntAdd (flyRest s rest) 0x6020 1⟩
    · have ha' : tickAfter (flyRest s rest).tick.tickn o.due = true := ha
      have hl' : ¬ 4096 ≤ (flyRest s rest).pub.late.length := Nat.not_le.mpr hl
      rw [if_pos ha', if_neg hl']
      rfl
  · exact entryWrite_complete hw hon ht hm hb hms (Nat.add_assoc ..).symm
  · change execPublicationEntryWrite s = _
    unfold execPublicationEntryWrite
    rw [decide_eq_false (Nat.not_lt.mpr h), Bool.and_false]
    rfl
  · exact headerDone_complete hw hon hr ht hfl rfl
  · intro ok
    have hx : exec .historyCopyAccept s = .next (histAccept (flyRest s rest) o.cell) := by
      change execHistoryCopyAccept s = _
      unfold execHistoryCopyAccept
      rw [hfly]
    rw [hx, histAccept]
    have hok' : (bitAt (regGet (flyRest s rest) 0x6040) 0 && ctlInuse (ctlGet (flyRest s rest) (cellIndex o.cell)) &&
      ctlHistl (ctlGet (flyRest s rest) (cellIndex o.cell))) = ok := rfl
    dsimp only
    rw [hok']
    refine ⟨fun hok hl => ?_, fun hok => ?_, fun hok hl => ?_⟩
    · have hl' : ¬ 4096 ≤ (flyRest s rest).pub.histq.length := Nat.not_le.mpr hl
      rw [hok, Bool.not_true, if_neg Bool.false_ne_true, if_neg hl']
      exact ⟨_, rfl, rfl, rfl, rfl⟩
    · rw [hok, if_pos (by rfl)]
      exact ⟨_, rfl, histDrop_rest (flyRest s rest) 0x6058 (by decide)⟩
    · have hl' : 4096 ≤ (flyRest s rest).pub.histq.length := hl
      rw [hok, Bool.not_true, if_neg Bool.false_ne_true, if_pos hl']
      exact ⟨_, rfl, histDrop_rest (flyRest s rest) 0x6054 (by decide)⟩
  · change execHistoryEntryWrite s pf = _
    unfold execHistoryEntryWrite
    split
    · rfl
    · rw [hr, if_pos (by simp)]
  · exact historyWrite_complete hq hw hr rfl
  · have hl := (Logged.parityDrop { s with pub := { s.pub with histq := rest } } 102 0).frame
    have hk : CntKept 0xA044 (cntAdd { s with pub := { s.pub with histq := rest } } 0xA044 1)
        (parityDrop { s with pub := { s.pub with histq := rest } } 102 0) := CntKept.fltWrite (by decide) ..
    rw [exec_historyEntryWrite hq hw hr, if_pos rfl]
    exact ⟨_, rfl, hl.pub, parityDrop_mem .., Eq.trans hk (cntGet_cntAdd { s with pub := { s.pub with histq := rest } } 0xA044 1)⟩
  · exact historyComplete hw

end Sys2Proof.Machine
end

section
/-! The chain: its ports, frames and breaks. -/

namespace Sys2Proof.Machine

variable {s t u z : State} {p type : Nat} {h : W64} {bodies : List W128} {crc : Word} {x : Port}

/-! Ports. -/

theorem portGet_portSet (s : State) (p : Nat) (x : Port) : portGet (portSet s p x) p = x := by
  unfold portGet portSet
  split <;> rfl

theorem portGet_portSet_other (s : State) (p : Nat) (x : Port) : portGet (portSet s p x) (1 - p) = portGet s (1 - p) := by
  unfold portGet portSet
  by_cases hp : p = 0
  · rw [if_pos hp, if_neg (by omega), if_neg (by omega)]
  · rw [if_neg hp, if_pos (by omega), if_pos (by omega)]

theorem other_other (hp : p < 2) : 1 - (1 - p) = p := by omega

theorem portOn_lt (h : portOn s p = true) : p < 2 := by
  unfold portOn at h
  rw [Bool.and_eq_true, Bool.and_eq_true, decide_eq_true_eq] at h
  exact h.1.1

/-- `t` is `s` but for its ports and the frames sent. -/
def Sent (s t : State) : Prop :=
  t = { s with chain := { s.chain with port0 := t.chain.port0, port1 := t.chain.port1, out := t.chain.out } }

namespace Sent

theorem refl (s : State) : Sent s s := rfl

theorem trans (h : Sent s t) (k : Sent t u) : Sent s u := by
  unfold Sent at *
  rw [k, h]

theorem ite {c : Prop} [Decidable c] (h : Sent s t) (k : Sent s u) : Sent s (if c then t else u) := by
  split
  · exact h
  · exact k

theorem portSet (s : State) (p : Nat) (x : Port) : Sent s (portSet s p x) := by
  unfold Machine.portSet
  split <;> rfl

theorem frameSend (s : State) (p type src hops : Nat) (wrap past : Bool) (bodies : List W128) :
    Sent s (frameSend s p type src hops wrap past bodies) := by
  unfold Machine.frameSend
  exact (portSet s p { portGet s p with txSeq := ((portGet s p).txSeq + 1) % 65536 }).trans rfl

theorem statusSend (s : State) (p : Nat) (valid : Bool) (u : Nat) : Sent s (statusSend s p valid u) := ite (frameSend ..) (refl s)

theorem ctlForward (s : State) (type : Nat) (h : W64) (b : W128) : Sent s (ctlForward s type h b) := ite (frameSend ..) (refl s)

theorem linked (h : Sent s t) : t = { s with chain := t.chain } := by
  unfold Sent at h
  rw [h]

theorem cells (h : Sent s t) : t.cells = s.cells := by rw [h]
theorem store (h : Sent s t) : t.store = s.store := by rw [h]
theorem cnt (h : Sent s t) : t.cnt = s.cnt := by rw [h]
theorem tick (h : Sent s t) : t.tick = s.tick := by rw [h]
theorem hreg (h : Sent s t) : t.hreg = s.hreg := by rw [h]
theorem bstate (h : Sent s t) : t.bstate = s.bstate := by rw [h]
theorem unit (h : Sent s t) : t.chain.unit = s.chain.unit := by rw [h]
theorem units (h : Sent s t) : t.chain.units = s.chain.units := by rw [h]
theorem brkValid (h : Sent s t) : t.chain.brkValid = s.chain.brkValid := by rw [h]
theorem brkUnit (h : Sent s t) : t.chain.brkUnit = s.chain.brkUnit := by rw [h]
theorem tent (h : Sent s t) : t.chain.tent = s.chain.tent := by rw [h]

end Sent

theorem portSet_out (s : State) (p : Nat) (x : Port) : (portSet s p x).chain.out = s.chain.out := by
  unfold portSet
  split <;> rfl

/-- The frame that leaves a port, and the port's next sequence number. -/
theorem frameSend_ports (s : State) (p type src hops : Nat) (wrap past : Bool) (bodies : List W128) :
    let t := frameSend s p type src hops wrap past bodies
    let hdr := fhMake type src (hops + 1) bodies.length wrap past s.tick.tickn.toNat (portGet s p).txSeq
    t.chain.out = s.chain.out ++ [(p, { hdr := hdr, bodies := bodies, crc := frameCrc hdr bodies })] ∧
    portGet t p = { portGet s p with txSeq := ((portGet s p).txSeq + 1) % 65536 } ∧ portGet t (1 - p) = portGet s (1 - p) := by
  have h1 := portSet_out s p { portGet s p with txSeq := ((portGet s p).txSeq + 1) % 65536 }
  have h2 := portGet_portSet s p { portGet s p with txSeq := ((portGet s p).txSeq + 1) % 65536 }
  have h3 := portGet_portSet_other s p { portGet s p with txSeq := ((portGet s p).txSeq + 1) % 65536 }
  unfold frameSend
  dsimp only
  generalize portSet s p { portGet s p with txSeq := ((portGet s p).txSeq + 1) % 65536 } = y at h1 h2 h3 ⊢
  exact ⟨by rw [h1], h2, h3⟩

/-! A frame that is taken. -/

theorem frameTake_bad (hon : portOn s p = true) (ht : (portGet s p).training = false) (hl : (portGet s p).lanes ≠ 0)
    (hb : frameOk h bodies crc = false) (type : Nat) : frameTake s p type h bodies crc = some (false, cntAdd s (chnAdr p 8) 1) := by
  unfold frameTake
  rw [if_neg (by simp [hon, ht, hl]), hb, if_pos (by rfl)]

theorem frameTake_seen (ht : frameTake s p type h bodies crc = some (true, z)) : p < 2 ∧ z = frameSeen s p h := by
  unfold frameTake at ht
  split at ht
  · cases ht
  next hon =>
    have hp : portOn s p = true := by
      by_contra hne
      rw [Bool.eq_false_iff.mpr hne] at hon
      exact hon rfl
    split at ht
    · cases ht
    · split at ht
      · cases ht
      · dsimp only at ht
        split at ht
        · cases ht
        · injection ht with e
          injection e with _ e
          exact ⟨portOn_lt hp, e.symm⟩

/-- `t` is `s` but for its counters and its ports. -/
def Heard (s t : State) : Prop := t = { s with cnt := t.cnt, chain := { s.chain with port0 := t.chain.port0, port1 := t.chain.port1 } }

namespace Heard

theorem refl (s : State) : Heard s s := rfl

theorem trans (h : Heard s t) (k : Heard t u) : Heard s u := by
  unfold Heard at *
  rw [k, h]

theorem cntAdd (s : State) (a k : Nat) : Heard s (cntAdd s a k) := rfl

theorem portSet (s : State) (p : Nat) (x : Port) : Heard s (portSet s p x) := by
  unfold Machine.portSet
  split <;> rfl

theorem cells (h : Heard s t) : t.cells = s.cells := by rw [h]
theorem store (h : Heard s t) : t.store = s.store := by rw [h]
theorem tick (h : Heard s t) : t.tick = s.tick := by rw [h]
theorem hreg (h : Heard s t) : t.hreg = s.hreg := by rw [h]
theorem bstate (h : Heard s t) : t.bstate = s.bstate := by rw [h]
theorem unit (h : Heard s t) : t.chain.unit = s.chain.unit := by rw [h]
theorem out (h : Heard s t) : t.chain.out = s.chain.out := by rw [h]
theorem tent (h : Heard s t) : t.chain.tent = s.chain.tent := by rw [h]
theorem brkValid (h : Heard s t) : t.chain.brkValid = s.chain.brkValid := by rw [h]
theorem brkUnit (h : Heard s t) : t.chain.brkUnit = s.chain.brkUnit := by rw [h]

theorem linked (h : Heard s t) : t = { s with chain := t.chain, cnt := t.cnt } := by
  unfold Heard at h
  rw [h]

theorem head (h : Heard s t) : chnHead t = chnHead s := by
  unfold chnHead regGet
  rw [h.hreg]

theorem ktb (h : Heard s t) : ktb t = ktb s := by
  unfold Machine.ktb
  rw [h.tick]

theorem cellOld (h : Heard s t) (c : W128) : cellOld t c = cellOld s c := by
  unfold Machine.cellOld ageLimit regGet
  rw [h.hreg, h.tick]

end Heard

/-- What a valid frame does on receipt: its port is up, and only counters and that port change. -/
structure Seen (p : Nat) (h : W64) (s z : State) : Prop where
  heard : Heard s z
  up : (portGet z p).up = true
  rxSeq : (portGet z p).rxSeq = some (fhSeq h)
  buf : (portGet z p).buf = (portGet s p).buf
  other : portGet z (1 - p) = portGet s (1 - p)

theorem frameSeen_seen (s : State) (p : Nat) (h : W64) : Seen p h s (frameSeen s p h) := by
  have hcnt (y : State) (hy : Seen p h s y) (a k : Nat) : Seen p h s (cntAdd y a k) :=
    ⟨hy.heard.trans (.cntAdd ..), hy.up, hy.rxSeq, hy.buf, hy.other⟩
  unfold frameSeen
  extract_lets x gap up s1 d
  have h1 : Seen p h s (portSet s p up) := by
    refine ⟨.portSet .., ?_, ?_, ?_, portGet_portSet_other ..⟩
    all_goals rw [portGet_portSet]
  split
  · exact hcnt _ h1 _ _
  · exact hcnt _ (hcnt _ h1 _ _) _ _

theorem frameTake_heard (ht : frameTake s p type h bodies crc = some (true, z)) : p < 2 ∧ Seen p h s z := by
  obtain ⟨hp, rfl⟩ := frameTake_seen ht
  exact ⟨hp, frameSeen_seen s p h⟩

/-! Cells of a frame. -/

/-- The cells of a frame as they stand before their test. -/
def framed (h : W64) (c : W128) : BufCell := { cell := c, src := fhSrc h, hops := fhHops h, wrap := fhWrap h, past := fhPast h }

/-- A cell that is neither early nor late nor too old goes on. -/
theorem cellTest_current {b : BufCell} (hbuf : (portGet s p).buf.length < 512)
    (hage : ageOf (s.tick.tickn.toNat % 65536) (cellStamp b.cell) < 0x8000) (hold : cellOld s b.cell = false) :
    cellTest s p b = (true, s) := by
  have hearly : cellEarly s b.cell = false := by
    unfold cellEarly
    exact beq_eq_false_iff_ne.mpr (by omega)
  unfold cellTest
  dsimp only
  rw [if_neg (Nat.not_le.mpr hbuf), hearly, if_neg Bool.false_ne_true, if_neg (Nat.not_le.mpr hage), hold, if_neg Bool.false_ne_true]

theorem cellsTest_current (hbuf : (portGet s p).buf.length < 512) (l : List BufCell)
    (hl : ∀ b ∈ l, ageOf (s.tick.tickn.toNat % 65536) (cellStamp b.cell) < 0x8000 ∧ cellOld s b.cell = false) :
    cellsTest s p l = (l, s) := by
  induction l with
  | nil => rfl
  | cons b l ih =>
    obtain ⟨hage, hold⟩ := hl b List.mem_cons_self
    unfold cellsTest
    rw [cellTest_current hbuf hage hold]
    dsimp only
    rw [ih (fun x hx => hl x (List.mem_cons_of_mem _ hx))]
    rfl

theorem cellsTest_early {b : BufCell} (hbuf : (portGet s p).buf.length < 512)
    (hage : ageOf (s.tick.tickn.toNat % 65536) (cellStamp b.cell) = 0xFFFF) :
    cellsTest s p [b] = ([], portSet s p { portGet s p with buf := (portGet s p).buf ++ [b] }) := by
  have hearly : cellEarly s b.cell = true := by
    unfold cellEarly
    exact beq_iff_eq.mpr hage
  unfold cellsTest cellTest
  dsimp only
  rw [if_neg (Nat.not_le.mpr hbuf), hearly, if_pos rfl]
  rfl

theorem map_framed (h : W64) (l : List W128) : (l.map (framed h)).map (·.cell) = l := by
  rw [List.map_map]
  exact List.map_id l

theorem exec_cellFrame (ht : frameTake s p 1 h bodies crc = some (true, z)) :
    exec (.cellFrameReceive p h bodies crc) s = .next (cellsTake z p h bodies) := by
  change execCellFrameReceive p h bodies crc s = _
  unfold execCellFrameReceive
  rw [ht]

/-- Current cells for another unit leave by the other port while that is up. -/
theorem cellFrame_forwarded {c : W128} {rest : List W128} (ht : frameTake s p 1 h bodies crc = some (true, z)) (hc : bodies = c :: rest)
    (h127 : cellUnit c ≠ 127) (hunit : cellUnit c ≠ s.chain.unit) (h0 : s.chain.unit ≠ 0) (hup : (portGet s (1 - p)).up = true)
    (hbuf : (portGet s p).buf.length < 512)
    (hcur : ∀ x, x ∈ bodies → ageOf (s.tick.tickn.toNat % 65536) (cellStamp x) < 0x8000 ∧ cellOld s x = false) :
    exec (.cellFrameReceive p h bodies crc) s = .next (frameSend z (1 - p) 1 (fhSrc h) (fhHops h) (fhWrap h) false bodies) := by
  obtain ⟨hp, hs⟩ := frameTake_heard ht
  have htest : cellsTest z p (bodies.map (framed h)) = (bodies.map (framed h), z) := by
    refine cellsTest_current (by rw [hs.buf]; exact hbuf) _ (fun b hb => ?_)
    obtain ⟨x, hx, rfl⟩ := List.mem_map.mp hb
    rw [hs.heard.tick, hs.heard.cellOld]
    exact hcur x hx
  have hmap : bodies.map (framed h) = framed h c :: rest.map (framed h) := by rw [hc, List.map_cons]
  have hcells : (framed h c :: rest.map (framed h)).map (·.cell) = bodies := by rw [← hmap, map_framed]
  rw [exec_cellFrame ht]
  unfold cellsTake
  rw [if_neg (by rw [hs.heard.unit]; exact h0)]
  change Host.Outcome.next (cellsPass (cellsTest z p (bodies.map (framed h))).2 p (cellsTest z p (bodies.map (framed h))).1) = _
  rw [htest, hmap]
  unfold cellsPass
  dsimp only
  have h127' : ¬ cellUnit (framed h c).cell = 127 := h127
  have hunit' : ¬ cellUnit (framed h c).cell = z.chain.unit := by
    rw [hs.heard.unit]
    exact hunit
  rw [hcells, if_neg h127', if_neg hunit', unicastSend, if_pos (by rw [hs.other]; exact hup)]
  rfl

/-! Breaks. -/

/-- `t` is `s` but for the break that is known and what its event does. -/
theorem breakPut_rest (valid : Bool) (b : Nat) : let t := breakPut s valid b
    HubFrame { s with chain := { s.chain with brkValid := t.chain.brkValid, brkUnit := t.chain.brkUnit } } t ∧
    t.chain.brkValid = valid ∧ t.chain.brkUnit = b ∧ ∀ a, 0x28000 ≤ a → cntGet t a = cntGet s a := by
  unfold breakPut
  dsimp only
  split
  next hsame => exact ⟨rfl, hsame.1.symm, hsame.2.symm, fun _ _ => rfl⟩
  · have hp := HubFrame.pulse { s with chain := { s.chain with brkValid := valid, brkUnit := b } } 290
    have hc : (pulse { s with chain := { s.chain with brkValid := valid, brkUnit := b } } 290).chain =
        { s.chain with brkValid := valid, brkUnit := b } := by rw [hp]
    refine ⟨?_, by rw [hc], by rw [hc], fun a ha => ?_⟩
    · rw [hc]
      exact hp
    · exact pulse_cntKept (.inr ha) _ _

theorem HubFrame.cells (h : HubFrame s t) : t.cells = s.cells := by rw [h]
theorem HubFrame.chain (h : HubFrame s t) : t.chain = s.chain := by rw [h]
theorem HubFrame.tick (h : HubFrame s t) : t.tick = s.tick := by rw [h]
theorem HubFrame.mbx (h : HubFrame s t) : t.mbx = s.mbx := by rw [h]

/-- Settles O54: each frame by its check, its cells and its type. -/
theorem chainFramesReceived : Obligations.ChainFramesReceived := by
  unfold Obligations.ChainFramesReceived
  intro s p h bodies crc
  refine ⟨fun hon htr hl hb => ?_, fun z c rest ht hc h127 hunit h0 hup hbuf hcur => ?_, fun z ht h0 => ?_,
    fun z c ht hc h0 hbuf hage => ?_, fun z b ht hb hp hhead htick hn0 hn127 => ?_, fun z b a t0 ht hb hp hhead htick htent => ?_,
    fun z b ht hb => ?_⟩
  · have hbad := frameTake_bad hon htr hl hb
    intro t
    refine ⟨?_, ?_, ?_, ?_⟩
    · change execCellFrameReceive p h bodies crc s = _
      unfold execCellFrameReceive
      rw [hbad]
    · change execEnumerationOfferReceive p h bodies crc s = _
      unfold execEnumerationOfferReceive
      rw [hbad]
    · change execEnumerationCommitReceive p h bodies crc s = _
      unfold execEnumerationCommitReceive
      rw [hbad]
    · change execRingStatusReceive p h bodies crc s = _
      unfold execRingStatusReceive
      rw [hbad]
  · obtain ⟨hp, hs⟩ := frameTake_heard ht
    obtain ⟨hout, -, hother⟩ := frameSend_ports z (1 - p) 1 (fhSrc h) (fhHops h) (fhWrap h) false bodies
    have hsent := Sent.frameSend z (1 - p) 1 (fhSrc h) (fhHops h) (fhWrap h) false bodies
    rw [other_other hp] at hother
    rw [hs.heard.out, hs.heard.tick, hs.other] at hout
    refine ⟨_, cellFrame_forwarded ht hc h127 hunit h0 hup hbuf hcur, hout, ?_, ?_, hsent.cells.trans hs.heard.cells,
      hsent.store.trans hs.heard.store⟩
    · rw [hother]
      exact hs.up
    · rw [hother]
      exact hs.rxSeq
  · obtain ⟨-, hs⟩ := frameTake_heard ht
    refine ⟨?_, hs.heard.linked, hs.heard.out, hs.buf⟩
    rw [exec_cellFrame ht, cellsTake, if_pos (by rw [hs.heard.unit]; exact h0)]
  · obtain ⟨-, hs⟩ := frameTake_heard ht
    have htest := cellsTest_early (s := z) (p := p) (b := framed h c) (by rw [hs.buf]; exact hbuf) (by rw [hs.heard.tick]; exact hage)
    have hall := hs.heard.trans (Heard.portSet z p { portGet z p with buf := (portGet z p).buf ++ [framed h c] })
    have hx : exec (.cellFrameReceive p h bodies crc) s =
        .next (portSet z p { portGet z p with buf := (portGet z p).buf ++ [framed h c] }) := by
      rw [exec_cellFrame ht, cellsTake, if_neg (by rw [hs.heard.unit]; exact h0), hc]
      change Host.Outcome.next (cellsPass (cellsTest z p [framed h c]).2 p (cellsTest z p [framed h c]).1) = _
      rw [htest]
      rfl
    refine ⟨_, hx, ?_, hall.cells, hall.store, hall.out⟩
    rw [portGet_portSet, hs.buf]
    rfl
  · obtain ⟨-, hs⟩ := frameTake_heard ht
    have hx : exec (.enumerationOfferReceive p h bodies crc) s = .next (offerTake z h b) := by
      change execEnumerationOfferReceive p h bodies crc s = _
      unfold execEnumerationOfferReceive
      rw [ht, hb]
      exact congrArg Host.Outcome.next (if_pos hp)
    rw [hx, offerTake]
    dsimp only
    rw [if_neg (by rw [hs.heard.head, hhead]; decide), if_neg (by rw [hs.heard.bstate, htick]; decide), if_neg (by omega)]
    have hsent := Sent.ctlForward { z with chain := { z.chain with tent := some (field b 6 0, bodyOrigin b, ktb z) } } 2 h
      (offerBody (field b 6 0 + 1) (bitAt b 7) (bitAt b 8) (bodyOrigin b))
    refine ⟨_, rfl, ?_, hsent.unit.trans hs.heard.unit, hsent.cells.trans hs.heard.cells⟩
    rw [hsent.tent, hs.heard.ktb]
  · obtain ⟨-, hs⟩ := frameTake_heard ht
    have hx : exec (.enumerationCommitReceive p h bodies crc) s = .next (commitTake z h b) := by
      change execEnumerationCommitReceive p h bodies crc s = _
      unfold execEnumerationCommitReceive
      rw [ht, hb]
      exact congrArg Host.Outcome.next (if_pos hp)
    rw [hx, commitTake, if_neg (by rw [hs.heard.head, hhead]; decide), hs.heard.tent, htent]
    dsimp only
    rw [if_pos ⟨rfl, by rw [hs.heard.bstate]; exact htick⟩]
    have hsent := Sent.ctlForward { z with chain := { z.chain with unit := a, units := field b 6 0, tent := none } } 3 h b
    exact ⟨_, rfl, hsent.unit, hsent.units, hsent.tent, hsent.cells.trans hs.heard.cells⟩
  · obtain ⟨-, hs⟩ := frameTake_heard ht
    have hx : exec (.ringStatusReceive p h bodies crc) s = .next (statusTake z p h bodies) := by
      change execRingStatusReceive p h bodies crc s = _
      unfold execRingStatusReceive
      rw [ht]
    have hbrk : let z1 := if bitAt b 7 then (if z.chain.brkValid then z else breakPut z true (field b 6 0)) else breakPut z false (field b 6 0)
        z1.cells = z.cells ∧ z1.store = z.store ∧ (bitAt b 7 = false → z1.chain.brkValid = false) ∧
        (bitAt b 7 = true → z1.chain.brkValid = true ∧ z1.chain.brkUnit = if z.chain.brkValid then z.chain.brkUnit else field b 6 0) := by
      cases bitAt b 7
      · obtain ⟨hf, hv, -, -⟩ := breakPut_rest (s := z) false (field b 6 0)
        exact ⟨hf.cells, hf.store, fun _ => hv, nofun⟩
      · cases hval : z.chain.brkValid
        · obtain ⟨hf, hv, hu, -⟩ := breakPut_rest (s := z) true (field b 6 0)
          exact ⟨hf.cells, hf.store, nofun, fun _ => ⟨hv, hu⟩⟩
        · exact ⟨rfl, rfl, nofun, fun _ => ⟨hval, rfl⟩⟩
    rw [hx, hb, statusTake]
    dsimp only at hbrk ⊢
    generalize (if bitAt b 7 then (if z.chain.brkValid then z else breakPut z true (field b 6 0)) else breakPut z false (field b 6 0)) = z1 at hbrk
    obtain ⟨hcells, hstore, hclear, hkeep⟩ := hbrk
    have hsent : Sent z1 (if fhSrc h = z.chain.unit then z1 else if (portGet z1 (1 - p)).up then
        frameSend z1 (1 - p) 4 (fhSrc h) (fhHops h) (fhWrap h) (fhPast h) [b] else z1) :=
      .ite (.refl z1) (.ite (.frameSend ..) (.refl z1))
    refine ⟨_, rfl, (hsent.cells.trans hcells).trans hs.heard.cells, (hsent.store.trans hstore).trans hs.heard.store, fun h7 => ?_,
      fun h7 => ?_⟩
    · rw [hsent.brkValid]
      exact hclear h7
    · rw [hsent.brkValid, hsent.brkUnit, ← hs.heard.brkValid, ← hs.heard.brkUnit]
      exact hkeep h7

end Sys2Proof.Machine
end

section
/-! The ports of the chain: breaks, training and enumeration's timers. -/

namespace Sys2Proof.Machine

variable {s t z : State} {p : Nat}

/-- A port that is up goes down: the first break known is kept, the break is counted, and the other port announces it. -/
theorem portDown_rest (hp : p < 2) (hup : (portGet s p).up = true) : let t := portDown s p
    (portGet t p).up = false ∧ t.chain.brkValid = true ∧
    t.chain.brkUnit = (if s.chain.brkValid then s.chain.brkUnit else ownBreak s p) ∧
    cntGet t (chnAdr p 4) = satCount (cntGet s (chnAdr p 4)) 1 ∧ t.cells = s.cells := by
  have hfar : 0x28000 ≤ chnAdr p 4 := by
    unfold chnAdr
    omega
  unfold portDown
  dsimp only
  rw [if_pos hup]
  generalize chnAdr p 4 = a at hfar
  have hport : Heard s (cntAdd (portSet s p { portGet s p with up := false, upSince := none, owesClear := true }) a 1) :=
    (Heard.portSet ..).trans (.cntAdd ..)
  have hcnt : cntGet (cntAdd (portSet s p { portGet s p with up := false, upSince := none, owesClear := true }) a 1) a =
      satCount (cntGet s a) 1 := by
    refine (cntGet_cntAdd (portSet s p _) a 1).trans ?_
    rw [cntGet, (Sent.portSet s p _).cnt, ← cntGet]
  have hdown : (portGet (cntAdd (portSet s p { portGet s p with up := false, upSince := none, owesClear := true }) a 1) p).up = false := by
    change (portGet (portSet s p _) p).up = false
    rw [portGet_portSet]
  generalize cntAdd (portSet s p { portGet s p with up := false, upSince := none, owesClear := true }) a 1 = s1 at hport hcnt hdown ⊢
  have hown : ownBreak s1 p = ownBreak s p := by
    have hunits : s1.chain.units = s.chain.units := by rw [hport]
    unfold ownBreak
    rw [hport.unit, hunits]
  have hs2 : let s2 := if s1.chain.brkValid then s1 else breakPut s1 true (ownBreak s1 p)
      (portGet s2 p).up = false ∧ s2.chain.brkValid = true ∧
      s2.chain.brkUnit = (if s.chain.brkValid then s.chain.brkUnit else ownBreak s p) ∧ cntGet s2 a = cntGet s1 a ∧ s2.cells = s1.cells := by
    rw [← hport.brkValid, ← hport.brkUnit, ← hown]
    cases hv : s1.chain.brkValid
    · obtain ⟨hf, hval, hu, hc⟩ := breakPut_rest (s := s1) true (ownBreak s1 p)
      have hport2 : portGet (breakPut s1 true (ownBreak s1 p)) p = portGet s1 p := by
        unfold portGet
        rw [hf.chain]
      exact ⟨by rw [if_neg Bool.false_ne_true, hport2]; exact hdown, hval, hu, hc a hfar, hf.cells⟩
    · exact ⟨hdown, hv, rfl, rfl, rfl⟩
  dsimp only at hs2
  generalize (if s1.chain.brkValid then s1 else breakPut s1 true (ownBreak s1 p)) = s2 at hs2 ⊢
  obtain ⟨hd2, hv2, hu2, hc2, hcells2⟩ := hs2
  have hsent := Sent.statusSend s2 (1 - p) true (ownBreak s2 p)
  have hother : portGet (statusSend s2 (1 - p) true (ownBreak s2 p)) p = portGet s2 p := by
    have h := (frameSend_ports s2 (1 - p) 4 s2.chain.unit 0 false false [statusBody true (ownBreak s2 p)]).2.2
    rw [other_other hp] at h
    unfold statusSend
    dsimp only
    split
    · exact h
    · rfl
  refine ⟨by rw [hother]; exact hd2, hsent.brkValid.trans hv2, hsent.brkUnit.trans hu2, ?_, (hsent.cells.trans hcells2).trans hport.cells⟩
  rw [cntGet, hsent.cnt, ← cntGet, hc2, hcnt]

/-- A port that retrains runs on no lane; what else its going down left stays. -/
theorem portRetrain_rest : let t := portRetrain s p
    portGet t p = { portGet (portDown s p) p with training := true, lanes := 0, active := [] } ∧ Sent (portDown s p) t :=
  ⟨portGet_portSet .., .portSet ..⟩

theorem exec_chainPortDown (hon : portOn s p = true) (retrain : Bool) :
    exec (.chainPortDown p retrain) s = .next (if retrain then portRetrain s p else portDown s p) := by
  change execChainPortDown p s retrain = _
  unfold execChainPortDown
  rw [if_pos hon]

/-- A status frame leaves what a port owes. -/
theorem statusSend_owes (q : Nat) (v : Bool) (b : Nat) : (portGet (statusSend s q v b) p).owesClear = (portGet s p).owesClear := by
  have hset : (portGet (portSet s q { portGet s q with txSeq := ((portGet s q).txSeq + 1) % 65536 }) p).owesClear =
      (portGet s p).owesClear := by
    unfold portSet portGet
    by_cases hq : q = 0
    · simp only [if_pos hq]
      split <;> rfl
    · simp only [if_neg hq]
      split <;> rfl
  unfold statusSend
  dsimp only
  split
  · exact hset
  · rfl

theorem portGet_of_ports (h0 : t.chain.port0 = s.chain.port0) (h1 : t.chain.port1 = s.chain.port1) (p : Nat) : portGet t p = portGet s p := by
  unfold portGet
  rw [h0, h1]

theorem exec_breakClearSend {since : W64} (hon : portOn s p = true) (hup : (portGet s p).up = true) (howes : (portGet s p).owesClear = true)
    (hsince : (portGet s p).upSince = some since) (hk : 1000000 ≤ (ktb s).toNat - since.toNat) :
    exec (.breakClearSend p) s = .next
      (let s1 := breakPut (portSet s p { portGet s p with owesClear := false }) false s.chain.brkUnit
       statusSend (statusSend s1 0 false s1.chain.brkUnit) 1 false s1.chain.brkUnit) := by
  change execBreakClearSend p s = _
  unfold execBreakClearSend
  dsimp only
  rw [hsince]
  dsimp only
  rw [hon, hup, howes, decide_eq_true hk]
  rfl

/-! Lanes. -/

theorem lanesUsed_rest (w : Nat) : ((lanesUsed w).length = 0 ∨ (lanesUsed w).length = 1 ∨ (lanesUsed w).length = 2 ∨ (lanesUsed w).length = 4) ∧
    ∀ i, i ∈ lanesUsed w → i < 4 ∧ w.testBit i = true := by
  unfold lanesUsed
  dsimp only
  generalize hl : (List.range 4).filter (fun i => w / 2 ^ i % 2 == 1) = l
  have hlen : l.length ≤ 4 := by
    rw [← hl]
    exact (List.length_filter_le ..).trans (by decide)
  have hmem (i : Nat) (hi : i ∈ l) : i < 4 ∧ w.testBit i = true := by
    rw [← hl] at hi
    obtain ⟨hr, hb⟩ := List.mem_filter.mp hi
    refine ⟨List.mem_range.mp hr, ?_⟩
    rw [Nat.testBit_eq_decide_div_mod_eq]
    exact decide_eq_true (beq_iff_eq.mp hb)
  by_cases h3 : l.length = 3
  · rw [if_pos h3]
    refine ⟨.inr (.inr (.inl (by rw [List.length_take, h3]; rfl))), fun i hi => hmem i (List.mem_of_mem_take hi)⟩
  · rw [if_neg h3]
    exact ⟨by omega, hmem⟩

theorem exec_laneRetrainDone (hon : portOn s p = true) {w : Nat} (hl : lanesUsed w ≠ []) : exec (.laneRetrainDone p w) s = .next
    (if (portGet s p).up && (portGet s p).lanes == (lanesUsed w).length then portSet s p { portGet s p with active := lanesUsed w }
     else portSet (portRetrain s p) p { portGet (portRetrain s p) p with
       training := false, lanes := (lanesUsed w).length, active := lanesUsed w, up := true, upSince := some (ktb (portRetrain s p)) }) := by
  have hne : (!portOn s p || (lanesUsed w).isEmpty) = false := by
    rw [hon, List.isEmpty_eq_false_iff.mpr hl]
    rfl
  change execLaneRetrainDone p w s = _
  unfold execLaneRetrainDone
  dsimp only
  rw [hne, if_neg Bool.false_ne_true]
  exact (apply_ite Host.Outcome.next ..).symm

/-- Settles O55: each port by its break, its lanes and its time. -/
theorem chainPortsAndTimers : Obligations.ChainPortsAndTimers := by
  unfold Obligations.ChainPortsAndTimers
  intro s p
  refine ⟨fun retrain hon hup => ?_, fun hon hup => ?_, fun since hon hup howes hsince hk => ?_, fun w => ?_, fun o tag sent ho htag hk => ?_,
    fun a o since ht hk => ?_⟩
  · obtain ⟨hdown, hv, hu, hc, hcells⟩ := portDown_rest (portOn_lt hon) hup
    rw [exec_chainPortDown hon]
    cases retrain
    · exact ⟨_, rfl, hdown, hv, hu, hc, hcells, nofun⟩
    · obtain ⟨hport, hsent⟩ := portRetrain_rest (s := s) (p := p)
      refine ⟨portRetrain s p, rfl, ?_, hsent.brkValid.trans hv, hsent.brkUnit.trans hu, ?_, hsent.cells.trans hcells, fun _ => ?_⟩
      · rw [hport]
        exact hdown
      · rw [cntGet, hsent.cnt, ← cntGet, hc]
      · rw [hport]
        exact ⟨rfl, rfl⟩
  · intro own valid u hdr
    have hp := portOn_lt hon
    have hcan : (portOn s p && ((portGet s p).up || ((portGet s p).lanes != 0 && !(portGet s p).training))) = true := by
      rw [hon]
      obtain h | ⟨h1, h2⟩ := hup
      · rw [h]
        rfl
      · rw [h2, bne_iff_ne.mpr h1]
        simp
    have hx : exec (.ringStatusSend p) s = .next (frameSend s p 4 s.chain.unit 0 false false [statusBody valid u]) := by
      have hstatus (v : Bool) (b : Nat) : statusSend s p v b = frameSend s p 4 s.chain.unit 0 false false [statusBody v b] := if_pos hcan
      change execRingStatusSend p s = _
      unfold execRingStatusSend
      dsimp only
      rw [if_pos hp, hstatus, hstatus]
      change Host.Outcome.next (if own then _ else _) = Host.Outcome.next (frameSend s p 4 s.chain.unit 0 false false
        [statusBody (own || s.chain.brkValid) (if own then ownBreak s (1 - p) else s.chain.brkUnit)])
      cases own <;> rfl
    obtain ⟨hout, hport, hother⟩ := frameSend_ports s p 4 s.chain.unit 0 false false [statusBody valid u]
    exact ⟨_, hx, (Sent.frameSend ..).linked, hout, by rw [hport], hother⟩
  · obtain ⟨hf, hv, -, -⟩ := breakPut_rest (s := portSet s p { portGet s p with owesClear := false }) false s.chain.brkUnit
    have hport : portGet (breakPut (portSet s p { portGet s p with owesClear := false }) false s.chain.brkUnit) p =
        { portGet s p with owesClear := false } :=
      (portGet_of_ports (s := portSet s p { portGet s p with owesClear := false }) ((congrArg Chain.port0 hf.chain).trans rfl)
        ((congrArg Chain.port1 hf.chain).trans rfl) p).trans (portGet_portSet ..)
    rw [exec_breakClearSend hon hup howes hsince hk]
    dsimp only
    generalize breakPut (portSet s p { portGet s p with owesClear := false }) false s.chain.brkUnit = z at hf hv hport
    have h0 := Sent.statusSend z 0 false z.chain.brkUnit
    have h1 := Sent.statusSend (statusSend z 0 false z.chain.brkUnit) 1 false z.chain.brkUnit
    refine ⟨_, rfl, (h1.brkValid.trans h0.brkValid).trans hv, ?_, ((h1.cells.trans h0.cells).trans hf.cells).trans (Sent.portSet s p _).cells⟩
    rw [statusSend_owes, statusSend_owes, hport]
  · intro l
    obtain ⟨hlen, hmem⟩ := lanesUsed_rest w
    refine ⟨hlen, hmem, fun hon hup hl => ?_, fun hon hup hlanes hl => ?_, fun hon hup hlanes hl => ?_⟩
    · have hdown : portDown s p = s := by
        unfold portDown
        dsimp only
        rw [hup]
        rfl
      obtain ⟨hport, hsent⟩ := portRetrain_rest (s := s) (p := p)
      rw [hdown] at hport hsent
      have hother : portGet (portRetrain s p) (1 - p) = portGet s (1 - p) := by
        unfold portRetrain
        rw [hdown]
        exact portGet_portSet_other ..
      rw [exec_laneRetrainDone hon hl, if_neg (by rw [hup]; exact Bool.false_ne_true)]
      refine ⟨_, rfl, (hsent.trans (.portSet ..)).linked, ?_, (portGet_portSet_other ..).trans hother⟩
      rw [portGet_portSet, hport, ktb, hsent.tick, ← ktb]
    · rw [exec_laneRetrainDone hon hl, if_pos (by rw [hup, hlanes]; exact beq_self_eq_true _)]
    · obtain ⟨-, -, -, hc, -⟩ := portDown_rest (portOn_lt hon) hup
      obtain ⟨-, hsent⟩ := portRetrain_rest (s := s) (p := p)
      have hsame : ¬ ((portGet s p).up && (portGet s p).lanes == (lanesUsed w).length) = true := by
        rw [hup, Bool.true_and, beq_iff_eq]
        exact hlanes
      rw [exec_laneRetrainDone hon hl, if_neg hsame]
      refine ⟨_, rfl, ?_, ?_, ?_⟩
      · rw [portGet_portSet]
      · rw [portGet_portSet]
      · rw [cntGet, (Sent.portSet ..).cnt, hsent.cnt, ← cntGet, hc]
  · have hx : exec .enumerationOfferTimeout s = .next (enumEnd s tag 0x16) := by
      change execEnumerationOfferTimeout s = _
      unfold execEnumerationOfferTimeout
      rw [ho]
      exact if_pos hk
    rw [hx, enumEnd, hmbComplete, if_neg htag, if_neg (by decide)]
    dsimp only
    have h1 := HubFrame.pulse { s with chain := { s.chain with offer := none }, mbx := { s.mbx with cpl := s.mbx.cpl ++ [(tag, 0x16)] } } 307
    generalize pulse { s with chain := { s.chain with offer := none }, mbx := { s.mbx with cpl := s.mbx.cpl ++ [(tag, 0x16)] } } 307 = z at h1 ⊢
    have h2 := HubFrame.pulse z 291
    exact ⟨_, rfl, h2.chain.trans h1.chain, (congrArg Mbx.cpl (h2.mbx.trans h1.mbx))⟩
  · change execTentativeAddressDrop s = _
    unfold execTentativeAddressDrop
    rw [ht]
    exact if_pos hk

end Sys2Proof.Machine
end

section
/-! What the actions of an edge leave: the clock, the block state, the release, the Sett, the counters of edges, and the lists. -/

namespace Sys2Proof.Machine

/-- What an action of an edge leaves: the clock, the block state, the release, the registers, the Sett, whether the Badger runs and the
counter `a`; to the completions of the mailbox it only adds. -/
structure Paced (a : Nat) (s t : State) : Prop where
  tick : t.tick = s.tick
  bstate : t.bstate = s.bstate
  rel : t.rel = s.rel
  hreg : t.hreg = s.hreg
  sett : t.sett = s.sett
  badger : (engGet t 66).run = (engGet s 66).run
  cpl : ∀ x ∈ s.mbx.cpl, x ∈ t.mbx.cpl
  cnt : CntKept a s t

/-- Such an action that leaves the records, the failing tiles and the scan lists as well. -/
structure Quiet (a : Nat) (s t : State) : Prop extends Paced a s t where
  store : t.store = s.store
  bad : t.mem.bad = s.mem.bad
  scan : ∀ n, (engGet t n).scan = (engGet s n).scan

/-- A counter of the edges that a main or a Sett tick has passed over, or of the overruns of a cluster. -/
def EdgeCount (a : Nat) : Prop := (0x10088 ≤ a ∧ a < 0x10300) ∨ a = 0x181018

variable {a : Nat} {s t u : State}

/-- What a change of an engine leaves of every engine, every change of that engine leaves of all. -/
theorem engMap_leaves {α : Type} (π : Engine → α) {n : Nat} {f : Engine → Engine} (hf : ∀ e, π (f e) = π e) (m : Nat) :
    π (engGet (engMap s n f) m) = π (engGet s m) := by
  by_cases h : m = n
  · subst h
    rw [engGet_engMap, hf]
  · rw [engGet_engMap_other _ h]

namespace Paced

theorem refl (s : State) : Paced a s s := ⟨rfl, rfl, rfl, rfl, rfl, rfl, fun _ h => h, rfl⟩

theorem trans (h : Paced a s t) (k : Paced a t u) : Paced a s u where
  tick := k.tick.trans h.tick
  bstate := k.bstate.trans h.bstate
  rel := k.rel.trans h.rel
  hreg := k.hreg.trans h.hreg
  sett := k.sett.trans h.sett
  badger := k.badger.trans h.badger
  cpl x hx := k.cpl x (h.cpl x hx)
  cnt := h.cnt.trans k.cnt

theorem ite {c : Prop} [Decidable c] (h : Paced a s t) (k : Paced a s u) : Paced a s (if c then t else u) := by
  split
  · exact h
  · exact k

theorem foldl {α : Type} {f : State → α → State} (hf : ∀ z x, Paced a z (f z x)) (l : List α) (s : State) : Paced a s (l.foldl f s) := by
  induction l generalizing s with
  | nil => exact refl s
  | cons x l ih => exact (hf s x).trans (ih (f s x))

theorem forNats {f : State → Nat → State} (hf : ∀ z x, Paced a z (f z x)) (l : List Nat) (s : State) : Paced a s (forNats l f s) :=
  foldl hf l s

/-- A change of the parts that an edge may change, but for counters and completions. -/
theorem of_parts (h : t = { s with
    hub := t.hub, field := t.field, free := t.free, cells := t.cells, chain := t.chain, trc := t.trc, store := t.store, pub := t.pub,
    svc := t.svc, mem := t.mem }) : Paced a s t := by
  rw [h]
  exact ⟨rfl, rfl, rfl, rfl, rfl, rfl, fun _ h => h, .of_cnt rfl⟩

theorem of_logged (h : Logged s t) (hm : t.mbx.cpl = s.mbx.cpl) (hc : CntKept a s t) : Paced a s t where
  tick := h.frame.tick
  bstate := h.frame.bstate
  rel := h.frame.rel
  hreg := h.frame.hreg
  sett := h.frame.sett
  badger := by rw [(h.woken 66).alike]
  cpl x hx := by rwa [hm]
  cnt := hc

end Paced

namespace Quiet

theorem refl (s : State) : Quiet a s s := ⟨.refl s, rfl, rfl, fun _ => rfl⟩

theorem trans (h : Quiet a s t) (k : Quiet a t u) : Quiet a s u :=
  ⟨h.toPaced.trans k.toPaced, k.store.trans h.store, k.bad.trans h.bad, fun n => (k.scan n).trans (h.scan n)⟩

theorem ite {c : Prop} [Decidable c] (h : Quiet a s t) (k : Quiet a s u) : Quiet a s (if c then t else u) := by
  split
  · exact h
  · exact k

theorem foldl {α : Type} {f : State → α → State} (hf : ∀ z x, Quiet a z (f z x)) (l : List α) (s : State) : Quiet a s (l.foldl f s) := by
  induction l generalizing s with
  | nil => exact refl s
  | cons x l ih => exact (hf s x).trans (ih (f s x))

theorem forNats {f : State → Nat → State} (hf : ∀ z x, Quiet a z (f z x)) (l : List Nat) (s : State) : Quiet a s (forNats l f s) :=
  foldl hf l s

/-- A change of the pins, the queues of the banks, the cells on their way and the chain. -/
theorem of_parts (h : t = { s with
    hub := t.hub, field := t.field, free := t.free, cells := t.cells, chain := t.chain, trc := t.trc, pub := t.pub }) :
    Quiet a s t where
  toPaced := .of_parts (by rw [h])
  store := by rw [h]
  bad := by rw [h]
  scan n := by
    have he : t.eng = s.eng := by rw [h]
    rw [engGet_of_eng he]

theorem of_logged (h : Logged s t) (hm : t.mbx.cpl = s.mbx.cpl) (hc : CntKept a s t) : Quiet a s t where
  toPaced := .of_logged h hm hc
  store := h.frame.store
  bad := h.frame.bad
  scan n := by rw [(h.woken n).alike]

theorem cntAdd (s : State) {b : Nat} (h : a ≠ b) (k : Nat) : Quiet a s (cntAdd s b k) := of_logged (.cntAdd s b k) rfl (.cntAdd s h k)

/-- A change of an engine that leaves its scan list and whether it runs. -/
theorem engMap (s : State) (n : Nat) {f : Engine → Engine} (hs : ∀ e, (f e).scan = e.scan := by intro _; rfl)
    (hr : ∀ e, (f e).run = e.run := by intro _; rfl) : Quiet a s (engMap s n f) where
  toPaced := ⟨rfl, rfl, rfl, rfl, rfl, engMap_leaves (·.run) hr 66, fun _ h => h, .of_cnt rfl⟩
  store := rfl
  bad := rfl
  scan := engMap_leaves (·.scan) hs

theorem engSet (s : State) (n : Nat) {e : Engine} (hs : e.scan = (engGet s n).scan) (hr : e.run = (engGet s n).run) :
    Quiet a s (engSet s n e) := by
  have h (m : Nat) : (engGet (Machine.engSet s n e) m).scan = (engGet s m).scan ∧ (engGet (Machine.engSet s n e) m).run = (engGet s m).run := by
    by_cases hm : m = n
    · subst hm
      rw [engGet_engSet]
      exact ⟨hs, hr⟩
    · rw [engGet_engSet_other _ hm]
      exact ⟨rfl, rfl⟩
  exact ⟨⟨rfl, rfl, rfl, rfl, rfl, (h 66).2, fun _ h => h, .of_cnt rfl⟩, rfl, rfl, fun m => (h m).1⟩

theorem wakeEng (s : State) (n : Nat) : Quiet a s (wakeEng s n) := of_logged (.wakeEng s n) rfl (.of_cnt rfl)

theorem mothMap (s : State) (m : Nat) (f : Moth → Moth) : Quiet a s (mothMap s m f) := of_parts rfl

theorem mothSet (s : State) (m : Nat) (v : Moth) : Quiet a s (mothSet s m v) := of_parts rfl

theorem gwSet (s : State) (b : Nat) (l : List OCell) : Quiet a s (gwSet s b l) := of_parts rfl

theorem agedAdd (s : State) (q k : Nat) : Quiet a s (agedAdd s q k) := of_parts rfl

end Quiet

/-! Records of failures and the hub. -/

theorem EdgeCount.far (ha : EdgeCount a) : a < 0x20000 ∨ 0x28000 ≤ a := by
  unfold EdgeCount at ha
  omega

theorem fltWrite_cpl (cls : Nat) (src a0 a1 : Word) : (fltWrite s cls src a0 a1).mbx.cpl = s.mbx.cpl := by
  unfold fltWrite
  extract_lets s1
  split
  · rfl
  · split
    · rw [pulse_mbx (s := cntAdd s1 0x40104 1) 305]
      rfl
    · rfl

/-- A fault record touches the counters of its class and of the records lost, and those of the hub. -/
theorem fltWrite_cntKept (hfar : a < 0x20000 ∨ 0x28000 ≤ a) (hlost : a ≠ 0x40104) (cls : Nat) (hcls : a ≠ 0x40200 + 4 * cls) (src a0 a1 : Word) :
    CntKept a s (fltWrite s cls src a0 a1) := by
  unfold fltWrite
  generalize 0x40200 + 4 * cls = b at hcls
  extract_lets s1
  have h1 : CntKept a s s1 := .cntAdd s hcls 1
  split
  · exact h1
  · split
    · exact h1.trans ((CntKept.cntAdd s1 hlost 1).trans (pulse_cntKept hfar _ _))
    · exact h1

namespace Quiet

variable (ha : EdgeCount a)
include ha

theorem pulse (s : State) (x : Nat) : Quiet a s (pulse s x) := of_logged (.pulse s x) (by rw [pulse_mbx]) (pulse_cntKept ha.far s x)

theorem fltWrite (s : State) {cls : Nat} (hc : cls < 32) (src a0 a1 : Word) : Quiet a s (fltWrite s cls src a0 a1) :=
  of_logged (.fltWrite s cls src a0 a1) (fltWrite_cpl ..)
    (fltWrite_cntKept ha.far (by unfold EdgeCount at ha; omega) cls (by unfold EdgeCount at ha; omega) src a0 a1)

theorem parityRecord (s : State) (m i e : Nat) : Quiet a s (parityRecord s m i e) := fltWrite ha s (by decide) ..

theorem parityDrop (s : State) (m i : Nat) : Quiet a s (parityDrop s m i) := by
  unfold Machine.parityDrop
  exact (cntAdd s (by unfold EdgeCount at ha; omega) 1).trans (parityRecord ha ..)

theorem listDrop (s : State) (n i : Nat) : Quiet a s (listDrop s n i) :=
  ite (refl s) ((cntAdd s (by unfold EdgeCount at ha; omega) 1).trans (parityRecord ha ..))

theorem tileDetect (s : State) (cls : Nat) (hc : cls < 32) (inst tile reader : Nat) : Quiet a s (tileDetect s cls inst tile reader) := by
  have hl := Logged.tileDetect s cls inst tile reader
  have hne : a ≠ 0xA010 + 4 * cls := by
    unfold EdgeCount at ha
    omega
  unfold Machine.tileDetect at hl ⊢
  generalize 0xA010 + 4 * cls = b at hne hl ⊢
  dsimp only at hl ⊢
  generalize BitVec.ofNat 32 (tileKey cls inst tile) = w at hl ⊢
  have h1 : CntKept a s (Machine.cntAdd { s with mem := { s.mem with lastadr := w } } b 1) :=
    CntKept.trans (t := { s with mem := { s.mem with lastadr := w } }) (.of_cnt rfl) (.cntAdd _ hne 1)
  have hcpl : (Machine.cntAdd { s with mem := { s.mem with lastadr := w } } b 1).mbx.cpl = s.mbx.cpl := rfl
  generalize Machine.cntAdd { s with mem := { s.mem with lastadr := w } } b 1 = z at hl h1 hcpl ⊢
  exact of_logged hl ((fltWrite_cpl ..).trans hcpl) (h1.trans (fltWrite ha z (cls := 2) (by decide) w _ 0).cnt)

theorem qCount (s : State) (n k : Nat) {off : Nat} (h : off < 0x20) : Quiet a s (qCount s n off k) := by
  unfold Machine.qCount
  split
  · exact cntAdd s (by unfold EdgeCount at ha; omega) k
  · exact refl s

theorem inqParity (s : State) (n : Nat) : Quiet a s (inqParity s n) := by
  unfold Machine.inqParity
  exact ite ((engMap s n).trans (forNats (fun z p => parityDrop ha z n p) _ _)) (refl s)

theorem engSweep (s : State) (n : Nat) : Quiet a s (engSweep s n) :=
  (inqParity ha s n).trans (Quiet.trans (engSet _ n (by rfl) (by rfl)) (qCount ha _ n _ (off := 8) (by decide)))

theorem edgeSeen (s : State) (n : Nat) : Quiet a s (edgeSeen s n) := by
  unfold Machine.edgeSeen
  extract_lets e late s1 s2
  have h1 : Quiet a s s1 := by
    simp only [s1]
    split
    · next hl =>
      have hn : n < 64 := by
        simp only [late, Bool.and_eq_true, decide_eq_true_eq] at hl
        exact hl.1
      exact cntAdd s (by unfold EdgeCount at ha; omega) 1
    · exact refl s
  exact (h1.trans (ite (engMap s1 n) (refl s1))).trans (wakeEng s2 n)

end Quiet

/-! The banks at an edge. -/

namespace Quiet

theorem cycFresh (s : State) (l : List Nat) : Quiet a s (cycFresh s l) := forNats (fun z n => engMap z n) _ s

theorem seqFresh (s : State) (l : List Nat) : Quiet a s (seqFresh s l) := forNats (fun z m => mothMap z m _) _ s

theorem mothsEnable (s : State) (l : List Nat) : Quiet a s (mothsEnable s l) := forNats (fun z m => mothMap z m _) _ s

theorem padNote (s : State) (p : Nat) : Quiet a s (padNote s p) := by
  unfold Machine.padNote
  dsimp only
  split
  · exact refl s
  · split
    · exact of_parts rfl
    · exact of_parts rfl

theorem mothOut (s : State) (m k : Nat) (v : Bool) : Quiet a s (mothOut s m k v) := by
  unfold Machine.mothOut
  split
  · exact refl s
  · exact (mothMap s m _).trans (padNote ..)

theorem heldWaits (s : State) (m : Nat) : Quiet a s (heldWaits s m) := by
  unfold Machine.heldWaits
  dsimp only
  split
  · split
    · exact ite (mothMap s m _) (refl s)
    · exact ite (mothMap s m _) (refl s)
    · exact refl s
  · exact refl s

theorem edgeWaits (s : State) (m : Nat) : Quiet a s (edgeWaits s m) :=
  ite ((heldWaits s m).trans (ite (mothMap _ m _) (ite (mothMap _ m _) (refl _)))) (refl s)

variable (ha : EdgeCount a)
include ha

theorem countBank (s : State) (b k : Nat) {off : Nat} (h : off < 0x4000) : Quiet a s (Machine.cntAdd s (mbkAdr b off) k) := by
  refine cntAdd s ?_ k
  unfold EdgeCount at ha
  unfold mbkAdr
  split <;> omega

theorem countMoth (s : State) (m k : Nat) {off : Nat} (h : off < 0x80) : Quiet a s (Machine.cntAdd s (mthAdr m off) k) :=
  countBank ha s _ k (by omega)

theorem gwMake (s : State) (m : Nat) (w : Word) : Quiet a s (gwMake s m w) := by
  unfold Machine.gwMake
  dsimp only
  split
  · exact of_parts rfl
  · exact countMoth ha s m 1 (by decide)

theorem gwSample (s : State) (m : Nat) : Quiet a s (gwSample s m) := by
  unfold Machine.gwSample
  dsimp only
  split
  · exact (mothMap s m _).trans (countBank ha _ _ 1 (by decide))
  · exact gwMake ha ..

theorem gwTakeWord (s : State) (m : Nat) : Quiet a s (gwTakeWord s m) := by
  unfold Machine.gwTakeWord
  split
  · exact refl s
  · exact ite ((mothMap s m _).trans (gwMake ha ..)) (refl s)

theorem gwServe (s : State) (b : Nat) : Quiet a s (gwServe s b) := by
  unfold Machine.gwServe
  dsimp only
  split
  · exact refl s
  · exact ite ((gwTakeWord ha s _).trans (of_parts rfl)) (refl s)

theorem gwServeAll (s : State) (b : Nat) : Quiet a s (gwServeAll s b) := forNats (fun z _ => gwServe ha z b) _ s

theorem edgeStep3 (s : State) (m : Nat) : Quiet a s (edgeStep3 s m) := by
  unfold Machine.edgeStep3
  dsimp only
  split
  · split
    · exact refl s
    · exact Quiet.trans (forNats (fun z k => ite (mothOut ..) (refl z)) _ s) (mothMap _ m _)
  · exact (mothSet s m _).trans (countMoth ha _ m _ (by decide))

theorem mothEdge (s : State) (m : Nat) : Quiet a s (mothEdge s m) := by
  unfold Machine.mothEdge
  extract_lets s0 s1 s2 s3
  have h1 : Quiet a s s1 := (mothMap s m _).trans (edgeWaits ..)
  have h2 : Quiet a s1 s2 := ite (gwSample ha ..) (refl _)
  have h3 : Quiet a s2 s3 := ite (refl _) (forNats (fun z _ => gwTakeWord ha z m) _ _)
  exact ((h1.trans h2).trans h3).trans (edgeStep3 ha ..)

theorem bankEdge (s : State) (b : Nat) (main : Bool) : Quiet a s (bankEdge s b main) :=
  ite (forNats (fun z m => ite (mothEdge ha z m) (refl z)) _ s) (refl s)

theorem gwArrive (s : State) (b : Nat) (c : W128) : Quiet a s (gwArrive s b c) := by
  unfold Machine.gwArrive
  split
  · refine cntAdd s ?_ 1
    unfold EdgeCount at ha
    split <;> omega
  · exact ite (countBank ha s b 1 (by decide)) (ite (countMoth ha s _ 1 (by decide)) (mothMap s _ _))

theorem gwDeliver (s : State) (l : List Nat) : Quiet a s (gwDeliver s l) :=
  Quiet.trans (of_parts rfl) (foldl (fun z _ => gwArrive ha z _ _) _ _)

end Quiet

end Sys2Proof.Machine
end

section
/-! The Sett's edge and its reserve. -/

namespace Sys2Proof.Machine

variable {a : Nat} {s t : State}

/-! The Sett's router and its lists, while no tile of the Sett store fails. -/

/-- No tile of the Sett store that holds tile 0 of a record fails. -/
def SettWhole (s : State) : Prop := ∀ i, tileBad s 5 2 (2 * i) = false

theorem SettWhole.quiet (h : SettWhole s) (hq : t.mem.bad = s.mem.bad) : SettWhole t := fun i => by
  rw [tileBad, hq, ← tileBad]
  exact h i

theorem settRecSeen_of_whole {i : Nat} (h : tileBad s 5 2 (2 * i) = false) : settRecSeen s i = s := by
  unfold settRecSeen
  rw [if_neg (by rw [h]; decide)]

theorem settSeen_of_whole (h : SettWhole s) : settSeen s = s := by
  unfold settSeen
  induction s.store.sett.map (·.1) with
  | nil => rfl
  | cons i l ih => rw [List.foldl_cons, settRecSeen_of_whole (h i), ih]

namespace Quiet

variable (ha : EdgeCount a)
include ha

theorem settRoute (h : SettWhole s) (o : OCell) : Quiet a s (settRoute s o) := by
  have hdrop : Quiet a s (Machine.cntAdd s 0x18101C 1) := cntAdd s (by unfold EdgeCount at ha; omega) 1
  have hfly (d : Nat) : Quiet a s (flyTo s d o) := of_parts rfl
  unfold Machine.settRoute
  dsimp only
  rw [if_neg (c := tileBad s 5 2 (2 * cellIndex o.cell) = true) (by rw [h]; decide)]
  exact ite (refl s) (ite hdrop (ite (ite (hfly _) hdrop) (ite hdrop (ite (hfly _) hdrop))))

omit ha in
/-- A cell taken from the queues of the Sett. -/
theorem queueTake_sett (s : State) : Quiet a s (queueTake s 64).2 := by
  unfold queueTake
  rw [if_pos rfl]
  extract_lets q z
  have hz : Quiet a s z := engMap s 64
  dsimp only
  exact hz.trans (engMap z 65)

theorem settDrain (k : Nat) (h : SettWhole s) : Quiet a s (settDrain k s) := by
  induction k generalizing s with
  | zero => exact refl s
  | succ k ih =>
    unfold Machine.settDrain
    split
    · have hq : Quiet a s (queueTake s 64).2 := queueTake_sett s
      split
      · next o z heq =>
        rw [heq] at hq
        have hr := settRoute ha (h.quiet hq.bad) o
        exact (hq.trans hr).trans (ih ((h.quiet hq.bad).quiet hr.bad))
      · next z heq =>
        rw [heq] at hq
        exact hq
    · exact refl s

end Quiet

/-- The lists of both engines of the Sett hold the entries of `l`. -/
def BothScan (s : State) (l : List Nat) : Prop := (engGet s 64).scan = l ∧ (engGet s 65).scan = l

theorem BothScan.quiet {l : List Nat} (h : BothScan s l) (hq : Quiet a s t) : BothScan t l := ⟨(hq.scan 64).trans h.1, (hq.scan 65).trans h.2⟩

/-- A change of both engines of the Sett. -/
theorem settPair_engGet (f : Engine → Engine) : let t := forNats [64, 65] (fun z n => engMap z n f) s
    engGet t 64 = f (engGet s 64) ∧ engGet t 65 = f (engGet s 65) := by
  change engGet (engMap (engMap s 64 f) 65 f) 64 = _ ∧ engGet (engMap (engMap s 64 f) 65 f) 65 = _
  rw [engGet_engMap_other _ (by decide), engGet_engMap, engGet_engMap, engGet_engMap_other _ (by decide)]
  exact ⟨rfl, rfl⟩

/-- What a change of both engines of the Sett leaves. -/
theorem settPair_rest (f : Engine → Engine) (hr : ∀ e, (f e).run = e.run) : let t := forNats [64, 65] (fun z n => engMap z n f) s
    Paced a s t ∧ t.store = s.store ∧ t.mem = s.mem := by
  have h (z : State) (n : Nat) : Paced a z (engMap z n f) :=
    ⟨rfl, rfl, rfl, rfl, rfl, engMap_leaves (·.run) hr 66, fun _ h => h, .of_cnt rfl⟩
  exact ⟨.forNats (fun z n => h z n) _ s, rfl, rfl⟩

theorem settLose_rest (ha : EdgeCount a) {l : List Nat} (h : BothScan s l) (i : Nat) :
    Paced a s (settLose s i) ∧ (settLose s i).store = s.store ∧ BothScan (settLose s i) (delNat i l) := by
  unfold settLose
  dsimp only
  split
  · have hd := Quiet.listDrop ha s 64 ((engGet s 64).scan.findIdx (· == i))
    generalize listDrop s 64 ((engGet s 64).scan.findIdx (· == i)) = z at hd ⊢
    obtain ⟨h64, h65⟩ := settPair_engGet (s := z) (fun v => { v with scan := delNat i v.scan, scanLost := v.scanLost ++ [i] })
    obtain ⟨hp, hstore, -⟩ := settPair_rest (a := a) (s := z) (fun v => { v with scan := delNat i v.scan, scanLost := v.scanLost ++ [i] })
      (fun _ => rfl)
    have hb := h.quiet hd
    refine ⟨hd.toPaced.trans hp, hstore.trans hd.store, ?_, ?_⟩
    · rw [h64]
      exact congrArg (delNat i) hb.1
    · rw [h65]
      exact congrArg (delNat i) hb.2
  · next hn =>
    have hl : delNat i l = l := by
      refine List.filter_eq_self.mpr fun q hq => ?_
      rw [h.1, hasNat_iff] at hn
      exact bne_iff_ne.mpr fun h => hn (h ▸ hq)
    rw [hl]
    exact ⟨.refl s, rfl, h⟩

theorem settLose_fold (ha : EdgeCount a) (lost l : List Nat) (h : BothScan s l) : let t := lost.foldl settLose s
    Paced a s t ∧ t.store = s.store ∧ BothScan t (l.filter (fun i => !hasNat i lost)) := by
  induction lost generalizing s l with
  | nil =>
    have hl : l.filter (fun i => !hasNat i []) = l := List.filter_eq_self.mpr fun _ _ => rfl
    rw [hl]
    exact ⟨.refl s, rfl, h⟩
  | cons i lost ih =>
    obtain ⟨hp, hstore, hb⟩ := settLose_rest ha h i
    obtain ⟨hp', hstore', hb'⟩ := ih (delNat i l) hb
    have hl : (delNat i l).filter (fun q => !hasNat q lost) = l.filter (fun q => !hasNat q (i :: lost)) := by
      rw [delNat, List.filter_filter]
      refine List.filter_congr fun q _ => ?_
      rw [Bool.eq_iff_iff]
      simp [hasNat, and_comm]
    rw [← hl]
    exact ⟨hp.trans hp', hstore'.trans hstore, hb'⟩

/-- The Sett's lists at its edge hold what is due, without the entries that fail their parity. -/
theorem settLists_rest (ha : EdgeCount a) (lost : List Nat) : let t := settLists s lost
    Paced a s t ∧ t.store.sett = s.store.sett ∧ BothScan t ((settDue s).filter (fun i => !hasNat i lost)) := by
  unfold settLists
  extract_lets keep edge st ce s1 gq s2 due s3
  have h1 : Paced a s s1 := .of_parts rfl
  have h2 : Quiet a s1 s2 :=
    ((((Quiet.engSweep ha s1 64).trans (.engSweep ha _ 65)).trans (.gwSet _ 6 gq)).trans (.agedAdd ..)).trans (.gwServeAll ha _ 6)
  have hs2 : s2.store.sett = s.store.sett := (congrArg Store.sett h2.store).trans rfl
  have hdue : due = settDue s := by
    simp only [due]
    rw [settDue, hs2, h2.sett, h1.sett, ← settDue]
  obtain ⟨h3, hst3, -⟩ := settPair_rest (a := a) (s := s2)
    (fun e => { e with scan := due, scanLost := [], disp := [], fresh := false, seqNone := 0 }) (fun _ => rfl)
  obtain ⟨h64, h65⟩ := settPair_engGet (s := s2) (fun e => { e with scan := due, scanLost := [], disp := [], fresh := false, seqNone := 0 })
  have hb3 : BothScan s3 (settDue s) := ⟨by rw [h64, hdue], by rw [h65, hdue]⟩
  obtain ⟨h4, hst4, hb4⟩ := settLose_fold ha lost (settDue s) hb3
  have h5 : Quiet a (lost.foldl settLose s3) (edgeSeen (edgeSeen (lost.foldl settLose s3) 64) 65) := (Quiet.edgeSeen ha _ 64).trans (.edgeSeen ha _ 65)
  exact ⟨(((h1.trans h2.toPaced).trans h3).trans h4).trans h5.toPaced,
    (congrArg Store.sett (h5.store.trans (hst4.trans hst3))).trans hs2, hb4.quiet h5⟩

/-! The edge. -/

theorem settTicks_of_sett (h : t.sett.st = s.sett.st ∧ t.sett.units = s.sett.units) : settTicks t = settTicks s := by
  rw [settTicks, h.1, h.2, ← settTicks]

/-- The state as the Sett's edge at point `k` first makes it. -/
def settTaken (s : State) (k : Nat) : State :=
  settMap s (fun t => { t with taken := some k, stn := BitVec.ofNat 64 k, inReserve := false, parSeen := t.par })

/-- The Sett at its edge at point `k`, with the points passed over counted in `a`. -/
def settBegun (a : Nat) (s : State) (k : Nat) : State :=
  let s1 := cntAdd (settTaken s k) a (k + 1 - settNext s - 1)
  { s1 with tick := { s1.tick with cycSett := 0 } }

/-- What the Sett's cells and its bank do at its edge. -/
def settActs (s : State) : State :=
  mothsEnable (bankEdge (gwDeliver (settDrain 256 (seqFresh (cycFresh s [64, 65]) [6])) [6]) 6 true) ((List.range 8).map (96 + ·))

/-- The edge of a Sett whose reserve has begun. -/
theorem settEdge_begun (k : Nat) (lost : List Nat) (hres : s.sett.inReserve = true) (hticks : settTicks s = true) :
    settEdge s k lost = if settTicks (settSeen (settActs (settBegun 0x181018 s k))) then
      settLists (settSeen (settActs (settBegun 0x181018 s k))) lost else settSeen (settActs (settBegun 0x181018 s k)) := by
  unfold settEdge settBegun
  generalize 0x181018 = a
  have h0 : (s.sett.taken.isSome && !s.sett.inReserve) = false := by rw [hres]; simp
  rw [h0]
  change (if (!settTicks s) = true then s else _) = _
  rw [if_neg (by rw [hticks]; decide)]
  rfl

theorem settActs_quiet (ha : EdgeCount a) (hw : SettWhole s) : Quiet a s (settActs s) := by
  have h2 : Quiet a s (seqFresh (cycFresh s [64, 65]) [6]) := (Quiet.cycFresh s _).trans (.seqFresh ..)
  exact (((h2.trans (.settDrain ha 256 (hw.quiet h2.bad))).trans (.gwDeliver ha ..)).trans (.bankEdge ha ..)).trans (.mothsEnable ..)

/-- The edge of a Sett whose reserve has begun and whose records are whole. -/
theorem settEdge_rest (k : Nat) (lost : List Nat) (hw : SettWhole s) (hres : s.sett.inReserve = true) (hticks : settTicks s = true)
    {t : State} (ht : t = settEdge s k lost) :
    t.sett = (settTaken s k).sett ∧ t.tick = { s.tick with cycSett := 0 } ∧ t.store.sett = s.store.sett ∧
    BothScan t ((settDue t).filter (fun i => !hasNat i lost)) ∧
    cntGet t 0x181018 = satCount (cntGet s 0x181018) (k - settNext s) := by
  have ha : EdgeCount 0x181018 := .inr rfl
  rw [settEdge_begun k lost hres hticks] at ht
  generalize 0x181018 = a at ha ht ⊢
  have hcnt : cntGet (settBegun a s k) a = satCount (cntGet s a) (k - settNext s) := by
    have hd : k + 1 - settNext s - 1 = k - settNext s := by omega
    rw [← hd]
    exact cntGet_cntAdd (settTaken s k) a _
  have hq := settActs_quiet ha (s := settBegun a s k) hw
  rw [settSeen_of_whole (hw.quiet hq.bad)] at ht
  have hsett := hq.sett
  rw [if_pos ((settTicks_of_sett (s := s) ⟨by rw [hsett]; rfl, by rw [hsett]; rfl⟩).trans hticks)] at ht
  obtain ⟨hp, hst, hscan⟩ := settLists_rest ha (s := settActs (settBegun a s k)) lost
  rw [← ht] at hp hst hscan
  have hdue : settDue t = settDue (settActs (settBegun a s k)) := by rw [settDue, hst, hp.sett, ← settDue]
  have hbs : (settBegun a s k).sett = (settTaken s k).sett ∧ (settBegun a s k).tick = { s.tick with cycSett := 0 } ∧
      (settBegun a s k).store = s.store := ⟨rfl, rfl, rfl⟩
  obtain ⟨hbsett, hbtick, hbstore⟩ := hbs
  refine ⟨?_, ?_, ?_, ?_, ?_⟩
  · rw [hp.sett, hsett, hbsett]
  · rw [hp.tick, hq.tick, hbtick]
  · rw [hst, hq.store, hbstore]
  · rw [hdue]
    exact hscan
  · have hk : CntKept a (settBegun a s k) t := hq.cnt.trans hp.cnt
    exact Eq.trans hk hcnt

/-! The reserve. -/

theorem settSkip_rest {i : Nat} (h : tileBad s 5 2 (2 * i) = false) : settSkip s i = { s with store := { s.store with
    sett := (settSkip s i).store.sett } } := by
  unfold settSkip
  rw [if_neg (by rw [h]; decide)]

/-- Skips of records that are whole change those records alone. -/
theorem settSkips_rest (l : List Nat) (h : ∀ i ∈ l, tileBad s 5 2 (2 * i) = false) : forNats l settSkip s = { s with store := { s.store with
    sett := (forNats l settSkip s).store.sett } } := by
  induction l generalizing s with
  | nil => rfl
  | cons i l ih =>
    have h1 := settSkip_rest (h i List.mem_cons_self)
    have hbad : (settSkip s i).mem = s.mem := by rw [h1]
    have h2 := ih (s := settSkip s i) fun j hj => by
      rw [tileBad, hbad, ← tileBad]
      exact h j (List.mem_cons_of_mem _ hj)
    change forNats l settSkip (settSkip s i) = { s with store := { s.store with sett := (forNats l settSkip (settSkip s i)).store.sett } }
    generalize forNats l settSkip (settSkip s i) = u at h2 ⊢
    rw [h2, h1]

theorem settReserve_rest (hw : ∀ i, i ∈ (engGet s 64).scan ++ (engGet s 64).scanLost → tileBad s 5 2 (2 * i) = false) {t : State}
    (ht : t = settReserveStart s) :
    t.sett.inReserve = true ∧ BothScan t [] ∧ t.tick = s.tick ∧ t.store.recs = s.store.recs ∧
    cntGet t 0x181024 = satCount (cntGet s 0x181024) ((engGet s 64).scan ++ (engGet s 64).scanLost).length := by
  unfold settReserveStart at ht
  dsimp only at ht
  generalize hs2 : (if ((engGet s 64).run == .running && !(engGet s 64).dbg.halted &&
    ((engGet s 64).ctxOpen.isSome || !(engGet s 64).scan.isEmpty)) = true then
      cntAdd (settMap s (fun t => { t with inReserve := true })) 0x181014 1 else settMap s (fun t => { t with inReserve := true })) = s2 at ht
  have h2 : s2.sett.inReserve = true ∧ s2.tick = s.tick ∧ s2.store = s.store ∧ s2.mem = s.mem ∧ CntKept 0x181024 s s2 := by
    rw [← hs2]
    split
    · exact ⟨rfl, rfl, rfl, rfl, CntKept.trans (.of_cnt rfl) (.cntAdd (settMap s _) (by decide) 1)⟩
    · exact ⟨rfl, rfl, rfl, rfl, .of_cnt rfl⟩
  clear hs2
  obtain ⟨hres, htick, hstore, hmem, hcnt⟩ := h2
  obtain ⟨h64, h65⟩ := settPair_engGet (s := s2) (fun v => { v with scan := [], scanLost := [] })
  obtain ⟨hp, hst, hm⟩ := settPair_rest (a := 0x181024) (s := s2) (fun v => { v with scan := [], scanLost := [] }) (fun _ => rfl)
  generalize (engGet s 64).scan ++ (engGet s 64).scanLost = l at hw ht ⊢
  generalize forNats [64, 65] (fun z n => engMap z n (fun v => { v with scan := [], scanLost := [] })) s2 = s3 at ht h64 h65 hp hst hm
  have hskip := settSkips_rest (s := s3) l fun i hi => by
    rw [tileBad, hm, hmem, ← tileBad]
    exact hw i hi
  generalize forNats l settSkip s3 = s4 at ht hskip
  generalize 0x181024 = a at *
  have hfin : t.sett = s3.sett ∧ t.tick = s3.tick ∧ t.store.recs = s3.store.recs ∧ t.eng = s3.eng ∧ s4.cnt = s3.cnt := by
    rw [ht, hskip]
    exact ⟨rfl, rfl, rfl, rfl, rfl⟩
  obtain ⟨hsett', htick', hrecs, heng, hcnt4⟩ := hfin
  have hscan : BothScan t [] := by
    rw [BothScan, engGet_of_eng heng, engGet_of_eng heng, h64, h65]
    exact ⟨rfl, rfl⟩
  have hkept : cntGet s4 a = cntGet s a := by
    rw [cntGet, hcnt4, ← cntGet]
    exact hcnt.trans hp.cnt
  rw [hp.sett] at hsett'
  rw [hp.tick, htick] at htick'
  rw [hst, hstore] at hrecs
  refine ⟨hsett'.symm ▸ hres, hscan, htick', hrecs, ?_⟩
  rw [ht, cntGet_cntAdd, hkept]

/-! The statement. -/

/-- Settles O47: at its edge the Sett takes its point, its cells and its bank act without touching its records, and its lists are built
anew; at its reserve the lists empty and each entry left is skipped. -/
theorem settTickEdgeAndReserve : Obligations.SettTickEdgeAndReserve := by
  unfold Obligations.SettTickEdgeAndReserve
  intro s hticks
  refine ⟨fun lost hw hres hpoint => ?_, fun k hw htaken hres hpoint => ?_⟩
  · intro k
    have hx : exec (.settTickEdge [] lost) s = .next (settEdge s k lost) := by
      change execSettTickEdge s [] lost = _
      unfold execSettTickEdge
      rw [if_pos (by rw [hticks, decide_eq_true hpoint]; rfl)]
      rfl
    obtain ⟨hsett, htick, hstore, ⟨h64, h65⟩, hcnt⟩ := settEdge_rest k lost hw hres hticks rfl
    exact ⟨_, hx, hsett, htick, h64, h65.trans h64.symm, hstore, hcnt⟩
  · have hx : exec .settPublishReserve s = .next (settReserveStart s) := by
      change execSettPublishReserve s = _
      unfold execSettPublishReserve
      rw [htaken]
      dsimp only
      rw [if_pos (by rw [hticks, hres, decide_eq_true hpoint]; rfl)]
    obtain ⟨hres', ⟨h64, h65⟩, htick, hrecs, hcnt⟩ := settReserve_rest hw rfl
    exact ⟨_, hx, hres', h64, h65, htick, hrecs, hcnt⟩

end Sys2Proof.Machine
end

section
/-! The reserves of the main tick and of the sub-tick. -/

namespace Sys2Proof.Machine

variable {a : Nat} {s t u : State} {P : Nat → Prop}

/-! What a skip of a context changes. -/

/-- What an action of a reserve leaves: the clock and the Sett, the service state, the engines but for those that it wakes, and a freeze
that does not hold. -/
structure Skips (a : Nat) (s t : State) : Prop extends Paced a s t where
  svc : t.svc = s.svc
  woken : ∀ n, Woken (engGet s n) (engGet t n)
  thaws : Thaws s t

namespace Skips

theorem refl (s : State) : Skips a s s := ⟨.refl s, rfl, fun _ => .refl _, .refl s⟩

theorem trans (h : Skips a s t) (k : Skips a t u) : Skips a s u :=
  ⟨h.toPaced.trans k.toPaced, k.svc.trans h.svc, fun n => (h.woken n).trans (k.woken n), h.thaws.trans k.thaws⟩

theorem ite {c : Prop} [Decidable c] (h : Skips a s t) (k : Skips a s u) : Skips a s (if c then t else u) := by
  split
  · exact h
  · exact k

theorem foldl {α : Type} {f : State → α → State} (hf : ∀ z x, Skips a z (f z x)) (l : List α) (s : State) : Skips a s (l.foldl f s) := by
  induction l generalizing s with
  | nil => exact refl s
  | cons x l ih => exact (hf s x).trans (ih (f s x))

theorem forNats {f : State → Nat → State} (hf : ∀ z x, Skips a z (f z x)) (l : List Nat) (s : State) : Skips a s (forNats l f s) :=
  foldl hf l s

/-- A change of the records and of what waits to be published. -/
theorem of_parts (h : t = { s with store := t.store, pub := t.pub, field := t.field, cells := t.cells, chain := t.chain, trc := t.trc }) :
    Skips a s t where
  toPaced := .of_parts (by rw [h])
  svc := by rw [h]
  woken n := by
    have he : t.eng = s.eng := by rw [h]
    rw [engGet_of_eng he]
    exact .refl _
  thaws := .of_eng (by rw [h]) (by rw [h])

theorem of_quiet (h : Quiet a s t) (hl : Logged s t) (ht : Thaws s t) : Skips a s t := ⟨h.toPaced, hl.frame.svc, hl.woken, ht⟩

theorem cntAdd (s : State) {b : Nat} (h : a ≠ b) (k : Nat) : Skips a s (cntAdd s b k) := of_quiet (.cntAdd s h k) (.cntAdd ..) (.cntAdd ..)

end Skips

theorem Thaws.pulse (s : State) (x : Nat) : Thaws s (pulse s x) := (Thaws.srcSample s x true).trans (.srcSample _ x false)

theorem Thaws.fltWrite (s : State) (cls : Nat) (src a0 a1 : Word) : Thaws s (fltWrite s cls src a0 a1) := by
  unfold Machine.fltWrite
  generalize 0x40200 + 4 * cls = b
  extract_lets s1
  have h1 : Thaws s s1 := .cntAdd s b 1
  split
  · exact h1.trans (.of_eng rfl rfl)
  · split
    · exact h1.trans ((Thaws.cntAdd s1 0x40104 1).trans (.pulse ..))
    · exact h1.trans (.of_eng rfl rfl)

theorem Thaws.tileDetect (s : State) (cls inst tile reader : Nat) : Thaws s (tileDetect s cls inst tile reader) := by
  unfold Machine.tileDetect
  generalize 0xA010 + 4 * cls = b
  dsimp only
  generalize BitVec.ofNat 32 (tileKey cls inst tile) = w
  have h1 : Thaws s (Machine.cntAdd { s with mem := { s.mem with lastadr := w } } b 1) := .of_eng rfl rfl
  exact h1.trans (.fltWrite _ 2 w _ 0)

theorem recTileRead_far (hfar : 0x10088 ≤ a) (j : Nat) : a ≠ 0x6114 + homeOf j * 0x20 := by
  unfold homeOf
  omega

theorem EdgeCount.low (ha : EdgeCount a) : 0x10088 ≤ a := by
  unfold EdgeCount at ha
  omega

namespace Skips

variable (ha : EdgeCount a)
include ha

theorem pulse (s : State) (x : Nat) : Skips a s (pulse s x) := of_quiet (.pulse ha ..) (.pulse ..) (.pulse ..)

theorem tileDetect (s : State) (inst tile reader : Nat) : Skips a s (tileDetect s 2 inst tile reader) :=
  of_quiet (.tileDetect ha s 2 (by decide) ..) (.tileDetect ..) (.tileDetect ..)

theorem recTileRead (s : State) (i t reader : Nat) : Skips a s (recTileRead s i t reader).2 := by
  unfold Machine.recTileRead
  split
  · extract_lets j s1 two
    have h1 : Skips a s s1 := tileDetect ha ..
    split
    · exact h1.trans (cntAdd s1 (recTileRead_far ha.low j) 1)
    · split
      · exact h1.trans (tileDetect ha ..)
      · exact h1
  · exact refl s

theorem copyMerge (s0 : State) (t reader : Nat) (f alt : Rec → Rec) (seen : Nat) (s : State) (j : Nat) :
    Skips a s (copyMerge s0 t reader f alt seen s j) := by
  have hq : Skips a s (if j = seen then (true, s) else Machine.recTileRead s j t reader).2 := by
    split
    · exact refl s
    · exact recTileRead ha s j t reader
  have hput (z : State) (r : Rec) : Skips a z (recPut1 z j r) := of_parts rfl
  have hlow := ha.low
  unfold Machine.copyMerge
  exact ite (hq.trans (hput ..)) (hq.trans ((hput ..).trans (cntAdd _ (by omega) 1)))

theorem recMerge (s : State) (i t reader : Nat) (f alt : Rec → Rec) : Skips a s (recMerge s i t reader f alt).2 := by
  have hq : Skips a s (Machine.recTileRead s i t reader).2 := recTileRead ha s i t reader
  unfold Machine.recMerge
  dsimp only
  split
  · exact hq.trans (foldl (fun z j => copyMerge ha s t reader f alt _ z j) _ _)
  · exact hq

theorem recPutPart (s : State) (i t reader : Nat) (f : Rec → Rec) : Skips a s (recPutPart s i t reader f) := by
  have hq := recMerge ha s i t reader f id
  have hlow := ha.low
  unfold Machine.recPutPart
  exact ite hq (hq.trans (cntAdd _ (by omega) 1))

theorem pubTileWrite (s : State) (i : Nat) (f : Rec → Rec) : Skips a s (pubTileWrite s i f) := recPutPart ha ..

theorem ctxSkip (s : State) (i : Nat) : Skips a s (ctxSkip s i) := by
  unfold Machine.ctxSkip
  dsimp only
  exact ite (ite ((pubTileWrite ha ..).trans (of_parts rfl)) (pubTileWrite ha ..)) (refl s)

end Skips

/-! The lists at a reserve. -/

/-- What a reserve of the engines `P` changes: it empties scan lists of these engines, and of an engine it leaves all that decides an
overrun but its scan list. -/
structure Reserved (P : Nat → Prop) (s t : State) : Prop where
  svc : t.svc = s.svc
  tick : t.tick = s.tick
  thaws : Thaws s t
  open_ : ∀ n, (engGet t n).ctxOpen = (engGet s n).ctxOpen
  dbg : ∀ n, (engGet t n).dbg = (engGet s n).dbg
  run : ∀ n, (engGet t n).run = (engGet s n).run
  scan : ∀ n, (engGet t n).scan = (engGet s n).scan ∨ P n ∧ (engGet t n).scan = []

namespace Reserved

theorem refl (s : State) : Reserved P s s := ⟨rfl, rfl, .refl s, fun _ => rfl, fun _ => rfl, fun _ => rfl, fun _ => .inl rfl⟩

theorem trans (h : Reserved P s t) (k : Reserved P t u) : Reserved P s u where
  svc := k.svc.trans h.svc
  tick := k.tick.trans h.tick
  thaws := h.thaws.trans k.thaws
  open_ n := (k.open_ n).trans (h.open_ n)
  dbg n := (k.dbg n).trans (h.dbg n)
  run n := (k.run n).trans (h.run n)
  scan n := by
    obtain hk | hk := k.scan n
    · rw [hk]
      exact h.scan n
    · exact .inr hk

theorem mono {Q : Nat → Prop} (h : Reserved P s t) (hpq : ∀ n, P n → Q n) : Reserved Q s t :=
  { h with scan := fun n => (h.scan n).imp_right fun hk => ⟨hpq n hk.1, hk.2⟩ }

theorem forNats {f : State → Nat → State} {l : List Nat} (hf : ∀ z, ∀ x ∈ l, Reserved P z (f z x)) (s : State) :
    Reserved P s (forNats l f s) := by
  induction l generalizing s with
  | nil => exact refl s
  | cons x l ih => exact (hf s x List.mem_cons_self).trans (ih (fun z y hy => hf z y (List.mem_cons_of_mem _ hy)) (f s x))

theorem of_skips (h : Skips a s t) : Reserved P s t where
  svc := h.svc
  tick := h.tick
  thaws := h.thaws
  open_ n := by rw [(h.woken n).alike]
  dbg n := by rw [(h.woken n).alike]
  run n := by rw [(h.woken n).alike]
  scan n := .inl (by rw [(h.woken n).alike])

/-- An emptied list stays empty. -/
theorem scan_nil (h : Reserved P s t) {n : Nat} (hn : (engGet s n).scan = []) : (engGet t n).scan = [] := by
  obtain hk | hk := h.scan n
  · rw [hk, hn]
  · exact hk.2

theorem overruns (h : Reserved P s t) {n : Nat} (hn : ¬P n) : overruns t n = overruns s n := by
  obtain hk | hk := h.scan n
  · unfold Machine.overruns svcActive svcEng
    dsimp only
    rw [h.svc, h.dbg, h.run, h.open_, hk]
  · exact absurd hk.1 hn

theorem isFox (h : Reserved P s t) (n : Nat) : isFox t n = isFox s n := by
  unfold Machine.isFox isFastloop
  rw [h.svc, h.tick]

theorem frzTick (h : Reserved P s t) (hf : freezeOn s = false) (k : Nat) : frzTick t k = false := by
  unfold Machine.frzTick
  rw [h.thaws.2 hf, Bool.and_false]

end Reserved

/-- The entries left on a list skipped: that list is empty, and of the counters below only the cluster's count of skips changes. -/
theorem skipLeft_rest {n : Nat} (ha : EdgeCount a) (hne : a ≠ 0x10104 + cluOf n * 0x40) :
    Reserved (· = n) s (skipLeft s n) ∧ (engGet (skipLeft s n) n).scan = [] ∧ CntKept a s (skipLeft s n) := by
  unfold skipLeft
  extract_lets l s1
  have h1 : Reserved (· = n) s s1 := by
    refine ⟨rfl, rfl, .engMap s n fun _ => rfl, engMap_leaves (·.ctxOpen) fun _ => rfl, engMap_leaves (·.dbg) fun _ => rfl,
      engMap_leaves (·.run) fun _ => rfl, fun m => ?_⟩
    by_cases hm : m = n
    · refine .inr ⟨hm, ?_⟩
      rw [hm, engGet_engMap]
    · exact .inl (by rw [engGet_engMap_other _ hm])
  have hn : (engGet s1 n).scan = [] := by rw [engGet_engMap]
  have hc : CntKept a s s1 := .of_cnt rfl
  clear_value s1
  split
  · exact ⟨h1, hn, hc⟩
  · have hk : Skips a s1 (cntAdd (forNats l ctxSkip s1) (0x10104 + cluOf n * 0x40) l.length) :=
      (Skips.forNats (fun z i => .ctxSkip ha z i) l s1).trans (.cntAdd _ hne _)
    have hr : Reserved (· = n) s1 _ := .of_skips hk
    exact ⟨h1.trans hr, hr.scan_nil hn, hc.trans hk.cnt⟩

/-- A change of counters. -/
theorem Reserved.of_cnt (h : t = { s with cnt := t.cnt }) : Reserved P s t := by
  have he : t.eng = s.eng := by rw [h]
  have hg (n : Nat) : engGet t n = engGet s n := engGet_of_eng he n
  exact ⟨by rw [h], by rw [h], .of_eng (by rw [h]) he, fun n => by rw [hg], fun n => by rw [hg], fun n => by rw [hg], fun n => .inl (by rw [hg])⟩

/-- Each of the lists of some engines skipped. -/
theorem skipAll_rest (ha : EdgeCount a) {l : List Nat} (hne : ∀ n ∈ l, a ≠ 0x10104 + cluOf n * 0x40) (s : State) :
    Reserved (· ∈ l) s (forNats l skipLeft s) ∧ (∀ n ∈ l, (engGet (forNats l skipLeft s) n).scan = []) ∧
    CntKept a s (forNats l skipLeft s) := by
  induction l generalizing s with
  | nil => exact ⟨.refl s, fun _ h => absurd h (List.not_mem_nil), rfl⟩
  | cons m l ih =>
    obtain ⟨h1, hm, hc1⟩ := skipLeft_rest (s := s) ha (hne m List.mem_cons_self)
    obtain ⟨h2, hl, hc2⟩ := ih (fun n hn => hne n (List.mem_cons_of_mem _ hn)) (skipLeft s m)
    refine ⟨(h1.mono fun n hn => hn ▸ List.mem_cons_self).trans (h2.mono fun n hn => List.mem_cons_of_mem _ hn), fun n hn => ?_, hc1.trans hc2⟩
    obtain rfl | hn := List.mem_cons.mp hn
    · exact h2.scan_nil hm
    · exact hl n hn

/-- Some counters counted once each. -/
theorem countEach_cnt {l : List Nat} (hl : l.Nodup) (f : Nat → Nat) {n : Nat} (hinj : ∀ m ∈ l, f m = f n → m = n) (s : State) :
    cntGet (forNats l (fun z m => cntAdd z (f m) 1) s) (f n) = satCount (cntGet s (f n)) (b2n (decide (n ∈ l))) := by
  induction l generalizing s with
  | nil => exact (satCount_zero _).symm
  | cons m l ih =>
    obtain ⟨hm, hl⟩ := List.nodup_cons.mp hl
    have h2 := ih hl (fun q hq => hinj q (List.mem_cons_of_mem _ hq)) (cntAdd s (f m) 1)
    refine h2.trans ?_
    by_cases he : m = n
    · subst he
      rw [cntGet_cntAdd, decide_eq_false hm, decide_eq_true List.mem_cons_self]
      exact satCount_zero _
    · rw [cntGet_cntAdd_other s (fun h => he (hinj m List.mem_cons_self h.symm)) 1]
      congr 2
      rw [decide_eq_decide, List.mem_cons]
      exact ⟨Or.inr, fun h => h.resolve_left fun h => he h.symm⟩

theorem cntPut_cntKept (s : State) {b : Nat} (h : a ≠ b) (v : Word) : CntKept a s (cntPut s b v) := by
  unfold CntKept cntGet cntPut
  exact tblGet_tblSet_other _ h _ _

/-- The counter of the overruns of engine `n`. -/
def ovrAdr (n : Nat) : Nat := 0x10108 + n / 8 * 0x40 + 4 * (n % 8)

theorem ovrAdr_edge {n : Nat} (hn : n < 64) : EdgeCount (ovrAdr n) := by
  unfold EdgeCount ovrAdr
  omega

/-- The engines of cluster `k` outside the Fox group. -/
def cluEngines (s : State) (k : Nat) : List Nat := ((List.range 8).map (8 * k + ·)).filter (fun n => !isFox s n)

theorem mem_cluEngines {k n : Nat} : n ∈ cluEngines s k ↔ cluOf n = k ∧ isFox s n = false := by
  unfold cluEngines cluOf
  rw [List.mem_filter, List.mem_map, Bool.not_eq_true']
  refine and_congr_left fun _ => ⟨fun ⟨j, hj, h⟩ => ?_, fun h => ⟨n % 8, List.mem_range.mpr (by omega), by omega⟩⟩
  have := List.mem_range.mp hj
  omega

theorem nodup_cluEngines (k : Nat) : (cluEngines s k).Nodup :=
  (List.nodup_range.map fun i j h => by simpa using h).filter _

/-- The reserve of a cluster that is not frozen. -/
theorem cluReserve_rest {k : Nat} (hfrz : frzTick s k = false) {n : Nat} (hn : n < 64) :
    Reserved (fun m => cluOf m = k) s (cluReserve s k) ∧
    (n ∈ cluEngines s k → (engGet (cluReserve s k) n).scan = []) ∧
    cntGet (cluReserve s k) (ovrAdr n) = satCount (cntGet s (ovrAdr n)) (b2n (decide (n ∈ cluEngines s k) && overruns s n)) := by
  unfold cluReserve
  rw [hfrz, if_neg (by decide)]
  change let ovr := (cluEngines s k).filter (overruns s)
    let s1 := forNats ovr (fun z n => cntAdd z (0x10108 + k * 0x40 + 4 * (n % 8)) 1) s
    let s2 := if ovr.isEmpty then s1
      else cntPut (cntAdd s1 (0x10100 + k * 0x40) 1) (0x10128 + k * 0x40) (s.tick.tickn.setWidth 32)
    Reserved _ s (forNats (cluEngines s k) skipLeft s2) ∧ (_ → (engGet (forNats (cluEngines s k) skipLeft s2) n).scan = []) ∧
      cntGet (forNats (cluEngines s k) skipLeft s2) (ovrAdr n) = _
  intro ovr s1 s2
  have hclu (m : Nat) (hm : m ∈ cluEngines s k) : cluOf m = k := (mem_cluEngines.mp hm).1
  have hr1 : Reserved (· ∈ cluEngines s k) s s1 := .forNats (fun z _ _ => .of_cnt rfl) s
  have hr2 : Reserved (· ∈ cluEngines s k) s1 s2 := by
    simp only [s2]
    split
    · exact .refl s1
    · exact .of_cnt rfl
  have hc1 : cntGet s1 (ovrAdr n) = satCount (cntGet s (ovrAdr n)) (b2n (decide (n ∈ cluEngines s k) && overruns s n)) := by
    have hadr (m : Nat) (hm : m ∈ ovr) : 0x10108 + k * 0x40 + 4 * (m % 8) = ovrAdr m := by
      have := hclu m (List.mem_filter.mp hm).1
      unfold cluOf at this
      rw [ovrAdr, this]
    have hs1 : s1 = forNats ovr (fun z m => cntAdd z (ovrAdr m) 1) s := by
      simp only [s1]
      exact List.foldl_ext _ _ s fun z m hm => by rw [hadr m hm]
    rw [hs1, countEach_cnt ((nodup_cluEngines k).filter _) ovrAdr fun m _ h => by
      unfold ovrAdr at h
      omega]
    congr 2
    rw [Bool.eq_iff_iff, decide_eq_true_eq, List.mem_filter, Bool.and_eq_true, decide_eq_true_eq]
  have hc2 : CntKept (ovrAdr n) s1 s2 := by
    have h100 : ovrAdr n ≠ 0x10100 + k * 0x40 := by
      unfold ovrAdr
      omega
    have h128 : ovrAdr n ≠ 0x10128 + k * 0x40 := by
      unfold ovrAdr
      omega
    simp only [s2]
    split
    · exact .refl _ s1
    · exact (CntKept.cntAdd s1 h100 1).trans (cntPut_cntKept _ h128 _)
  obtain ⟨h3, hscan, hc3⟩ := skipAll_rest (ovrAdr_edge hn) (l := cluEngines s k) (fun m hm => by
    unfold ovrAdr
    omega) s2
  refine ⟨((hr1.trans hr2).trans h3).mono hclu, hscan n, ?_⟩
  exact Eq.trans (hc2.trans hc3) hc1

/-- The reserve of a cluster, frozen or not, changes lists of its own engines alone. -/
theorem cluReserve_reserved (k : Nat) : Reserved (fun m => cluOf m = k) s (cluReserve s k) := by
  by_cases hf : frzTick s k = true
  · unfold cluReserve
    rw [if_pos hf]
    exact .refl s
  · exact (cluReserve_rest (n := 0) (Bool.eq_false_iff.mpr hf) (by decide)).1

end Sys2Proof.Machine
end

section
/-! The main reserve over all clusters, and the reserve of a sub-tick. -/

namespace Sys2Proof.Machine

variable {a : Nat} {s t : State}

/-- The reserves of some clusters, none of them frozen: an engine of one of them outside the Fox group is left with no entries, and its
overrun is counted. -/
theorem cluReserves_rest {l : List Nat} (hl : l.Nodup) (hf : freezeOn s = false) {n : Nat} (hn : n < 64) (hfox : isFox s n = false) :
    Reserved (fun m => cluOf m ∈ l) s (forNats l cluReserve s) ∧
    (cluOf n ∈ l → (engGet (forNats l cluReserve s) n).scan = []) ∧
    cntGet (forNats l cluReserve s) (ovrAdr n) = satCount (cntGet s (ovrAdr n)) (b2n (decide (cluOf n ∈ l) && overruns s n)) := by
  induction l generalizing s with
  | nil => exact ⟨.refl s, fun h => absurd h List.not_mem_nil, (satCount_zero _).symm⟩
  | cons k l ih =>
    obtain ⟨hk, hl⟩ := List.nodup_cons.mp hl
    obtain ⟨h1, hscan1, hc1⟩ := cluReserve_rest (s := s) (k := k) (by rw [frzTick, hf, Bool.and_false]) hn
    obtain ⟨h2, hscan2, hc2⟩ := ih (s := cluReserve s k) hl (h1.thaws.2 hf) ((h1.isFox n).trans hfox)
    refine ⟨(h1.mono fun m hm => hm ▸ List.mem_cons_self).trans (h2.mono fun m hm => List.mem_cons_of_mem _ hm), fun hc => ?_, ?_⟩
    · obtain hc | hc := List.mem_cons.mp hc
      · exact h2.scan_nil (hscan1 (mem_cluEngines.mpr ⟨hc, hfox⟩))
      · exact hscan2 hc
    · refine hc2.trans ?_
      rw [hc1]
      by_cases hc : cluOf n = k
      · have hin : n ∈ cluEngines s k := mem_cluEngines.mpr ⟨hc, hfox⟩
        rw [decide_eq_true hin, decide_eq_false (hc ▸ hk), decide_eq_true (hc ▸ List.mem_cons_self)]
        exact satCount_zero _
      · have hin : n ∉ cluEngines s k := fun h => hc (mem_cluEngines.mp h).1
        rw [decide_eq_false hin, h1.overruns hc, Bool.false_and]
        have hmem : cluOf n ∈ k :: l ↔ cluOf n ∈ l := ⟨fun h => (List.mem_cons.mp h).resolve_left hc, List.mem_cons_of_mem _⟩
        rw [decide_eq_decide.mpr hmem]
        exact congrArg (fun v => satCount v _) (satCount_zero _)

/-- The start of the main reserve. -/
theorem reserveStart_rest {t : State} (ht : t = reserveStart s) : t.tick = { s.tick with inReserve := true } ∧
    (freezeOn s = false → ∀ n, n < 64 → isFox s n = false → (engGet t n).scan = [] ∧ (engGet t n).ctxOpen = (engGet s n).ctxOpen ∧
      cntGet t (ovrAdr n) = satCount (cntGet s (ovrAdr n)) (b2n (overruns s n))) := by
  unfold reserveStart at ht
  extract_lets ovr tk s1 s2 at ht
  let s0 : State := { s with tick := { s.tick with inReserve := true } }
  have h0 : s0.tick = { s.tick with inReserve := true } := rfl
  have hr1 : Reserved (fun _ => True) s0 s1 := .forNats (fun z k _ => (cluReserve_reserved k).mono fun _ _ => trivial) s0
  have hk (a : Nat) (ha : EdgeCount a) : Skips a s1 t := by
    rw [ht]
    exact (Skips.pulse ha s1 297).trans (.ite (.pulse ha ..) (.refl _))
  have hr2 : Reserved (fun _ => True) s1 t := .of_skips (hk (ovrAdr 0) (ovrAdr_edge (by decide)))
  refine ⟨hr2.tick.trans (hr1.tick.trans h0), fun hf n hn hfox => ?_⟩
  obtain ⟨-, hscan, hcnt⟩ := cluReserves_rest (s := s0) List.nodup_range hf hn hfox
  have hc : cluOf n ∈ List.range 8 := List.mem_range.mpr (by unfold cluOf; omega)
  refine ⟨hr2.scan_nil (hscan hc), (hr2.open_ n).trans (hr1.open_ n), ?_⟩
  rw [decide_eq_true hc, Bool.true_and] at hcnt
  exact Eq.trans (hk _ (ovrAdr_edge hn)).cnt hcnt

/-- The Fox engines are the last eight, where there are sub-ticks. -/
theorem mem_foxEngines (hl : isFastloop s = true) (hq : s.tick.subtick ≠ 0) {n : Nat} : n ∈ foxEngines s ↔ 56 ≤ n ∧ n < 64 := by
  have hfox : isFox s n = true ↔ 56 ≤ n ∧ n < 64 := by
    unfold isFox
    rw [hl, bne_iff_ne.mpr hq]
    simp
  unfold foxEngines
  rw [List.mem_filter, hfox, List.mem_map]
  refine ⟨fun h => h.2, fun h => ⟨⟨n - 56, List.mem_range.mpr (by omega), by omega⟩, h⟩⟩

theorem subReserveStart_rest (hl : isFastloop s = true) (hq : s.tick.subtick ≠ 0) {t : State} (ht : t = subReserveStart s) :
    t.tick = { s.tick with subReserve := true } ∧
    (freezeOn s = false → ∀ n, (56 ≤ n → n < 64 → (engGet t n).scan = []) ∧ (n < 56 → (engGet t n).scan = (engGet s n).scan)) ∧
    (freezeOn s = false → let ovr := (foxEngines s).filter (overruns s)
      cntGet t 0x102F0 = satCount (cntGet s 0x102F0) ovr.length ∧
      cntGet t 0x102C0 = satCount (cntGet s 0x102C0) (b2n (!ovr.isEmpty))) := by
  unfold subReserveStart at ht
  extract_lets tk s0 ovr s1 s2 at ht
  have hfrz0 : freezeOn s = false → frzTick s 7 = false := fun hf => by rw [frzTick, hf, Bool.and_false]
  by_cases hfrz : frzTick s 7 = true
  · rw [if_pos hfrz] at ht
    have hno : ¬freezeOn s = false := fun hf => Bool.eq_false_iff.mp (hfrz0 hf) hfrz
    exact ⟨by rw [ht], fun hf => absurd hf hno, fun hf => absurd hf hno⟩
  rw [if_neg hfrz] at ht
  have hmem (n : Nat) : n ∈ foxEngines s ↔ 56 ≤ n ∧ n < 64 := mem_foxEngines hl hq
  have hs1 : Reserved (· ∈ foxEngines s) s0 s1 := .of_cnt rfl
  have hk (a : Nat) (ha : EdgeCount a) (z : State) : Skips a z (pulse z 298) := .pulse ha z 298
  have hs2 : Reserved (· ∈ foxEngines s) s1 s2 := by
    simp only [s2]
    split
    · exact .refl s1
    · exact Reserved.trans (t := cntPut (cntAdd s1 0x102C0 1) 0x102E8 (s.tick.tickn.setWidth 32)) (.of_cnt rfl)
        (.of_skips (hk (ovrAdr 0) (ovrAdr_edge (by decide)) _))
  have hskip (a : Nat) (hc : a = 0x102F0 ∨ a = 0x102C0) : Reserved (· ∈ foxEngines s) s2 t ∧
      (∀ n ∈ foxEngines s, (engGet t n).scan = []) ∧ CntKept a s2 t := by
    rw [ht]
    refine skipAll_rest (.inl (by omega)) (fun n hn => ?_) s2
    have := (hmem n).mp hn
    unfold cluOf
    omega
  obtain ⟨h3, hscan, hcF⟩ := hskip _ (.inl rfl)
  obtain ⟨-, -, hcC⟩ := hskip _ (.inr rfl)
  have hr : Reserved (· ∈ foxEngines s) s0 t := (hs1.trans hs2).trans h3
  refine ⟨hr.tick, fun _ n => ⟨fun h56 h64 => hscan n ((hmem n).mpr ⟨h56, h64⟩), fun h56 => ?_⟩, fun _ => ?_⟩
  · exact (hr.scan n).resolve_right fun h => absurd ((hmem n).mp h.1).1 (by omega)
  · have h1F : cntGet s1 0x102F0 = satCount (cntGet s 0x102F0) ovr.length := cntGet_cntAdd s0 0x102F0 ovr.length
    have h1C : CntKept 0x102C0 s0 s1 := .cntAdd s0 (by decide) ovr.length
    have h2 : CntKept 0x102F0 s1 s2 ∧ cntGet s2 0x102C0 = satCount (cntGet s1 0x102C0) (b2n (!ovr.isEmpty)) := by
      simp only [s2]
      split
      · next he =>
        rw [he]
        exact ⟨.refl _ s1, (satCount_zero _).symm⟩
      · next he =>
        rw [Bool.not_eq_true] at he
        rw [he]
        have hp (a : Nat) (ha : EdgeCount a) (hne : a ≠ 0x102E8) (z : State) (v : Word) :
            CntKept a z (pulse (cntPut z 0x102E8 v) 298) := (cntPut_cntKept z hne v).trans (hk a ha _).cnt
        refine ⟨(CntKept.cntAdd s1 (by decide) 1).trans (hp _ (.inl (by decide)) (by decide) _ _), ?_⟩
        exact Eq.trans (hp 0x102C0 (.inl (by decide)) (by decide) _ _) (cntGet_cntAdd s1 0x102C0 1)
    refine ⟨Eq.trans (h2.1.trans hcF) h1F, ?_⟩
    refine Eq.trans hcC (h2.2.trans ?_)
    exact congrArg (fun v => satCount v _) h1C

end Sys2Proof.Machine
end

section
/-! What the edge of the main tick or of a sub-tick does with cells, lists, remaps and the trace, and what of the clock it leaves. -/

namespace Sys2Proof.Machine

variable {a : Nat} {s t : State}

/-- A counter of the main tick. -/
def MainCount (a : Nat) : Prop := 0x10088 ≤ a ∧ a < 0x10300

theorem MainCount.edge (ha : MainCount a) : EdgeCount a := .inl ha

namespace Paced

theorem cntAdd (s : State) {b : Nat} (h : a ≠ b) (k : Nat) : Paced a s (cntAdd s b k) := (Quiet.cntAdd s h k).toPaced

theorem cntPut (s : State) {b : Nat} (h : a ≠ b) (v : Word) : Paced a s (cntPut s b v) :=
  .of_logged (.cntPut s b v) rfl (cntPut_cntKept s h v)

/-- A change of an engine that leaves whether it runs. -/
theorem engMap (s : State) (n : Nat) {f : Engine → Engine} (hr : ∀ e, (f e).run = e.run := by intro _; rfl) :
    Paced a s (engMap s n f) := ⟨rfl, rfl, rfl, rfl, rfl, engMap_leaves (·.run) hr 66, fun _ h => h, .of_cnt rfl⟩

/-! Routing. -/

variable (ha : MainCount a)
include ha

theorem flyOut (s : State) (d : Nat) (c : OCell) : Paced a s (flyOut s d c) := by
  unfold MainCount at ha
  exact ite (cntAdd s (by omega) 1) (of_parts rfl)

theorem routeLocal (s : State) (o : OCell) : Paced a s (routeLocal s o) := by
  have hc (z : State) : Paced a z (Machine.cntAdd z 0x400C 1) := by
    unfold MainCount at ha
    exact cntAdd z (by omega) 1
  have hfly (z : State) (d : Nat) : Paced a z (flyTo z d o) := of_parts rfl
  unfold Machine.routeLocal
  extract_lets c i s1 s2 s3
  refine ite (hc s) ?_
  have h1 : Paced a s s1 := ite (hfly ..) (refl s)
  have h2 : Paced a s s2 := h1.trans (ite (flyOut ha ..) (refl s1))
  have h3 : Paced a s s3 := h2.trans (ite (flyOut ha ..) (refl s2))
  refine h3.trans (ite (ite ?_ (ite (hc s3) (foldl (fun z d => hfly z d) _ s3))) (refl s3))
  cases mothOfCtx s i with
  | none => exact hc s3
  | some m => exact flyOut ha ..

theorem routeCell (s : State) (o : OCell) : Paced a s (routeCell s o) := by
  have hc (b : Nat) (hb : b < 0x10088) : Paced a s (Machine.cntAdd s b 1) := by
    unfold MainCount at ha
    exact cntAdd s (by omega) 1
  unfold Machine.routeCell
  extract_lets k c d o1 s1
  refine ite (refl s) (ite (hc 0x4004 (by decide)) (ite (ite (hc 0x4010 (by decide)) (flyOut ha ..)) ?_))
  have h1 : Paced a s s1 := ite (flyOut ha ..) (refl s)
  exact h1.trans (routeLocal ha s1 o1)

theorem countPort (s : State) (p off k : Nat) : Paced a s (Machine.cntAdd s (chnAdr p off) k) := by
  unfold MainCount at ha
  exact cntAdd s (by unfold chnAdr; omega) k

omit ha in
theorem frameSend (s : State) (p type src hops : Nat) (wrap past : Bool) (bodies : List W128) :
    Paced a s (frameSend s p type src hops wrap past bodies) := by
  unfold Machine.frameSend portSet
  split <;> exact of_parts rfl

theorem unicastSend (s : State) (p src hops : Nat) (wrap : Bool) (bodies : List W128) :
    Paced a s (unicastSend s p src hops wrap bodies) := by
  have h1 := countPort ha s p 0x1C 1
  unfold Machine.unicastSend
  dsimp only
  exact ite (frameSend ..) (ite (countPort ha ..) (ite (h1.trans (frameSend ..)) (h1.trans (countPort ha ..))))

omit ha in
theorem broadcastSend (s : State) (c : W128) : Paced a s (broadcastSend s c) := ite (frameSend ..) (ite (frameSend ..) (refl s))

theorem chainFlush (s : State) : Paced a s (chainFlush s) := by
  unfold Machine.chainFlush
  extract_lets mine go s1
  have h1 : Paced a s s1 := of_parts rfl
  exact ite h1 (h1.trans (foldl (fun z f => ite (broadcastSend ..) (unicastSend ha ..)) go s1))

theorem outqPass (s : State) (n : Nat) : Paced a s (outqPass s n) :=
  (engMap s n).trans (Quiet.qCount ha.edge _ n _ (by decide)).toPaced

theorem queueTake (s : State) (n : Nat) : Paced a s (queueTake s n).2 := by
  by_cases hn : n = 64
  · rw [hn]
    exact (Quiet.queueTake_sett s).toPaced
  · unfold Machine.queueTake outqTake
    rw [if_neg hn]
    dsimp only
    exact ite ((outqPass ha s n).trans (outqPass ha _ (n + 1))) (outqPass ha s n)

theorem routerStep (s : State) (k : Nat) : Paced a s (routerStep s k) := by
  have hrot (z : State) (n : Nat) : Paced a z (rotAfter z k n) := of_parts rfl
  unfold Machine.routerStep
  split
  · exact refl s
  · next n _ =>
    have hq := queueTake ha s n
    split
    · next o z heq =>
      rw [heq] at hq
      exact (hq.trans (routeCell ha z o)).trans ((chainFlush ha _).trans (hrot ..))
    · next z heq =>
      rw [heq] at hq
      exact hq.trans (hrot ..)

theorem routerDrain (es : List Nat) (want : OCell → Bool) (m : Nat) (s : State) : Paced a s (routerDrain es want m s) := by
  induction m generalizing s with
  | zero => exact refl s
  | succ m ih =>
    unfold Machine.routerDrain
    exact ite (refl s) ((forNats (fun z k => routerStep ha z k) _ s).trans (ih _))

theorem pinsDeliver (s : State) (es banks : List Nat) : Paced a s (pinsDeliver s es banks) :=
  (routerDrain ha es _ _ s).trans (Quiet.gwDeliver ha.edge _ banks).toPaced

/-! Lists and copies. -/

omit ha in
theorem edgeCopies (s : State) (on : Nat → Bool) (skip : List Nat) : Paced a s (edgeCopies s on skip) := of_parts rfl

theorem parityRecord (s : State) (m i e : Nat) : Paced a s (parityRecord s m i e) := (Quiet.parityRecord ha.edge s m i e).toPaced

omit ha in
theorem ctlPut (s : State) (i : Nat) (v : Word) : Paced a s (ctlPut s i v) := foldl (fun _ _ => of_parts rfl) _ s

theorem ctlRewrite (s : State) (i : Nat) : Paced a s (ctlRewrite s i) := by
  unfold Machine.ctlRewrite
  dsimp only
  have h1 := (parityRecord ha s 2 (homeOf i) (i % 2 ^ 14)).trans (Skips.recTileRead ha.edge _ i 0 4).toPaced
  exact ite (h1.trans (ctlPut ..)) h1

theorem ctlsRewrite (s : State) (l : List Nat) : Paced a s (ctlsRewrite s l) := ite (refl s) (forNats (fun z i => ctlRewrite ha z i) l s)

theorem listMaxNote (s : State) {n : Nat} (hn : n < 64) : Paced a s (listMaxNote s n) := by
  unfold Machine.listMaxNote
  unfold MainCount at ha
  exact ite (cntPut s (by unfold cluOf; omega) _) (refl s)

theorem scanLose (s : State) (n i : Nat) : Paced a s (scanLose s n i) := by
  unfold Machine.scanLose
  exact ite ((Quiet.listDrop ha.edge s n _).toPaced.trans (engMap _ n)) (refl s)

omit ha in
theorem forMem {f : State → Nat → State} {l : List Nat} (hf : ∀ z, ∀ x ∈ l, Paced a z (f z x)) (s : State) :
    Paced a s (Machine.forNats l f s) := by
  induction l generalizing s with
  | nil => exact refl s
  | cons x l ih => exact (hf s x List.mem_cons_self).trans (ih (fun z y hy => hf z y (List.mem_cons_of_mem _ hy)) (f s x))

theorem listsBuild (s : State) {es : List Nat} (hes : ∀ n ∈ es, n < 64) (f : EdgeFails) : Paced a s (listsBuild s es f) := by
  unfold Machine.listsBuild
  extract_lets s1 idx s2
  have h1 : Paced a s s1 := forNats (fun z n => ite (refl z) (engMap z n)) es s
  have hput (z : State) (i : Nat) : Paced a z (scanPut z i) := foldl (fun z n => engMap z n) _ z
  have h2 : Paced a s1 s2 := (forNats hput idx s1).trans (forMem (fun z n hn => listMaxNote ha z (hes n hn)) _)
  exact (h1.trans h2).trans (foldl (fun z (q : Nat × Nat) => scanLose ha z q.1 q.2) _ s2)

theorem edgeSeen (s : State) (n : Nat) : Paced a s (edgeSeen s n) := (Quiet.edgeSeen ha.edge s n).toPaced

omit ha in
theorem cycKeep (old s : State) (es : List Nat) : Paced a s (cycKeep old s es) := forNats (fun z n => engMap z n) es s

/-! The trace and completions. -/

theorem trcTick (s : State) (k sub : Nat) (v : W64) : Paced a s (trcTick s k sub v) := by
  unfold Machine.trcTick trcPut
  dsimp only
  refine ite (ite (of_parts rfl) (Paced.trans (t := trcSet s k _) (of_parts rfl) (cntAdd _ ?_ 1))) (refl s)
  unfold MainCount at ha
  unfold trcAdr
  omega

theorem pulse (s : State) (x : Nat) : Paced a s (pulse s x) := (Quiet.pulse ha.edge s x).toPaced

theorem hmbComplete (s : State) (tag status : Nat) : Paced a s (hmbComplete s tag status) := by
  unfold Machine.hmbComplete
  split
  · exact refl s
  · extract_lets s0
    have h0 : Paced a s s0 := by
      unfold MainCount at ha
      exact ite (cntAdd s (by omega) 1) (refl s)
    have h1 : Paced a s0 { s0 with mbx := { s0.mbx with cpl := s0.mbx.cpl ++ [(tag, status)] } } :=
      ⟨rfl, rfl, rfl, rfl, rfl, rfl, fun x hx => List.mem_append_left _ hx, .of_cnt rfl⟩
    exact (h0.trans h1).trans (pulse ha _ 307)

theorem remapAll (s : State) (main : Bool) : Paced a s (remapAll s main) := by
  unfold Machine.remapAll
  extract_lets due
  refine Paced.trans (t := svcActs s (s.svc.acts.filter fun p => !due p)) (of_parts rfl) (foldl (fun z p => ?_) _ _)
  split
  · next m sp fresh _ => exact Paced.trans (t := mothRemap z m sp fresh) (of_parts rfl) (hmbComplete ha _ _ _)
  · exact refl z

end Paced

end Sys2Proof.Machine
end

section
/-! The edge of a sub-tick. -/

namespace Sys2Proof.Machine

variable {a : Nat} {s t : State}

theorem lt_of_mem_foxEngines {n : Nat} (h : n ∈ foxEngines s) : n < 64 := by
  obtain ⟨j, hj, rfl⟩ := List.mem_map.mp (List.mem_filter.mp h).1
  have := List.mem_range.mp hj
  omega

/-- The state as sub-tick edge `i` first makes it. -/
def subTaken (s : State) (i : Nat) : State := { s with tick := { s.tick with subI := i, subReserve := false, cycSub := 0 } }

/-- A sub-tick edge whose reserve has begun changes of the clock its index alone. -/
theorem subEdge_paced (ha : MainCount a) (i : Nat) (f : EdgeFails) (hres : s.tick.subReserve = true) :
    Paced a (subTaken s i) (subEdge s i f) := by
  unfold subEdge
  rw [if_pos hres]
  extract_lets s0 tk s1 frz es sc sd s2 g s3 s4 s5
  have h1 : Paced a (subTaken s i) s1 := .pulse ha ..
  have hc : Paced a s1 sc := .ite (.cycKeep ..) ((Quiet.cycFresh s1 es).toPaced.trans (.forNats (fun z n => .engMap z n) es _))
  have h2 : Paced a sc s2 := ((Paced.pinsDeliver ha ..).trans
    (.forNats (fun z b => (Quiet.bankEdge ha.edge z b false).toPaced) _ sd)).trans (.remapAll ha ..)
  have h12 : Paced a (subTaken s i) s2 := (h1.trans hc).trans h2
  split
  · unfold MainCount at ha
    exact h12.trans (.cntAdd s2 (by omega) 1)
  · have h3 : Paced a s2 s3 := (Paced.ctlsRewrite ha ..).trans (.edgeCopies ..)
    have h4 : Paced a s3 s4 := .listsBuild ha s3 (fun n hn => lt_of_mem_foxEngines (List.mem_filter.mp hn).1) g
    have h5 : Paced a s4 s5 := .forNats (fun z n => .edgeSeen ha z n) _ s4
    exact (((h12.trans h3).trans h4).trans h5).trans (.trcTick ha ..)

theorem tilesFail_rest (l : List (Nat × Nat × Nat)) : tilesFail s l = { s with mem := { s.mem with bad := (tilesFail s l).mem.bad } } := by
  unfold tilesFail
  generalize l.filter _ = m
  induction m generalizing s with
  | nil => rfl
  | cons q m ih => exact ih (s := tileSpoil s q.1 q.2.1 q.2.2)

/-- Settles O57: cluster by cluster the main reserve skips what is left and counts each overrun; the reserve of a sub-tick does so for
the Fox group; and a sub-tick edge takes its index without touching the main tick. -/
theorem reservesAndSubticks : Obligations.ReservesAndSubticks := by
  unfold Obligations.ReservesAndSubticks
  intro s e hedge hrun
  refine ⟨fun hres hpoint => ?_, fun hl hq hi hres fails => ?_, fun hl hq hres hpoint => ?_⟩
  · have hx : exec .publishReserveStart s = .next (reserveStart s) := by
      change execPublishReserveStart s = _
      unfold execPublishReserveStart
      rw [hedge]
      dsimp only
      rw [if_pos (by rw [hrun, hres, decide_eq_true hpoint]; rfl)]
    obtain ⟨htick, hrest⟩ := reserveStart_rest (s := s) rfl
    exact ⟨_, hx, htick, hrest⟩
  · have hx : exec (.foxSubtickEdge fails) s = .next (subEdge (tilesFail s fails.tiles) (subReached s e) fails) := by
      change execFoxSubtickEdge s fails = _
      unfold execFoxSubtickEdge
      rw [hedge]
      dsimp only
      rw [if_pos (by rw [hrun, hl, bne_iff_ne.mpr hq, decide_eq_true hi]; rfl)]
    have hz := tilesFail_rest (s := s) fails.tiles
    generalize tilesFail s fails.tiles = z at hz hx
    have htick : z.tick = s.tick := by rw [hz]
    have hb : z.bstate = s.bstate := by rw [hz]
    have hs : z.sett = s.sett := by rw [hz]
    have hp := subEdge_paced (a := 0x10088) ⟨by decide, by decide⟩ (subReached s e) fails (htick ▸ hres)
    refine ⟨_, hx, hp.tick.trans ?_, hp.bstate.trans hb, hp.sett.trans hs⟩
    rw [subTaken, htick]
  · have hx : exec .foxSubtickReserve s = .next (subReserveStart s) := by
      change execFoxSubtickReserve s = _
      unfold execFoxSubtickReserve
      rw [hedge]
      dsimp only
      rw [if_pos (by rw [hrun, hl, bne_iff_ne.mpr hq, hres, decide_eq_true hpoint]; rfl)]
    obtain ⟨htick, hscan, hcnt⟩ := subReserveStart_rest (s := s) hl hq rfl
    exact ⟨_, hx, htick, hscan, hcnt⟩

end Sys2Proof.Machine
end

section
namespace Sys2Proof.Machine
open Host

/-! O56 fails where a migration is pending to a number past the last engine that the service table holds as ACTIVE: with engine 12256 the
high-water mark of the ready lists of its cluster, which the cells that move to it raise, stands at the offset of the counter of the
points passed over. -/

/-- A block in RUN at its schedule point 0, with one cell of context 0 at engine 0 and the migration of that context to number 12256
due. -/
def migrateFar : State :=
  { State.reset with
    bstate := .run
    tick := { State.reset.tick with running := true, units := 40, firstEdge := false }
    eng := [(0, { inq := [{ cell := 0, arr := true }] })]
    store := { State.reset.store with ctl := [(0, 0x80000000)] }
    svc := { State.reset.svc with acts := [{ tag := 0, act := .migrate 12256 0 1 0 }], eng := [(12256, { st := 1 })] } }

theorem exec_migrateFar : nextWith (exec (.mainTickEdge {}) migrateFar) (fun t => cntGet t 0x10088 == 1) = true := by decide +kernel

/-- Refutes O56: no point is passed over at this edge, and TCK.SKIPEDGE reads 1 after it. -/
theorem not_mainTickEdgeTakesItsPoint : ¬ Obligations.MainTickEdgeTakesItsPoint := by
  unfold Obligations.MainTickEdgeTakesItsPoint
  intro h
  obtain ⟨hrun, -⟩ := h migrateFar {} (by decide +kernel)
  obtain ⟨t, ht, -, -, -, -, -, -, -, -, hcnt, -⟩ := hrun (.inl rfl) (by decide +kernel) rfl rfl
  have h1 : cntGet t 0x10088 = 1 := eq_of_beq (nextWith_of_next exec_migrateFar ht)
  have h0 : satCount (cntGet migrateFar 0x10088)
      (((ktb migrateFar).toNat - migrateFar.tick.phase.toNat) / periodNs migrateFar - migrateFar.tick.nextK) = 0 := by decide +kernel
  rw [h0, h1] at hcnt
  exact absurd hcnt (by decide)

end Sys2Proof.Machine
end

section
/-! What the stops, starts and power changes of a release and of the entry into HOLD leave: the clock, the block state, the release in hand
and the profile. -/

namespace Sys2Proof.Machine

/-- The clock, the block state, the release and the profile are as they were. -/
structure Steady (s t : State) : Prop where
  tick : t.tick = s.tick
  bstate : t.bstate = s.bstate
  rel : t.rel = s.rel
  profile : t.svc.profile = s.svc.profile

variable {s t u : State}

namespace Steady

theorem refl (s : State) : Steady s s := ⟨rfl, rfl, rfl, rfl⟩

theorem trans (h : Steady s t) (k : Steady t u) : Steady s u :=
  ⟨k.tick.trans h.tick, k.bstate.trans h.bstate, k.rel.trans h.rel, k.profile.trans h.profile⟩

theorem ite {c : Prop} [Decidable c] (h : Steady s t) (k : Steady s u) : Steady s (if c then t else u) := by
  split
  · exact h
  · exact k

theorem foldl {α : Type} {f : State → α → State} (hf : ∀ z x, Steady z (f z x)) (l : List α) (s : State) : Steady s (l.foldl f s) := by
  induction l generalizing s with
  | nil => exact refl s
  | cons x l ih => exact (hf s x).trans (ih (f s x))

theorem forNats {f : State → Nat → State} (hf : ∀ z x, Steady z (f z x)) (l : List Nat) (s : State) : Steady s (forNats l f s) :=
  foldl hf l s

theorem of_logged (h : Logged s t) : Steady s t :=
  ⟨h.frame.tick, h.frame.bstate, h.frame.rel, congrArg Svc.profile h.frame.svc⟩

theorem of_skips {a : Nat} (h : Skips a s t) : Steady s t := ⟨h.tick, h.bstate, h.rel, congrArg Svc.profile h.svc⟩

theorem of_freeze (h : FreezeFrame s t) : Steady s t := by
  rw [h]
  exact ⟨rfl, rfl, rfl, rfl⟩

theorem cntAdd (s : State) (a k : Nat) : Steady s (cntAdd s a k) := ⟨rfl, rfl, rfl, rfl⟩

theorem engMap (s : State) (n : Nat) (f : Engine → Engine) : Steady s (engMap s n f) := ⟨rfl, rfl, rfl, rfl⟩

theorem engSet (s : State) (n : Nat) (e : Engine) : Steady s (engSet s n e) := ⟨rfl, rfl, rfl, rfl⟩

theorem settMap (s : State) (f : Sett → Sett) : Steady s (settMap s f) := ⟨rfl, rfl, rfl, rfl⟩

theorem mothMap (s : State) (m : Nat) (f : Moth → Moth) : Steady s (mothMap s m f) := ⟨rfl, rfl, rfl, rfl⟩

theorem mothSet (s : State) (m : Nat) (v : Moth) : Steady s (mothSet s m v) := ⟨rfl, rfl, rfl, rfl⟩

theorem svcEngMap (s : State) (n : Nat) (f : SvcEng → SvcEng) : Steady s (svcEngMap s n f) := ⟨rfl, rfl, rfl, rfl⟩

theorem hmbComplete (s : State) (tag status : Nat) : Steady s (hmbComplete s tag status) := of_logged (.hmbComplete ..)

theorem freezeStep (s z : State) : Steady z (freezeStep s z) := of_freeze (.freezeStep z)

theorem ctlPut (s : State) (i : Nat) (v : Word) : Steady s (ctlPut s i v) :=
  foldl (f := fun z j => ctlPut1 z j v) (fun _ _ => ⟨rfl, rfl, rfl, rfl⟩) _ s

/-! Records and locks. -/

theorem recMerge (s : State) (i t reader : Nat) (f alt : Rec → Rec) : Steady s (recMerge s i t reader f alt).2 :=
  of_skips (.recMerge (.inr rfl) s i t reader f alt)

theorem badgerCtl (s : State) (i : Nat) (v : Word) : Steady s (badgerCtl s i v) :=
  (of_skips (.recPutPart (.inr rfl) s i 0 4 _)).trans (ctlPut ..)

theorem ctlZero (s : State) (pick : Nat → Bool) : Steady s (ctlZero s pick) := forNats (fun z i => badgerCtl z i 0) _ s

theorem lockFree (s : State) (i : Nat) : Steady s (lockFree s i) := by
  unfold Machine.lockFree lockFreeBy
  dsimp only
  have h := recMerge s i 0 4 (fun r => id (recPutWord r 0x18 (lockWord none))) id
  exact ite h (h.trans ⟨rfl, rfl, rfl, rfl⟩)

theorem locksRelease (s : State) (n : Nat) : Steady s (locksRelease s n) :=
  forNats (fun z i => (lockFree z i).trans (cntAdd ..)) _ s

theorem tgtForce (s : State) (t : Nat) : Steady s (tgtForce s t) := forNats (fun z x => of_logged (.srcComplete z x true)) _ s

/-! The trace. -/

theorem trcSet (s : State) (k : Nat) (t : Trc) : Steady s (trcSet s k t) := ⟨rfl, rfl, rfl, rfl⟩

theorem trcEngMark (s : State) (n typ bit sub : Nat) (w1 w2 w3 : Word) : Steady s (trcEngMark s n typ bit sub w1 w2 w3) :=
  ite (of_freeze (.trcPut ..)) (refl s)

theorem trcAfterDrain (s : State) (k : Nat) : Steady s (trcAfterDrain s k) := ite (trcSet ..) (ite (trcSet ..) (refl s))

theorem sinkTake (s : State) (k : Nat) (r : W128) (l : List W128) : Steady s (sinkTake s k r l) := ite ⟨rfl, rfl, rfl, rfl⟩ ⟨rfl, rfl, rfl, rfl⟩

theorem trcDrain (s : State) (k : Nat) (bad : Bool) : Steady s (trcDrain s k bad) := by
  unfold Machine.trcDrain
  split
  · exact refl s
  · refine ite (Steady.trans ?_ (trcAfterDrain ..)) (ite ((sinkTake ..).trans (trcAfterDrain ..)) (refl s))
    exact ((trcSet s k _).trans (cntAdd ..)).trans (of_logged (.fltWrite ..))

theorem trcFlush (n m : Nat) (s : State) : Steady s (trcFlush n m s) := by
  induction m generalizing s with
  | zero => exact refl s
  | succ m ih =>
    unfold Machine.trcFlush
    exact ite (refl s) ((trcDrain ..).trans (ih _))

/-! Power. -/

theorem winReset (s : State) (lo hi : Nat) : Steady s (winReset s lo hi) := ⟨rfl, rfl, rfl, rfl⟩

theorem tilesClean (s : State) (cls inst : Nat) : Steady s (tilesClean s cls inst) := ite ⟨rfl, rfl, rfl, rfl⟩ ⟨rfl, rfl, rfl, rfl⟩

theorem bankReset (s : State) (b : Nat) (cfg : Bool) : Steady s (bankReset s b cfg) := ⟨rfl, rfl, rfl, rfl⟩

/-- A change of the Sett, its battery record, its store and its cells. -/
theorem settParts (s : State) (v : Sett) (b : Battery) (k : Nat) (st : Store) (ce : Cells) :
    Steady s { s with sett := v, bat := b, free := k, store := st, cells := ce } := ⟨rfl, rfl, rfl, rfl⟩

theorem domClear (s : State) (d : Nat) : Steady s (domClear s d) := by
  unfold Machine.domClear
  split
  · exact (((engSet s d _).trans (tilesClean ..)).trans (tilesClean ..)).trans (tilesClean ..)
  · split
    · extract_lets k out st s1 s2 cl s3
      have h1 : Steady s s1 := ⟨rfl, rfl, rfl, rfl⟩
      have h2 : Steady s1 s2 := forNats (f := queuesClear) (fun z n => engMap z n _) _ s1
      clear_value s2
      have h3 : Steady s2 s3 := ⟨rfl, rfl, rfl, rfl⟩
      exact ((h1.trans h2).trans h3).trans (tilesClean ..)
    · refine ite ((bankReset ..).trans (winReset ..)) ?_
      split
      · extract_lets s1 st ce s2 s3
        have h1 : Steady s s1 := (engSet s 64 _).trans (engSet _ 65 _)
        have h2 : Steady s s2 := h1.trans (settParts s1 _ _ _ _ _)
        exact (((h2.trans (winReset ..)).trans (tilesClean ..)).trans (tilesClean ..)).trans (tilesClean ..)
      · refine ite ((bankReset ..).trans (winReset ..)) (ite ⟨rfl, rfl, rfl, rfl⟩ (ite ⟨rfl, rfl, rfl, rfl⟩ (ite ⟨rfl, rfl, rfl, rfl⟩
          (ite ?_ (refl s)))))
        exact Steady.trans (t := { s with mem := { s.mem with staging := [] } }) ⟨rfl, rfl, rfl, rfl⟩ (tilesClean ..)

theorem domSet (s : State) (d v : Nat) : Steady s (domSet s d v) := ⟨rfl, rfl, rfl, rfl⟩

theorem domOff (s : State) (d : Nat) : Steady s (domOff s d) := (domClear ..).trans (domSet ..)

theorem offKeep (s : State) (n : Nat) : Steady s (offKeep s n) := ⟨rfl, rfl, rfl, rfl⟩

theorem domOn (s : State) (d : Nat) : Steady s (domOn s d) := by
  have h := ((domClear s d).trans (domSet _ d 1)).trans (offKeep _ d)
  unfold Machine.domOn
  exact ite (h.trans (engMap ..)) (ite (h.trans (((engMap ..).trans (engMap ..)).trans (settMap ..))) h)

theorem engOffNow (s : State) (n : Nat) : Steady s (engOffNow s n) :=
  (((trcEngMark ..).trans (offKeep ..)).trans (domOff ..)).trans (svcEngMap ..)

theorem engDomOff (s : State) (n : Nat) : Steady s (engDomOff s n) :=
  ite ((trcFlush n 64 s).trans (ite (engOffNow ..) ⟨rfl, rfl, rfl, rfl⟩)) (domOff ..)

theorem engOff (s : State) (n : Nat) : Steady s (engOff s n) := by
  unfold Machine.engOff
  exact (engDomOff s n).trans (svcEngMap ..)

theorem cluOffCheck (s : State) (k : Nat) : Steady s (cluOffCheck s k) := ite (domOff ..) (refl s)

end Steady

end Sys2Proof.Machine
end

section
/-! Engines stopped and started, the entry into HOLD, and a release that fails. -/

namespace Sys2Proof.Machine

variable {s t u : State}

namespace Steady

theorem pulse (s : State) (x : Nat) : Steady s (pulse s x) := of_logged (.pulse ..)

theorem suspectTile (s : State) (n k : Nat) : Steady s (suspectTile s n k) := by
  unfold Machine.suspectTile engCount
  exact ite ((ite (refl s) (cntAdd ..)).trans (engMap ..)) (refl s)

theorem fetchLeft (s : State) (n : Nat) (inHand : Bool) : Steady s (fetchLeft s n inHand) := by
  unfold Machine.fetchLeft aheadNote
  dsimp only
  exact ite (ite (refl s) (forNats (fun z k => ite (suspectTile z n k) (refl z)) _ s)) (refl s)

theorem engineStop (s : State) (n : Nat) : Steady s (engineStop s n) := by
  unfold Machine.engineStop dropPending
  exact Steady.trans (((fetchLeft s n false).trans (engSet ..)).trans (engMap ..)) (freezeStep ..)

theorem scanClear (s : State) (n : Nat) : Steady s (scanClear s n) := engMap ..

theorem enginesStop (s : State) (l : List Nat) : Steady s (enginesStop s l) :=
  forNats (fun z n => (engineStop z n).trans (scanClear ..)) l s

theorem engineStart (s : State) (n : Nat) (x : EngEntry) : Steady s (engineStart s n x) := by
  unfold Machine.engineStart predForm
  dsimp only
  exact ((engMap ..).trans (engMap ..)).trans (freezeStep ..)

theorem bankFill (s : State) (n : Nat) (l : List (List Byte)) : Steady s (bankFill s n l) := engMap ..

/-! The Sett. -/

theorem batMap (s : State) (f : Battery → Battery) : Steady s (batMap s f) := ⟨rfl, rfl, rfl, rfl⟩

theorem settFlags (s : State) : Steady s (settFlags s) := settMap ..

theorem settFlagsSeen (s : State) : Steady s (settFlagsSeen s) := ite (settFlags s) (refl s)

theorem settNotLegal (s : State) : Steady s (settNotLegal s) := settMap ..

theorem settLoss (s : State) : Steady s (settLoss s) := by
  unfold Machine.settLoss
  exact ite (refl s) ((((settMap ..).trans (batMap ..)).trans (settFlagsSeen ..)).trans (settNotLegal ..))

theorem settCheck (s : State) : Steady s (settCheck s) := by
  unfold Machine.settCheck
  exact Steady.trans (ite (settMap ..) ((settMap ..).trans (settLoss ..))) (settFlags ..)

theorem settEvent (s : State) (type item : Nat) (old new : Word) (f : BatHdr → BatHdr) : Steady s (settEvent s type item old new f) :=
  ite (refl s) ((settMap ..).trans (batMap ..))

theorem sealClose (s : State) : Steady s (sealClose s) := by
  unfold Machine.sealClose
  dsimp only
  refine ite ?_ (refl s)
  exact (((settMap s _).trans (forNats (fun z n => engMap z n _) [64, 65] _)).trans (freezeStep ..)).trans (settEvent ..)

theorem settHalt (s : State) : Steady s (settHalt s) := forNats (fun z n => engMap z n _) [64, 65] s

theorem settIdle (s : State) : Steady s (settIdle s) :=
  ite ((((settHalt s).trans (sealClose ..)).trans (settMap ..)).trans (settNotLegal ..)) (refl s)

/-! The entry into HOLD. -/

theorem abortRetired (s : State) (n : Nat) : Steady s (abortRetired s n) :=
  forNats (fun z m => ((locksRelease z m).trans (tgtForce ..)).trans (svcEngMap ..)) _ s

theorem actAbort (s : State) (p : SvcPend) : Steady s (actAbort s p) := by
  unfold Machine.actAbort
  split
  · exact (cntAdd ..).trans (abortRetired ..)
  · exact forNats (fun z n => (cntAdd ..).trans (abortRetired ..)) _ s
  · exact (forNats (fun z n => engMap z n _) _ s).trans (hmbComplete ..)
  · exact hmbComplete ..
  · exact (abortRetired ..).trans (hmbComplete ..)
  · exact Steady.trans (ite ((forNats (fun z n => engOff z n) _ s).trans (cluOffCheck ..)) (refl s)) (hmbComplete ..)
  · exact hmbComplete ..

theorem fillDrop (s : State) : Steady s (fillDrop s) :=
  ite (Steady.trans (t := { s with svc := { s.svc with fill := false } }) ⟨rfl, rfl, rfl, rfl⟩ (ctlZero ..)) (refl s)

theorem swapsEnd (s : State) : Steady s (swapsEnd s) := forNats (fun z n => engMap z n _) _ s

end Steady

/-- A pending change dropped leaves the tick generator as it is. -/
theorem pendAbort_running : (pendAbort s).tick.running = s.tick.running := by
  unfold pendAbort
  split
  · rfl
  · next c _ =>
    have h := (Steady.fillDrop { s with tick := { s.tick with pend := none } }).trans (.hmbComplete _ c.tag 2)
    rw [h.tick]

theorem holdFrom_running : (holdFrom s).tick.running = s.tick.running := by
  unfold holdFrom
  extract_lets s2
  have h0 : Steady s (svcActs s []) := ⟨rfl, rfl, rfl, rfl⟩
  have h2 : Steady s s2 := h0.trans (.foldl (fun z p => .actAbort z p) _ _)
  rw [(setBState_frame (s := pendAbort (swapsEnd s2)) .hold).tick, pendAbort_running, (Steady.swapsEnd s2).tick, h2.tick]

theorem holdEnter_running : (holdEnter s).tick.running = false := by
  unfold holdEnter stopAll stopOuter
  extract_lets s1
  rw [holdFrom_running, ((Steady.enginesStop _ _).trans (.settIdle _)).tick]

/-- The end of a release that fails. -/
structure Failed (cause tile : Nat) (t : State) : Prop where
  bstate : t.bstate = .hold
  fcause : t.rel.fcause = cause
  phase : t.rel.phase = 5
  running : t.tick.running = false
  failtile : cause = 2 ∨ cause = 5 → t.rel.failtile = tile

theorem relFail_failed (s : State) (cause tile status : Nat) : Failed cause tile (relFail s cause tile status) := by
  unfold relFail
  extract_lets tag s1 rl s2
  have h1 : Steady (holdEnter s) s1 := (Steady.of_logged (.fltWrite ..)).trans (.cntAdd ..)
  have hb : (holdEnter s).bstate = .hold := holdFrom_bstate
  have hrun : (holdEnter s).tick.running = false := holdEnter_running
  generalize holdEnter s = z at h1 hb hrun
  clear_value s1
  have h2 := Logged.hmbComplete s2 tag status
  refine ⟨?_, ?_, ?_, ?_, fun hc => ?_⟩
  · rw [h2.frame.bstate]
    exact h1.bstate.trans hb
  · rw [h2.frame.rel]
  · rw [h2.frame.rel]
  · rw [h2.frame.tick]
    exact (congrArg Tick.running h1.tick).trans hrun
  · rw [h2.frame.rel]
    exact if_pos hc

end Sys2Proof.Machine
end

section
/-! The steps of the copy of a release. -/

namespace Sys2Proof.Machine

variable {s t u : State}

namespace Steady

/-! The tiles written. -/

theorem tileCure (s : State) (cls inst tile : Nat) : Steady s (tileCure s cls inst tile) := ite ⟨rfl, rfl, rfl, rfl⟩ ⟨rfl, rfl, rfl, rfl⟩

theorem engTilePut (s : State) (n a : Nat) (bs : List Byte) : Steady s (engTilePut s n a bs) := by
  unfold Machine.engTilePut
  exact (engMap ..).trans (tileCure ..)

theorem pinCfgWrite (s : State) (p : Nat) (v : Word) : Steady s (pinCfgWrite s p v) := ⟨rfl, rfl, rfl, rfl⟩

theorem of_gated (h : Gated s t) : Steady s t := by
  rw [h]
  exact ⟨rfl, rfl, rfl, rfl⟩

theorem mothOffWrite (s : State) (m : Nat) (f : Moth → Moth) : Steady s (mothOffWrite s m f) := ite (cntAdd ..) (mothMap ..)

theorem mothCtlWrite (s : State) (m : Nat) (v : Word) : Steady s (mothCtlWrite s m v) := by
  unfold Machine.mothCtlWrite
  extract_lets mo m1 q touched s1 m2 s2
  exact ite (ite ((mothSet ..).trans (cntAdd ..)) (mothSet ..)) ((mothSet ..).trans (forNats (fun z _ => of_gated (.gwServe z _)) _ _))

theorem mothPoke (s : State) (m o : Nat) (v : Word) : Steady s (mothPoke s m o v) := by
  unfold Machine.mothPoke
  split
  · exact mothCtlWrite ..
  · unfold mothPinsWrite
    exact ite ((mothOffWrite ..).trans (cntAdd ..)) (mothOffWrite ..)
  · exact mothOffWrite ..
  · exact mothOffWrite ..
  · exact mothOffWrite ..
  · exact mothOffWrite ..
  · exact ite (cntAdd ..) (mothMap ..)
  · exact mothOffWrite ..
  · exact mothMap ..
  · exact refl s

theorem mothImemPut (s : State) (m i : Nat) (v : Word) : Steady s (mothImemPut s m i v) := ite (cntAdd ..) (mothMap ..)

theorem bankLoaded (b tiles o : Nat) (s : State) : Steady s (bankLoaded b tiles o s) := ite (forNats (fun z m => mothMap z m _) _ s) (refl s)

theorem mothTile (s : State) (b pins o : Nat) (bs : List Byte) : Steady s (mothTile s b pins o bs) := by
  unfold Machine.mothTile
  split
  · exact forNats (fun z i => ite (pinCfgWrite ..) (refl z)) _ s
  · dsimp only
    refine Steady.trans ?_ (bankLoaded ..)
    split
    · exact ((((((((mothPoke ..).trans (mothPoke ..)).trans (mothPoke ..)).trans (mothPoke ..)).trans (mothPoke ..)).trans (mothPoke ..)).trans
        (mothPoke ..))).trans (mothMap ..)
    · exact forNats (fun z i => mothImemPut ..) _ s

theorem halfPut (s : State) (i half : Nat) (bs : List Byte) : Steady s (halfPut s i half bs) :=
  foldl (fun z j => Steady.trans (t := recPut1 z j _) ⟨rfl, rfl, rfl, rfl⟩ (tileCure ..)) _ s

theorem ctxTilePut (s : State) (i half : Nat) (bs : List Byte) : Steady s (ctxTilePut s i half bs) :=
  ite ((halfPut ..).trans (ctlPut ..)) (halfPut ..)

theorem storeSett (s : State) (v : Tbl Rec) : Steady s { s with store := { s.store with sett := v } } := ⟨rfl, rfl, rfl, rfl⟩

theorem settTilePut (s : State) (img : Image) (o : Nat) (bs : List Byte) : Steady s (settTilePut s img o bs) := by
  have hboth (z : State) (a : Nat) : Steady z (Machine.engTilePut (Machine.engTilePut z 64 a bs) 65 a bs) :=
    (engTilePut ..).trans (engTilePut ..)
  unfold Machine.settTilePut
  dsimp only
  refine ite (hboth ..) (ite (hboth ..) (ite ?_ (ite (mothTile ..) ((settMap s _).trans (settFlagsSeen ..)))))
  exact (storeSett s _).trans (tileCure ..)

theorem stepWrite (s : State) (p : PStep) (bs : List Byte) (crc : Word) : Steady s (stepWrite s p bs crc) := by
  have href (z : State) (k : Nat) : Steady z { z with mem := { z.mem with refs := tblSet none k (some crc) z.mem.refs } } :=
    ⟨rfl, rfl, rfl, rfl⟩
  unfold Machine.stepWrite
  extract_lets ref
  cases p with
  | sett o k => exact settTilePut ..
  | moth b o k => exact mothTile ..
  | ctx i half k =>
    dsimp only
    have h0 := (ctxTilePut s i half bs).trans (href _ (tileKey 2 (homeOf i) (2 * (i % 2 ^ 14) + half)))
    have h1 := Steady.ite (c := isMirrored s = true) (h0.trans (href _ (tileKey 2 (homeOf (mirrorOf i)) (2 * (mirrorOf i % 2 ^ 14) + half)))) h0
    exact ite (h1.trans ⟨rfl, rfl, rfl, rfl⟩) h1
  | eng n a k => exact forNats (fun z m => (engTilePut z m a bs).trans (href ..)) _ s
  | _ => exact refl s

/-! The steps that copy no tile. -/

theorem stepAct (s : State) (p : PStep) : Steady s (stepAct s p) := by
  unfold Machine.stepAct
  dsimp only
  cases p with
  | fill n => exact bankFill ..
  | start n => exact (engineStart ..).trans (engMap ..)
  | settStart =>
    dsimp only
    exact ((forNats (fun z n => ((bankFill z n _).trans (engineStart ..)).trans (engMap ..)) [64, 65] s).trans (settMap ..)).trans
      (settFlagsSeen ..)
  | _ => exact refl s

end Steady

end Sys2Proof.Machine
end

section
/-! A release in COPY: its plan, its tiles, and the statement about it. -/

namespace Sys2Proof.Machine

variable {s t u : State}

/-! The plan, from the present step on. -/

/-- The instruction memories are as they were. -/
structure Loaded (s t : State) : Prop where
  imem : ∀ n, (engGet t n).imem = (engGet s n).imem

theorem Loaded.trans (h : Loaded s t) (k : Loaded t u) : Loaded s u := ⟨fun n => (k.imem n).trans (h.imem n)⟩

theorem Loaded.engMap (n : Nat) {f : Engine → Engine} (hf : ∀ e, (f e).imem = e.imem := by intro _; rfl) : Loaded s (engMap s n f) :=
  ⟨engMap_leaves (·.imem) hf⟩

theorem Loaded.of_eng (h : t.eng = s.eng) : Loaded s t := ⟨fun n => by rw [engGet_of_eng h]⟩

theorem Loaded.settMap (s : State) (f : Sett → Sett) : Loaded s (settMap s f) := .of_eng rfl

theorem Loaded.forNats {f : State → Nat → State} (hf : ∀ z x, Loaded z (f z x)) (l : List Nat) (s : State) : Loaded s (forNats l f s) := by
  induction l generalizing s with
  | nil => exact .of_eng rfl
  | cons x l ih => exact (hf s x).trans (ih (f s x))

theorem bankFill_loaded (n : Nat) (l : List (List Byte)) : Loaded s (bankFill s n l) := by
  refine Loaded.engMap n fun e => ?_
  unfold bankPut
  split <;> rfl

theorem engineStart_loaded (n : Nat) (x : EngEntry) : Loaded s (engineStart s n x) := by
  unfold engineStart predForm
  dsimp only
  have hfrz (z : State) : Loaded z (freezeStep s z) := ⟨fun m => by rw [freezeStep_frozen (s := s) z m]⟩
  exact ((Loaded.engMap n).trans (Loaded.engMap n)).trans (hfrz _)

theorem settFlagsSeen_loaded : Loaded s (settFlagsSeen s) := by
  unfold settFlagsSeen
  split
  · exact .of_eng rfl
  · exact .of_eng rfl

/-- A step that copies no tile leaves the instruction memories. -/
theorem stepAct_loaded (p : PStep) : Loaded s (stepAct s p) := by
  have hstart (z : State) (n : Nat) (x : EngEntry) : Loaded z (engMap (engineStart z n x) n (fun e => { e with fresh := true })) :=
    (engineStart_loaded n x).trans (.engMap n)
  have hfill (z : State) (n : Nat) (l : List (List Byte)) (x : EngEntry) :
      Loaded z (engMap (engineStart (bankFill z n l) n x) n (fun e => { e with fresh := true })) := (bankFill_loaded n l).trans (hstart _ n x)
  unfold stepAct
  dsimp only
  cases p with
  | fill n => exact bankFill_loaded ..
  | start n => exact hstart ..
  | settStart =>
    dsimp only
    exact ((Loaded.forNats (fun z n => hfill z n _ _) [64, 65] s).trans (.settMap ..)).trans settFlagsSeen_loaded
  | _ => exact .of_eng rfl

/-- What the steps that copy no tile do to a release: it goes on by some steps, and at the end of its plan to VERIFY. -/
structure Planned (s t : State) : Prop where
  tick : t.tick = s.tick
  bstate : t.bstate = s.bstate
  profile : t.svc.profile = s.svc.profile
  rel : t.rel = { s.rel with step := t.rel.step, phase := t.rel.phase }
  step : s.rel.step ≤ t.rel.step
  phase : t.rel.phase = s.rel.phase ∨ t.rel.phase = 3
  loaded : Loaded s t

theorem planGo_planned (l : List PStep) : Planned s (planGo l s) := by
  induction l generalizing s with
  | nil => exact ⟨rfl, rfl, rfl, rfl, Nat.le_refl _, .inr rfl, .of_eng rfl⟩
  | cons p l ih =>
    unfold planGo
    split
    · exact ⟨rfl, rfl, rfl, rfl, Nat.le_refl _, .inl rfl, .of_eng rfl⟩
    · extract_lets s1
      have h1 : Steady s s1 := .stepAct s p
      have hl : Loaded s s1 := stepAct_loaded p
      clear_value s1
      have h2 := ih (s := { s1 with rel := { s1.rel with step := s1.rel.step + 1 } })
      generalize planGo l { s1 with rel := { s1.rel with step := s1.rel.step + 1 } } = t at h2
      obtain ⟨htick, hb, hp, hr, hs, hph, hld⟩ := h2
      dsimp only at htick hb hp hr hs hph
      rw [h1.rel] at hr hs hph
      exact ⟨htick.trans h1.tick, hb.trans h1.bstate, hp.trans h1.profile, hr, by omega, hph, hl.trans ⟨hld.imem⟩⟩

/-! One tile. -/

/-- The instruction memory after a whole-tile write there. -/
theorem engTilePut_imem (m : Nat) {k : Nat} (hk : k < 0x10000000) (h64 : k % 64 = 0) (bs : List Byte) :
    (engGet (engTilePut s m k bs) m).imem = memPut (engGet s m).imem k bs := by
  have hd : decide (0x10000000 ≤ k) = false := decide_eq_false (by omega)
  have ha : 64 * (k % 0x10000000 / 64) = k := by omega
  unfold engTilePut
  dsimp only
  rw [engGet_of_eng (tileCure_rest _ _ _).1, engGet_engMap, hd, ha, if_neg (by decide)]

theorem engTilePut_other {m n : Nat} (h : n ≠ m) (k : Nat) (bs : List Byte) : engGet (engTilePut s m k bs) n = engGet s n := by
  unfold engTilePut
  dsimp only
  rw [engGet_of_eng (tileCure_rest _ _ _).1, engGet_engMap_other _ h]

/-- The whole-tile write of an engine section to engine `q`, with its reference. -/
def sectPut (k : Nat) (bs : List Byte) (want : Word) (z : State) (q : Nat) : State :=
  { engTilePut z q k bs with mem := { (engTilePut z q k bs).mem with
    refs := tblSet none (tileKey (engAt q k).1 (engAt q k).2.1 (engAt q k).2.2) (some want) (engTilePut z q k bs).mem.refs } }

/-- A step of an engine section writes its tile to each engine that the section loads. -/
theorem stepWrite_reads {n k o : Nat} {bs : List Byte} (want : Word) (hk : k < 0x20000) (h64 : k % 64 = 0) (hbs : bs.length = 64) {m : Nat}
    (hm : m ∈ loadEngs s.rel.img n) : memBytes (engGet (stepWrite s (.eng n k o) bs want) m).imem k 64 = bs := by
  have hput (z : State) (q r : Nat) : engGet (sectPut k bs want z q) r = engGet (engTilePut z q k bs) r := rfl
  have hself (z : State) : memBytes (engGet (sectPut k bs want z m) m).imem k 64 = bs := by
    rw [hput, engTilePut_imem m (by omega) h64, ← hbs]
    exact memBytes_memPut ..
  have key (l : List Nat) (z : State) (h : m ∈ l ∨ memBytes (engGet z m).imem k 64 = bs) :
      memBytes (engGet (forNats l (sectPut k bs want) z) m).imem k 64 = bs := by
    induction l generalizing z with
    | nil => exact h.resolve_left List.not_mem_nil
    | cons q l ih =>
      refine ih (sectPut k bs want z q) ?_
      by_cases hq : m = q
      · exact .inr (hq ▸ hself z)
      · refine h.imp (fun h => (List.mem_cons.mp h).resolve_left hq) fun h => ?_
        rw [hput, engTilePut_other hq]
        exact h
  exact key (loadEngs s.rel.img n) s (.inl hm)

end Sys2Proof.Machine
end

section
/-! The commands of a release. -/

namespace Sys2Proof.Machine

variable {s t u : State}

/-- A tile whose bytes match its check word is written, and the plan goes on. -/
theorem copyTile_copied {p : PStep} {k : Nat} {bytes bs : List Byte} {tcrc want : Word} (hsrc : tileSource s k bytes tcrc = some (bs, want))
    (hlen : bs.length = 64) (hcrc : crc32c bs = want) (hx : ∀ i o, p = .ctx i 0 o → ctlXown (bytesWord bs 0x14) = false) :
    let s1 := stepWrite s p bs want
    let s2 := { s1 with rel := { s1.rel with copied := s1.rel.copied + 1, crcs := tblSet 0 k want s1.rel.crcs, step := s1.rel.step + 1 } }
    copyTile s p k bytes tcrc = planGo (planAt s2) s2 := by
  unfold copyTile
  rw [hsrc]
  dsimp only
  rw [if_neg (fun h => h.elim (· hlen) (· hcrc))]
  refine if_neg ?_
  split
  · next i o => rw [hx i o rfl, Bool.false_and]; exact Bool.false_ne_true
  · exact Bool.false_ne_true

/-- What a copied tile leaves. -/
theorem copyTile_rest {p : PStep} {k : Nat} {bytes bs : List Byte} {tcrc want : Word} (hsrc : tileSource s k bytes tcrc = some (bs, want))
    (hlen : bs.length = 64) (hcrc : crc32c bs = want) (hx : ∀ i o, p = .ctx i 0 o → ctlXown (bytesWord bs 0x14) = false) :
    (copyTile s p k bytes tcrc).bstate = s.bstate ∧ (copyTile s p k bytes tcrc).rel.copied = s.rel.copied + 1 ∧
    s.rel.step < (copyTile s p k bytes tcrc).rel.step ∧ tblGet 0 k (copyTile s p k bytes tcrc).rel.crcs = want ∧
    Loaded (stepWrite s p bs want) (copyTile s p k bytes tcrc) := by
  have hw : Steady s (stepWrite s p bs want) := .stepWrite ..
  rw [copyTile_copied hsrc hlen hcrc hx]
  generalize stepWrite s p bs want = s1 at hw ⊢
  dsimp only
  generalize hs2 : ({ s1 with rel := { s1.rel with copied := s1.rel.copied + 1, crcs := tblSet 0 k want s1.rel.crcs, step := s1.rel.step + 1 } }
    : State) = s2
  have hrel : s2.rel = { s.rel with copied := s.rel.copied + 1, crcs := tblSet 0 k want s.rel.crcs, step := s.rel.step + 1 } := by
    rw [← hs2, ← hw.rel]
  have hb : s2.bstate = s1.bstate := by rw [← hs2]
  have hl : Loaded s1 s2 := by
    rw [← hs2]
    exact .of_eng rfl
  have hp : Planned s2 (planGo (planAt s2) s2) := planGo_planned _
  generalize planGo (planAt s2) s2 = t at hp
  have hstep := hp.step
  have hr := hp.rel
  rw [hrel] at hr hstep
  refine ⟨hp.bstate.trans (hb.trans hw.bstate), by rw [hr], Nat.lt_of_lt_of_le (Nat.lt_succ_self _) hstep, ?_, hl.trans hp.loaded⟩
  rw [hr]
  exact tblGet_tblSet_self ..

/-! The start of a release. -/

namespace Steady

theorem relEngine (img : Image) (s : State) (n : Nat) : Steady s (relEngine img s n) := by
  unfold Machine.relEngine
  dsimp only
  split
  · exact Steady.trans (ite (offKeep ..) (domOn ..)) (svcEngMap ..)
  · exact Steady.trans (ite (offKeep ..) (domOn ..)) (svcEngMap ..)
  · exact (engDomOff ..).trans (svcEngMap ..)

theorem relPower (s : State) (d : Nat) : Steady s (relPower s d) := by
  have h1 : Steady s { s with svc := { s.svc with reqOff := delNat d s.svc.reqOff } } := ⟨rfl, rfl, rfl, rfl⟩
  exact ite h1 (h1.trans (domOn ..))

theorem relDomains (img : Image) (s : State) : Steady s (relDomains img s) :=
  (forNats (fun z d => domOn z d) _ s).trans (forNats (fun z d => relPower z d) _ _)

theorem mirSet (s : State) (v : Nat) : Steady s (mirSet s v) := ⟨rfl, rfl, rfl, rfl⟩

theorem settVerify (s : State) (img : Image) : Steady s (settVerify s img) := by
  unfold Machine.settVerify
  exact ite ((settMap ..).trans (settFlagsSeen ..)) (ite (((settMap ..).trans (bankReset ..)).trans (settCheck ..)) (refl s))

end Steady

/-- The release as it stands once the image under pre-check has become the one in hand. -/
def relTaken (s : State) (img : Image) : Rel :=
  { s.rel with
    img := img, next := none, phase := 2, fcause := 0, step := 0, copied := 0, crcs := [], readback := false,
    identOk := (settSect img).isNone, atEdge := false }

/-- The image under pre-check taken as the one in hand. -/
def relHeld (s : State) (img : Image) : State :=
  let s0 := relLeave img s
  { s0 with
    rel := relTaken s img,
    svc := { s.svc with profile := img.profile, vlowreq := img.profile == 4, fill := false, spare := relSpares img,
                        cost := relCosts s.io.keys img },
    tick := { s.tick with units := img.period, subtick := img.subtick },
    mem := { s0.mem with refs := [] },
    store := { s0.store with ctlEdge := [] } }

/-- Engines, domains, banks and records as the image asks for them. -/
def relCleared (img : Image) (s : State) : State :=
  let s2 := relDomains img (forNats (List.range 64) (relEngine img) s)
  let s3 := mirSet s2 (if img.profile = 2 then 1 else 0)
  ctlZero (forNats (List.range 6) (fun z b => bankReset z b true) s3) (fun i => !supplied img i)

/-- VERIFY entered, with the generator running. -/
def relOpened (img : Image) (s : State) : State := settVerify (tickStart (setBState s .verify)) img

theorem relBegin_eq {img : Image} (hnext : s.rel.next = some img) :
    relBegin s = planGo (planAt (relOpened img (relCleared img (relHeld s img)))) (relOpened img (relCleared img (relHeld s img))) := by
  unfold relBegin
  rw [hnext]
  rfl

theorem relCleared_steady (img : Image) : Steady s (relCleared img s) :=
  ((((Steady.forNats (fun z n => .relEngine img z n) _ s).trans (.relDomains ..)).trans (.mirSet ..)).trans
    (.forNats (fun z b => .bankReset z b true) _ _)).trans (.ctlZero ..)

/-- A release that begins. -/
theorem relBegin_rest {img : Image} (hnext : s.rel.next = some img) {t : State} (ht : t = relBegin s) :
    t.bstate = .verify ∧ t.rel.img = img ∧ t.rel.next = none ∧ (t.rel.phase = 2 ∨ t.rel.phase = 3) ∧ t.rel.copied = 0 ∧
    t.svc.profile = img.profile ∧ t.tick.units = img.period ∧ t.tick.subtick = img.subtick ∧ t.tick.running = true ∧
    t.tick.firstEdge = true := by
  rw [relBegin_eq hnext] at ht
  have h5 : Steady (relHeld s img) (relCleared img (relHeld s img)) := relCleared_steady img
  generalize relCleared img (relHeld s img) = s5 at h5 ht
  unfold relOpened at ht
  have hb : (setBState s5 .verify).bstate = .verify := setBState_bstate _
  have hf := setBState_frame (s := s5) .verify
  generalize setBState s5 .verify = s6 at hb hf ht
  have h7 : Steady (tickStart s6) (settVerify (tickStart s6) img) := .settVerify ..
  generalize settVerify (tickStart s6) img = s7 at h7 ht
  have hp : Planned s7 t := ht ▸ planGo_planned _
  have hr := hp.rel
  have hph := hp.phase
  have hr7 : s7.rel = relTaken s img := h7.rel.trans (hf.rel.trans h5.rel)
  have htick : t.tick = (tickStart s6).tick := hp.tick.trans h7.tick
  have ht6 : s6.tick = { s.tick with units := img.period, subtick := img.subtick } := hf.tick.trans h5.tick
  rw [tickStart, ht6] at htick
  rw [hr7] at hr hph
  refine ⟨hp.bstate.trans (h7.bstate.trans hb), by rw [hr]; rfl, by rw [hr]; rfl, hph, by rw [hr]; rfl, ?_, by rw [htick], by rw [htick],
    by rw [htick], by rw [htick]⟩
  exact hp.profile.trans (h7.profile.trans ((congrArg Svc.profile hf.svc).trans h5.profile))

/-! The statement. -/

theorem mem_loadEngs {img : Image} {n : Nat} : (img.profile ≠ 1 → n ∈ loadEngs img n) ∧
    (img.profile = 1 → n % 2 = 0 → n ∈ loadEngs img n ∧ n + 1 ∈ loadEngs img n) := by
  unfold loadEngs
  refine ⟨fun h => ?_, fun h h2 => ?_⟩
  · rw [if_neg h]
    exact List.mem_singleton_self n
  · rw [if_pos h, if_pos h2]
    simp

/-- Settles O58: a release begins from its image, copies its plan tile by tile, is read back, and ends in HOLD with the cause of the first
check that fails. -/
theorem releaseProceeds : Obligations.ReleaseProceeds := by
  unfold Obligations.ReleaseProceeds
  intro s hlive
  refine ⟨fun img hnext => ⟨fun hb => ?_, fun hb => ?_⟩, fun bytes tcrc p rest k bs want hb hph hlost hplan hstep hsrc => ?_,
    fun bytes tcrc p rest k hb hph hlost hplan hstep hsrc => ?_, fun hb hph hread hlost => ?_⟩
  · change execReleasePrecheckPass s = _
    unfold execReleasePrecheckPass
    rw [hnext, hlive, Option.isNone_some, Bool.or_false, if_neg Bool.false_ne_true, if_pos hb]
  · have hx : exec .releasePrecheckPass s = .next (relBegin s) := by
      change execReleasePrecheckPass s = _
      unfold execReleasePrecheckPass
      rw [hnext, hlive, Option.isNone_some, Bool.or_false, if_neg Bool.false_ne_true, if_neg, if_pos hb]
      rintro (h | h) <;> obtain hb | hb := hb <;> rw [hb] at h <;> cases h
    exact ⟨_, hx, relBegin_rest hnext rfl⟩
  · have hx : exec (.releaseTileCopy bytes tcrc) s = .next (copyTile s p k bytes tcrc) := by
      change execReleaseTileCopy bytes tcrc s = _
      unfold execReleaseTileCopy
      rw [if_pos ⟨hb, hph, hlive⟩, hlost, if_neg (by decide), hplan]
      dsimp only
      rw [hstep]
    refine ⟨fun hlen hcrc hxown => ?_, fun hcrc => ?_⟩
    · obtain ⟨hb', hcop, hst, hcrcs, hl⟩ := copyTile_rest hsrc hlen hcrc hxown
      refine ⟨_, hx, hb'.trans hb, hcop, hst, hcrcs, fun n a o hp hn ha h64 => ?_⟩
      subst hp
      have hr (m : Nat) (hm : m ∈ loadEngs s.rel.img n) := (hl.imem m).symm ▸ stepWrite_reads (s := s) (o := o) want ha h64 hlen hm
      exact ⟨fun h => hr n (mem_loadEngs.1 h), fun h h2 => ⟨hr n (mem_loadEngs.2 h h2).1, hr (n + 1) (mem_loadEngs.2 h h2).2⟩⟩
    · have hc : copyTile s p k bytes tcrc = relFail s 2 k 0xB := by
        unfold copyTile
        rw [hsrc]
        dsimp only
        rw [if_pos (.inr hcrc)]
      have hf := relFail_failed s 2 k 0xB
      rw [hc] at hx
      exact ⟨_, hx, hf.bstate, hf.fcause, hf.failtile (.inl rfl), hf.phase, hf.running⟩
  · have hx : exec (.releaseTileCopy bytes tcrc) s = .next (relFail (sourceSeen s k) 2 k 0xB) := by
      change execReleaseTileCopy bytes tcrc s = _
      unfold execReleaseTileCopy
      rw [if_pos ⟨hb, hph, hlive⟩, hlost, if_neg (by decide), hplan]
      dsimp only
      rw [hstep]
      dsimp only
      unfold copyTile
      rw [hsrc]
    have hf := relFail_failed (sourceSeen s k) 2 k 0xB
    exact ⟨_, hx, hf.bstate, hf.fcause, hf.failtile (.inl rfl)⟩
  · have hx : exec .releaseReadbackDone s = match readAll (copyPlan s.rel.img) s with
        | (some t, z) => .next (relFail z 5 t 0xB)
        | (none, z) => if bodyCrc z ≠ z.rel.img.bcrc then .next (relFail z 3 0 0xB)
          else .next { z with rel := { z.rel with readback := true } } := by
      change execReleaseReadbackDone s = _
      unfold execReleaseReadbackDone
      rw [if_pos ⟨hb, hph, hread, hlive⟩, hlost]
      exact if_neg Bool.false_ne_true
    refine ⟨fun z hz hcrc => ?_, fun z hz hcrc => ?_, fun z k hz => ?_⟩
    · rw [hx, hz]
      exact if_neg (fun h => h hcrc)
    · have hf := relFail_failed z 3 0 0xB
      rw [hz] at hx
      exact ⟨_, hx.trans (if_pos hcrc), hf.bstate, hf.fcause⟩
    · have hf := relFail_failed z 5 k 0xB
      rw [hz] at hx
      exact ⟨_, hx, hf.bstate, hf.fcause, hf.failtile (.inr rfl)⟩

end Sys2Proof.Machine
end

section
/-! The scrubber: its place in each memory, its pass, and what a read of a tile leaves. -/

namespace Sys2Proof.Machine

variable {s t u : State}

theorem leNat_leBytes (n v : Nat) : leNat (leBytes n v) = v % 256 ^ n := by
  induction n generalizing v with
  | zero => exact (Nat.mod_one v).symm
  | succ n ih =>
    change (BitVec.ofNat 8 v).toNat + 256 * leNat (leBytes n (v / 256)) = _
    rw [ih, BitVec.toNat_ofNat, Nat.pow_succ' (m := 256)]
    exact (Nat.mod_mul (a := 256)).symm

/-- The check word of a tile is the CRC of its bytes just where the tile is good. -/
theorem tileCheckWord_iff (cls inst tile : Nat) :
    tileBad s cls inst tile = true ↔ tileCheckWord s cls inst tile ≠ crc32c (tileBytes s cls inst tile) := by
  unfold tileCheckWord
  generalize crc32c (tileBytes s cls inst tile) = c
  generalize Config.checkDiff (tileKey cls inst tile) = d
  have hc (x : Word) : c ^^^ x = c ↔ x = 0 := by
    refine ⟨fun h => ?_, fun h => by rw [h]; exact BitVec.xor_zero⟩
    have h2 : c ^^^ (c ^^^ x) = c ^^^ c := congrArg (c ^^^ ·) h
    rwa [← BitVec.xor_assoc, BitVec.xor_self, BitVec.zero_xor] at h2
  have hd : d ||| 1 ≠ 0 := fun h => by
    have h0 : (d ||| 1).getLsbD 0 = (0 : Word).getLsbD 0 := by rw [h]
    simp at h0
  rw [ne_eq, hc]
  cases tileBad s cls inst tile
  · exact ⟨fun h => absurd h Bool.false_ne_true, fun h => absurd rfl h⟩
  · exact ⟨fun _ => hd, fun _ => rfl⟩

theorem tileCount_inst {cls inst tile : Nat} (h : tile < scrubTiles s cls inst) : cls < 5 ∧ inst < 128 := by
  unfold scrubTiles at h
  split at h
  next hc =>
    refine ⟨hc, ?_⟩
    by_contra hi
    have h64 : decide (inst < 64) = false := decide_eq_false (by omega)
    have h0 : tileCount s cls inst = 0 := by
      unfold tileCount
      dsimp only
      rw [h64, Bool.false_and]
      match cls, hc with
      | 0, _ => exact (if_neg Bool.false_ne_true).trans (if_neg (by omega))
      | 1, _ => exact (if_neg Bool.false_ne_true).trans (if_neg (by omega))
      | 2, _ => exact if_neg (by omega)
      | 3, _ => exact if_neg (by omega)
      | 4, _ => exact if_neg Bool.false_ne_true
    omega
  next => omega

theorem scrubInsts_small {q : Nat × Nat} (h : q ∈ scrubInsts) : q.1 < 5 ∧ q.2 < 128 := by
  unfold scrubInsts at h
  simp only [List.mem_append, List.mem_map, List.mem_range, List.mem_singleton] at h
  obtain (((⟨n, hn, rfl⟩ | ⟨n, hn, rfl⟩) | ⟨k, hk, rfl⟩) | rfl) | ⟨n, hn, rfl⟩ := h <;> dsimp only <;> omega

/-- The scrubber is one tile further in the memory it has read, and where it was in every other. -/
def scrubAhead (s : State) (cls inst : Nat) : State :=
  { s with mem := { s.mem with scrub := tblSet 0 (128 * cls + inst) (scrubPos s cls inst + 1) s.mem.scrub } }

theorem scrubPos_ahead {cls inst : Nat} (h : cls < 5 ∧ inst < 128) {q : Nat × Nat} (hq : q.1 < 5 ∧ q.2 < 128) :
    scrubPos (scrubAhead s cls inst) q.1 q.2 = scrubPos s q.1 q.2 + b2n (q == (cls, inst)) := by
  unfold scrubPos scrubAhead
  by_cases he : q = (cls, inst)
  · rw [he, tblGet_tblSet_self, beq_self_eq_true]
    rfl
  · have hk : 128 * q.1 + q.2 ≠ 128 * cls + inst := fun hk => he (Prod.ext (by dsimp only; omega) (by dsimp only; omega))
    rw [tblGet_tblSet_other 0 hk, beq_eq_false_iff_ne.mpr he]
    rfl

theorem scrubWhole_ahead {cls inst : Nat} (h : cls < 5 ∧ inst < 128) : scrubWhole (scrubAhead s cls inst) =
    scrubInsts.all (fun q => decide (scrubTiles s q.1 q.2 ≤ scrubPos s q.1 q.2 + b2n (q == (cls, inst)))) := by
  unfold scrubWhole
  rw [Bool.eq_iff_iff, List.all_eq_true, List.all_eq_true]
  refine forall₂_congr fun q hq => ?_
  rw [scrubPos_ahead h (scrubInsts_small hq)]
  rfl

theorem scrubMove_eq (cls inst : Nat) : scrubMove s cls inst =
    if scrubWhole (scrubAhead s cls inst) then scrubPass (scrubAhead s cls inst) else scrubAhead s cls inst := rfl

/-- The scrubber's move changes its own place and the count of its passes. -/
theorem scrubMove_rest (cls inst : Nat) : scrubMove s cls inst =
    { s with mem := { s.mem with scrub := (scrubMove s cls inst).mem.scrub }, cnt := (scrubMove s cls inst).cnt } := by
  rw [scrubMove_eq]
  split <;> rfl

theorem scrubPass_cntKept {a : Nat} (ha : a ≠ 0xA040) (s : State) : CntKept a s (scrubPass s) := by
  unfold scrubPass
  generalize 0xA040 = b at ha
  exact CntKept.cntAdd { s with mem := { s.mem with scrub := [] } } ha 1

theorem scrubMove_cntKept {a : Nat} (ha : a ≠ 0xA040) (cls inst : Nat) : CntKept a s (scrubMove s cls inst) := by
  rw [scrubMove_eq]
  have hz : CntKept a s (scrubAhead s cls inst) := .of_cnt rfl
  exact .ite (hz.trans (scrubPass_cntKept ha _)) hz

/-! A read that finds the tile corrupt. -/

/-- What a read that finds a tile of engine memory corrupt leaves: the tile fails, is counted and is named. -/
structure Found (cls inst tile : Nat) (s t : State) : Prop where
  bad : tileBad t cls inst tile = true
  lastadr : t.mem.lastadr = BitVec.ofNat 32 (tileKey cls inst tile)
  store : t.store = s.store
  cnt : cntGet t (0xA010 + 4 * cls) = satCount (cntGet s (0xA010 + 4 * cls)) 1

theorem tileDetect_counts {a cls : Nat} (h : a = 0xA010 + 4 * cls) (ha : a < 0x20000) (inst tile reader : Nat) :
    cntGet (tileDetect s cls inst tile reader) a = satCount (cntGet s a) 1 := by
  have hm (w : Word) : cntGet (fltWrite (cntAdd { s with mem := { s.mem with lastadr := w } } a 1) 2 w (BitVec.ofNat 32 reader) 0) a =
      satCount (cntGet s a) 1 :=
    Eq.trans (CntKept.fltWrite ha (cntAdd { s with mem := { s.mem with lastadr := w } } a 1) 2 w (BitVec.ofNat 32 reader) 0)
      (cntGet_cntAdd { s with mem := { s.mem with lastadr := w } } a 1)
  unfold tileDetect
  rw [← h]
  exact hm _

theorem scrubRead_found {cls : Nat} (h : cls < 2) (inst tile : Nat) : Found cls inst tile s (scrubRead s cls inst tile true) := by
  have hb : tileBad (tileSpoil s cls inst tile) cls inst tile = true := hasNat_addNat_self ..
  have hr : scrubRead s cls inst tile true = tileDetect (tileSpoil s cls inst tile) cls inst tile 4 := by
    unfold scrubRead
    dsimp only
    rw [if_pos rfl, if_neg (by omega), if_pos hb]
  rw [hr]
  have hd := tileDetect_rest (s := tileSpoil s cls inst tile) cls inst tile 4
  have hf := (Logged.tileDetect (tileSpoil s cls inst tile) cls inst tile 4).frame
  exact {
    bad := by unfold tileBad; rw [hd.2.1]; exact hb
    lastadr := by unfold tileDetect; rw [fltWrite_mem]; rfl
    store := hf.store
    cnt := tileDetect_counts rfl (by omega) ..
  }

theorem Found.move {cls inst tile : Nat} (h : Found cls inst tile s t) (hc : cls < 2) : Found cls inst tile s (scrubMove t cls inst) where
  bad := by rw [scrubMove_rest]; exact h.bad
  lastadr := by rw [scrubMove_rest]; exact h.lastadr
  store := by rw [scrubMove_rest]; exact h.store
  cnt := Eq.trans (scrubMove_cntKept (a := 0xA010 + 4 * cls) (by omega) cls inst) h.cnt

/-! A suspect tile that the Badger reads, and one that it repairs. -/

theorem Logged.stageSeen (s : State) (l : List Nat) : Logged s (stageSeen s l) := .forNats (fun z _ => .tileDetect z ..) _ s

theorem CntKept.stageSeen {a : Nat} (ha : a < 0x20000) (h : a ≠ 0xA01C) (s : State) (l : List Nat) : CntKept a s (stageSeen s l) :=
  .forNats _ (fun z k => (tileDetect_rest (s := z) 3 0 k 4).2.2 a ha h) s

theorem Logged.repairSeen (s : State) (cls inst tile : Nat) : Logged s (repairSeen s cls inst tile) := by
  unfold Machine.repairSeen bodySeen
  split
  · split
    · exact .stageSeen ..
    · exact .refl s
  · exact .refl s

theorem CntKept.repairSeen {a : Nat} (ha : a < 0x20000) (h : a ≠ 0xA01C) (s : State) (cls inst tile : Nat) :
    CntKept a s (repairSeen s cls inst tile) := by
  unfold Machine.repairSeen bodySeen
  split
  · split
    · exact .stageSeen ha h ..
    · exact .refl a s
  · exact .refl a s

/-- What the log of a reference entry that fails its parity leaves. -/
structure RefSeen (s t : State) : Prop where
  frame : t = { s with cnt := t.cnt, hub := t.hub, mbx := t.mbx, eng := t.eng, mem := { s.mem with lastadr := t.mem.lastadr, refs := t.mem.refs } }
  woken (n : Nat) : Woken (engGet s n) (engGet t n)

theorem Logged.refSeen (h : Logged s t) : RefSeen s t where
  frame := by rw [h.frame]
  woken := h.woken

theorem RefSeen.trans (h : RefSeen s t) (k : RefSeen t u) : RefSeen s u where
  frame := by rw [k.frame, h.frame]
  woken n := (h.woken n).trans (k.woken n)

theorem refFail_seen (s : State) (cls inst tile : Nat) (b : Bool) : RefSeen s (refFail s cls inst tile b) := by
  refine ⟨?_, fun n => refFail_woken cls inst tile b⟩
  unfold refFail
  dsimp only
  split
  · have hf : Framed s (parityRecord s 3 (refAt cls (srcInst s cls inst) tile) (refAt cls (srcInst s cls inst) tile)) :=
      (Logged.fltWrite s 3 _ _ _).frame
    generalize parityRecord s 3 (refAt cls (srcInst s cls inst) tile) (refAt cls (srcInst s cls inst) tile) = z at hf
    rw [hf]
  · rfl

theorem refFail_cntKept {a : Nat} (ha : a < 0x20000) (s : State) (cls inst tile : Nat) (b : Bool) : CntKept a s (refFail s cls inst tile b) := by
  unfold refFail
  exact .ite ((CntKept.fltWrite ha s 3 _ _ _).trans (.of_cnt rfl)) (.refl a s)

theorem refFail_false (cls inst tile : Nat) : refFail s cls inst tile false = s := rfl

theorem repairBytes_none {cls inst tile : Nat} (h : refOf s cls inst tile = none) (given : List Byte) : repairBytes s cls inst tile given = none := by
  unfold repairBytes
  rw [h]

theorem repairBytes_length {cls inst tile : Nat} {given bs : List Byte} (h : repairBytes s cls inst tile given = some bs) : bs.length = 64 := by
  unfold repairBytes at h
  split at h
  · split at h
    · split at h
      next hc => exact Option.some.inj h ▸ hc.1
      next => cases h
    · cases h
  · cases h

theorem repairBytes_refFail {cls inst tile : Nat} {refBad : Bool} {given : List Byte} (h : refBad = true ∨ repairBytes s cls inst tile given = none) :
    repairBytes (refFail s cls inst tile refBad) cls inst tile given = none := by
  cases refBad with
  | true => exact repairBytes_none (refFail_gone ..) given
  | false => exact h.resolve_left Bool.false_ne_true

/-- A repair that finds no bytes for the tile only counts its refusal. -/
theorem repair_refused (cls inst tile : Nat) (refBad : Bool) :
    RefSeen s (cntAdd (repairSeen (refFail s cls inst tile refBad) cls inst tile) 0xA038 1) ∧
    cntGet (cntAdd (repairSeen (refFail s cls inst tile refBad) cls inst tile) 0xA038 1) 0xA038 = satCount (cntGet s 0xA038) 1 := by
  have hl : RefSeen s (repairSeen (refFail s cls inst tile refBad) cls inst tile) := (refFail_seen ..).trans (Logged.repairSeen ..).refSeen
  have hk : CntKept 0xA038 s (repairSeen (refFail s cls inst tile refBad) cls inst tile) :=
    (refFail_cntKept (by decide) ..).trans (.repairSeen (by decide) (by decide) ..)
  generalize repairSeen (refFail s cls inst tile refBad) cls inst tile = z at hl hk
  exact ⟨hl.trans (Logged.cntAdd z 0xA038 1).refSeen, by rw [cntGet_cntAdd, hk]⟩

/-- A repair of instruction memory writes its tile alone, and the tile is good. -/
theorem engTilePut_repairs {n tile : Nat} (hn : n < 64) (ht : tile < 2 ^ 22) {bs : List Byte} (hl : bs.length = 64) :
    memBytes (engGet (engTilePut s n (64 * tile) bs) n).imem (64 * tile) 64 = bs ∧
    tileBad (engTilePut s n (64 * tile) bs) 0 n tile = false ∧
    (∀ a, a < 64 * tile ∨ 64 * tile + 64 ≤ a →
      memGet (engGet (engTilePut s n (64 * tile) bs) n).imem a = memGet (engGet s n).imem a) ∧
    (engTilePut s n (64 * tile) bs).cnt = s.cnt := by
  rw [engTilePut_imem n (by omega) (by omega)]
  refine ⟨hl ▸ memBytes_memPut _ _ _, ?_, fun a ha => memGet_memPut_outside _ _ _ _ (by omega), ?_⟩
  · have hd : decide (0x10000000 ≤ 64 * tile) = false := decide_eq_false (by omega)
    have hk : engTile n false tile = (0, n, tile) := by
      have h5 : isSettEng n = false := by simp [isSettEng]; omega
      unfold engTile
      rw [h5]
      rfl
    have ha : 64 * tile % 0x10000000 / 64 = tile := by omega
    unfold engTilePut
    dsimp only
    rw [hd, ha, hk]
    exact (tileCure_records ..).2.2.2
  · unfold engTilePut tileCure
    dsimp only
    split <;> rfl

end Sys2Proof.Machine
end

section
/-! The rebuild of a context tile, and the scrubber's statement. -/

namespace Sys2Proof.Machine

variable {s t u : State}

/-! The words of a rebuilt record. -/

theorem getLsbD_recHalf (r x : Rec) {i : Nat} (h : i < 512) : (recHalf r 0 (leBytes 64 x.toNat)).getLsbD i = x.getLsbD i := by
  have hp : 256 ^ 64 = 2 ^ 512 := (Nat.pow_mul 2 8 64).symm
  unfold recHalf
  rw [getLsbD_recPutBits _ _ _ _ _ (by omega), if_pos ⟨by omega, by omega⟩, leNat_leBytes, hp, Nat.testBit_mod_two_pow,
    decide_eq_true (show i - 8 * (64 * 0) < 512 by omega), Bool.true_and, show i - 8 * (64 * 0) = i by omega, BitVec.testBit_toNat]

theorem recCtl_recHalf (r x : Rec) : recCtl (recHalf r 0 (leBytes 64 x.toNat)) = recCtl x := by
  refine BitVec.eq_of_getLsbD_eq fun j hj => ?_
  rw [recCtl, recCtl, getLsbD_recWord, getLsbD_recWord, getLsbD_recHalf r x (by omega)]

theorem recValue_recHalf (r x : Rec) : recValue (recHalf r 0 (leBytes 64 x.toNat)) = recValue x := by
  refine BitVec.eq_of_getLsbD_eq fun j hj => ?_
  rw [recValue, recValue, getLsbD_recDouble, getLsbD_recDouble, getLsbD_recHalf r x (by omega)]

theorem recCtl_rebuildTile0 (i : Nat) (img : Rec) (known : Bool) : recCtl (rebuildTile0 s i img known) = ctlGet s i := by
  refine BitVec.eq_of_getLsbD_eq fun j hj => ?_
  unfold rebuildTile0 recPutWord
  dsimp only
  rw [recCtl, getLsbD_recWord, getLsbD_recPutBits _ _ _ _ _ (by omega), if_neg (by omega), getLsbD_recPutBits _ _ _ _ _ (by omega),
    if_neg (by omega), getLsbD_recPutBits _ _ _ _ _ (by omega), if_neg (by omega), getLsbD_recPutBits _ _ _ _ _ (by omega),
    if_pos (by omega), decide_eq_true hj, Bool.true_and, show 8 * 0x14 + j - 8 * 0x14 = j by omega, BitVec.testBit_toNat]

theorem recValue_rebuildTile0 (i : Nat) (img : Rec) (known : Bool) : recValue (rebuildTile0 s i img known) = recValue img := by
  refine BitVec.eq_of_getLsbD_eq fun j hj => ?_
  unfold rebuildTile0 recPutWord
  dsimp only
  rw [recValue, getLsbD_recDouble, getLsbD_recPutBits _ _ _ _ _ (by omega), if_neg (by omega), getLsbD_recPutBits _ _ _ _ _ (by omega),
    if_neg (by omega), getLsbD_recPutBits _ _ _ _ _ (by omega), if_pos (by omega), decide_eq_true hj, Bool.true_and,
    show 8 * 0 + j - 8 * 0 = j by omega, BitVec.testBit_toNat]

/-! Writing one half of a record to its copies. -/

theorem mem_tileCopies {i j : Nat} (h : j ∈ tileCopies s i) : j = i ∨ (mirroring s = true ∧ j = mirrorOf i) := by
  have hj := (List.mem_filter.1 h).1
  split at hj
  next hm =>
    have hmir : mirroring s = true := by
      unfold mirroring
      cases hs : isMirrored s <;> cases hf : s.svc.fill <;> simp_all
    simpa [hmir] using hj
  next => exact .inl (List.mem_singleton.1 hj)

theorem mem_tileCopies_self {i : Nat} (h : sliceGone s (homeOf i) = false) : i ∈ tileCopies s i := by
  refine List.mem_filter.2 ⟨?_, by rw [h]; rfl⟩
  split
  · exact List.mem_cons_self
  · exact List.mem_singleton.2 rfl

/-- A write of the records `js`: every other record, the engines and the counters are kept, and no good tile fails. -/
structure Written (js : List Nat) (s t : State) : Prop where
  eng : t.eng = s.eng
  cnt : t.cnt = s.cnt
  recs (j : Nat) (h : j ∉ js) : recGet t j = recGet s j
  good (cls inst tile : Nat) (h : tileBad s cls inst tile = false) : tileBad t cls inst tile = false

theorem tileCure_keeps_good {cls inst tile : Nat} (h : tileBad s cls inst tile = false) (c n k : Nat) :
    tileBad (tileCure s c n k) cls inst tile = false := by
  have hb : (tileCure s c n k).mem.bad = delNat (tileKey c n k) s.mem.bad := by
    unfold tileCure
    dsimp only
    split <;> rfl
  unfold tileBad at h ⊢
  rw [hb, hasNat_delNat, h, Bool.false_and]

theorem tileCure_cnt (c n k : Nat) : (tileCure s c n k).cnt = s.cnt := by
  unfold tileCure
  dsimp only
  split <;> rfl

theorem halfPut1_written (half : Nat) (bs : List Byte) (j : Nat) : Written [j] s (halfPut1 s half bs j) where
  eng := (tileCure_rest ..).1
  cnt := tileCure_cnt ..
  recs k h := by
    have hc := (tileCure_records (s := recPut1 s j (recHalf (recGet s j) half bs)) 2 (homeOf j) (2 * (j % 2 ^ 14) + half)).1
    exact (congrArg (tblGet 0 k) hc).trans ((recGet_recPut1 (s := s) j _).2 k (fun hk => h (List.mem_singleton.2 hk)))
  good _ _ _ h := tileCure_keeps_good (s := recPut1 s j (recHalf (recGet s j) half bs)) h 2 (homeOf j) (2 * (j % 2 ^ 14) + half)

theorem halfPuts_written (half : Nat) (bs : List Byte) (l : List Nat) (s : State) :
    Written l s (l.foldl (fun z j => halfPut1 z half bs j) s) ∧
    ∀ j ∈ l, tileBad (l.foldl (fun z j => halfPut1 z half bs j) s) 2 (homeOf j) (2 * (j % 2 ^ 14) + half) = false := by
  induction l generalizing s with
  | nil => exact ⟨⟨rfl, rfl, fun _ _ => rfl, fun _ _ _ h => h⟩, fun _ h => nomatch h⟩
  | cons a l ih =>
    obtain ⟨hw, hg⟩ := ih (halfPut1 s half bs a)
    have h1 := halfPut1_written (s := s) half bs a
    refine ⟨⟨hw.eng.trans h1.eng, hw.cnt.trans h1.cnt, fun j hj => ?_, fun c i k h => hw.good _ _ _ (h1.good _ _ _ h)⟩, fun j hj => ?_⟩
    · exact (hw.recs j fun h => hj (List.mem_cons_of_mem _ h)).trans (h1.recs j fun h => hj (List.mem_singleton.1 h ▸ List.mem_cons_self))
    · obtain rfl | h := List.mem_cons.1 hj
      · exact hw.good _ _ _ (tileCure_records ..).2.2.2
      · exact hg j h

theorem ctlPut_written (i : Nat) (c : Word) : Written [] s (ctlPut s i c) where
  eng := foldl_keeps (π := (·.eng)) (f := fun z j => ctlPut1 z j c) (fun _ _ => rfl) _ s
  cnt := foldl_keeps (π := (·.cnt)) (f := fun z j => ctlPut1 z j c) (fun _ _ => rfl) _ s
  recs j _ := by
    unfold recGet
    rw [show (ctlPut s i c).store.recs = s.store.recs from
      foldl_keeps (π := (·.store.recs)) (f := fun z j => ctlPut1 z j c) (fun _ _ => rfl) _ s]
  good a b k h := by
    unfold tileBad at h ⊢
    rwa [show (ctlPut s i c).mem.bad = s.mem.bad from
      foldl_keeps (π := (·.mem.bad)) (f := fun z j => ctlPut1 z j c) (fun _ _ => rfl) _ s]

/-- Writing one half of a record changes its copies alone, and leaves its tile good. -/
theorem ctxTilePut_rest (i half : Nat) (bs : List Byte) (hg : sliceGone s (homeOf i) = false) :
    Written (tileCopies s i) s (ctxTilePut s i half bs) ∧
    tileBad (ctxTilePut s i half bs) 2 (homeOf i) (2 * (i % 2 ^ 14) + half) = false := by
  obtain ⟨hw, hb⟩ := halfPuts_written half bs (tileCopies s i) s
  have hi := hb i (mem_tileCopies_self hg)
  unfold ctxTilePut
  dsimp only
  split
  · have hc := ctlPut_written (s := halfPut s i half bs) i (recCtl (recHalf 0 0 bs))
    exact ⟨⟨hc.eng.trans hw.eng, hc.cnt.trans hw.cnt, fun j hj => (hc.recs j (nomatch ·)).trans (hw.recs j hj),
      fun _ _ _ h => hc.good _ _ _ (hw.good _ _ _ h)⟩, hc.good _ _ _ hi⟩
  · exact ⟨hw, hi⟩

/-- Outside MIRRORED the first half of a record, written whole, is what its words then read. -/
theorem ctxTilePut_one (hm : isMirrored s = false) (hf : s.svc.fill = false) (i : Nat) (x : Rec) :
    ctlGet (ctxTilePut s i 0 (leBytes 64 x.toNat)) i = recCtl x ∧ recCtl (recGet (ctxTilePut s i 0 (leBytes 64 x.toNat)) i) = recCtl x ∧
    recValue (recGet (ctxTilePut s i 0 (leBytes 64 x.toNat)) i) = recValue x := by
  have hh : halfPut s i 0 (leBytes 64 x.toNat) = halfPut1 s 0 (leBytes 64 x.toNat) i := by
    unfold halfPut
    rw [(tileCopies_one hm hf i).1]
    rfl
  have hr : (halfPut1 s 0 (leBytes 64 x.toNat) i).store.recs = tblSet 0 i (recHalf (recGet s i) 0 (leBytes 64 x.toNat)) s.store.recs :=
    (tileCure_records ..).1
  have hs : (halfPut1 s 0 (leBytes 64 x.toNat) i).svc = s.svc := (tileCure_records ..).2.2.1
  unfold ctxTilePut
  dsimp only
  rw [if_pos rfl, hh, recCtl_recHalf]
  generalize halfPut1 s 0 (leBytes 64 x.toNat) i = z at hr hs
  have hmz : isMirrored z = false := by unfold isMirrored; rwa [hs]
  have hfz : z.svc.fill = false := by rwa [hs]
  have hp : ctlPut z i (recCtl x) = ctlPut1 z i (recCtl x) := by
    unfold ctlPut
    rw [(tileCopies_one hmz hfz i).1]
    rfl
  have hg : recGet (ctlPut1 z i (recCtl x)) i = recHalf (recGet s i) 0 (leBytes 64 x.toNat) :=
    (congrArg (tblGet 0 i) hr).trans (tblGet_tblSet_self ..)
  rw [hp, hg, recCtl_recHalf, recValue_recHalf]
  refine ⟨?_, rfl, rfl⟩
  unfold ctlGet
  rw [(tileCopies_one (s := ctlPut1 z i (recCtl x)) hmz hfz i).2]
  exact tblGet_tblSet_self ..

/-! The rebuild. -/

theorem RefSeen.svc (h : RefSeen s t) : t.svc = s.svc := by rw [h.frame]
theorem RefSeen.store (h : RefSeen s t) : t.store = s.store := by rw [h.frame]
theorem RefSeen.bad (h : RefSeen s t) : t.mem.bad = s.mem.bad := by rw [h.frame]

theorem twinSeen_logged (s : State) (inst tile : Nat) : Logged s (twinSeen s inst tile) := .ite (.tileDetect ..) (.refl s)

theorem twinSeen_cntKept {a : Nat} (ha : a < 0x20000) (h : a ≠ 0xA018) (s : State) (inst tile : Nat) : CntKept a s (twinSeen s inst tile) :=
  .ite ((tileDetect_rest (s := s) 2 (inst ^^^ 1) tile 4).2.2 a ha h) (.refl a s)

theorem twinSeen_unmirrored (hm : isMirrored s = false) (inst tile : Nat) : twinSeen s inst tile = s := by
  unfold twinSeen
  rw [hm]
  rfl

/-- A rebuild without its twin notes the tile's sources and writes the half. -/
theorem rebuildFrom_eq (i tile : Nat) (bytes : List Byte) : ∃ z, RefSeen s z ∧ CntKept 0xA03C s z ∧ ∃ bs,
    rebuildFrom s i tile bytes = tilePut z 2 (homeOf i) (2 * (i % 2 ^ 14) + tile) bs ∧
    (tile = 0 → repairBytes s 2 (homeOf i) (2 * (i % 2 ^ 14) + tile) bytes = none →
      ∃ x, bs = leBytes 64 x.toNat ∧ recCtl x = ctlGet s i ∧ recValue x = 0) := by
  unfold rebuildFrom
  dsimp only
  generalize htile : 2 * (i % 2 ^ 14) + tile = tl
  refine ⟨_, ?_, ?_, _, rfl, fun h0 hn => ?_⟩
  · split
    · exact ((Logged.repairSeen ..).trans (.cntAdd ..)).refSeen
    · exact (Logged.refl s).refSeen
  · exact .ite ((CntKept.repairSeen (by decide) (by decide) ..).trans (.cntAdd _ (by decide) 1)) (.refl _ s)
  · rw [hn, if_neg (by omega)]
    refine ⟨_, rfl, recCtl_rebuildTile0 .., (recValue_rebuildTile0 ..).trans ?_⟩
    rw [Option.getD_none, leNat_leBytes, Nat.zero_mod]
    simp [recValue, recDouble]

/-- What a rebuild of the tile leaves. -/
structure Rebuilt (i tile : Nat) (s t : State) : Prop where
  good : tileBad t 2 (homeOf i) (2 * (i % 2 ^ 14) + tile) = false
  cnt : cntGet t 0xA03C = cntGet s 0xA03C
  imem (n : Nat) : (engGet t n).imem = (engGet s n).imem
  recs (j : Nat) (h : j ≠ i) (hm : mirroring s = true → j ≠ mirrorOf i) : recGet t j = recGet s j

theorem homeOf_index {i tile : Nat} (hi : i < 2 ^ 17) (ht : tile < 2) :
    2 ^ 14 * homeOf i + (2 * (i % 2 ^ 14) + tile) / 2 = i ∧ (2 * (i % 2 ^ 14) + tile) % 2 = tile := by
  unfold homeOf
  omega

theorem twinPut_rebuilt {i tile : Nat} (hi : i < 2 ^ 17) (ht : tile < 2) (bs : List Byte) :
    Rebuilt i tile s (twinPut s (homeOf i) (2 * (i % 2 ^ 14) + tile) bs) := by
  unfold twinPut
  dsimp only
  rw [(homeOf_index hi ht).1, (homeOf_index hi ht).2]
  generalize recHalf (recGet s i) tile bs = r
  have hb := (tileCure_records (s := recPut1 s i r) 2 (homeOf i) (2 * (i % 2 ^ 14) + tile)).2.2.2
  have hr := (tileCure_records (s := recPut1 s i r) 2 (homeOf i) (2 * (i % 2 ^ 14) + tile)).1
  have hc := tileCure_cnt (s := recPut1 s i r) 2 (homeOf i) (2 * (i % 2 ^ 14) + tile)
  have he := (tileCure_rest (s := recPut1 s i r) 2 (homeOf i) (2 * (i % 2 ^ 14) + tile)).1
  generalize tileCure (recPut1 s i r) 2 (homeOf i) (2 * (i % 2 ^ 14) + tile) = z at hb hr hc he
  have hz : Rebuilt i tile s z := ⟨hb, congrArg (tblGet 0 0xA03C) hc, fun n => by rw [engGet_of_eng he]; rfl,
    fun j hj _ => (congrArg (tblGet 0 j) hr).trans ((recGet_recPut1 (s := s) i r).2 j hj)⟩
  split
  · exact ⟨hz.good, hz.cnt, hz.imem, hz.recs⟩
  · exact hz

theorem rebuildFrom_rebuilt (hz : RefSeen s t) (hk : CntKept 0xA03C s t) {i tile : Nat} (hi : i < 2 ^ 17) (ht : tile < 2)
    (hg : sliceGone s (homeOf i) = false) (bytes : List Byte) : Rebuilt i tile s (rebuildFrom t i tile bytes) := by
  obtain ⟨z, hs, hc, bs, he, -⟩ := rebuildFrom_eq (s := t) i tile bytes
  have hl := hz.trans hs
  have hgz : sliceGone z (homeOf i) = false := by
    unfold sliceGone isMirrored cluMir at hg ⊢
    rwa [hl.svc]
  obtain ⟨hw, hb⟩ := ctxTilePut_rest i tile bs hgz
  rw [he, tilePut, if_pos rfl, (homeOf_index hi ht).1, (homeOf_index hi ht).2]
  refine ⟨hb, ?_, fun n => ?_, fun j hj hm => ?_⟩
  · exact (congrArg (tblGet 0 0xA03C) hw.cnt).trans (hk.trans hc)
  · rw [engGet_of_eng hw.eng]
    exact (hl.woken n).memories.1
  · have hjm : j ∉ tileCopies z i := fun h => by
      obtain h | ⟨hmz, h⟩ := mem_tileCopies h
      · exact hj h
      · refine hm ?_ h
        unfold mirroring isMirrored at hmz ⊢
        rwa [hl.svc] at hmz
    rw [hw.recs j hjm]
    exact congrArg (fun x => tblGet 0 j x.recs) hl.store

/-- Outside MIRRORED a tile without a source keeps the control word and reads zero as its value. -/
theorem rebuildFrom_empty (hz : RefSeen s t) (hm : mirroring s = false) {i tile : Nat} (hi : i < 2 ^ 17) (ht : tile = 0) {bytes : List Byte}
    (hn : repairBytes t 2 (homeOf i) (2 * (i % 2 ^ 14) + tile) bytes = none) :
    ctlGet (rebuildFrom t i tile bytes) i = ctlGet s i ∧ recCtl (recGet (rebuildFrom t i tile bytes) i) = ctlGet s i ∧
    recValue (recGet (rebuildFrom t i tile bytes) i) = 0 := by
  obtain ⟨hmm, hmf⟩ := Bool.or_eq_false_iff.1 hm
  obtain ⟨z, hs, -, bs, he, hx⟩ := rebuildFrom_eq (s := t) i tile bytes
  obtain ⟨x, rfl, hctl, hval⟩ := hx ht hn
  have hl := hz.trans hs
  have hmz : isMirrored z = false := by unfold isMirrored at hmm ⊢; rwa [hl.svc]
  have hfz : z.svc.fill = false := by rwa [hl.svc]
  have hone := ctxTilePut_one hmz hfz i x
  have hcs : ctlGet t i = ctlGet s i := by
    unfold ctlGet liveCopy sliceGone isMirrored cluMir
    rw [hz.svc, hz.store]
  subst ht
  rwa [he, tilePut, if_pos rfl, (homeOf_index hi (by decide)).1, (homeOf_index hi (by decide)).2, ← hcs, ← hctl, ← hval]

/-- Settles O59: the scrubber's place by its key, the repair by what the reference gives, the rebuild by its copies. -/
theorem scrubRepairAndRebuild : Obligations.ScrubRepairAndRebuild := by
  intro s hdead
  refine ⟨tileCheckWord_iff, ?_, ?_, ?_, ?_, ?_, ?_⟩
  · intro cls inst tile hon htile hcls hbad last
    have hi := tileCount_inst htile
    have hread : scrubRead s cls inst tile false = s := by
      unfold scrubRead
      dsimp only
      rw [if_neg Bool.false_ne_true, if_neg hcls, hbad, if_neg Bool.false_ne_true]
    have hx : exec (.scrubTileRead cls inst tile false) s = .next (scrubMove s cls inst) := by
      change execScrubTileRead cls inst tile false s = _
      unfold execScrubTileRead
      rw [if_pos ⟨hon, hdead⟩, if_pos ⟨rfl, htile⟩, hread]
    have hlast : scrubWhole (scrubAhead s cls inst) = last := scrubWhole_ahead hi
    have hpos := scrubPos_ahead (s := s) hi (q := (cls, inst)) hi
    rw [beq_self_eq_true] at hpos
    refine ⟨_, hx, congrArg State.mem (scrubMove_rest cls inst), ?_, fun h => ?_, fun h => ?_⟩
    · rw [scrubMove_eq]
      split <;> rfl
    · rw [scrubMove_eq, hlast, h, if_neg Bool.false_ne_true]
      exact ⟨rfl, hpos⟩
    · rw [scrubMove_eq, hlast, h, if_pos rfl]
      exact ⟨rfl, cntGet_cntAdd { scrubAhead s cls inst with mem := { s.mem with scrub := [] } } 0xA040 1⟩
  · intro cls inst tile hon htile hcls
    have hx : exec (.scrubTileRead cls inst tile true) s = .next (scrubMove (scrubRead s cls inst tile true) cls inst) := by
      change execScrubTileRead cls inst tile true s = _
      unfold execScrubTileRead
      rw [if_pos ⟨hon, hdead⟩, if_pos ⟨rfl, htile⟩]
    have hf := (scrubRead_found (s := s) hcls inst tile).move hcls
    exact ⟨_, hx, hf.bad, hf.lastadr, hf.store, hf.cnt⟩
  · intro n hn tile htile
    have hx (c : Bool) : exec (.suspectTileRead n c) s = .next (scrubRead s 0 n tile c) := by
      change execSuspectTileRead n c s = _
      unfold execSuspectTileRead
      exact if_pos ⟨hdead, .inl hn, htile⟩
    have hf := scrubRead_found (s := s) (cls := 0) (by decide) n tile
    refine ⟨fun hbad => (hx false).trans ?_, _, hx true, hf.bad, hf.lastadr, hf.cnt⟩
    unfold scrubRead
    dsimp only
    rw [if_neg Bool.false_ne_true, if_neg (by decide), hbad, if_neg Bool.false_ne_true]
  · intro inst tile bytes hi hon hbad ht
    have hx (refBad : Bool) : exec (.tileRepair 0 inst tile bytes refBad) s =
        (match repairBytes (refFail s 0 inst tile refBad) 0 inst tile bytes with
          | some bs => .next (cntAdd (engTilePut (refFail s 0 inst tile refBad) inst (64 * tile) bs) 0xA034 1)
          | none => .next (cntAdd (repairSeen (refFail s 0 inst tile refBad) 0 inst tile) 0xA038 1)) := by
      change execTileRepair 0 inst tile bytes s refBad = _
      unfold execTileRepair
      rw [if_pos ⟨hdead, rfl, hbad⟩, if_neg (by omega)]
      exact if_pos ⟨hi, hon⟩
    refine ⟨fun bs hbs => ?_, fun refBad hno => ?_⟩
    · have hx : exec (.tileRepair 0 inst tile bytes false) s = .next (cntAdd (engTilePut s inst (64 * tile) bs) 0xA034 1) := by
        rw [hx, refFail_false, hbs]
      obtain ⟨hw, hg, ho, hc⟩ := engTilePut_repairs (s := s) hi ht (repairBytes_length hbs)
      have hoth (m : Nat) (hm : m ≠ inst) := engTilePut_other (s := s) hm (64 * tile) bs
      generalize engTilePut s inst (64 * tile) bs = z at hx hw hg ho hc hoth
      exact ⟨_, hx, hw, hg, ho, hoth, (cntGet_cntAdd ..).trans (by rw [cntGet, hc, cntGet])⟩
    · have hx : exec (.tileRepair 0 inst tile bytes refBad) s =
          .next (cntAdd (repairSeen (refFail s 0 inst tile refBad) 0 inst tile) 0xA038 1) := by
        rw [hx, repairBytes_refFail hno]
      obtain ⟨hr, hc⟩ := repair_refused (s := s) 0 inst tile refBad
      refine ⟨_, hx, ?_, (hr.woken inst).memories.1, hr.store, hc⟩
      unfold tileBad at hbad ⊢
      rwa [hr.bad]
  · intro i tile bytes refBad hg
    change execTileRebuild i tile bytes s refBad = _
    unfold execTileRebuild
    dsimp only
    rw [hg]
    exact if_neg (by simp)
  · intro i tile bytes refBad hi ht hon hdom hg hbad
    have hx : exec (.tileRebuild i tile bytes refBad) s =
        (match twinBytes s (homeOf i) (2 * (i % 2 ^ 14) + tile) with
          | some bs => .next (cntAdd (twinPut s (homeOf i) (2 * (i % 2 ^ 14) + tile) bs) 0xA03C 1)
          | none => .next (cntAdd (rebuildFrom (refFail (twinSeen s (homeOf i) (2 * (i % 2 ^ 14) + tile)) 2 (homeOf i)
              (2 * (i % 2 ^ 14) + tile) refBad) i tile bytes) 0xA03C 1)) := by
      change execTileRebuild i tile bytes s refBad = _
      unfold execTileRebuild
      exact if_pos ⟨hon, hdead, hi, ht, hbad, hdom, hg⟩
    split at hx
    next bs htwin =>
      have hr := twinPut_rebuilt (s := s) hi ht bs
      generalize twinPut s (homeOf i) (2 * (i % 2 ^ 14) + tile) bs = z at hx hr
      refine ⟨_, hx, hr.good, by rw [cntGet_cntAdd, hr.cnt], hr.imem, hr.recs, fun hm => ?_⟩
      unfold twinBytes at htwin
      rw [(Bool.or_eq_false_iff.1 hm).1] at htwin
      cases htwin
    next =>
      have hs : RefSeen s (refFail (twinSeen s (homeOf i) (2 * (i % 2 ^ 14) + tile)) 2 (homeOf i) (2 * (i % 2 ^ 14) + tile) refBad) :=
        (twinSeen_logged ..).refSeen.trans (refFail_seen ..)
      have hk : CntKept 0xA03C s (refFail (twinSeen s (homeOf i) (2 * (i % 2 ^ 14) + tile)) 2 (homeOf i) (2 * (i % 2 ^ 14) + tile) refBad) :=
        (twinSeen_cntKept (by decide) (by decide) ..).trans (refFail_cntKept (by decide) ..)
      have hn (hm : mirroring s = false)
          (h : refBad = true ∨ repairBytes s 2 (homeOf i) (2 * (i % 2 ^ 14) + tile) bytes = none) :=
        repairBytes_refFail (s := twinSeen s (homeOf i) (2 * (i % 2 ^ 14) + tile))
          ((twinSeen_unmirrored (Bool.or_eq_false_iff.1 hm).1 (homeOf i) (2 * (i % 2 ^ 14) + tile)).symm ▸ h)
      generalize refFail (twinSeen s (homeOf i) (2 * (i % 2 ^ 14) + tile)) 2 (homeOf i) (2 * (i % 2 ^ 14) + tile) refBad = y at hx hs hk hn
      have hr := rebuildFrom_rebuilt hs hk hi ht hg bytes
      have he (hm : mirroring s = false) (h0 : tile = 0) (h) := rebuildFrom_empty hs hm hi h0 (hn hm h)
      generalize rebuildFrom y i tile bytes = z at hx hr he
      exact ⟨_, hx, hr.good, by rw [cntGet_cntAdd, hr.cnt], hr.imem, hr.recs, fun hm h h0 => he hm h0 h⟩

end Sys2Proof.Machine
end

section
/-! The ends of a mirror fill, of a load of the banks and of a cluster, and the trace drain. -/

namespace Sys2Proof.Machine

variable {s t u : State}

/-! The copy of a slice to its partner. -/

theorem homeOf_parity (i : Nat) : homeOf i % 2 = (i.testBit 14).toNat := by
  rw [Nat.toNat_testBit]
  unfold homeOf
  omega

theorem homeOf_mirrorOf (i : Nat) : homeOf (mirrorOf i) % 2 = 1 - homeOf i % 2 := by
  have h14 : (0x4000 : Nat).testBit 14 = true := by decide
  rw [homeOf_parity, homeOf_parity, mirrorOf, Nat.testBit_xor, h14]
  cases i.testBit 14 <;> rfl

/-- Entries that are put elsewhere leave the entry at `i`. -/
theorem tblGet_puts_other {α : Type} [DecidableEq α] (d : α) {i : Nat} (at_ : Nat → Nat) (l : Tbl α) (h : ∀ q ∈ l, at_ q.1 ≠ i) (t : Tbl α) :
    tblGet d i (l.foldl (fun t q => tblSet d (at_ q.1) q.2 t) t) = tblGet d i t := by
  induction l generalizing t with
  | nil => rfl
  | cons q l ih =>
    exact (ih (fun p hp => h p (List.mem_cons_of_mem _ hp)) _).trans (tblGet_tblSet_other d (h q List.mem_cons_self).symm _ _)

theorem sliceSeen_logged (s : State) (k : Nat) : Logged s (sliceSeen s k) := .forNats (fun z t => .tileDetect z 2 k t 4) _ s

/-- What the copy of a slice keeps. -/
structure Copied (s t : State) : Prop where
  tick : t.tick = s.tick
  svc : t.svc = s.svc
  woken (n : Nat) : Woken (engGet s n) (engGet t n)

theorem Copied.refl (s : State) : Copied s s := ⟨rfl, rfl, fun _ => .refl _⟩

theorem Copied.trans (h : Copied s t) (k : Copied t u) : Copied s u :=
  ⟨k.tick.trans h.tick, k.svc.trans h.svc, fun n => (h.woken n).trans (k.woken n)⟩

theorem tilesClean_rest (cls inst : Nat) : (tilesClean s cls inst).tick = s.tick ∧ (tilesClean s cls inst).store.recs = s.store.recs := by
  unfold tilesClean
  split <;> exact ⟨rfl, rfl⟩

theorem sliceCopy_copied (s : State) (k : Nat) : Copied s (sliceCopy s k) := by
  have hl := sliceSeen_logged s k
  unfold sliceCopy
  dsimp only
  refine ⟨(tilesClean_rest ..).1.trans hl.frame.tick, (tilesClean_svc ..).trans hl.frame.svc, fun n => ?_⟩
  rw [engGet_of_eng (tilesClean_eng ..)]
  exact hl.woken n

/-- A copy of an even slice changes no record of an even slice. -/
theorem sliceCopy_recs {k i : Nat} (hk : k ∈ [0, 2, 4, 6]) (hi : homeOf i % 2 = 0) : recGet (sliceCopy s k) i = recGet s i := by
  have hk2 : k % 2 = 0 ∧ homeOf i ≠ k ^^^ 1 := by
    simp only [List.mem_cons, List.not_mem_nil, or_false] at hk
    obtain rfl | rfl | rfl | rfl := hk <;> exact ⟨rfl, fun h => by rw [h] at hi; cases hi⟩
  obtain ⟨heven, hother⟩ := hk2
  unfold sliceCopy
  dsimp only
  unfold recGet
  rw [(tilesClean_rest ..).2]
  dsimp only
  rw [tblGet_puts_other 0 mirrorOf _ fun q hq hqi => ?_, tblGet_filter_key 0 (fun q => homeOf q != k ^^^ 1), bne_iff_ne.mpr hother, if_pos rfl,
    (sliceSeen_logged s k).frame.store]
  have hq2 := (List.mem_filter.1 hq).2
  have hh : homeOf q.1 = k := eq_of_beq (Bool.and_eq_true_iff.1 hq2).1
  have hm := homeOf_mirrorOf q.1
  rw [hqi, hh] at hm
  omega

theorem sliceCopies_rest (l : List Nat) (hl : ∀ k ∈ l, k ∈ [0, 2, 4, 6]) (s : State) : Copied s (forNats l sliceCopy s) ∧
    ∀ i, homeOf i % 2 = 0 → recGet (forNats l sliceCopy s) i = recGet s i := by
  unfold forNats
  induction l generalizing s with
  | nil => exact ⟨.refl s, fun _ _ => rfl⟩
  | cons k l ih =>
    obtain ⟨hc, hr⟩ := ih (fun j hj => hl j (List.mem_cons_of_mem _ hj)) (sliceCopy s k)
    exact ⟨(sliceCopy_copied s k).trans hc, fun i hi => (hr i hi).trans (sliceCopy_recs (hl k List.mem_cons_self) hi)⟩

theorem Woken.registers {e f : Engine} (h : Woken e f) : f.g = e.g ∧ f.inact = e.inact := by
  rw [h.alike]
  exact ⟨rfl, rfl⟩

theorem mirrorFillDone_ready (hdead : badgerDead s = false) {c : PendChange} (hp : s.tick.pend = some c) (hc : c.profile = some 2)
    (hf : c.fillOk = false) : ∃ t, exec .mirrorFillDone s = .next t ∧ t.tick = { s.tick with pend := some { c with fillOk := true } } ∧
      (∀ n, (engGet t n).g = (engGet s n).g ∧ (engGet t n).imem = (engGet s n).imem ∧ (engGet t n).dmem = (engGet s n).dmem) ∧
      ∀ i, homeOf i % 2 = 0 → recGet t i = recGet s i := by
  have hx : exec .mirrorFillDone s = .next { forNats [0, 2, 4, 6] sliceCopy s with
      tick := { (forNats [0, 2, 4, 6] sliceCopy s).tick with pend := some { c with fillOk := true } } } := by
    change execMirrorFillDone s = _
    unfold execMirrorFillDone
    rw [hp]
    exact if_pos ⟨hc, hf, hdead⟩
  obtain ⟨hcp, hr⟩ := sliceCopies_rest [0, 2, 4, 6] (fun _ h => h) s
  generalize forNats [0, 2, 4, 6] sliceCopy s = z at hx hcp hr
  exact ⟨_, hx, congrArg (fun x : Tick => { x with pend := some { c with fillOk := true } }) hcp.tick,
    fun n => ⟨(hcp.woken n).registers.1, (hcp.woken n).memories⟩, hr⟩

/-! A cluster that fails. -/

theorem clusterFailDetect_retires (hdead : badgerDead s = false) {k : Nat} (hk : k < 8) (hb : s.bstate = .run ∨ s.bstate = .service)
    (hm : cluMir s k ≠ 3) (hr : cluRetPending s k = false) (hd : domStat s (64 + k) = 1) :
    ∃ t, exec (.clusterFailDetect k) s = .next t ∧ t.bstate = .service ∧
      t.svc.acts = s.svc.acts ++ [{ tag := 0, act := .retireCluster k false true }] ∧
      cntGet t 0x40230 = satCount (cntGet s 0x40230) 1 := by
  have hx : exec (.clusterFailDetect k) s = .next (forNats ((List.range 8).map (8 * k + ·)) wakeEng
      (svcAdd (fltWrite s 12 (BitVec.ofNat 32 k) 0 0) 0 (.retireCluster k false true))) := by
    change execClusterFailDetect k s = _
    unfold execClusterFailDetect
    exact if_pos ⟨hk, .inr hb, hdead, hm, hr, hd⟩
  have hf := (Logged.fltWrite s 12 (BitVec.ofNat 32 k) 0 0).frame
  have hc : cntGet (fltWrite s 12 (BitVec.ofNat 32 k) 0 0) 0x40230 = satCount (cntGet s 0x40230) 1 := fltWrite_counts 0x40230 12 rfl ..
  generalize fltWrite s 12 (BitVec.ofNat 32 k) 0 0 = y at hx hf hc
  have hbs : (svcAdd y 0 (.retireCluster k false true)).bstate = .service := by
    rw [svcAdd_bstate, hf.bstate]
    obtain h | h := hb <;> rw [h] <;> rfl
  have hsvc := svcAdd_svc (s := y) (tag := 0) (.retireCluster k false true)
  have hcnt : cntGet (svcAdd y 0 (.retireCluster k false true)) 0x40230 = cntGet y 0x40230 := by
    unfold svcAdd svcEnter setBState
    have hkept (v : State) (hv : v.cnt = y.cnt) : CntKept 0x40230 y v := .of_cnt hv
    exact CntKept.ite (.ite (hkept _ rfl) ((hkept _ rfl).trans (pulse_cntKept (.inr (by decide)) _ 308))) (hkept _ rfl)
  generalize svcAdd y 0 (.retireCluster k false true) = z at hx hbs hsvc hcnt
  have hw : Logged z (forNats ((List.range 8).map (8 * k + ·)) wakeEng z) := .forNats Logged.wakeEng _ z
  have hwc : CntKept 0x40230 z (forNats ((List.range 8).map (8 * k + ·)) wakeEng z) :=
    .forNats _ (fun v n => .of_cnt (t := wakeEng v n) rfl) z
  refine ⟨_, hx, hw.frame.bstate.trans hbs, ?_, Eq.trans hwc (hcnt.trans hc)⟩
  rw [hw.frame.svc, hsvc, hf.svc]

/-! Banks that have been loaded. -/

/-- The bank of an engine that was loading is loaded. -/
def uramLoaded (e : Engine) : Engine := { e with inact := if e.inact = 1 then 2 else e.inact }

theorem inact_uramLoaded (e : Engine) : (uramLoaded e).inact = if e.inact = 1 then 2 else e.inact := rfl

theorem uramsLoaded_inact (l : List Nat) (s : State) (n : Nat) :
    (engGet (forNats l (fun z n => engMap z n uramLoaded) s) n).inact =
      if n ∈ l ∧ (engGet s n).inact = 1 then 2 else (engGet s n).inact := by
  unfold forNats
  induction l generalizing s with
  | nil => simp
  | cons a l ih =>
    rw [List.foldl_cons, ih]
    by_cases ha : n = a
    · subst ha
      rw [engGet_engMap, inact_uramLoaded]
      by_cases h1 : (engGet s n).inact = 1
      · simp [h1]
      · simp [h1]
    · rw [engGet_engMap_other _ ha]
      simp [ha]

theorem loadUbankDone_loaded (hdead : badgerDead s = false) {p : SvcPend} {mask : W64} {blocks : List (Nat × Nat)}
    (hp : s.svc.acts.find? (fun q => match q.act with | .loadUbank _ _ => true | _ => false) = some p) (ha : p.act = .loadUbank mask blocks)
    (ht : p.tag ≠ 0) : ∃ t, exec .loadUbankDone s = .next t ∧ (p.tag, 0) ∈ t.mbx.cpl ∧ t.svc.acts = s.svc.acts.erase p ∧
        ∀ n, (engGet t n).inact = if n ∈ maskList mask ∧ (engGet s n).inact = 1 then 2 else (engGet s n).inact := by
  have hx : exec .loadUbankDone s = .next (hmbComplete (svcActs (forNats (maskList mask) (fun z n => engMap z n uramLoaded) s)
      ((forNats (maskList mask) (fun z n => engMap z n uramLoaded) s).svc.acts.erase p)) p.tag 0) := by
    change execLoadUbankDone s = _
    unfold execLoadUbankDone
    split
    next q hq =>
      obtain rfl : q = p := Option.some.inj (hq.symm.trans hp)
      rw [ha]
      dsimp only
      rw [hdead]
      exact if_neg Bool.false_ne_true
    next hq => cases hq.symm.trans hp
  have hs : (forNats (maskList mask) (fun z n => engMap z n uramLoaded) s).svc = s.svc := 
    forNats_keeps (π := State.svc) (f := fun z n => engMap z n uramLoaded) (fun _ _ => rfl) _ s
  have hi := uramsLoaded_inact (maskList mask) s
  generalize forNats (maskList mask) (fun z n => engMap z n uramLoaded) s = z at hx hs hi
  have hl := Logged.hmbComplete (svcActs z (z.svc.acts.erase p)) p.tag 0
  refine ⟨_, hx, hmbComplete_cpl ht, ?_, fun n => ((hl.woken n).registers.2).trans (hi n)⟩
  rw [hl.frame.svc]
  exact congrArg (fun v : Svc => v.acts.erase p) hs

/-! The trace drain. -/

theorem offGo_none {k : Nat} (h : ∀ n, n ∈ s.svc.offWait → cluOf n ≠ k) : offGo s k = s := by
  have hm : s.svc.offWait.filter (fun n => cluOf n == k) = [] := List.filter_eq_nil_iff.mpr fun n hn => by simp [h n hn]
  unfold offGo
  dsimp only
  rw [hm]
  rfl

theorem trcAfterDrain_quiet {k : Nat} (hl : (trcGet s k).lost = 0) (hd : (trcGet s k).syncDue = false) : trcAfterDrain s k = s := by
  unfold trcAfterDrain
  dsimp only
  rw [hl, hd]
  rfl

theorem trcGet_trcSet_other {j k : Nat} (h : j ≠ k) (v : Trc) : trcGet (trcSet s k v) j = trcGet s j := tblGet_tblSet_other _ h _ _

theorem exec_traceRecordDrain {k : Nat} (hk : k < 8) (hd : domStat s (64 + k) = 1) (hw : ∀ n, n ∈ s.svc.offWait → cluOf n ≠ k) (bad : Bool)
    (ht : trcDrain s k bad = t) (hs : t.svc = s.svc) : exec (.traceRecordDrain k bad) s = .next t := by
  change execTraceRecordDrain k bad s = _
  unfold execTraceRecordDrain
  rw [if_pos ⟨hk, hd⟩, ht, offGo_none (by rwa [hs])]

section
variable {k : Nat} {r : W128} {rest : List W128} (hf : (trcGet s k).fifo = r :: rest) (hl : (trcGet s k).lost = 0)
  (hsy : (trcGet s k).syncDue = false)
include hf hl hsy

theorem trcDrain_taken (hfree : sinkFree s k = true)
    (hl2 : (trcGet (sinkTake s k r rest) k).lost = (trcGet s k).lost) (hs2 : (trcGet (sinkTake s k r rest) k).syncDue = (trcGet s k).syncDue) :
    trcDrain s k false = sinkTake s k r rest := by
  have hq := trcAfterDrain_quiet (hl2.trans hl) (hs2.trans hsy)
  unfold trcDrain
  rw [hf]
  dsimp only
  rw [if_neg Bool.false_ne_true, if_pos hfree, hq]

theorem trcDrain_buffer (hfree : sinkFree s k = true) (hbit : bitAt (trcCtl s k) 1 = false) :
    trcDrain s k false = trcSet (cntAdd s (trcAdr k 0xC) 1) k { trcGet s k with
      fifo := rest, buf := tblSet 0 (trcGet s k).wptr r (trcGet s k).buf, wptr := ((trcGet s k).wptr + 1) % 8192,
      full := (trcGet s k).wptr == 8191 && !bitAt (trcCtl s k) 2 } := by
  have hsink : sinkTake s k r rest = trcSet (cntAdd s (trcAdr k 0xC) 1) k { trcGet s k with
      fifo := rest, buf := tblSet 0 (trcGet s k).wptr r (trcGet s k).buf, wptr := ((trcGet s k).wptr + 1) % 8192,
      full := (trcGet s k).wptr == 8191 && !bitAt (trcCtl s k) 2 } := by
    unfold sinkTake
    dsimp only
    rw [hbit]
    rfl
  refine (trcDrain_taken hf hl hsy hfree ?_ ?_).trans hsink <;> rw [hsink, trcGet_trcSet]

theorem trcDrain_dram (hfree : sinkFree s k = true) (hbit : bitAt (trcCtl s k) 1 = true) {a : Nat}
    (ha : 2 ^ 64 * k + ((regGet64 s (trcAdr k 0x18)).toNat + (trcGet s k).dwptr) = a) :
    (trcGet (trcDrain s k false) k).fifo = rest ∧ (trcDrain s k false).svc = s.svc ∧
    (trcDrain s k false).mem.dram = memPut s.mem.dram a (leBytes 16 r.toNat) := by
  have hsink : ∃ w z, z.svc = s.svc ∧ z.mem.dram = memPut s.mem.dram a (leBytes 16 r.toNat) ∧
      sinkTake s k r rest = trcSet z k { trcGet s k with fifo := rest, dwptr := w } := by
    unfold sinkTake
    dsimp only
    rw [hbit, if_pos rfl, ha]
    exact ⟨_, { cntAdd s (trcAdr k 0xC) 1 with mem := { s.mem with dram := memPut s.mem.dram a (leBytes 16 r.toNat) } }, rfl, rfl, rfl⟩
  obtain ⟨w, z, hzs, hzd, hsink⟩ := hsink
  rw [trcDrain_taken hf hl hsy hfree (by rw [hsink, trcGet_trcSet]) (by rw [hsink, trcGet_trcSet]), hsink, trcGet_trcSet]
  exact ⟨rfl, hzs, hzd⟩

end

/-- A record that fails its parity is counted as dropped, and the trace unit notes it. -/
theorem trcDrain_parity {k : Nat} {r : W128} {rest : List W128} (hk : k < 8) (hf : (trcGet s k).fifo = r :: rest) :
    (trcGet (trcDrain s k true) k).buf = (trcGet s k).buf ∧ (trcDrain s k true).mem.dram = s.mem.dram ∧ (trcDrain s k true).svc = s.svc ∧
    cntGet (trcDrain s k true) (trcAdr k 0x10) = satCount (cntGet s (trcAdr k 0x10)) 1 := by
  have ha : 0x400000 ≤ trcAdr k 0x10 := by unfold trcAdr; omega
  have hx : trcDrain s k true = trcAfterDrain (parityRecord (cntAdd (trcSet s k { trcGet s k with
      fifo := rest, lost := (trcGet s k).lost + 1 }) (trcAdr k 0x10) 1) 4 k (trcGet s k).wptr) k := by
    unfold trcDrain
    rw [hf]
    rfl
  rw [hx]
  generalize trcAdr k 0x10 = a at ha
  have hc1 : cntGet (cntAdd (trcSet s k { trcGet s k with fifo := rest, lost := (trcGet s k).lost + 1 }) a 1) a = satCount (cntGet s a) 1 :=
    cntGet_cntAdd ..
  have hset (v : Trc) : trcGet (cntAdd (trcSet s k v) a 1) k = v := trcGet_trcSet s k v
  have hb1 : (trcGet (cntAdd (trcSet s k { trcGet s k with fifo := rest, lost := (trcGet s k).lost + 1 }) a 1) k).buf = (trcGet s k).buf :=
    (congrArg Trc.buf (hset { trcGet s k with fifo := rest, lost := (trcGet s k).lost + 1 })).trans rfl
  have hd1 : (cntAdd (trcSet s k { trcGet s k with fifo := rest, lost := (trcGet s k).lost + 1 }) a 1).mem.dram = s.mem.dram := rfl
  have hs1 : (cntAdd (trcSet s k { trcGet s k with fifo := rest, lost := (trcGet s k).lost + 1 }) a 1).svc = s.svc := rfl
  generalize cntAdd (trcSet s k { trcGet s k with fifo := rest, lost := (trcGet s k).lost + 1 }) a 1 = y at hc1 hb1 hd1 hs1
  have hl : Framed y (parityRecord y 4 k (trcGet s k).wptr) := (Logged.fltWrite y 3 _ _ _).frame
  have hc : CntKept a y (parityRecord y 4 k (trcGet s k).wptr) := fltWrite_cntKept (.inr (by omega)) (by omega) 3 (by omega) ..
  generalize parityRecord y 4 k (trcGet s k).wptr = z at hl hc
  have hbuf : (trcGet (trcAfterDrain z k) k).buf = (trcGet z k).buf := by
    unfold trcAfterDrain
    dsimp only
    split
    · rw [trcGet_trcSet]; rfl
    · split
      · rw [trcGet_trcSet]; rfl
      · rfl
  have hrest : (trcAfterDrain z k).mem = z.mem ∧ (trcAfterDrain z k).svc = z.svc ∧ (trcAfterDrain z k).cnt = z.cnt := by
    unfold trcAfterDrain
    dsimp only
    split
    · exact ⟨rfl, rfl, rfl⟩
    · split <;> exact ⟨rfl, rfl, rfl⟩
  obtain ⟨hm, hs, hn⟩ := hrest
  refine ⟨hbuf.trans ?_, ?_, hs.trans (hl.svc.trans hs1), (congrArg (tblGet 0 a) hn).trans (Eq.trans hc hc1)⟩
  · rw [← hb1]
    exact congrArg (fun x : Tbl Trc => (tblGet {} k x).buf) hl.trc
  · rw [hm, hl, ← hd1]

end Sys2Proof.Machine
end

section
/-! The end of a restore, and the statement about the ends of services. -/

namespace Sys2Proof.Machine

variable {s t u : State}

/-! Switching an engine off whose trace has nothing to flush. -/

/-- An engine that is off and shows it, with the service actions as they were. -/
structure ShownOff (e : Nat) (s t : State) : Prop where
  acts : t.svc.acts = s.svc.acts
  st : (svcEng t e).st = 4
  off : domStat t e = 0

theorem domOff_acts (d : Nat) : (domOff s d).svc.acts = s.svc.acts ∧ (domOff s d).svc.eng = s.svc.eng := by
  have ha := congrArg Svc.acts (domClear_svc s d)
  have he := congrArg Svc.eng (domClear_svc s d)
  exact ⟨ha, he⟩

theorem svcEng_congr (h : t.svc.eng = s.svc.eng) (e : Nat) : svcEng t e = svcEng s e := by
  rw [svcEng, svcEng, h]

theorem trcFlushed_empty {n : Nat} (hf : (trcGet s (cluOf n)).fifo = []) : trcFlushed s n = true := by
  unfold trcFlushed
  rw [hf]
  exact Bool.or_true _

theorem trcFlush_empty {n : Nat} (hf : (trcGet s (cluOf n)).fifo = []) (m : Nat) : trcFlush n m s = s := by
  cases m with
  | zero => rfl
  | succ m => rw [trcFlush, trcFlushed_empty hf, Bool.true_or, if_pos rfl]

theorem trcMarkRoom_empty {n : Nat} (hf : (trcGet s (cluOf n)).fifo = []) : trcMarkRoom s n = true := by
  have hr : b2n (trcSyncNeeded s (trcGet s (cluOf n))) < trcRoom s (cluOf n) := by
    unfold trcRoom
    rw [hf]
    cases trcSyncNeeded s (trcGet s (cluOf n)) <;> decide
  unfold trcMarkRoom
  rw [decide_eq_true hr]
  exact Bool.or_true _

theorem trcEngMark_acts (n typ bit sub : Nat) (w1 w2 w3 : Word) : (trcEngMark s n typ bit sub w1 w2 w3).svc = s.svc := by
  unfold trcEngMark
  split
  · exact trcPut_svc ..
  · rfl

theorem engOffNow_off (n : Nat) : (engOffNow s n).svc.acts = s.svc.acts ∧ domStat (engOffNow s n) n = 0 := by
  have hs := trcEngMark_acts (s := s) n 8 12 3 0 0 0
  unfold engOffNow
  generalize trcEngMark s n 8 12 3 0 0 0 = z at hs
  have ha := (domOff_acts (s := offKeep z n) n).1
  have hd := domStat_domOff (offKeep z n) n
  generalize domOff (offKeep z n) n = y at ha hd
  have hz := congrArg Svc.acts hs
  exact ⟨ha.trans hz, hd⟩

theorem engDomOff_off {n : Nat} (hf : (trcGet s (cluOf n)).fifo = []) :
    (engDomOff s n).svc.acts = s.svc.acts ∧ domStat (engDomOff s n) n = 0 := by
  unfold engDomOff
  dsimp only
  rw [trcFlush_empty hf, trcFlushed_empty hf, trcMarkRoom_empty hf]
  split
  · exact engOffNow_off n
  · exact ⟨(domOff_acts n).1, domStat_domOff s n⟩

theorem engOff_off {n : Nat} (hf : (trcGet s (cluOf n)).fifo = []) : ShownOff n s (engOff s n) := by
  obtain ⟨ha, hd⟩ := engDomOff_off hf
  unfold engOff
  dsimp only
  generalize engDomOff s n = z at ha hd
  refine ⟨ha, ?_, hd⟩
  rw [svcEng_svcEngMap, hd]
  rfl

theorem cluOffCheck_off {e : Nat} (he : e < 64) (k : Nat) (h : ShownOff e s t) : ShownOff e s (cluOffCheck t k) := by
  unfold cluOffCheck
  split
  · obtain ⟨ha, hg⟩ := domOff_acts (s := t) (64 + k)
    exact ⟨ha.trans h.acts, (congrArg SvcEng.st (svcEng_congr hg e)).trans h.st,
      (domStat_domOff_other t (show e ≠ 64 + k by omega)).trans h.off⟩
  · exact h

theorem pairOf_one (h : isPaired s = false) (n : Nat) : pairOf s n = [n] := by
  unfold pairOf
  rw [h, Bool.false_and]
  exact if_neg Bool.false_ne_true

theorem hmbComplete_svc (tag status : Nat) : (hmbComplete s tag status).svc = s.svc := (hmbComplete_frame tag status).svc

/-- A restore that fails leaves its engine off and completes with its status. -/
theorem restoreFail_off {e tag status : Nat} (he : e < 64) (hp : isPaired s = false) (hf : (trcGet s (cluOf e)).fifo = []) (ht : tag ≠ 0) :
    ShownOff e s (restoreFail s tag e status) ∧ (tag, status) ∈ (restoreFail s tag e status).mbx.cpl := by
  unfold restoreFail
  rw [pairOf_one hp, forNats_one]
  have hoff := cluOffCheck_off he (cluOf e) (engOff_off hf)
  generalize cluOffCheck (engOff s e) (cluOf e) = z at hoff
  have hs := hmbComplete_svc (s := z) tag status
  refine ⟨⟨?_, ?_, ?_⟩, hmbComplete_cpl ht⟩
  · rw [hs, hoff.acts]
  · rw [svcEng_congr (congrArg Svc.eng hs), hoff.st]
  · exact (domStat_congr hs e).trans hoff.off

/-! The load of a restored engine's memory. -/

/-- The service actions and the trace units are as they were. -/
structure Serving (s t : State) : Prop where
  svc : t.svc = s.svc
  trc : t.trc = s.trc

theorem Serving.trans (h : Serving s t) (k : Serving t u) : Serving s u := ⟨k.svc.trans h.svc, k.trc.trans h.trc⟩

theorem bodySeen_serving (s : State) (k : Nat) : Serving s (bodySeen s k) := by
  unfold bodySeen
  split
  · exact ⟨(Logged.stageSeen ..).frame.svc, (Logged.stageSeen ..).frame.trc⟩
  · exact ⟨rfl, rfl⟩

theorem engTilePut_serving (s : State) (n a : Nat) (bs : List Byte) : Serving s (engTilePut s n a bs) := by
  unfold engTilePut tileCure
  dsimp only
  split <;> exact ⟨rfl, rfl⟩

theorem restoreCopy_serving (tiles : Tbl (List Byte)) (n : Nat) (l : List (Nat × Nat)) (s : State) :
    Serving s (restoreCopy tiles n l s).2 := by
  induction l generalizing s with
  | nil => exact ⟨rfl, rfl⟩
  | cons q l ih =>
    have hb := bodySeen_serving s q.2
    unfold restoreCopy
    dsimp only
    split
    · split
      · exact (hb.trans (engTilePut_serving ..)).trans (ih _)
      · exact hb
    · exact hb

theorem restoreLoad_serving (tiles : Tbl (List Byte)) (l : List Nat) (s : State) : Serving s (restoreLoad tiles l s).2 := by
  induction l generalizing s with
  | nil => exact ⟨rfl, rfl⟩
  | cons n l ih =>
    have hb : Serving s (bankFill s n (s.mem.vet ++ imgBlocks s.rel.img)) := ⟨rfl, rfl⟩
    have hc := hb.trans (restoreCopy_serving tiles n (engImage s.rel.img n) _)
    unfold restoreLoad
    dsimp only
    split
    · exact hc.trans (ih _)
    · exact hc

/-! The engine that has passed. -/

/-- The mirror state of a cluster that comes back. -/
theorem cluRefill_rest (k n : Nat) : (cluRefill s k).svc.acts = s.svc.acts ∧ (cluRefill s k).svc.eng = s.svc.eng ∧
    (engGet (cluRefill s k) n).imem = (engGet s n).imem := by
  have hc := sliceCopy_copied s (k ^^^ 1)
  unfold cluRefill
  dsimp only
  split
  · exact ⟨rfl, rfl, rfl⟩
  · split
    · have ha := congrArg Svc.acts hc.svc
      have he := congrArg Svc.eng hc.svc
      exact ⟨ha, he, (hc.woken n).memories.1⟩
    · exact ⟨rfl, rfl, rfl⟩

theorem restoreNext_none {k : Nat} (h : restoreInHand s k = none) (m : Nat) : restoreNext k m s = s := by
  cases m with
  | zero => rfl
  | succ m => rw [restoreNext, h]

theorem restoreInHand_congr {k : Nat} (h : t.svc.acts = s.svc.acts) : restoreInHand t k = restoreInHand s k := by
  unfold restoreInHand
  rw [h]

/-- An engine whose restore has passed is a spare. -/
def restorePassed (z : State) (e : Nat) : State := cluRefill (svcEngMap z e (fun v => { v with st := 2 })) (cluOf e)

theorem restorePassed_rest (e : Nat) : (restorePassed s e).svc.acts = s.svc.acts ∧ (svcEng (restorePassed s e) e).st = 2 ∧
    (engGet (restorePassed s e) e).imem = (engGet s e).imem := by
  obtain ⟨ha, hg, hi⟩ := cluRefill_rest (s := svcEngMap s e (fun v => { v with st := 2 })) (cluOf e) e
  refine ⟨ha, ?_, hi⟩
  have hst : (svcEng (svcEngMap s e (fun v => { v with st := 2 })) e).st = 2 := by rw [svcEng_svcEngMap]
  exact (congrArg SvcEng.st (svcEng_congr hg e)).trans hst

section
variable {p : SvcPend} {e : Nat} {m : W64} {tiles : Tbl (List Byte)} (he : e < 64) (hdead : badgerDead s = false)
  (hp : restoreInHand s (cluOf e) = some p) (ha : p.act = .restore e false m false) (ht : p.tag ≠ 0) (hpair : isPaired s = false)
  (hnone : restoreInHand (svcActs s (s.svc.acts.erase p)) (cluOf e) = none) (hf : (trcGet s (cluOf e)).fifo = [])

include he hdead hp ha hnone in
/-- A restore whose end leaves no other in hand ends so. -/
theorem exec_restoreDone {bistOk : Bool} (hu : u.svc.acts = s.svc.acts.erase p) (hend : restoreEnd s p e false m bistOk tiles = u) :
    exec (.restoreDone e bistOk tiles) s = .next u := by
  have hn : restoreInHand u (cluOf e) = none := (restoreInHand_congr hu).trans hnone
  change execRestoreDone e bistOk tiles s = _
  unfold execRestoreDone
  rw [if_pos ⟨he, hdead⟩, hp]
  dsimp only
  rw [ha]
  dsimp only
  rw [if_pos rfl, hend, restoreNext_none hn]

include he hdead hp ha ht hpair hnone hf

theorem restoreDone_unfit : ∃ t, exec (.restoreDone e false tiles) s = .next t ∧ (svcEng t e).st = 4 ∧ domStat t e = 0 ∧
    (p.tag, 0x19) ∈ t.mbx.cpl ∧ t.svc.acts = s.svc.acts.erase p := by
  obtain ⟨ho, hc⟩ := restoreFail_off (s := cntAdd (svcActs s (s.svc.acts.erase p)) 0xC01C 1) (status := 0x19) he hpair hf ht
  exact ⟨_, exec_restoreDone he hdead hp ha hnone ho.acts rfl, ho.st, ho.off, hc, ho.acts⟩

theorem restoreDone_unloaded {z : State} (hz : restoreLoad tiles [e] (svcActs s (s.svc.acts.erase p)) = (false, z)) :
    ∃ t, exec (.restoreDone e true tiles) s = .next t ∧ (svcEng t e).st = 4 ∧ domStat t e = 0 ∧
      (p.tag, 0xB) ∈ t.mbx.cpl ∧ t.svc.acts = s.svc.acts.erase p := by
  have hk := restoreLoad_serving tiles [e] (svcActs s (s.svc.acts.erase p))
  rw [hz] at hk
  have hzp : isPaired z = false := (congrArg (fun v : Svc => v.profile == 1) hk.svc).trans hpair
  have hzf : (trcGet z (cluOf e)).fifo = [] := (congrArg (fun x => (tblGet {} (cluOf e) x : Trc).fifo) hk.trc).trans hf
  obtain ⟨ho, hc⟩ := restoreFail_off (status := 0xB) he hzp hzf ht
  have hend : restoreEnd s p e false m true tiles = restoreFail z p.tag e 0xB := by
    unfold restoreEnd
    dsimp only
    rw [pairOf_one hpair, hz]
    rfl
  have hacts := ho.acts.trans (congrArg Svc.acts hk.svc)
  exact ⟨_, exec_restoreDone he hdead hp ha hnone hacts hend, ho.st, ho.off, hc, hacts⟩

omit hf in
theorem restoreDone_passed {z : State} (hz : restoreLoad tiles [e] (svcActs s (s.svc.acts.erase p)) = (true, z)) :
    ∃ t, exec (.restoreDone e true tiles) s = .next t ∧ (svcEng t e).st = 2 ∧ (p.tag, 0) ∈ t.mbx.cpl ∧
      t.svc.acts = s.svc.acts.erase p ∧ (engGet t e).imem = (engGet z e).imem := by
  have hk := restoreLoad_serving tiles [e] (svcActs s (s.svc.acts.erase p))
  rw [hz] at hk
  have hend : restoreEnd s p e false m true tiles = hmbComplete (cntAdd (restorePassed z e) 0xC008 1) p.tag 0 := by
    unfold restoreEnd
    dsimp only
    rw [pairOf_one hpair, hz]
    rfl
  obtain ⟨hza, hzs, hzi⟩ := restorePassed_rest (s := z) e
  generalize restorePassed z e = y at hend hza hzs hzi
  have hl := Logged.hmbComplete (cntAdd y 0xC008 1) p.tag 0
  have hacts : (hmbComplete (cntAdd y 0xC008 1) p.tag 0).svc.acts = s.svc.acts.erase p :=
    (congrArg Svc.acts hl.frame.svc).trans (hza.trans (congrArg Svc.acts hk.svc))
  exact ⟨_, exec_restoreDone he hdead hp ha hnone hacts hend, (congrArg SvcEng.st (svcEng_congr (congrArg Svc.eng hl.frame.svc) e)).trans hzs,
    hmbComplete_cpl ht, hacts, ((hl.woken e).memories.1).trans hzi⟩

end

/-- Settles O60: each end by its own lemma, the drain by where the sink of the trace stands. -/
theorem serviceEndsAndTrace : Obligations.ServiceEndsAndTrace := by
  intro s hdead
  refine ⟨fun c hp hc hf => mirrorFillDone_ready hdead hp hc hf, ?_, fun k hk hb hm hr hd => clusterFailDetect_retires hdead hk hb hm hr hd,
    fun p mask blocks hp ha ht => loadUbankDone_loaded hdead hp ha ht, ?_⟩
  · intro p e m tiles he hp ha ht hpair hnone hf
    exact ⟨restoreDone_unfit he hdead hp ha ht hpair hnone hf, fun z hz => restoreDone_unloaded he hdead hp ha ht hpair hnone hf hz,
      fun z hz => restoreDone_passed he hdead hp ha ht hpair hnone hz⟩
  · intro k r rest hk hd hf hl hsy hw
    refine ⟨fun hfree hbit => ?_, ?_, ?_⟩
    · have ht := trcDrain_buffer hf hl hsy hfree hbit
      refine ⟨_, exec_traceRecordDrain hk hd hw false ht rfl, trcGet_trcSet .., fun j hj => ?_, rfl, cntGet_cntAdd s (trcAdr k 0xC) 1⟩
      exact trcGet_trcSet_other (s := cntAdd s (trcAdr k 0xC) 1) hj _
    · intro hfree hbit a
      obtain ⟨b, hb⟩ : ∃ b, a = b := ⟨a, rfl⟩
      obtain ⟨hfi, hs, hm⟩ := trcDrain_dram hf hl hsy hfree hbit hb
      obtain ⟨hin, hout⟩ := dram_written hm
      rw [leBytes_length] at hin hout
      exact ⟨_, exec_traceRecordDrain hk hd hw false rfl hs, hfi, by rw [hb, hin], by rwa [hb]⟩
    · obtain ⟨hb, hm, hs, hc⟩ := trcDrain_parity hk hf
      exact ⟨_, exec_traceRecordDrain hk hd hw true rfl hs, hb, hm, hc⟩

end Sys2Proof.Machine
end
